-- ==== Sys2Proof/Word.lean ====
section
/-! DEFINITION. The word types of the PX9 (00_scope.md R2; 01_machine.md, "Register files and presence"). -/

namespace Sys2Proof

/-- One byte of memory. -/
abbrev Byte := BitVec 8

/-- A 32-bit instruction word (R36). -/
abbrev W32 := BitVec 32

/-- A g register's value, an address, a special register. -/
abbrev Word := BitVec 64

/-- A v register (2048 bits). -/
abbrev VWord := BitVec 2048

/-- An accumulator: 1,024 bytes (R145). -/
abbrev Acc := BitVec 8192

/-- A k register (256 bits). -/
abbrev KWord := BitVec 256

/-- The number of a g register. -/
abbrev Reg := BitVec 6

/-- The number of a v register. -/
abbrev VReg := BitVec 5

/-- The number of an accumulator. -/
abbrev AReg := BitVec 2

/-- The number of a k register. -/
abbrev KReg := BitVec 3

end Sys2Proof
end

