-- ==== Sys2Proof/Machine/Bits.lean ====
section
/-! DEFINITION. Bit fields, extension and byte order (00_scope.md R2, R3, R6). -/

namespace Sys2Proof

/-- x[n-1:0] sign-extended to 64 bits (R6). -/
def sextW {n : Nat} (x : BitVec n) : Word := x.signExtend 64

/-- x[n-1:0] zero-extended to 64 bits (R6). -/
def zextW {n : Nat} (x : BitVec n) : Word := x.setWidth 64

/-- sext(x, n): the low n bits of a word, sign-extended (R6). -/
def sextLow (x : Word) (n : Nat) : Word := (x.setWidth n).signExtend 64

/-- zext(x, n): the low n bits of a word, zero-extended (R6). -/
def zextLow (x : Word) (n : Nat) : Word := (x.setWidth n).setWidth 64

/-- The slice of len bits from bit lo up, as a number (R2). -/
def slice {n : Nat} (x : BitVec n) (lo len : Nat) : Nat := (x.toNat >>> lo) % 2 ^ len

/-- A one-bit slice (R2). -/
def bit {n : Nat} (x : BitVec n) (i : Nat) : Bool := x.getLsbD i

/-- Replaces len bits from bit lo up by the low bits of v. -/
def setSlice {n : Nat} (x : BitVec n) (lo len v : Nat) : BitVec n :=
  BitVec.ofNat n (x.toNat - (slice x lo len) * 2 ^ lo + (v % 2 ^ len) * 2 ^ lo)

/-- A Bool as a word: 1 or 0. -/
def ofBool (b : Bool) : Word := if b then 1 else 0

/-- The low n bytes of a value, least significant first (R3). -/
def toBytes : Nat → Nat → List Byte
  | 0, _ => []
  | n + 1, v => BitVec.ofNat 8 v :: toBytes n (v / 256)

/-- The value of bytes, the first the least significant (R3). -/
def ofBytes : List Byte → Nat
  | [] => 0
  | b :: bs => b.toNat + 256 * ofBytes bs

/-- A signed reading of the low w bits. -/
def asInt (w v : Nat) : Int := (BitVec.ofNat w v).toInt

/-- An integer as a pattern of w bits (two's complement, wrapping). -/
def ofInt (w : Nat) (i : Int) : Nat := (BitVec.ofInt w i).toNat

end Sys2Proof
end

