-- ==== Sys2Proof/Config.lean ====
section
/-! DEFINITION. What one machine fixes, and the free values: what the spec leaves open. A free value has no body,
so that no proof can see which value it is. -/

namespace Sys2Proof.Config

/-- Which of the possible moves comes next, by the counter (log 3). -/
opaque freeChoice : Nat → Nat

/-- The nanoseconds of device TIME that pass in a step (log 4). -/
opaque freeNs : Nat → Nat

/-- The core cycles that pass in a step, by the counter and the core (log 4). -/
opaque freeCycles : Nat → Nat → Nat

/-- How many words beyond the instruction at PC a slot has decoded ahead (log 7). -/
opaque freePrefetch : Nat → Nat → Nat

/-- Whether the quad instruction cache keeps the line it holds for an address (log 7). -/
opaque freeIcacheKeep : Nat → Nat → Bool

/-- Whether a TLB entry, by virtual address, has been replaced before this access (log 8). -/
opaque freeTlbEvict : Nat → Nat → Bool

/-- The free offset the core picks for a loose task's share, among those that fit (R186; log 3). -/
opaque freeShare : Nat → Nat

/-- The result an estimating function gives, by the function with its type and by the input bits: a fixed function
of its input on a given part (03_numbers.md, "Estimating functions"; log 9). -/
opaque freeEstimate : Nat → Nat → Nat

/-- The state of a settle unit, in hundredths of the lowest bit of its code, by the counter and the unit (log 10). -/
opaque freeSettle : Nat → Nat → Int

/-- Whether byte n of an operation that is not complete is new already (R213, R214, R228; log 14). -/
opaque freePartial : Nat → Nat → Bool

/-- The address of the capability list, as system software maps it for a context number (R333; log 2). -/
opaque freeCapl : Nat → Word

/-- The bytes of an attestation answer: certificates, digests of firmware and signatures (R332; log 17). -/
opaque freeSpdm : Nat → Nat → Byte

/-- SHA-384 (R331, R332; log 17). -/
opaque sha384 : List Byte → List Byte

/-- The bytes of boot flash slot A, as 0, and B, as 1, by the counter and the offset (R330; log 17). -/
opaque freeFlash : Nat → Nat → Nat → Byte

/-- Whether a signature of a message verifies under the public key whose digest the fuses hold: RSA-3072 PSS, and
SLH-DSA-SHA2-192s (R331; log 17). -/
opaque rsaVerifies : List Byte → List Byte → Bool
opaque slhVerifies : List Byte → List Byte → Bool

/-- The fused minimum of the security version (R331; log 17). -/
opaque minSvn : Nat

/-- Where in BAR0 the image-load window of recovery lies (R330; log 17). -/
opaque loadWindow : Nat

/-- Whether a thing whose occurrence the spec leaves to the part happens, by the counter and a code (log 3). -/
opaque freeFlag : Nat → Nat → Bool

/-- Which of its home die's two base dies serves a line (R200, R201; log 12). -/
opaque freeBase : Nat → Nat

/-- Where in its context's spill area a splice copy is written (R277; log 7). -/
opaque freeSpill : Nat → Nat

/-- Bytes that the host or a peer device has written in its own memory, by storage key (R312, R321; log 16). -/
opaque freeOutside : Nat → List (Nat × Byte)

/-- The lanes and the rate at which the host link trained (R312, R334; log 16). -/
opaque freeLanes : Nat
opaque freeRate : Nat

/-- What another device answers, by the counter (log 16). -/
opaque freeRemote : Nat → Word

/-- A link counter's count for the interval just ended, by the counter and its place in the snapshot (R370; log 22). -/
opaque freeFlits : Nat → Nat → Nat

end Sys2Proof.Config
end

