-- ==== Sys2Proof/Syntax.lean ====
section
/-! DEFINITION. The instructions and events of the PX9: one constructor for every row of
spec/opcode_table.json. The operand structures follow the forms of 02_encoding.md and of the class chapters;
the operands of the events are what the event's rule says it is about. -/

namespace Sys2Proof

/-! ## Code fields (R53 to R55) -/

/-- The element types of the ty field that an instruction may name (R53). -/
inductive Ty where
  | fp64 | fp32 | bf16 | fp16 | e4m3 | e5m2 | i64 | i32 | i16 | i8
  deriving DecidableEq, Repr, Inhabited

/-- Rounding modes of the rm field (R54). -/
inductive Rm where
  | rne | rtz | rdn | rup | rna | rsr | dyn
  deriving DecidableEq, Repr, Inhabited

/-- The ordering scopes an instruction may name (R55, R209); `dflt` is code 0. -/
inductive Scope where
  | dflt | task | core | quad | clu | die | dev | peer | fab | host | sys | dur
  deriving DecidableEq, Repr, Inhabited

/-- Cache hints (R48). -/
inductive Hint where
  | normal | ef | kp | na
  deriving DecidableEq, Repr, Inhabited

/-- Input formats of MMA, carried in f (R136). -/
inductive MmaFmt where
  | bf16 | fp16 | e4m3 | e5m2 | i8 | fp32 | fp64
  deriving DecidableEq, Repr, Inhabited

/-- The type of an accumulator load or store (R146). -/
inductive AccTy where
  | fp64 | fp32 | i32
  deriving DecidableEq, Repr, Inhabited

/-- The four presence states; code 11 is never held (R20). -/
inductive Presence where
  | empty | full | poison
  deriving DecidableEq, Repr, Inhabited

/-! ## Operand forms of the instructions -/

/-- A g source of an extended form with its presence mode: `trap` is its pm bit (R46). -/
structure Src where
  reg  : Reg
  trap : Bool
  deriving DecidableEq, Repr, Inhabited

/-- A destination: the slot's own g register, or g(32 + n) of the thread named by g(e) (R47). -/
inductive Dst where
  | loc (d : Reg)
  | rem (n : BitVec 5) (e : Src)
  deriving DecidableEq, Repr, Inhabited

/-- The second operand of XINT (R87): g(b), sext(imm32) or the 64-bit literal. -/
inductive YOp where
  | reg (b : Src)
  | imm (i : W32)
  | lit (l : Word)
  deriving DecidableEq, Repr, Inhabited

/-- Functions 0 to 26 of XINT (R87, R88). -/
structure XInt where
  dst : Dst
  a   : Src
  y   : YOp
  deriving DecidableEq, Repr, Inhabited

/-- SEL (R91). -/
structure XSel where
  dst : Dst
  a   : Src
  y   : YOp
  c   : Src
  deriving DecidableEq, Repr, Inhabited

/-- BFX and BFI share the field position; `b` and `sx` belong to one of them each (R92). -/
structure XBfx where
  dst    : Dst
  a      : Src
  pos    : BitVec 6
  width1 : BitVec 6
  sx     : Bool
  deriving DecidableEq, Repr, Inhabited

structure XBfi where
  dst    : Dst
  a      : Src
  b      : Src
  pos    : BitVec 6
  width1 : BitVec 6
  deriving DecidableEq, Repr, Inhabited

/-- The address g(a) + (g(b) << shift) + sext(off, 32) of XMEM (R103). -/
structure XAddr where
  a     : Src
  b     : Src
  shift : BitVec 2
  off   : W32
  deriving DecidableEq, Repr, Inhabited

/-- An XMEM load (R103). -/
structure XLoad where
  dst  : Dst
  addr : XAddr
  aq   : Bool
  sc   : Scope
  hint : Hint
  deriving DecidableEq, Repr, Inhabited

/-- An XMEM store; `d` is the data source (R103). -/
structure XStore where
  d    : Reg
  addr : XAddr
  rl   : Bool
  sc   : Scope
  hint : Hint
  deriving DecidableEq, Repr, Inhabited

/-- The mask of a vector instruction: q[3], q[4] and q[2:0] (R48, R117). -/
structure VMask where
  en : Bool
  z  : Bool
  k  : KReg
  deriving DecidableEq, Repr, Inhabited

/-- A two-source VARITH function (R121). -/
structure V2 where
  d  : VReg
  a  : VReg
  b  : VReg
  ty : Ty
  rm : Rm
  m  : VMask
  deriving DecidableEq, Repr, Inhabited

/-- A one-source VARITH function or a VRED function (R121). -/
structure V1 where
  d  : VReg
  a  : VReg
  ty : Ty
  rm : Rm
  m  : VMask
  deriving DecidableEq, Repr, Inhabited

/-- VFMA, VFMS, VFNMA (R121). -/
structure V3 where
  d  : VReg
  a  : VReg
  b  : VReg
  c  : VReg
  ty : Ty
  rm : Rm
  m  : VMask
  deriving DecidableEq, Repr, Inhabited

/-- VSEL: the selector is k(c) (R122). -/
structure VSelOp where
  d  : VReg
  a  : VReg
  b  : VReg
  c  : KReg
  ty : Ty
  m  : VMask
  deriving DecidableEq, Repr, Inhabited

/-- VCMP (R124). -/
structure VCmpOp where
  d  : KReg
  a  : VReg
  b  : VReg
  ty : Ty
  m  : VMask
  deriving DecidableEq, Repr, Inhabited

/-- VCVT: destination type in f, source type in ty (R126). -/
structure VCvtOp where
  d    : VReg
  a    : VReg
  dty  : Ty
  sty  : Ty
  sat  : Bool
  rm   : Rm
  part : BitVec 3
  m    : VMask
  deriving DecidableEq, Repr, Inhabited

/-- VPERM (R129). -/
structure VPermOp where
  d  : VReg
  a  : VReg
  b  : VReg
  ty : Ty
  m  : VMask
  deriving DecidableEq, Repr, Inhabited

/-- VSLIDE by `s` lanes (R129). -/
structure VSlideOp where
  d  : VReg
  a  : VReg
  b  : VReg
  s  : BitVec 9
  ty : Ty
  m  : VMask
  deriving DecidableEq, Repr, Inhabited

/-- VBCAST (R130). -/
structure VBcastOp where
  d  : VReg
  a  : Src
  ty : Ty
  m  : VMask
  deriving DecidableEq, Repr, Inhabited

/-- VEXTR (R130). -/
structure VExtrOp where
  d   : Reg
  a   : VReg
  b   : Src
  idx : W32
  ty  : Ty
  deriving DecidableEq, Repr, Inhabited

/-- VINS (R130). -/
structure VInsOp where
  d   : VReg
  a   : Src
  b   : Src
  idx : W32
  ty  : Ty
  deriving DecidableEq, Repr, Inhabited

/-- VIOTA (R129). -/
structure VIotaOp where
  d  : VReg
  ty : Ty
  m  : VMask
  deriving DecidableEq, Repr, Inhabited

/-- VLD, VST, VLDB (R131). -/
structure VMem1 where
  d    : VReg
  a    : Src
  off  : W32
  ty   : Ty
  hint : Hint
  m    : VMask
  deriving DecidableEq, Repr, Inhabited

/-- VLDS, VSTS: stride g(b) (R131). -/
structure VMem2 where
  d    : VReg
  a    : Src
  b    : Src
  off  : W32
  ty   : Ty
  hint : Hint
  m    : VMask
  deriving DecidableEq, Repr, Inhabited

/-- VGATH, VSCAT: index v(b) (R131). -/
structure VMemX where
  d    : VReg
  a    : Src
  b    : VReg
  off  : W32
  ty   : Ty
  hint : Hint
  m    : VMask
  deriving DecidableEq, Repr, Inhabited

/-- An operand of MMA: a group of v registers, or a two-register QLM descriptor (R137). -/
inductive MOp where
  | reg (v : VReg)
  | qlm (n : Src)
  deriving DecidableEq, Repr, Inhabited

/-- MMA (R140). -/
structure MmaOp where
  f   : MmaFmt
  d   : AReg
  a   : MOp
  b   : MOp
  clr : Bool
  deriving DecidableEq, Repr, Inhabited

/-- ALD and AST (R146). -/
structure AccMem where
  d    : AReg
  a    : Src
  ty   : AccTy
  hint : Hint
  off  : W32
  deriving DecidableEq, Repr, Inhabited

/-- The two directions of AMOV (R150). -/
inductive AMovOp where
  | toV (d : VReg) (a : AReg) (p : BitVec 2)
  | toA (d : AReg) (a : VReg) (p : BitVec 2)
  deriving DecidableEq, Repr, Inhabited

/-- GGMASK (R152). -/
structure GgMaskOp where
  d    : KReg
  a    : Src
  b    : Src
  cl   : BitVec 4
  row0 : BitVec 8
  col0 : BitVec 8
  deriving DecidableEq, Repr, Inhabited

/-- An AMO other than CAS (R215). -/
structure AmoOp where
  dst  : Dst
  a    : Src
  b    : Src
  off  : W32
  ty   : Ty
  rm   : Rm
  aq   : Bool
  rl   : Bool
  sc   : Scope
  hint : Hint
  deriving DecidableEq, Repr, Inhabited

/-- AMO.CAS: the expected value is g(c) (R215). -/
structure CasOp where
  dst  : Dst
  a    : Src
  b    : Src
  c    : Src
  off  : W32
  ty   : Ty
  aq   : Bool
  rl   : Bool
  sc   : Scope
  hint : Hint
  deriving DecidableEq, Repr, Inhabited

/-- The item of SSEND, or the receiver of SRECV and SPOLL (R251): a g register or a v register. -/
inductive SendItem where
  | g (b : Src)
  | v (c : VReg)
  deriving DecidableEq, Repr, Inhabited

/-- The item destination of SRECV and SPOLL: g(d + 1), or v(c) (R251). -/
inductive RecvItem where
  | g
  | v (c : VReg)
  deriving DecidableEq, Repr, Inhabited

/-! ## Operands of the events

A *thread* is named by the low 16 bits of its thread address (R18) and, where the message is meant for one
task, by the number `uid` that the model gives each task when it starts. -/

/-- The task a delivery is meant for (R19, R34). -/
structure Target where
  ta  : Nat
  uid : Nat
  deriving DecidableEq, Repr, Inhabited

/-- A remote write on its way to a receive queue (R23, R188). -/
structure RemWrite where
  sender : Word
  ctx    : Nat
  ta     : Nat
  reg    : BitVec 5
  value  : Word
  pois   : Bool
  deriving DecidableEq, Repr, Inhabited

/-- Where the old value of an atomic goes (R216). -/
inductive AmoDest where
  | none
  | loc (d : Reg)
  | rem (thread : Nat) (n : BitVec 5)
  deriving DecidableEq, Repr, Inhabited

/-- The functions of AMO, by f (R216). -/
inductive AmoFn where
  | swap | cas | add | and | or | xor | min | max | minu | maxu | fadd | fmin | fmax
  deriving DecidableEq, Repr, Inhabited

/-- An atomic on its way to the location's home (R216, R219). `key` is the global storage address. -/
structure AmoReq where
  req   : Target
  ctx   : Nat
  dest  : AmoDest
  fn    : AmoFn
  ty    : Ty
  rm    : Rm
  key   : Nat
  x     : Word
  y     : Word
  deriving DecidableEq, Repr, Inhabited

/-- A deferred kind-3 DONE push (R176). -/
structure EdgePush where
  ctx   : Nat
  edge  : Word
  item  : Word
  token : Bool
  graph : W32
  core  : Nat
  deriving DecidableEq, Repr, Inhabited

/-- One member's contribution to a collective operation: its elements as bit patterns (R244). -/
structure CollPart where
  ctx    : Nat
  grp    : Nat
  op     : Nat
  member : Nat
  data   : List Nat
  pois   : List Nat
  sty    : Nat
  point  : Nat
  deriving DecidableEq, Repr, Inhabited

/-- What is known of an error when it is detected (R373): `granule` names a storage granule to poison,
`urgent` says which unit's control state was touched (R375). -/
structure ErrReport where
  cls     : Nat
  cause   : Nat
  ukind   : Nat
  uidx    : Nat
  die     : Nat
  vquad   : Nat
  addr    : Word
  taddr   : Word
  granule : Option Nat
  /-- the duties in force when the error was raised, D0 to D3 (R324) -/
  mode    : BitVec 4
  deriving DecidableEq, Repr, Inhabited

/-- A trace record before TIME is added (R365). -/
structure TraceRec where
  kind  : Nat
  ctx   : Nat
  tag   : Nat
  aux   : W32
  taddr : Word
  entry : Word
  deriving DecidableEq, Repr, Inhabited

/-- A fault packet (R335). -/
structure Packet where
  taddr  : Word := 0
  pc     : Word := 0
  faddr  : Word := 0
  taskid : Word := 0
  fcode  : Nat := 0
  inspl  : Bool := false
  splw   : Bool := false
  park   : Bool := false
  ilen   : Nat := 0
  rpqe   : Nat := 0
  ctxn   : Nat := 0
  instr  : List W32 := []
  deriving DecidableEq, Repr, Inhabited

/-- A strand item on its way: a sequence number, its bytes and whether it carries an end (R254, R257). -/
structure StrandItem where
  seq   : Nat
  item  : VWord
  isEnd : Bool
  pois  : Bool
  deriving DecidableEq, Repr, Inhabited

/-! ## Instructions -/

/-- One constructor for every row of spec/opcode_table.json: the extended functions, the machine's events and host
operations, the native words, the splice word and the fate of a word that is no instruction. -/
inductive Instr where
  -- XINT (R87 to R94)
  | addX (o : XInt) | subX (o : XInt) | mulX (o : XInt) | mulhX (o : XInt) | mulhuX (o : XInt)
  | divX (o : XInt) | divuX (o : XInt) | remX (o : XInt) | remuX (o : XInt)
  | andX (o : XInt) | orX (o : XInt) | xorX (o : XInt) | andnX (o : XInt)
  | shlX (o : XInt) | shrX (o : XInt) | sraX (o : XInt) | rolX (o : XInt)
  | minX (o : XInt) | maxX (o : XInt) | minuX (o : XInt) | maxuX (o : XInt)
  | cmpEqX (o : XInt) | cmpNeX (o : XInt) | cmpLtX (o : XInt) | cmpLtuX (o : XInt)
  | cmpGeX (o : XInt) | cmpGeuX (o : XInt)
  | sel (o : XSel) | bfx (o : XBfx) | bfi (o : XBfi) | addpc (dst : Dst) (off : W32) | li (dst : Dst) (y : YOp)
  -- XMEM (R103, R108)
  | ldBX (o : XLoad) | ldHX (o : XLoad) | ldWX (o : XLoad) | ldDX (o : XLoad)
  | ldsBX (o : XLoad) | ldsHX (o : XLoad) | ldsWX (o : XLoad)
  | stBX (o : XStore) | stHX (o : XStore) | stWX (o : XStore) | stDX (o : XStore)
  | pref (addr : XAddr) (hint : Hint)
  -- Presence (R99, R100)
  | put (n : BitVec 5) (a e : Src) | pset (d : Reg) (p : Presence)
  -- XBR (R109, R110)
  | beqX (a b : Src) (off : W32) | bneX (a b : Src) (off : W32) | bltX (a b : Src) (off : W32)
  | bltuX (a b : Src) (off : W32) | bgeX (a b : Src) (off : W32) | bgeuX (a b : Src) (off : W32)
  | bX (off : W32) | callX (off : W32)
  -- VARITH (R122)
  | vaddX (o : V2) | vsubX (o : V2) | vmulX (o : V2) | vdiv (o : V2) | vminX (o : V2) | vmaxX (o : V2)
  | vabs (o : V1) | vneg (o : V1) | vsqrt (o : V1)
  | vfma (o : V3) | vfms (o : V3) | vfnma (o : V3)
  | vrcp (o : V1) | vrsq (o : V1) | vexp2 (o : V1) | vlog2 (o : V1)
  | vsel (o : VSelOp) | vshl (o : V2) | vshr (o : V2) | vsra (o : V2)
  | vandX (o : V2) | vorX (o : V2) | vxorX (o : V2) | vmulh (o : V2)
  -- VCMP (R125)
  | vcmpEq (o : VCmpOp) | vcmpNe (o : VCmpOp) | vcmpLt (o : VCmpOp) | vcmpLe (o : VCmpOp)
  | vcmpGt (o : VCmpOp) | vcmpGe (o : VCmpOp) | vcmpUn (o : VCmpOp) | vcmpLtu (o : VCmpOp)
  -- VCVT, VRED (R126 to R128)
  | vcvt (o : VCvtOp)
  | vredAdd (o : V1) | vredMax (o : V1) | vredMin (o : V1) | vredAnd (o : V1) | vredOr (o : V1)
  -- VPERM (R129, R130)
  | vperm (o : VPermOp) | vbcast (o : VBcastOp) | vextr (o : VExtrOp) | vins (o : VInsOp)
  | vslide (o : VSlideOp) | viota (o : VIotaOp)
  -- VMEM (R131)
  | vld (o : VMem1) | vst (o : VMem1) | vlds (o : VMem2) | vsts (o : VMem2)
  | vgath (o : VMemX) | vscat (o : VMemX) | vldb (o : VMem1)
  -- KOP (R135)
  | kand (d a b : KReg) | kor (d a b : KReg) | kxor (d a b : KReg) | knot (d a : KReg)
  | kset (d : KReg) (a : Src) (count : W32) | kget (d : Reg) (a : KReg) (j : BitVec 2)
  | kpopc (d : Reg) (a : KReg) | kfirst (d : Reg) (a : KReg)
  -- MMA, ACC, GG (R140, R146, R152)
  | mma (o : MmaOp)
  | aclr (d : AReg) | ald (o : AccMem) | ast (o : AccMem) | amov (o : AMovOp)
  | ggset (a : Src) (field : BitVec 3) | ggrng (d : Reg) (a : Src) (axis : Bool) | ggmask (o : GgMaskOp)
  -- TASK (R163)
  | spawn (d : Reg) (a : Src) | spawnr (d : Reg) (a b : Src) | gang (d : Reg) (a : Src)
  | depset (d : Reg) (a b : Src) | depdec (a : Src) (n : BitVec 16)
  | epush (a b : Src) | epop (d : Reg) (a : Src) | cancel (d : Reg) (a : Src) (prop : Bool)
  -- BAR (R180)
  | barinit (s : BitVec 3) (a b : Src) | bararv (s : BitVec 3) | barwait (d : Reg) (s : BitVec 3) (t : Bool)
  | barsync (d : Reg) (s : BitVec 3) (t : Bool) | barack (s : BitVec 3) (a : Src) | barpois (s : BitVec 3)
  | barstat (d : Reg) (s : BitVec 3)
  -- L2C (R194)
  | l2pin (d : Reg) (a b : Src) (w : BitVec 4) | l2unpin (d : Reg) (a : Src)
  | l2stat (d : Reg) (a : Src) (clr : Bool) | l2flush (d : Reg) (a b : Src)
  -- AMO (R215)
  | amoSwap (o : AmoOp) | amoCas (o : CasOp) | amoAdd (o : AmoOp) | amoAnd (o : AmoOp) | amoOr (o : AmoOp)
  | amoXor (o : AmoOp) | amoMin (o : AmoOp) | amoMax (o : AmoOp) | amoMinu (o : AmoOp) | amoMaxu (o : AmoOp)
  | amoFadd (o : AmoOp) | amoFmin (o : AmoOp) | amoFmax (o : AmoOp)
  -- FENCE, AM (R220, R224)
  | fence (sc : Scope) | ifence | drain
  | sendam (a b c e : Src) (imm : W32)
  -- COPY, TAGS, COLL (R231, R239, R243)
  | cpset (idx : BitVec 3) (a : Src) | cpgo (d : Reg) | cpstat (d : Reg) (a : Src) | cpabort (d : Reg) (a : Src)
  | waitany (d : Reg) (a : Src) (c : Bool) | waitall (d : Reg) (a : Src) (c : Bool) | ffrdy (d : Reg) (a : Src)
  | tagclr (a : Src) | tagget (d : Reg) (t : BitVec 6)
  | creduce (d : Reg) (a : Src) | callred (d : Reg) (a : Src) | cbcast (d : Reg) (a : Src)
  | cgather (d : Reg) (a : Src)
  -- STR (R251)
  | sopen (d : Reg) (a : Src) (s : BitVec 3) (l : BitVec 4) | ssend (d : Reg) (a : Src) (item : SendItem)
  | srecv (d : Reg) (a : Src) (item : RecvItem) | spoll (d : Reg) (a : Src) (item : RecvItem)
  | spass (d : Reg) (a b : Src) | saccept (d : Reg) (a b : Src) | sclose (a : Src) | sstat (d : Reg) (a : Src)
  | swatch (a : Src) (t : BitVec 6) | sflush (d : Reg) (a : Src)
  -- SF (R297)
  | sfcfg (d : Reg) (a b : Src) | sfscl (d : Reg) (a b : Src) (e : BitVec 6)
  | sfbias (d : Reg) (a b : Src) (i16 : Bool) (s : BitVec 7) | sfseed (d : Reg) (a b : Src)
  | sfrun (d : Reg) (a : Src) | sfwait (d : Reg) (a : Src) (t : Bool) | sfsmp (d : Reg) (a b : Src) (fp32 : Bool)
  | sfhalt (d : Reg) (a : Src) | sfstat (d : Reg) (a : Src) | sfdln (d : Reg) (a b c : Src)
  | sfacpt (d : Reg) (a b : Src) | sfrel (d : Reg) (a : Src)
  -- SPL, SYS, PMC (R273, R342, R354)
  | splload (a : Src) | splget (d : Reg) (a : Src)
  | trap (imm : W32) | rdsr (d : Reg) (idx : BitVec 6) | wrsr (idx : BitVec 6) (a : Src)
  | pair (d : Reg) | unpair (d : Reg)
  | pmcfg (d : Reg) (n : BitVec 2) (a : Src) | pmrd (d : Reg) (n : BitVec 2) | mark (a : Src) (imm : W32)
  -- events: the machine's own, the host's and other devices' (below)
  -- arrivals (R22, R23, R104, R105, R216)
  | loadDataArrival (t : Target) (d : Reg) (value : Word) (pois : Bool)
  | storeAck (t : Target) | parkedStoreRetranslate (core : Nat) (entry : Nat)
  | remoteWriteArrival (w : RemWrite)
  | atomicAtHome (r : AmoReq) | atomicReturn (r : AmoReq) (old : Word) (pois : Bool)
  -- handler activations and receive queues (R33, R226, R341)
  | activationRedelivery (core : Nat) | rxfull (core : Nat)
  -- a deferred push (R176), barriers, engines (R181, R234 to R245)
  | edgeDeferredPush (p : EdgePush)
  | barrierArrival (ctx : Nat) (uid : Nat) (slot : Nat) (rank : Nat) (phase : Bool)
  | barrierAck (ctx : Nat) (uid : Nat) (slot : Nat)
  | copyExecute (engine : Nat) | copyCompletion (id : W32)
  | collectiveCommit (ctx : Nat) (grp : Nat) (op : Nat) (outside : List CollPart) | collectiveAbort (ctx : Nat) (grp : Nat) (op : Nat)
  | collectiveWatchdog (ctx : Nat) (grp : Nat) (op : Nat)
  -- settle fabric (R286 to R288, R298, R305)
  | sfReply (t : Target) (d : Reg) (value : Word) (pois : Bool) (smp : Option (Nat × Nat))
  | settleSaturation (ctx : Nat) (region : Nat) (states : List Int)
  | settleCertify (ctx : Nat) (region : Nat) (states : List Int)
  | settleTimeout (ctx : Nat) (region : Nat) (states : List Int)
  | settleConfigError (ctx : Nat) (region : Nat) (blk : Nat)
  -- strands (R254 to R262)
  | strandItemArrival (ctx : Nat) (entry : Nat) (it : StrandItem) | strandCreditReturn (ctx : Nat) (entry : Nat)
  | strandMoveRequest (ctx : Nat) (entry : Nat) (sink : Bool) | strandStopperArrival (ctx : Nat) (entry : Nat)
  | strandRouteSwitch (ctx : Nat) (entry : Nat) | strandFray (ctx : Nat) (entry : Nat)
  -- records for the host side, launches, retirement (R318, R365, R391)
  | traceRecord (r : TraceRec) (time : Nat) | launchItemSend (win : Nat) | launchItemAccept (win : Nat) | retireGo (base : Nat) | retireSwitch (base : Nat)
  -- supervisor and RAS (R338, R373 to R391)
  | faultService (p : Packet) | errorDetected (e : ErrReport) | lashedExchange (ta : Nat)
  | thermalMove (die : Nat) (vquad : Nat) (target : Nat) | thermalEmergency | thermalResume
  | quadPowerGate (die : Nat) (pquad : Nat) | quadWakeTest (die : Nat) (pquad : Nat) (failing : List Nat)
  | controlInterval (canaries : List Nat) | railDroop (die : Nat) (row : Nat)
  | marginError (die : Nat) (row : Nat) (granule : Nat) | histogramDecay
  | deviceLostTimeout (dev : Nat)
  -- host side (R312 to R332)
  | hostMemAccess (write : Bool) (pa : Word) (bytes : List Byte) | spdmRequest (code : Nat) | powerOnReset
  | linkGridSnapshot
  | replayRunGo | replayPassComplete | replayEnforceTimeout (key : Nat)
  | svcCreditWrite (total : Word)
  -- scheduling, walks and handlers (R33, R169 to R173, R238, R294, R296, R320, R345)
  | handlerActivationStart (core : Nat) | taskStart (core : Nat) | taskSteal (core : Nat) (victim : Nat) | gangPlace (die : Nat)
  | gangAgingReserve (die : Nat) | unitResume (ctx : Nat) (rec : Word) | budgetExpiry (ta : Nat) | deadlineFire (ta : Nat)
  | deadlineDiversion (ta : Nat) | copyTrap (ta : Nat) | pageWalk (ctx : Nat) (va : Word)
  -- commands (R313, R349)
  | ctxCreate | ctxKill | inval | launchOpen | launchClose | svcRing | duty | devLost | lyongSetup
  | strandWire | strandFree | quiesce | imageWrite | imageRestore | unquiesce | preempt | thaw | dbgMap
  | unknownCommand
  -- outcomes (R337)
  | resume (ta : Nat) | skip (ta : Nat) | goto (ta : Nat) | fcont (ta : Nat) | killt (ta : Nat)
  | killg (ta : Nat) | killc (ta : Nat) | replay (ta : Nat) | abandon (ta : Nat) | grow (ta : Nat)
  | fbclr (ta : Nat)
  -- registers of the management space (R8, R200, R364, R386)
  | traceEnable | traceClear | traceResume
  | railPowerWrite (die : Nat) (row : Nat) (value : Word) | formatRegionWrite (f : Nat)
  | registerWrite (addr : Word) (n : Nat) (value : Word)
  | peerMemAccess (dev : Nat) (write : Bool) (pa : Word) (bytes : List Byte)
  | lyongPortTraining (port : Nat) (up : Bool) | traceTailWrite (value : Word) | launchItemApproval (win : Nat) (ok : Bool)
  -- native INT3, major 0x01 (R88)
  | add (d a b : Reg) | sub (d a b : Reg) | mul (d a b : Reg) | mulh (d a b : Reg) | mulhu (d a b : Reg)
  | div (d a b : Reg) | divu (d a b : Reg) | rem (d a b : Reg) | remu (d a b : Reg)
  | and (d a b : Reg) | or (d a b : Reg) | xor (d a b : Reg) | andn (d a b : Reg)
  | shl (d a b : Reg) | shr (d a b : Reg) | sra (d a b : Reg) | rol (d a b : Reg)
  | min (d a b : Reg) | max (d a b : Reg) | minu (d a b : Reg) | maxu (d a b : Reg)
  | cmpEq (d a b : Reg) | cmpNe (d a b : Reg) | cmpLt (d a b : Reg) | cmpLtu (d a b : Reg)
  | cmpGe (d a b : Reg) | cmpGeu (d a b : Reg)
  -- native INT1, major 0x02 (R95)
  | mov (d a : Reg) | clz (d a : Reg) | ctz (d a : Reg) | popc (d a : Reg)
  | sextB (d a : Reg) | sextH (d a : Reg) | sextW (d a : Reg)
  | zextB (d a : Reg) | zextH (d a : Reg) | zextW (d a : Reg)
  | not (d a : Reg) | brev (d a : Reg) | take (d a : Reg) | ptest (d a : Reg) | pempty (a : Reg)
  -- native immediates, majors 0x03 to 0x0C (R90)
  | addi (d a : Reg) (i : BitVec 11) | andi (d a : Reg) (i : BitVec 11) | ori (d a : Reg) (i : BitVec 11)
  | xori (d a : Reg) (i : BitVec 11) | shli (d a : Reg) (i : BitVec 11) | shri (d a : Reg) (i : BitVec 11)
  | srai (d a : Reg) (i : BitVec 11) | cmpiEq (d a : Reg) (i : BitVec 11) | cmpiLt (d a : Reg) (i : BitVec 11)
  | cmpiLtu (d a : Reg) (i : BitVec 11)
  -- native loads and stores, majors 0x10 to 0x1B (R102)
  | ldB (d a : Reg) (i : BitVec 11) | ldH (d a : Reg) (i : BitVec 11) | ldW (d a : Reg) (i : BitVec 11)
  | ldD (d a : Reg) (i : BitVec 11) | ldsB (d a : Reg) (i : BitVec 11) | ldsH (d a : Reg) (i : BitVec 11)
  | ldsW (d a : Reg) (i : BitVec 11)
  | stB (d a : Reg) (i : BitVec 11) | stH (d a : Reg) (i : BitVec 11) | stW (d a : Reg) (i : BitVec 11)
  | stD (d a : Reg) (i : BitVec 11)
  -- native control, majors 0x20 to 0x2A (R109 to R113)
  | beq (a b : Reg) (off : BitVec 11) | bne (a b : Reg) (off : BitVec 11) | blt (a b : Reg) (off : BitVec 11)
  | bltu (a b : Reg) (off : BitVec 11) | bge (a b : Reg) (off : BitVec 11) | bgeu (a b : Reg) (off : BitVec 11)
  | br (off : BitVec 23) | call (off : BitVec 23) | jr (d a : Reg) | dbnz (a : Reg) (off : BitVec 11) | endTask
  -- native vectors, majors 0x30 to 0x37 (R120)
  | vadd (d a b : VReg) (ty : Ty) | vsub (d a b : VReg) (ty : Ty) | vmul (d a b : VReg) (ty : Ty)
  | vmin (d a b : VReg) (ty : Ty) | vmax (d a b : VReg) (ty : Ty) | vand (d a b : VReg) (ty : Ty)
  | vor (d a b : VReg) (ty : Ty) | vxor (d a b : VReg) (ty : Ty)
  -- splice words and words that are no instruction (R51, R58)
  | spliceWord (idx : BitVec 7) (ha hb hc : BitVec 6) (hd : BitVec 5)
  | illegalWord
  deriving DecidableEq, Repr, Inhabited

end Sys2Proof
end

