-- ==== Sys2Proof/Machine/State.lean ====
section
/-! DEFINITION. The state of a PX9 as plain data, and the state after reset. INVENTORY.md lists every field with
the rule of spec/ that names it. -/

namespace Sys2Proof.Machine

/-- A table of values by key. A key that is not listed has the table's default. -/
abbrev Store (α : Type) := List (Nat × α)

/-! ## Records of the scheduler (07_tasks.md) -/

/-- A task record or a gang's template (R158). -/
structure TaskRec where
  pc      : Word := 0
  arg     : Word := 0
  tx      : Nat := 0
  ty      : Nat := 0
  prio    : Nat := 0
  lash    : Bool := false
  spt     : Word := 0
  budget  : Nat := 0
  deps    : Nat := 0
  dkind   : Nat := 0
  dtarget : Nat := 0
  graph   : Nat := 0
  fcont   : Word := 0
  deriving DecidableEq, Repr, Inhabited

/-- The header of a gang record (R160). -/
structure GangRec where
  w     : Nat := 1
  h     : Nat := 1
  s     : Nat := 1
  fuse  : Bool := false
  lash  : Bool := false
  qlm   : Nat := 0
  bars  : Nat := 0
  geo0  : Word := 0
  geo1  : Word := 0
  deriving DecidableEq, Repr, Inhabited

/-- An accepted record that has not started: in the ready table, on a deque or an overflow list, or at a placer
(R165 to R173). -/
structure Work where
  ctx   : Nat
  addr  : Word
  gang  : Option GangRec := none
  task  : TaskRec := {}
  /-- the signed count (R172) -/
  count : Int := 0
  /-- an error token has marked it (R176) -/
  token : Bool := false
  /-- the core whose deque it goes to when a SPAWNR named one; for a gang, its die (R165, R166) -/
  home  : Nat := 0
  fixed : Bool := false
  /-- device TIME at which it reached its placer (R171) -/
  since : Nat := 0
  /-- accepted by the replay controller (R359) -/
  replay : Bool := false
  deriving DecidableEq, Repr, Inhabited

/-- Decrements that arrived before their record (R172), and the graphs whose error tokens they carry (R176). -/
structure Credit where
  ctx   : Nat
  addr  : Word
  n     : Nat
  marks : List Nat
  deriving DecidableEq, Repr, Inhabited

/-- A barrier slot of a placed gang (R181). -/
structure BarSlot where
  memb  : BitVec 128 := 0
  arr   : BitVec 128 := 0
  ph    : Bool := false
  ackx  : Nat := 0
  ackn  : Nat := 0
  pois  : Bool := false
  cause : Nat := 0
  /-- ranks that wait in BARWAIT or BARSYNC; one that has been released has its status -/
  waits : List (Nat × Option Nat) := []
  deriving DecidableEq, Repr, Inhabited

/-- One task of a placed unit: its rank, where it runs and its number. -/
structure Member where
  rank  : Nat
  ta    : Nat
  uid   : Nat
  ended : Bool := false
  deriving DecidableEq, Repr, Inhabited

/-- A unit that holds slots: a gang, or a loose task (R157, R170, R344 to R347). -/
structure UnitSt where
  ctx     : Nat
  addr    : Word
  gang    : Option GangRec := none
  task    : TaskRec := {}
  die     : Nat := 0
  /-- the virtual quad of the rectangle's origin, or of the loose task -/
  origin  : Nat := 0
  qlmOff  : Nat := 0
  qlmLen  : Nat := 0
  members : List Member := []
  bars    : List BarSlot := []
  /-- a task of it was killed (R176) -/
  killed  : Bool := false
  /-- a standing pre-emption request: its save area, and whether the unit may not move (R344, R347) -/
  preempt : Option (Nat × Bool) := none
  /-- force-stopped or quiesced, waiting to resume (R345) -/
  stopped : Bool := false
  /-- where the unit is saved, and whether it must resume in place (R346) -/
  save    : Option (Nat × Bool) := none
  /-- its areas in QLM have been copied to the save area (R346) -/
  saved   : Bool := false
  /-- device TIME of its force-stop: it waits at its die's placer since then (R345) -/
  since   : Nat := 0
  /-- the unit that the replay controller runs (R359) -/
  replay  : Bool := false
  deriving DecidableEq, Repr, Inhabited

/-! ## The slot -/

/-- STATE of the debug window (R336). -/
inductive SlotSt where
  | idle | running | frozen | saved
  deriving DecidableEq, Repr, Inhabited

/-- A g register: value, presence, and whether an arrival is pending (R20, R22). -/
structure GReg where
  val  : Word := 0
  pres : Presence := .empty
  pend : Bool := false
  deriving DecidableEq, Repr, Inhabited

/-- An entry of the fetch buffer: address and words as decoded, and for a splice word the table entry it expands by:
none where no table was loaded (R272, R276, R336). -/
structure FbEntry where
  pc    : Word
  words : List W32
  entry : Option (BitVec 128)
  /-- events of its fetch, counted when it issues (R353, R356) -/
  evs   : List (Nat × Nat) := []
  deriving DecidableEq, Repr, Inhabited

/-- A store held by a lashed pair until its fingerprints agree (R378). -/
structure HeldStore where
  key   : Nat
  bytes : List Byte
  deriving DecidableEq, Repr, Inhabited

/-- A message entry of a receive queue (R188): `more` holds the further entries' words, `pos` the first entry's
place, `amo` the atomic that a kind-1 entry stands for. -/
structure RxMsg where
  kind   : Nat
  sender : Word
  ctx    : Nat
  ta     : Nat
  reg    : BitVec 5 := 0
  value  : Word := 0
  pois   : Bool := false
  w2h    : W32 := 0
  w3     : Word := 0
  /-- the task a waiting remote write is for (R19, R34) -/
  uid    : Nat := 0
  more   : List Word := []
  amo    : Option AmoReq := none
  pos    : Nat := 0
  /-- how often the activation it triggers has been killed (R226) -/
  redo   : Nat := 0
  deriving DecidableEq, Repr, Inhabited

/-- A message of an activation that is held until the activation ends (R226). -/
inductive Outgoing where
  | event (i : Instr)
  | am (core : Nat) (m : RxMsg)
  deriving DecidableEq, Repr, Inhabited

/-- The registers and the other state of one slot that a task's span holds (R1, R31, R336). -/
structure Slot where
  st      : SlotSt := .idle
  /-- the model's number of the task or activation; 0 is none -/
  uid     : Nat := 0
  ctx     : Nat := 0
  /-- the unit's record address (R176); for an activation 0 -/
  unit    : Word := 0
  rank    : Nat := 0
  pc      : Word := 0
  /-- bytes of the instruction being executed, as fetched (R36; log 11) -/
  ilen    : Nat := 4
  /-- its words as decoded; of an expanded splice word, the expansion (R335; log 11) -/
  words   : List W32 := []
  g       : Vector GReg 64 := Vector.replicate 64 {}
  v       : Vector VWord 32 := Vector.replicate 32 0
  vpois   : BitVec 32 := 0
  a       : Vector Acc 4 := Vector.replicate 4 0
  k       : Vector KWord 8 := Vector.replicate 8 0
  -- special registers (R25); TIME and RPQ are read from the device and the core
  taskid  : Word := 0
  tcoord  : Word := 0
  arg     : Word := 0
  ctxid   : Word := 0
  self    : Word := 0
  budget  : Nat := 0
  fpctl   : Word := 0
  tagrdy  : Word := 0
  ggeo0   : Word := 0
  ggeo1   : Word := 0
  spt     : Word := 0
  fcont   : Word := 0
  fcode   : Word := 0
  faddr   : Word := 0
  dline   : Word := 0
  dlfb    : Word := 0
  stq     : Nat := 0
  graph   : Word := 0
  capl    : Word := 0
  pairst  : Word := 0
  -- copies (R227, R237)
  shadow  : Vector Word 7 := Vector.replicate 7 0
  tags    : Vector W32 64 := Vector.replicate 64 0
  copn    : Nat := 0
  /-- copies that failed with trap on failure and have not trapped yet (R238) -/
  copTrap : List W32 := []
  lfsr    : W32 := 0
  lph     : BitVec 8 := 0
  /-- what the waiting instruction at PC does once is done: the arrival of a BARSYNC, the request of an SFACPT, has been
  sent (R345, R298) -/
  barSent : Bool := false
  /-- the loaded splice copy (R274) -/
  splc    : Vector (BitVec 128) 128 := Vector.replicate 128 0
  /-- the table could not be read at the start: the fault that the first instruction raises (R32, R274) -/
  sptBad  : Option (Nat × Word) := none
  -- deadline (R294)
  dlb     : Bool := false
  dlreg   : BitVec 4 := 0
  dlbuf   : Word := 0
  dlpend  : Bool := false
  /-- the DLINE value that fired (R296) -/
  dlval   : Word := 0
  -- faults (R335, R336)
  pkt     : Packet := {}
  outstat : BitVec 8 := 0
  outarg  : Word := 0
  fbuf    : List FbEntry := []
  /-- the instruction being executed is an expanded splice word (R353) -/
  spl     : Bool := false
  /-- pending TAKEs of remote mail: mailbox and destination (R96) -/
  takes   : List (Reg × Reg) := []
  /-- the message that the instruction at PC sends is held in the network interface, or has been placed from
  there so that the instruction may end (R341) -/
  sending : Bool := false
  sent    : Bool := false
  /-- a store was discarded at a format view: its address, for the next waiting instruction (R202) -/
  viewBad : Option Word := none
  /-- the program-order number of the next store (R339) -/
  seq     : Nat := 0
  /-- destinations of acquiring accesses whose values have not arrived (R211) -/
  acq     : List Reg := []
  /-- stores to persistent memory that its device has not acknowledged as persistent (R209) -/
  pm      : Nat := 0
  -- an activation (R226)
  trigger : Option RxMsg := none
  outbox  : List Outgoing := []
  -- lashed pairs (R377 to R380): retired since the last exchange, held stores; a partner slot names its pair
  retired : Nat := 0
  heldSt  : List HeldStore := []
  partner : Option Nat := none
  /-- CRC of the taken branches of a replayed unit (R363) -/
  branch  : W32 := 0
  /-- a task of the unit that the replay controller runs (R359) -/
  rp      : Bool := false
  deriving DecidableEq, Repr, Inhabited

/-! ## Core, quad and die -/

/-- STATE of a replay-queue entry (R339). -/
inductive RpqSt where
  | parked | replaying | abandoned
  deriving DecidableEq, Repr, Inhabited

/-- A parked store (R339): its lanes are the virtual address and the bytes of each piece. -/
structure RpqEntry where
  no    : Nat
  ta    : Nat
  uid   : Nat
  ctx   : Nat
  seq   : Nat
  st    : RpqSt := .parked
  addr0 : Word
  fva   : Word
  /-- it is only held behind an older parked store of its slot: FVA is 0 (R105) -/
  behind : Bool := false
  lanes : List (Word × List Byte)
  /-- AST and VST are kept as one run (R339) -/
  run   : Bool := false
  doff  : Nat := 0
  hint  : Hint := .normal
  /-- the store's address and its words as decoded, for its packets (R335, R340) -/
  pc    : Word := 0
  words : List W32 := []
  /-- `ctr` at the store (R355) -/
  at_   : Nat := 0
  deriving DecidableEq, Repr, Inhabited

/-- A cached line, by line number, with its keep mark; `data` holds the decoded bytes of a format-view line and
`way` the reserved way it fills (R190 to R193, R203). -/
structure CacheLine where
  line : Nat
  keep : Bool := false
  way  : Nat := 0
  data : List Byte := []
  deriving DecidableEq, Repr, Inhabited

/-- An event counter and its configuration (R352). -/
structure PmCounter where
  cfg    : Word := 0
  count  : Nat := 0
  /-- the context that holds it, and its configuring task -/
  ctx    : Option Nat := none
  uid    : Nat := 0
  /-- held by the replay controller (R359) -/
  replay : Bool := false
  /-- the machine's counter `ctr` at its PMCFG: events of older instructions are not counted (R355) -/
  since  : Nat := 0
  deriving DecidableEq, Repr, Inhabited

structure CoreSt where
  rxq     : List RxMsg := []
  /-- messages held in senders' network interfaces, with the slot that blocks on each (R341) -/
  held    : List (RxMsg × Option Nat) := []
  /-- the handler slot is frozen by an RXFULL packet (R341) -/
  rxfull  : Bool := false
  /-- an attached extension (R341) -/
  ext     : Option Nat := none
  acts    : BitVec 32 := 0
  rpq     : List RpqEntry := []
  urgent  : List Work := []
  normal  : List Work := []
  l1      : Store (List CacheLine) := []
  pmc     : List PmCounter := [{}, {}, {}, {}]
  deriving DecidableEq, Repr, Inhabited

/-- A line of a quad's instruction cache that came from outside QLM (R206). -/
structure IcLine where
  key   : Nat
  bytes : List Byte
  pois  : List Nat
  deriving DecidableEq, Repr, Inhabited

/-- A rectangle reserved for an aged gang request (R171). -/
structure Reservation where
  ctx    : Nat
  addr   : Word
  origin : Nat
  w      : Nat
  h      : Nat
  deriving DecidableEq, Repr, Inhabited

structure QuadSt where
  icache : List IcLine := []
  /-- the splice copies of the quad's cache, the latest used first: context and copy (R277) -/
  splices : List (Nat × Vector (BitVec 128) 128) := []
  deriving DecidableEq, Repr, Inhabited

structure DieSt where
  /-- entries of the virtual quad table that differ from the identity (R13; log 2) -/
  vqt      : Store W32 := []
  placer   : List Work := []
  reserved : Option Reservation := none
  overflow : List Work := []
  l2       : Store (List CacheLine) := []
  deriving DecidableEq, Repr, Inhabited

/-! ## Engines (10_copies.md) -/

/-- What a collective operation of one member adds (R243, R244): the elements of its source as patterns, and the
indices of the poisoned ones. -/
structure CollInfo where
  fn     : Nat
  grp    : Nat
  op     : Nat
  member : Nat
  root   : Nat
  count  : Nat
  sty    : Nat
  dty    : Nat
  point  : Nat
  dst    : Word
  data   : List Nat
  dpois  : List Nat
  /-- the destination as checked at issue: storage key and length of each piece (R245) -/
  dplan  : List (Nat × Nat) := []
  since  : Nat
  deriving DecidableEq, Repr, Inhabited

/-- An operation launched and not completed (R232 to R238). -/
structure EngOp where
  id      : W32
  req     : Target
  ctx     : Nat
  graph   : W32
  unit    : Word
  taskid  : Word
  shadow  : List Word
  sink    : Nat
  tag     : Nat
  cdep    : Word
  trap    : Bool
  /-- the barrier slot whose acknowledgements are due (R242) -/
  ack     : Option Nat
  /-- 1 queued, 2 running, 3 aborting (R235) -/
  st      : Nat := 1
  status  : Nat := 0
  nv      : Bool := false
  sat     : Bool := false
  nx      : Bool := false
  pois    : Bool := false
  /-- the first address that failed a check (R234) -/
  fail    : Word := 0
  /-- destination runs: key, and for each byte its value and whether it is poisoned -/
  plan    : List (Nat × List (Byte × Bool)) := []
  /-- destination bytes that are new already (R235; log 14), and their storage keys (R213) -/
  written : Nat := 0
  shown   : List Nat := []
  /-- the bytes of QLM that the issuing task might reach: quads, offset and length (R238; log 14) -/
  share   : List Nat × Nat × Nat := ([], 0, 0)
  /-- acknowledgements that the completion sends -/
  acks    : Nat := 0
  coll    : Option CollInfo := none
  /-- its writes are those of the unit that the replay controller runs (R360) -/
  rp      : Bool := false
  deriving DecidableEq, Repr, Inhabited

/-- The line buffer of a copy engine (R240). -/
structure LineBuf where
  uid  : Nat
  bpr  : Nat
  rstr : Nat
  /-- kept rows: source address, bytes, poison of each -/
  rows : List (Word × List (Byte × Bool))
  deriving DecidableEq, Repr, Inhabited

/-- A copy engine (0 to 127) or a collective engine (128 to 143). -/
structure EngSt where
  seq  : Nat := 1
  ops  : List EngOp := []
  buf  : Option LineBuf := none
  deriving DecidableEq, Repr, Inhabited

/-! ## Strands (11_strands.md) -/

/-- A claim of an SRECV that waits for its item (R255): `v` names the v register of the V = 1 form. -/
structure Claim where
  t : Target
  d : Reg
  v : Option VReg
  /-- `ctr` at its SRECV (R355) -/
  at_ : Nat := 0
  deriving DecidableEq, Repr, Inhabited

/-- An end of a strand (R247 to R249). -/
structure StrandEnd where
  /-- 0 bound, 1 in transit, 2 orphaned, 3 closed -/
  st      : Nat := 0
  /-- die * 512 + virtual quad; while in transit, where it was -/
  quad    : Nat := 0
  /-- the device, 0 for this one; of an end in transit, where it goes (R268) -/
  dev     : Nat := 0
  /-- the owner's number and TASKID; 0 is none -/
  owner   : Nat := 0
  ownerId : Word := 0
  wired   : Bool := false
  /-- the task that received the handle as an END item; 0 is none (R258) -/
  holder  : Nat := 0
  watch   : Option (Target × BitVec 6) := none
  /-- what it knows of the peer: 0 open, 1 closed, 2 frayed -/
  peer    : Nat := 0
  deriving DecidableEq, Repr, Inhabited

/-- A move in the anchor's queue; the head holds the grant (R259 to R261). -/
structure StrandMove where
  sink     : Bool
  accepted : Bool := false
  stopped  : Bool := false
  /-- where the stub or the old source is -/
  old      : Nat := 0
  deriving DecidableEq, Repr, Inhabited

/-- A strand (R247, R248). One whose home is another device has the index home * 65536 + INDEX: its entry stands there
(R268; log 16). -/
structure Strand where
  ctx      : Nat
  idx      : Nat
  reuse    : Nat
  s        : Nat
  l        : Nat
  src      : StrandEnd
  snk      : StrandEnd
  /-- the ring that items are delivered to: quad and local offset -/
  ringQuad : Nat
  ringOff  : Nat
  /-- the task whose share the ring lies in; 0 for a wired end's (R253, R267) -/
  ringUid  : Nat := 0
  nsend    : Nat := 0
  ndeliv   : Nat := 0
  ntake    : Nat := 0
  credits  : Nat
  claims   : List Claim := []
  /-- items that arrived ahead of their turn (R256) -/
  arrived  : List StrandItem := []
  /-- handles that undelivered or untaken items carry, by sequence number (R257) -/
  ends     : List (Nat × Word) := []
  moves    : List StrandMove := []
  /-- first numbers of routes whose stopper has not arrived (R259) -/
  gates    : List Nat := []
  /-- stoppers under way, in the order sent: true for a sink move's (R260) -/
  stoppers : List Bool := []
  deriving DecidableEq, Repr, Inhabited

/-! ## Settle regions (13_settle.md) -/

/-- An SFSMP before its completion point (R304): what it writes, and whether for the replayed unit (R360). -/
structure SmpOp where
  no   : Nat
  rp   : Bool
  plan : List (Nat × List Byte)
  deriving DecidableEq, Repr, Inhabited

/-- A settle region of a context (R280 to R293). The state of an integrator stands in hundredths of the lowest bit
of its code: full scale is 819,200 (log 10). -/
structure Region where
  die    : Nat
  first  : Nat
  count  : Nat
  /-- the run state code (R286) -/
  state  : Nat := 0
  /-- the configuration image; empty in IDLE -/
  image  : List Byte := []
  sig    : Option Word := none
  bias   : List Int := []
  exps   : List Int := []
  u      : List Int := []
  hist   : List (List Word) := []
  seed   : Nat := 0
  clip   : Bool := false
  dlerr  : Bool := false
  sblk   : Nat := 0
  sunit  : Nat := 0
  /-- the claiming task and its TASKID; uid 0 is none -/
  claim  : Target := ⟨0, 0⟩
  taskid : Word := 0
  /-- device TIME of the SFRUN, and the number of runs and samples so far -/
  start  : Nat := 0
  runs   : Nat := 0
  smps   : List SmpOp := []
  deriving DecidableEq, Repr, Inhabited

/-! ## Context and device -/

/-- An aborted copy of section 7 (R348, R350). -/
structure AbortedCopy where
  shadow : List Word
  id     : W32
  ta     : Word
  taskid : Word
  deriving DecidableEq, Repr, Inhabited

/-- A live context: the 128 bytes of its descriptor as read once (R315) and what the chapters add. -/
structure Ctx where
  desc    : List Byte
  descPA  : Nat
  /-- intake has stopped (R316, R348) -/
  stopped : Bool := false
  quiesced : Bool := false
  /-- device TIME at the freeze (R350) -/
  frozeAt : Nat := 0
  frozen  : List Nat := []
  aborted : List AbortedCopy := []
  /-- operations issued on a collective group so far, by group * 1024 + member (R243) -/
  collSeq : Store Nat := []
  deriving DecidableEq, Repr, Inhabited

/-- A TLB entry (R322): the address-space id, the page, the leaf as it was loaded and its address. `unit` is the TLB
that holds it: a die's by its number, a quad's by 4 + its number. -/
structure TlbEntry where
  asid  : Nat
  page  : Nat
  size  : Nat
  pte   : Word
  ptePA : Nat
  unit  : Nat := 0
  deriving DecidableEq, Repr, Inhabited

/-- A retention register in use (R193). -/
structure Retention where
  ctx   : Nat
  vbase : Word
  base  : Nat
  len   : Nat
  ways  : List Nat
  hits  : Nat := 0
  miss  : Nat := 0
  deriving DecidableEq, Repr, Inhabited

/-- A format region's registers (R200). -/
structure FmtRegion where
  codes  : Word := 0
  bscale : Word := 0
  sscale : Word := 0
  nelem  : Word := 0
  fmt    : Nat := 0
  en     : Bool := false
  deriving DecidableEq, Repr, Inhabited

/-- An item of a launch window on its way (R318): `sent` when it left as a service record (R324), `ok` once the
host approved it, `no` once it refused it. -/
structure LaunchItem where
  rec_   : Word
  kind   : Nat
  cookie : Word
  sent   : Bool := false
  ok     : Bool := false
  no     : Bool := false
  deriving DecidableEq, Repr, Inhabited

/-- A launch window (R318). -/
structure Window where
  isOpen : Bool := false
  ctx    : Nat := 0
  die    : Nat := 0
  l      : Nat := 0
  rec_   : Word := 0
  kind   : Nat := 0
  cookie : Word := 0
  err    : Nat := 0
  last   : Word := 0
  queue  : List LaunchItem := []
  deriving DecidableEq, Repr, Inhabited

/-- An answer in the DOE mailbox to an attestation request that is served (R332). -/
inductive SpdmAnswer where
  /-- GET_VERSION: the SPDM versions, 0x12 and 0x13 -/
  | version (l : List Nat)
  /-- GET_CAPABILITIES: whether sessions are offered -/
  | capabilities (sessions : Bool)
  /-- NEGOTIATE_ALGORITHMS: RSASSA-PSS 3072 and SHA-384 -/
  | algorithms (rsaPss3072 sha384 : Bool)
  /-- GET_DIGESTS: the digests of the chains of slots 0 (RSA) and 1 (SLH-DSA) -/
  | digests (l : List (Nat × List Byte))
  | certificate (slot : Nat) (chain : List Byte)
  /-- CHALLENGE: the base signature, and the SLH-DSA signature over the same transcript hash -/
  | challenge (rsa slh : List Byte)
  /-- GET_MEASUREMENTS: the digests by index, signed as a challenge is -/
  | measurements (l : List (Nat × List Byte)) (rsa slh : List Byte)
  deriving DecidableEq, Repr, Inhabited

/-- The host's side: command block, service strand, duties, debug map, Lyong (18_host.md). -/
structure HostIf where
  args    : Vector Word 6 := Vector.replicate 6 0
  cmd     : BitVec 8 := 0
  code    : BitVec 8 := 0
  value   : W32 := 0
  busy    : Bool := false
  wins    : Store Window := []
  ring    : Option Nat := none
  ringL   : Nat := 0
  sent    : Nat := 0
  used    : Nat := 0
  waiting : List (List Byte) := []
  msix    : Nat := 0
  duty    : BitVec 4 := 0
  dbg     : Option Nat := none
  devNo   : Nat := 0
  routes  : Store Nat := []
  ports   : BitVec 16 := 0
  up      : BitVec 16 := 0
  lost    : List Nat := []
  /-- boot found no valid firmware image (R330) -/
  recovery : Bool := false
  /-- the bytes written to the image-load window in recovery, by offset (R330) -/
  image   : List (Nat × Byte) := []
  /-- the answer in the DOE mailbox (R332) -/
  doe     : Option SpdmAnswer := none
  deriving DecidableEq, Repr, Inhabited

/-- The trace controller (R364). -/
structure TraceSt where
  ring    : Word := 0
  rsz     : Nat := 0
  head    : Nat := 0
  tail    : Nat := 0
  fprog   : Word := 0
  flen    : Nat := 0
  en      : Bool := false
  badf    : Bool := false
  stopped : Bool := false
  ferr    : Nat := 0
  lost    : Nat := 0
  mask    : Word := 0
  /-- records dropped since the last LOST record (R366) -/
  owed    : Nat := 0
  cnt     : Vector Word 16 := Vector.replicate 16 0
  var     : Vector Word 16 := Vector.replicate 16 0
  /-- the contexts of a debug stop (R367) -/
  stop    : List Nat := []
  deriving DecidableEq, Repr, Inhabited

/-- The replay controller (R358 to R363): its control block, and the run in progress. -/
structure ReplaySt where
  recA   : Word := 0
  plan   : Word := 0
  result : Word := 0
  log    : Word := 0
  logLen : Word := 0
  wsArea : Word := 0
  wsLen  : Word := 0
  cfg    : W32 := 0
  busy   : Bool := false
  pass   : Nat := 0
  rcode  : Nat := 0
  /-- origin and cores of pass 0 (R359) -/
  place  : Option (Nat × List Nat) := none
  /-- 64 KiB pages captured in pass 0, in capture order; the copy of the unit's QLM area stands before theirs, and
  `area` is its length (R360; log 22) -/
  pages  : List Nat := []
  area   : Nat := 0
  wsOv   : Bool := false
  logOv  : Bool := false
  mism   : Bool := false
  mkind  : Nat := 0
  fprint : W32 := 0
  /-- fingerprints of the pass's ended tasks, by rank (R363) -/
  prints : List (Nat × W32) := []
  /-- location and rank of every logged atomic, and of the atomics of this pass (R362) -/
  logged : List (Nat × Nat) := []
  done   : List (Nat × Nat) := []
  /-- locations whose overdue atomics are released (R362) -/
  freed  : List Nat := []
  /-- locations at which an enforced atomic waits, and since when (R362) -/
  waits  : List (Nat × Nat) := []
  /-- the unit has completed: 0 OK, 1 ERROR, 2 CANCELLED -/
  ended  : Option Nat := none
  deriving DecidableEq, Repr, Inhabited

/-- The link counter grid's control block (R370). -/
structure GridSt where
  grid  : Word := 0
  ivl   : Nat := 0
  nsnap : Nat := 0
  seq   : Nat := 0
  /-- device TIME of the last snapshot -/
  last  : Nat := 0
  deriving DecidableEq, Repr, Inhabited

/-! ## Errors, retirement and power (22_ras_power.md) -/

/-- An error record (R373); `no` numbers the records in the order they were filled. -/
structure ErrRec where
  valid : Bool := false
  cls   : Nat := 0
  cause : Nat := 0
  count : Nat := 0
  ukind : Nat := 0
  uidx  : Nat := 0
  die   : Nat := 0
  vquad : Nat := 0
  pquad : Nat := 0
  addr  : Word := 0
  taddr : Word := 0
  time  : Nat := 0
  no    : Nat := 0
  deriving DecidableEq, Repr, Inhabited

/-- A die's error bank of 256 records, by number (R373). -/
structure ErrBank where
  recs : Store ErrRec := []
  next : Nat := 0
  deriving DecidableEq, Repr, Inhabited

/-- The retirement block of a base die (R384). -/
structure RetireBlk where
  spare : Word := 0
  dst   : Word := 0
  src   : Word := 0
  remap : Nat := 0
  state : Nat := 0
  wmark : Nat := 0
  deriving DecidableEq, Repr, Inhabited

/-- The power register of a rail row (R386), and whether the row was touched in this control interval (R387). -/
structure RailRow where
  slack   : Nat := 0
  voff    : Nat := 0
  uvoff   : Bool := false
  uven    : Bool := false
  droop   : Bool := false
  bgrant  : Bool := false
  breq    : Bool := false
  n       : Nat := 6
  icap    : Nat := 5
  thcap   : Nat := 5
  base    : Nat := 6
  touched : Bool := false
  deriving DecidableEq, Repr, Inhabited

/-- Errors, fencing, retirement and power. A unit's key is ((die * 1024 + physical quad) * 16 + kind) * 128 + index;
a physical quad's is die * 1024 + physical quad; a rail row's is die * 132 + row. -/
structure RasSt where
  banks   : Store ErrBank := []
  /-- corrected errors and mismatches of a unit (R381) -/
  hist    : Store (Nat × Nat) := []
  /-- the fence list: units, and the physical quads that they fence (R382) -/
  fenced  : List Nat := []
  quads   : List Nat := []
  retire  : Store RetireBlk := []
  /-- remap entries: frame and spare (R385) -/
  remaps  : List (Nat × Nat) := []
  rows    : Store RailRow := []
  /-- quads whose power is gated (R383) -/
  gated   : List Nat := []
  /-- a thermal emergency holds, and since when (R390) -/
  hot     : Bool := false
  since   : Nat := 0
  /-- device TIME of a quad's last move, plus 1; 0 is none (R391) -/
  moved   : Store Nat := []
  /-- the control interval whose boundary has been served (R387) -/
  interval : Nat := 0
  deriving DecidableEq, Repr, Inhabited

/-- The whole machine. -/
structure State where
  /-- the low 16 bits of the thread address of the slot that issues (log 3) -/
  cur     : Nat := 0
  /-- bytes by storage key: space * 2^64 + address; unlisted bytes read as 0 (log 1) -/
  mem     : List Host.Cell := []
  /-- poisoned granules, by storage key / 32 (R376) -/
  poison  : List (Nat × Bool) := []
  time    : Nat := 0
  slots   : Store Slot := []
  /-- slot state of pre-empted and quiesced tasks, by uid (R344, R345) -/
  parked  : Store Slot := []
  /-- rollback points of lashed pairs, by uid (R379) -/
  agreed  : Store Slot := []
  cores   : Store CoreSt := []
  quads   : Store QuadSt := []
  dies    : Store DieSt := []
  ctxs    : Store (Option Ctx) := []
  units   : List UnitSt := []
  ready   : List Work := []
  credits : List Credit := []
  engines : Store EngSt := []
  /-- strands by home * 2^22 + context * 65536 + entry, and settle regions by context * 16 + region -/
  strands : Store (Option Strand) := []
  regions : Store (Option Region) := []
  tlb     : List TlbEntry := []
  retain  : Vector (Option Retention) 16 := Vector.replicate 16 none
  /-- the register sets of the 8 base dies, by base die * 8 + format region -/
  fmts    : Vector FmtRegion 64 := Vector.replicate 64 {}
  host    : HostIf := {}
  trace   : TraceSt := {}
  replay  : ReplaySt := {}
  grid    : GridSt := {}
  ras     : RasSt := {}
  /-- events in flight and inputs not yet taken (log 3, log 6) -/
  agenda  : List Instr := []
  /-- the index of the next free value (log 3) -/
  ctr     : Nat := 0
  /-- the number the next task gets -/
  nextUid : Nat := 1
  deriving DecidableEq, Repr, Inhabited

/-! ## Outcomes -/

/-- Why a step stops for good. No instruction of the PX9 stops the machine: a fault of the spec freezes a slot and
is a next state. -/
inductive Fault where
  /-- Raised by nothing that the spec describes; kept so that the type has a value. Safe: no step answers it. -/
  | none
  deriving DecidableEq, Repr, Inhabited

/-- Why a step has no meaning. -/
inductive Refusal where
  /-- Raised by an arm of `exec` whose instruction has no meaning yet. Safe: the step says nothing. -/
  | notModelled (mnemonic : String)
  deriving DecidableEq, Repr, Inhabited

/-- Right after power-on reset: no context, no task, empty memory (R330; log 1, log 2). -/
def State.reset : State := {}

end Sys2Proof.Machine
end

