-- ==== Sys2Proof/Machine/Ops.lean ====
section
/-! DEFINITION. The named operations every meaning is written with: tables, slots and their registers, presence,
sending, and taking a fault (01_machine.md R18 to R35; 19_preemption.md R335). -/

namespace Sys2Proof.Machine

/-! ## Tables -/

/-- The value at a key, the default where none is listed. Keys rise, so the search ends at a higher one. -/
def Store.get {α : Type} (dflt : α) : Store α → Nat → α
  | [], _ => dflt
  | (j, v) :: rest, k => if j = k then v else if k < j then dflt else Store.get dflt rest k

/-- Writes the value at a key. -/
def Store.set {α : Type} : Store α → Nat → α → Store α
  | [], k, x => [(k, x)]
  | (j, v) :: rest, k, x =>
    if j = k then (k, x) :: rest else if k < j then (k, x) :: (j, v) :: rest else (j, v) :: Store.set rest k x

/-- A canonical table: reading gives `dflt` where nothing is listed. -/
def Sparse.get {α : Type} (dflt : α) (m : List (Nat × α)) (k : Nat) : α := Store.get dflt m k

/-- Removes a key. -/
def Sparse.erase {α : Type} : List (Nat × α) → Nat → List (Nat × α)
  | [], _ => []
  | (j, v) :: rest, k => if j = k then rest else if k < j then (j, v) :: rest else (j, v) :: Sparse.erase rest k

/-- Writes a canonical table: the default is never listed. -/
def Sparse.set {α : Type} [DecidableEq α] (dflt : α) (m : List (Nat × α)) (k : Nat) (x : α) : List (Nat × α) :=
  if x = dflt then Sparse.erase m k else Store.set m k x

/-- The keys rise strictly and no listed value is the default. -/
def Sparse.wf {α : Type} [DecidableEq α] (dflt : α) : List (Nat × α) → Bool
  | [] => true
  | [(_, v)] => decide (v ≠ dflt)
  | (j, v) :: (k, w) :: rest => decide (v ≠ dflt) && decide (j < k) && Sparse.wf dflt ((k, w) :: rest)

/-- Memory is in its canonical form. -/
def Memory.wf (m : List Host.Cell) : Bool := Sparse.wf 0 m

/-- A byte by its storage key; an unlisted byte reads as 0 (log 1). -/
def Memory.get (m : List Host.Cell) (k : Nat) : Byte := Sparse.get 0 m k

def Memory.set (m : List Host.Cell) (k : Nat) (b : Byte) : List Host.Cell := Sparse.set 0 m k b

/-- n bytes from a key up. -/
def Memory.read (m : List Host.Cell) : Nat → Nat → List Byte
  | _, 0 => []
  | k, n + 1 => Memory.get m k :: Memory.read m (k + 1) n

/-- Writes bytes from a key up. -/
def Memory.write (m : List Host.Cell) : Nat → List Byte → List Host.Cell
  | _, [] => m
  | k, b :: bs => Memory.write (Memory.set m k b) (k + 1) bs

/-- The first element that passes, and the list without it. -/
def takeFirst {α : Type} (p : α → Bool) : List α → Option (α × List α)
  | [] => none
  | x :: xs => if p x then some (x, xs) else (takeFirst p xs).map fun (y, ys) => (y, x :: ys)

/-- Changes the first element that passes. -/
def updFirst {α : Type} (p : α → Bool) (f : α → α) : List α → List α
  | [] => []
  | x :: xs => if p x then f x :: xs else x :: updFirst p f xs

/-! ## Thread addresses (R18) -/

/-- Bits of the low 16 of a thread address. -/
def taSlot (ta : Nat) : Nat := ta % 4
def taHnd (ta : Nat) : Bool := ta / 4 % 2 = 1
def taCore (ta : Nat) : Nat := ta / 8
def taQuad (ta : Nat) : Nat := ta / 32
def taVq (ta : Nat) : Nat := ta / 32 % 512
def taDie (ta : Nat) : Nat := ta / 16384 % 4

/-- The thread address of a slot of a core (R18). -/
def taOf (core slot : Nat) : Nat := core * 8 + slot

/-- The handler slot of a core (R18). -/
def hndOf (core : Nat) : Nat := core * 8 + 4

/-- The five slots of a core: four task slots and the handler slot. -/
def slotsOf (core : Nat) : List Nat := [core * 8, core * 8 + 1, core * 8 + 2, core * 8 + 3, core * 8 + 4]

/-! ## Parts of the state -/

def State.slot (s : State) (ta : Nat) : Slot := Store.get {} s.slots ta
def State.setSlot (s : State) (ta : Nat) (x : Slot) : State := { s with slots := Store.set s.slots ta x }
def State.modSlot (s : State) (ta : Nat) (f : Slot → Slot) : State := s.setSlot ta (f (s.slot ta))

/-- The issuing slot. -/
def State.me (s : State) : Slot := s.slot s.cur
def State.modMe (s : State) (f : Slot → Slot) : State := s.modSlot s.cur f

def State.core (s : State) (c : Nat) : CoreSt := Store.get {} s.cores c
def State.modCore (s : State) (c : Nat) (f : CoreSt → CoreSt) : State :=
  { s with cores := Store.set s.cores c (f (s.core c)) }

/-- The issuing slot's core. -/
def State.myCore (s : State) : Nat := taCore s.cur

def State.quad (s : State) (q : Nat) : QuadSt := Store.get {} s.quads q
def State.modQuad (s : State) (q : Nat) (f : QuadSt → QuadSt) : State :=
  { s with quads := Store.set s.quads q (f (s.quad q)) }

def State.die (s : State) (d : Nat) : DieSt := Store.get {} s.dies d
def State.modDie (s : State) (d : Nat) (f : DieSt → DieSt) : State :=
  { s with dies := Store.set s.dies d (f (s.die d)) }

def State.ctx (s : State) (n : Nat) : Option Ctx := Store.get none s.ctxs n
def State.setCtx (s : State) (n : Nat) (c : Option Ctx) : State := { s with ctxs := Store.set s.ctxs n c }
def State.modCtx (s : State) (n : Nat) (f : Ctx → Ctx) : State :=
  match s.ctx n with
  | none => s
  | some c => s.setCtx n (some (f c))

/-- Puts an event on the agenda. -/
def State.post (s : State) (i : Instr) : State := { s with agenda := s.agenda ++ [i] }

def State.setMem (s : State) (m : List Host.Cell) : State := { s with mem := m }

/-! ## The virtual quad table (R13 to R15) -/

/-- An entry: the identity map with every quad in service, where boot firmware wrote nothing else (log 2). -/
def State.vqEntry (s : State) (die vq : Nat) : W32 :=
  Store.get (BitVec.ofNat 32 (2 ^ 31 + vq)) (s.die die).vqt vq

/-- Whether a virtual quad is in service (R13). -/
def State.present (s : State) (die vq : Nat) : Bool := bit (s.vqEntry die vq) 31

/-- The clusters of a die that are in service (R14). -/
def State.clustersUp (s : State) (die : Nat) : Nat :=
  ((List.range 64).filter fun c => s.present die ((c / 4 * 2) * 16 + c % 4 * 4)).length

/-- The cluster of a virtual quad. -/
def clusterOf (vq : Nat) : Nat := (vq / 16 / 2) * 4 + vq % 16 / 4

/-- The virtual quad of cluster quad k of a cluster (R185). -/
def clusterQuad (cl k : Nat) : Nat := ((cl / 4) * 2 + k / 4) * 16 + (cl % 4) * 4 + k % 4

/-- Whether a virtual quad number is in the cluster's quad list, and as which. -/
def clusterIdx (vq : Nat) : Nat := (vq / 16 % 2) * 4 + vq % 4

/-! ## Fields of a context descriptor (R315) -/

def Ctx.field (c : Ctx) (off len : Nat) : Nat := ofBytes ((c.desc.drop off).take len)
def Ctx.asid (c : Ctx) : Nat := c.field 0x08 2
def Ctx.ptroot (c : Ctx) : Nat := c.field 0x00 8
def Ctx.fpdef (c : Ctx) : Nat := c.field 0x18 2 % 2 ^ 14
def Ctx.seed (c : Ctx) : Nat := c.field 0x1C 4
def Ctx.defbud (c : Ctx) : Nat := c.field 0x20 4
def Ctx.hndbud (c : Ctx) : Nat := c.field 0x24 4
def Ctx.aging (c : Ctx) : Nat := if c.field 0x28 4 = 0 then 50000 else c.field 0x28 4
def Ctx.lqlm (c : Ctx) : Nat := if c.field 0x2C 4 = 0 then 16384 else c.field 0x2C 4
def Ctx.duty (c : Ctx) (n : Nat) : Bool := c.field 0x30 4 / 2 ^ n % 2 = 1
def Ctx.policy (c : Ctx) (code : Nat) : Bool := c.field 0x34 4 / 2 ^ code % 2 = 1
def Ctx.strtab (c : Ctx) : Nat := c.field 0x38 8
def Ctx.strn (c : Ctx) : Nat := c.field 0x40 4
def Ctx.settab (c : Ctx) : Nat := c.field 0x58 8
def Ctx.colltab (c : Ctx) : Nat := c.field 0x60 8
def Ctx.splspill (c : Ctx) : Nat := c.field 0x48 8
def Ctx.fabgrp (c : Ctx) : Nat := c.field 0x68 8
def Ctx.fpool (c : Ctx) : Nat := c.field 0x70 8

/-- The context of the issuing slot; a slot of no live context sees zeros. -/
def State.myCtx (s : State) : Ctx := (s.ctx s.me.ctx).getD { desc := [], descPA := 0 }

/-- Counts a delivery dropped under R19 in the word at DROPS (R315). -/
def State.drop (s : State) (ctx : Nat) : State :=
  match s.ctx ctx with
  | none => s
  | some c =>
    let k := c.descPA + 0x10
    s.setMem (Memory.write s.mem k (toBytes 8 (ofBytes (Memory.read s.mem k 8) + 1)))

/-! ## Event counters (R352, R353) -/

/-- Whether a counter counts an event of a slot. -/
def PmCounter.counts (p : PmCounter) (sl : Slot) (ev : Nat) : Bool :=
  bit p.cfg 9 && slice p.cfg 0 6 == ev &&
    (if p.replay then sl.rp
     else if bit p.cfg 8 then p.ctx == some sl.ctx && sl.uid != 0 else p.uid == sl.uid)

/-- Adds n to a saturating counter of 64 bits (R352). -/
def satAdd64 (a n : Nat) : Nat := Nat.min (a + n) (2 ^ 64 - 1)

/-- Counts n occurrences of an event, attributed to the slot ta (R353). -/
def State.count (s : State) (ta ev n : Nat) : State :=
  let sl := s.slot ta
  let c := s.core (taCore ta)
  if c.pmc.any fun p => p.counts sl ev then
    s.modCore (taCore ta) fun c =>
      { c with pmc := c.pmc.map fun p => if p.counts sl ev then { p with count := satAdd64 p.count n } else p }
  else s

def State.countMe (s : State) (ev n : Nat) : State := s.count s.cur ev n

/-- Counts a list of events of the issuing slot. -/
def State.countAll (s : State) : List (Nat × Nat) → State
  | [] => s
  | e :: es => (s.countMe e.1 e.2).countAll es

/-- Counts an event of an instruction that issued when `ctr` was `at_`: a counter configured since then does not count it
(R355). -/
def State.countOld (s : State) (ta ev n at_ : Nat) : State :=
  let sl := s.slot ta
  s.modCore (taCore ta) fun c =>
    { c with pmc := c.pmc.map fun p =>
        if p.counts sl ev && decide (p.since ≤ at_) then { p with count := satAdd64 p.count n } else p }

/-! ## Trace and error reports -/

/-- A trace record of a context that is traced goes to the trace cores (R364, R365). -/
def State.note (s : State) (r : TraceRec) : State :=
  if s.trace.en && bit s.trace.mask r.ctx then s.post (.traceRecord r s.time) else s

/-- An error is detected (R373); it is served under the duties that are in force now (R324). -/
def State.report (s : State) (e : ErrReport) : State := s.post (.errorDetected { e with mode := s.host.duty })

/-! ## Results of a meaning -/

/-- How an instruction of a slot goes on: with a value, by waiting with PC at it, or by raising a fault (R7, R29). -/
inductive Res (α : Type) where
  | ok (s : State) (a : α)
  | wait (s : State)
  | trap (s : State) (code : Nat) (faddr : Word)
  deriving Repr

def Res.bind {α β : Type} (r : Res α) (f : State → α → Res β) : Res β :=
  match r with
  | .ok s a => f s a
  | .wait s => .wait s
  | .trap s c v => .trap s c v

/-- Continues when a condition holds, else raises. -/
def need (b : Bool) (code : Nat) (faddr : Word) (s : State) : Res Unit :=
  if b then .ok s () else .trap s code faddr

/-- Waits until a condition holds. -/
def await (b : Bool) (s : State) : Res Unit := if b then .ok s () else .wait s

/-! ## g registers (R20 to R22) -/

/-- A g register as an instruction sees it: g0 is 0 and FULL (R21). -/
def Slot.greg (sl : Slot) (r : Reg) : GReg :=
  if r = 0 then ⟨0, .full, false⟩ else sl.g[r.toNat]'(r.isLt)

def Slot.setG (sl : Slot) (r : Reg) (x : GReg) : Slot :=
  if r = 0 then sl else { sl with g := sl.g.set r.toNat x r.isLt }

/-- A local write: the value, FULL (R20); a write to g0 is discarded (R21). -/
def Slot.writeG (sl : Slot) (r : Reg) (v : Word) : Slot := sl.setG r ⟨v, .full, false⟩

/-- A destination becomes EMPTY and pending (R22). -/
def Slot.pendG (sl : Slot) (r : Reg) : Slot :=
  { sl with acq := sl.acq.filter fun x => x != r }.setG r ⟨(sl.greg r).val, .empty, true⟩

/-- The slot awaits the value of an acquiring access (R211). -/
def Slot.acquires (sl : Slot) : Bool := sl.acq.any fun r => (sl.greg r).pend

/-- A destination of an access, which an acquire awaits (R22, R211). -/
def Slot.pendFor (sl : Slot) (r : Reg) (aq : Bool) : Slot :=
  let x := sl.pendG r
  if aq then { x with acq := r :: x.acq } else x

/-- An arrival sets the register FULL, or POISON (R22). -/
def Slot.arriveG (sl : Slot) (r : Reg) (v : Word) (pois : Bool) : Slot :=
  sl.setG r (if pois then ⟨(sl.greg r).val, .poison, false⟩ else ⟨v, .full, false⟩)

def State.g (s : State) (r : Reg) : Word := (s.me.greg r).val

def State.putG (s : State) (r : Reg) (v : Word) : State := s.modMe fun sl => sl.writeG r v

/-- A register that is not pending may be written; an instruction that would write it waits (R22). -/
def State.freeG (s : State) (r : Reg) : Res Unit := await (!(s.me.greg r).pend) s

/-- The first source in trap mode that is EMPTY. -/
def firstTrap (sl : Slot) (l : List Src) : Option Src := l.find? fun x => x.trap && (sl.greg x.reg).pres == .empty

/-- The first source that is POISON. -/
def firstPois (sl : Slot) (l : List Src) : Option Src := l.find? fun x => (sl.greg x.reg).pres == .poison

/-- The examination of the g sources, in the order given (R30, R43, R46): PRESENCE, then POISON, then a wait. -/
def State.examine (s : State) (l : List Src) : Res Unit :=
  match firstTrap s.me l, firstPois s.me l with
  | some x, _ => .trap s 0x03 (zextW x.reg)
  | none, some x => .trap s 0x04 (zextW x.reg)
  | none, none => if l.any fun x => (s.me.greg x.reg).pres == .empty then .wait s else .ok s ()

/-- A native source: it blocks on EMPTY (R43). -/
def blk (r : Reg) : Src := ⟨r, false⟩

/-! ## Finding a task -/

/-- Where the task or activation with this number is: in a slot, or among the saved. -/
def State.findUid (s : State) (t : Target) : Option (Sum Nat Nat) :=
  if (s.slot t.ta).uid = t.uid ∧ t.uid ≠ 0 then some (.inl t.ta)
  else if t.uid = 0 then none
  else
    match s.slots.find? fun p => p.2.uid == t.uid, s.parked.find? fun p => p.2.uid == t.uid with
    | some p, _ => some (.inl p.1)
    | none, some p => some (.inr p.1)
    | none, none => none

/-- The rollback point after an input to its task: what was pending there arrives, and tags and STQ follow (R379;
log 13). -/
def Slot.mirror (sl : Slot) (f : Slot → Slot) : Slot :=
  let x := f sl
  { sl with tags := x.tags, tagrdy := x.tagrdy, stq := x.stq
            g := (List.range 64).foldl (fun v i => if h : i < 64 then (if (sl.g[i]'h).pend then v.set i (x.g[i]'h) h else v) else v) sl.g }

/-- Changes the state of the task with this number, wherever it is; nothing when it has ended (R34). -/
def State.modTask (s : State) (t : Target) (f : Slot → Slot) : State :=
  let s := if s.agreed.any fun p => p.1 == t.uid then
      { s with agreed := Store.set s.agreed t.uid ((Store.get {} s.agreed t.uid).mirror f) } else s
  match s.findUid t with
  | some (.inl ta) => s.modSlot ta f
  | some (.inr k) => { s with parked := Store.set s.parked k (f (Store.get {} s.parked k)) }
  | none => s

def State.task? (s : State) (t : Target) : Option Slot :=
  match s.findUid t with
  | some (.inl ta) => some (s.slot ta)
  | some (.inr k) => some (Store.get {} s.parked k)
  | none => none

/-- The issuing task, as a target of what it asks for. -/
def State.meT (s : State) : Target := ⟨s.cur, s.me.uid⟩

/-! ## The store replay queue as an instruction sees it (R105, R339) -/

/-- A slot's entries in its core's replay queue. -/
def State.myRpq (s : State) (ta : Nat) : List RpqEntry :=
  (s.core (taCore ta)).rpq.filter fun e => e.uid == (s.slot ta).uid

/-- RPQ (R25, R339). -/
def State.rpqN (s : State) (ta : Nat) : Nat := (s.myRpq ta).length

/-- The wait for RPQ = 0 (R105, R340, R202): abandoned entries are discarded together and raise STFAIL for the oldest; with
them STQ falls by their number, of which the spec says nothing (DESIGN CHOICE, log 20); a store discarded at a format view raises PROTECT; while an entry is parked or replaying, a wait. -/
def State.waitRpq (s : State) : Res Unit :=
  match s.me.viewBad with
  | some a => .trap (s.modMe fun sl => { sl with viewBad := none }) 0x07 a
  | none =>
    let mine := s.myRpq s.cur
    match mine.find? fun e => e.st == .abandoned with
    | some e =>
      let u := s.me.uid
      let n := (mine.filter fun x => x.st == .abandoned).length
      let s := s.modCore s.myCore fun c => { c with rpq := c.rpq.filter fun x => !(x.uid == u && x.st == .abandoned) }
      .trap (s.modMe fun sl => { sl with stq := sl.stq - n }) 0x08 e.addr0
    | none => await mine.isEmpty s

/-! ## Faults (R7, R29, R335) -/

/-- The killed activation's message is put back for redelivery, twice at most (R226). -/
def Slot.killActivation (sl : Slot) : Slot :=
  { ({} : Slot) with trigger := sl.trigger.map fun m => { m with redo := m.redo + 1 } }

/-- Remote writes that wait in a core's queue for registers of a task or activation that is gone are dropped, each
counted (R19, R34). -/
def State.dropMail (s : State) (core uid ctx : Nat) : State :=
  let gone (m : RxMsg) : Bool := m.kind == 0 && m.uid == uid
  let n := ((s.core core).rxq.filter gone).length
  let s := s.modCore core fun c => { c with rxq := c.rxq.filter fun m => !gone m }
  (List.range n).foldl (fun s _ => s.drop ctx) s

/-- The replies that a killed activation's atomics would send to remote registers are dropped with its other messages
(R226). -/
def State.dropReplies (s : State) (uid : Nat) : State :=
  let far (d : AmoDest) : Bool := match d with | .rem _ _ => true | _ => false
  { s with agenda := (s.agenda.filter fun i =>
      match i with | .atomicReturn r _ _ => !(r.req.uid == uid && far r.dest) | _ => true).map fun i =>
      match i with
      | .atomicAtHome r => if r.req.uid = uid ∧ far r.dest then .atomicAtHome { r with dest := .none } else i
      | _ => i }

/-- Kills the activation in a handler slot: what it sent and what waits for it is dropped, and its message is put back
(R226, R34). -/
def State.killAct (s : State) (ta : Nat) : State :=
  let sl := s.slot ta
  (((s.modSlot ta Slot.killActivation).dropReplies sl.uid).dropMail (taCore ta) sl.uid sl.ctx).post
    (.activationRedelivery (taCore ta))

/-- The packet of a fault of the slot ta (R335). -/
def State.packetOf (s : State) (ta code : Nat) (faddr : Word) (inspl splw : Bool) : Packet :=
  let sl := s.slot ta
  { taddr := BitVec.ofNat 64 ta, pc := sl.pc, faddr := faddr, taskid := sl.taskid, fcode := code, inspl := inspl
    splw := splw, park := false, ilen := sl.words.length, rpqe := 0, ctxn := sl.ctx, instr := sl.words }

/-- Taking a fault: the slot freezes with PC at the instruction, the packet is built and goes to the supervisor,
and the trace notes it (R335, R365). An activation that consumes an error is killed for redelivery instead, the
first two times (R226). -/
def State.raiseAs (s : State) (ta code : Nat) (faddr : Word) (inspl splw : Bool) : State :=
  let sl := s.slot ta
  if taHnd ta && code == 0x04 && (match sl.trigger with | some m => decide (m.redo < 2) | none => false) then
    s.killAct ta
  else
    let p := s.packetOf ta code faddr inspl splw
    let s := s.modSlot ta fun sl => { sl with st := .frozen, pkt := p }
    (s.post (.faultService p)).note
      ⟨6, sl.ctx, code, faddr.setWidth 32, BitVec.ofNat 64 ta, sl.pc⟩

def State.raise (s : State) (ta code : Nat) (faddr : Word) : State := s.raiseAs ta code faddr false false

/-- Counters configured after `ctr` was `at_` stay as they were: they count nothing of an older instruction (R355). -/
def State.uncountNew (s s₀ : State) (core at_ : Nat) : State :=
  s.modCore core fun c => { c with pmc := (c.pmc.zip (s₀.core core).pmc).map fun p => if at_ < p.1.since then p.2 else p.1 }

/-- The counters of the issuing core as they were: an instruction that faults counts nothing (R353). -/
def State.uncount (s s₀ : State) : State :=
  s.modCore s₀.myCore fun c => { c with pmc := (s₀.core s₀.myCore).pmc }

/-! ## Bytes and poison by storage key (R204, R376) -/

/-- Whether a granule of 32 bytes is poisoned. -/
def State.gran (s : State) (k : Nat) : Bool := Sparse.get false s.poison (k / 32)

/-- Whether any of n bytes from a key is poisoned; n is at most 2^16. -/
def State.pois (s : State) (k n : Nat) : Bool :=
  n ≠ 0 && (List.range ((k % 32 + n + 31) / 32)).any fun i => s.gran (k + 32 * i)

def State.bytes (s : State) (k n : Nat) : List Byte := Memory.read s.mem k n

/-- Clears the poison of the granules that n bytes from k cover whole (R204). -/
def clearFull (p : List (Nat × Bool)) (k n : Nat) : List (Nat × Bool) :=
  (List.range ((k % 32 + n + 31) / 32)).foldl (fun p i =>
    let g := k / 32 + i
    if k ≤ 32 * g ∧ 32 * g + 32 ≤ k + n then Sparse.set false p g false else p) p

/-- Writes bytes; a full granule clears its poison, a narrow write keeps it (R204, R376). -/
def State.putBytes (s : State) (k : Nat) (bs : List Byte) : State :=
  { s with mem := Memory.write s.mem k bs, poison := clearFull s.poison k bs.length }

/-- Poisons the granule of a key. -/
def State.poisonAt (s : State) (k : Nat) : State := { s with poison := Sparse.set false s.poison (k / 32) true }

/-- Copies n bytes with the poison of their granules; n is a multiple of 32. -/
def State.copyBytes (s : State) (src dst n : Nat) : State :=
  let bad := (List.range (n / 32)).filter fun i => s.gran (src + 32 * i)
  bad.foldl (fun (s : State) i => s.poisonAt (dst + 32 * i)) (s.putBytes dst (s.bytes src n))

/-- Pass 0 of a replay run keeps the page that its unit is about to write for the first time (R360). -/
def State.capture (s : State) (rp : Bool) (key : Nat) : State :=
  let r := s.replay
  let page := key / 65536
  if rp && r.busy && r.pass == 0 && decide (key < 2 ^ 64) && !r.wsOv && !r.pages.contains page then
    if r.area + 65536 * (r.pages.length + 1) ≤ r.wsLen.toNat then
      let dst := r.wsArea.toNat + r.area + 65536 * r.pages.length
      { s.copyBytes (65536 * page) dst 65536 with replay := { r with pages := r.pages ++ [page] } }
    else { s with replay := { r with wsOv := true } }
  else s

/-! ## Issue and retirement -/

/-- The pipe of an instruction (R11). -/
inductive Pipe where
  | s | v
  deriving DecidableEq, Repr

/-- What an instruction means to a lashed pair (R378). -/
inductive Reach where
  /-- it acts inside the slot, or stores -/
  | inner
  /-- a load, an atomic, a PREF or a vector load: an exchange point when a store is held -/
  | load
  /-- it acts outside the slot: an exchange point -/
  | outer
  deriving DecidableEq, Repr

/-- PAIRED of PAIRST (R28). -/
def Slot.paired (sl : Slot) : Bool := bit sl.pairst 0

/-- An exchange that agrees: the held stores are performed in program order, and the agreed point becomes the
rollback point (R379). -/
def State.exchange (s : State) (ta : Nat) : State :=
  let sl := s.slot ta
  let s := sl.heldSt.foldl (fun (s : State) h => (s.capture sl.rp h.key).putBytes h.key h.bytes) s
  let sl' := { sl with heldSt := [], retired := 0, pairst := sl.pairst &&& 7 }
  { s with slots := Store.set s.slots ta sl', agreed := Store.set s.agreed sl.uid sl' }

/-- The exchange points that fall before an instruction (R378). -/
def State.preIssue (s : State) (r : Reach) : State :=
  let sl := s.me
  if sl.paired && (sl.retired ≥ 1024 || (match r with | .inner => false | .load => !sl.heldSt.isEmpty | .outer => true))
  then s.exchange s.cur else s

/-- The instruction ends and PC moves to the next one or to a target; words decoded beyond a taken branch are discarded
(R38). -/
def State.retireTo (s : State) (t : Word) : State :=
  s.modMe fun sl =>
    { sl with pc := t, barSent := false, sptBad := none, sent := false, spl := false, words := []
              fbuf := if t = sl.pc + BitVec.ofNat 64 sl.ilen then sl.fbuf.drop 1 else []
              retired := if sl.paired then sl.retired + 1 else sl.retired }

/-- The address of the next instruction as fetched (R36, R52). -/
def State.nextPc (s : State) : Word := s.me.pc + BitVec.ofNat 64 s.me.ilen

/-- The events of the fetch of the instruction being executed (R353). -/
def State.fetchEvents (s : State) : List (Nat × Nat) :=
  match s.me.fbuf with
  | f :: _ => if f.pc = s.me.pc then f.evs else []
  | [] => []

def State.countIssue (s : State) (p : Pipe) : State :=
  let s := s.countAll s.fetchEvents
  let s := (s.countMe 1 1).countMe (match p with | .s => 2 | .v => 3) 1
  if s.me.spl then s.countMe 5 1 else s

/-- What a step answers. -/
abbrev Out : Type := Host.Outcome State Fault Refusal

/-- An instruction of the issuing slot: its body gives the next PC, waits, or raises. -/
def issueTo (p : Pipe) (r : Reach) (body : State → Res Word) (s₀ : State) : Out :=
  match body (s₀.preIssue r) with
  | .ok s t => .next ((s.countIssue p).retireTo t)
  | .wait s => .next s
  | .trap s code v => .next ((s.uncount s₀).raise s₀.cur code v)

/-- An instruction that goes on at the next one. -/
def issue (p : Pipe) (r : Reach) (body : State → Res Unit) (s₀ : State) : Out :=
  issueTo p r (fun s => (body s).bind fun s _ => .ok s s.nextPc) s₀

end Sys2Proof.Machine
end

