-- ==== Sys2Proof/Machine/Flags.lean ====
section
/-! DEFINITION. The sticky flags and controls of FPCTL (R26). -/

namespace Sys2Proof.Machine

/-- The sticky flags that an operation raises; `none` of them to begin with. -/
structure FpFlags where
  nv  : Bool := false
  dz  : Bool := false
  ov  : Bool := false
  uf  : Bool := false
  nx  : Bool := false
  sat : Bool := false
  deriving DecidableEq, Repr, Inhabited

/-- Both sets of flags. -/
def FpFlags.or (a b : FpFlags) : FpFlags :=
  ⟨a.nv || b.nv, a.dz || b.dz, a.ov || b.ov, a.uf || b.uf, a.nx || b.nx, a.sat || b.sat⟩

/-- The flags at their places in FPCTL (R26). -/
def FpFlags.bits (f : FpFlags) : Word :=
  BitVec.ofNat 64 (f.nv.toNat * 2 ^ 8 + f.dz.toNat * 2 ^ 9 + f.ov.toNat * 2 ^ 10 + f.uf.toNat * 2 ^ 11
    + f.nx.toNat * 2 ^ 12 + f.sat.toNat * 2 ^ 13)

/-- Instructions only ever set the sticky flags (R26). -/
def State.setFlags (s : State) (f : FpFlags) : State := s.modMe fun sl => { sl with fpctl := sl.fpctl ||| f.bits }

/-- FTZ of FPCTL. -/
def Slot.ftz (sl : Slot) : Bool := bit sl.fpctl 3

/-- The rounding mode that DYN stands for: DRM as it is now (R54). -/
def Slot.drm (sl : Slot) : Rm :=
  match slice sl.fpctl 0 3 with
  | 0 => .rne | 1 => .rtz | 2 => .rdn | 3 => .rup | 4 => .rna | _ => .rsr

def Slot.mode (sl : Slot) : Rm → Rm
  | .dyn => sl.drm
  | r => r

/-- The bits of FPCTL that a write keeps: [13:8] and [3:0] (R26). -/
def fpctlMask : Word := 0x3F0F

/-- Whether a WRSR may write FPCTL: DRM 0 to 5 (R26). -/
def fpctlOk (w : Word) : Bool := decide (slice w 0 3 ≤ 5)

end Sys2Proof.Machine
end

