-- ==== Sys2Proof/WellFormed.lean ====
section
/-! DEFINITION. Which instructions an encoding may stand for: the conditions of 02_encoding.md R45 to R58 and of
the class chapters that the operand types do not already express. An ill-formed instruction raises ILLEGAL. -/

namespace Sys2Proof

/-- The width in bits of an element type (R116). -/
def Ty.width : Ty → Nat
  | .fp64 | .i64 => 64
  | .fp32 | .i32 => 32
  | .bf16 | .fp16 | .i16 => 16
  | .e4m3 | .e5m2 | .i8 => 8

/-- Types 6 to 9. -/
def Ty.isInt : Ty → Bool
  | .i64 | .i32 | .i16 | .i8 => true
  | _ => false

/-- Types 0 to 3, on which floating-point lanes compute (R122). -/
def Ty.isFloat : Ty → Bool
  | .fp64 | .fp32 | .bf16 | .fp16 => true
  | _ => false

/-- Types 0 to 3 and 6 to 9 (R122, R125, R128). -/
def Ty.arith (t : Ty) : Bool := t.isInt || t.isFloat

/-- Lanes of a v register for a type (R116). -/
def Ty.lanes (t : Ty) : Nat := 2048 / t.width

/-- A mask that is not enabled names no register and does not zero (R48). -/
def VMask.wf (m : VMask) : Bool := m.en || (!m.z && m.k == 0)

/-- A rounding function takes any mode for a floating type and none for an integer type (R119, R122). -/
def rmOk (t : Ty) (r : Rm) : Bool := t.isFloat || r == .rne

/-- A scope may stand only beside an ordering qualifier and is never TASK (R103, R215). -/
def scOk (ordered : Bool) (s : Scope) : Bool := if ordered then s != .task else s == .dflt

/-- VADD, VSUB, VMUL: rounded for floats (R122). -/
def V2.wfArith (o : V2) : Bool := o.ty.arith && rmOk o.ty o.rm && o.m.wf

/-- VMIN, VMAX: never rounded (R122). -/
def V2.wfMinMax (o : V2) : Bool := o.ty.arith && o.rm == .rne && o.m.wf

/-- VDIV (R122). -/
def V2.wfFloat (o : V2) : Bool := o.ty.isFloat && o.m.wf

/-- Shifts, logic and VMULH (R122). -/
def V2.wfInt (o : V2) : Bool := o.ty.isInt && o.rm == .rne && o.m.wf

def V1.wfSign (o : V1) : Bool := o.ty.arith && o.rm == .rne && o.m.wf
def V1.wfSqrt (o : V1) : Bool := o.ty.isFloat && o.m.wf
def V1.wfEst (o : V1) : Bool := o.ty.isFloat && o.rm == .rne && o.m.wf

/-- VEXP2 and VLOG2 have no FP64 form (R122). -/
def V1.wfEst32 (o : V1) : Bool := o.wfEst && o.ty != .fp64

def V3.wf (o : V3) : Bool := o.ty.isFloat && o.m.wf
def VSelOp.wf (o : VSelOp) : Bool := o.m.wf

/-- VCMP other than UN and LTU (R125). -/
def VCmpOp.wf (o : VCmpOp) : Bool := o.ty.arith && o.m.wf
def VCmpOp.wfUn (o : VCmpOp) : Bool := o.ty.isFloat && o.m.wf
def VCmpOp.wfLtu (o : VCmpOp) : Bool := o.ty.isInt && o.m.wf

/-- The parts of a conversion: the ratio of the two widths (R126). -/
def VCvtOp.ratio (o : VCvtOp) : Nat :=
  Nat.max o.sty.width o.dty.width / Nat.min o.sty.width o.dty.width

def VCvtOp.wf (o : VCvtOp) : Bool :=
  o.sty != o.dty && decide (o.part.toNat < o.ratio) && (!(o.sty.isInt && o.dty.isInt) || o.rm == .rne) && o.m.wf

/-- VRED never zeroes inactive lanes (R128). -/
def V1.wfRed (o : V1) : Bool := o.m.wf && !o.m.z

def VMemX.wf (o : VMemX) : Bool := o.ty.arith && o.ty != .i8 && o.m.wf

/-- The register group of an MMA operand (R136). -/
def MmaFmt.group : MmaFmt → Nat
  | .fp32 | .fp64 => 2
  | _ => 4

def MOp.wf (f : MmaFmt) : MOp → Bool
  | .reg v => decide (v.toNat % f.group = 0)
  | .qlm n => n.reg != 63

def XLoad.wf (o : XLoad) : Bool := scOk o.aq o.sc
def XStore.wf (o : XStore) : Bool := scOk o.rl o.sc

/-- I64 or I32 (R215). -/
def AmoOp.wfInt (o : AmoOp) : Bool :=
  (o.ty == .i64 || o.ty == .i32) && o.rm == .rne && scOk (o.aq || o.rl) o.sc

/-- FP64 or FP32; only FADD rounds, and never by RSR or DYN (R215). -/
def AmoOp.wfFloat (o : AmoOp) (rounds : Bool) : Bool :=
  (o.ty == .fp64 || o.ty == .fp32) && (if rounds then o.rm != .rsr && o.rm != .dyn else o.rm == .rne) &&
    scOk (o.aq || o.rl) o.sc

def CasOp.wf (o : CasOp) : Bool := (o.ty == .i64 || o.ty == .i32) && scOk (o.aq || o.rl) o.sc

/-- A destination pair g(d), g(d + 1): d from 1 to 62 (R163, R251, R273). -/
def pairOk (d : Reg) : Bool := d != 0 && d != 63

/-- A byte offset whose low two bits are zero (R58). -/
def off4 (i : W32) : Bool := decide (i.toNat % 4 = 0)

def RecvItem.wf (d : Reg) : RecvItem → Bool
  | .g => pairOk d
  | .v _ => true

/-- Whether an instruction obeys the field conditions of its class. Events have none. -/
def Instr.wf : Instr → Bool
  | .dbnz a _ => a != 0
  | .vadd _ _ _ t | .vsub _ _ _ t | .vmul _ _ _ t | .vmin _ _ _ t | .vmax _ _ _ t => t.arith
  | .vand _ _ _ t | .vor _ _ _ t | .vxor _ _ _ t => t.isInt
  | .bfx o => decide (o.pos.toNat + o.width1.toNat + 1 ≤ 64)
  | .bfi o => decide (o.pos.toNat + o.width1.toNat + 1 ≤ 64)
  | .li _ (.reg _) => false
  | .ldBX o | .ldHX o | .ldWX o | .ldDX o | .ldsBX o | .ldsHX o | .ldsWX o => o.wf
  | .stBX o | .stHX o | .stWX o | .stDX o => o.wf
  | .beqX _ _ i | .bneX _ _ i | .bltX _ _ i | .bltuX _ _ i | .bgeX _ _ i | .bgeuX _ _ i | .bX i | .callX i => off4 i
  | .vaddX o | .vsubX o | .vmulX o => o.wfArith
  | .vminX o | .vmaxX o => o.wfMinMax
  | .vdiv o => o.wfFloat
  | .vshl o | .vshr o | .vsra o | .vandX o | .vorX o | .vxorX o | .vmulh o => o.wfInt
  | .vabs o | .vneg o => o.wfSign
  | .vsqrt o => o.wfSqrt
  | .vrcp o | .vrsq o => o.wfEst
  | .vexp2 o | .vlog2 o => o.wfEst32
  | .vfma o | .vfms o | .vfnma o => o.wf
  | .vsel o => o.wf
  | .vcmpEq o | .vcmpNe o | .vcmpLt o | .vcmpLe o | .vcmpGt o | .vcmpGe o => o.wf
  | .vcmpUn o => o.wfUn
  | .vcmpLtu o => o.wfLtu
  | .vcvt o => o.wf
  | .vredAdd o => o.ty.arith && rmOk o.ty o.rm && o.wfRed
  | .vredMax o | .vredMin o => o.ty.arith && o.rm == .rne && o.wfRed
  | .vredAnd o | .vredOr o => o.ty.isInt && o.rm == .rne && o.wfRed
  | .vperm o => o.m.wf
  | .vslide o => decide (o.s.toNat ≤ o.ty.lanes) && o.m.wf
  | .vbcast o => o.m.wf
  | .viota o => o.ty.isInt && o.m.wf
  | .vld o | .vldb o => o.m.wf
  | .vst o => o.m.wf && !o.m.z
  | .vlds o => o.m.wf
  | .vsts o => o.m.wf && !o.m.z
  | .vgath o => o.wf
  | .vscat o => o.wf && !o.m.z
  | .mma o => o.a.wf o.f && o.b.wf o.f
  | .ggmask o => decide (o.cl.toNat ≤ 8)
  | .depdec _ n => n != 0
  | .epop d _ => pairOk d
  | .l2pin _ _ _ w => decide (1 ≤ w.toNat) && decide (w.toNat ≤ 12)
  | .amoSwap o | .amoAdd o | .amoAnd o | .amoOr o | .amoXor o | .amoMin o | .amoMax o | .amoMinu o | .amoMaxu o => o.wfInt
  | .amoCas o => o.wf
  | .amoFadd o => o.wfFloat true
  | .amoFmin o | .amoFmax o => o.wfFloat false
  | .fence sc => sc != .task
  | .cpset idx _ => idx != 7
  | .sopen d _ s l => pairOk d && decide (s.toNat ≤ 5) && decide (1 ≤ l.toNat) && decide (l.toNat ≤ 10)
  | .srecv d _ it | .spoll d _ it => it.wf d
  | .sfscl _ _ b e => b.reg == 0 || e == 0
  | .sfbias _ _ _ i16 s => !i16 || s == 0
  | .splget d _ => pairOk d
  | .rdsr _ idx | .wrsr idx _ => decide (idx.toNat ≤ 21)
  | _ => true

end Sys2Proof
end

