-- ==== Sys2Proof/Machine/Float.lean ====
section
/-! DEFINITION. Floating point: formats, exact values, rounding, conversions, arithmetic and the estimating
functions (03_numbers.md R61 to R85). A pattern is a Nat below 2^width. -/

namespace Sys2Proof.Machine

/-! ## Formats (R61, R62) -/

structure Fmt where
  width : Nat
  /-- fraction bits -/
  fb    : Nat
  bias  : Nat
  /-- E4M3: no infinities, one NaN fraction -/
  ofp8  : Bool := false
  deriving DecidableEq, Repr

/-- The format of a floating-point type (R61); an integer type has none, and reads as FP32 where it is never used. -/
def fmtOf : Ty → Fmt
  | .fp64 => ⟨64, 52, 1023, false⟩
  | .bf16 => ⟨16, 7, 127, false⟩
  | .fp16 => ⟨16, 10, 15, false⟩
  | .e4m3 => ⟨8, 3, 7, true⟩
  | .e5m2 => ⟨8, 2, 15, false⟩
  | _ => ⟨32, 23, 127, false⟩

/-- The bits of the exponent field when all ones. -/
def Fmt.emax (f : Fmt) : Nat := 2 ^ (f.width - 1 - f.fb) - 1

/-- The magnitude of +∞ in formats that have it, and of the canonical NaN. -/
def Fmt.infBits (f : Fmt) : Nat := f.emax * 2 ^ f.fb
def Fmt.nanBits (f : Fmt) : Nat := if f.ofp8 then 0x7F else f.infBits + 2 ^ (f.fb - 1)

/-- The magnitude of the largest finite value. -/
def Fmt.maxBits (f : Fmt) : Nat := if f.ofp8 then 0x7E else f.infBits - 1

def Fmt.sign (f : Fmt) (neg : Bool) : Nat := if neg then 2 ^ (f.width - 1) else 0

/-- The exponent of the smallest subnormal. -/
def Fmt.low (f : Fmt) : Int := 1 - (f.bias : Int) - f.fb

/-- FTZ acts on FP32 and BF16 (R67). -/
def Fmt.flushes (f : Fmt) : Bool := f.bias == 127

/-! ## Values -/

/-- The value of a pattern: m * 2^e with m > 0, or a special. -/
inductive Num where
  | nan (sig : Bool)
  | inf (neg : Bool)
  | zero (neg : Bool)
  | fin (neg : Bool) (m : Nat) (e : Int)
  deriving DecidableEq, Repr

/-- The value of a pattern (R61, R62); with ftz a subnormal of FP32 or BF16 is a zero (R67). -/
def Fmt.num (f : Fmt) (ftz : Bool) (x : Nat) : Num :=
  let neg := x / 2 ^ (f.width - 1) % 2 = 1
  let mag := x % 2 ^ (f.width - 1)
  let ex := mag / 2 ^ f.fb
  let fr := mag % 2 ^ f.fb
  if f.ofp8 ∧ mag = 0x7F then .nan false
  else if ¬ f.ofp8 ∧ ex = f.emax then (if fr = 0 then .inf neg else .nan (decide (fr < 2 ^ (f.fb - 1))))
  else if ex = 0 then (if fr = 0 ∨ (ftz ∧ f.flushes) then .zero neg else .fin neg fr f.low)
  else .fin neg (2 ^ f.fb + fr) (f.low + (ex - 1 : Nat))

/-- Whether a value is a signalling NaN. -/
def Num.isSig : Num → Bool
  | .nan b => b
  | _ => false

def Num.isNan : Num → Bool
  | .nan _ => true
  | _ => false

/-- The signed integer k with value k * 2^e. -/
def Num.at (n : Num) (e : Int) : Int :=
  match n with
  | .fin neg m e' => (if neg then -1 else 1) * (m : Int) * 2 ^ (e' - e).toNat
  | _ => 0

/-- The exponent of a finite value. -/
def Num.exp : Num → Option Int
  | .fin _ _ e => some e
  | _ => none

/-! ## Rounding (R64 to R67) -/

/-- What a rounding goes by: the mode, FTZ, and the LFSR state drawn for the element. -/
structure FpEnv where
  mode : Rm := .rne
  ftz  : Bool := false
  draw : Nat := 1
  deriving Repr

/-- A result with the flags it raises. -/
structure FpRes where
  bits  : Nat
  flags : FpFlags := {}
  deriving DecidableEq, Repr

def Fmt.nanRes (f : Fmt) (nv : Bool) : FpRes := ⟨f.nanBits, { nv := nv }⟩

/-- Whether magnitude q + rem/2^sh (and a little more when sticky) rounds up. -/
def roundsUp (env : FpEnv) (neg : Bool) (q rem sh : Nat) (sticky : Bool) : Bool :=
  let inexact := rem ≠ 0 ∨ sticky
  match env.mode with
  | .rtz => false
  | .rdn => neg && decide inexact
  | .rup => !neg && decide inexact
  | .rna => decide (2 ^ sh ≤ 2 * rem) && decide (0 < sh)
  | .rsr => decide inexact && decide (env.draw ≤ rem * 2 ^ 32 / 2 ^ sh)
  | _ => decide (2 ^ sh < 2 * rem) || (decide (2 ^ sh = 2 * rem) && (sticky || decide (q % 2 = 1)))

/-- The overflow result (R64). -/
def Fmt.overflow (f : Fmt) (env : FpEnv) (neg : Bool) : FpRes :=
  let inf := match env.mode with
    | .rtz => false
    | .rdn => neg
    | .rup => !neg
    | _ => true
  ⟨f.sign neg + (if f.ofp8 then (if inf then f.nanBits else f.maxBits) else if inf then f.infBits else f.maxBits),
    { ov := true, nx := true }⟩

/-- The rounded magnitude on the unbounded grid, as a pattern that may pass the largest finite, with whether it is
inexact and whether the exact value is tiny. The exact value is m * 2^e, or lies above it by less than 2^e when
sticky. -/
def Fmt.grid (f : Fmt) (env : FpEnv) (neg : Bool) (m : Nat) (e : Int) (sticky : Bool) : Nat × Bool × Bool :=
  let top : Int := e + Nat.log2 m
  let qe : Int := max (top - f.fb) f.low
  let tiny := decide (top < f.low + f.fb)
  let sh := (qe - e).toNat
  let q := if qe ≤ e then m * 2 ^ (e - qe).toNat else m / 2 ^ sh
  let rem := if qe ≤ e then 0 else m % 2 ^ sh
  let q' := q + (if roundsUp env neg q rem sh sticky then 1 else 0)
  ((qe - f.low).toNat * 2 ^ f.fb + q', decide (rem ≠ 0) || sticky, tiny)

/-- rnd of a nonzero exact value (R64, R67). -/
def Fmt.rnd (f : Fmt) (env : FpEnv) (neg : Bool) (m : Nat) (e : Int) (sticky : Bool) : FpRes :=
  if m = 0 ∧ sticky = false then ⟨f.sign neg, {}⟩
  else
    match f.grid env neg m e sticky with
    | (mag, inexact, tiny) =>
      if env.ftz ∧ f.flushes ∧ tiny then ⟨f.sign neg, { uf := true, nx := true }⟩
      else if f.maxBits < mag then f.overflow env neg
      else ⟨f.sign neg + mag, { uf := tiny && inexact, nx := inexact }⟩

/-- rnd of a signed integer times 2^e; `zneg` is the sign of a zero. -/
def Fmt.rndInt (f : Fmt) (env : FpEnv) (k : Int) (e : Int) (zneg : Bool) : FpRes :=
  if k = 0 then ⟨f.sign zneg, {}⟩ else f.rnd env (decide (k < 0)) k.natAbs e false

/-! ## Sums and products (R64, R78, R79) -/

/-- The exact product; 0 × ∞ is an invalid operation. -/
def Num.mul (a b : Num) : Num × Bool :=
  match a, b with
  | .nan _, _ => (.nan false, false)
  | _, .nan _ => (.nan false, false)
  | .inf x, .inf y => (.inf (x != y), false)
  | .inf _, .zero _ => (.nan false, true)
  | .zero _, .inf _ => (.nan false, true)
  | .inf x, .fin y _ _ => (.inf (x != y), false)
  | .fin x _ _, .inf y => (.inf (x != y), false)
  | .zero x, .zero y => (.zero (x != y), false)
  | .zero x, .fin y _ _ => (.zero (x != y), false)
  | .fin x _ _, .zero y => (.zero (x != y), false)
  | .fin x m e, .fin y n g => (.fin (x != y) (m * n) (e + g), false)

def Num.neg : Num → Num
  | .inf s => .inf !s
  | .zero s => .zero !s
  | .fin s m e => .fin (!s) m e
  | .nan b => .nan b

/-- The lowest exponent among finite terms. -/
def lowExp (l : List Num) : Int :=
  l.foldl (fun acc n => match n.exp, acc with
    | some e, some a => some (min e a)
    | some e, none => some e
    | none, a => a) none |>.getD 0

/-- The sign of an exact zero sum (R64). -/
def zeroSign (env : FpEnv) (l : List Num) : Bool :=
  if l.all fun n => n == .zero false then false
  else if l.all fun n => n == .zero true then true
  else env.mode == .rdn

/-- rnd of the exact sum of terms. Infinities of both signs are invalid, beside a NaN too (R79). -/
def Fmt.sum (f : Fmt) (env : FpEnv) (l : List Num) : FpRes :=
  if l.any Num.isNan then f.nanRes (l.contains (.inf false) && l.contains (.inf true))
  else if l.contains (.inf false) then (if l.contains (.inf true) then f.nanRes true else ⟨f.infBits, {}⟩)
  else if l.contains (.inf true) then ⟨f.sign true + f.infBits, {}⟩
  else
    let e := lowExp l
    f.rndInt env (l.foldl (fun acc n => acc + n.at e) 0) e (zeroSign env l)

/-- Adds NV where it applies. -/
def FpRes.withNv (r : FpRes) (nv : Bool) : FpRes := { r with flags := r.flags.or { nv := nv } }

def Fmt.add (f : Fmt) (env : FpEnv) (x y : Nat) : FpRes :=
  let a := f.num env.ftz x
  let b := f.num env.ftz y
  (f.sum env [a, b]).withNv (a.isSig || b.isSig)

def Fmt.negate (f : Fmt) (x : Nat) : Nat := x ^^^ 2 ^ (f.width - 1)

def Fmt.sub (f : Fmt) (env : FpEnv) (x y : Nat) : FpRes :=
  let a := f.num env.ftz x
  let b := f.num env.ftz y
  (f.sum env [a, b.neg]).withNv (a.isSig || b.isSig)

/-- A single value rounded: a product, or a conversion. -/
def Fmt.one (f : Fmt) (env : FpEnv) (n : Num) : FpRes :=
  match n with
  | .nan _ => f.nanRes false
  | .inf s => ⟨f.sign s + f.infBits, {}⟩
  | .zero s => ⟨f.sign s, {}⟩
  | .fin s m e => f.rnd env s m e false

def Fmt.mul (f : Fmt) (env : FpEnv) (x y : Nat) : FpRes :=
  let a := f.num env.ftz x
  let b := f.num env.ftz y
  match a.mul b with
  | (p, bad) => (f.one env p).withNv (bad || a.isSig || b.isSig)

/-- x * y + z with one rounding; `np` negates the product, `nz` the addend (R78, R122). DESIGN CHOICE: 0 × ∞ sets NV
beside a quiet NaN addend too (log 9). -/
def Fmt.fma (f : Fmt) (env : FpEnv) (np nz : Bool) (x y z : Nat) : FpRes :=
  let a := f.num env.ftz x
  let b := f.num env.ftz y
  let c := f.num env.ftz z
  match a.mul b with
  | (p, bad) =>
    (f.sum env [if np then p.neg else p, if nz then c.neg else c]).withNv (bad || a.isSig || b.isSig || c.isSig)

/-! ## Division and square root -/

/-- Bits of quotient and root beyond the fraction: enough for RSR's 32-bit comparison. -/
def guardBits : Nat := 80

def Fmt.div (f : Fmt) (env : FpEnv) (x y : Nat) : FpRes :=
  let a := f.num env.ftz x
  let b := f.num env.ftz y
  let sig := a.isSig || b.isSig
  match a, b with
  | .nan _, _ => f.nanRes sig
  | _, .nan _ => f.nanRes sig
  | .inf _, .inf _ => f.nanRes true
  | .zero _, .zero _ => f.nanRes true
  | .inf s, .fin t _ _ => ⟨f.sign (s != t) + f.infBits, {}⟩
  | .inf s, .zero t => ⟨f.sign (s != t) + f.infBits, {}⟩
  | .zero s, .fin t _ _ => ⟨f.sign (s != t), {}⟩
  | .zero s, .inf t => ⟨f.sign (s != t), {}⟩
  | .fin s _ _, .inf t => ⟨f.sign (s != t), {}⟩
  | .fin s _ _, .zero t => ⟨f.sign (s != t) + f.infBits, { dz := true }⟩
  | .fin s m e, .fin t n g =>
    let p := f.fb + guardBits + Nat.log2 n
    let q := m * 2 ^ p / n
    f.rnd env (s != t) q (e - g - p) (decide (m * 2 ^ p % n ≠ 0))

/-- The integer square root, bit by bit from bit n - 1 down. -/
def isqrtBits (x : Nat) : Nat → Nat → Nat
  | 0, r => r
  | n + 1, r => isqrtBits x n (if (r + 2 ^ n) * (r + 2 ^ n) ≤ x then r + 2 ^ n else r)

def isqrt (x : Nat) : Nat := isqrtBits x (Nat.log2 x / 2 + 1) 0

/-- m * 2^e as n * 2^(2g), with at least k more bits than m. -/
def evenScale (m : Nat) (e : Int) (k : Nat) : Nat × Int :=
  let up := 2 * k + (if e % 2 = 0 then 0 else 1)
  (m * 2 ^ up, (e - up) / 2)

def Fmt.sqrt (f : Fmt) (env : FpEnv) (x : Nat) : FpRes :=
  match f.num env.ftz x with
  | .nan s => f.nanRes s
  | .inf false => ⟨f.infBits, {}⟩
  | .inf true => f.nanRes true
  | .zero s => ⟨f.sign s, {}⟩
  | .fin true _ _ => f.nanRes true
  | .fin false m e =>
    match evenScale m e (f.fb + guardBits) with
    | (n, g) =>
      let r := isqrt n
      f.rnd env false r g (decide (r * r ≠ n))

/-! ## Order, minimum and maximum (R78) -/

/-- A sort key: −0 is below +0; NaN is not asked for. -/
def Fmt.orderKey (f : Fmt) (ftz : Bool) (x : Nat) : Int :=
  match f.num ftz x with
  | .zero s => if s then -1 else 0
  | _ =>
    let mag : Int := (x % 2 ^ (f.width - 1) : Nat)
    if x / 2 ^ (f.width - 1) % 2 = 1 then -1 - mag else mag

/-- The pattern as it is read under FTZ. -/
def Fmt.read (f : Fmt) (ftz : Bool) (x : Nat) : Nat :=
  match f.num ftz x with
  | .zero s => f.sign s
  | _ => x

def Fmt.minmax (f : Fmt) (env : FpEnv) (big : Bool) (x y : Nat) : FpRes :=
  let a := f.num env.ftz x
  let b := f.num env.ftz y
  let sig := a.isSig || b.isSig
  if a.isNan || b.isNan then f.nanRes sig
  else
    let le := decide (f.orderKey env.ftz x ≤ f.orderKey env.ftz y)
    ⟨f.read env.ftz (if le != big then x else y), {}⟩

/-- IEEE comparison of two numbers: the order of their values; none when a NaN is there. Zeros are equal. -/
def Fmt.cmp (f : Fmt) (ftz : Bool) (x y : Nat) : Option Ordering :=
  let a := f.num ftz x
  let b := f.num ftz y
  if a.isNan || b.isNan then none
  else
    let k (n : Num) (v : Nat) : Int := match n with | .zero _ => 0 | _ => f.orderKey ftz v
    let fix (n : Num) (v : Int) : Int := match n with | .zero _ => 0 | _ => if v < 0 then v else v + 1
    some (compare (fix a (k a x)) (fix b (k b y)))

/-! ## Conversions (R69 to R72) -/

/-- Float to float (R69, R70). -/
def convFF (src dst : Fmt) (env : FpEnv) (sat : Bool) (x : Nat) : FpRes :=
  let n := src.num env.ftz x
  match n with
  | .nan s => dst.nanRes s
  | .inf s =>
    if sat ∧ dst.width = 8 then ⟨dst.sign s + dst.maxBits, { sat := true, nx := true }⟩
    else if dst.ofp8 then dst.nanRes true else ⟨dst.sign s + dst.infBits, {}⟩
  | .zero s => ⟨dst.sign s, {}⟩
  | .fin s m e =>
    let r := dst.rnd env s m e false
    if r.flags.ov ∧ dst.width = 8 then
      if sat then ⟨dst.sign s + dst.maxBits, { sat := true, nx := true }⟩
      else if dst.ofp8 then ⟨dst.nanBits, { ov := true, nx := true }⟩ else r
    else r

/-- The value rounded to an integer, and whether it was inexact. -/
def toIntegral (env : FpEnv) (s : Bool) (m : Nat) (e : Int) : Int × Bool :=
  let sh := (-e).toNat
  let q := if 0 ≤ e then m * 2 ^ e.toNat else m / 2 ^ sh
  let rem := if 0 ≤ e then 0 else m % 2 ^ sh
  let q' := q + (if roundsUp env s q rem sh false then 1 else 0)
  ((if s then -(q' : Int) else q'), decide (rem ≠ 0))

/-- Float to Iw (R71): the result as a pattern of w bits. -/
def convFI (src : Fmt) (w : Nat) (env : FpEnv) (x : Nat) : FpRes :=
  let lim (neg : Bool) : FpRes := ⟨if neg then 2 ^ (w - 1) else 2 ^ (w - 1) - 1, { nv := true }⟩
  match src.num env.ftz x with
  | .nan _ => ⟨0, { nv := true }⟩
  | .inf s => lim s
  | .zero _ => ⟨0, {}⟩
  | .fin s m e =>
    match toIntegral env s m e with
    | (k, nx) =>
      if k < -(2 ^ (w - 1) : Int) then lim true
      else if (2 ^ (w - 1) : Int) ≤ k then lim false
      else ⟨ofInt w k, { nx := nx }⟩

/-- Iw to float (R72); for an 8-bit destination the saturate bit acts as R70. -/
def convIF (w : Nat) (dst : Fmt) (env : FpEnv) (sat : Bool) (x : Nat) : FpRes :=
  let k := asInt w x
  let r := dst.rndInt env k 0 false
  if r.flags.ov ∧ dst.width = 8 then
    if sat then ⟨dst.sign (decide (k < 0)) + dst.maxBits, { sat := true, nx := true }⟩
    else if dst.ofp8 then ⟨dst.nanBits, { ov := true, nx := true }⟩ else r
  else r

/-- Iw to Iw' (R72). -/
def convII (w w' : Nat) (sat : Bool) (x : Nat) : FpRes :=
  let k := asInt w x
  if sat then
    if k < -(2 ^ (w' - 1) : Int) then ⟨2 ^ (w' - 1), { sat := true, nx := true }⟩
    else if (2 ^ (w' - 1) : Int) ≤ k then ⟨2 ^ (w' - 1) - 1, { sat := true, nx := true }⟩
    else ⟨ofInt w' k, {}⟩
  else ⟨ofInt w' k, {}⟩

/-- Any conversion between element types (R69 to R72). -/
def convert (st dt : Ty) (env : FpEnv) (sat : Bool) (x : Nat) : FpRes :=
  match st.isInt, dt.isInt with
  | false, false => convFF (fmtOf st) (fmtOf dt) env sat x
  | false, true => convFI (fmtOf st) dt.width env x
  | true, false => convIF st.width (fmtOf dt) env sat x
  | true, true => convII st.width dt.width sat x

/-! ## The LFSR (R65, R66) -/

def lfsrStep (s : W32) : W32 := if bit s 0 then (s >>> 1) ^^^ 0x80200003 else s >>> 1

/-- n steps. -/
def lfsrSteps : Nat → W32 → W32
  | 0, s => s
  | n + 1, s => lfsrSteps n (lfsrStep s)

/-- The seed of a task (R66). -/
def lfsrSeed (seed : Nat) (taskid : Word) : W32 :=
  let s := BitVec.ofNat 32 seed ^^^ taskid.setWidth 32
  if s = 0 then 1 else s

/-! ## NQ4 (R73 to R75) -/

/-- m[i] of the levels. -/
def nq4Level (i : Nat) : Nat := [43, 130, 221, 318, 427, 555, 725, 1024].getD i 0

/-- The decoded element: code, block scale, super-scale bits, destination format (R75). -/
def nq4Decode (f : Fmt) (c s8 sup : Nat) : Nat :=
  if s8 = 0 then 0
  else
    match (fmtOf .fp32).num false sup with
    | .nan _ => f.nanBits
    | .inf _ => f.nanBits
    | .zero s => f.sign (s != decide (c / 8 % 2 = 1))
    | .fin s m e =>
      let neg := s != decide (c / 8 % 2 = 1)
      let r := f.rnd {} neg (nq4Level (c % 8) * s8 * m) (e - 17) false
      if r.flags.ov ∧ f.ofp8 then f.sign neg + f.maxBits else r.bits

/-! ## The estimating functions (R81 to R84; log 9) -/

/-- Fixed-point working precision of the reference values. -/
def estBits : Nat := 160

/-- 2^(f / 2^n) in fixed point with `estBits` fraction bits: the low n bits of f select square roots of 2, the next
root at each step; `root` is 2^(2^-k) for the current bit. -/
def exp2Frac (f : Nat) : Nat → Nat → Nat → Nat
  | 0, _, acc => acc
  | n + 1, root, acc =>
    let root' := isqrt (root * 2 ^ estBits)
    exp2Frac f n root' (if f / 2 ^ n % 2 = 1 then acc * root' / 2 ^ estBits else acc)

/-- 2^x for x = k / 2^n: the value is m * 2^e. -/
def exp2Ref (k : Int) (n : Nat) : Nat × Int :=
  (exp2Frac (k % 2 ^ n).toNat n (2 * 2 ^ estBits) (2 ^ estBits), k / 2 ^ n - estBits)

/-- Fraction bits of log2 of a fixed-point number in [1, 2): squaring, one bit at a time. -/
def log2Bits : Nat → Nat → Nat → Nat
  | 0, _, acc => acc
  | n + 1, x, acc =>
    let y := x * x / 2 ^ estBits
    if 2 * 2 ^ estBits ≤ y then log2Bits n (y / 2) (2 * acc + 1) else log2Bits n y (2 * acc)

/-- log2 of m * 2^e in units of 2^-100. -/
def log2Ref (m : Nat) (e : Int) : Int :=
  let t := Nat.log2 m
  let x := if t ≤ estBits then m * 2 ^ (estBits - t) else m / 2 ^ (t - estBits)
  (e + t) * 2 ^ 100 + log2Bits 100 x 0

/-- The code by which `Config.freeEstimate` names a function with its type. -/
def estCode (fn : Nat) (t : Ty) : Nat :=
  fn * 4 + (match t with | .fp64 => 0 | .fp32 => 1 | .bf16 => 2 | _ => 3)

/-- A candidate pattern is kept when its value lies within `tol` of the reference m * 2^e, both scaled by 2^g. -/
def withinTol (f : Fmt) (cand : Nat) (neg : Bool) (m : Nat) (e : Int) (tol : Nat) (te : Int) : Bool :=
  match f.num false cand with
  | .fin s n g =>
    let low := min e (min g te)
    let r : Int := (if neg then -1 else 1) * (m : Int) * 2 ^ (e - low).toNat
    let c : Int := (if s then -1 else 1) * (n : Int) * 2 ^ (g - low).toNat
    decide ((r - c).natAbs ≤ tol * 2 ^ (te - low).toNat)
  | .zero _ =>
    let low := min e te
    decide (m * 2 ^ (e - low).toNat ≤ tol * 2 ^ (te - low).toNat)
  | _ => false

/-- The estimate of the reference value m * 2^e: the part's own result where it is within the bound, else the
value truncated (log 9). The bound is `tol` * 2^te. -/
def estimate (f : Fmt) (code x : Nat) (neg : Bool) (m : Nat) (e : Int) (tol : Nat) (te : Int) : Nat :=
  let cand := Config.freeEstimate code x % 2 ^ f.width
  if withinTol f cand neg m e tol te then cand else (f.rnd { mode := .rtz } neg m e true).bits

/-- The result of an estimate of m * 2^e, with NX, and with UF when that exact value is tiny (R67, R84). -/
def estRes (f : Fmt) (bits m : Nat) (e : Int) : FpRes :=
  ⟨bits, { nx := true, uf := decide (e + Nat.log2 m < f.low + f.fb) }⟩

/-- The spacing exponent of a format in the binade of a value whose top bit has exponent t. -/
def Fmt.ulpExp (f : Fmt) (t : Int) : Int := max (t - f.fb) f.low

/-- VEXP2 in FP32 (R81). DEDUCED: NX goes with OF, as R64 has it. DESIGN CHOICE: an integer x below -126 is no exact
case (log 9). -/
def exp2F32 (code x : Nat) (v : Num) : FpRes :=
  let f := fmtOf .fp32
  match v with
  | .nan s => f.nanRes s
  | .inf false => ⟨f.infBits, {}⟩
  | .inf true => ⟨0, {}⟩
  | .zero _ => f.rnd {} false 1 0 false
  | .fin s m e =>
    -- 3 * 2^7 in magnitude is beyond every finite result
    if decide (9 ≤ e + Nat.log2 m) then
      if s then ⟨0, { uf := true, nx := true }⟩ else ⟨f.infBits, { ov := true, nx := true }⟩
    else
      let n := (-e).toNat
      let k : Int := (if s then -1 else 1) * (if 0 ≤ e then (m * 2 ^ e.toNat : Nat) else m : Nat)
      if 128 * 2 ^ n ≤ k then ⟨f.infBits, { ov := true, nx := true }⟩
      else if k < -149 * 2 ^ n then ⟨0, { uf := true, nx := true }⟩
      else if k % 2 ^ n = 0 ∧ -126 ≤ k / 2 ^ n then f.rnd {} false 1 (k / 2 ^ n) false
      else
        match exp2Ref k n with
        | (r, g) => estRes f (estimate f code x false r g 2 (f.ulpExp (k / 2 ^ n))) r g

/-- VLOG2 in FP32 (R82). -/
def log2F32 (code x : Nat) (v : Num) : FpRes :=
  let f := fmtOf .fp32
  match v with
  | .nan s => f.nanRes s
  | .inf false => ⟨f.infBits, {}⟩
  | .inf true => f.nanRes true
  | .zero _ => ⟨f.sign true + f.infBits, { dz := true }⟩
  | .fin true _ _ => f.nanRes true
  | .fin false m e =>
    if m = 2 ^ Nat.log2 m then f.rndInt {} (e + Nat.log2 m) 0 false
    else
      let r := log2Ref m e
      let t : Int := Nat.log2 r.natAbs - 100
      let inner := decide (-1 ≤ e + Nat.log2 m) && decide (e + Nat.log2 m < 1)
      estRes f (estimate f code x (decide (r < 0)) r.natAbs (-100) (if inner then 1 else 2)
        (if inner then -22 else f.ulpExp t)) r.natAbs (-100)

/-- VRCP in FP32 or FP64 (R83). DEDUCED: NX goes with OF, as R64 has it (log 9). -/
def rcpIn (f : Fmt) (code x : Nat) (v : Num) : FpRes :=
  match v with
  | .nan s => f.nanRes s
  | .inf s => ⟨f.sign s, {}⟩
  | .zero s => ⟨f.sign s + f.infBits, { dz := true }⟩
  | .fin s m e =>
    if m = 2 ^ Nat.log2 m then f.rnd {} s 1 (-(e + Nat.log2 m)) false
    else
      let p := f.fb + guardBits + Nat.log2 m
      let q := 2 ^ p / m
      let g : Int := -e - p
      let t : Int := g + Nat.log2 q
      let r := f.rnd { mode := .rtz } s q g true
      if r.flags.ov then ⟨f.sign s + f.infBits, { ov := true, nx := true }⟩
      else if t < f.low + f.fb then estRes f (estimate f code x s q g 1 f.low) q g
      else estRes f (estimate f code x s q g q (g - 23)) q g

/-- VRSQ in FP32 or FP64 (R83). -/
def rsqIn (f : Fmt) (code x : Nat) (v : Num) : FpRes :=
  match v with
  | .nan s => f.nanRes s
  | .inf false => ⟨0, {}⟩
  | .inf true => f.nanRes true
  | .zero s => ⟨f.sign s + f.infBits, { dz := true }⟩
  | .fin true _ _ => f.nanRes true
  | .fin false m e =>
    if m = 2 ^ Nat.log2 m ∧ (e + Nat.log2 m) % 2 = 0 then f.rnd {} false 1 (-((e + Nat.log2 m) / 2)) false
    else
      match evenScale m e (f.fb + guardBits) with
      | (n, g) =>
        let p := f.fb + guardBits + Nat.log2 n
        let q := isqrt (2 ^ (2 * p) / n)
        estRes f (estimate f code x false q (-g - p) q (-g - p - 23)) q (-g - p)

/-- Rounds an FP32 result once to BF16 or FP16 by RNE (R81 to R83). -/
def narrowEst (f : Fmt) (r : FpRes) : FpRes :=
  if f.width = 32 then r
  else
    let n := convFF (fmtOf .fp32) f {} false r.bits
    ⟨n.bits, r.flags.or n.flags⟩

/-- An estimating function on a pattern of a type: 0 VEXP2, 1 VLOG2, 2 VRCP, 3 VRSQ. -/
def estFn (fn : Nat) (t : Ty) (ftz : Bool) (x : Nat) : FpRes :=
  let f := fmtOf t
  let v := f.num ftz x
  let c := estCode fn t
  match fn with
  | 0 => narrowEst f (exp2F32 c x v)
  | 1 => narrowEst f (log2F32 c x v)
  | 2 => if t = .fp64 then rcpIn f c x v else narrowEst f (rcpIn (fmtOf .fp32) c x v)
  | _ => if t = .fp64 then rsqIn f c x v else narrowEst f (rsqIn (fmtOf .fp32) c x v)

end Sys2Proof.Machine
end

