-- ==== Sys2Proof/Machine/Mail.lean ====
section
/-! DEFINITION. Messages between slots: thread-address checks (R19), remote writes (R23), receive queues (R188),
held senders and overflow (R341). -/

namespace Sys2Proof.Machine

/-! ## Storage keys -/

/-- The storage key of a byte of a quad's QLM (log 1). -/
def qlmKey (quad off : Nat) : Nat := 2 ^ 64 + quad * 2 ^ 20 + off

/-- The space of host memory, and of a peer device's HBM. -/
def hostKey (pa : Nat) : Nat := 2 * 2 ^ 64 + pa
def peerKey (dev pa : Nat) : Nat := (3 + dev) * 2 ^ 64 + pa

/-- The local QLM offset of a core's receive-queue area (R188). -/
def rxOff (core : Nat) : Nat := 0xFC000 + core % 4 * 0x1000

/-! ## Thread addresses as targets (R19) -/

/-- Whether a device number stands in a context's fabric group table (R326). -/
def State.inFabric (s : State) (c : Ctx) (dev : Nat) : Bool :=
  c.fabgrp != 0 &&
    (List.range (ofBytes (Memory.read s.mem c.fabgrp 4))).any fun i =>
      ofBytes (Memory.read s.mem (c.fabgrp + 4 + 2 * i) 2) == dev

/-- The device field, with the device's own number read as 0 (R19). -/
def State.devOf (s : State) (t : Word) : Nat :=
  let d := slice t 16 16
  if d = s.host.devNo then 0 else d

/-- The checks of R19 on a thread address used as a target by a task of context c. -/
def State.taOk (s : State) (c : Ctx) (t : Word) : Bool :=
  let dev := s.devOf t
  slice t 32 32 == 0 && !(bit t 2 && slice t 0 2 != 0) &&
    (if dev = 0 then s.present (slice t 14 2) (slice t 5 9) else s.inFabric c dev)

/-- The slot that stands for a lashed pair (22_ras_power.md, "Lashed pairs"). -/
def State.pairOf (s : State) (ta : Nat) : Nat := ((s.slot ta).partner).getD ta

/-! ## Receive queues -/

def RxMsg.entries (m : RxMsg) : Nat := 1 + (m.more.length + 3) / 4

/-- The entries that messages in arrival order fill in the queue and in its extension: once one has gone to the extension,
so do those that follow (R188, R341). -/
def rxFill : List RxMsg → Nat → Nat → Nat × Nat
  | [], used, ext => (used, ext)
  | m :: ms, used, ext =>
    if ext = 0 ∧ used + m.entries ≤ 64 then rxFill ms (used + m.entries) ext else rxFill ms used (ext + m.entries)

/-- Whether a message finds room: the queue holds 64 entries, an extension 4,096 more (R341). -/
def CoreSt.rxFits (c : CoreSt) (m : RxMsg) : Bool :=
  let (used, ext) := rxFill c.rxq 0 0
  (ext == 0 && decide (used + m.entries ≤ 64)) || (c.ext.isSome && decide (ext + m.entries ≤ 4096))

/-- The places of messages in arrival order: a ring of 64 entries that begins at `start`, then the extension from 64 up
(log 18). -/
def rxLay (start : Nat) : List RxMsg → Nat → Nat → List Nat
  | [], _, _ => []
  | m :: ms, used, ext =>
    if ext = 0 ∧ used + m.entries ≤ 64 then (start + used) % 64 :: rxLay start ms (used + m.entries) ext
    else (64 + ext) :: rxLay start ms used (ext + m.entries)

/-- The entries of the messages that arrived before the one at place p. -/
def rxBefore (p : Nat) : List RxMsg → Nat
  | [] => 0
  | m :: ms => if m.pos = p then 0 else m.entries + rxBefore p ms

/-- Where the ring begins: the triggering message of the activation in the handler slot stays where it is (R188). -/
def State.rxStart (s : State) (core : Nat) : Nat :=
  match (s.slot (hndOf core)).trigger with
  | some t => (t.pos + 64 - rxBefore t.pos (s.core core).rxq % 64) % 64
  | none => 0

/-- The words of the entries of a message (R188, R225). -/
def RxMsg.words (m : RxMsg) : List Word :=
  [m.sender, m.value,
   BitVec.ofNat 64 (m.kind + m.reg.toNat * 2 ^ 8 + (if m.pois then 2 ^ 15 else 0) + (m.entries - 1) * 2 ^ 16
     + m.w2h.toNat * 2 ^ 32), m.w3] ++ m.more

/-- The storage key of entry p of a core's queue: QLM, or the extension (R188, R341). -/
def State.rxKey (s : State) (core p : Nat) : Nat :=
  if p < 64 then qlmKey (core / 4) (rxOff core + 32 * p) else ((s.core core).ext.getD 0) + 32 * (p - 64)

def bytesOfWords64 : List Word → List Byte
  | [] => []
  | w :: ws => toBytes 8 w.toNat ++ bytesOfWords64 ws

/-- Writes the entries of a message from place p on (R188). -/
def State.rxWrite (s : State) (core p : Nat) (m : RxMsg) : State :=
  (List.range m.entries).foldl (fun (s : State) j =>
    let q := if p < 64 then (p + j) % 64 else p + j
    s.setMem (Memory.write s.mem (s.rxKey core q) (bytesOfWords64 ((m.words.drop (4 * j)).take 4)))) s

/-- The entries of a queue close up in arrival order: those that move are written at their new places. -/
def State.rxPack (s : State) (core : Nat) : State :=
  let q := (s.core core).rxq
  let at_ := rxLay (s.rxStart core) q 0 0
  let s := (List.range q.length).foldl (fun (s : State) i =>
    match q[i]?, at_[i]? with
    | some m, some p => if m.pos = p then s else s.rxWrite core p m
    | _, _ => s) s
  s.modCore core fun c => { c with rxq := (c.rxq.zip at_).map fun x => { x.1 with pos := x.2 } }

/-- The place of a message that has none yet. -/
def rxNowhere : Nat := 65536

/-- Puts a message into the queue of a core: its entries are written after those that arrived before (R188). -/
def State.rxPut (s : State) (core : Nat) (m : RxMsg) : State :=
  ((s.modCore core fun c => { c with rxq := c.rxq ++ [{ m with pos := rxNowhere }] }).rxPack core).count m.ta 28 m.entries

/-- A message is held; the first one freezes the handler slot before it starts another activation (R341; log 18). -/
def State.rxHold (s : State) (core : Nat) (m : RxMsg) (who : Option Nat) : State :=
  let first := (s.core core).held.isEmpty
  let s := s.modCore core fun c => { c with held := c.held ++ [(m, who)] }
  if first then s.post (.rxfull core) else s

/-- A remote write lands in its register, or completes the TAKE that waits for it (R23, R96). -/
def Slot.landMail (sl : Slot) (n : BitVec 5) (v : Word) (pois : Bool) : Slot :=
  let r : Reg := 32 + n.setWidth 6
  match takeFirst (fun t => t.1 == r) sl.takes with
  | some ((_, d), rest) => { sl with takes := rest }.arriveG d v pois
  | none => sl.arriveG r v pois

/-- Whether a remote write can land at once: its register is EMPTY and not pending (R23), or is pending only for a
TAKE of this very register into itself (R96). -/
def Slot.mailReady (sl : Slot) (n : BitVec 5) : Bool :=
  let r : Reg := 32 + n.setWidth 6
  let x := sl.greg r
  (x.pres == .empty && !x.pend) || sl.takes.contains (r, r)

/-- The task that a quiesce has saved in a slot: a remote write to it stays with it (R348, log 18). -/
def State.savedMail (s : State) (m : RxMsg) : Option Nat :=
  match s.ctx m.ctx with
  | some c =>
    if c.stopped then
      s.units.findSome? fun u =>
        if u.stopped && u.ctx == m.ctx then (u.members.find? fun x => x.ta == m.ta && !x.ended).map Member.uid else none
    else none
  | none => none

/-- A remote write whose slot holds no task of its context: it lands in the task that a quiesce has saved there, or waits for
it; otherwise it is dropped (R19, R348). -/
def State.rxSaved (s : State) (core : Nat) (m : RxMsg) : State :=
  match s.savedMail m with
  | none => s.drop m.ctx
  | some u =>
    if (Store.get {} s.parked u : Slot).mailReady m.reg then
      { s with parked := Store.set s.parked u ((Store.get {} s.parked u : Slot).landMail m.reg m.value m.pois) }
    else s.rxPut core { m with uid := u }

/-- Gives a message to its core: a remote write to a task that is gone is dropped, one whose register is EMPTY
lands, and any other message takes its entries (R19, R23). -/
def State.rxGive (s : State) (core : Nat) (m : RxMsg) : State :=
  if m.kind = 0 then
    let sl := s.slot m.ta
    if sl.st = .idle ∨ sl.ctx ≠ m.ctx then s.rxSaved core m
    else if sl.mailReady m.reg then s.modSlot m.ta fun sl => sl.landMail m.reg m.value m.pois
    else s.rxPut core { m with uid := sl.uid }
  else s.rxPut core m

/-- Whether a message may go in now: nothing is held before it and its entries fit, or it needs none (R341). -/
def State.rxOpen (s : State) (core : Nat) (m : RxMsg) : Bool :=
  let c := s.core core
  let sl := s.slot m.ta
  c.held.isEmpty && (c.rxFits m || (m.kind == 0 && (if sl.st == .idle || sl.ctx != m.ctx then
    (match s.savedMail m with | none => true | some u => (Store.get {} s.parked u : Slot).mailReady m.reg)
    else sl.mailReady m.reg)))

/-- A message reaches its core. -/
def State.rxArrive (s : State) (core : Nat) (m : RxMsg) (who : Option Nat) : State :=
  if s.rxOpen core m then s.rxGive core m else s.rxHold core m who

/-- Held messages go in, in the order they were held, while they fit (R341). -/
def State.rxRelease (s : State) (core : Nat) : List (RxMsg × Option Nat) → State
  | [] => s.modCore core fun c => { c with held := [] }
  | (m, b) :: rest =>
    let s₁ := s.modCore core fun c => { c with held := [] }
    if s₁.rxOpen core m then
      let s₂ := s₁.rxGive core m
      let s₃ := match b with
        | none => s₂
        | some u => s₂.modTask ⟨0, u⟩ fun sl => { sl with sending := false, sent := true }
      s₃.rxRelease core rest
    else s.modCore core fun c => { c with held := (m, b) :: rest }

/-- Entries have left: entries return from the extension, held messages may go in, and an empty extension detaches
(R341). -/
def State.rxLeft (s : State) (core : Nat) : State :=
  let s := s.rxPack core
  let s := s.rxRelease core (s.core core).held
  s.modCore core fun c => if c.rxq.isEmpty then { c with ext := none } else c

/-- A register of the slot ta has been emptied: the oldest write waiting for it lands (R23, R98). -/
def State.landNext (s : State) (ta : Nat) (r : Reg) : State :=
  if r.toNat < 32 then s else
  let n : BitVec 5 := (r - 32).setWidth 5
  let sl := s.slot ta
  if !sl.mailReady n then s else
  match takeFirst (fun m => m.kind == 0 && m.ta == ta && m.reg == n && m.uid == sl.uid) (s.core (taCore ta)).rxq with
  | none => s
  | some (m, rest) =>
    let s := s.modCore (taCore ta) fun c => { c with rxq := rest }
    let s := s.modSlot ta fun sl => sl.landMail n m.value m.pois
    s.rxLeft (taCore ta)

/-! ## Sending -/

/-- Whether an atomic that the slot issued has not been performed yet (R218; log 5). -/
def State.amoOut (s : State) (u : Nat) : Bool :=
  (s.agenda.any fun i => match i with | .atomicAtHome r => r.req.uid == u | _ => false) ||
    s.cores.any fun p => (p.2.rxq ++ p.2.held.map Prod.fst).any fun m =>
      match m.amo with | some r => r.req.uid == u | none => false

/-- The slot's next access must wait: an atomic of it is on its way, or the value of an acquiring access (R211; log 5). -/
def State.accessHeld (s : State) : Bool := s.amoOut s.me.uid || s.me.acquires

/-- Every earlier access of the slot has been performed, and what it acquires has arrived (R211; log 5). -/
def State.waitAmo (s : State) : Res Unit := await (!s.accessHeld) s

/-- A pending load or atomic of the slot has not arrived (R221, R223). -/
def Slot.anyPending (sl : Slot) : Bool := sl.g.toList.any fun x => x.pend

/-- A message of an activation is held until it ends (R226); any other goes on its way. -/
def State.send (s : State) (i : Instr) : State :=
  if taHnd s.cur then s.modMe fun sl => { sl with outbox := sl.outbox ++ [.event i] } else s.post i

/-- The sender as it names itself (R188). -/
def State.selfAddr (s : State) : Word := BitVec.ofNat 64 s.cur

/-- The message of a remote write. -/
def msgOf (w : RemWrite) : RxMsg := ⟨0, w.sender, w.ctx, w.ta, w.reg, w.value, w.pois, 0, 0, 0, [], none, 0, 0⟩

/-- A remote write of a sender to a thread that is on its way. -/
def isMail (sender : Word) (ta : Nat) : Instr → Bool
  | .remoteWriteArrival w => w.sender == sender && w.ta == ta
  | _ => false

/-- The remote writes of a sender to a thread reach it, in the order sent: no later message of this sender to it
passes them (R101, R225). -/
def State.flushMail (s : State) (sender : Word) (ta : Nat) : State :=
  (s.agenda.filter (isMail sender ta)).foldl (fun (s : State) i =>
    match i with
    | .remoteWriteArrival w => s.rxArrive (taCore ta) (msgOf w) none
    | _ => s) { s with agenda := s.agenda.filter fun i => !isMail sender ta i }

/-- A slot sends a message to a core of this device: where the queue is full the sender blocks at the instruction
until the message has been placed (R341). -/
def State.sendRx (s : State) (core : Nat) (m : RxMsg) (i : Instr) : Res Unit :=
  let sl := s.me
  if sl.sent then .ok s ()
  else if sl.sending then .wait s
  else if taHnd s.cur || s.rxOpen core m then .ok (s.send i) ()
  else .wait (((s.flushMail s.selfAddr m.ta).rxHold core m (some sl.uid)).modMe fun sl => { sl with sending := true })

/-- A remote write by the issuing slot to g(32 + n) of the thread t, which has passed R19 (R23, R47, R212). To
another device it waits for STQ = 0 and leaves this machine (log 16). -/
def State.sendRemote (s : State) (t : Word) (n : BitVec 5) (v : Word) (pois : Bool) : Res Unit :=
  s.waitRpq.bind fun s _ => s.waitAmo.bind fun s _ =>
  if s.devOf t ≠ 0 then await (s.me.stq == 0) s
  else
    let ta := s.pairOf (slice t 0 16)
    let w : RemWrite := ⟨s.selfAddr, s.me.ctx, ta, n, v, pois⟩
    s.sendRx (taCore ta) ⟨0, w.sender, w.ctx, ta, n, v, pois, 0, 0, 0, [], none, 0, 0⟩ (.remoteWriteArrival w)

/-- The target of a remote destination: the thread address in g(e), checked by R19. -/
def State.target (s : State) (t : Word) : Res Unit := need (s.taOk s.myCtx t) 0x07 t s

end Sys2Proof.Machine
end

