-- ==== Sys2Proof/Machine/Cache.lean ====
section
/-! DEFINITION. The caches as far as they show (R189 to R193, R197), and the format views (R200 to R203). -/

namespace Sys2Proof.Machine

/-! ## Cache sets -/

/-- Moves a hit to the front, but under .EF; .KP marks keep, at most `lim` marks a set (R192). -/
def hitLine (h : Hint) (lim : Nat) (set : List CacheLine) (line : Nat) : List CacheLine :=
  match takeFirst (fun x => x.line == line) set with
  | none => set
  | some (x, rest) =>
    match h with
    | .ef => set
    | .kp => limitKeep lim ({ x with keep := true } :: rest)
    | _ => x :: rest
where
  /-- Clears the mark of the least recently used keep line beyond the limit. -/
  limitKeep (lim : Nat) (set : List CacheLine) : List CacheLine :=
    if (set.filter fun x => x.keep).length ≤ lim then set
    else (updFirst (fun x => x.keep) (fun x => { x with keep := false }) set.reverse).reverse

/-- Puts a line in, at the front or under .EF at the end. -/
def putLine (h : Hint) (lim : Nat) (set : List CacheLine) (x : CacheLine) : List CacheLine :=
  match h with
  | .ef => set ++ [x]
  | .kp => hitLine.limitKeep lim ({ x with keep := true } :: set)
  | _ => x :: set

/-- The victim among the ways that pass: the least recently used line without keep, else the least recently
used. -/
def victim (ok : CacheLine → Bool) (set : List CacheLine) : Option CacheLine :=
  match set.reverse.find? fun x => ok x && !x.keep with
  | some x => some x
  | none => set.reverse.find? ok

/-- The lowest way of the list that no line of the set holds. -/
def freeWay (ways : List Nat) (set : List CacheLine) : Option Nat :=
  ways.find? fun w => set.all fun x => x.way != w

/-- Fills a set among the given ways. -/
def fillSet (h : Hint) (lim : Nat) (ways : List Nat) (set : List CacheLine) (line : Nat) (data : List Byte) :
    List CacheLine :=
  match freeWay ways set with
  | some w => putLine h lim set { line := line, way := w, data := data }
  | none =>
    match victim (fun x => ways.contains x.way) set with
    | none => set
    | some v => putLine h lim (set.filter fun x => x.way != v.way) { line := line, way := v.way, data := data }

/-! ## Where a line lives (R190, R191) -/

/-- The L2 set of a line: home die, and slice and set as one number. -/
def l2Home (pa : Nat) : Nat × Nat :=
  let l := (pa / 2 ^ 14) * 2 ^ 5 + pa / 2 ^ 7 % 2 ^ 5
  (pa / 2 ^ 12 % 4, ((l % 64) ^^^ (l / 2 ^ 16 % 64)) * 2048 + l / 2 ^ 6 % 2048)

/-- The unit of the task in a slot. -/
def State.unitOf (s : State) (ta : Nat) : Option UnitSt :=
  let sl := s.slot ta
  s.units.find? fun u => u.ctx == sl.ctx && u.addr == sl.unit && u.members.any fun m => m.uid == sl.uid

/-- The core whose L1 serves a slot's access: its own, or the slice of a fused gang (R190). -/
def State.l1Core (s : State) (ta pa : Nat) : Nat :=
  match s.unitOf ta with
  | some u =>
    match u.gang with
    | some g =>
      if g.fuse then
        let x := (pa / 2 ^ 7 % 32) ^^^ (pa / 2 ^ 14 % 32)
        (taDie ta * 512 + clusterQuad (clusterOf (taVq ta)) (x / 4)) * 4 + x % 4
      else taCore ta
    | none => taCore ta
  | none => taCore ta

/-- The retention register whose range holds a physical address (R193). -/
def State.retOf (s : State) (pa : Nat) : Option (Nat × Retention) :=
  (List.range 16).findSome? fun i =>
    match s.retain.toList.getD i none with
    | some r => if r.base ≤ pa ∧ pa < r.base + r.len then some (i, r) else none
    | none => none

/-- The reserved ways (R193). -/
def State.reservedWays (s : State) : List Nat :=
  s.retain.toList.flatMap fun r => match r with | some x => x.ways | none => []

def State.openWays (s : State) : List Nat := (List.range 24).filter fun w => !s.reservedWays.contains w

/-- The fence-list entry of an L2 slice (R382). -/
def l2Unit (die slice : Nat) : Nat := (die * 16384 + 6) * 128 + slice

/-- The ways that an L2 set has lost to a fenced sub-array of its slice; which ways it holds is free (R382; log 22). -/
def State.lostWays (s : State) (die set : Nat) : List Nat :=
  if s.ras.fenced.contains (l2Unit die (set / 2048)) then
    (List.range 24).filter fun w => Config.freeFlag (l2Unit die (set / 2048)) (5000 + w)
  else []

/-- Fills an L2 set by the placement rules of R193; lost ways are never used (R382). -/
def State.fillL2 (s : State) (h : Hint) (pa : Nat) (set : List CacheLine) (data : List Byte) : List CacheLine :=
  let line := pa / 128
  let (d, k) := l2Home pa
  let lost := s.lostWays d k
  let openWays := s.openWays.filter fun w => !lost.contains w
  match s.retOf pa with
  | none => fillSet h 8 openWays set line data
  | some (_, r) =>
    let r := { r with ways := r.ways.filter fun w => !lost.contains w }
    let inRange (x : CacheLine) : Bool := decide (r.base ≤ x.line * 128) && decide (x.line * 128 < r.base + r.len)
    match freeWay r.ways set with
    | some w => putLine h 8 set { line := line, way := w, data := data }
    | none =>
      match set.reverse.find? fun x => r.ways.contains x.way && !inRange x with
      | some v => putLine h 8 (set.filter fun x => x.way != v.way) { line := line, way := v.way, data := data }
      | none => fillSet h 8 openWays set line data

/-- Drops a line from every L1 but one core's (R189). -/
def State.dropL1 (s : State) (line : Nat) (but : Option Nat) : State :=
  { s with cores := s.cores.map fun p =>
      if some p.1 = but then p
      else (p.1, { p.2 with l1 := p.2.l1.map fun q =>
        if q.1 = line % 128 then (q.1, q.2.filter fun x => x.line != line) else q }) }

/-- Drops a line from L2 and every L1 (R198). -/
def State.dropLine (s : State) (line : Nat) : State :=
  let (d, k) := l2Home (line * 128)
  (s.dropL1 line none).modDie d fun x =>
    { x with l2 := Store.set x.l2 k ((Store.get [] x.l2 k).filter fun y => y.line != line) }

/-- Counts a lookup of a range (R197). -/
def State.countRet (s : State) (pa : Nat) (hit : Bool) : State :=
  match s.retOf pa with
  | none => s
  | some (i, r) =>
    let r' := if hit then { r with hits := Nat.min (r.hits + 1) 0xFFFFFFFF }
      else { r with miss := Nat.min (r.miss + 1) 0xFFFFFFFF }
    { s with retain := if h : i < 16 then s.retain.set i (some r') h else s.retain }

/-! ## Format views (R200, R201, R203) -/

/-- The first address of the views. -/
def viewBase : Nat := 0x000FF00000000000

/-- The region whose view holds a physical address. -/
def viewOf (pa : Nat) : Option Nat :=
  if viewBase ≤ pa ∧ pa < viewBase + 8 * 2 ^ 40 then some ((pa - viewBase) / 2 ^ 40) else none

/-- Element j of a view, by its arrays as they stand (R74, R75, R201): zero beyond the last. -/
def State.viewElem (s : State) (r : FmtRegion) (j : Nat) : Nat :=
  if r.nelem.toNat ≤ j then 0
  else
    let f := fmtOf (if r.fmt = 2 then .bf16 else if r.fmt = 3 then .fp16 else .e4m3)
    let code := (Memory.get s.mem (r.codes.toNat + j / 2)).toNat / (if j % 2 = 0 then 1 else 16) % 16
    nq4Decode f code (Memory.get s.mem (r.bscale.toNat + j / 64)).toNat
      (ofBytes (s.bytes (r.sscale.toNat + 4 * (j / 16384)) 4))

/-- The 128 bytes of a view line, decoded now. -/
def State.viewLine (s : State) (r : FmtRegion) (line : Nat) : List Byte :=
  let off := (line * 128 - viewBase) % 2 ^ 40
  if r.fmt = 4 then (List.range 128).flatMap fun i => toBytes 1 (s.viewElem r (off + i))
  else (List.range 64).flatMap fun i => toBytes 2 (s.viewElem r (off / 2 + i))

/-- A region's registers in a base die. -/
def State.fmtReg (s : State) (f : Nat) (base : Nat := 0) : FmtRegion := s.fmts.toList.getD (8 * base + f) {}

/-- The registers by which a view line is decoded: those of the base die that serves it at its home die (R201; log 12). -/
def State.fmtOfLine (s : State) (f line : Nat) : FmtRegion :=
  s.fmtReg f ((l2Home (line * 128)).1 * 2 + Config.freeBase line % 2)

/-- The bytes that a fill of a line brings, for a view line; other lines hold their bytes in memory. -/
def State.fillData (s : State) (line : Nat) : List Byte :=
  match viewOf (line * 128) with
  | some f => if (s.fmtOfLine f line).en then s.viewLine (s.fmtOfLine f line) line else []
  | none => []

/-- What a lookup that hits a line gives: the line's bytes, or under .NA a view line decoded afresh (R203). -/
def State.hitData (s : State) (h : Hint) (x : CacheLine) : List Byte :=
  if h = .na ∧ (viewOf (x.line * 128)).isSome then s.fillData x.line else x.data

/-! ## Lookups -/

/-- A lookup of a line in L2, and its fill on a miss (R192, R197): whether it was there, and a view line's bytes. `cnt`
tells whether a retention register counts it. -/
def State.lookL2 (s : State) (h : Hint) (line : Nat) (cnt : Bool := true) : State × Bool × List Byte :=
  let pa := line * 128
  let (d, k) := l2Home pa
  let set := Store.get [] (s.die d).l2 k
  let put (x : List CacheLine) (s : State) : State := s.modDie d fun y => { y with l2 := Store.set y.l2 k x }
  match set.find? fun x => x.line == line with
  | some x => (put (hitLine h 8 set line) (if cnt then s.countRet pa true else s), true, s.hitData h x)
  | none =>
    let data := s.fillData line
    let s := if cnt then s.countRet pa false else s
    (if h = .na then s else put (s.fillL2 h pa set data) s, false, data)

/-- A slot's lookup of a line: L1, then L2; with the counts of R353. A store drops every other L1's copy (R189). -/
def State.lookup (s : State) (ta line : Nat) (h : Hint) (store : Bool) : State × List Byte :=
  let c := s.l1Core ta (line * 128)
  let s := if store then s.dropL1 line (some c) else s
  let set := Store.get [] (s.core c).l1 (line % 128)
  let put (x : List CacheLine) (s : State) : State :=
    s.modCore c fun y => { y with l1 := Store.set y.l1 (line % 128) x }
  match set.find? fun x => x.line == line with
  | some x => (put (hitLine h 8 set line) (s.count ta 9 1), s.hitData h x)
  | none =>
    let (s, hit, data) := (s.count ta 10 1).lookL2 h line
    let s := s.count ta (if hit then 11 else 12) 1
    (if h = .na then s else put (fillSet h 8 (List.range 8) set line data) s, data)

/-- A lookup that goes to L2 only: atomics, walks and engines (R197); `who` is the slot it is counted for. -/
def State.lookHome (s : State) (who : Option Nat) (line : Nat) (h : Hint) (cnt : Bool := true) : State × List Byte :=
  let (s, hit, data) := s.lookL2 h line cnt
  (match who with | some ta => s.count ta (if hit then 11 else 12) 1 | none => s, data)

/-- Discards every decoded line of a view (R203). -/
def State.dropView (s : State) (f : Nat) : State :=
  let keep (x : CacheLine) : Bool := viewOf (x.line * 128) != some f
  { s with
    cores := s.cores.map fun p => (p.1, { p.2 with l1 := p.2.l1.map fun q => (q.1, q.2.filter keep) })
    dies := s.dies.map fun p => (p.1, { p.2 with l2 := p.2.l2.map fun q => (q.1, q.2.filter keep) }) }

end Sys2Proof.Machine
end

