-- ==== Sys2Proof/Machine/Mem.lean ====
section
/-! DEFINITION. Addresses and accesses: the QLM windows (R185, R186, R188), translation (R320 to R322), and the
loads and stores of a slot with parking (R104, R105, R132, R133). -/

namespace Sys2Proof.Machine

/-- What an access needs: load, store, fetch, or atomic. -/
inductive Acc3 where
  | r | w | x | a
  deriving DecidableEq, Repr

/-! ## QLM (R185, R186, R188) -/

/-- The rectangle's quads, as numbers die * 512 + virtual quad. -/
def UnitSt.quads (u : UnitSt) : List Nat :=
  match u.gang with
  | none => [u.die * 512 + u.origin]
  | some g => (List.range g.h).flatMap fun y => (List.range g.w).map fun x => u.die * 512 + u.origin + 16 * y + x

/-- A window address: the quad it names, and the local offset (R185). -/
def qlmWindow (quad : Nat) (va : Word) : Option (Nat × Nat) :=
  let a := va.toNat
  if 0x00FF000000000000 ≤ a ∧ a < 0x00FF000000100000 then some (quad, a % 2 ^ 20)
  else if 0x00FF000100000000 ≤ a ∧ a < 0x00FF000100800000 then
    some (quad / 512 * 512 + clusterQuad (clusterOf (quad % 512)) (a / 2 ^ 20 % 8), a % 2 ^ 20)
  else none

/-- Whether an address lies in the block that is never translated (R185). -/
def inQlmBlock (va : Word) : Bool := slice va 48 16 == 0x00FF

/-- The share check of n bytes at an offset of a quad (R186, R188). -/
def State.shareOk (s : State) (ta quad off n : Nat) (write : Bool) : Bool :=
  let sl := s.slot ta
  let inside (u : UnitSt) : Bool :=
    u.quads.contains quad && decide (u.qlmOff ≤ off) && decide (off + n ≤ u.qlmOff + u.qlmLen)
  if !s.present (quad / 512) (quad % 512) then false
  else if taHnd ta then
    quad == taQuad ta &&
      ((s.units.any fun u => u.ctx == sl.ctx && !u.saved && inside u) ||
        (let lo := rxOff (taCore ta) + (if write then 0x800 else 0)
         decide (lo ≤ off) && decide (off + n ≤ rxOff (taCore ta) + 0x1000)))
  else
    match s.unitOf ta with
    | some u => inside u
    | none => false

/-- PROTECT of one piece (R104): none when it fails; else the storage key of a QLM piece, or that it is to be
translated. -/
def State.protect (s : State) (ta : Nat) (va : Word) (n : Nat) (write : Bool) : Option (Option Nat) :=
  if slice va 56 8 ≠ 0 then none
  else if inQlmBlock va then
    match qlmWindow (taQuad ta) va with
    | none => none
    | some (q, off) => if off + n ≤ 2 ^ 20 ∧ s.shareOk ta q off n write then some (some (qlmKey q off)) else none
  else some none

/-! ## Translation (R320 to R322) -/

/-- The bytes of HBM of this device (R312). -/
def hbmSize : Nat := 0x6000000000

/-- Fields of a page-table entry (R321). -/
def ptePA (p : Word) : Nat := slice p 16 36 * 2 ^ 16
def pteMT (p : Word) : Nat := slice p 8 3
def pteDev (p : Word) : Nat := slice p 52 12

/-- A non-leaf entry names the next table: V = 1, LEAF = 0 and every field but PA zero. -/
def pteNode (p : Word) : Option Nat :=
  if bit p 0 && !bit p 1 && slice p 2 14 == 0 && slice p 52 12 == 0 && decide (ptePA p < hbmSize) then some (ptePA p)
  else none

/-- Whether an entry is a good leaf for a page of the given size (R321). -/
def State.pteLeaf (s : State) (c : Ctx) (p : Word) (size : Nat) : Bool :=
  bit p 0 && bit p 1 && slice p 12 4 == 0 && !bit p 5 && decide (ptePA p % size = 0) && decide (pteMT p ≤ 4) &&
    (if pteMT p = 1 then s.inFabric c (pteDev p) else pteDev p == 0) &&
    (if pteMT p = 0 then decide (ptePA p + size ≤ hbmSize) || (viewOf (ptePA p)).isSome else true)

/-- The permission an access needs (R321, R217). -/
def pteAllows (p : Word) : Acc3 → Bool
  | .r => bit p 2
  | .w => bit p 3
  | .x => bit p 4
  | .a => bit p 2 && bit p 3

/-- The levels of the walk: the shift and the width of the index, and the size of a leaf there (R320). -/
def walkLevels : List (Nat × Nat × Option Nat) :=
  [(47, 9, none), (38, 9, none), (29, 9, some (2 ^ 29)), (16, 13, some (2 ^ 16))]

/-- The outcome of a walk: the leaf with its address and size, or the address of a poisoned entry. -/
inductive Walk where
  | leaf (pte : Word) (pa size : Nat)
  | bad
  | pois (pa : Nat)
  deriving DecidableEq, Repr

/-- The walk from a table through the levels, and the entries it reads (R320 to R322). -/
def State.walkFrom (s : State) (c : Ctx) (va : Nat) : List (Nat × Nat × Option Nat) → Nat → Walk × List Nat
  | [], _ => (.bad, [])
  | (sh, w, leaf) :: rest, table =>
    let pa := table + 8 * (va / 2 ^ sh % 2 ^ w)
    let p : Word := BitVec.ofNat 64 (ofBytes (s.bytes pa 8))
    if s.gran pa then (.pois pa, [pa])
    else if bit p 1 then
      match leaf with
      | none => (.bad, [pa])
      | some size => (if s.pteLeaf c p size then .leaf p pa size else .bad, [pa])
    else
      match pteNode p, rest with
      | some next, _ :: _ =>
        let (r, l) := s.walkFrom c va rest next
        (r, pa :: l)
      | _, _ => (.bad, [pa])

def State.walk (s : State) (c : Ctx) (va : Nat) : Walk × List Nat := s.walkFrom c va walkLevels (c.ptroot / 2 ^ 16 * 2 ^ 16)

/-- ORs bits into an entry at its home (R322). -/
def State.orPte (s : State) (pa : Nat) (mask : Word) : State :=
  s.setMem (Memory.write s.mem pa
    (toBytes 8 ((BitVec.ofNat 64 (ofBytes (s.bytes pa 8)) : Word) ||| mask).toNat))

/-! ## The TLBs (R322; log 8) -/

/-- A quad's TLB, as a unit; a die's is its number. -/
def quadTlb (ta : Nat) : Nat := 4 + taQuad ta

/-- Whether a TLB entry translates an address for an address space. -/
def TlbEntry.covers (e : TlbEntry) (asid va : Nat) : Bool :=
  e.asid == asid && decide (e.page ≤ va) && decide (va < e.page + e.size)

/-- The entry for an address that a TLB holds. -/
def State.tlbFind (s : State) (unit asid va : Nat) : Option TlbEntry :=
  s.tlb.find? fun e => e.unit == unit && e.covers asid va

/-- The entry it holds, unless it has been replaced since. -/
def State.tlbHit (s : State) (unit asid va : Nat) : Option TlbEntry :=
  (s.tlbFind unit asid va).filter fun e => !Config.freeTlbEvict s.ctr (e.page + unit)

/-- Puts an entry into its TLB: 512 entries of a quad, 32,768 of a die. -/
def State.tlbPut (s : State) (e : TlbEntry) : State :=
  let old := s.tlb.filter fun x => x.unit == e.unit && !x.covers e.asid e.page
  { s with tlb := e :: old.take (if e.unit < 4 then 32767 else 511) ++ s.tlb.filter fun x => x.unit != e.unit }

/-- Puts an entry that the die has found into the quad's TLB of a slot. -/
def State.tlbGive (s : State) (who : Option Nat) (e : TlbEntry) : State :=
  match who with
  | some ta => s.tlbPut { e with unit := quadTlb ta }
  | none => s

/-- A die looks in its TLB and else walks, setting A in the leaf that it loads; `who` is the slot that it serves. -/
def State.dieLoad (s : State) (c : Ctx) (die : Nat) (who : Option Nat) (va : Nat) : State × Option TlbEntry :=
  match s.tlbHit die c.asid va with
  | some e => (s.tlbGive who e, some e)
  | none =>
    let s := { s with tlb := s.tlb.filter fun e => !(e.unit == die && e.covers c.asid va) }
    let s := match who with | some ta => s.count ta 21 1 | none => s
    let (r, seen) := s.walk c va
    let s := seen.foldl (fun s pa => (s.lookHome who (pa / 128) .normal).1) s
    match r with
    | .leaf p pa size =>
      let e : TlbEntry := ⟨c.asid, va / size * size, size, p ||| 0x40, pa, die⟩
      (((s.orPte pa 0x40).tlbPut e).tlbGive who e, some e)
    | .bad => (s, none)
    | .pois pa =>
      (s.report ⟨1, 1, 7, 0, pa / 2 ^ 12 % 4, 0, BitVec.ofNat 64 pa, BitVec.ofNat 64 (who.getD 0), none, 0⟩, none)

/-- The translation of an address: for a slot its quad's TLB, then its die's, then a walk; an engine of a die begins at the
die's. -/
def State.tlbLoadOn (s : State) (c : Ctx) (die : Nat) (who : Option Nat) (va : Nat) : State × Option TlbEntry :=
  match who with
  | none => s.dieLoad c die none va
  | some ta =>
    match s.tlbHit (quadTlb ta) c.asid va with
    | some e => (s, some e)
    | none =>
      let s := { s with tlb := s.tlb.filter fun e => !(e.unit == quadTlb ta && e.covers c.asid va) }
      (s.count ta 20 1).dieLoad c die who va

/-- The die that translates for a slot; what no slot asks for is translated on die 0 (log 8). -/
def dieOf (who : Option Nat) : Nat := (who.map taDie).getD 0

def State.tlbLoad (s : State) (c : Ctx) (who : Option Nat) (va : Nat) : State × Option TlbEntry :=
  s.tlbLoadOn c (dieOf who) who va

/-- Where a translated byte is: its storage key, whether the caches hold it, its view, and its device when that is
a peer. -/
structure Place where
  key  : Nat
  pa   : Nat
  dev  : Bool := false
  view : Option Nat := none
  mt   : Nat := 0
  peer : Nat := 0
  deriving DecidableEq, Repr

def Place.ofEntry (e : TlbEntry) (va : Nat) : Place :=
  let pa := ptePA e.pte + (va - e.page)
  match pteMT e.pte with
  | 0 => ⟨pa, pa, true, viewOf pa, 0, 0⟩
  | 1 => ⟨peerKey (pteDev e.pte) pa, pa, false, none, 1, pteDev e.pte⟩
  | m => ⟨hostKey pa, pa, false, none, m, 0⟩

/-- Translates an address for an access that may still be turned away; none when it fails (R321). -/
def State.lookOn (s : State) (c : Ctx) (die : Nat) (who : Option Nat) (va : Word) (k : Acc3) : State × Option Place :=
  match s.tlbLoadOn c die who va.toNat with
  | (s, none) => (s, none)
  | (s, some e) => (s, if pteAllows e.pte k then some (Place.ofEntry e va.toNat) else none)

def State.look (s : State) (c : Ctx) (who : Option Nat) (va : Word) (k : Acc3) : State × Option Place :=
  s.lookOn c (dieOf who) who va k

/-- A store goes through the entry of an address: it sets D where D = 0 (R322). -/
def State.markDirtyOn (s : State) (c : Ctx) (unit : Nat) (va : Word) : State :=
  match s.tlbFind unit c.asid va.toNat with
  | some e =>
    if !bit e.pte 7 && (viewOf (ptePA e.pte)).isNone then
      { s.orPte e.ptePA 0x80 with tlb := s.tlb.map fun (x : TlbEntry) =>
          if x.asid = e.asid ∧ x.ptePA = e.ptePA ∧ (x.unit = unit ∨ x.unit < 4) then { x with pte := x.pte ||| 0x80 } else x }
    else s
  | none => s

/-- The TLB that an access uses first. -/
def tlbOf (die : Nat) (who : Option Nat) : Nat := (who.map quadTlb).getD die

def State.markDirty (s : State) (c : Ctx) (who : Option Nat) (va : Word) : State :=
  s.markDirtyOn c (tlbOf (dieOf who) who) va

/-- Stores go through the entries of pieces outside QLM. -/
def State.markAllOn (s : State) (c : Ctx) (unit : Nat) (ps : List (Word × Nat)) : State :=
  ps.foldl (fun (s : State) p => if inQlmBlock p.1 then s else s.markDirtyOn c unit p.1) s

def State.markAll (s : State) (c : Ctx) (ps : List (Word × Nat)) : State := s.markAllOn c (quadTlb s.cur) ps

/-- Whether an access goes through as a store. -/
def Acc3.writes (k : Acc3) : Bool := k == .w || k == .a

/-- Translates an address for an access that then takes place. -/
def State.translate (s : State) (c : Ctx) (who : Option Nat) (va : Word) (k : Acc3) : State × Option Place :=
  match s.look c who va k with
  | (s, none) => (s, none)
  | (s, some p) => (if k.writes then s.markDirty c who va else s, some p)

/-! ## Reading and writing a place -/

/-- The device of a place is lost: its loads return POISON and its stores are discarded, with a record of cause
LINK (R329). -/
def State.lostAt (s : State) (p : Place) : Bool := p.mt == 1 && s.host.lost.contains p.peer

def State.reportLost (s : State) (ta : Nat) (p : Place) : State :=
  s.report ⟨1, 3, 9, 0, 0, 0, BitVec.ofNat 64 p.pa, BitVec.ofNat 64 ta, none, 0⟩

/-- The bytes of a view at an address, from the decoded line: the L2 line it hits, else decoded afresh; poison
while the view is not live (R201, R203). -/
def State.viewBytes (s : State) (f pa n : Nat) (line : List Byte) : List Byte × Bool :=
  if (s.fmtOfLine f (pa / 128)).en then ((line.drop (pa % 128)).take n, false) else (List.replicate n 0, true)

/-! ## Writes of a slot -/

/-- Performs a store of a slot: a lashed pair holds it until its fingerprints agree (R379). -/
def State.perform (s : State) (ta key : Nat) (bs : List Byte) : State :=
  let sl := s.slot ta
  if sl.paired then
    let s := if 4096 < (sl.heldSt.map fun h => h.bytes.length).foldl (· + ·) bs.length then s.exchange ta else s
    s.modSlot ta fun sl => { sl with heldSt := sl.heldSt ++ [⟨key, bs⟩] }
  else (s.capture sl.rp key).putBytes key bs

/-- Pieces of a store that adjoin make one run: a granule that they cover whole is written whole (R204). -/
def joinRuns : List (Nat × List Byte) → List (Nat × List Byte)
  | [] => []
  | (k, bs) :: rest =>
    match joinRuns rest with
    | (k', bs') :: more => if k + bs.length = k' then (k, bs ++ bs') :: more else (k, bs) :: (k', bs') :: more
    | [] => [(k, bs)]

/-! ## Parked stores (R104, R105, R339) -/

/-- The 64 KiB page of an address. A byte of QLM lies on the page of its quad that holds it, by whichever window it is
reached. -/
def pageOf (ta : Nat) (va : Word) : Nat :=
  match (if inQlmBlock va then qlmWindow (taQuad ta) va else none) with
  | some (q, off) => 2 ^ 52 + q * 16 + off / 65536
  | none => va.toNat / 65536

/-- The pages an entry touches. -/
def RpqEntry.pages (e : RpqEntry) : List Nat := e.lanes.map fun l => pageOf e.ta l.1

/-- Whether a page holds a parked or replaying store of the slot. -/
def State.pageHeld (s : State) (ta page : Nat) : Bool :=
  (s.myRpq ta).any fun e => e.st != .abandoned && e.pages.contains page

/-- Whether one of some pieces lies on a page that holds a parked or replaying store of the slot (R104, R105). -/
def State.anyHeld (s : State) (ta : Nat) (ps : List (Word × Nat)) : Bool :=
  ps.any fun p => s.pageHeld ta (pageOf ta p.1)

/-- Bytes an entry occupies in the data area (R339). -/
def lanesLen (lanes : List (Word × List Byte)) (run : Bool) : Nat :=
  if run then 8 + ((lanes.map fun l => l.2.length).foldl (· + ·) 0 + 7) / 8 * 8
  else (lanes.map fun l => 8 + (l.2.length + 7) / 8 * 8).foldl (· + ·) 0

def RpqEntry.len (e : RpqEntry) : Nat := lanesLen e.lanes e.run

/-- The lowest free offset of the data area for n bytes (R339; log 20). -/
def CoreSt.rpqRoom (c : CoreSt) (n : Nat) : Option Nat :=
  let fits (o : Nat) : Bool :=
    decide (o + n ≤ 16384) && c.rpq.all fun e => decide (e.doff + e.len ≤ o) || decide (o + n ≤ e.doff)
  ((0 :: c.rpq.map fun e => e.doff + e.len).filter fits).foldl
    (fun acc o => match acc with | none => some o | some a => some (min a o)) none

/-- The lowest free entry number. -/
def CoreSt.rpqNo (c : CoreSt) : Option Nat := (List.range 16).find? fun i => c.rpq.all fun e => e.no != i

/-- The packet of a parked store (R335, R338). -/
def State.parkPacket (s : State) (ta : Nat) (e : RpqEntry) : Packet :=
  { taddr := BitVec.ofNat 64 ta, pc := e.pc, faddr := e.fva, taskid := ((s.task? ⟨ta, e.uid⟩).map Slot.taskid).getD 0
    fcode := 0x06, park := true, ilen := e.words.length, rpqe := e.no, ctxn := e.ctx, instr := e.words }

/-- Parks a store: none when no entry or too little room is free. `fva` is the first failing address: none for a store
that is only held behind an older one, which sends no packet (R105). -/
def State.park (s : State) (ta : Nat) (lanes : List (Word × List Byte)) (run : Bool) (h : Hint) (fva : Option Word) :
    Option State :=
  let sl := s.slot ta
  let c := s.core (taCore ta)
  match c.rpqNo, c.rpqRoom (lanesLen lanes run) with
  | some no, some off =>
    let e : RpqEntry := { no := no, ta := ta, uid := sl.uid, ctx := sl.ctx, seq := sl.seq, addr0 := (lanes.map Prod.fst).headD 0
                          fva := fva.getD 0, behind := fva.isNone, lanes := lanes, run := run, doff := off, hint := h, pc := sl.pc
                          words := sl.words, at_ := s.ctr }
    let s := s.modCore (taCore ta) fun c => { c with rpq := c.rpq ++ [e] }
    let s := (s.modSlot ta fun sl => { sl with seq := sl.seq + 1, stq := sl.stq + 1 }).count ta 19 1
    some (if fva.isNone then s else s.post (.faultService (s.parkPacket ta e)))
  | _, _ => none

/-! ## The accesses of one instruction -/

/-- ALIGN of the first address that is not a multiple of n (R104, R132). -/
def alignAll (as : List Word) (n : Nat) (s : State) : Res Unit :=
  match as.find? fun a => decide (a.toNat % n ≠ 0) with
  | some a => .trap s 0x05 a
  | none => .ok s ()

/-- PROTECT of the first piece that fails (R104, R132). -/
def State.protAll (s : State) (ps : List (Word × Nat)) (write : Bool) : Res Unit :=
  match ps.find? fun p => (s.protect s.cur p.1 p.2 write).isNone with
  | some p => .trap s 0x07 p.1
  | none => .ok s ()

/-- Finds every piece in order, translating those outside QLM; the first that fails is named. -/
def State.lookAll (s : State) (c : Ctx) (k : Acc3) (write : Bool) : List (Word × Nat) → State × Except Word (List (Place × Bool))
  | [] => (s, .ok [])
  | (va, n) :: rest =>
    match s.protect s.cur va n write with
    | some (some key) =>
      match s.lookAll c k write rest with
      | (s, .ok l) => (s, .ok ((⟨key, 0, false, none, 0, 0⟩, true) :: l))
      | (s, .error a) => (s, .error a)
    | _ =>
      match s.look c (some s.cur) va k with
      | (s, none) => (s, .error va)
      | (s, some p) =>
        match s.lookAll c k write rest with
        | (s, .ok l) => (s, .ok ((p, false) :: l))
        | (s, .error a) => (s, .error a)

/-- Finds every piece of an access that takes place when none fails. -/
def State.placeAll (s : State) (c : Ctx) (k : Acc3) (write : Bool) (ps : List (Word × Nat)) :
    State × Except Word (List (Place × Bool)) :=
  match s.lookAll c k write ps with
  | (s, .ok l) => (if k.writes then s.markAll c ps else s, .ok l)
  | (s, .error a) => (s, .error a)

/-- Reads every piece; a QLM piece counts as a QLM access (R353). Repeated lookups of one line by one instruction
count once (R197, R353); `seen` holds the lines looked up, with what they gave. -/
def State.readAll (s : State) (h : Hint) : List ((Place × Bool) × Nat) → List (Nat × List Byte) → State × List (List Byte × Bool)
  | [], _ => (s, [])
  | ((p, q), n) :: rest, seen =>
    if q then
      let r := (s.bytes p.key n, s.pois p.key n)
      let (s, l) := (s.countMe 13 1).readAll h rest seen
      (s, r :: l)
    else if s.lostAt p then
      let (s, l) := (s.reportLost s.cur p).readAll h rest seen
      (s, (List.replicate n 0, true) :: l)
    else if p.dev then
      let (s, seen) := match seen.find? fun x => x.1 == p.pa / 128 with
        | some _ => (s, seen)
        | none =>
          let (s, line) := s.lookup s.cur (p.pa / 128) h false
          (s, (p.pa / 128, line) :: seen)
      let line := ((seen.find? fun x => x.1 == p.pa / 128).map Prod.snd).getD []
      let r := match p.view with
        | some f => s.viewBytes f p.pa n line
        | none => (s.bytes p.key n, s.pois p.key n)
      let (s, l) := s.readAll h rest seen
      (s, r :: l)
    else
      let r := (s.bytes p.key n, s.pois p.key n)
      let (s, l) := s.readAll h rest seen
      (s, r :: l)

/-- A read of the issuing slot, scalar or by lanes (R104, R132): ALIGN, PROTECT, the wait for a parked store of the
slot on a page it touches, then XLATE, then what `pre` waits for; the bytes of every piece and whether it is poisoned. -/
def State.readLanes (s : State) (ps : List (Word × Nat)) (align : Nat) (h : Hint)
    (pre : State → Res Unit := fun s => .ok s ()) : Res (List (List Byte × Bool)) :=
  (alignAll (ps.map Prod.fst) align s).bind fun s _ =>
  (s.protAll ps false).bind fun s _ =>
  if s.accessHeld || s.anyHeld s.cur ps then .wait s
  else
    match s.placeAll s.myCtx .r false ps with
    | (s, .error a) => .trap s 0x06 a
    | (s, .ok places) =>
      (pre s).bind fun s _ =>
      let (s, r) := s.readAll h (places.zip (ps.map Prod.snd)) []
      .ok s r

/-- A load instruction's read, counted (R353). -/
def State.loadLanes (s : State) (ps : List (Word × Nat)) (align : Nat) (h : Hint)
    (pre : State → Res Unit := fun s => .ok s ()) : Res (List (List Byte × Bool)) :=
  (s.readLanes ps align h pre).bind fun s r => .ok (s.countMe 17 1) r

/-- The lookups of the pieces of a store: each line once (R197, R353); a store to a lost device is discarded (R329). -/
def State.storeLooks (s : State) (h : Hint) : List ((Place × Bool) × List Byte) → List Nat → State
  | [], _ => s
  | ((p, q), _) :: rest, seen =>
    if q then (s.countMe 13 1).storeLooks h rest seen
    else if s.lostAt p then (s.reportLost s.cur p).storeLooks h rest seen
    else if p.dev && !seen.contains (p.pa / 128) then
      (s.lookup s.cur (p.pa / 128) h true).1.storeLooks h rest (p.pa / 128 :: seen)
    else s.storeLooks h rest seen

/-- Writes every piece in order; what goes to persistent memory is to be acknowledged by its device (R209). -/
def State.writeAll (s : State) (h : Hint) (l : List ((Place × Bool) × List Byte)) : State :=
  let live := l.filter fun x => x.1.2 || !s.lostAt x.1.1
  let n := (live.filter fun x => x.1.1.mt == 3).length
  let s := s.storeLooks h l []
  let s := (joinRuns (live.map fun x => (x.1.1.key, x.2))).foldl (fun (s : State) r => s.perform s.cur r.1 r.2) s
  if n = 0 then s else s.modMe fun sl => { sl with pm := sl.pm + n }

/-- A store of the issuing slot, scalar or by lanes (R105, R133): ALIGN and PROTECT precisely, then what `pre` waits for; on
a page behind an older parked store, or failing translation, it parks as one entry, or waits for room; at a format view it
is discarded (R202); else it is performed and its acknowledgement follows. -/
def State.storeLanes (s : State) (ls : List (Word × List Byte)) (align : Nat) (run : Bool) (h : Hint)
    (pre : State → Res Unit := fun s => .ok s ()) : Res Unit :=
  let ps := ls.map fun l => (l.1, l.2.length)
  (alignAll (ps.map Prod.fst) align s).bind fun s _ =>
  (s.protAll ps true).bind fun s _ =>
  (pre s).bind fun s _ =>
  if s.accessHeld then .wait s
  else if s.anyHeld s.cur ps then
    match s.park s.cur ls run h none with
    | none => .wait s
    | some s => .ok (s.countMe 18 1) ()
  else
    match s.placeAll s.myCtx .w true ps with
    | (s, .error a) =>
      match s.park s.cur ls run h (some a) with
      | none => .wait s
      | some s => .ok (s.countMe 18 1) ()
    | (s, .ok places) =>
      let s := s.countMe 18 1
      match (places.zip ps).find? fun x => x.1.1.view.isSome with
      | some x => .ok (s.modMe fun sl => { sl with viewBad := some (sl.viewBad.getD x.2.1) }) ()
      | none =>
        let s := s.writeAll h (places.zip (ls.map Prod.snd))
        let s := s.modMe fun sl => { sl with stq := sl.stq + 1, seq := sl.seq + 1 }
        .ok (s.post (.storeAck s.meT)) ()

end Sys2Proof.Machine
end

