-- ==== Sys2Proof/Machine/Operands.lean ====
section
/-! DEFINITION. The operand forms: y of XINT (R87), the address of XMEM (R103), and the two kinds of destination
(R20, R47). -/

namespace Sys2Proof

/-- The g sources of y, in the place of b. -/
def YOp.srcs : YOp → List Src
  | .reg b => [b]
  | _ => []

/-- The g source that names the target thread (R47). -/
def Dst.srcs : Dst → List Src
  | .loc _ => []
  | .rem _ e => [e]

def XAddr.srcs (m : XAddr) : List Src := [m.a, m.b]

/-- How an instruction reaches beyond its slot, by its destination (R378). -/
def Dst.reach : Dst → Machine.Reach
  | .loc _ => .inner
  | .rem _ _ => .outer

end Sys2Proof

namespace Sys2Proof.Machine

/-- The value of y (R87). -/
def State.y (s : State) : YOp → Word
  | .reg b => s.g b.reg
  | .imm i => sextW i
  | .lit l => l

/-- A local destination that is pending holds the instruction back (R22). -/
def State.freeDst (s : State) : Dst → Res Unit
  | .loc d => s.freeG d
  | .rem _ _ => .ok s ()

/-- A result goes to g(d), or to the remote register after R19 (R20, R47). -/
def State.putDst (s : State) (d : Dst) (v : Word) : Res Unit :=
  match d with
  | .loc r => .ok (s.putG r v) ()
  | .rem n e => (s.target (s.g e.reg)).bind fun s _ => s.sendRemote (s.g e.reg) n v false

/-- The address of XMEM (R103). -/
def State.xaddr (s : State) (m : XAddr) : Word :=
  s.g m.a.reg + (s.g m.b.reg <<< m.shift.toNat) + sextW m.off

/-- The address of a native load or store (R102). -/
def State.naddr (s : State) (a : Reg) (i : BitVec 11) : Word := s.g a + sextW i

end Sys2Proof.Machine
end

