-- ==== Sys2Proof/Machine/Scalar.lean ====
section
/-! DEFINITION. Scalar loads and stores and PREF (R102 to R108), and what arrives for them: load data, store
acknowledgements and parked stores translated again (R104, R105, R340). -/

namespace Sys2Proof.Machine

/-- The value of a load: zero- or sign-extended (R102). -/
def extend (signed : Bool) (bs : List Byte) : Word :=
  let v : Word := BitVec.ofNat 64 (ofBytes bs)
  if signed then sextLow v (8 * bs.length) else v

/-- The data of a load travel to its destination (R104): g(d) is pending until they arrive; g0 discards them; a
remote register gets them as a remote write, and nothing marks it before they arrive there (log 5). `aq`: later accesses
of the slot wait for them (R211). -/
def State.deliver (s : State) (dst : Dst) (v : Word) (pois : Bool) (aq : Bool := false) : Res Unit :=
  match dst with
  | .loc d =>
    if d = 0 then .ok s ()
    else .ok ((s.modMe fun sl => sl.pendFor d aq).post (.loadDataArrival s.meT d v pois)) ()
  | .rem n e => s.sendRemote (s.g e.reg) n v pois

/-- What a remote destination makes a load wait for once its checks have passed: RPQ = 0 (R105, R212; log 19). -/
def Dst.held : Dst → State → Res Unit
  | .loc _, s => .ok s ()
  | .rem _ _, s => s.waitRpq

/-- The check of R19 on a remote destination. -/
def State.remTarget (s : State) : Dst → Res Unit
  | .loc _ => .ok s ()
  | .rem _ e => s.target (s.g e.reg)

/-- A load of n bytes (R102 to R104). -/
def loadTo (n : Nat) (signed : Bool) (srcs : List Src) (dst : Dst) (addr : State → Word) (h : Hint) (aq : Bool) (s : State) :
    Out :=
  issue .s (match dst with | .loc _ => .load | .rem _ _ => .outer) (fun s =>
    (s.examine (srcs ++ dst.srcs)).bind fun s _ =>
    (alignAll [addr s] n s).bind fun s _ =>
    (s.freeDst dst).bind fun s _ =>
    (s.remTarget dst).bind fun s _ =>
    (s.loadLanes [(addr s, n)] n h (Dst.held dst)).bind fun s r =>
      match r with
      | (bs, p) :: _ => s.deliver dst (extend signed bs) p aq
      | [] => .ok s ()) s

/-- The wait for every earlier store to persistent memory to be acknowledged as persistent by its device (R209): when that
comes is free (log 5). -/
def State.waitDur (s : State) : Res Unit :=
  if s.me.pm = 0 then .ok s ()
  else .wait (if Config.freeFlag s.ctr 40 then s.modMe fun sl => { sl with pm := 0 } else s)

/-- The waits of a release at a scope (R106, R209). -/
def State.release (s : State) (sc : Scope) : Res Unit :=
  s.waitRpq.bind fun s _ =>
    match sc with
    | .peer | .fab | .host | .sys => await (s.me.stq == 0) s
    | .dur => (await (s.me.stq == 0) s).bind fun s _ => s.waitDur
    | _ => .ok s ()

/-- A store of the low n bytes of g(d) (R102, R103, R105). -/
def storeFrom (n : Nat) (srcs : List Src) (d : Reg) (addr : State → Word) (rl : Option Scope) (h : Hint) (s : State) : Out :=
  issue .s .inner (fun s =>
    (s.examine (srcs ++ [blk d])).bind fun s _ =>
    s.storeLanes [(addr s, toBytes n (s.g d).toNat)] n false h (fun s =>
      match rl with | some sc => s.release sc | none => .ok s ())) s

/-- The native forms (R102). -/
def nload (n : Nat) (signed : Bool) (d a : Reg) (i : BitVec 11) (s : State) : Out :=
  loadTo n signed [blk a] (.loc d) (fun s => s.naddr a i) .normal false s

def nstore (n : Nat) (d a : Reg) (i : BitVec 11) (s : State) : Out :=
  storeFrom n [blk a] d (fun s => s.naddr a i) none .normal s

/-- The XMEM forms (R103). -/
def xload (n : Nat) (signed : Bool) (o : XLoad) (s : State) : Out :=
  loadTo n signed o.addr.srcs o.dst (fun s => s.xaddr o.addr) o.hint o.aq s

def xstore (n : Nat) (o : XStore) (s : State) : Out :=
  storeFrom n o.addr.srcs o.d (fun s => s.xaddr o.addr) (if o.rl then some o.sc else none) o.hint s

def execLdB (d a : Reg) (i : BitVec 11) (s : State) : Out := nload 1 false d a i s
def execLdH (d a : Reg) (i : BitVec 11) (s : State) : Out := nload 2 false d a i s
def execLdW (d a : Reg) (i : BitVec 11) (s : State) : Out := nload 4 false d a i s
def execLdD (d a : Reg) (i : BitVec 11) (s : State) : Out := nload 8 false d a i s
def execLdsB (d a : Reg) (i : BitVec 11) (s : State) : Out := nload 1 true d a i s
def execLdsH (d a : Reg) (i : BitVec 11) (s : State) : Out := nload 2 true d a i s
def execLdsW (d a : Reg) (i : BitVec 11) (s : State) : Out := nload 4 true d a i s

def execStB (d a : Reg) (i : BitVec 11) (s : State) : Out := nstore 1 d a i s
def execStH (d a : Reg) (i : BitVec 11) (s : State) : Out := nstore 2 d a i s
def execStW (d a : Reg) (i : BitVec 11) (s : State) : Out := nstore 4 d a i s
def execStD (d a : Reg) (i : BitVec 11) (s : State) : Out := nstore 8 d a i s

def execLdBX (o : XLoad) (s : State) : Out := xload 1 false o s
def execLdHX (o : XLoad) (s : State) : Out := xload 2 false o s
def execLdWX (o : XLoad) (s : State) : Out := xload 4 false o s
def execLdDX (o : XLoad) (s : State) : Out := xload 8 false o s
def execLdsBX (o : XLoad) (s : State) : Out := xload 1 true o s
def execLdsHX (o : XLoad) (s : State) : Out := xload 2 true o s
def execLdsWX (o : XLoad) (s : State) : Out := xload 4 true o s

def execStBX (o : XStore) (s : State) : Out := xstore 1 o s
def execStHX (o : XStore) (s : State) : Out := xstore 2 o s
def execStWX (o : XStore) (s : State) : Out := xstore 4 o s
def execStDX (o : XStore) (s : State) : Out := xstore 8 o s

/-- PREF (R108): a line is requested into L1; where a check of R104 would fail, nothing happens. -/
def execPref (m : XAddr) (h : Hint) (s : State) : Out :=
  issue .s .load (fun s => (s.examine m.srcs).bind fun s _ =>
    let va := s.xaddr m
    match s.protect s.cur va 1 false with
    | some none =>
      match s.translate s.myCtx (some s.cur) va .r with
      | (s, some p) => .ok (if p.dev then (s.lookup s.cur (p.pa / 128) h false).1 else s) ()
      | (s, none) => .ok s ()
    | _ => .ok s ()) s

/-! ## Arrivals -/

/-- Data arrive for a pending destination: FULL, or POISON (R22, R104). For a task that has ended they are
discarded (R34). -/
def execLoadDataArrival (t : Target) (d : Reg) (v : Word) (pois : Bool) (s : State) : Out :=
  .next (s.modTask t fun sl => sl.arriveG d v pois)

/-- A store's acknowledgement returns (R105). -/
def execStoreAck (t : Target) (s : State) : Out :=
  .next (s.modTask t fun sl => { sl with stq := sl.stq - 1 })

/-- Takes an entry out of a core's replay queue. -/
def State.rpqDrop (s : State) (core no : Nat) : State :=
  s.modCore core fun c => { c with rpq := c.rpq.filter fun e => e.no != no }

/-- Whether an older parked store of the same slot lies on a page of the entry (R105, R340). -/
def State.rpqBehind (s : State) (core : Nat) (e : RpqEntry) : Bool :=
  (s.core core).rpq.any fun x => x.uid == e.uid && decide (x.seq < e.seq) && x.st != .abandoned &&
    x.pages.any fun p => e.pages.contains p

/-- The entries held behind older ones are looked at again when one has left. -/
def State.rpqWake (s : State) (core : Nat) : State :=
  (s.core core).rpq.foldl (fun s e => if e.st = .parked ∧ e.behind then s.post (.parkedStoreRetranslate core e.no) else s) s

/-- Translates a parked store again: it is performed and leaves, or stays parked, with the first failing address
and a packet (R105, R340). Bytes of QLM that are saved with their task wait for it to resume (log 20). -/
def State.rpqRetry (s : State) (core : Nat) (e : RpqEntry) : State :=
  let ta := e.ta
  if (e.lanes.any fun l => inQlmBlock l.1) && (s.slot ta).uid != e.uid then s else
  let ps := e.lanes.map fun l => (l.1, l.2.length)
  let c := (s.ctx e.ctx).getD { desc := [], descPA := 0 }
  match ({ s with cur := ta } : State).placeAll c .w true ps with
  | (s', .error a) =>
    let e' := { e with fva := a, behind := false, st := .parked }
    ((({ s' with cur := s.cur } : State).uncountNew s core e.at_).modCore core fun k =>
      { k with rpq := k.rpq.map fun x => if x.no = e.no then e' else x }).post (.faultService (s.parkPacket ta e'))
  | (s', .ok places) =>
    let s' := (s'.rpqDrop core e.no).rpqWake core
    match (places.zip ps).find? fun x => x.1.1.view.isSome with
    | some x =>
      { s' with cur := s.cur }.modTask ⟨ta, e.uid⟩ fun sl =>
        { sl with viewBad := some (sl.viewBad.getD x.2.1), stq := sl.stq - 1 }
    | none => (({ s'.writeAll e.hint (places.zip (e.lanes.map Prod.snd)) with cur := s.cur }).uncountNew s core e.at_).post
        (.storeAck ⟨ta, e.uid⟩)

/-- A store held behind older parked stores is translated again once they have left (R105). -/
def execParkedStoreRetranslate (core no : Nat) (s : State) : Out :=
  .next (match (s.core core).rpq.find? fun e => e.no == no with
    | some e => if e.st = .parked ∧ e.behind ∧ s.rpqBehind core e = false then s.rpqRetry core e else s
    | none => s)

/-- A walk completes: the translation it found is in the TLB for every requester (R322). -/
def execPageWalk (ctx : Nat) (va : Word) (s : State) : Out :=
  .next (match s.ctx ctx with
    | some c => (s.tlbLoad c none va.toNat).1
    | none => s)

end Sys2Proof.Machine
end

