-- ==== Sys2Proof/Machine/Amo.lean ====
section
/-! DEFINITION. Atomics: their issue, their act at the home, and their return (09_consistency.md R215 to R219;
20_measurement.md R362). -/

namespace Sys2Proof.Machine

/-- The new value of an atomic on patterns of the type's width (R216). Floating-point functions honour subnormals
and set no flag. -/
def amoNew (fn : AmoFn) (t : Ty) (rm : Rm) (old x y : Nat) : Nat :=
  let w := t.width
  match fn with
  | .swap => x
  | .cas => if old = y then x else old
  | .add => (old + x) % 2 ^ w
  | .and => old &&& x
  | .or => old ||| x
  | .xor => old ^^^ x
  | .min => if asInt w old ≤ asInt w x then old else x
  | .max => if asInt w old ≤ asInt w x then x else old
  | .minu => if old ≤ x then old else x
  | .maxu => if old ≤ x then x else old
  | .fadd => ((fmtOf t).add { mode := rm } old x).bits
  | .fmin => ((fmtOf t).minmax {} false old x).bits
  | .fmax => ((fmtOf t).minmax {} true old x).bits

/-- The returned old value: sign-extended for ADD, MIN and MAX (R216). -/
def amoOld (fn : AmoFn) (t : Ty) (old : Nat) : Word :=
  match fn with
  | .add | .min | .max => sextLow (BitVec.ofNat 64 old) t.width
  | _ => BitVec.ofNat 64 old

/-- Puts an atomic on its way (R216); nothing marks a remote destination before the old value arrives there (log 5). -/
def State.sendAmo (s : State) (fn : AmoFn) (t : Ty) (rm : Rm) (p : Place) (dst : Dst) (x y : Word) (aq : Bool) : Res Unit :=
  let w := t.width
  let req (d : AmoDest) : AmoReq := ⟨s.meT, s.me.ctx, d, fn, t, rm, p.key, zextLow x w, zextLow y w⟩
  match dst with
  | .loc d =>
    if d = 0 then .ok ((s.modMe fun sl => { sl with stq := sl.stq + 1 }).post (.atomicAtHome (req .none))) ()
    else .ok ((s.modMe fun sl => sl.pendFor d aq).post (.atomicAtHome (req (.loc d)))) ()
  | .rem n e => .ok (s.post (.atomicAtHome (req (.rem (slice (s.g e.reg) 0 32) n)))) ()

/-- Where an atomic acts (R216, R217): a format view and HOSTIO take none, and raise PROTECT before XLATE (R202, R217). -/
def State.amoPlace (s : State) (va : Word) (n : Nat) : Res (Place × Bool) :=
  match s.protect s.cur va n true with
  | some (some key) => .ok s (⟨key, 0, false, none, 0, 0⟩, true)
  | _ =>
    let c := s.myCtx
    let who := some s.cur
    match s.tlbLoad c who va.toNat with
    | (s, none) => .trap s 0x06 va
    | (s, some e) =>
      let p := Place.ofEntry e va.toNat
      if p.view.isSome || p.mt == 4 then .trap s 0x07 va
      else if pteAllows e.pte .a then .ok (s.markDirty c who va) (p, false)
      else .trap s 0x06 va

/-- An atomic of the issuing slot (R216, R217): sources, the wait for RPQ = 0, ALIGN, PROTECT, XLATE; it never parks. -/
def amoOp (fn : AmoFn) (t : Ty) (rm : Rm) (srcs : List Src) (dst : Dst) (a b : Reg) (c : Option Reg) (off : W32)
    (rl : Option Scope) (aq : Bool) (h : Hint) (s : State) : Out :=
  issue .s .outer (fun s =>
    let w := t.width / 8
    (s.examine (srcs ++ dst.srcs)).bind fun s _ =>
    (s.freeDst dst).bind fun s _ =>
    (match rl with | some sc => s.release sc | none => s.waitRpq).bind fun s _ =>
    s.waitAmo.bind fun s _ =>
    let va := s.g a + sextW off
    (alignAll [va] w s).bind fun s _ =>
    (s.remTarget dst).bind fun s _ =>
    (s.protAll [(va, w)] true).bind fun s _ =>
    (s.amoPlace va w).bind fun s x =>
      let s := s.countMe 15 1
      let s := if x.2 then (s.countMe 16 1).countMe 13 1 else s
      let s := if x.1.dev then (s.dropL1 (x.1.pa / 128) none).lookHome (some s.cur) (x.1.pa / 128) h |>.1 else s
      let y := match c with | some r => s.g r | none => 0
      s.sendAmo fn t rm x.1 dst (s.g b) y aq) s

def amo (fn : AmoFn) (o : AmoOp) (s : State) : Out :=
  amoOp fn o.ty o.rm [o.a, o.b] o.dst o.a.reg o.b.reg none o.off (if o.rl then some o.sc else none) o.aq o.hint s

def execAmoSwap (o : AmoOp) (s : State) : Out := amo .swap o s
def execAmoCas (o : CasOp) (s : State) : Out :=
  amoOp .cas o.ty .rne [o.a, o.b, o.c] o.dst o.a.reg o.b.reg (some o.c.reg) o.off
    (if o.rl then some o.sc else none) o.aq o.hint s
def execAmoAdd (o : AmoOp) (s : State) : Out := amo .add o s
def execAmoAnd (o : AmoOp) (s : State) : Out := amo .and o s
def execAmoOr (o : AmoOp) (s : State) : Out := amo .or o s
def execAmoXor (o : AmoOp) (s : State) : Out := amo .xor o s
def execAmoMin (o : AmoOp) (s : State) : Out := amo .min o s
def execAmoMax (o : AmoOp) (s : State) : Out := amo .max o s
def execAmoMinu (o : AmoOp) (s : State) : Out := amo .minu o s
def execAmoMaxu (o : AmoOp) (s : State) : Out := amo .maxu o s
def execAmoFadd (o : AmoOp) (s : State) : Out := amo .fadd o s
def execAmoFmin (o : AmoOp) (s : State) : Out := amo .fmin o s
def execAmoFmax (o : AmoOp) (s : State) : Out := amo .fmax o s

/-! ## At the home -/

/-- The rank of a requester in the replayed unit; 0xFFFF when it is not of the unit (R362). -/
def State.replayRank (s : State) (r : AmoReq) : Nat :=
  match s.units.find? fun u => u.replay && u.members.any fun m => m.uid == r.req.uid with
  | some u => ((u.members.find? fun m => m.uid == r.req.uid).map Member.rank).getD 0xFFFF
  | none => 0xFFFF

/-- Notes the first mismatch of a pass (R363). -/
def State.mismatch (s : State) (kind : Nat) : State :=
  { s with replay := { s.replay with mism := true, mkind := if s.replay.mkind = 0 then kind else s.replay.mkind } }

/-- The 16-byte log entries of the ranks at their locations, in order: runs of one address and rank share one
entry (R362). -/
def logEntries : List (Nat × Nat) → List (Nat × Nat × Nat)
  | [] => []
  | (k, r) :: rest =>
    match logEntries rest with
    | (k', r', n) :: l => if k = k' ∧ r = r' ∧ n < 65535 then (k, r, n + 1) :: l else (k, r, 1) :: (k', r', n) :: l
    | [] => [(k, r, 1)]

def logBytes (l : List (Nat × Nat × Nat)) : List Byte :=
  l.flatMap fun (k, r, n) => toBytes 8 (k % 2 ^ 64) ++ toBytes 2 r ++ toBytes 2 n ++ toBytes 4 0

/-- The logged atomics of the locations that the unit has used: those of other requesters there count too (R362). -/
def logKept (l : List (Nat × Nat)) : List (Nat × Nat) := l.filter fun p => l.any fun q => q.1 == p.1 && q.2 != 0xFFFF

/-- The log of a location without what is not the unit's. -/
def unitLog (l : List Nat) : List Nat := l.filter fun r => r != 0xFFFF

/-- The log of a location. -/
def logAt (l : List (Nat × Nat)) (k : Nat) : List Nat := (l.filter fun p => p.1 == k).map Prod.snd

/-- Whether an enforced pass holds an atomic of the unit back (R362). -/
def State.replayHolds (s : State) (r : AmoReq) : Bool :=
  let p := s.replay
  p.busy && decide (p.pass ≠ 0) && bit p.cfg 12 && !p.logOv && s.replayRank r != 0xFFFF &&
    !p.freed.contains r.key &&
    (let want := unitLog (logAt p.logged r.key)
     let got := unitLog (logAt p.done r.key)
     match want[got.length]? with
     | some rank => rank != s.replayRank r && (want.drop got.length).contains (s.replayRank r)
     | none => false)

/-- The replay controller's part in an atomic that is performed (R362). -/
def State.replayAmo (s : State) (r : AmoReq) : State :=
  let p := s.replay
  let rank := s.replayRank r
  if !p.busy then s
  else if p.pass = 0 then
    let l := p.logged ++ [(r.key, rank)]
    let bs := logBytes (logEntries (logKept l))
    if bs.length ≤ p.logLen.toNat then
      { s with mem := Memory.write s.mem p.log.toNat bs, replay := { p with logged := l } }
    else { s with replay := { p with logged := l, logOv := true } }
  else if p.logOv then s
  else
    let own (l : List Nat) : List Nat := if bit p.cfg 12 then unitLog l else l
    let want := own (logAt (logKept p.logged) r.key)
    let got := own (logAt p.done r.key)
    let s := { s with replay := { p with done := p.done ++ [(r.key, rank)], waits := p.waits.filter fun x => x.1 != r.key } }
    if rank = 0xFFFF ∧ (bit p.cfg 12 ∨ want = []) then (if bit p.cfg 12 then s.mismatch 3 else s)
    else
      match want[got.length]? with
      | some w => if w = rank then s else s.mismatch (if p.freed.contains r.key then 4 else 1)
      | none => s.mismatch 1

/-- Performs an atomic indivisibly: memory is unchanged and the answer poisoned when a byte is poisoned (R216,
R218). The old value goes on its way back; a location in a lost device answers poison (R329). -/
def State.doAmo (s : State) (r : AmoReq) : State :=
  let n := r.ty.width / 8
  let ta := r.req.ta
  let s := s.replayAmo r
  if 3 * 2 ^ 64 ≤ r.key ∧ s.host.lost.contains (r.key / 2 ^ 64 - 3) then
    (s.report ⟨1, 3, 9, 0, 0, 0, BitVec.ofNat 64 (r.key % 2 ^ 64), BitVec.ofNat 64 ta, none, 0⟩).post
      (.atomicReturn r 0 true)
  else if s.pois r.key n then
    (s.report ⟨1, 6, 0, 0, 0, 0, BitVec.ofNat 64 (r.key % 2 ^ 64), BitVec.ofNat 64 ta, none, 0⟩).post
      (.atomicReturn r 0 true)
  else
    let old := ofBytes (s.bytes r.key n)
    let new := amoNew r.fn r.ty r.rm old r.x.toNat r.y.toNat
    let rp := match s.task? r.req with | some sl => sl.rp | none => false
    ((s.capture rp r.key).putBytes r.key (toBytes n new)).post (.atomicReturn r (amoOld r.fn r.ty old) false)

/-- The core that owns a QLM location, by its storage key (R219). -/
def qlmOwner (key : Nat) : Nat :=
  let off := key % 2 ^ 20
  (key - 2 ^ 64) / 2 ^ 20 * 4 + off / 128 % 4

/-- An atomic reaches its home: an L2 slice performs it; the owning core of a QLM location takes it as a
receive-queue entry of kind 1 (R216, R219). A replayed atomic may be held in the logged order (R362). -/
def execAtomicAtHome (r : AmoReq) (s : State) : Out :=
  if s.replayHolds r then
    let p := s.replay
    let p := if p.waits.any fun x => x.1 == r.key then p else { p with waits := p.waits ++ [(r.key, s.time)] }
    .next ({ s with replay := p }.post (.atomicAtHome r))
  else if 2 ^ 64 ≤ r.key ∧ r.key < 2 * 2 ^ 64 then
    let core := qlmOwner r.key
    let m : RxMsg := { kind := 1, sender := BitVec.ofNat 64 r.req.ta, ctx := r.ctx, ta := hndOf core, value := r.x
                       w2h := BitVec.ofNat 32 (r.key % 2 ^ 20), w3 := r.y, amo := some r }
    .next (s.rxArrive core m none)
  else .next (s.doAmo r)

/-- The old value returns (R216): to the register, to the remote register by R23, or as the acknowledgement of the
no-return form. A handler activation's is held until it ends (R226). -/
def execAtomicReturn (r : AmoReq) (old : Word) (pois : Bool) (s : State) : Out :=
  .next (match r.dest with
    | .none => s.modTask r.req fun sl => { sl with stq := sl.stq - 1 }
    | .loc d => s.modTask r.req fun sl => sl.arriveG d old pois
    | .rem t n =>
      if t / 2 ^ 16 ≠ 0 ∧ t / 2 ^ 16 ≠ s.host.devNo then s
      else
        let i : Instr := .remoteWriteArrival ⟨BitVec.ofNat 64 r.req.ta, r.ctx, s.pairOf (t % 2 ^ 16), n, old, pois⟩
        if taHnd r.req.ta && (s.task? r.req).isSome then s.modTask r.req fun sl => { sl with outbox := sl.outbox ++ [.event i] }
        else s.post i)

end Sys2Proof.Machine
end

