-- ==== Sys2Proof/Machine/SettleOps.lean ====
section
/-! DEFINITION. Settle regions: images, the states that a run may reach, halting, and the end of a claim
(13_settle.md R280 to R300). -/

namespace Sys2Proof.Machine

def regionKey (ctx r : Nat) : Nat := ctx * 16 + r

def State.region? (s : State) (k : Nat) : Option Region := Store.get none s.regions k

def State.modRegion (s : State) (k : Nat) (f : Region → Region) : State :=
  match s.region? k with
  | none => s
  | some r => { s with regions := Store.set s.regions k (some (f r)) }

/-! ## The image (R281 to R283) -/

def imgField (img : List Byte) (off len : Nat) : Nat := ofBytes ((img.drop off).take len)

def Region.nblk (r : Region) : Nat := imgField r.image 8 2

/-- The slots that the configuration has: none in IDLE (R281). -/
def Region.n (r : Region) : Nat := if r.state = 0 then 0 else 16 * r.nblk

/-- The descriptor of integrator j. -/
def imgVar (img : List Byte) (j : Nat) : Nat := imgField img (64 + 640 * (j / 16) + 4 * (j % 16)) 4
def imgCell (img : List Byte) (b c : Nat) : Nat := imgField img (64 + 640 * b + 0x40 + 4 * c) 4
def imgLane (img : List Byte) (b l : Nat) : Nat := imgField img (64 + 640 * b + 0x240 + 2 * l) 2

/-- Whether integrator j is in use, and its variable id. -/
def imgUsed (img : List Byte) (j : Nat) : Bool := imgVar img j / 2 ^ 16 % 2 == 1
def imgVid (img : List Byte) (j : Nat) : Nat := imgVar img j % 2 ^ 16

/-- The used slots of a configuration. -/
def Region.used (r : Region) : List Nat := (List.range (16 * r.nblk)).filter fun j => imgUsed r.image j

/-- τ in nanoseconds, the hold time h and the timeout in units of τ, and m of θ. -/
def imgTau (img : List Byte) : Nat := 10 * 2 ^ (imgField img 0xA 1 % 8)
def imgHold (img : List Byte) : Nat := 8 * 2 ^ (imgField img 0xC 1 % 4)
def imgTmo (img : List Byte) : Nat := if imgField img 0x10 4 = 0 then 65536 else imgField img 0x10 4
def imgTheta (img : List Byte) : Nat := imgField img 0xB 1

/-- The slot that a gain cell of a block takes its value from (R282, R284). -/
def cellSrc (img : List Byte) (b w : Nat) : Nat :=
  let src := w / 2 ^ 4 % 64
  if src < 16 then 16 * b + src
  else
    let l := imgLane img b (src - 16)
    16 * (l / 16 % 64) + l % 16

/-- The valid cells of a block, as words. -/
def imgCells (img : List Byte) (b : Nat) : List Nat :=
  ((List.range 128).map fun c => imgCell img b c).filter fun w => w / 2 ^ 21 % 2 == 1

/-- The gain codes of row i by source: g_ij times 256 (R283, R289). -/
def rowGains (img : List Byte) (i : Nat) : List (Nat × Int) :=
  ((imgCells img (i / 16)).filter fun w => w % 16 == i % 16).foldl (fun acc w =>
    let j := cellSrc img (i / 16) w
    let g := asInt 11 (w / 2 ^ 10 % 2 ^ 11)
    if acc.any fun p => p.1 == j then acc.map fun p => if p.1 = j then (j, p.2 + g) else p
    else acc ++ [(j, g)]) []

/-! ## States of a run (R287 to R290) -/

/-- The limit of an integrator: 1 + 2^-4 full scale. -/
def satLimit : Int := 870400

def intAt (l : List Int) (j : Nat) : Int := l.getD j 0

/-- The code of an integrator and whether it was clipped (R290). -/
def codeOf (u : Int) : Int × Bool :=
  let q := (u + 50) / 100
  (max (-8192) (min 8191 q), decide (u < -819200) || decide (819100 < u))

/-- s_i times 256, in hundredths of a code. -/
def summer (r : Region) (u : List Int) (i : Nat) : Int :=
  (rowGains r.image i).foldl (fun acc p => acc - p.2 * intAt u p.1) (25600 * intAt r.bias i)

/-- The bound of R289 on row i, times 512 * 256 * 8192. -/
def certRow (r : Region) (q : List Int) (i : Nat) : Bool :=
  let b := 256 * intAt r.bias i
  let gs := rowGains r.image i
  let res := gs.foldl (fun acc p => acc - p.2 * intAt q p.1) b
  let mag := gs.foldl (fun acc p => acc + (p.2 * intAt q p.1).natAbs) b.natAbs
  decide (512 * res.natAbs ≤ 2 ^ (30 - imgTheta r.image) + 2 ^ 19 + mag)

/-- The codes of states, one for each slot; an unused slot has 0. -/
def Region.codes (r : Region) (u : List Int) : List Int :=
  (List.range (16 * r.nblk)).map fun j => if imgUsed r.image j then (codeOf (intAt u j)).1 else 0

/-- Whether some used integrator's code is clipped. -/
def Region.clips (r : Region) (u : List Int) : Bool := r.used.any fun j => (codeOf (intAt u j)).2

/-- The band of row i on the states, clipped or not: |s_i| ≤ θ, and of a state that is known by its code alone what R289
allows beyond it (R288; log 10). It is certRow's bound, in hundredths of a code. -/
def certBand (r : Region) (u : List Int) (i : Nat) : Bool :=
  let gs := rowGains r.image i
  let mag := gs.foldl (fun acc p => acc + (p.2 * intAt u p.1).natAbs) (25600 * intAt r.bias i).natAbs
  decide (512 * (summer r u i).natAbs ≤ 100 * (2 ^ (30 - imgTheta r.image) + 2 ^ 19) + mag)

/-- Whether states may be those of a certified run: every summer is in its band, and R289 holds of the codes, unless one is
clipped (R288 to R290). -/
def Region.certifies (r : Region) (u : List Int) : Bool :=
  (r.used.all fun i => certBand r u i) && (r.clips u || r.used.all fun i => certRow r (r.codes u) i)

/-- The first unit beyond its limit: an integrator before a summer, the lowest slot first (R287). -/
def Region.crossed (r : Region) (u : List Int) : Option (Nat × Nat) :=
  match r.used.find? fun j => decide (satLimit < (intAt u j).natAbs) with
  | some j => some (j / 16, j % 16)
  | none =>
    match r.used.find? fun i => decide (256 * 3276800 < (summer r u i).natAbs) with
    | some i => some (i / 16, 16 + i % 16)
    | none => none

def clampU (x : Int) : Int := max (-satLimit) (min satLimit x)

/-- States within the limits of R287: those given, where no integrator and no summer lies beyond its own, else the ones
that the run started from. -/
def Region.within (r : Region) (u : List Int) : List Int := if (r.crossed u).isNone then u else r.u

/-- The states a running region has now: free, within the limits (log 10). -/
def State.freeU (s : State) (r : Region) : List Int :=
  r.within ((List.range (16 * r.nblk)).map fun j => if imgUsed r.image j then clampU (Config.freeSettle s.ctr j) else 0)

/-! ## The end of a run and of a claim (R286, R300) -/

/-- An event of a run of a region. -/
def ofRun (ctx reg : Nat) : Instr → Bool
  | .settleSaturation c r _ => c == ctx && r == reg
  | .settleCertify c r _ => c == ctx && r == reg
  | .settleTimeout c r _ => c == ctx && r == reg
  | _ => false

/-- A run ends in a state: its integrators are held. -/
def State.endRun (s : State) (ctx reg : Nat) (u : List Int) (st : Nat) : State :=
  let s := s.modRegion (regionKey ctx reg) fun r => { r with state := st, u := u }
  { s with agenda := s.agenda.filter fun i => !ofRun ctx reg i }

/-- RUNNING becomes HALTED; any other state stays (R286). -/
def State.haltRegion (s : State) (ctx reg : Nat) : State :=
  match s.region? (regionKey ctx reg) with
  | some r => if r.state = 2 then s.endRun ctx reg (s.freeU r) 6 else s
  | none => s

/-- A claim ends: a running region halts, and a deadline bound to it is disarmed (R300). -/
def State.endClaim (s : State) (ctx reg : Nat) : State :=
  match s.region? (regionKey ctx reg) with
  | none => s
  | some r =>
    let s := s.modTask r.claim fun sl =>
      if sl.dlb && sl.dlreg.toNat == reg then { sl with dline := 0 } else sl
    (s.haltRegion ctx reg).modRegion (regionKey ctx reg) fun r => { r with claim := ⟨0, 0⟩, taskid := 0 }

/-- Every claim of a task ends with it (R300). -/
def State.claimsEnd (s : State) (uid : Nat) : State :=
  s.regions.foldl (fun s p =>
    match p.2 with
    | some r => if r.claim.uid = uid ∧ uid ≠ 0 then s.endClaim (p.1 / 16) (p.1 % 16) else s
    | none => s) s

end Sys2Proof.Machine
end

