-- ==== Sys2Proof/Machine/Tags.lean ====
section
/-! DEFINITION. Copy tags: delivery and the TAGS instructions (10_copies.md R237 to R239). -/

namespace Sys2Proof.Machine

/-- A tag's status word after one more completion (R237). -/
def tagWord (w : W32) (status : Nat) (pois nv sat nx : Bool) : W32 :=
  let n := Nat.min (slice w 16 16 + 1) 65535
  let st := if slice w 0 8 = 0 then status else slice w 0 8
  BitVec.ofNat 32 (n * 2 ^ 16 + (bit w 11 || pois).toNat * 2 ^ 11 + (bit w 10 || nv).toNat * 2 ^ 10
    + (bit w 9 || sat).toNat * 2 ^ 9 + (bit w 8 || nx).toNat * 2 ^ 8 + st)

def Slot.tag (sl : Slot) (t : BitVec 6) : W32 := sl.tags[t.toNat]'(t.isLt)

/-- A completion is delivered to tag t: the word, then TAGRDY (R237). -/
def Slot.deliverTag (sl : Slot) (t : BitVec 6) (status : Nat) (pois nv sat nx : Bool) : Slot :=
  { sl with tags := sl.tags.set t.toNat (tagWord (sl.tag t) status pois nv sat nx) t.isLt
            tagrdy := sl.tagrdy ||| (1#64 <<< t.toNat) }

/-- The lowest set bit of a word; 64 when there is none. -/
def lowBit (w : Word) : Nat := ((List.range 64).find? fun i => bit w i).getD 64

/-- Clears the tags of a mask (R239). -/
def Slot.clearTags (sl : Slot) (m : Word) : Slot :=
  { sl with tagrdy := sl.tagrdy &&& ~~~m
            tags := (List.range 64).foldl (fun v t => if h : t < 64 then (if bit m t then v.set t 0 else v) else v) sl.tags }

/-- WAITANY (R239). -/
def execWaitany (d : Reg) (a : Src) (c : Bool) (s : State) : Out :=
  issue .s .inner (fun s => (s.examine [a]).bind fun s _ => (s.freeG d).bind fun s _ =>
    let m := s.g a.reg
    let hit := s.me.tagrdy &&& m
    if m = 0 then .ok (s.putG d 64) ()
    else if hit = 0 then .wait s
    else
      let t := lowBit hit
      let s := if c then s.modMe fun sl => sl.clearTags (1#64 <<< t) else s
      .ok (s.putG d (BitVec.ofNat 64 t)) ()) s

/-- WAITALL (R239). -/
def execWaitall (d : Reg) (a : Src) (c : Bool) (s : State) : Out :=
  issue .s .inner (fun s => (s.examine [a]).bind fun s _ => (s.freeG d).bind fun s _ =>
    let m := s.g a.reg
    if s.me.tagrdy &&& m ≠ m then .wait s
    else
      let bad := ((List.range 64).filter fun t => bit m t && slice (s.me.tag (BitVec.ofNat 6 t)) 0 8 != 0).foldl
        (fun w t => w ||| (1#64 <<< t)) (0 : Word)
      let s := if c then s.modMe fun sl => sl.clearTags m else s
      .ok (s.putG d bad) ()) s

/-- FFRDY (R239). -/
def execFfrdy (d : Reg) (a : Src) (s : State) : Out :=
  issue .s .inner (fun s => (s.examine [a]).bind fun s _ => (s.freeG d).bind fun s _ =>
    .ok (s.putG d (BitVec.ofNat 64 (lowBit (s.me.tagrdy &&& s.g a.reg)))) ()) s

/-- TAGCLR (R239). -/
def execTagclr (a : Src) (s : State) : Out :=
  issue .s .inner (fun s => (s.examine [a]).bind fun s _ =>
    .ok (s.modMe fun sl => sl.clearTags (s.g a.reg)) ()) s

/-- TAGGET (R239). -/
def execTagget (d : Reg) (t : BitVec 6) (s : State) : Out :=
  issue .s .inner (fun s => (s.freeG d).bind fun s _ => .ok (s.putG d (zextW (s.me.tag t))) ()) s

end Sys2Proof.Machine
end

