-- ==== Sys2Proof/Machine/StrandOps.lean ====
section
/-! DEFINITION. The operations of strands: entries in memory, delivery and claims, ends that go, moves
(11_strands.md R246 to R268). -/

namespace Sys2Proof.Machine

/-! ## Entries (R246 to R248) -/

/-- The key of an index: that of another device's entry has its home above 65536 (R268). -/
def strandKey (ctx idx : Nat) : Nat := idx / 65536 * 2 ^ 22 + ctx * 65536 + idx % 65536

def Strand.key (x : Strand) : Nat := strandKey x.ctx x.idx
def Strand.size (x : Strand) : Nat := 8 * 2 ^ x.s
def Strand.depth (x : Strand) : Nat := 2 ^ x.l

def State.strand? (s : State) (k : Nat) : Option Strand := Store.get none s.strands k

/-- One end of a strand: the sink when the flag says so. -/
def Strand.side (x : Strand) (sink : Bool) : StrandEnd := if sink then x.snk else x.src

def Strand.setSide (x : Strand) (sink : Bool) (e : StrandEnd) : Strand :=
  if sink then { x with snk := e } else { x with src := e }

/-- An end that its holder can still use. -/
def StrandEnd.live (e : StrandEnd) : Bool := decide (e.st < 2)

/-- A location word (R248). -/
def locWord (quad dev : Nat) : Nat := quad % 512 * 2 ^ 14 + quad / 512 % 4 * 2 ^ 12 + dev % 2 ^ 12

/-- The fray number: what the orphaned side had not sent, or had not taken (R262). -/
def Strand.fray (x : Strand) : Nat :=
  if x.src.st = 2 then x.nsend else if x.snk.st = 2 then x.ntake else 0

/-- A move's code (R248). -/
def moveCode : Option StrandMove → Nat
  | none => 0
  | some m => if m.sink then 2 else 1

/-- The eight words of an entry (R248). -/
def Strand.image (x : Strand) : List Nat :=
  let stub := x.moves.find? fun m => m.sink
  let hop (a b : Nat) : Nat := ofInt 8 ((b : Int) - a)
  [x.reuse + 2 ^ 15 + x.s * 2 ^ 16 + x.l * 2 ^ 19 + x.src.st * 2 ^ 23 + x.snk.st * 2 ^ 25 + x.src.wired.toNat * 2 ^ 27
      + x.snk.wired.toNat * 2 ^ 28 + moveCode x.moves.head? * 2 ^ 29 + moveCode (x.moves.drop 1).head? * 2 ^ 31
      + (!x.stoppers.isEmpty).toNat * 2 ^ 33 + stub.isSome.toNat * 2 ^ 34,
   locWord x.src.quad x.src.dev + locWord x.snk.quad x.snk.dev * 2 ^ 32,
   (match stub with | some m => locWord m.old 0 | none => 0)
      + hop (x.src.quad % 16) (x.snk.quad % 16) * 2 ^ 32 + hop (x.src.quad % 512 / 16) (x.snk.quad % 512 / 16) * 2 ^ 40
      + (x.src.quad / 512 != x.snk.quad / 512 || x.src.dev != x.snk.dev).toNat * 2 ^ 48
      + (x.src.dev != x.snk.dev).toNat * 2 ^ 49,
   x.src.ownerId.toNat, x.snk.ownerId.toNat, 0x00FF000000000000 + x.ringOff,
   x.nsend % 2 ^ 32 + x.ndeliv % 2 ^ 32 * 2 ^ 32, x.credits + x.fray % 2 ^ 32 * 2 ^ 32]

/-- Where an entry stands: STRTAB + 64 × INDEX. -/
def State.entryAt (s : State) (ctx idx : Nat) : Nat :=
  match s.ctx ctx with
  | some c => c.strtab + 64 * idx
  | none => 64 * idx

/-- Keeps a strand, and its entry in memory (R248); an entry of another device stands there (R268). -/
def State.putStrand (s : State) (x : Strand) : State :=
  { s with
    strands := Store.set s.strands x.key (some x)
    mem := if 65536 ≤ x.idx then s.mem else Memory.write s.mem (s.entryAt x.ctx x.idx) (x.image.flatMap (toBytes 8)) }

/-- The reuse count of a free entry, which counts from 1 (R246). -/
def State.freeReuse (s : State) (ctx idx : Nat) : Nat :=
  let r := ofBytes (Memory.read s.mem (s.entryAt ctx idx) 8) % 2 ^ 15
  if r = 0 then 1 else r

/-- Whether an event is about a strand. -/
def ofStrand (ctx idx : Nat) : Instr → Bool
  | .strandItemArrival c e _ => c == ctx && e == idx
  | .strandCreditReturn c e => c == ctx && e == idx
  | .strandMoveRequest c e _ => c == ctx && e == idx
  | .strandStopperArrival c e => c == ctx && e == idx
  | .strandRouteSwitch c e => c == ctx && e == idx
  | .strandFray c e => c == ctx && e == idx
  | _ => false

/-- Both ends are gone: the entry is free and REUSE advances, skipping 0 (R247). -/
def State.freeStrand (s : State) (x : Strand) : State :=
  { s with
    strands := Store.set s.strands x.key none
    agenda := s.agenda.filter fun i => !ofStrand x.ctx x.idx i
    mem := if 65536 ≤ x.idx then s.mem else Memory.write s.mem (s.entryAt x.ctx x.idx) (toBytes 8 (x.reuse % 32767 + 1) ++ List.replicate 56 0) }

/-- The handle of an end, with HOME 0 for this device (R246). -/
def Strand.handle (x : Strand) (asid : Nat) (sink : Bool) : Word :=
  BitVec.ofNat 64 (x.idx / 65536 * 2 ^ 48 + asid * 2 ^ 32 + x.reuse * 2 ^ 17 + sink.toNat * 2 ^ 16 + x.idx % 65536)

/-- The kind that a handle names. -/
def handleSink (h : Word) : Bool := bit h 16

/-- The home that a handle names; this device's own number is 0 (R246). -/
def State.homeOf (s : State) (h : Word) : Nat := if slice h 48 12 = s.host.devNo then 0 else slice h 48 12

/-- A handle that has crossed from a device: a HOME of 0 becomes the sender's number, and this device's own becomes 0
(R268). -/
def State.crossed (s : State) (dev : Nat) (h : Word) : Word :=
  let home := slice h 48 12
  setSlice h 48 12 (if home = 0 then dev else if home = s.host.devNo then 0 else home)

/-- The strand of a context that a handle names with its current REUSE. -/
def State.strandOf (s : State) (ctx : Nat) (h : Word) : Option Strand :=
  match s.strand? (strandKey ctx (s.homeOf h * 65536 + slice h 0 16)) with
  | some x => if x.reuse = slice h 17 15 then some x else none
  | none => none

/-! ## Delivery and claims (R255, R256) -/

/-- The storage key of item n in the ring (R253). -/
def Strand.slotKey (x : Strand) (n : Nat) : Nat := qlmKey x.ringQuad (x.ringOff + n % x.depth * x.size)

/-- Whether a strand's ring lies in a unit's area: of its owner's unit, or for a wired end's by its place (R267). -/
def Strand.ringIn (x : Strand) (u : UnitSt) : Bool :=
  if x.ringUid ≠ 0 then u.members.any fun m => m.uid == x.ringUid
  else u.ctx == x.ctx && u.quads.contains x.ringQuad && decide (u.qlmOff ≤ x.ringOff) && decide (x.ringOff < u.qlmOff + u.qlmLen)

/-- Whether the ring's region has been saved with its unit: items wait (R267). -/
def State.ringHeld (s : State) (x : Strand) : Bool := s.units.any fun u => u.saved && x.ringIn u

/-- Where item n of a ring stands now: in QLM, or in the save area of the unit whose areas have been saved (R346). -/
def State.itemKey (s : State) (x : Strand) (n : Nat) : Nat :=
  match s.units.find? fun u => u.saved && x.ringIn u with
  | some u =>
    (match u.save with | some (a, _) => a | none => 0) + 17408 * u.members.length + u.qlmLen * u.quads.idxOf x.ringQuad
      + (x.ringOff + n % x.depth * x.size - u.qlmOff)
  | none => x.slotKey n

/-- The first number of an item that has not arrived (R268). -/
def Strand.firstGap (x : Strand) : Nat :=
  (List.range x.arrived.length).foldl (fun (n : Nat) _ => if x.arrived.any fun i => i.seq == n then n + 1 else n) x.ndeliv

/-- An end of another device's strand that reached this device in an item: what its entry holds is that device's, and its
move waits for the anchor there (R258, R268; log 16). -/
def State.foreignEnd (s : State) (ctx : Nat) (h : Word) (holder : Nat) : Strand :=
  let home := slice h 48 12
  let sink := bit h 16
  let free (i : Nat) : Nat := slice (Config.freeRemote (s.ctr * 8 + i)) 0 32
  let n := free 0
  let here : StrandEnd := { st := 1, holder := holder }
  let there : StrandEnd := { dev := home, quad := free 1 % 2048 }
  let l := 1 + free 2 % 10
  { ctx := ctx, idx := home * 65536 + slice h 0 16, reuse := slice h 17 15, s := free 3 % 6, l := l
    src := if sink then there else here, snk := if sink then here else there
    ringQuad := 0, ringOff := 0, nsend := n, ndeliv := n, ntake := n, credits := if sink then 2 ^ l else free 4 % (2 ^ l + 1)
    moves := [{ sink := sink, stopped := true }] }

/-- Items in the ring in sequence order, up to the first whose route's stopper is outstanding (R256, R259). -/
def State.deliverRun : Nat → Strand → State → State × Strand
  | 0, x, s => (s, x)
  | n + 1, x, s =>
    if (match x.gates with | g :: _ => decide (g ≤ x.ndeliv) | [] => false) then (s, x)
    else
      match takeFirst (fun i => i.seq == x.ndeliv) x.arrived with
      | none => (s, x)
      | some (i, rest) =>
        let k := s.itemKey x i.seq
        let s := s.putBytes k (toBytes x.size i.item.toNat)
        let s := if i.pois then s.poisonAt k else s
        State.deliverRun n { x with arrived := rest, ndeliv := x.ndeliv + 1 } s

/-- A claim's destinations: g(d) and g(d + 1), or v(c) and g(d); a V = 1 form's slot may go on (R255). -/
def Slot.takeItem (size : Nat) (c : Claim) (status : Nat) (item : Option (List Byte)) (pois : Bool) (sl : Slot) : Slot :=
  let st : Word := BitVec.ofNat 64 status
  match c.v with
  | none =>
    (sl.arriveG (c.d + 1) (BitVec.ofNat 64 (ofBytes ((item.getD []).take 8))) pois).arriveG c.d st false
  | some v =>
    let sl := match item with
      | some bs =>
        { sl with v := sl.v.set v.toNat (BitVec.ofNat 2048 (ofBytes (bs.take size))) v.isLt
                  vpois := if pois then sl.vpois ||| (1#32 <<< v.toNat) else sl.vpois &&& ~~~(1#32 <<< v.toNat) }
      | none => sl
    { sl.writeG c.d st with sending := false, sent := true }

/-- An item is taken: its ring slot is free, a credit returns, and an end it carries is held by the taker (R255,
R258). -/
def State.takeOne (s : State) (x : Strand) (c : Claim) : State × Strand :=
  let k := x.slotKey x.ntake
  let item := s.bytes k x.size
  let pois := s.pois k x.size
  let h := x.ends.find? fun e => e.1 == x.ntake
  let s := match h with
    | none => s
    | some (_, h) =>
      match s.strandOf x.ctx h with
      | some y =>
        if (y.side (handleSink h)).st = 1 then
          s.putStrand (y.setSide (handleSink h) { y.side (handleSink h) with holder := c.t.uid, dev := 0 })
        else s
      | none => if s.homeOf h = 0 then s else s.putStrand (s.foreignEnd x.ctx h c.t.uid)
  let s := s.modTask c.t (Slot.takeItem x.size c (if pois then 0 else if h.isSome then 3 else 0) (some item) pois)
  let s := (if x.src.dev = 0 ∧ x.src.live then s.post (.strandCreditReturn x.ctx x.idx) else s).countOld c.t.ta 24 1 c.at_
  (s, { x with ntake := x.ntake + 1, ends := x.ends.filter fun e => e.1 != x.ntake })

/-- Whether every item sent has been taken, and the peer is known to be gone: 4 closed, 2 frayed (R255). -/
def Strand.drained (x : Strand) : Option Nat :=
  if x.ntake < x.nsend then none
  else if x.snk.peer = 1 then some 4
  else if x.snk.peer = 2 then some 2
  else none

/-- Serves the claims in order (R255). -/
def State.claimRun : Nat → Strand → State → State × Strand
  | 0, x, s => (s, x)
  | n + 1, x, s =>
    match x.claims with
    | [] => (s, x)
    | c :: cs =>
      if (s.task? c.t).isNone then State.claimRun n { x with claims := cs } s
      else if x.ntake < x.ndeliv then
        let (s, x) := s.takeOne { x with claims := cs } c
        State.claimRun n x s
      else
        match x.drained with
        | none => (s, x)
        | some code =>
          State.claimRun n { x with claims := cs } (s.modTask c.t (Slot.takeItem x.size c code none false))

/-- Delivers what can be delivered and serves what can be served. -/
def State.serve (s : State) (k : Nat) : State :=
  match s.strand? k with
  | none => s
  | some x =>
    if !x.snk.live || s.ringHeld x then s
    else
      let (s, x) := State.deliverRun x.arrived.length x s
      let (s, x) := if x.snk.st = 0 then State.claimRun x.claims.length x s else (s, x)
      s.putStrand x

/-- Withdraws claims; the items go to the next (R255). -/
def State.withdrawIf (s : State) (mine : Claim → Bool) : State :=
  s.strands.foldl (fun s p =>
    match p.2 with
    | some x =>
      if x.claims.any mine then
        match s.strand? p.1 with
        | some y => (s.putStrand { y with claims := y.claims.filter fun c => !mine c }).serve p.1
        | none => s
      else s
    | none => s) s

/-- Withdraws the claims of a task that ends. -/
def State.withdraw (s : State) (uid : Nat) : State := s.withdrawIf fun c => c.t.uid == uid

/-- Withdraws the claim of the V = 1 form that a slot waits in: the slot leaves it. -/
def State.withdrawV (s : State) (uid : Nat) : State := s.withdrawIf fun c => c.t.uid == uid && c.v.isSome

/-! ## Ends that go (R247, R258, R262 to R264) -/

/-- A watch fires: COUNT goes up and STATUS stays (R264). -/
def State.fireWatch (s : State) (e : StrandEnd) : State :=
  match e.watch with
  | some (t, n) => s.modTask t fun sl => sl.deliverTag n 0 false false false false
  | none => s

/-- An end learns that its peer is gone (R262, R263): its watch fires and its claims may complete. -/
def State.peerGone (s : State) (k : Nat) (sink : Bool) (how : Nat) : State :=
  match s.strand? k with
  | none => s
  | some x =>
    let e := x.side sink
    if !e.live || e.peer ≠ 0 then s
    else
      let s := s.fireWatch e
      (s.putStrand (x.setSide sink { e with peer := how, watch := none })).serve k

/-- A source that is gone has no more moves to accept; with a sink that is gone every sink move, stopper and gate
ends, and a source move waits for nothing but its SACCEPT. -/
def Strand.dropMoves (x : Strand) (sink : Bool) : Strand :=
  if sink then
    { x with moves := (x.moves.filter fun m => !m.sink).map fun m => { m with stopped := true }
             gates := [], stoppers := [] }
  else { x with moves := x.moves.map fun m => if m.sink then m else { m with accepted := true } }

/-- Moves that are complete give up the grant (R259 to R261). -/
def grantRun : List StrandMove → List StrandMove
  | [] => []
  | m :: ms => if m.accepted && m.stopped then grantRun ms else m :: ms

/-- Whether an event carries an item, a stopper, or a route of a strand towards its sink. -/
def toSink (ctx idx : Nat) : Instr → Bool
  | .strandItemArrival c e _ => c == ctx && e == idx
  | .strandStopperArrival c e => c == ctx && e == idx
  | .strandRouteSwitch c e => c == ctx && e == idx
  | _ => false

/-- One end goes: `how` is 2 orphaned, 3 closed. What a lost device's source had sent ends at the first number missing
(R268). It answers the ends that its discarded items carried. -/
def State.goneOne (s : State) (x : Strand) (sink : Bool) (how : Nat) : State × List (Nat × Bool) :=
  let e := x.side sink
  let wasOpen := e.peer = 0
  let x := if e.dev ≠ 0 ∧ sink = false ∧ how = 2 then
      { x with nsend := x.firstGap, arrived := x.arrived.filter fun i => decide (i.seq < x.firstGap) } else x
  let x := x.setSide sink { e with st := how, owner := 0, ownerId := 0, wired := false, holder := 0, watch := none }
  let carried := if sink then x.ends.map Prod.snd else []
  let s := if sink then
      let s := if how = 3 then
          x.claims.foldl (fun s c => s.modTask c.t (Slot.takeItem x.size c 4 none false)) s
        else s
      { s with agenda := s.agenda.filter fun i => !toSink x.ctx x.idx i }
    else s
  let x := if sink then
      { x with ends := [], arrived := [], claims := [], ndeliv := x.nsend }
    else x
  let x := x.dropMoves sink
  let x := { x with moves := grantRun x.moves }
  let more := carried.filterMap fun h => (s.strandOf x.ctx h).map fun y => (y.key, handleSink h)
  if !x.src.live && !x.snk.live || 65536 ≤ x.idx then (s.freeStrand x, more)
  else
    let s := s.putStrand x
    let s := if !wasOpen then s
      else if how = 3 then s.peerGone x.key (!sink) 1
      else s.post (.strandFray x.ctx x.idx)
    (s, more)

/-- Ends that go, and the ends that go with them. Each live end goes once. -/
def State.goneRun : Nat → List (Nat × Bool) → State → State
  | 0, _, s => s
  | _ + 1, [], s => s
  | n + 1, (k, sink) :: js, s =>
    match s.strand? k with
    | none => State.goneRun n js s
    | some x =>
      if (x.side sink).live then
        let (s, more) := s.goneOne x sink 2
        State.goneRun n (js ++ more) s
      else State.goneRun n js s

/-- Ends are orphaned (R262). -/
def State.orphan (s : State) (js : List (Nat × Bool)) : State :=
  State.goneRun (4 * s.strands.length + js.length + 4) js s

/-- An end is closed (R263). -/
def State.closeEnd (s : State) (x : Strand) (sink : Bool) : State :=
  let (s, more) := s.goneOne x sink 3
  s.orphan more

/-- The watches that a task armed end with it. -/
def State.unwatch (s : State) (uid : Nat) : State :=
  let mine (e : StrandEnd) : Bool := match e.watch with | some (t, _) => t.uid == uid | none => false
  s.strands.foldl (fun (s : State) p =>
    match p.2 with
    | some x =>
      if mine x.src || mine x.snk then
        let off (e : StrandEnd) : StrandEnd := if mine e then { e with watch := none } else e
        match s.strand? p.1 with
        | some y => s.putStrand { y with src := off y.src, snk := off y.snk }
        | none => s
      else s
    | none => s) s

/-- What the end of a task or activation means to strands: claims are withdrawn; the ends it owns, and those it
received and has not bound, are orphaned (R255, R258, R262). -/
def State.strandsEnd (s : State) (uid : Nat) : State :=
  let s := s.withdraw uid
  let s := s.unwatch uid
  let hit (e : StrandEnd) : Bool :=
    (e.st == 0 && e.owner == uid && e.dev == 0) || (e.st == 1 && e.holder == uid)
  s.orphan (s.strands.flatMap fun p =>
    match p.2 with
    | some x => (if hit x.src then [(p.1, false)] else []) ++ (if hit x.snk then [(p.1, true)] else [])
    | none => [])

/-- Ends in transit whose holder has been killed are orphaned (R226, R258). -/
def State.strandsSweep (s : State) : State :=
  let hit (e : StrandEnd) : Bool := e.st == 1 && e.holder != 0 && (s.task? ⟨0, e.holder⟩).isNone
  s.orphan (s.strands.flatMap fun p =>
    match p.2 with
    | some x => (if hit x.src then [(p.1, false)] else []) ++ (if hit x.snk then [(p.1, true)] else [])
    | none => [])

end Sys2Proof.Machine
end

