-- ==== Sys2Proof/Machine/Sched.lean ====
section
/-! DEFINITION. The scheduler's operations: records, acceptance, readiness, completion, loading of slots, rooms and
rectangles (07_tasks.md R157 to R179; 01_machine.md R31 to R33). -/

namespace Sys2Proof.Machine

/-! ## Records (R158 to R161) -/

/-- A field of len bytes at an offset of a record. -/
def recField (bs : List Byte) (off len : Nat) : Nat := ofBytes ((bs.drop off).take len)

/-- The fields of a task record (R158). -/
def parseTask (bs : List Byte) : TaskRec :=
  let done := recField bs 0x28 8
  { pc := BitVec.ofNat 64 (recField bs 0 8), arg := BitVec.ofNat 64 (recField bs 8 8)
    tx := recField bs 0x10 2, ty := recField bs 0x12 2
    prio := recField bs 0x14 2 % 4, lash := recField bs 0x14 2 / 4 % 2 = 1
    spt := BitVec.ofNat 64 (recField bs 0x18 8), budget := recField bs 0x20 4, deps := recField bs 0x24 4
    dkind := done / 2 ^ 60, dtarget := done % 2 ^ 60, graph := recField bs 0x30 4
    fcont := BitVec.ofNat 64 (recField bs 0x38 8) }

/-- A malformed task record (R159). -/
def badTask (bs : List Byte) : Bool :=
  let t := parseTask bs
  recField bs 0x34 4 != 0 || recField bs 0x16 2 != 0 || recField bs 0x14 2 / 8 != 0 || decide (2 ≤ t.prio) ||
    decide (4 ≤ t.dkind) || ((t.dkind == 1 || t.dkind == 3) && t.dtarget / 2 ^ 56 != 0) || slice t.pc 0 2 != 0

/-- The header of a gang record (R160). -/
def parseGang (bs : List Byte) : GangRec :=
  { w := recField bs 4 1, h := recField bs 5 1, s := recField bs 6 1, fuse := recField bs 7 1 % 2 = 1
    lash := recField bs 7 1 / 2 % 2 = 1, qlm := recField bs 8 4, bars := recField bs 0xC 2
    geo0 := BitVec.ofNat 64 (recField bs 0x10 8), geo1 := BitVec.ofNat 64 (recField bs 0x18 8) }

/-- A malformed gang record (R161). -/
def badGang (bs : List Byte) : Bool :=
  let g := parseGang bs
  recField bs 0 4 != 2 || g.w == 0 || decide (4 < g.w) || g.h == 0 || decide (2 < g.h) || g.s == 0 || decide (4 < g.s) ||
    decide (8 < g.bars) || g.qlm % 4096 != 0 || decide (0xF4000 < g.qlm) || (g.fuse && g.w * g.h != 8) ||
    (g.lash && decide (2 < g.s)) || recField bs 7 1 / 4 != 0 || recField bs 0xE 2 != 0 || recField bs 0x20 32 != 0 ||
    badTask ((bs.drop 64).take 64)

/-! ## Queues -/

/-- Every accepted record that has not started (R165). -/
def State.waiting (s : State) : List Work :=
  s.ready ++ (s.cores.flatMap fun p => p.2.urgent ++ p.2.normal) ++ s.dies.flatMap fun p => p.2.placer ++ p.2.overflow

/-- Takes a record out of every queue. -/
def State.unqueue (s : State) (ctx : Nat) (addr : Word) : State :=
  let keep (w : Work) : Bool := !(w.ctx == ctx && w.addr == addr)
  { s with
    ready := s.ready.filter keep
    cores := s.cores.map fun p => (p.1, { p.2 with urgent := p.2.urgent.filter keep, normal := p.2.normal.filter keep })
    dies := s.dies.map fun p => (p.1, { p.2 with
      placer := p.2.placer.filter keep, overflow := p.2.overflow.filter keep
      reserved := match p.2.reserved with
        | some r => if r.ctx == ctx && r.addr == addr then none else some r
        | none => none }) }

/-- A reservation for a record is given up. -/
def State.unreserve (s : State) (ctx : Nat) (addr : Word) : State :=
  { s with dies := s.dies.map fun (p : Nat × DieSt) => (p.1, { p.2 with reserved := match p.2.reserved with
      | some r => if r.ctx == ctx && r.addr == addr then none else some r
      | none => none }) }

/-- Whether a graph of a context is frozen (R178). -/
def State.graphFrozen (s : State) (ctx graph : Nat) : Bool :=
  match s.ctx ctx with
  | some c => c.frozen.contains graph
  | none => false

/-- Pushes a ready loose task onto a core's deque, or the die's overflow list (R165, R169). -/
def State.pushDeque (s : State) (core : Nat) (w : Work) : State :=
  let c := s.core core
  if w.task.prio = 1 then
    if c.urgent.length < 128 then s.modCore core fun c => { c with urgent := w :: c.urgent }
    else s.modDie (core / 2048) fun d => { d with overflow := d.overflow ++ [w] }
  else if c.normal.length < 128 then s.modCore core fun c => { c with normal := w :: c.normal }
  else s.modDie (core / 2048) fun d => { d with overflow := d.overflow ++ [w] }

/-! ## The unit of a replay run (R359, R360) -/

/-- The unit of a pass has completed: 0 OK, 1 ERROR, 2 CANCELLED; `rp` tells whether it is that unit. -/
def State.replayEnd (s : State) (rp : Bool) (code : Nat) : State :=
  if rp && s.replay.busy then { s with replay := { s.replay with ended := some code } }.post .replayPassComplete else s

/-- A record that completes CANCELLED leaves its trace record, at slot 0 of the core that completed it (R365; log 22). -/
def State.cancelled (s : State) (w : Work) (core : Nat) : State := s.note ⟨2, w.ctx, 2, 0, BitVec.ofNat 64 (core * 8), w.task.pc⟩

/-- The unit's area of QLM in WSAREA: copied there in pass 0, where it fits, and back in a later pass (R360). -/
def State.replayArea (s : State) (u : UnitSt) : State :=
  let r := s.replay
  let quads := u.quads
  let n := u.qlmLen * quads.length
  let at_ (i : Nat) : Nat := r.wsArea.toNat + u.qlmLen * i
  let key (i : Nat) : Nat := qlmKey (quads.getD i 0) u.qlmOff
  if r.pass = 0 then
    if r.wsLen.toNat < n then { s with replay := { r with wsOv := true } }
    else { (List.range quads.length).foldl (fun (s : State) i => s.copyBytes (key i) (at_ i) u.qlmLen) s with
           replay := { r with area := n } }
  else if r.wsOv then s
  else (List.range quads.length).foldl (fun (s : State) i => s.copyBytes (at_ i) (key i) u.qlmLen) s

/-- The unit of a pass has been placed: the controller holds the counters of its cores, both cores of a pair, configured
by PLAN; in pass 0 the place is kept. -/
def State.replayPlaced (s : State) (u : UnitSt) : State :=
  if !u.replay then s
  else
    let r := s.replay
    let lash := u.task.lash || (match u.gang with | some g => g.lash | none => false)
    let cores := (u.members.flatMap fun m => if lash then [m.ta / 8, Nat.xor (m.ta / 8) 1] else [m.ta / 8]).eraseDups
    let cfg (i : Nat) : PmCounter :=
      { cfg := BitVec.ofNat 64 (ofBytes (Memory.read s.mem (r.plan.toNat + 8 * (4 * r.pass + i)) 8)), replay := true, ctx := some u.ctx }
    let s := cores.foldl (fun (s : State) c => s.modCore c fun k => { k with pmc := (List.range 4).map cfg }) s
    let s := s.replayArea u
    if r.pass = 0 then { s with replay := { s.replay with place := some (u.origin, cores) } } else s

/-! ## Readiness and completion (R172, R176 to R178) -/

/-- The scheduler's pending acts. `mark` is the graph of an error token; `status` is OK, or an error token. -/
inductive Job where
  | ready (w : Work) (core : Nat)
  | dec (ctx : Nat) (addr : Word) (n : Nat) (mark : Option Nat) (core : Nat)
  | done (ctx : Nat) (addr : Word) (t : TaskRec) (token : Bool) (core : Nat)
  deriving Repr

/-- Delivers a completion tag of a DONE action of kind 2 (R176): dropped when the thread is not a live task of the
context. -/
def State.doneTag (s : State) (ctx : Nat) (t : Word) (tag : Nat) (token : Bool) : State :=
  let c := (s.ctx ctx).getD { desc := [], descPA := 0 }
  if !s.taOk c t then s.drop ctx
  else if s.devOf t ≠ 0 then s
  else
    let ta := s.pairOf (slice t 0 16)
    let sl := s.slot ta
    if sl.st = .idle ∨ sl.ctx ≠ ctx then s.drop ctx
    else s.modSlot ta fun sl => sl.deliverTag (BitVec.ofNat 6 tag) (if token then 7 else 0) false false false false

/-- One act, and the acts it calls for. -/
def State.job (s : State) : Job → State × List Job
  | .ready w core =>
    if w.token then ((s.replayEnd w.replay 2).cancelled w core, [.done w.ctx w.addr w.task true core])
    else
      match w.gang with
      | some _ =>
        (s.modDie w.home fun d => { d with placer := d.placer ++ [{ w with since := s.time }] }, [])
      | none => (s.pushDeque (if w.fixed then w.home else core) w, [])
  | .dec ctx addr n mark core =>
    let here (x : Work) : Bool := x.ctx == ctx && x.addr == addr
    match s.ready.find? here with
    | some w =>
      let w := { w with count := w.count - n, token := w.token || mark == some w.task.graph }
      if w.count ≤ 0 then ({ s with ready := s.ready.filter fun x => !here x }, [.ready w core])
      else ({ s with ready := s.ready.map fun x => if here x then w else x }, [])
    | none =>
      if s.credits.any fun c => c.ctx == ctx && c.addr == addr then
        ({ s with credits := s.credits.map fun c =>
            if c.ctx == ctx && c.addr == addr then { c with n := c.n + n, marks := c.marks ++ mark.toList } else c }, [])
      else ({ s with credits := s.credits ++ [⟨ctx, addr, n, mark.toList⟩] }, [])
  | .done ctx addr t token core =>
    match t.dkind with
    | 1 => (s, [.dec ctx (BitVec.ofNat 64 t.dtarget) 1 (if token then some t.graph else none) core])
    | 2 => (s.doneTag ctx (BitVec.ofNat 64 (t.dtarget / 64)) (t.dtarget % 64) token, [])
    | 3 => (s.post (.edgeDeferredPush ⟨ctx, BitVec.ofNat 64 t.dtarget, addr, token, BitVec.ofNat 32 t.graph, core⟩), [])
    | _ => (s, [])

/-- Acts until none is left; every act takes a record out of the ready table or ends a chain. -/
def State.jobs : Nat → List Job → State → State
  | 0, _, s => s
  | _ + 1, [], s => s
  | n + 1, j :: js, s =>
    let (s, more) := s.job j
    State.jobs n (more ++ js) s

def State.act (s : State) (js : List Job) : State := State.jobs (3 * (s.ready.length + js.length) + 3) js s

/-- A decrement of a record (R172). -/
def State.decrement (s : State) (ctx : Nat) (addr : Word) (n : Nat) (mark : Option Nat) (core : Nat) : State :=
  s.act [.dec ctx addr n mark core]

/-- Acceptance of a record on a die (R165, R166, R172): status 3 while one with its address has not started. -/
def State.accept (s : State) (ctx : Nat) (addr : Word) (g : Option GangRec) (t : TaskRec) (core : Nat) (fixed token : Bool)
    (rp : Bool := false) : State × Nat :=
  if s.waiting.any fun w => w.ctx == ctx && w.addr == addr then (s, 3)
  else if g.isSome && s.clustersUp (core / 2048) == 0 then (s, 2)
  else
    let (n, marks, credits) := match takeFirst (fun c => c.ctx == ctx && c.addr == addr) s.credits with
      | some (c, rest) => (c.n, c.marks, rest)
      | none => (0, [], s.credits)
    let w : Work := { ctx := ctx, addr := addr, gang := g, task := t, count := (t.deps : Int) - n
                      token := token || marks.contains t.graph, home := if g.isSome then core / 2048 else core
                      fixed := fixed, replay := rp }
    let s := { s with credits := credits }
    if w.count ≤ 0 then (s.act [.ready w core], 0) else ({ s with ready := s.ready ++ [w] }, 0)

/-- A record's bytes as hardware reads them for a context (R164, R319): the failing check, or the first poisoned
byte. `who` is the slot whose share check applies. -/
inductive RecRead where
  | bytes (l : List Byte)
  | protect
  | xlate
  | pois (a : Word)
  deriving DecidableEq, Repr

def State.recRead (s : State) (who : Option Nat) (ctx : Nat) (va : Word) (n : Nat) : State × RecRead :=
  let at_ (s : State) (key : Nat) : State × RecRead :=
    match (List.range n).find? fun i => s.gran (key + i) with
    | some i => (s, .pois (va + BitVec.ofNat 64 i))
    | none => (s, .bytes (s.bytes key n))
  if slice va 56 8 ≠ 0 then (s, .protect)
  else if inQlmBlock va then
    match who with
    | none => (s, .protect)
    | some ta =>
      match s.protect ta va n false with
      | some (some key) => at_ s key
      | _ => (s, .protect)
  else
    match s.ctx ctx with
    | none => (s, .xlate)
    | some c =>
      match s.translate c who va .r with
      | (s, none) => (s, .xlate)
      | (s, some p) =>
        let s := if p.dev then (s.lookHome who (p.pa / 128) .normal).1 else s
        at_ s p.key

/-! ## Loading a slot (R31 to R33) -/

/-- The g registers at the start: g0 to g31 FULL, g32 to g63 EMPTY. -/
def startG (g2 g3 g4 : Word) : Vector GReg 64 :=
  let full : GReg := ⟨0, .full, false⟩
  let v : Vector GReg 64 := ⟨(List.replicate 32 full ++ List.replicate 32 ({} : GReg)).toArray, by simp⟩
  ((v.set 2 ⟨g2, .full, false⟩).set 3 ⟨g3, .full, false⟩).set 4 ⟨g4, .full, false⟩

/-- The local window address of an offset. -/
def localAddr (off : Nat) : Word := BitVec.ofNat 64 (0x00FF000000000000 + off)

/-- TCOORD (R27). -/
def tcoordOf (size rank ty tx : Nat) : Word := BitVec.ofNat 64 (size * 2 ^ 48 + rank * 2 ^ 32 + ty * 2 ^ 16 + tx)

/-- The slot state that every start shares (R31, R33). -/
def startSlot (c : Ctx) (ctx ta uid budget : Nat) (pc g2 g3 g4 taskid : Word) : Slot :=
  { st := .running, uid := uid, ctx := ctx, pc := pc, g := startG g2 g3 g4, taskid := taskid
    ctxid := BitVec.ofNat 64 (c.asid + ctx * 2 ^ 16), self := BitVec.ofNat 64 ta, budget := budget
    fpctl := BitVec.ofNat 64 c.fpdef, capl := Config.freeCapl ctx, lfsr := lfsrSeed c.seed taskid }

/-- The budget of a record (R31). -/
def TaskRec.cycles (t : TaskRec) (c : Ctx) : Nat := if t.budget = 0 then c.defbud else t.budget

/-- PAIRST of a lashed pair that has just started (R28, R343). -/
def pairstOf (ta : Nat) : Word := BitVec.ofNat 64 (1 + taCore ta % 4 / 2 * 2)

/-- The partner of a slot (R343). -/
def partnerOf (ta : Nat) : Nat := taOf ((taCore ta).xor 1) ((taSlot ta).xor 2)

/-- The lower-numbered core's slot stands for the pair. -/
def pairMain (ta : Nat) : Nat := if taCore ta % 2 = 0 then ta else partnerOf ta

/-- A task of a unit in its slot (R31); `tc` is TCOORD and `top` one past its share. -/
def State.taskSlot (s : State) (u : UnitSt) (m : Member) (tc top : Word) : Slot :=
  let c := (s.ctx u.ctx).getD { desc := [], descPA := 0 }
  let t := u.task
  let taskid := match u.gang with | some _ => u.addr + BitVec.ofNat 64 m.rank | none => u.addr
  let lash := match u.gang with | some g => g.lash || t.lash | none => t.lash
  let geo := match u.gang with | some g => (g.geo0, g.geo1) | none => (0, 0)
  { startSlot c u.ctx m.ta m.uid (t.cycles c) t.pc top t.arg tc taskid with
    unit := u.addr, rank := m.rank, tcoord := tc, arg := t.arg, ggeo0 := geo.1, ggeo1 := geo.2, spt := t.spt
    fcont := t.fcont, graph := BitVec.ofNat 64 t.graph, rp := u.replay, pairst := if lash then pairstOf m.ta else 0 }

/-- The 128 entries of a loaded splice copy from its bytes (R270). -/
def splcOf (bs : List Byte) : Vector (BitVec 128) 128 :=
  (List.range 128).foldl (fun v i => if h : i < 128 then v.set i (BitVec.ofNat 128 (ofBytes ((bs.drop (16 * i)).take 16))) else v)
    (Vector.replicate 128 0)

/-- The table's read for the issuing slot, as 128 pieces of 16 bytes (R274). -/
def State.readTable (s : State) (t : Word) : Res (List Byte) :=
  (need (slice t 0 4 == 0) 0x05 t s).bind fun s _ =>
  (s.readLanes ((List.range 128).map fun i => (t + BitVec.ofNat 64 (16 * i), 16)) 16 .normal).bind fun s r =>
    match (List.range r.length).find? fun i => match r[i]? with | some x => x.2 | none => false with
    | some i => .trap s 0x04 (t + BitVec.ofNat 64 (16 * i))
    | none => .ok s (r.flatMap Prod.fst)

/-- Loads the table that SPT of the slot ta names (R32, R274): on a failure the first instruction faults. -/
def State.loadSpt (s : State) (ta : Nat) : State :=
  let sl := s.slot ta
  if sl.spt = 0 then s
  else
    match ({ s with cur := ta } : State).readTable sl.spt with
    | .ok s' bs => { s' with cur := s.cur }.modSlot ta fun sl => { sl with splc := splcOf bs, sptBad := none }
    | .wait _ => s
    | .trap _ code a =>
      let (code, a) := if code = 0x04 ∨ code = 0x05 then (code, a) else (0x06, sl.spt)
      s.modSlot ta fun sl => { sl with sptBad := some (code, a) }

/-- Puts a task into its slot, with its partner when it is lashed, its splice copy and its trace record. -/
def State.loadTask (s : State) (sl : Slot) (ta : Nat) : State :=
  let s := (s.setSlot ta sl).loadSpt ta
  let s := if sl.paired then
      (s.setSlot (partnerOf ta) { st := .running, partner := some ta }) else s
  let s := if sl.paired then { s with agreed := Store.set s.agreed sl.uid (s.slot ta) } else s
  s.note ⟨1, sl.ctx, 0, 0, BitVec.ofNat 64 ta, sl.pc⟩

/-! ## Rooms (R169, R170, R186, R346) -/

/-- Units that lie in a quad and take n bytes at an offset of it. -/
def State.areaUsers (s : State) (quad off len : Nat) : List UnitSt :=
  s.units.filter fun u => !u.saved && u.quads.contains quad && u.qlmLen != 0 &&
    decide (off < u.qlmOff + u.qlmLen) && decide (u.qlmOff < off + len)

/-- A victim: the area of a pre-empted unit that has a save area (R346). -/
def UnitSt.victim (u : UnitSt) : Bool := u.stopped && u.save.isSome

/-- Whether an area is free in every quad; `claim` lets it take a victim's bytes. -/
def State.areaFree (s : State) (quads : List Nat) (off len : Nat) (claim : Bool) : Bool :=
  quads.all fun q => (s.areaUsers q off len).all fun u => claim && u.victim

/-- The offsets at which an area of len bytes would be free. -/
def State.offsets (s : State) (quads : List Nat) (len : Nat) (claim : Bool) : List Nat :=
  if len = 0 then [0]
  else ((List.range ((0xF4000 - len) / 4096 + 1)).map fun i => 4096 * i).filter fun o =>
    decide (o + len ≤ 0xF4000) && s.areaFree quads o len claim

/-- Copies the areas of the victims that an area takes to their save areas (R346). -/
def State.claimArea (s : State) (quads : List Nat) (off len : Nat) : State :=
  let hit (u : UnitSt) : Bool := u.victim && quads.any fun q => (s.areaUsers q off len).contains u
  (s.units.filter hit).foldl (fun s u =>
    let base := match u.save with | some (a, _) => a + 17408 * u.members.length | none => 0
    let s := (List.range u.quads.length).foldl (fun (s : State) i =>
      s.copyBytes (qlmKey (u.quads.getD i 0) u.qlmOff) (base + u.qlmLen * i) u.qlmLen) s
    { s with units := updFirst (fun x => x == u) (fun x => { x with saved := true }) s.units }) s

/-- Whether a slot is reserved for an aged request (R171): a slot of the rectangle's cores (log 21). -/
def State.isReserved (s : State) (ta : Nat) : Bool :=
  match (s.die (taDie ta)).reserved with
  | some r =>
    let vq := taVq ta
    decide (r.origin % 16 ≤ vq % 16) && decide (vq % 16 < r.origin % 16 + r.w) &&
      decide (r.origin / 16 ≤ vq / 16) && decide (vq / 16 < r.origin / 16 + r.h)
  | none => false

/-- A slot that holds nothing. -/
def State.idle (s : State) (ta : Nat) : Bool := (s.slot ta).st == .idle && (s.slot ta).partner.isNone

/-- A quad on which the placers may place: it is in service (R15), and its physical quad is neither fenced nor gated
(R382, R383). -/
def State.quadOpen (s : State) (quad : Nat) : Bool :=
  let p := quad / 512 * 1024 + slice (s.vqEntry (quad / 512) (quad % 512)) 0 10
  s.present (quad / 512) (quad % 512) && !s.ras.quads.contains p && !s.ras.gated.contains p

/-- The free task slots of a core; `own` also takes reserved ones. -/
def State.openSlots (s : State) (core : Nat) (own : Bool) : List Nat :=
  if !s.quadOpen (core / 4) then [] else
  ((List.range 4).map fun i => taOf core i).filter fun ta => s.idle ta && (own || !s.isReserved ta)

/-- The free slot for a loose task on a core: with LASH its partner is free too. -/
def State.looseSlot (s : State) (core : Nat) (lash : Bool) : Option Nat :=
  (s.openSlots core false).find? fun ta =>
    !lash || (s.idle (partnerOf ta) && !s.isReserved (partnerOf ta))

/-- The slots that S tasks a core take in one quad, as (core of the quad, index, thread): none when they do not
fit. -/
def State.quadSlots (s : State) (quad n : Nat) (lash own : Bool) : Option (List (Nat × Nat × Nat)) :=
  (List.range 4).foldl (fun acc c =>
    match acc with
    | none => none
    | some (l : List (Nat × Nat × Nat)) =>
      let used := l.flatMap fun x => if lash then [x.2.2, partnerOf x.2.2] else [x.2.2]
      let ok := (s.openSlots (quad * 4 + c) own).filter fun ta =>
        !used.contains ta && (!lash ||
          ((s.openSlots (taCore (partnerOf ta)) own).contains (partnerOf ta) && !used.contains (partnerOf ta)))
      if ok.length < n then none
      else some (l ++ (List.range n).map fun i => (c, i, ok.getD i 0))) (some [])

/-- The slots of a rectangle with its origin: (column, row, index, thread) (R170). -/
def State.rectSlots (s : State) (die origin : Nat) (g : GangRec) (lash own : Bool) : Option (List (Nat × Nat × Nat × Nat)) :=
  (List.range g.h).foldl (fun acc y => (List.range g.w).foldl (fun acc x =>
    match acc with
    | none => none
    | some (l : List (Nat × Nat × Nat × Nat)) =>
      let vq := origin + 16 * y + x
      if !s.present die vq then none
      else
        match s.quadSlots (die * 512 + vq) g.s lash own with
        | none => none
        | some q => some (l ++ q.map fun (c, i, ta) => (4 * x + c, y, i, ta))) acc) (some [])

/-- The origins of a W by H rectangle inside the clusters, lowest cluster first, then lowest quad (R170). -/
def origins (w h : Nat) : List Nat :=
  (List.range 64).flatMap fun cl => (List.range (3 - h)).flatMap fun r => (List.range (5 - w)).map fun c =>
    (cl / 4 * 2 + r) * 16 + cl % 4 * 4 + c

/-- Barrier slots of a die that its units hold (R170). -/
def State.barsUsed (s : State) (die : Nat) : Nat :=
  ((s.units.filter fun u => u.die == die).map fun u => u.bars.length).foldl (· + ·) 0

/-- Whether the whole cluster is free, for FUSE (R170). -/
def State.clusterFree (s : State) (die origin : Nat) : Bool :=
  (List.range 8).all fun k => (List.range 4).all fun c =>
    (s.openSlots ((die * 512 + clusterQuad (clusterOf origin) k) * 4 + c) true).length == 4

def rectQuads (die origin : Nat) (g : GangRec) : List Nat :=
  (List.range g.h).flatMap fun y => (List.range g.w).map fun x => die * 512 + origin + 16 * y + x

/-- Whether a reservation of the die is for this request. -/
def State.ownsReservation (s : State) (die origin ctx : Nat) (addr : Word) : Bool :=
  match (s.die die).reserved with
  | some r => r.ctx == ctx && r.addr == addr && r.origin == origin
  | none => false

/-- The first place for a gang: origin, slots and offset (R170, R346). -/
def State.findPlace (s : State) (die ctx : Nat) (addr : Word) (g : GangRec) (lash claim : Bool)
    (rp : Bool) : Option (Nat × List (Nat × Nat × Nat × Nat) × Nat) :=
  if 4096 < s.barsUsed die + g.bars then none
  else ((origins g.w g.h).filter fun o => !rp ||
      (match s.replay.place with | some (p, _) => p == o | none => true)).findSome? fun o =>
    if g.fuse && !s.clusterFree die o then none
    else
      match s.rectSlots die o g lash (s.ownsReservation die o ctx addr) with
      | none => none
      | some l =>
        match s.offsets (rectQuads die o g) g.qlm claim with
        | [] => none
        | off :: _ => some (o, l, off)

/-- Empties the L1s of a cluster (R190). -/
def State.emptyCluster (s : State) (die origin : Nat) : State :=
  { s with cores := s.cores.map fun p =>
      if p.1 / 2048 = die ∧ clusterOf (p.1 / 4 % 512) = clusterOf origin then (p.1, { p.2 with l1 := [] }) else p }

/-- Loads a gang into a rectangle: every slot before any issues (R162, R170, R181). Its area keeps the bytes and the poison
that the last owner left: the spec gives it no contents (DESIGN CHOICE, log 1). -/
def State.startGang (s : State) (w : Work) (g : GangRec) (die origin off : Nat) (slots : List (Nat × Nat × Nat × Nat)) : State :=
  let size := g.w * g.h * 4 * g.s
  let lash := g.lash || w.task.lash
  let mk (n : Nat) (x : Nat × Nat × Nat × Nat) : Member :=
    let (tx, y, i, ta) := x
    ⟨(y * g.s + i) * (4 * g.w) + tx, if lash then pairMain ta else ta, s.nextUid + n, false⟩
  let members := (List.range slots.length).map fun n => mk n (slots.getD n (0, 0, 0, 0))
  let memb : BitVec 128 := BitVec.ofNat 128 (2 ^ size - 1)
  let u : UnitSt := { ctx := w.ctx, addr := w.addr, gang := some g, task := w.task, die := die, origin := origin
                      qlmOff := off, qlmLen := g.qlm, members := members
                      bars := List.replicate g.bars { memb := memb }, replay := w.replay }
  let s := s.claimArea u.quads off g.qlm
  let s := { s with units := s.units ++ [u], nextUid := s.nextUid + slots.length }
  let s := if g.fuse then s.emptyCluster die origin else s
  let share := g.qlm / (4 * g.s) / 16 * 16
  (List.range slots.length).foldl (fun s n =>
    let (tx, y, i, _) := slots.getD n (0, 0, 0, 0)
    let m := members.getD n ⟨0, 0, 0, false⟩
    let tc := tcoordOf size m.rank (y * g.s + i) tx
    let top := localAddr (off + (tx % 4 * g.s + i) * share + share)
    s.loadTask (s.taskSlot u m tc top) m.ta) (s.replayPlaced u)

/-- Starts a loose task in a slot with its share (R31, R186), which keeps what its last owner left (DESIGN CHOICE,
log 1). -/
def State.startLoose (s : State) (w : Work) (ta off : Nat) : State :=
  let c := (s.ctx w.ctx).getD { desc := [], descPA := 0 }
  let main := if w.task.lash then pairMain ta else ta
  let m : Member := ⟨0, main, s.nextUid, false⟩
  let u : UnitSt := { ctx := w.ctx, addr := w.addr, task := w.task, die := taDie ta, origin := taVq ta
                      qlmOff := off, qlmLen := c.lqlm, members := [m], replay := w.replay }
  let s := { s with units := s.units ++ [u], nextUid := s.nextUid + 1 }
  let tc := tcoordOf 1 0 w.task.ty w.task.tx
  (s.replayPlaced u).loadTask (s.taskSlot u m tc (localAddr (off + c.lqlm))) main

/-- Takes a record off the queues and starts it on a core, or completes it CANCELLED where its graph is frozen
(R169, R178); none when it cannot start there. -/
def State.startOn (s : State) (core : Nat) (w : Work) : Option State :=
  match s.looseSlot core w.task.lash with
  | none => none
  | some ta =>
    if s.graphFrozen w.ctx w.task.graph then
      some ((((s.unqueue w.ctx w.addr).replayEnd w.replay 2).cancelled w core).act [.done w.ctx w.addr w.task true core])
    else
      let c := (s.ctx w.ctx).getD { desc := [], descPA := 0 }
      match s.offsets [core / 4] c.lqlm false with
      | [] => none
      | os => some ((s.unqueue w.ctx w.addr).startLoose w ta (os.getD (Config.freeShare s.ctr % os.length) 0))

/-- Whether a context's records may start: it is live and not being quiesced (R348). -/
def State.mayStart (s : State) (ctx : Nat) : Bool :=
  match s.ctx ctx with
  | some c => !c.stopped && !c.quiesced
  | none => false

/-- The record that a core would start next (R169). -/
def State.nextWork (s : State) (core : Nat) : Option Work :=
  let c := s.core core
  (c.urgent ++ c.normal ++ (s.die (core / 2048)).overflow).find? fun w => s.mayStart w.ctx

/-! ## The end of a task and of a unit (R113, R176, R178, R181) -/

/-- Every rank that waits is released with a status; a rank that is released already keeps its own (R181). -/
def releaseAll (status : Nat) (l : List (Nat × Option Nat)) : List (Nat × Option Nat) :=
  l.map fun w => (w.1, some (w.2.getD status))

/-- The check of a barrier slot: a phase that completes releases its waiters (R181). -/
def BarSlot.check (b : BarSlot) : BarSlot :=
  if !b.pois && b.arr == b.memb && decide (b.ackx ≤ b.ackn) then
    { b with ackn := b.ackn - b.ackx, ackx := 0, arr := 0, ph := !b.ph, waits := releaseAll 0 b.waits }
  else b

/-- Poisoning a barrier slot: its waiters are released with the cause (R181). -/
def BarSlot.poison (b : BarSlot) (cause : Nat) : BarSlot :=
  { b with pois := true, cause := cause, waits := releaseAll cause b.waits }

/-- A rank leaves every slot of its gang (R181). -/
def BarSlot.leave (rank : Nat) (b : BarSlot) : BarSlot :=
  let one : BitVec 128 := 1#128 <<< rank
  BarSlot.check { b with memb := b.memb &&& ~~~one, arr := b.arr &&& ~~~one, waits := b.waits.filter fun w => w.1 != rank }

def UnitSt.is (ctx : Nat) (addr : Word) (u : UnitSt) : Bool := u.ctx == ctx && u.addr == addr

/-- Changes the running unit of a record. -/
def State.modUnit (s : State) (ctx : Nat) (addr : Word) (uid : Nat) (f : UnitSt → UnitSt) : State :=
  { s with units := updFirst (fun u => u.is ctx addr && u.members.any fun m => m.uid == uid) f s.units }

/-- What a task or activation that is gone leaves in a core: waiting remote writes for it are dropped, its parked stores are
freed (R34, R340). -/
def State.clearCore (s : State) (core uid ctx : Nat) : State :=
  (s.dropMail core uid ctx).modCore core fun c => { c with rpq := c.rpq.filter fun e => e.uid != uid }

/-- The line buffers that were kept for a task are gone (R240). -/
def State.dropBufs (s : State) (uid : Nat) : State :=
  { s with engines := s.engines.map fun (p : Nat × EngSt) =>
    (p.1, { p.2 with buf := match p.2.buf with | some b => if b.uid = uid then none else some b | none => none }) }

/-- A slot is emptied (R34). -/
def State.freeSlot (s : State) (ta : Nat) : State :=
  let sl := s.slot ta
  let s := (s.strandsEnd sl.uid).claimsEnd sl.uid
  let s := s.clearCore (taCore ta) sl.uid sl.ctx
  let s := { s with agreed := s.agreed.filter fun p => p.1 != sl.uid }
  let s := if sl.paired then s.setSlot (partnerOf ta) {} else s
  ((s.dropBufs sl.uid).setSlot ta {}).rxLeft (taCore ta)

/-- A unit whose last task has ended completes: it leaves, and its DONE action follows (R176, R183). -/
def State.finishUnit (s : State) (u : UnitSt) (core : Nat) : State :=
  let bad := u.killed || u.bars.any fun b => b.pois && b.cause == 2
  let s := { s with units := s.units.filter fun x => !(x.is u.ctx u.addr && x.members == u.members) }
  let s := match u.gang with | some g => if g.fuse then s.emptyCluster u.die u.origin else s | none => s
  let s := s.replayEnd u.replay (if bad then 1 else 0)
  s.act [.done u.ctx u.addr u.task bad core]

/-- The fingerprint of a task of the replayed unit joins the pass's (R363). -/
def State.printed (s : State) (sl : Slot) : State :=
  if sl.rp && s.replay.busy then
    { s with replay := { s.replay with prints := s.replay.prints ++ [(sl.rank, sl.branch)] } } else s

/-- A task ends, by END or by a kill (R113, R176, R178): its rank leaves the barrier slots, its slot is freed, and
with the last task the unit completes. A killed task's graph freezes. -/
def State.endTask (s : State) (ta : Nat) (killed : Bool) : State :=
  let sl := s.slot ta
  let s := s.printed sl
  let entry := match s.unitOf ta with | some u => u.task.pc | none => sl.pc
  let s := s.note ⟨2, sl.ctx, if killed then 1 else 0, 0, BitVec.ofNat 64 ta, entry⟩
  let s := s.modUnit sl.ctx sl.unit sl.uid fun u =>
    { u with killed := u.killed || killed, bars := u.bars.map (BarSlot.leave sl.rank)
             members := u.members.map fun m => if m.uid = sl.uid then { m with ended := true } else m }
  let u := s.units.find? fun u => u.is sl.ctx sl.unit && u.members.any fun m => m.uid == sl.uid
  let s := s.freeSlot ta
  match u with
  | some u => if u.members.all fun m => m.ended then s.finishUnit u (taCore ta) else s
  | none => s

/-- Freezes a graph (R178). -/
def State.freeze (s : State) (ctx graph : Nat) : State :=
  s.modCtx ctx fun c => if c.frozen.contains graph then c else { c with frozen := c.frozen ++ [graph] }

/-- Ends a saved task of a stopped unit that is killed (R34, R340, R363, R365). -/
def State.endParked (s : State) (u : UnitSt) (m : Member) : State :=
  let s := s.printed (Store.get {} s.parked m.uid)
  let s := s.note ⟨2, u.ctx, 1, 0, BitVec.ofNat 64 m.ta, u.task.pc⟩
  let s := (s.strandsEnd m.uid).claimsEnd m.uid
  let s := ((s.clearCore (taCore m.ta) m.uid u.ctx).dropBufs m.uid).rxLeft (taCore m.ta)
  let s := { s with parked := s.parked.filter fun p => p.1 != m.uid }
  s.modUnit u.ctx u.addr m.uid fun u =>
    { u with killed := true, members := u.members.map fun x => if x.uid = m.uid then { x with ended := true } else x }

/-- Kills every task of a unit; it completes ERROR (R176, R178). -/
def State.killUnit (s : State) (u : UnitSt) : State :=
  let s := s.freeze u.ctx u.task.graph
  let live := u.members.filter fun m => !m.ended
  if u.stopped then
    let s := live.foldl (fun s m => s.endParked u m) s
    match s.units.find? fun x => x.is u.ctx u.addr && (x.members.map Member.uid) == u.members.map Member.uid with
    | some u => (s.unreserve u.ctx u.addr).finishUnit u (u.die * 2048 + u.origin * 4)
    | none => s
  else live.foldl (fun s m => s.endTask m.ta true) s

end Sys2Proof.Machine
end

