-- ==== Sys2Proof/Machine/Bar.lean ====
section
/-! DEFINITION. Barriers: the BAR instructions, arrivals and acknowledgements (07_tasks.md R180 to R183). -/

namespace Sys2Proof.Machine

/-- The barrier slot of the issuing task's gang (R180). -/
def State.bar (s : State) (n : BitVec 3) : Option BarSlot :=
  match s.unitOf s.cur with
  | some u => match u.gang with
    | some _ => u.bars[n.toNat]?
    | none => none
  | none => none

/-- BARRIER from a loose task or an activation, or beyond BARS (R180). -/
def State.needBar (s : State) (n : BitVec 3) : Res BarSlot :=
  match s.bar n with
  | some b => .ok s b
  | none => .trap s 0x0D (zextW n)

/-- Changes one barrier slot of the gang that a task is of. -/
def State.modBar (s : State) (ctx uid : Nat) (n : Nat) (f : BarSlot → BarSlot) : State :=
  { s with units := updFirst (fun u => u.ctx == ctx && u.members.any fun m => m.uid == uid) (fun u =>
      { u with bars := (List.range u.bars.length).map fun i => if i = n then f (u.bars.getD i {}) else u.bars.getD i {} }) s.units }

def State.modMyBar (s : State) (n : BitVec 3) (f : BarSlot → BarSlot) : State :=
  s.modBar s.me.ctx s.me.uid n.toNat f

/-- An arrival (R181). -/
def BarSlot.arrive (rank : Nat) (phase : Bool) (b : BarSlot) : BarSlot :=
  if b.pois then b
  else if !bit b.memb rank || bit b.arr rank || phase != b.ph then b.poison 1
  else BarSlot.check { b with arr := b.arr ||| (1#128 <<< rank) }

/-- An acknowledgement (R181). -/
def BarSlot.ack (b : BarSlot) : BarSlot :=
  let b := if b.pois then b else if b.ackn = 65535 then b.poison 1 else { b with ackn := b.ackn + 1 }
  b.check

/-- LPH[s] of the issuing task. -/
def State.lph (s : State) (n : BitVec 3) : Bool := bit s.me.lph n.toNat

def State.putLph (s : State) (n : BitVec 3) (v : Bool) : State :=
  s.modMe fun sl => { sl with lph := (sl.lph &&& ~~~(1#8 <<< n.toNat)) ||| (if v then 1#8 <<< n.toNat else 0) }

/-- Sends the task's arrival and flips its local phase (R182). -/
def State.sendArrival (s : State) (n : BitVec 3) : State :=
  let p := s.lph n
  (s.post (.barrierArrival s.me.ctx s.me.uid n.toNat s.me.rank p)).putLph n (!p)

/-- The status with which a rank leaves its wait: the one it was released with, else what the slot shows; none while it
waits on (R181, R182). -/
def BarSlot.status (b : BarSlot) (rank : Nat) (lph : Bool) : Option Nat :=
  match b.waits.find? fun w => w.1 == rank with
  | some (_, some st) => some st
  | _ => if b.pois then some b.cause else if b.ph = lph then some 0 else none

/-- Whether a rank stands among the slot's waiters. -/
def BarSlot.waiting (b : BarSlot) (rank : Nat) : Bool := b.waits.any fun w => w.1 == rank

/-- A rank waits no more. -/
def BarSlot.unwait (rank : Nat) (b : BarSlot) : BarSlot := { b with waits := b.waits.filter fun w => w.1 != rank }

/-- The wait of BARWAIT and BARSYNC (R182): a rank that must wait joins the slot's waiters, which `check` and `poison`
release. -/
def State.barWait (s : State) (d : Reg) (n : BitVec 3) (t : Bool) : Res Unit :=
  (s.needBar n).bind fun s b =>
    let r := s.me.rank
    match b.status r (s.lph n) with
    | none => .wait (if b.waiting r then s else s.modMyBar n fun b => { b with waits := b.waits ++ [(r, none)] })
    | some c =>
      let s := if b.waiting r then s.modMyBar n (BarSlot.unwait r) else s
      if c = 0 then .ok (s.putG d 0) ()
      else
        let s := s.putLph n b.ph
        if t then .trap s 0x0D (zextW n) else .ok (s.putG d (BitVec.ofNat 64 c)) ()

/-- BARINIT (R182). -/
def execBarinit (n : BitVec 3) (a b : Src) (s : State) : Out :=
  issue .s .outer (fun s => (s.examine [a, b]).bind fun s _ => (s.needBar n).bind fun s _ =>
    let all : BitVec 128 := BitVec.ofNat 128 ((s.g a.reg).toNat + (s.g b.reg).toNat * 2 ^ 64)
    let live : BitVec 128 := match s.unitOf s.cur with
      | some u => u.members.foldl (fun w m => if m.ended then w else w ||| (1#128 <<< m.rank)) 0
      | none => 0
    .ok (s.modMyBar n fun b =>
      if b.arr = 0 then { b with memb := all &&& live, pois := false, cause := 0, ackx := 0, ackn := 0 }
      else b.poison 1) ()) s

/-- BARARV (R182). -/
def execBararv (n : BitVec 3) (s : State) : Out :=
  issue .s .outer (fun s => (s.needBar n).bind fun s _ => s.waitRpq.bind fun s _ => s.waitAmo.bind fun s _ =>
    .ok (s.sendArrival n) ()) s

/-- BARWAIT (R182). -/
def execBarwait (d : Reg) (n : BitVec 3) (t : Bool) (s : State) : Out :=
  issue .s .outer (fun s => (s.freeG d).bind fun s _ => s.barWait d n t) s

/-- BARSYNC (R182): one instruction; its arrival is sent once, and its rank waits from then on (R345). -/
def execBarsync (d : Reg) (n : BitVec 3) (t : Bool) (s : State) : Out :=
  issue .s .outer (fun s => (s.freeG d).bind fun s _ =>
    if s.me.barSent then s.barWait d n t
    else (s.needBar n).bind fun s _ => s.waitRpq.bind fun s _ => s.waitAmo.bind fun s _ =>
      let r := s.me.rank
      .wait (((s.sendArrival n).modMyBar n fun b => { b.unwait r with waits := (b.unwait r).waits ++ [(r, none)] }).modMe fun sl =>
        { sl with barSent := true })) s

/-- BARACK (R182). -/
def execBarack (n : BitVec 3) (a : Src) (s : State) : Out :=
  issue .s .outer (fun s => (s.examine [a]).bind fun s _ => (s.needBar n).bind fun s _ =>
    let k := slice (s.g a.reg) 0 16
    .ok (s.modMyBar n fun b => if 65535 < b.ackx + k then b.poison 1 else { b with ackx := b.ackx + k }) ()) s

/-- BARPOIS (R182). -/
def execBarpois (n : BitVec 3) (s : State) : Out :=
  issue .s .outer (fun s => (s.needBar n).bind fun s _ => .ok (s.modMyBar n fun b => b.poison 3) ()) s

/-- The number of ranks in a bitmap. -/
def countBits (w : BitVec 128) : Nat := ((List.range 128).filter fun i => bit w i).length

/-- BARSTAT (R182). -/
def execBarstat (d : Reg) (n : BitVec 3) (s : State) : Out :=
  issue .s .outer (fun s => (s.freeG d).bind fun s _ => (s.needBar n).bind fun s b =>
    let v := b.ackn * 2 ^ 48 + b.ackx * 2 ^ 32 + countBits b.arr * 2 ^ 24 + countBits b.memb * 2 ^ 16
      + b.cause * 2 ^ 4 + b.pois.toNat * 8 + (s.lph n).toNat * 2 + b.ph.toNat
    let s := if b.pois then s.putLph n b.ph else s
    .ok (s.putG d (BitVec.ofNat 64 v)) ()) s

/-- An arrival reaches its slot (R181). -/
def execBarrierArrival (ctx uid n rank : Nat) (phase : Bool) (s : State) : Out :=
  .next (s.modBar ctx uid n (BarSlot.arrive rank phase))

/-- An engine's acknowledgement reaches its slot (R181, R242). -/
def execBarrierAck (ctx uid n : Nat) (s : State) : Out :=
  .next (s.modBar ctx uid n BarSlot.ack)

end Sys2Proof.Machine
end

