-- ==== Sys2Proof/Machine/Crc.lean ====
section
/-! DEFINITION. The check codes: CRC-32C (R377) and CRC-64 (R284). -/

namespace Sys2Proof.Machine

/-- n bits of a reflected CRC of the given polynomial. -/
def crcBits (poly : Nat) : Nat → Nat → Nat
  | 0, c => c
  | n + 1, c => crcBits poly n (if c % 2 = 1 then (c / 2) ^^^ poly else c / 2)

/-- A reflected CRC register fed with bytes. -/
def crcFeed (poly : Nat) (c : Nat) (bs : List Byte) : Nat := bs.foldl (fun c b => crcBits poly 8 (c ^^^ b.toNat)) c

/-- CRC-32C continued from a finished value: reflected, initial value and final XOR all ones (R377). -/
def crc32c (prev : BitVec 32) (bs : List Byte) : BitVec 32 :=
  ~~~ BitVec.ofNat 32 (crcFeed 0x82F63B78 (~~~ prev).toNat bs)

/-- n bits of an unreflected CRC-64. -/
def crc64Bits : Nat → Nat → Nat
  | 0, c => c
  | n + 1, c => crc64Bits n (if c / 2 ^ 63 = 1 then (c * 2 % 2 ^ 64) ^^^ 0x42F0E1EBA9EA3693 else c * 2)

/-- CRC-64 continued from a value: ECMA-182, most significant bit first, initial value 0, no final XOR (R284). -/
def crc64 (c : Nat) (bs : List Byte) : Nat := bs.foldl (fun c b => crc64Bits 8 (c ^^^ (b.toNat * 2 ^ 56))) c

end Sys2Proof.Machine
end

