-- ==== Sys2Proof/Machine/Branch.lean ====
section
/-! DEFINITION. Branches, calls and jumps (04_scalar.md R109 to R112). -/

namespace Sys2Proof.Machine

/-- A taken branch is counted and enters the fingerprint of a replayed unit (R353, R363). -/
def State.taken (s : State) (t : Word) : State :=
  (s.countMe 6 1).modMe fun sl => { sl with branch := crc32c sl.branch (toBytes 8 t.toNat) }

/-- A target in words from the instruction (R42). -/
def State.target4 {n : Nat} (s : State) (off : BitVec n) : Word := s.me.pc + sextW off * 4

/-- A conditional branch (R109). -/
def branchIf (f : Word → Word → Bool) (a b : Src) (t : State → Word) (s : State) : Out :=
  issueTo .s .inner (fun s => (s.examine [a, b]).bind fun s _ =>
    let s := s.countMe 7 1
    if f (s.g a.reg) (s.g b.reg) then .ok (s.taken (t s)) (t s) else .ok s s.nextPc) s

def condBeq (x y : Word) : Bool := x == y
def condBne (x y : Word) : Bool := x != y
def condBlt (x y : Word) : Bool := decide (x.toInt < y.toInt)
def condBltu (x y : Word) : Bool := decide (x.toNat < y.toNat)
def condBge (x y : Word) : Bool := decide (y.toInt ≤ x.toInt)
def condBgeu (x y : Word) : Bool := decide (y.toNat ≤ x.toNat)

def execBeq (a b : Reg) (off : BitVec 11) (s : State) : Out := branchIf condBeq (blk a) (blk b) (fun s => s.target4 off) s
def execBne (a b : Reg) (off : BitVec 11) (s : State) : Out := branchIf condBne (blk a) (blk b) (fun s => s.target4 off) s
def execBlt (a b : Reg) (off : BitVec 11) (s : State) : Out := branchIf condBlt (blk a) (blk b) (fun s => s.target4 off) s
def execBltu (a b : Reg) (off : BitVec 11) (s : State) : Out := branchIf condBltu (blk a) (blk b) (fun s => s.target4 off) s
def execBge (a b : Reg) (off : BitVec 11) (s : State) : Out := branchIf condBge (blk a) (blk b) (fun s => s.target4 off) s
def execBgeu (a b : Reg) (off : BitVec 11) (s : State) : Out := branchIf condBgeu (blk a) (blk b) (fun s => s.target4 off) s

def execBeqX (a b : Src) (off : W32) (s : State) : Out := branchIf condBeq a b (fun s => s.me.pc + sextW off) s
def execBneX (a b : Src) (off : W32) (s : State) : Out := branchIf condBne a b (fun s => s.me.pc + sextW off) s
def execBltX (a b : Src) (off : W32) (s : State) : Out := branchIf condBlt a b (fun s => s.me.pc + sextW off) s
def execBltuX (a b : Src) (off : W32) (s : State) : Out := branchIf condBltu a b (fun s => s.me.pc + sextW off) s
def execBgeX (a b : Src) (off : W32) (s : State) : Out := branchIf condBge a b (fun s => s.me.pc + sextW off) s
def execBgeuX (a b : Src) (off : W32) (s : State) : Out := branchIf condBgeu a b (fun s => s.me.pc + sextW off) s

/-- A jump to a target (R110). -/
def jumpTo (t : State → Word) (s : State) : Out := issueTo .s .inner (fun s => .ok (s.taken (t s)) (t s)) s

/-- A call links g1 to the next instruction as fetched, then moves (R110). -/
def callTo (t : State → Word) (s : State) : Out :=
  issueTo .s .inner (fun s => (s.freeG 1).bind fun s _ => .ok ((s.putG 1 s.nextPc).taken (t s)) (t s)) s

def execBr (off : BitVec 23) (s : State) : Out := jumpTo (fun s => s.target4 off) s
def execCall (off : BitVec 23) (s : State) : Out := callTo (fun s => s.target4 off) s
def execBX (off : W32) (s : State) : Out := jumpTo (fun s => s.me.pc + sextW off) s
def execCallX (off : W32) (s : State) : Out := callTo (fun s => s.me.pc + sextW off) s

/-- JR (R111): the target is read before the link is written. -/
def execJr (d a : Reg) (s : State) : Out :=
  issueTo .s .inner (fun s => (s.examine [blk a]).bind fun s _ => (s.freeG d).bind fun s _ =>
    let t := s.g a
    .ok ((s.putG d (s.me.pc + 4)).taken t) t) s

/-- DBNZ (R112). -/
def execDbnz (a : Reg) (off : BitVec 11) (s : State) : Out :=
  issueTo .s .inner (fun s => (s.examine [blk a]).bind fun s _ => (s.freeG a).bind fun s _ =>
    let v := s.g a - 1
    let s := (s.putG a v).countMe 7 1
    if v ≠ 0 then .ok (s.taken (s.target4 off)) (s.target4 off) else .ok s s.nextPc) s

end Sys2Proof.Machine
end

