-- ==== Sys2Proof/Machine/Copy.lean ====
section
/-! DEFINITION. Copy engines: the COPY instructions, the execution of a copy and the completion of any engine
operation (10_copies.md R227 to R242). -/

namespace Sys2Proof.Machine

def State.eng (s : State) (e : Nat) : EngSt := Store.get {} s.engines e
def State.modEng (s : State) (e : Nat) (f : EngSt → EngSt) : State :=
  { s with engines := Store.set s.engines e (f (s.eng e)) }

/-- The engine of a transfer id (R232): 0 to 127 copy, 128 to 143 collective. -/
def engOfId (id : W32) : Nat := if bit id 31 then 128 + slice id 24 7 else slice id 24 7

/-- The sequence number after one: it wraps and skips 0 (R232). -/
def nextSeq (n : Nat) : Nat := if (n + 1) % 2 ^ 24 = 0 then 1 else (n + 1) % 2 ^ 24

/-- The copy engine that serves a slot (R232). -/
def copyEngine (ta : Nat) : Nat := taDie ta * 32 + clusterOf (taVq ta) / 2

def Slot.shadowAt (sl : Slot) (i : Nat) : Word := sl.shadow.toList.getD i 0

/-! ## The snapshot -/

/-- A field of CCTL or a shape register of a snapshot. -/
def EngOp.sh (o : EngOp) (i : Nat) : Word := o.shadow.getD i 0

def EngOp.bpr (o : EngOp) : Nat := slice (o.sh 2) 0 16
def EngOp.rows (o : EngOp) : Nat := slice (o.sh 2) 16 16
def EngOp.planes (o : EngOp) : Nat := slice (o.sh 2) 32 16
def EngOp.lbm (o : EngOp) : Nat := slice (o.sh 5) 16 2
def EngOp.ovl (o : EngOp) : Nat := slice (o.sh 5) 18 6
def EngOp.mcast (o : EngOp) : Nat := slice (o.sh 5) 8 8

def hintOf (n : Nat) : Hint := match n with | 0 => .normal | 1 => .ef | 2 => .kp | _ => .na

/-- A malformed copy (R230); `bars` is the gang's BARS, none outside a gang. -/
def EngOp.malformed (o : EngOp) (bars : Option Nat) : Bool :=
  slice (o.sh 2) 48 16 != 0 || slice (o.sh 5) 36 28 != 0 || o.planes == 0 || o.rows == 0 || o.bpr == 0 ||
    o.sink == 3 || o.lbm == 3 || (o.sink == 1 && slice (o.sh 6) 56 8 != 0) ||
    decide (7 < slice (o.sh 5) 24 6) ||
    (bit (o.sh 5) 30 && (match bars with | none => true | some n => decide (n ≤ slice (o.sh 5) 24 6))) ||
    (o.lbm != 0 && (decide (1 < o.planes) || decide (o.rows < o.ovl) || decide (65536 < o.ovl * o.bpr))) ||
    (o.mcast != 0 && (qlmWindow (taQuad o.req.ta) (o.sh 1)).isNone)

/-- The address of row r of plane p (R228). -/
def rowAddr (base strides : Word) (p r : Nat) : Word :=
  base + BitVec.ofNat 64 p * sextLow (strides >>> 32) 32 + BitVec.ofNat 64 r * sextLow strides 32

/-! ## COPY instructions (R231, R233, R235, R236) -/

/-- CPSET (R233). -/
def execCpset (i : BitVec 3) (a : Src) (s : State) : Out :=
  issue .v .inner (fun s => (s.examine [a]).bind fun s _ =>
    if h : i.toNat < 7 then .ok (s.modMe fun sl => { sl with shadow := sl.shadow.set i.toNat (s.g a.reg) h }) ()
    else .trap s 0x01 s.me.pc) s

/-- The bytes of QLM that the tasks of a unit reach: its quads, offset and length (R186). -/
def UnitSt.share (u : UnitSt) : List Nat × Nat × Nat := (u.quads, u.qlmOff, u.qlmLen)

/-- The live operation of an id, when it is the issuing slot's (R232, R235). -/
def State.myOp (s : State) (v : Word) : Option EngOp :=
  let id : W32 := v.setWidth 32
  (s.eng (engOfId id)).ops.find? fun o => o.id == id && o.req.uid == s.me.uid

/-- CPSTAT (R235). -/
def execCpstat (d : Reg) (a : Src) (s : State) : Out :=
  issue .v .inner (fun s => (s.examine [a]).bind fun s _ => (s.freeG d).bind fun s _ =>
    let v := match s.myOp (s.g a.reg) with
      | some o => Nat.min o.written 0xFFFFFFFF * 2 ^ 32 + o.st
      | none => 0
    .ok (s.putG d (BitVec.ofNat 64 v)) ()) s

/-- Changes the operation of an id. -/
def State.modOp (s : State) (id : W32) (f : EngOp → EngOp) : State :=
  s.modEng (engOfId id) fun x => { x with ops := x.ops.map fun o => if o.id = id then f o else o }

/-- Aborts an operation that has not completed: its status is set, which names no address, and it completes (R234, R236,
R245). -/
def State.abortOp (s : State) (o : EngOp) (status : Nat) : State :=
  let s' := s.modOp o.id fun o => { o with st := 3, status := status, fail := 0 }
  if o.st = 1 then s'.post (.copyCompletion o.id) else s'

/-- CPABORT (R236): a committed collective has not reached its completion point and is past stopping: it answers 1 and
goes on (R245; log 15). The other participants of an aborted collective complete ABORTED-PEER. -/
def execCpabort (d : Reg) (a : Src) (s : State) : Out :=
  issue .v .inner (fun s => (s.examine [a]).bind fun s _ => (s.freeG d).bind fun s _ =>
    match s.myOp (s.g a.reg) with
    | none => .ok (s.putG d 0) ()
    | some o =>
      match o.coll with
      | none => .ok ((if o.st = 3 then s else s.abortOp o 5).putG d 1) ()
      | some c =>
        .ok ((if o.st = 1 then (s.abortOp o 5).post (.collectiveAbort o.ctx c.grp c.op) else s).putG d 1) ()) s

/-! ## The engine's accesses (R234) -/

/-- Where the issuing task is now: its unit's member, else its slot as it was. -/
def State.opThread (s : State) (o : EngOp) : Nat :=
  match s.units.find? fun u => u.members.any fun m => m.uid == o.req.uid with
  | some u => ((u.members.find? fun m => m.uid == o.req.uid).map Member.ta).getD o.req.ta
  | none => o.req.ta

/-- Whether n bytes lie in an area. -/
def inArea (a : List Nat × Nat × Nat) (quad off n : Nat) : Bool :=
  a.1.contains quad && decide (a.2.1 ≤ off) && decide (off + n ≤ a.2.1 + a.2.2)

/-- The unit of the task that issued an operation, while it stands. -/
def State.opUnit (s : State) (o : EngOp) : Option UnitSt := s.units.find? fun u => u.members.any fun m => m.uid == o.req.uid

/-- The share check as the issuing task would meet it (R186, R234). Of a task whose unit has left, the bytes that it
reached count that no other unit holds (R238; DESIGN CHOICE, log 14). -/
def State.opShare (s : State) (o : EngOp) (quad off n : Nat) (write : Bool) : Bool :=
  s.present (quad / 512) (quad % 512) &&
    (if taHnd o.req.ta then
      quad == taQuad o.req.ta &&
        ((s.units.any fun u => u.ctx == o.ctx && !u.saved && inArea u.share quad off n) ||
          (let lo := rxOff (taCore o.req.ta) + (if write then 0x800 else 0)
           decide (lo ≤ off) && decide (off + n ≤ rxOff (taCore o.req.ta) + 0x1000)))
    else
      match s.opUnit o with
      | some u => inArea u.share quad off n
      | none => inArea o.share quad off n && s.units.all fun u => u.saved || !inArea u.share quad off 1)

/-- The first of n bytes that fails the share check; a run may lie in the areas of several units (R186, R234). -/
def State.opDenied (s : State) (o : EngOp) (quad off n : Nat) (write : Bool) : Option Nat :=
  if s.opShare o quad off n write && (taHnd o.req.ta || (s.opUnit o).isSome || n ≤ 1) then none
  else (List.range n).find? fun i => !s.opShare o quad (off + i) 1 write

/-- Where a byte of the issuing task's QLM is: in its save area while its unit is saved (R295, R346). -/
def State.opKey (s : State) (o : EngOp) (quad off : Nat) : Nat :=
  match s.opUnit o with
  | some u =>
    match u.saved, u.save with
    | true, some (a, _) =>
      a + 17408 * u.members.length + u.qlmLen * (u.quads.findIdx fun q => q == quad) + (off - u.qlmOff)
    | _, _ => qlmKey quad off
  | none => qlmKey quad off

/-- The place of a run of QLM of an operation, or its first byte that fails. -/
def State.opQlm (s : State) (o : EngOp) (quad off n : Nat) (va : Word) (write : Bool) : Except (Nat × Word) Place :=
  match s.opDenied o quad off n write with
  | some i => .error (3, va + BitVec.ofNat 64 i)
  | none => .ok ⟨s.opKey o quad off, 0, false, none, 0, 0⟩

/-- A run of bytes that lies within one page: its place, or the status of the failed check and the first byte that fails
it (R234). -/
def State.opPlace (s : State) (o : EngOp) (va : Word) (n : Nat) (write : Bool) : State × Except (Nat × Word) Place :=
  if slice va 56 8 ≠ 0 then (s, .error (2, va))
  else if inQlmBlock va then
    match qlmWindow (taQuad (s.opThread o)) va with
    | some (q, off) => (s, if off + n ≤ 2 ^ 20 then s.opQlm o q off n va write else .error (3, va))
    | none => (s, .error (3, va))
  else
    match s.ctx o.ctx with
    | none => (s, .error (2, va))
    | some c =>
      match s.lookOn c (taDie o.req.ta) none va (if write then .w else .r) with
      | (s, none) => (s, .error (2, va))
      | (s, some p) => (s, if write && p.view.isSome then .error (3, va) else .ok p)

/-- The parts of a run of bytes, cut where pages end. -/
def cutPages : Nat → Word → Nat → List (Word × Nat)
  | 0, _, _ => []
  | f + 1, va, n =>
    let room := 65536 - va.toNat % 65536
    if n ≤ room then [(va, n)] else (va, room) :: cutPages f (va + BitVec.ofNat 64 room) (n - room)

def pageParts (va : Word) (n : Nat) : List (Word × Nat) := cutPages (n / 65536 + 2) va n

/-- Finds the places of runs of bytes, in order, or the first that fails. -/
def State.opPlaces (s : State) (o : EngOp) (write : Bool) : List (Word × Nat) → State × Except (Nat × Word) (List (Place × Nat))
  | [] => (s, .ok [])
  | (va, n) :: rest =>
    match s.opPlace o va n write with
    | (s, .error x) => (s, .error x)
    | (s, .ok p) =>
      match s.opPlaces o write rest with
      | (s, .ok l) => (s, .ok ((p, n) :: l))
      | (s, .error x) => (s, .error x)

/-- An operation writes through the entries of its destination (R322). -/
def State.opMark (s : State) (o : EngOp) (ps : List (Word × Nat)) : State :=
  match s.ctx o.ctx with
  | some c => s.markAllOn c (taDie o.req.ta) ps
  | none => s

/-- The lookups of a run of an engine, and what a view's lines hold (R197, R203); `cnt` tells whether they count. -/
def State.opLookups (s : State) (p : Place) (n : Nat) (h : Hint) (cnt : Bool := true) : State × List (List Byte) :=
  if p.dev then
    (List.range ((p.pa + n - 1) / 128 - p.pa / 128 + 1)).foldl (fun (acc : State × List (List Byte)) i =>
      let (s, l) := acc.1.lookHome none (p.pa / 128 + i) h cnt
      (s, acc.2 ++ [l])) (s, [])
  else (s, [])

/-- The bytes of a run with their poison (R376); a view gives what its lines hold, a lost device poison. -/
def State.opRead (s : State) (p : Place) (n : Nat) (h : Hint) (cnt : Bool := true) : State × List (Byte × Bool) :=
  let (s, lines) := s.opLookups p n h cnt
  if s.lostAt p then (s, List.replicate n (0, true))
  else
    match p.view with
    | some f =>
      let bs := lines.flatten.drop (p.pa % 128)
      (s, (List.range n).map fun i => if (s.fmtOfLine f ((p.pa + i) / 128)).en then (bs.getD i 0, false) else (0, true))
    | none => (s, (List.range n).map fun i => (Memory.get s.mem (p.key + i), s.gran (p.key + i)))

def State.opReadAll (s : State) (h : Hint) (ps : List (Place × Nat)) (cnt : Bool := true) : State × List (Byte × Bool) :=
  match ps with
  | [] => (s, [])
  | (p, n) :: rest =>
    let (s, b) := s.opRead p n h cnt
    let (s, l) := s.opReadAll h rest cnt
    (s, b ++ l)

/-- Lays bytes out over destination places; adjoining runs are joined. -/
def planRuns : List (Place × Nat) → List (Byte × Bool) → List (Nat × List (Byte × Bool)) → List (Nat × List (Byte × Bool))
  | [], _, acc => acc
  | (p, n) :: rest, bs, acc =>
    let piece := bs.take n
    let acc := match acc.getLast? with
      | some (k, l) => if k + l.length = p.key then acc.dropLast ++ [(k, l ++ piece)] else acc ++ [(p.key, piece)]
      | none => [(p.key, piece)]
    planRuns rest (bs.drop n) acc

/-- Lays a run over memory: bytes that an operation has shown already are not written again, so that a store made since
then stands (R208, R214); full granules are cleared, and the poison that its bytes carry set (R204, R376). -/
def State.layRun (s : State) (shown : List Nat) (k : Nat) (bs : List (Byte × Bool)) : State :=
  let s := if shown.isEmpty then s.putBytes k (bs.map Prod.fst)
    else
      { (List.range bs.length).foldl (fun (s : State) i =>
          if shown.contains (k + i) then s else s.setMem (Memory.set s.mem (k + i) (bs.getD i (0, false)).1)) s with
        poison := clearFull s.poison k bs.length }
  (List.range bs.length).foldl (fun (s : State) i => if (bs.getD i (0, false)).2 then s.poisonAt (k + i) else s) s

/-- Writes a run at the completion point (R213). A run of a lost device is discarded (R329). -/
def State.writeRun (s : State) (o : EngOp) (run : Nat × List (Byte × Bool)) : State :=
  let (k, bs) := run
  if 3 * 2 ^ 64 ≤ k ∧ s.host.lost.contains (k / 2 ^ 64 - 3) then s
  else
    let s := (List.range ((k + bs.length - 1) / 65536 - k / 65536 + 1)).foldl (fun s i =>
      s.capture o.rp ((k / 65536 + i) * 65536)) s
    let s := s.layRun o.shown k bs
    if k < 2 ^ 64 then
      (List.range ((k + bs.length - 1) / 128 - k / 128 + 1)).foldl (fun s i => s.dropL1 (k / 128 + i) none) s
    else s

/-- Writes the bytes of a run that are new before the completion point, or after an abort: any of them, each with the
poison it carries (R213, R236; log 14). It answers their storage keys. -/
def State.writePartial (s : State) (o : EngOp) (run : Nat × List (Byte × Bool)) : State × List Nat :=
  let (k, bs) := run
  if 3 * 2 ^ 64 ≤ k ∧ s.host.lost.contains (k / 2 ^ 64 - 3) then (s, [])
  else
    (List.range bs.length).foldl (fun (acc : State × List Nat) i =>
      if Config.freePartial s.ctr (k + i) && !o.shown.contains (k + i) then
        let t := acc.1.capture o.rp (k + i)
        let t := t.setMem (Memory.set t.mem (k + i) (bs.getD i (0, false)).1)
        (if (bs.getD i (0, false)).2 then t.poisonAt (k + i) else t, (k + i) :: acc.2)
      else acc) (s, [])

/-! ## The execution of a copy (R234, R240, R241) -/

/-- The rows of a copy, as (plane, row). -/
def EngOp.grid (o : EngOp) : List (Nat × Nat) :=
  (List.range o.planes).flatMap fun p => (List.range o.rows).map fun r => (p, r)

/-- Row r of a reusing copy from the line buffer (R240). -/
def reuseRow (o : EngOp) (b : LineBuf) (r : Nat) : Option (List (Byte × Bool)) :=
  (b.rows.find? fun x => x.1 == rowAddr (o.sh 0) (o.sh 3) 0 r).map Prod.snd

/-- The line buffer when it serves the copy: same task, same shape, and every overlap row kept. -/
def reusable (o : EngOp) (b : Option LineBuf) : Option LineBuf :=
  match b with
  | some b =>
    if o.lbm = 2 ∧ b.uid = o.req.uid ∧ b.bpr = o.bpr ∧ b.rstr = slice (o.sh 3) 0 32 ∧
        (List.range o.ovl).all (fun r => (reuseRow o b r).isSome) then some b else none
  | none => none

/-- Reads every row; the first OVL come from a line buffer that serves the copy. -/
def State.readRows (s : State) (o : EngOp) (buf : Option LineBuf) (h : Hint) :
    List ((Nat × Nat) × List (Place × Nat)) → State × List (List (Byte × Bool))
  | [] => (s, [])
  | ((_, r), pl) :: rest =>
    let (s, row) := match buf with
      | some b => if r < o.ovl then (s, (reuseRow o b r).getD []) else s.opReadAll h pl
      | none => s.opReadAll h pl
    let (s, l) := s.readRows o buf h rest
    (s, row :: l)

/-- Checks rows of addresses: the places of each, or the first that fails. -/
def State.rowPlaces (s : State) (o : EngOp) (write : Bool) : List Word → State × Except (Nat × Word) (List (List (Place × Nat)))
  | [] => (s, .ok [])
  | va :: rest =>
    match s.opPlaces o write (pageParts va o.bpr) with
    | (s, .error x) => (s, .error x)
    | (s, .ok p) =>
      match s.rowPlaces o write rest with
      | (s, .ok l) => (s, .ok (p :: l))
      | (s, .error x) => (s, .error x)

/-- The places of a multicast row in one cluster quad (R241). -/
def State.castPlace (s : State) (o : EngOp) (k : Nat) (va : Word) : Except (Nat × Word) (List (Place × Nat)) :=
  let q := taQuad (s.opThread o)
  match qlmWindow q (o.sh 1) with
  | none => .error (3, va)
  | some (_, off) =>
    let a := (va - o.sh 1 + BitVec.ofNat 64 off).toNat
    let quad := q / 512 * 512 + clusterQuad (clusterOf (q % 512)) k
    if a + o.bpr ≤ 2 ^ 20 then (s.opQlm o quad a o.bpr va true).map fun p => [(p, o.bpr)] else .error (3, va)

/-- The destination places of every row, for a single destination or for each masked quad. -/
def State.destPlaces (s : State) (o : EngOp) (vas : List Word) : State × Except (Nat × Word) (List (List (List (Place × Nat)))) :=
  if o.mcast = 0 then
    match s.rowPlaces o true vas with
    | (s, .ok l) => (s, .ok [l])
    | (s, .error x) => (s, .error x)
  else
    let ks := (List.range 8).filter fun k => o.mcast / 2 ^ k % 2 == 1
    (s, ks.mapM fun k => vas.mapM fun va => s.castPlace o k va)

/-- A copy checks, reads and plans its writes; some destination bytes may be new at once (R213; log 14). -/
def State.runCopy (s : State) (e : Nat) (o : EngOp) : State :=
  let fail (s : State) (x : Nat × Word) : State :=
    (s.modOp o.id fun o => { o with st := 2, status := x.1, fail := x.2 }).post (.copyCompletion o.id)
  let src := o.grid.map fun (p, r) => rowAddr (o.sh 0) (o.sh 3) p r
  let dst := o.grid.map fun (p, r) => rowAddr (o.sh 1) (o.sh 4) p r
  match s.rowPlaces o false src with
  | (s, .error x) => fail s x
  | (s, .ok sp) =>
    match s.destPlaces o dst with
    | (s, .error x) => fail s x
    | (s, .ok dp) =>
      let buf := reusable o (s.eng e).buf
      let (s, rows) := s.readRows o buf (hintOf (slice (o.sh 5) 32 2)) (o.grid.zip sp)
      let bytes := rows.flatten
      let plan := dp.flatMap fun quad => planRuns quad.flatten bytes []
      let s := if o.mcast = 0 then s.opMark o (dst.flatMap fun va => pageParts va o.bpr) else s
      let s := dp.flatten.flatten.foldl (fun s x => (s.opLookups x.1 x.2 (hintOf (slice (o.sh 5) 34 2))).1) s
      let kept := ((src.zip rows).drop (o.rows - o.ovl))
      let s := if o.lbm = 0 then s
        else s.modEng e fun x => { x with buf := some ⟨o.req.uid, o.bpr, slice (o.sh 3) 0 32, kept⟩ }
      let (s, ks) := plan.foldl (fun (acc : State × List Nat) run =>
        let (s, k) := acc.1.writePartial o run
        (s, k ++ acc.2)) (s, [])
      (s.modOp o.id fun o => { o with st := 2, plan := plan, pois := bytes.any Prod.snd, written := ks.length, shown := ks
                                      acks := if o.ack.isSome then dp.length else 0 }).post (.copyCompletion o.id)

/-- An engine takes the next copy from its inbox (R234). -/
def execCopyExecute (e : Nat) (s : State) : Out :=
  .next (match (s.eng e).ops.find? fun o => o.st == 1 && o.coll.isNone with
    | some o => s.runCopy e o
    | none => s)

/-! ## Completion (R237, R238, R242) -/

/-- An operation acts through its sink (R238). -/
def State.sinkOf (s : State) (o : EngOp) : State :=
  match o.sink with
  | 0 =>
    match s.task? o.req with
    | some _ => s.modTask o.req fun sl => sl.deliverTag (BitVec.ofNat 6 o.tag) o.status o.pois o.nv o.sat o.nx
    | none => s.drop o.ctx
  | 1 => s.decrement o.ctx o.cdep 1 (if o.status = 0 then none else some o.graph.toNat) (taCore o.req.ta)
  | _ => s

/-- The completion of an operation: its writes, its acknowledgements or its poison of the slot, its sink, its
trap and its error record (R234, R236, R238, R242). -/
def State.complete (s : State) (o : EngOp) : State :=
  let s := if o.status = 0 then o.plan.foldl (fun s run => s.writeRun o run) s
    else if o.st = 3 then o.plan.foldl (fun s run => (s.writePartial o run).1) s
    else s
  let s := s.modEng (engOfId o.id) fun x => { x with ops := x.ops.filter fun y => y.id != o.id }
  let s := match o.ack with
    | some k =>
      if o.status = 0 then (List.range o.acks).foldl (fun (s : State) _ => s.post (.barrierAck o.ctx o.req.uid k)) s
      else s.modBar o.ctx o.req.uid k fun b => b.poison 2
    | none => s
  let s := s.modTask o.req fun sl => { sl with copn := sl.copn - 1 }
  let s := s.sinkOf o
  if o.status = 0 then s
  else
    let s := if o.trap then s.modTask o.req fun sl => { sl with copTrap := sl.copTrap ++ [o.id] } else s
    s.report ⟨1, 8, 10, engOfId o.id % 128, taDie o.req.ta, taVq o.req.ta, o.fail,
      BitVec.ofNat 64 (o.id.toNat * 2 ^ 32 + o.req.ta), none, 0⟩

/-- An operation reaches its completion point (R238). -/
def execCopyCompletion (id : W32) (s : State) : Out :=
  .next (match (s.eng (engOfId id)).ops.find? fun o => o.id == id && decide (2 ≤ o.st) with
    | some o => s.complete o
    | none => s)

/-- A failed copy with TRAP raises COPY at the slot's next boundary, or out of a blocked wait (R238). -/
def execCopyTrap (ta : Nat) (s : State) : Out :=
  .next (match (s.slot ta).copTrap with
    | id :: rest =>
      if (s.slot ta).st = .running then
        (s.modSlot ta fun sl => { sl with copTrap := rest }).raise ta 0x11 (id.setWidth 64)
      else s
    | [] => s)

/-- The operation that CPGO launches (R229, R233). -/
def State.newCopy (s : State) : EngOp :=
  let sl := s.me
  let ctl := sl.shadowAt 5
  let e := copyEngine s.cur
  let o : EngOp := { id := BitVec.ofNat 32 (e * 2 ^ 24 + (s.eng e).seq), req := s.meT, ctx := sl.ctx, graph := sl.graph.setWidth 32
                     unit := sl.unit, taskid := sl.taskid, shadow := sl.shadow.toList, sink := slice ctl 0 2
                     tag := slice ctl 2 6, cdep := sl.shadowAt 6, trap := bit ctl 31
                     ack := if bit ctl 30 then some (slice ctl 24 6) else none, rp := sl.rp
                     share := ((s.unitOf s.cur).map UnitSt.share).getD ([], 0, 0) }
  if o.malformed (match s.unitOf s.cur with | some u => u.gang.map fun _ => u.bars.length | none => none) then
    { o with st := 2, status := 1 } else o

/-- CPGO (R233). A malformed copy completes at once (R230). -/
def execCpgo (d : Reg) (s : State) : Out :=
  issue .v .outer (fun s => (s.freeG d).bind fun s _ => s.waitRpq.bind fun s _ => s.waitAmo.bind fun s _ =>
    let e := copyEngine s.cur
    if 64 ≤ ((s.eng e).ops.filter fun o => o.st == 1).length then .wait s
    else
      let o := s.newCopy
      let s := s.modEng e fun x => { x with seq := nextSeq x.seq, ops := x.ops ++ [o] }
      let s := (s.modMe fun sl => { sl with copn := sl.copn + 1 }).countMe 22 1
      let s := if o.st = 2 then s.complete o else s.post (.copyExecute e)
      .ok (s.putG d (o.id.setWidth 64)) ()) s

end Sys2Proof.Machine
end

