-- ==== Sys2Proof/Machine/Task.lean ====
section
/-! DEFINITION. The TASK instructions and END, and the scheduler's events: starts, steals, placement, reservation
and deferred pushes (07_tasks.md R163 to R179; 04_scalar.md R113). -/

namespace Sys2Proof.Machine

/-- What every TASK function does first: its sources, its destination, the wait for RPQ = 0 and the release
(R164). -/
def taskFirst (srcs : List Src) (ds : List Reg) (s : State) : Res Unit :=
  (s.examine srcs).bind fun s _ =>
  (ds.foldl (fun (r : Res Unit) d => r.bind fun s _ => s.freeG d) (.ok s ())).bind fun s _ =>
  s.waitRpq.bind fun s _ => s.waitAmo

/-- A record's bytes for SPAWN, SPAWNR and GANG (R164). -/
def State.readRecord (s : State) (va : Word) (n : Nat) : Res (List Byte) :=
  (s.readLanes ((List.range (n / 8)).map fun i => (va + BitVec.ofNat 64 (8 * i), 8)) 8 .normal).bind fun s r =>
    match (List.range r.length).find? fun i => match r[i]? with | some x => x.2 | none => false with
    | some i => .trap s 0x04 (va + BitVec.ofNat 64 (8 * i))
    | none => .ok s (r.flatMap Prod.fst)

/-- SPAWN onto a core (R165). -/
def spawnOn (d : Reg) (a : Src) (core : Nat) (fixed : Bool) (s : State) : Res Unit :=
  let va := s.g a.reg
  (alignAll [va] 64 s).bind fun s _ => (s.readRecord va 64).bind fun s bs =>
    if badTask bs then .ok (s.putG d 1) ()
    else
      let (s, st) := s.accept s.me.ctx va none (parseTask bs) core fixed false
      .ok (s.putG d (BitVec.ofNat 64 st)) ()

/-- SPAWN (R165). -/
def execSpawn (d : Reg) (a : Src) (s : State) : Out :=
  issue .s .outer (fun s => (taskFirst [a] [d] s).bind fun s _ => spawnOn d a s.myCore false s) s

/-- SPAWNR (R165): SLOT and HND of g(b) are ignored, a nonzero DEV raises PROTECT. -/
def execSpawnr (d : Reg) (a b : Src) (s : State) : Out :=
  issue .s .outer (fun s => (taskFirst [a, b] [d] s).bind fun s _ =>
    let t := s.g b.reg &&& ~~~7
    (alignAll [s.g a.reg] 64 s).bind fun s _ =>
    (need (s.taOk s.myCtx t && s.devOf t == 0) 0x07 (s.g b.reg) s).bind fun s _ =>
    spawnOn d a (slice t 3 13) true s) s

/-- GANG (R166). -/
def execGang (d : Reg) (a : Src) (s : State) : Out :=
  issue .s .outer (fun s => (taskFirst [a] [d] s).bind fun s _ =>
    let va := s.g a.reg
    (alignAll [va] 128 s).bind fun s _ => (s.readRecord va 128).bind fun s bs =>
      if badGang bs then .ok (s.putG d 1) ()
      else
        let (s, st) := s.accept s.me.ctx va (some (parseGang bs)) (parseTask ((bs.drop 64).take 64)) s.myCore false false
        .ok (s.putG d (BitVec.ofNat 64 st)) ()) s

/-- The checks of a record address that is only a name (R164). -/
def nameOk (va : Word) (s : State) : Res Unit :=
  (alignAll [va] 64 s).bind fun s _ => need (slice va 56 8 == 0) 0x07 va s

/-- DEPSET (R173). -/
def execDepset (d : Reg) (a b : Src) (s : State) : Out :=
  issue .s .outer (fun s => (taskFirst [a, b] [d] s).bind fun s _ =>
    let va := s.g a.reg
    (nameOk va s).bind fun s _ =>
      let here (w : Work) : Bool := w.ctx == s.me.ctx && w.addr == va
      match s.ready.find? here with
      | none => .ok (s.putG d 0) ()
      | some w =>
        let w := { w with count := (sextLow (s.g b.reg) 32).toInt }
        let s := s.putG d 1
        if w.count ≤ 0 then .ok (({ s with ready := s.ready.filter fun x => !here x }).act [.ready w s.myCore]) ()
        else .ok { s with ready := s.ready.map fun x => if here x then w else x } ()) s

/-- DEPDEC (R174). -/
def execDepdec (a : Src) (n : BitVec 16) (s : State) : Out :=
  issue .s .outer (fun s => (taskFirst [a] [] s).bind fun s _ =>
    let va := s.g a.reg
    (nameOk va s).bind fun s _ => .ok (s.decrement s.me.ctx va n.toNat none s.myCore) ()) s

/-- CANCEL (R179): a record waiting or queued on the issuing die, or a gang request at any placer. -/
def execCancel (d : Reg) (a : Src) (prop : Bool) (s : State) : Out :=
  issue .s .outer (fun s => (taskFirst [a] [d] s).bind fun s _ =>
    let va := s.g a.reg
    (nameOk va s).bind fun s _ =>
      let die := taDie s.cur
      let l := s.ready ++ ((s.cores.filter fun p => p.1 / 2048 == die).flatMap fun p => p.2.urgent ++ p.2.normal)
        ++ (s.dies.flatMap fun p => p.2.placer) ++ (s.die die).overflow
      match l.find? fun w => w.ctx == s.me.ctx && w.addr == va with
      | none => .ok (s.putG d 0) ()
      | some w =>
        .ok (((((s.unqueue w.ctx w.addr).replayEnd w.replay 2).cancelled w s.myCore).putG d 1).act [.done w.ctx w.addr w.task prop s.myCore]) ()) s

/-! ## Edges (R175) -/

/-- An edge header. -/
structure Edge where
  cap  : Nat
  err  : Bool
  run  : Bool
  head : Nat
  tail : Nat
  free : Nat
  fill : Nat
  cons : Word
  base : Word
  deriving DecidableEq, Repr

/-- The header at a storage key: its fault when it is poisoned or malformed. -/
def State.edgeAt (s : State) (key : Nat) : Except Nat Edge :=
  let bs := s.bytes key 64
  let flags := recField bs 4 4
  let e : Edge := ⟨recField bs 0 4, flags % 2 = 1, flags / 2 % 2 = 1, recField bs 8 4, recField bs 0xC 4,
    recField bs 0x10 4, recField bs 0x14 4, BitVec.ofNat 64 (recField bs 0x18 8), BitVec.ofNat 64 (recField bs 0x20 8)⟩
  if s.pois key 64 then .error 0x04
  else if e.cap = 0 ∨ 2 ^ 20 < e.cap ∨ e.free + e.fill ≠ e.cap ∨ 4 ≤ flags ∨ recField bs 0x28 24 ≠ 0 then .error 0x07
  else .ok e

/-- Writes the header's moving fields. -/
def State.putEdge (s : State) (key : Nat) (e : Edge) : State :=
  (s.putBytes (key + 4) (toBytes 4 (e.err.toNat + 2 * e.run.toNat))).putBytes (key + 8)
    (toBytes 4 e.head ++ toBytes 4 e.tail ++ toBytes 4 e.free ++ toBytes 4 e.fill)

/-- Where a word is for an edge action: a QLM window of the slot, or HBM under the context's tables. -/
def State.edgePlace (s : State) (who : Option Nat) (ctx : Nat) (va : Word) (n : Nat) (k : Acc3 := .a) : State × Except Nat Nat :=
  if slice va 56 8 ≠ 0 then (s, .error 0x07)
  else if inQlmBlock va then
    match who with
    | none => (s, .error 0x07)
    | some ta =>
      match s.protect ta va n k.writes with
      | some (some key) => (s, .ok key)
      | _ => (s, .error 0x07)
  else
    match s.ctx ctx with
    | none => (s, .error 0x06)
    | some c =>
      match s.translate c who va k with
      | (s, none) => (s, .error 0x06)
      | (s, some p) =>
        if p.view.isSome then (s, .error 0x07)
        else ((if p.dev then (if k.writes then s.dropL1 (p.pa / 128) none else s).lookHome who (p.pa / 128) .normal |>.1 else s), .ok p.key)

/-- Readies a consumer as SPAWN would (R175): dropped when its record is already accepted, or cannot be accepted. -/
def State.readyCons (s : State) (who : Option Nat) (ctx : Nat) (cons : Word) (core : Nat) (token : Bool) : State :=
  if slice cons 0 6 ≠ 0 then s
  else
    match s.recRead who ctx cons 64 with
    | (s, .bytes bs) => if badTask bs then s else (s.accept ctx cons none (parseTask bs) core false token).1
    | (s, _) => s

/-- Pushes an item into an edge with room (R175); the item's place was found first. -/
def State.pushItem (s : State) (who : Option Nat) (ctx : Nat) (key item : Nat) (e : Edge) (v : Word) (core : Nat) : State :=
  let s := s.putBytes item (toBytes 8 v.toNat)
  let e := { e with tail := (e.tail + 1) % e.cap, free := e.free - 1, fill := e.fill + 1 }
  if e.fill = 1 ∧ e.run = false ∧ e.cons ≠ 0 then
    (s.putEdge key { e with run := true }).readyCons who ctx e.cons core false
  else s.putEdge key e

/-- EPUSH (R175). -/
def execEpush (a b : Src) (s : State) : Out :=
  issue .s .outer (fun s => (taskFirst [a, b] [] s).bind fun s _ =>
    let va := s.g a.reg
    let ctx := s.me.ctx
    (alignAll [va] 64 s).bind fun s _ =>
    match s.edgePlace (some s.cur) ctx va 64 with
    | (s, .error c) => .trap s c va
    | (s, .ok key) =>
      match s.edgeAt key with
      | .error c => .trap s c va
      | .ok e =>
        if e.err then .ok s ()
        else if e.free = 0 then .wait s
        else
          let ia := e.base + BitVec.ofNat 64 (8 * e.tail)
          match s.edgePlace (some s.cur) ctx ia 8 .w with
          | (s, .error c) => .trap s c ia
          | (s, .ok item) =>
            let s := (s.capture s.me.rp key).capture s.me.rp item
            .ok (s.pushItem (some s.cur) ctx key item e (s.g b.reg) s.myCore) ()) s

/-- EPOP (R175). -/
def execEpop (d : Reg) (a : Src) (s : State) : Out :=
  issue .s .outer (fun s => (taskFirst [a] [d, d + 1] s).bind fun s _ =>
    let va := s.g a.reg
    let ctx := s.me.ctx
    (alignAll [va] 64 s).bind fun s _ =>
    match s.edgePlace (some s.cur) ctx va 64 with
    | (s, .error c) => .trap s c va
    | (s, .ok key) =>
      match s.edgeAt key with
      | .error c => .trap s c va
      | .ok e =>
        if e.fill = 0 then
          let s := (s.capture s.me.rp key).putEdge key { e with run := false }
          .ok ((s.putG (d + 1) 0).putG d (if e.err then 2 else 1)) ()
        else
          let ia := e.base + BitVec.ofNat 64 (8 * e.head)
          match s.edgePlace (some s.cur) ctx ia 8 .r with
          | (s, .error c) => .trap s c ia
          | (s, .ok item) =>
            let v : Word := BitVec.ofNat 64 (ofBytes (s.bytes item 8))
            let p := s.pois item 8
            let s := (s.capture s.me.rp key).putEdge key
              { e with head := (e.head + 1) % e.cap, fill := e.fill - 1, free := e.free + 1 }
            .ok ((s.modMe fun sl => sl.arriveG (d + 1) v p).putG d 0) ()) s

/-- The graph of a consumer's record, as it stands (R176). -/
def State.consGraph (s : State) (ctx : Nat) (cons : Word) : Option Nat :=
  if cons = 0 then none
  else
    match (s.recRead none ctx cons 64).2 with
    | .bytes bs => some (recField bs 0x30 4)
    | _ => none

/-- A deferred push of a completed unit acts once the edge has room or ERR is 1 (R176); one whose edge cannot be
reached is dropped and counted. -/
def execEdgeDeferredPush (p : EdgePush) (s : State) : Out :=
  .next (
    if slice p.edge 0 6 ≠ 0 then s.drop p.ctx
    else
      match s.edgePlace none p.ctx p.edge 64 with
      | (s, .error _) => s.drop p.ctx
      | (s, .ok key) =>
        match s.edgeAt key with
        | .error _ => s.drop p.ctx
        | .ok e =>
          if p.token ∧ s.consGraph p.ctx e.cons = some p.graph.toNat then
            if e.run then s.putEdge key { e with err := true }
            else (s.putEdge key { e with err := true, run := true }).readyCons none p.ctx e.cons p.core (e.fill == 0)
          else if e.err then s
          else if e.free = 0 then s.post (.edgeDeferredPush p)
          else
            match s.edgePlace none p.ctx (e.base + BitVec.ofNat 64 (8 * e.tail)) 8 .w with
            | (s, .error _) => s.drop p.ctx
            | (s, .ok item) => s.pushItem none p.ctx key item e p.item p.core)

/-! ## END (R113, R226) -/

/-- The messages of an ended activation go out in its program order (R226). -/
def State.release1 (s : State) : Outgoing → State
  | .event i => s.post i
  | .am core m => (s.flushMail m.sender (hndOf core)).rxArrive core m none

/-- The trace record of an activation's end (R365). -/
def State.noteAct (s : State) (ta : Nat) : State :=
  let sl := s.slot ta
  let entry := match sl.trigger with | some m => BitVec.ofNat 64 (ofBytes (bytesOfWords64 (m.more.take 1))) | none => 0
  s.note ⟨4, sl.ctx, 0, 0, BitVec.ofNat 64 ta, entry⟩

/-- A handler activation ends: its messages go out, its trigger's entries are released, its slot is empty. -/
def State.endActivation (s : State) (ta : Nat) : State :=
  let sl := s.slot ta
  let core := taCore ta
  let s := s.noteAct ta
  let s := s.modCore core fun c =>
    { c with rxq := match sl.trigger with | some m => c.rxq.filter fun x => x.pos != m.pos | none => c.rxq }
  let s := s.clearCore core sl.uid sl.ctx
  let s := s.strandsEnd sl.uid
  let s := s.setSlot ta {}
  (sl.outbox.foldl State.release1 s).rxLeft core

/-- END (R113). -/
def execEndTask (s₀ : State) : Out :=
  match ((s₀.preIssue .outer).waitRpq.bind fun s _ => s.waitAmo).bind fun s _ => await (s.me.stq == 0) s with
  | .ok s _ =>
    let s := s.countIssue .s
    .next (if taHnd s.cur then s.endActivation s.cur else s.endTask s.cur false)
  | .wait s => .next s
  | .trap s c v => .next ((s.uncount s₀).raise s₀.cur c v)

/-! ## Events of the scheduler -/

/-- A core with a free slot starts the record that is next for it (R169). -/
def execTaskStart (core : Nat) (s : State) : Out :=
  .next (match s.nextWork core with
    | some w => (s.startOn core w).getD s
    | none => s)

/-- The bottom of a victim's deques (R169). -/
def State.bottom (s : State) (victim : Nat) : Option Work :=
  let c := s.core victim
  match c.urgent.reverse.find? fun w => s.mayStart w.ctx with
  | some w => some w
  | none => c.normal.reverse.find? fun w => s.mayStart w.ctx

/-- The cores that have something to steal, in the tier that a thief tries first: its quad, its cluster, its die
(R169). -/
def State.victims (s : State) (core : Nat) : List Nat :=
  let all := (s.cores.map Prod.fst).filter fun v => v != core && v / 2048 == core / 2048 && (s.bottom v).isSome
  let quad := all.filter fun v => v / 4 == core / 4
  let clu := all.filter fun v => clusterOf (v / 4 % 512) == clusterOf (core / 4 % 512)
  if !quad.isEmpty then quad else if !clu.isEmpty then clu else all

/-- A core with empty deques steals from the bottom of a victim's urgent deque, else its normal one (R169); the
unit of a replay run is not stolen (R359). -/
def execTaskSteal (core victim : Nat) (s : State) : Out :=
  .next (
    if (s.nextWork core).isSome || !(s.victims core).contains victim then s
    else
      match s.bottom victim with
      | some w =>
        if w.replay then s
        else (s.startOn core w).getD s
      | none => s)

/-- Places one request, or completes it CANCELLED where its graph is frozen (R170, R178). -/
def State.placeOne (s : State) (die : Nat) (w : Work) : Option State :=
  match w.gang with
  | none => none
  | some g =>
    let lash := g.lash || w.task.lash
    let pick := match s.findPlace die w.ctx w.addr g lash false w.replay with
      | some x => some x
      | none => s.findPlace die w.ctx w.addr g lash true w.replay
    match pick with
    | none => none
    | some (o, l, off) =>
      let s' := s.unqueue w.ctx w.addr
      if s.graphFrozen w.ctx w.task.graph then
        some (((s'.replayEnd w.replay 2).cancelled w ((die * 512 + o) * 4)).act [.done w.ctx w.addr w.task true ((die * 512 + o) * 4)])
      else some (s'.startGang w g die o off l)

/-- The placer places the oldest request that fits (R170). A replayed unit keeps the rectangle of pass 0 (R359). -/
def execGangPlace (die : Nat) (s : State) : Out :=
  .next (((s.die die).placer.findSome? fun w => if s.mayStart w.ctx then s.placeOne die w else none).getD s)

/-- The remaining budgets of the tasks on a rectangle (R171; log 21). -/
def State.rectBudget (s : State) (die origin : Nat) (g : GangRec) : Nat :=
  (((rectQuads die origin g).flatMap fun q => (List.range 4).flatMap fun c => (List.range 4).map fun i =>
    (s.slot (taOf (q * 4 + c) i)).budget)).foldl (· + ·) 0

/-- The gang that waits longest at a placer beyond its context's aging time (R171): a stopped unit stands before every
request that has never run (R345). -/
def State.agedGang (s : State) (die : Nat) : Option (Nat × Word × GangRec × Option UnitSt) :=
  let aged (ctx since : Nat) : Bool :=
    match s.ctx ctx with
    | some c => decide (since + c.aging < s.time) && s.mayStart ctx
    | none => false
  let stopped := s.units.filter fun u => u.stopped && u.die == die && u.gang.isSome && aged u.ctx u.since
  match stopped.foldl (fun (b : Option UnitSt) u =>
      match b with | some x => if u.since < x.since then some u else b | none => some u) none with
  | some u => u.gang.map fun g => (u.ctx, u.addr, g, some u)
  | none =>
    match (s.die die).placer.find? fun w => aged w.ctx w.since with
    | some w => w.gang.map fun g => (w.ctx, w.addr, g, none)
    | none => none

/-- Whether a request may be placed at an origin: a stopped unit resumes only where R347 lets it. -/
def originFits (u : Option UnitSt) (o : Nat) : Bool :=
  match u with
  | none => true
  | some u =>
    if (match u.save with | some (_, fixed) => fixed | none => true) then o == u.origin
    else o % 4 == u.origin % 4 && o / 16 % 2 == u.origin / 16 % 2

/-- The oldest request past its context's aging time reserves the rectangle whose occupants have the least budget
left (R171). -/
def execGangAgingReserve (die : Nat) (s : State) : Out :=
  .next (match (s.die die).reserved, s.agedGang die with
    | none, some (ctx, addr, g, u) =>
      let ok := (origins g.w g.h).filter fun o => originFits u o && (rectQuads die o g).all fun q => s.present die (q % 512)
      let best := ok.foldl (fun (b : Option (Nat × Nat)) o =>
        let v := s.rectBudget die o g
        match b with
        | some (bv, _) => if v < bv then some (v, o) else b
        | none => some (v, o)) none
      match best with
      | some (_, o) => s.modDie die fun d => { d with reserved := some ⟨ctx, addr, o, g.w, g.h⟩ }
      | none => s
    | _, _ => s)

end Sys2Proof.Machine
end

