-- ==== Sys2Proof/Machine/Coll.lean ====
section
/-! DEFINITION. Collective operations (10_copies.md R243 to R245; 03_numbers.md R76, R77). -/

namespace Sys2Proof.Machine

/-! ## W96 (R76, R77) -/

/-- The class of a W96 value. -/
inductive W96 where
  | fin (n : Int)
  | inf (neg : Bool)
  | nan
  deriving DecidableEq, Repr

/-- A W96 value with the statuses recorded so far. -/
structure W96S where
  v   : W96
  nx  : Bool := false
  sat : Bool := false
  nv  : Bool := false
  deriving DecidableEq, Repr

/-- Clips to the range (R76, R77). -/
def W96S.clip (n : Int) (nx sat nv : Bool) : W96S :=
  if n < -(2 ^ 95 : Int) then ⟨.fin (-(2 ^ 95)), nx, true, nv⟩
  else if (2 ^ 95 : Int) ≤ n then ⟨.fin (2 ^ 95 - 1), nx, true, nv⟩
  else ⟨.fin n, nx, sat, nv⟩

/-- An input of a type with binary point p (R76). -/
def toW96 (t : Ty) (p x : Nat) : W96S :=
  if t.isInt then W96S.clip (asInt t.width x * 2 ^ p) false false false
  else
    match (fmtOf t).num false x with
    | .nan _ => { v := .nan, nv := true }
    | .inf s => { v := .inf s }
    | .zero _ => { v := .fin 0 }
    | .fin s m e =>
      let (k, nx) := toIntegral {} s m (e + p)
      W96S.clip k nx false false

/-- Two operands meet at a hop (R77). -/
def W96S.add (a b : W96S) : W96S :=
  let nx := a.nx || b.nx
  let sat := a.sat || b.sat
  let nv := a.nv || b.nv
  match a.v, b.v with
  | .fin x, .fin y => W96S.clip (x + y) nx sat nv
  | .nan, _ => ⟨.nan, nx, sat, nv⟩
  | _, .nan => ⟨.nan, nx, sat, nv⟩
  | .inf s, .inf t => if s = t then ⟨.inf s, nx, sat, nv⟩ else ⟨.nan, nx, sat, true⟩
  | .inf s, _ => ⟨.inf s, nx, sat, nv⟩
  | _, .inf s => ⟨.inf s, nx, sat, nv⟩

/-- The root's conversion, RNE (R77): the pattern, with what the rounding records (log 15). -/
def W96S.root (t : Ty) (p : Nat) (a : W96S) : Nat × W96S :=
  if t.isInt then
    let w := t.width
    let lim (neg : Bool) : Nat × W96S := (if neg then 2 ^ (w - 1) else 2 ^ (w - 1) - 1, { a with nv := true })
    match a.v with
    | .nan => (0, { a with nv := true })
    | .inf s => lim s
    | .fin n =>
      let (k, nx) := toIntegral {} (decide (n < 0)) n.natAbs (-(p : Int))
      if k < -(2 ^ (w - 1) : Int) then lim true
      else if (2 ^ (w - 1) : Int) ≤ k then lim false
      else (ofInt w k, { a with nx := a.nx || nx })
  else
    let f := fmtOf t
    match a.v with
    | .nan => (f.nanBits, a)
    | .inf s => (f.sign s + f.infBits, a)
    | .fin n =>
      let r := f.rndInt {} n (-(p : Int)) false
      (r.bits, { a with nx := a.nx || r.flags.nx })

/-! ## The descriptor (R243) -/

/-- A type code of a descriptor: 0 to 3 or 6 to 9. -/
def collTy (n : Nat) : Option Ty :=
  match n with
  | 0 => some .fp64 | 1 => some .fp32 | 2 => some .bf16 | 3 => some .fp16
  | 6 => some .i64 | 7 => some .i32 | 8 => some .i16 | 9 => some .i8
  | _ => none

/-- The width in bytes of a type code. -/
def collSize (n : Nat) : Nat := match collTy n with | some t => t.width / 8 | none => 1

/-- The members of a context's group, as (device, die); none when there is no such group (R317). -/
def State.groupOf (s : State) (c : Ctx) (g : Nat) : Option (List (Nat × Nat)) :=
  let e := c.colltab + 16 * g
  let n := ofBytes (s.bytes e 2)
  let list := ofBytes (s.bytes (e + 8) 8)
  if c.colltab = 0 ∨ 64 ≤ g ∨ n < 2 ∨ 1024 < n then none
  else some ((List.range n).map fun m =>
    let w := ofBytes (s.bytes (list + 4 * m) 4)
    (w / 2 ^ 16, w % 4))

/-- What the fields of a descriptor say for function f. -/
def collOf (f : Nat) (bs : List Byte) (since op : Nat) : CollInfo :=
  { fn := f, grp := recField bs 0x14 2 / 1024, op := op, member := recField bs 0x14 2 % 1024
    root := recField bs 0x16 2 % 1024, count := recField bs 0x10 4, sty := recField bs 0x18 1, dty := recField bs 0x19 1
    point := recField bs 0x1A 1, dst := BitVec.ofNat 64 (recField bs 8 8), data := [], dpois := [], since := since }

/-- Whether a member reads its source, and whether it writes a destination (R244). -/
def CollInfo.reads (c : CollInfo) : Bool := c.fn != 2 || c.member == c.root
def CollInfo.writes (c : CollInfo) : Bool := c.fn == 1 || c.fn == 2 || c.member == c.root

/-- A malformed descriptor (R243); a misaligned SRC or DST counts as one where it is used (log 15). -/
def badColl (f : Nat) (bs : List Byte) (grp : Option (List (Nat × Nat))) : Bool :=
  let c := collOf f bs 0 0
  let n := (grp.getD []).length
  recField bs 0x28 24 != 0 || recField bs 0x1C 4 != 0 || recField bs 0x1B 1 % 4 == 3 ||
    (collTy c.sty).isNone || (collTy c.dty).isNone || decide (95 < c.point) || (decide (2 ≤ f) && c.point != 0) ||
    (decide (2 ≤ f) && c.sty != c.dty) || grp.isNone || recField bs 0x16 2 / 1024 != c.grp ||
    decide (n ≤ c.member) || decide (n ≤ c.root) || c.count == 0 || decide (2 ^ 28 < c.count) ||
    (c.reads && recField bs 0 8 % collSize c.sty != 0) || (c.writes && recField bs 8 8 % collSize c.dty != 0)

/-! ## Issue (R243) -/

/-- The elements of a source, and which are poisoned. -/
def elemsOf (size : Nat) (bs : List (Byte × Bool)) : Nat → List (Nat × Bool)
  | 0 => []
  | n + 1 =>
    let e := bs.take size
    (ofBytes (e.map Prod.fst), e.any Prod.snd) :: elemsOf size (bs.drop size) n

/-- Reads a member's source for its engine, or the status of the check that fails; its lookups are not counted (R197). -/
def State.collRead (s : State) (o : EngOp) (c : CollInfo) (src : Word) : State × Except (Nat × Word) CollInfo :=
  if !c.reads then (s, .ok c)
  else
    let size := collSize c.sty
    match s.opPlaces o false (pageParts src (size * c.count)) with
    | (s, .error x) => (s, .error x)
    | (s, .ok pl) =>
      let (s, bs) := s.opReadAll .normal pl false
      let es := elemsOf size bs c.count
      (s, .ok { c with data := es.map Prod.fst
                       dpois := (List.range es.length).filter fun i => (es.getD i (0, false)).2 })

/-- The bytes of a member's destination in a group of n members (R244). -/
def CollInfo.dlen (c : CollInfo) (n : Nat) : Nat := (if c.fn = 3 then n else 1) * c.count * collSize c.dty

/-- Checks a member's destination (R234): after the commit it is written without fail (R245). -/
def State.collDest (s : State) (o : EngOp) (c : CollInfo) (n : Nat) : State × Except (Nat × Word) CollInfo :=
  if !c.writes then (s, .ok c)
  else
    match s.opPlaces o true (pageParts c.dst (c.dlen n)) with
    | (s, .error x) => (s, .error x)
    | (s, .ok pl) => (s, .ok { c with dplan := pl.map fun x => (x.1.key, x.2) })

/-- The operations of a member that have not completed. -/
def State.collOut (s : State) (ctx grp member : Nat) : Nat :=
  (((s.engines.filter fun p => 128 ≤ p.1).flatMap fun p => p.2.ops).filter fun o =>
    o.ctx == ctx && match o.coll with | some c => c.grp == grp && c.member == member | none => false).length

/-- A COLL instruction (R243, R244). -/
def collOp (f : Nat) (d : Reg) (a : Src) (s : State) : Out :=
  issue .v .outer (fun s => (taskFirst [a] [d] s).bind fun s _ =>
    let va := s.g a.reg
    (alignAll [va] 64 s).bind fun s _ => (s.readRecord va 64).bind fun s bs =>
      let ctx := s.myCtx
      let my := recField bs 0x14 2
      let grp := s.groupOf ctx (my / 1024)
      let bad := badColl f bs grp
      if !bad && decide (16 ≤ s.collOut s.me.ctx (my / 1024) (my % 1024)) then .wait s
      else
        let op := Store.get 0 ctx.collSeq my
        let e := 128 + taDie s.cur * 4 + my / 1024 % 4
        let id : W32 := BitVec.ofNat 32 (2 ^ 31 + (e - 128) * 2 ^ 24 + (s.eng e).seq)
        let ctl := recField bs 0x1B 1
        let c := collOf f bs s.time op
        let sl := s.me
        let o : EngOp := { id := id, req := s.meT, ctx := sl.ctx, graph := sl.graph.setWidth 32, unit := sl.unit
                           taskid := sl.taskid, shadow := [], sink := ctl % 4, tag := ctl / 4
                           cdep := BitVec.ofNat 64 (recField bs 0x20 8), trap := false, ack := none, coll := some c
                           rp := sl.rp, share := ((s.unitOf s.cur).map UnitSt.share).getD ([], 0, 0) }
        let here := match (grp.getD [])[my % 1024]? with
          | some (dev, die) => (dev == 0 || dev == s.host.devNo) && die == taDie s.cur
          | none => false
        let (s, o) :=
          if bad then (s, { o with st := 2, status := 1, coll := none })
          else if !here then (s, { o with st := 2, status := 3 })
          else
            match s.collDest o c (grp.getD []).length with
            | (s, .error x) => (s, { o with st := 2, status := x.1, fail := x.2 })
            | (s, .ok c) =>
              match s.collRead o c (BitVec.ofNat 64 (recField bs 0 8)) with
              | (s, .error x) => (s, { o with st := 2, status := x.1, fail := x.2 })
              | (s, .ok c) => (s, { o with coll := some c })
        let s := if bad || !here then s else s.modCtx s.me.ctx fun k => { k with collSeq := Store.set k.collSeq my (op + 1) }
        let s := s.modEng e fun x => { x with seq := nextSeq x.seq, ops := x.ops ++ [o] }
        let s := (s.modMe fun sl => { sl with copn := sl.copn + 1 }).countMe 22 1
        let s := if o.st = 2 then s.post (.copyCompletion id) else s
        .ok (s.putG d (id.setWidth 64)) ()) s

def execCreduce (d : Reg) (a : Src) (s : State) : Out := collOp 0 d a s
def execCallred (d : Reg) (a : Src) (s : State) : Out := collOp 1 d a s
def execCbcast (d : Reg) (a : Src) (s : State) : Out := collOp 2 d a s
def execCgather (d : Reg) (a : Src) (s : State) : Out := collOp 3 d a s

/-! ## Commit and abort (R245) -/

/-- The local operations of operation `op` of a group that have not committed. -/
def State.collOps (s : State) (ctx grp op : Nat) : List (EngOp × CollInfo) :=
  ((s.engines.filter fun p => 128 ≤ p.1).flatMap fun p => p.2.ops).filterMap fun o =>
    match o.coll with
    | some c => if o.ctx = ctx ∧ c.grp = grp ∧ c.op = op ∧ o.st = 1 then some (o, c) else none
    | none => none

/-- A member's contribution: its elements, those that are poisoned, and how they convert. -/
structure Contrib where
  data  : List Nat
  pois  : List Nat
  sty   : Nat
  point : Nat
  deriving DecidableEq, Repr, Inhabited

/-- The contributions of every member, in member order; none while one is missing. -/
def State.collParts (s : State) (ctx grp op : Nat) (outside : List CollPart) (members : List (Nat × Nat)) : Option (List Contrib) :=
  (List.range members.length).mapM fun m =>
    match (s.collOps ctx grp op).find? fun x => x.2.member == m with
    | some (_, c) => some ⟨c.data, c.dpois, c.sty, c.point⟩
    | none =>
      let (dev, _) := members.getD m (0, 0)
      if dev = 0 ∨ dev = s.host.devNo then none
      else (outside.find? fun p => p.ctx == ctx && p.grp == grp && p.op == op && p.member == m).map fun p => ⟨p.data, p.pois, p.sty, p.point⟩

/-- The bytes that a member's destination gets, with their poison, and the statuses recorded (R244). The hops combine in
member order, which shows only where a hop clips: the spec promises no order (R77; DESIGN CHOICE, log 15). -/
def collResult (c : CollInfo) (parts : List Contrib) : List (Byte × Bool) × W96S :=
  let bytes (v : Nat) (p : Bool) : List (Byte × Bool) := (toBytes (collSize c.dty) v).map fun b => (b, p)
  let zero : W96S := { v := .fin 0 }
  let pick (m : Nat) : List (Byte × Bool) :=
    let p : Contrib := parts.getD m default
    (List.range c.count).flatMap fun e => bytes (p.data.getD e 0) (p.pois.contains e)
  match c.fn with
  | 2 => (pick c.root, zero)
  | 3 => ((List.range parts.length).flatMap pick, zero)
  | _ =>
    let dt := (collTy c.dty).getD .fp32
    (List.range c.count).foldl (fun (acc : List (Byte × Bool) × W96S) e =>
      let w := parts.foldl (fun (w : W96S) p => w.add (toW96 ((collTy p.sty).getD .fp32) p.point (p.data.getD e 0))) { v := .fin 0 }
      let (v, r) := w.root dt c.point
      (acc.1 ++ bytes v (parts.any fun p => p.pois.contains e),
       { acc.2 with nx := acc.2.nx || r.nx, sat := acc.2.sat || r.sat, nv := acc.2.nv || r.nv })) ([], zero)

/-- One participant after the commit: its destination is planned, and it completes OK with the statuses recorded anywhere
(R244, R245). -/
def State.collWrite (s : State) (parts : List Contrib) (o : EngOp) (c : CollInfo) : State :=
  let (bs, w) := collResult c parts
  let pl : List (Place × Nat) := c.dplan.map fun x => (⟨x.1, x.1, decide (x.1 < 2 ^ 64), none, 0, 0⟩, x.2)
  let s := if c.writes then
      pl.foldl (fun (s : State) x => (s.opLookups x.1 x.2 .normal).1) (s.opMark o (pageParts c.dst bs.length)) else s
  (s.modOp o.id fun o => { o with st := 2, nx := w.nx, sat := w.sat, nv := w.nv, pois := bs.any Prod.snd
                                  plan := if c.writes then planRuns pl bs [] else [] }).post (.copyCompletion o.id)

/-- Every contribution has reached the root: the operation commits (R245). The contributions of members on other
devices come with the event (log 15). -/
def execCollectiveCommit (ctx grp op : Nat) (outside : List CollPart) (s : State) : Out :=
  .next (match s.ctx ctx with
    | none => s
    | some c =>
      match s.groupOf c grp with
      | none => s
      | some members =>
        match s.collParts ctx grp op outside members with
        | none => s
        | some parts => (s.collOps ctx grp op).foldl (fun s x => s.collWrite parts x.1 x.2) s)

/-- Every uncommitted local participant completes ABORTED-PEER (R245). -/
def State.collAbort (s : State) (ctx grp op : Nat) : State :=
  (s.collOps ctx grp op).foldl (fun s x => s.abortOp x.1 8) s

/-- An abort reaches the participants (R245). -/
def execCollectiveAbort (ctx grp op : Nat) (s : State) : Out := .next (s.collAbort ctx grp op)

/-- 1 ms after its first issue an uncommitted operation aborts (R245). -/
def execCollectiveWatchdog (ctx grp op : Nat) (s : State) : Out :=
  .next (if (s.collOps ctx grp op).any fun x => decide (x.2.since + 1000000 ≤ s.time) then s.collAbort ctx grp op else s)

end Sys2Proof.Machine
end

