-- ==== Sys2Proof/Decode.lean ====
section
/-! DEFINITION. The encoder and the decoder (02_encoding.md and the encoding tables of the class chapters).

A word is split into the fields of its layout; the fields pick an instruction; and the instruction is accepted
only if it is well formed and its own encoding gives back exactly those fields. The last test is every
must-be-zero rule of R50 and R58 at once: a field the function does not use is zero in the encoding. -/

namespace Sys2Proof

/-- Why bytes are no instruction. Each reason is ILLEGAL in R58, but for `short`: the words are not all there. -/
inductive DecErr where
  /-- fewer words than the length code asks for -/
  | short
  /-- a native or extended major, or a function code, reserved in its map -/
  | reservedCode
  /-- a ty, rm or sc code that is reserved -/
  | reservedField
  /-- a must-be-zero field, a pm bit, RD or the length code breaks its rule -/
  | badField
  /-- a condition of the class on the operands fails -/
  | illFormed
  deriving DecidableEq, Repr

/-! ## Code fields -/

/-- The ty codes (R53). -/
def tyCode : Ty → BitVec 4
  | .fp64 => 0 | .fp32 => 1 | .bf16 => 2 | .fp16 => 3 | .e4m3 => 4 | .e5m2 => 5
  | .i64 => 6 | .i32 => 7 | .i16 => 8 | .i8 => 9

def tyOf (c : BitVec 4) : Option Ty :=
  match c.toNat with
  | 0 => some .fp64 | 1 => some .fp32 | 2 => some .bf16 | 3 => some .fp16 | 4 => some .e4m3 | 5 => some .e5m2
  | 6 => some .i64 | 7 => some .i32 | 8 => some .i16 | 9 => some .i8 | _ => none

/-- The rm codes (R54). -/
def rmCode : Rm → BitVec 3
  | .rne => 0 | .rtz => 1 | .rdn => 2 | .rup => 3 | .rna => 4 | .rsr => 5 | .dyn => 6

def rmOf (c : BitVec 3) : Option Rm :=
  match c.toNat with
  | 0 => some .rne | 1 => some .rtz | 2 => some .rdn | 3 => some .rup | 4 => some .rna | 5 => some .rsr
  | 6 => some .dyn | _ => none

/-- The sc codes (R55). -/
def scCode : Scope → BitVec 4
  | .dflt => 0 | .task => 1 | .core => 2 | .quad => 3 | .clu => 4 | .die => 5 | .dev => 6 | .peer => 7
  | .fab => 8 | .host => 9 | .sys => 10 | .dur => 11

def scOf (c : BitVec 4) : Option Scope :=
  match c.toNat with
  | 0 => some .dflt | 1 => some .task | 2 => some .core | 3 => some .quad | 4 => some .clu | 5 => some .die
  | 6 => some .dev | 7 => some .peer | 8 => some .fab | 9 => some .host | 10 => some .sys | 11 => some .dur
  | _ => none

/-- The hint codes (R48). -/
def hintCode : Hint → BitVec 2
  | .normal => 0 | .ef => 1 | .kp => 2 | .na => 3

def hintOf (c : BitVec 2) : Hint :=
  match c.toNat with
  | 0 => .normal | 1 => .ef | 2 => .kp | _ => .na

/-- The f codes of MMA (R136). -/
def mmaCode : MmaFmt → BitVec 5
  | .bf16 => 0 | .fp16 => 1 | .e4m3 => 2 | .e5m2 => 3 | .i8 => 4 | .fp32 => 5 | .fp64 => 6

def mmaOf (c : BitVec 5) : Option MmaFmt :=
  match c.toNat with
  | 0 => some .bf16 | 1 => some .fp16 | 2 => some .e4m3 | 3 => some .e5m2 | 4 => some .i8 | 5 => some .fp32
  | 6 => some .fp64 | _ => none

/-- The types of ALD and AST: ty 0, 1 and 7 (R146). -/
def accTyCode : AccTy → BitVec 4
  | .fp64 => 0 | .fp32 => 1 | .i32 => 7

def accTyOf (c : BitVec 4) : Option AccTy :=
  match c.toNat with
  | 0 => some .fp64 | 1 => some .fp32 | 7 => some .i32 | _ => none

/-- The presence codes (R20); code 11 is never held. -/
def presCode : Presence → BitVec 2
  | .empty => 0 | .full => 1 | .poison => 2

def presOf (c : BitVec 2) : Option Presence :=
  match c.toNat with
  | 0 => some .empty | 1 => some .full | 2 => some .poison | _ => none

/-! ## The fields of a native word and of an extended form (R40, R44) -/

/-- The N3 layout; NI, NB and NJ read `f` and `b` together as the upper constant. -/
structure NFields where
  f  : BitVec 5
  b  : Reg
  a  : Reg
  d  : Reg
  op : BitVec 7
  deriving DecidableEq, Repr

/-- The words of an extended form; `lit` is there with length code 11. -/
structure XFields where
  f   : BitVec 5
  b   : Reg
  a   : Reg
  d   : Reg
  op  : BitVec 7
  q   : BitVec 5
  sc  : BitVec 4
  rm  : BitVec 3
  ty  : BitVec 4
  pm  : BitVec 4
  e   : Reg
  c   : Reg
  imm : W32
  lit : Option Word
  deriving DecidableEq, Repr

/-- A splice word (R51). -/
structure SFields where
  hd  : BitVec 5
  hc  : BitVec 6
  hb  : BitVec 6
  ha  : BitVec 6
  idx : BitVec 7
  deriving DecidableEq, Repr

/-- The encoding of an instruction by its form. -/
inductive Enc where
  | native (n : NFields)
  | splice (s : SFields)
  | ext (x : XFields)
  deriving DecidableEq, Repr

def nf (op : Nat) (d a b : Reg) (f : BitVec 5) : NFields := ⟨f, b, a, d, BitVec.ofNat 7 op⟩

/-- NI and NB: an 11-bit constant in bits [31:21]. -/
def ni (op : Nat) (d a : Reg) (i : BitVec 11) : NFields :=
  nf op d a (i.extractLsb' 0 6) (i.extractLsb' 6 5)

def nbr (op : Nat) (a b : Reg) (off : BitVec 11) : NFields := ni op a b off

/-- NJ: a 23-bit constant in bits [31:9]. -/
def nj (op : Nat) (off : BitVec 23) : NFields :=
  nf op (off.extractLsb' 0 6) (off.extractLsb' 6 6) (off.extractLsb' 12 6) (off.extractLsb' 18 5)

def NFields.imm (n : NFields) : BitVec 11 := n.f ++ n.b
def NFields.off23 (n : NFields) : BitVec 23 := n.f ++ n.b ++ n.a ++ n.d

/-- v0 to v31 in a six-bit field (R45). -/
def vf (v : VReg) : Reg := v.setWidth 6
def af (a : AReg) : Reg := a.setWidth 6
def kf (k : KReg) : Reg := k.setWidth 6
def fv (r : Reg) : VReg := r.setWidth 5
def fa (r : Reg) : AReg := r.setWidth 2
def fk (r : Reg) : KReg := r.setWidth 3

/-- The native word of a vector instruction (R120). -/
def nvec (op : Nat) (d a b : VReg) (t : Ty) : NFields := nf op (vf d) (vf a) (vf b) ((tyCode t).setWidth 5)

/-- An extended form with every field zero but the major and the function. -/
def xf (op f : Nat) : XFields :=
  ⟨BitVec.ofNat 5 f, 0, 0, 0, BitVec.ofNat 7 op, 0, 0, 0, 0, 0, 0, 0, 0, none⟩

/-- pm: bit 0 of the field governs a, then b, c and e (R46). -/
def pmBits (a b c e : Bool) : BitVec 4 :=
  BitVec.ofBool e ++ BitVec.ofBool c ++ BitVec.ofBool b ++ BitVec.ofBool a

def q0 (b : Bool) : BitVec 5 := if b then 1 else 0

def XFields.srcA (x : XFields) : Src := ⟨x.a, x.pm.getLsbD 0⟩
def XFields.srcB (x : XFields) : Src := ⟨x.b, x.pm.getLsbD 1⟩
def XFields.srcC (x : XFields) : Src := ⟨x.c, x.pm.getLsbD 2⟩
def XFields.srcE (x : XFields) : Src := ⟨x.e, x.pm.getLsbD 3⟩

/-- The destination: RD is q[4] (R47). -/
def XFields.dst (x : XFields) : Dst :=
  if x.q.getLsbD 4 then .rem (x.d.setWidth 5) x.srcE else .loc x.d

def Dst.field : Dst → Reg
  | .loc d => d
  | .rem n _ => n.setWidth 6

def Dst.isRem : Dst → Bool
  | .loc _ => false
  | .rem _ _ => true

def Dst.e : Dst → Src
  | .loc _ => ⟨0, false⟩
  | .rem _ e => e

/-! ## XINT (R87) -/

def YOp.src : YOp → Src
  | .reg b => b
  | _ => ⟨0, false⟩

def YOp.isImm : YOp → Bool
  | .imm _ => true
  | _ => false

def YOp.litWord : YOp → Option Word
  | .lit l => some l
  | _ => none

def YOp.imm32 : YOp → W32
  | .imm i => i
  | _ => 0

/-- q of XINT: RD in bit 4, IMM in bit 1, LIT in bit 0. -/
def qXInt (rd imm lit : Bool) : BitVec 5 :=
  BitVec.ofBool rd ++ (0 : BitVec 2) ++ BitVec.ofBool imm ++ BitVec.ofBool lit

def encXInt (f : Nat) (dst : Dst) (a : Src) (y : YOp) (c : Src) : XFields :=
  { xf 0x01 f with d := dst.field, a := a.reg, b := y.src.reg, c := c.reg, e := dst.e.reg
                   q := qXInt dst.isRem y.isImm y.litWord.isSome
                   pm := pmBits a.trap y.src.trap c.trap dst.e.trap
                   imm := y.imm32, lit := y.litWord }

/-- y by q[1:0]; both bits set is always ILLEGAL (R87). -/
def XFields.y (x : XFields) : Option YOp :=
  match x.q.getLsbD 1, x.q.getLsbD 0 with
  | false, false => some (.reg x.srcB)
  | true, false => some (.imm x.imm)
  | false, true => x.lit.map .lit
  | true, true => none

def encBf (f : Nat) (dst : Dst) (a b : Src) (pos width1 : BitVec 6) (sx : Bool) : XFields :=
  { xf 0x01 f with d := dst.field, a := a.reg, b := b.reg, e := dst.e.reg
                   q := qXInt dst.isRem false false, pm := pmBits a.trap b.trap false dst.e.trap
                   imm := (0 : BitVec 19) ++ BitVec.ofBool sx ++ width1 ++ pos }

/-! ## XMEM (R103) -/

/-- q of XMEM and AMO: RD, RL, AQ, hint (R48). -/
def qMem (rd rl aq : Bool) (h : Hint) : BitVec 5 :=
  BitVec.ofBool rd ++ BitVec.ofBool rl ++ BitVec.ofBool aq ++ hintCode h

def XFields.hint (x : XFields) : Hint := hintOf (x.q.extractLsb' 0 2)

def encXAddr (x : XFields) (m : XAddr) : XFields :=
  { x with a := m.a.reg, b := m.b.reg, ty := m.shift.setWidth 4, imm := m.off }

def XFields.addr (x : XFields) : XAddr := ⟨x.srcA, x.srcB, x.ty.setWidth 2, x.imm⟩

def encLoad (f : Nat) (o : XLoad) : XFields :=
  { encXAddr (xf 0x02 f) o.addr with
      d := o.dst.field, e := o.dst.e.reg, q := qMem o.dst.isRem false o.aq o.hint, sc := scCode o.sc
      pm := pmBits o.addr.a.trap o.addr.b.trap false o.dst.e.trap }

def encStore (f : Nat) (o : XStore) : XFields :=
  { encXAddr (xf 0x02 f) o.addr with
      d := o.d, q := qMem false o.rl false o.hint, sc := scCode o.sc
      pm := pmBits o.addr.a.trap o.addr.b.trap false false }

def decLoad (x : XFields) : Option XLoad :=
  (scOf x.sc).map fun sc => ⟨x.dst, x.addr, x.q.getLsbD 2, sc, x.hint⟩

def decStore (x : XFields) : Option XStore :=
  (scOf x.sc).map fun sc => ⟨x.d, x.addr, x.q.getLsbD 3, sc, x.hint⟩

/-! ## Small g-register classes -/

/-- d and up to two g sources with an imm32. -/
def encG (op f : Nat) (d : Reg) (a b : Src) (imm : W32) : XFields :=
  { xf op f with d := d, a := a.reg, b := b.reg, pm := pmBits a.trap b.trap false false, imm := imm }

/-- No source. -/
def noSrc : Src := ⟨0, false⟩

/-! ## Vectors (R121) -/

def qMask (m : VMask) : BitVec 5 := BitVec.ofBool m.z ++ BitVec.ofBool m.en ++ m.k

def XFields.mask (x : XFields) : VMask := ⟨x.q.getLsbD 3, x.q.getLsbD 4, x.q.extractLsb' 0 3⟩

def encV (op f : Nat) (d a b c : Reg) (t : Ty) (rm : BitVec 3) (m : VMask) : XFields :=
  { xf op f with d := d, a := a, b := b, c := c, ty := tyCode t, rm := rm, q := qMask m }

def encV2 (op f : Nat) (o : V2) : XFields := encV op f (vf o.d) (vf o.a) (vf o.b) 0 o.ty (rmCode o.rm) o.m
def encV1 (op f : Nat) (o : V1) : XFields := encV op f (vf o.d) (vf o.a) 0 0 o.ty (rmCode o.rm) o.m
def encV3 (op f : Nat) (o : V3) : XFields := encV op f (vf o.d) (vf o.a) (vf o.b) (vf o.c) o.ty (rmCode o.rm) o.m
def encCmp (f : Nat) (o : VCmpOp) : XFields := encV 0x11 f (kf o.d) (vf o.a) (vf o.b) 0 o.ty 0 o.m

def decV2 (x : XFields) : Option V2 :=
  match tyOf x.ty, rmOf x.rm with
  | some t, some r => some ⟨fv x.d, fv x.a, fv x.b, t, r, x.mask⟩
  | _, _ => none

def decV1 (x : XFields) : Option V1 :=
  match tyOf x.ty, rmOf x.rm with
  | some t, some r => some ⟨fv x.d, fv x.a, t, r, x.mask⟩
  | _, _ => none

def decV3 (x : XFields) : Option V3 :=
  match tyOf x.ty, rmOf x.rm with
  | some t, some r => some ⟨fv x.d, fv x.a, fv x.b, fv x.c, t, r, x.mask⟩
  | _, _ => none

def decCmp (x : XFields) : Option VCmpOp := (tyOf x.ty).map fun t => ⟨fk x.d, fv x.a, fv x.b, t, x.mask⟩

def decVSel (x : XFields) : Option VSelOp :=
  (tyOf x.ty).map fun t => ⟨fv x.d, fv x.a, fv x.b, fk x.c, t, x.mask⟩

def encCvt (o : VCvtOp) : XFields :=
  { encV 0x12 0 (vf o.d) (vf o.a) 0 0 o.sty (rmCode o.rm) o.m with
      f := BitVec.ofBool o.sat ++ tyCode o.dty, imm := o.part.setWidth 32 }

def decCvt (x : XFields) : Option VCvtOp :=
  match tyOf (x.f.setWidth 4), tyOf x.ty, rmOf x.rm with
  | some dt, some st, some r => some ⟨fv x.d, fv x.a, dt, st, x.f.getLsbD 4, r, x.imm.setWidth 3, x.mask⟩
  | _, _, _ => none

/-- The hint of VMEM stands in rm[1:0] (R48). -/
def hintRm (h : Hint) : BitVec 3 := (hintCode h).setWidth 3

def encVm1 (f : Nat) (o : VMem1) : XFields :=
  { encV 0x15 f (vf o.d) o.a.reg 0 0 o.ty (hintRm o.hint) o.m with
      pm := pmBits o.a.trap false false false, imm := o.off }
def encVm2 (f : Nat) (o : VMem2) : XFields :=
  { encV 0x15 f (vf o.d) o.a.reg o.b.reg 0 o.ty (hintRm o.hint) o.m with
      pm := pmBits o.a.trap o.b.trap false false, imm := o.off }
def encVmX (f : Nat) (o : VMemX) : XFields :=
  { encV 0x15 f (vf o.d) o.a.reg (vf o.b) 0 o.ty (hintRm o.hint) o.m with
      pm := pmBits o.a.trap false false false, imm := o.off }

def XFields.vhint (x : XFields) : Hint := hintOf (x.rm.setWidth 2)

def decVm1 (x : XFields) : Option VMem1 := (tyOf x.ty).map fun t => ⟨fv x.d, x.srcA, x.imm, t, x.vhint, x.mask⟩
def decVm2 (x : XFields) : Option VMem2 :=
  (tyOf x.ty).map fun t => ⟨fv x.d, x.srcA, x.srcB, x.imm, t, x.vhint, x.mask⟩
def decVmX (x : XFields) : Option VMemX :=
  (tyOf x.ty).map fun t => ⟨fv x.d, x.srcA, fv x.b, x.imm, t, x.vhint, x.mask⟩

/-! ## MMA, ACC, GG (R140, R146, R152) -/

def MOp.isQlm : MOp → Bool
  | .qlm _ => true
  | .reg _ => false

def MOp.field : MOp → Reg
  | .qlm n => n.reg
  | .reg v => vf v

def MOp.trap : MOp → Bool
  | .qlm n => n.trap
  | .reg _ => false

def encMma (o : MmaOp) : XFields :=
  { xf 0x20 0 with f := mmaCode o.f, d := af o.d, a := o.a.field, b := o.b.field
                   q := (0 : BitVec 2) ++ BitVec.ofBool o.clr ++ BitVec.ofBool o.b.isQlm ++ BitVec.ofBool o.a.isQlm
                   pm := pmBits o.a.trap o.b.trap false false }

def decMma (x : XFields) : Option MmaOp :=
  (mmaOf x.f).map fun f =>
    ⟨f, fa x.d, if x.q.getLsbD 0 then .qlm x.srcA else .reg (fv x.a),
      if x.q.getLsbD 1 then .qlm x.srcB else .reg (fv x.b), x.q.getLsbD 2⟩

def encAccMem (f : Nat) (o : AccMem) : XFields :=
  { xf 0x21 f with d := af o.d, a := o.a.reg, ty := accTyCode o.ty, q := (hintCode o.hint).setWidth 5
                   pm := pmBits o.a.trap false false false, imm := o.off }

def decAccMem (x : XFields) : Option AccMem := (accTyOf x.ty).map fun t => ⟨fa x.d, x.srcA, t, x.hint, x.imm⟩

def encAMov : AMovOp → XFields
  | .toV d a p => { xf 0x21 3 with d := vf d, a := af a, imm := p.setWidth 32 }
  | .toA d a p => { xf 0x21 3 with d := af d, a := vf a, q := 1, imm := p.setWidth 32 }

def decAMov (x : XFields) : AMovOp :=
  if x.q.getLsbD 0 then .toA (fa x.d) (fv x.a) (x.imm.setWidth 2) else .toV (fv x.d) (fa x.a) (x.imm.setWidth 2)

def encGgMask (o : GgMaskOp) : XFields :=
  encG 0x22 2 (kf o.d) o.a o.b ((0 : BitVec 12) ++ o.col0 ++ o.row0 ++ o.cl)

def decGgMask (x : XFields) : GgMaskOp :=
  ⟨fk x.d, x.srcA, x.srcB, x.imm.extractLsb' 0 4, x.imm.extractLsb' 4 8, x.imm.extractLsb' 12 8⟩

/-! ## AMO (R215) -/

def encAmoWith (f : Nat) (dst : Dst) (a b c : Src) (off : W32) (t : Ty) (rm : Rm) (aq rl : Bool) (sc : Scope)
    (h : Hint) : XFields :=
  { xf 0x50 f with d := dst.field, a := a.reg, b := b.reg, c := c.reg, e := dst.e.reg
                   q := qMem dst.isRem rl aq h, sc := scCode sc, rm := rmCode rm, ty := tyCode t
                   pm := pmBits a.trap b.trap c.trap dst.e.trap, imm := off }

def encAmo (f : Nat) (o : AmoOp) : XFields :=
  encAmoWith f o.dst o.a o.b noSrc o.off o.ty o.rm o.aq o.rl o.sc o.hint
def encCas (o : CasOp) : XFields := encAmoWith 1 o.dst o.a o.b o.c o.off o.ty .rne o.aq o.rl o.sc o.hint

def decAmo (x : XFields) : Option AmoOp :=
  match tyOf x.ty, rmOf x.rm, scOf x.sc with
  | some t, some r, some s => some ⟨x.dst, x.srcA, x.srcB, x.imm, t, r, x.q.getLsbD 2, x.q.getLsbD 3, s, x.hint⟩
  | _, _, _ => none

def decCas (x : XFields) : Option CasOp :=
  match tyOf x.ty, scOf x.sc with
  | some t, some s => some ⟨x.dst, x.srcA, x.srcB, x.srcC, x.imm, t, x.q.getLsbD 2, x.q.getLsbD 3, s, x.hint⟩
  | _, _ => none

/-! ## Strands (R251) -/

def encSend (d : Reg) (a : Src) : SendItem → XFields
  | .g b => encG 0x70 1 d a b 0
  | .v c => { encG 0x70 1 d a noSrc 0 with c := vf c, q := 1 }

def decSend (x : XFields) : SendItem := if x.q.getLsbD 0 then .v (fv x.c) else .g x.srcB

def encRecv (f : Nat) (d : Reg) (a : Src) : RecvItem → XFields
  | .g => encG 0x70 f d a noSrc 0
  | .v c => { encG 0x70 f d a noSrc 0 with c := vf c, q := 1 }

def decRecv (x : XFields) : RecvItem := if x.q.getLsbD 0 then .v (fv x.c) else .g

/-! ## The encoder -/

/-- The encoding of an instruction; events have none. -/
def Instr.enc : Instr → Option Enc
  | .add d a r => some (.native (nf 0x01 d a r 0))
  | .sub d a r => some (.native (nf 0x01 d a r 1))
  | .mul d a r => some (.native (nf 0x01 d a r 2))
  | .mulh d a r => some (.native (nf 0x01 d a r 3))
  | .mulhu d a r => some (.native (nf 0x01 d a r 4))
  | .div d a r => some (.native (nf 0x01 d a r 5))
  | .divu d a r => some (.native (nf 0x01 d a r 6))
  | .rem d a r => some (.native (nf 0x01 d a r 7))
  | .remu d a r => some (.native (nf 0x01 d a r 8))
  | .and d a r => some (.native (nf 0x01 d a r 9))
  | .or d a r => some (.native (nf 0x01 d a r 10))
  | .xor d a r => some (.native (nf 0x01 d a r 11))
  | .andn d a r => some (.native (nf 0x01 d a r 12))
  | .shl d a r => some (.native (nf 0x01 d a r 13))
  | .shr d a r => some (.native (nf 0x01 d a r 14))
  | .sra d a r => some (.native (nf 0x01 d a r 15))
  | .rol d a r => some (.native (nf 0x01 d a r 16))
  | .min d a r => some (.native (nf 0x01 d a r 17))
  | .max d a r => some (.native (nf 0x01 d a r 18))
  | .minu d a r => some (.native (nf 0x01 d a r 19))
  | .maxu d a r => some (.native (nf 0x01 d a r 20))
  | .cmpEq d a r => some (.native (nf 0x01 d a r 21))
  | .cmpNe d a r => some (.native (nf 0x01 d a r 22))
  | .cmpLt d a r => some (.native (nf 0x01 d a r 23))
  | .cmpLtu d a r => some (.native (nf 0x01 d a r 24))
  | .cmpGe d a r => some (.native (nf 0x01 d a r 25))
  | .cmpGeu d a r => some (.native (nf 0x01 d a r 26))
  | .mov d a => some (.native (nf 0x02 d a 0 0))
  | .clz d a => some (.native (nf 0x02 d a 0 1))
  | .ctz d a => some (.native (nf 0x02 d a 0 2))
  | .popc d a => some (.native (nf 0x02 d a 0 3))
  | .sextB d a => some (.native (nf 0x02 d a 0 4))
  | .sextH d a => some (.native (nf 0x02 d a 0 5))
  | .sextW d a => some (.native (nf 0x02 d a 0 6))
  | .zextB d a => some (.native (nf 0x02 d a 0 7))
  | .zextH d a => some (.native (nf 0x02 d a 0 8))
  | .zextW d a => some (.native (nf 0x02 d a 0 9))
  | .not d a => some (.native (nf 0x02 d a 0 10))
  | .brev d a => some (.native (nf 0x02 d a 0 11))
  | .take d a => some (.native (nf 0x02 d a 0 12))
  | .ptest d a => some (.native (nf 0x02 d a 0 13))
  | .pempty a => some (.native (nf 0x02 0 a 0 14))
  | .addi d a i => some (.native (ni 0x3 d a i))
  | .andi d a i => some (.native (ni 0x4 d a i))
  | .ori d a i => some (.native (ni 0x5 d a i))
  | .xori d a i => some (.native (ni 0x6 d a i))
  | .shli d a i => some (.native (ni 0x7 d a i))
  | .shri d a i => some (.native (ni 0x8 d a i))
  | .srai d a i => some (.native (ni 0x9 d a i))
  | .cmpiEq d a i => some (.native (ni 0xa d a i))
  | .cmpiLt d a i => some (.native (ni 0xb d a i))
  | .cmpiLtu d a i => some (.native (ni 0xc d a i))
  | .ldB d a i => some (.native (ni 0x10 d a i))
  | .ldH d a i => some (.native (ni 0x11 d a i))
  | .ldW d a i => some (.native (ni 0x12 d a i))
  | .ldD d a i => some (.native (ni 0x13 d a i))
  | .ldsB d a i => some (.native (ni 0x14 d a i))
  | .ldsH d a i => some (.native (ni 0x15 d a i))
  | .ldsW d a i => some (.native (ni 0x16 d a i))
  | .stB d a i => some (.native (ni 0x18 d a i))
  | .stH d a i => some (.native (ni 0x19 d a i))
  | .stW d a i => some (.native (ni 0x1a d a i))
  | .stD d a i => some (.native (ni 0x1b d a i))
  | .beq a r off => some (.native (nbr 0x20 a r off))
  | .bne a r off => some (.native (nbr 0x21 a r off))
  | .blt a r off => some (.native (nbr 0x22 a r off))
  | .bltu a r off => some (.native (nbr 0x23 a r off))
  | .bge a r off => some (.native (nbr 0x24 a r off))
  | .bgeu a r off => some (.native (nbr 0x25 a r off))
  | .br off => some (.native (nj 0x26 off))
  | .call off => some (.native (nj 0x27 off))
  | .jr d a => some (.native (nf 0x28 d a 0 0))
  | .dbnz a off => some (.native (nbr 0x29 a 0 off))
  | .endTask => some (.native (nf 0x2A 0 0 0 0))
  | .vadd d a r t => some (.native (nvec 0x30 d a r t))
  | .vsub d a r t => some (.native (nvec 0x31 d a r t))
  | .vmul d a r t => some (.native (nvec 0x32 d a r t))
  | .vmin d a r t => some (.native (nvec 0x33 d a r t))
  | .vmax d a r t => some (.native (nvec 0x34 d a r t))
  | .vand d a r t => some (.native (nvec 0x35 d a r t))
  | .vor d a r t => some (.native (nvec 0x36 d a r t))
  | .vxor d a r t => some (.native (nvec 0x37 d a r t))
  | .spliceWord idx ha hb hc hd => some (.splice ⟨hd, hc, hb, ha, idx⟩)
  | .addX o => some (.ext (encXInt 0 o.dst o.a o.y noSrc))
  | .subX o => some (.ext (encXInt 1 o.dst o.a o.y noSrc))
  | .mulX o => some (.ext (encXInt 2 o.dst o.a o.y noSrc))
  | .mulhX o => some (.ext (encXInt 3 o.dst o.a o.y noSrc))
  | .mulhuX o => some (.ext (encXInt 4 o.dst o.a o.y noSrc))
  | .divX o => some (.ext (encXInt 5 o.dst o.a o.y noSrc))
  | .divuX o => some (.ext (encXInt 6 o.dst o.a o.y noSrc))
  | .remX o => some (.ext (encXInt 7 o.dst o.a o.y noSrc))
  | .remuX o => some (.ext (encXInt 8 o.dst o.a o.y noSrc))
  | .andX o => some (.ext (encXInt 9 o.dst o.a o.y noSrc))
  | .orX o => some (.ext (encXInt 10 o.dst o.a o.y noSrc))
  | .xorX o => some (.ext (encXInt 11 o.dst o.a o.y noSrc))
  | .andnX o => some (.ext (encXInt 12 o.dst o.a o.y noSrc))
  | .shlX o => some (.ext (encXInt 13 o.dst o.a o.y noSrc))
  | .shrX o => some (.ext (encXInt 14 o.dst o.a o.y noSrc))
  | .sraX o => some (.ext (encXInt 15 o.dst o.a o.y noSrc))
  | .rolX o => some (.ext (encXInt 16 o.dst o.a o.y noSrc))
  | .minX o => some (.ext (encXInt 17 o.dst o.a o.y noSrc))
  | .maxX o => some (.ext (encXInt 18 o.dst o.a o.y noSrc))
  | .minuX o => some (.ext (encXInt 19 o.dst o.a o.y noSrc))
  | .maxuX o => some (.ext (encXInt 20 o.dst o.a o.y noSrc))
  | .cmpEqX o => some (.ext (encXInt 21 o.dst o.a o.y noSrc))
  | .cmpNeX o => some (.ext (encXInt 22 o.dst o.a o.y noSrc))
  | .cmpLtX o => some (.ext (encXInt 23 o.dst o.a o.y noSrc))
  | .cmpLtuX o => some (.ext (encXInt 24 o.dst o.a o.y noSrc))
  | .cmpGeX o => some (.ext (encXInt 25 o.dst o.a o.y noSrc))
  | .cmpGeuX o => some (.ext (encXInt 26 o.dst o.a o.y noSrc))
  | .sel o => some (.ext (encXInt 27 o.dst o.a o.y o.c))
  | .bfx o => some (.ext (encBf 28 o.dst o.a noSrc o.pos o.width1 o.sx))
  | .bfi o => some (.ext (encBf 29 o.dst o.a o.b o.pos o.width1 false))
  | .addpc dst off => some (.ext { encXInt 30 dst noSrc (.reg noSrc) noSrc with imm := off })
  | .li dst y => some (.ext (encXInt 31 dst noSrc y noSrc))
  | .ldBX o => some (.ext (encLoad 0 o))
  | .ldHX o => some (.ext (encLoad 1 o))
  | .ldWX o => some (.ext (encLoad 2 o))
  | .ldDX o => some (.ext (encLoad 3 o))
  | .ldsBX o => some (.ext (encLoad 4 o))
  | .ldsHX o => some (.ext (encLoad 5 o))
  | .ldsWX o => some (.ext (encLoad 6 o))
  | .stBX o => some (.ext (encStore 8 o))
  | .stHX o => some (.ext (encStore 9 o))
  | .stWX o => some (.ext (encStore 10 o))
  | .stDX o => some (.ext (encStore 11 o))
  | .pref m h => some (.ext (encStore 12 ⟨0, m, false, .dflt, h⟩))
  | .put n a e => some (.ext { xf 0x03 0 with d := n.setWidth 6, a := a.reg, e := e.reg, pm := pmBits a.trap false false e.trap })
  | .pset d p => some (.ext { xf 0x03 1 with d := d, imm := (presCode p).setWidth 32 })
  | .beqX a r off => some (.ext (encG 0x04 0 0 a r off))
  | .bneX a r off => some (.ext (encG 0x04 1 0 a r off))
  | .bltX a r off => some (.ext (encG 0x04 2 0 a r off))
  | .bltuX a r off => some (.ext (encG 0x04 3 0 a r off))
  | .bgeX a r off => some (.ext (encG 0x04 4 0 a r off))
  | .bgeuX a r off => some (.ext (encG 0x04 5 0 a r off))
  | .bX off => some (.ext (encG 0x04 6 0 noSrc noSrc off))
  | .callX off => some (.ext (encG 0x04 7 0 noSrc noSrc off))
  | .vaddX o => some (.ext (encV2 0x10 0 o))
  | .vsubX o => some (.ext (encV2 0x10 1 o))
  | .vmulX o => some (.ext (encV2 0x10 2 o))
  | .vdiv o => some (.ext (encV2 0x10 3 o))
  | .vminX o => some (.ext (encV2 0x10 4 o))
  | .vmaxX o => some (.ext (encV2 0x10 5 o))
  | .vabs o => some (.ext (encV1 0x10 6 o))
  | .vneg o => some (.ext (encV1 0x10 7 o))
  | .vsqrt o => some (.ext (encV1 0x10 8 o))
  | .vfma o => some (.ext (encV3 0x10 9 o))
  | .vfms o => some (.ext (encV3 0x10 10 o))
  | .vfnma o => some (.ext (encV3 0x10 11 o))
  | .vrcp o => some (.ext (encV1 0x10 12 o))
  | .vrsq o => some (.ext (encV1 0x10 13 o))
  | .vexp2 o => some (.ext (encV1 0x10 14 o))
  | .vlog2 o => some (.ext (encV1 0x10 15 o))
  | .vsel o => some (.ext (encV 0x10 16 (vf o.d) (vf o.a) (vf o.b) (kf o.c) o.ty 0 o.m))
  | .vshl o => some (.ext (encV2 0x10 17 o))
  | .vshr o => some (.ext (encV2 0x10 18 o))
  | .vsra o => some (.ext (encV2 0x10 19 o))
  | .vandX o => some (.ext (encV2 0x10 20 o))
  | .vorX o => some (.ext (encV2 0x10 21 o))
  | .vxorX o => some (.ext (encV2 0x10 22 o))
  | .vmulh o => some (.ext (encV2 0x10 23 o))
  | .vcmpEq o => some (.ext (encCmp 0 o))
  | .vcmpNe o => some (.ext (encCmp 1 o))
  | .vcmpLt o => some (.ext (encCmp 2 o))
  | .vcmpLe o => some (.ext (encCmp 3 o))
  | .vcmpGt o => some (.ext (encCmp 4 o))
  | .vcmpGe o => some (.ext (encCmp 5 o))
  | .vcmpUn o => some (.ext (encCmp 6 o))
  | .vcmpLtu o => some (.ext (encCmp 7 o))
  | .vcvt o => some (.ext (encCvt o))
  | .vredAdd o => some (.ext (encV1 0x13 0 o))
  | .vredMax o => some (.ext (encV1 0x13 1 o))
  | .vredMin o => some (.ext (encV1 0x13 2 o))
  | .vredAnd o => some (.ext (encV1 0x13 3 o))
  | .vredOr o => some (.ext (encV1 0x13 4 o))
  | .vperm o => some (.ext (encV 0x14 0 (vf o.d) (vf o.a) (vf o.b) 0 o.ty 0 o.m))
  | .vbcast o => some (.ext { encV 0x14 1 (vf o.d) o.a.reg 0 0 o.ty 0 o.m with pm := pmBits o.a.trap false false false })
  | .vextr o => some (.ext { encG 0x14 2 o.d noSrc o.b o.idx with a := vf o.a, ty := tyCode o.ty })
  | .vins o => some (.ext { encG 0x14 3 (vf o.d) o.a o.b o.idx with ty := tyCode o.ty })
  | .vslide o => some (.ext { encV 0x14 4 (vf o.d) (vf o.a) (vf o.b) 0 o.ty 0 o.m with imm := o.s.setWidth 32 })
  | .viota o => some (.ext (encV 0x14 5 (vf o.d) 0 0 0 o.ty 0 o.m))
  | .vld o => some (.ext (encVm1 0 o))
  | .vst o => some (.ext (encVm1 1 o))
  | .vlds o => some (.ext (encVm2 2 o))
  | .vsts o => some (.ext (encVm2 3 o))
  | .vgath o => some (.ext (encVmX 4 o))
  | .vscat o => some (.ext (encVmX 5 o))
  | .vldb o => some (.ext (encVm1 6 o))
  | .kand d a r => some (.ext { xf 0x16 0 with d := kf d, a := kf a, b := kf r })
  | .kor d a r => some (.ext { xf 0x16 1 with d := kf d, a := kf a, b := kf r })
  | .kxor d a r => some (.ext { xf 0x16 2 with d := kf d, a := kf a, b := kf r })
  | .knot d a => some (.ext { xf 0x16 3 with d := kf d, a := kf a })
  | .kset d a n => some (.ext (encG 0x16 4 (kf d) a noSrc n))
  | .kget d a j => some (.ext { xf 0x16 5 with d := d, a := kf a, imm := j.setWidth 32 })
  | .kpopc d a => some (.ext { xf 0x16 6 with d := d, a := kf a })
  | .kfirst d a => some (.ext { xf 0x16 7 with d := d, a := kf a })
  | .mma o => some (.ext (encMma o))
  | .aclr d => some (.ext { xf 0x21 0 with d := af d })
  | .ald o => some (.ext (encAccMem 1 o))
  | .ast o => some (.ext (encAccMem 2 o))
  | .amov o => some (.ext (encAMov o))
  | .ggset a fld => some (.ext (encG 0x22 0 0 a noSrc (fld.setWidth 32)))
  | .ggrng d a ax => some (.ext (encG 0x22 1 d a noSrc (if ax then 1 else 0)))
  | .ggmask o => some (.ext (encGgMask o))
  | .spawn d a => some (.ext (encG 0x30 0 d a noSrc 0))
  | .spawnr d a r => some (.ext (encG 0x30 1 d a r 0))
  | .gang d a => some (.ext (encG 0x30 2 d a noSrc 0))
  | .depset d a r => some (.ext (encG 0x30 3 d a r 0))
  | .depdec a n => some (.ext (encG 0x30 4 0 a noSrc (n.setWidth 32)))
  | .epush a r => some (.ext (encG 0x30 5 0 a r 0))
  | .epop d a => some (.ext (encG 0x30 6 d a noSrc 0))
  | .cancel d a p => some (.ext (encG 0x30 7 d a noSrc (if p then 1 else 0)))
  | .barinit s a r => some (.ext (encG 0x31 0 0 a r (s.setWidth 32)))
  | .bararv s => some (.ext (encG 0x31 1 0 noSrc noSrc (s.setWidth 32)))
  | .barwait d s t => some (.ext { encG 0x31 2 d noSrc noSrc (s.setWidth 32) with q := q0 t })
  | .barsync d s t => some (.ext { encG 0x31 3 d noSrc noSrc (s.setWidth 32) with q := q0 t })
  | .barack s a => some (.ext (encG 0x31 4 0 a noSrc (s.setWidth 32)))
  | .barpois s => some (.ext (encG 0x31 5 0 noSrc noSrc (s.setWidth 32)))
  | .barstat d s => some (.ext (encG 0x31 6 d noSrc noSrc (s.setWidth 32)))
  | .l2pin d a r w => some (.ext (encG 0x40 0 d a r (w.setWidth 32)))
  | .l2unpin d a => some (.ext (encG 0x40 1 d a noSrc 0))
  | .l2stat d a c => some (.ext (encG 0x40 2 d a noSrc (if c then 1 else 0)))
  | .l2flush d a r => some (.ext (encG 0x40 3 d a r 0))
  | .amoSwap o => some (.ext (encAmo 0 o))
  | .amoCas o => some (.ext (encCas o))
  | .amoAdd o => some (.ext (encAmo 2 o))
  | .amoAnd o => some (.ext (encAmo 3 o))
  | .amoOr o => some (.ext (encAmo 4 o))
  | .amoXor o => some (.ext (encAmo 5 o))
  | .amoMin o => some (.ext (encAmo 6 o))
  | .amoMax o => some (.ext (encAmo 7 o))
  | .amoMinu o => some (.ext (encAmo 8 o))
  | .amoMaxu o => some (.ext (encAmo 9 o))
  | .amoFadd o => some (.ext (encAmo 10 o))
  | .amoFmin o => some (.ext (encAmo 11 o))
  | .amoFmax o => some (.ext (encAmo 12 o))
  | .fence sc => some (.ext { xf 0x51 0 with sc := scCode sc })
  | .ifence => some (.ext (xf 0x51 1))
  | .drain => some (.ext (xf 0x51 2))
  | .sendam a r c e i =>
    some (.ext { encG 0x52 0 0 a r i with c := c.reg, e := e.reg, pm := pmBits a.trap r.trap c.trap e.trap })
  | .cpset idx a => some (.ext (encG 0x60 0 0 a noSrc (idx.setWidth 32)))
  | .cpgo d => some (.ext (encG 0x60 1 d noSrc noSrc 0))
  | .cpstat d a => some (.ext (encG 0x60 2 d a noSrc 0))
  | .cpabort d a => some (.ext (encG 0x60 3 d a noSrc 0))
  | .waitany d a c => some (.ext { encG 0x61 0 d a noSrc 0 with q := q0 c })
  | .waitall d a c => some (.ext { encG 0x61 1 d a noSrc 0 with q := q0 c })
  | .ffrdy d a => some (.ext (encG 0x61 2 d a noSrc 0))
  | .tagclr a => some (.ext (encG 0x61 3 0 a noSrc 0))
  | .tagget d t => some (.ext (encG 0x61 4 d noSrc noSrc (t.setWidth 32)))
  | .creduce d a => some (.ext { encG 0x62 0 d a noSrc 0 with ty := 11 })
  | .callred d a => some (.ext { encG 0x62 1 d a noSrc 0 with ty := 11 })
  | .cbcast d a => some (.ext (encG 0x62 2 d a noSrc 0))
  | .cgather d a => some (.ext (encG 0x62 3 d a noSrc 0))
  | .sopen d a s l => some (.ext (encG 0x70 0 d a noSrc ((0 : BitVec 25) ++ l ++ s)))
  | .ssend d a it => some (.ext (encSend d a it))
  | .srecv d a it => some (.ext (encRecv 2 d a it))
  | .spoll d a it => some (.ext (encRecv 3 d a it))
  | .spass d a r => some (.ext (encG 0x70 4 d a r 0))
  | .saccept d a r => some (.ext (encG 0x70 5 d a r 0))
  | .sclose a => some (.ext (encG 0x70 6 0 a noSrc 0))
  | .sstat d a => some (.ext (encG 0x70 7 d a noSrc 0))
  | .swatch a t => some (.ext (encG 0x70 8 0 a noSrc (t.setWidth 32)))
  | .sflush d a => some (.ext (encG 0x70 9 d a noSrc 0))
  | .sfcfg d a r => some (.ext (encG 0x78 0 d a r 0))
  | .sfscl d a r e => some (.ext (encG 0x78 1 d a r (e.setWidth 32)))
  | .sfbias d a r i16 s => some (.ext { encG 0x78 2 d a r (s.setWidth 32) with ty := if i16 then 8 else 0 })
  | .sfseed d a r => some (.ext (encG 0x78 3 d a r 0))
  | .sfrun d a => some (.ext (encG 0x78 4 d a noSrc 0))
  | .sfwait d a t => some (.ext { encG 0x78 5 d a noSrc 0 with q := q0 t })
  | .sfsmp d a r fp32 => some (.ext { encG 0x78 6 d a r 0 with ty := if fp32 then 1 else 0 })
  | .sfhalt d a => some (.ext (encG 0x78 7 d a noSrc 0))
  | .sfstat d a => some (.ext (encG 0x78 8 d a noSrc 0))
  | .sfdln d a r c => some (.ext { encG 0x78 9 d a r 0 with c := c.reg, pm := pmBits a.trap r.trap c.trap false })
  | .sfacpt d a r => some (.ext (encG 0x78 10 d a r 0))
  | .sfrel d a => some (.ext (encG 0x78 11 d a noSrc 0))
  | .splload a => some (.ext (encG 0x7C 0 0 a noSrc 0))
  | .splget d a => some (.ext (encG 0x7C 1 d a noSrc 0))
  | .trap i => some (.ext (encG 0x7D 0 0 noSrc noSrc i))
  | .rdsr d idx => some (.ext (encG 0x7D 1 d noSrc noSrc (idx.setWidth 32)))
  | .wrsr idx a => some (.ext (encG 0x7D 2 0 a noSrc (idx.setWidth 32)))
  | .pair d => some (.ext (encG 0x7D 3 d noSrc noSrc 0))
  | .unpair d => some (.ext (encG 0x7D 4 d noSrc noSrc 0))
  | .pmcfg d n a => some (.ext (encG 0x7E 0 d a noSrc (n.setWidth 32)))
  | .pmrd d n => some (.ext (encG 0x7E 1 d noSrc noSrc (n.setWidth 32)))
  | .mark a i => some (.ext (encG 0x7E 2 0 a noSrc i))
  | _ => none

/-! ## Picking the instruction from the fields -/

/-- The instruction that the native majors and functions name (R56). -/
noncomputable def pickNative (n : NFields) : Option Instr :=
  match n.op.toNat with
  | 0x01 => pickInt3 n
  | 0x02 => pickInt1 n
  | 0x3 => some (.addi n.d n.a n.imm)
  | 0x4 => some (.andi n.d n.a n.imm)
  | 0x5 => some (.ori n.d n.a n.imm)
  | 0x6 => some (.xori n.d n.a n.imm)
  | 0x7 => some (.shli n.d n.a n.imm)
  | 0x8 => some (.shri n.d n.a n.imm)
  | 0x9 => some (.srai n.d n.a n.imm)
  | 0xa => some (.cmpiEq n.d n.a n.imm)
  | 0xb => some (.cmpiLt n.d n.a n.imm)
  | 0xc => some (.cmpiLtu n.d n.a n.imm)
  | 0x10 => some (.ldB n.d n.a n.imm)
  | 0x11 => some (.ldH n.d n.a n.imm)
  | 0x12 => some (.ldW n.d n.a n.imm)
  | 0x13 => some (.ldD n.d n.a n.imm)
  | 0x14 => some (.ldsB n.d n.a n.imm)
  | 0x15 => some (.ldsH n.d n.a n.imm)
  | 0x16 => some (.ldsW n.d n.a n.imm)
  | 0x18 => some (.stB n.d n.a n.imm)
  | 0x19 => some (.stH n.d n.a n.imm)
  | 0x1a => some (.stW n.d n.a n.imm)
  | 0x1b => some (.stD n.d n.a n.imm)
  | 0x20 => some (.beq n.d n.a n.imm)
  | 0x21 => some (.bne n.d n.a n.imm)
  | 0x22 => some (.blt n.d n.a n.imm)
  | 0x23 => some (.bltu n.d n.a n.imm)
  | 0x24 => some (.bge n.d n.a n.imm)
  | 0x25 => some (.bgeu n.d n.a n.imm)
  | 0x26 => some (.br n.off23)
  | 0x27 => some (.call n.off23)
  | 0x28 => some (.jr n.d n.a)
  | 0x29 => some (.dbnz n.d n.imm)
  | 0x2a => some .endTask
  | 0x30 => (tyOf (n.f.setWidth 4)).map (.vadd (fv n.d) (fv n.a) (fv n.b))
  | 0x31 => (tyOf (n.f.setWidth 4)).map (.vsub (fv n.d) (fv n.a) (fv n.b))
  | 0x32 => (tyOf (n.f.setWidth 4)).map (.vmul (fv n.d) (fv n.a) (fv n.b))
  | 0x33 => (tyOf (n.f.setWidth 4)).map (.vmin (fv n.d) (fv n.a) (fv n.b))
  | 0x34 => (tyOf (n.f.setWidth 4)).map (.vmax (fv n.d) (fv n.a) (fv n.b))
  | 0x35 => (tyOf (n.f.setWidth 4)).map (.vand (fv n.d) (fv n.a) (fv n.b))
  | 0x36 => (tyOf (n.f.setWidth 4)).map (.vor (fv n.d) (fv n.a) (fv n.b))
  | 0x37 => (tyOf (n.f.setWidth 4)).map (.vxor (fv n.d) (fv n.a) (fv n.b))
  | _ => none
where
  /-- INT3 by f (R56). -/
  pickInt3 (n : NFields) : Option Instr :=
    match n.f.toNat with
    | 0 => some (.add n.d n.a n.b)
    | 1 => some (.sub n.d n.a n.b)
    | 2 => some (.mul n.d n.a n.b)
    | 3 => some (.mulh n.d n.a n.b)
    | 4 => some (.mulhu n.d n.a n.b)
    | 5 => some (.div n.d n.a n.b)
    | 6 => some (.divu n.d n.a n.b)
    | 7 => some (.rem n.d n.a n.b)
    | 8 => some (.remu n.d n.a n.b)
    | 9 => some (.and n.d n.a n.b)
    | 10 => some (.or n.d n.a n.b)
    | 11 => some (.xor n.d n.a n.b)
    | 12 => some (.andn n.d n.a n.b)
    | 13 => some (.shl n.d n.a n.b)
    | 14 => some (.shr n.d n.a n.b)
    | 15 => some (.sra n.d n.a n.b)
    | 16 => some (.rol n.d n.a n.b)
    | 17 => some (.min n.d n.a n.b)
    | 18 => some (.max n.d n.a n.b)
    | 19 => some (.minu n.d n.a n.b)
    | 20 => some (.maxu n.d n.a n.b)
    | 21 => some (.cmpEq n.d n.a n.b)
    | 22 => some (.cmpNe n.d n.a n.b)
    | 23 => some (.cmpLt n.d n.a n.b)
    | 24 => some (.cmpLtu n.d n.a n.b)
    | 25 => some (.cmpGe n.d n.a n.b)
    | 26 => some (.cmpGeu n.d n.a n.b)
    | _ => none
  /-- INT1 by f (R56). -/
  pickInt1 (n : NFields) : Option Instr :=
    match n.f.toNat with
    | 0 => some (.mov n.d n.a)
    | 1 => some (.clz n.d n.a)
    | 2 => some (.ctz n.d n.a)
    | 3 => some (.popc n.d n.a)
    | 4 => some (.sextB n.d n.a)
    | 5 => some (.sextH n.d n.a)
    | 6 => some (.sextW n.d n.a)
    | 7 => some (.zextB n.d n.a)
    | 8 => some (.zextH n.d n.a)
    | 9 => some (.zextW n.d n.a)
    | 10 => some (.not n.d n.a)
    | 11 => some (.brev n.d n.a)
    | 12 => some (.take n.d n.a)
    | 13 => some (.ptest n.d n.a)
    | 14 => some (.pempty n.a)
    | _ => none

/-- Functions 0 to 31 of XINT (R57). -/
def pickXInt (x : XFields) : Option Instr :=
  match x.f.toNat with
  | 28 => some (.bfx ⟨x.dst, x.srcA, x.imm.extractLsb' 0 6, x.imm.extractLsb' 6 6, x.imm.getLsbD 12⟩)
  | 29 => some (.bfi ⟨x.dst, x.srcA, x.srcB, x.imm.extractLsb' 0 6, x.imm.extractLsb' 6 6⟩)
  | 30 => some (.addpc x.dst x.imm)
  | n => x.y.bind (pickY n)
where
  /-- The functions that take the second operand y. -/
  pickY (n : Nat) (y : YOp) : Option Instr :=
    match n with
    | 0 => some (.addX ⟨x.dst, x.srcA, y⟩)
    | 1 => some (.subX ⟨x.dst, x.srcA, y⟩)
    | 2 => some (.mulX ⟨x.dst, x.srcA, y⟩)
    | 3 => some (.mulhX ⟨x.dst, x.srcA, y⟩)
    | 4 => some (.mulhuX ⟨x.dst, x.srcA, y⟩)
    | 5 => some (.divX ⟨x.dst, x.srcA, y⟩)
    | 6 => some (.divuX ⟨x.dst, x.srcA, y⟩)
    | 7 => some (.remX ⟨x.dst, x.srcA, y⟩)
    | 8 => some (.remuX ⟨x.dst, x.srcA, y⟩)
    | 9 => some (.andX ⟨x.dst, x.srcA, y⟩)
    | 10 => some (.orX ⟨x.dst, x.srcA, y⟩)
    | 11 => some (.xorX ⟨x.dst, x.srcA, y⟩)
    | 12 => some (.andnX ⟨x.dst, x.srcA, y⟩)
    | 13 => some (.shlX ⟨x.dst, x.srcA, y⟩)
    | 14 => some (.shrX ⟨x.dst, x.srcA, y⟩)
    | 15 => some (.sraX ⟨x.dst, x.srcA, y⟩)
    | 16 => some (.rolX ⟨x.dst, x.srcA, y⟩)
    | 17 => some (.minX ⟨x.dst, x.srcA, y⟩)
    | 18 => some (.maxX ⟨x.dst, x.srcA, y⟩)
    | 19 => some (.minuX ⟨x.dst, x.srcA, y⟩)
    | 20 => some (.maxuX ⟨x.dst, x.srcA, y⟩)
    | 21 => some (.cmpEqX ⟨x.dst, x.srcA, y⟩)
    | 22 => some (.cmpNeX ⟨x.dst, x.srcA, y⟩)
    | 23 => some (.cmpLtX ⟨x.dst, x.srcA, y⟩)
    | 24 => some (.cmpLtuX ⟨x.dst, x.srcA, y⟩)
    | 25 => some (.cmpGeX ⟨x.dst, x.srcA, y⟩)
    | 26 => some (.cmpGeuX ⟨x.dst, x.srcA, y⟩)
    | 27 => some (.sel ⟨x.dst, x.srcA, y, x.srcC⟩)
    | 31 => some (.li x.dst y)
    | _ => none

def pickXMem (x : XFields) : Option Instr :=
  match x.f.toNat with
  | 0 => (decLoad x).map .ldBX
  | 1 => (decLoad x).map .ldHX
  | 2 => (decLoad x).map .ldWX
  | 3 => (decLoad x).map .ldDX
  | 4 => (decLoad x).map .ldsBX
  | 5 => (decLoad x).map .ldsHX
  | 6 => (decLoad x).map .ldsWX
  | 8 => (decStore x).map .stBX
  | 9 => (decStore x).map .stHX
  | 10 => (decStore x).map .stWX
  | 11 => (decStore x).map .stDX
  | 12 => some (.pref x.addr x.hint)
  | _ => none

def pickVArith (x : XFields) : Option Instr :=
  match x.f.toNat with
  | 0 => (decV2 x).map .vaddX
  | 1 => (decV2 x).map .vsubX
  | 2 => (decV2 x).map .vmulX
  | 3 => (decV2 x).map .vdiv
  | 4 => (decV2 x).map .vminX
  | 5 => (decV2 x).map .vmaxX
  | 6 => (decV1 x).map .vabs
  | 7 => (decV1 x).map .vneg
  | 8 => (decV1 x).map .vsqrt
  | 9 => (decV3 x).map .vfma
  | 10 => (decV3 x).map .vfms
  | 11 => (decV3 x).map .vfnma
  | 12 => (decV1 x).map .vrcp
  | 13 => (decV1 x).map .vrsq
  | 14 => (decV1 x).map .vexp2
  | 15 => (decV1 x).map .vlog2
  | 16 => (decVSel x).map .vsel
  | 17 => (decV2 x).map .vshl
  | 18 => (decV2 x).map .vshr
  | 19 => (decV2 x).map .vsra
  | 20 => (decV2 x).map .vandX
  | 21 => (decV2 x).map .vorX
  | 22 => (decV2 x).map .vxorX
  | 23 => (decV2 x).map .vmulh
  | _ => none

def pickVCmp (x : XFields) : Option Instr :=
  match x.f.toNat with
  | 0 => (decCmp x).map .vcmpEq
  | 1 => (decCmp x).map .vcmpNe
  | 2 => (decCmp x).map .vcmpLt
  | 3 => (decCmp x).map .vcmpLe
  | 4 => (decCmp x).map .vcmpGt
  | 5 => (decCmp x).map .vcmpGe
  | 6 => (decCmp x).map .vcmpUn
  | 7 => (decCmp x).map .vcmpLtu
  | _ => none

def pickVPerm (x : XFields) : Option Instr :=
  (tyOf x.ty).bind fun t =>
    match x.f.toNat with
    | 0 => some (.vperm ⟨fv x.d, fv x.a, fv x.b, t, x.mask⟩)
    | 1 => some (.vbcast ⟨fv x.d, x.srcA, t, x.mask⟩)
    | 2 => some (.vextr ⟨x.d, fv x.a, x.srcB, x.imm, t⟩)
    | 3 => some (.vins ⟨fv x.d, x.srcA, x.srcB, x.imm, t⟩)
    | 4 => some (.vslide ⟨fv x.d, fv x.a, fv x.b, x.imm.setWidth 9, t, x.mask⟩)
    | 5 => some (.viota ⟨fv x.d, t, x.mask⟩)
    | _ => none

def pickVMem (x : XFields) : Option Instr :=
  match x.f.toNat with
  | 0 => (decVm1 x).map .vld
  | 1 => (decVm1 x).map .vst
  | 2 => (decVm2 x).map .vlds
  | 3 => (decVm2 x).map .vsts
  | 4 => (decVmX x).map .vgath
  | 5 => (decVmX x).map .vscat
  | 6 => (decVm1 x).map .vldb
  | _ => none

def pickKop (x : XFields) : Option Instr :=
  match x.f.toNat with
  | 0 => some (.kand (fk x.d) (fk x.a) (fk x.b))
  | 1 => some (.kor (fk x.d) (fk x.a) (fk x.b))
  | 2 => some (.kxor (fk x.d) (fk x.a) (fk x.b))
  | 3 => some (.knot (fk x.d) (fk x.a))
  | 4 => some (.kset (fk x.d) x.srcA x.imm)
  | 5 => some (.kget x.d (fk x.a) (x.imm.setWidth 2))
  | 6 => some (.kpopc x.d (fk x.a))
  | 7 => some (.kfirst x.d (fk x.a))
  | _ => none

def pickTile (x : XFields) : Option Instr :=
  match x.op.toNat, x.f.toNat with
  | 0x21, 0 => some (.aclr (fa x.d))
  | 0x21, 1 => (decAccMem x).map .ald
  | 0x21, 2 => (decAccMem x).map .ast
  | 0x21, 3 => some (.amov (decAMov x))
  | 0x22, 0 => some (.ggset x.srcA (x.imm.setWidth 3))
  | 0x22, 1 => some (.ggrng x.d x.srcA (x.imm.getLsbD 0))
  | 0x22, 2 => some (.ggmask (decGgMask x))
  | _, _ => none

def pickTask (x : XFields) : Option Instr :=
  match x.f.toNat with
  | 0 => some (.spawn x.d x.srcA)
  | 1 => some (.spawnr x.d x.srcA x.srcB)
  | 2 => some (.gang x.d x.srcA)
  | 3 => some (.depset x.d x.srcA x.srcB)
  | 4 => some (.depdec x.srcA (x.imm.setWidth 16))
  | 5 => some (.epush x.srcA x.srcB)
  | 6 => some (.epop x.d x.srcA)
  | 7 => some (.cancel x.d x.srcA (x.imm.getLsbD 0))
  | _ => none

def pickBar (x : XFields) : Option Instr :=
  let s : BitVec 3 := x.imm.setWidth 3
  match x.f.toNat with
  | 0 => some (.barinit s x.srcA x.srcB)
  | 1 => some (.bararv s)
  | 2 => some (.barwait x.d s (x.q.getLsbD 0))
  | 3 => some (.barsync x.d s (x.q.getLsbD 0))
  | 4 => some (.barack s x.srcA)
  | 5 => some (.barpois s)
  | 6 => some (.barstat x.d s)
  | _ => none

def pickL2c (x : XFields) : Option Instr :=
  match x.f.toNat with
  | 0 => some (.l2pin x.d x.srcA x.srcB (x.imm.setWidth 4))
  | 1 => some (.l2unpin x.d x.srcA)
  | 2 => some (.l2stat x.d x.srcA (x.imm.getLsbD 0))
  | 3 => some (.l2flush x.d x.srcA x.srcB)
  | _ => none

def pickAmo (x : XFields) : Option Instr :=
  match x.f.toNat with
  | 0 => (decAmo x).map .amoSwap
  | 1 => (decCas x).map .amoCas
  | 2 => (decAmo x).map .amoAdd
  | 3 => (decAmo x).map .amoAnd
  | 4 => (decAmo x).map .amoOr
  | 5 => (decAmo x).map .amoXor
  | 6 => (decAmo x).map .amoMin
  | 7 => (decAmo x).map .amoMax
  | 8 => (decAmo x).map .amoMinu
  | 9 => (decAmo x).map .amoMaxu
  | 10 => (decAmo x).map .amoFadd
  | 11 => (decAmo x).map .amoFmin
  | 12 => (decAmo x).map .amoFmax
  | _ => none

def pickFence (x : XFields) : Option Instr :=
  match x.op.toNat, x.f.toNat with
  | 0x51, 0 => (scOf x.sc).map .fence
  | 0x51, 1 => some .ifence
  | 0x51, 2 => some .drain
  | 0x52, 0 => some (.sendam x.srcA x.srcB x.srcC x.srcE x.imm)
  | _, _ => none

def pickCopy (x : XFields) : Option Instr :=
  match x.op.toNat, x.f.toNat with
  | 0x60, 0 => some (.cpset (x.imm.setWidth 3) x.srcA)
  | 0x60, 1 => some (.cpgo x.d)
  | 0x60, 2 => some (.cpstat x.d x.srcA)
  | 0x60, 3 => some (.cpabort x.d x.srcA)
  | 0x61, 0 => some (.waitany x.d x.srcA (x.q.getLsbD 0))
  | 0x61, 1 => some (.waitall x.d x.srcA (x.q.getLsbD 0))
  | 0x61, 2 => some (.ffrdy x.d x.srcA)
  | 0x61, 3 => some (.tagclr x.srcA)
  | 0x61, 4 => some (.tagget x.d (x.imm.setWidth 6))
  | 0x62, 0 => some (.creduce x.d x.srcA)
  | 0x62, 1 => some (.callred x.d x.srcA)
  | 0x62, 2 => some (.cbcast x.d x.srcA)
  | 0x62, 3 => some (.cgather x.d x.srcA)
  | _, _ => none

def pickStr (x : XFields) : Option Instr :=
  match x.f.toNat with
  | 0 => some (.sopen x.d x.srcA (x.imm.extractLsb' 0 3) (x.imm.extractLsb' 3 4))
  | 1 => some (.ssend x.d x.srcA (decSend x))
  | 2 => some (.srecv x.d x.srcA (decRecv x))
  | 3 => some (.spoll x.d x.srcA (decRecv x))
  | 4 => some (.spass x.d x.srcA x.srcB)
  | 5 => some (.saccept x.d x.srcA x.srcB)
  | 6 => some (.sclose x.srcA)
  | 7 => some (.sstat x.d x.srcA)
  | 8 => some (.swatch x.srcA (x.imm.setWidth 6))
  | 9 => some (.sflush x.d x.srcA)
  | _ => none

def pickSf (x : XFields) : Option Instr :=
  match x.f.toNat with
  | 0 => some (.sfcfg x.d x.srcA x.srcB)
  | 1 => some (.sfscl x.d x.srcA x.srcB (x.imm.setWidth 6))
  | 2 => some (.sfbias x.d x.srcA x.srcB (x.ty == 8) (x.imm.setWidth 7))
  | 3 => some (.sfseed x.d x.srcA x.srcB)
  | 4 => some (.sfrun x.d x.srcA)
  | 5 => some (.sfwait x.d x.srcA (x.q.getLsbD 0))
  | 6 => some (.sfsmp x.d x.srcA x.srcB (x.ty == 1))
  | 7 => some (.sfhalt x.d x.srcA)
  | 8 => some (.sfstat x.d x.srcA)
  | 9 => some (.sfdln x.d x.srcA x.srcB x.srcC)
  | 10 => some (.sfacpt x.d x.srcA x.srcB)
  | 11 => some (.sfrel x.d x.srcA)
  | _ => none

def pickSys (x : XFields) : Option Instr :=
  match x.op.toNat, x.f.toNat with
  | 0x7C, 0 => some (.splload x.srcA)
  | 0x7C, 1 => some (.splget x.d x.srcA)
  | 0x7D, 0 => some (.trap x.imm)
  | 0x7D, 1 => some (.rdsr x.d (x.imm.setWidth 6))
  | 0x7D, 2 => some (.wrsr (x.imm.setWidth 6) x.srcA)
  | 0x7D, 3 => some (.pair x.d)
  | 0x7D, 4 => some (.unpair x.d)
  | 0x7E, 0 => some (.pmcfg x.d (x.imm.setWidth 2) x.srcA)
  | 0x7E, 1 => some (.pmrd x.d (x.imm.setWidth 2))
  | 0x7E, 2 => some (.mark x.srcA x.imm)
  | _, _ => none

/-- The instruction that the extended majors and functions name (R57). -/
def pickExt (x : XFields) : Option Instr :=
  match x.op.toNat with
  | 0x01 => pickXInt x
  | 0x02 => pickXMem x
  | 0x03 =>
    match x.f.toNat with
    | 0 => some (.put (x.d.setWidth 5) x.srcA x.srcE)
    | 1 => (presOf (x.imm.setWidth 2)).map (.pset x.d)
    | _ => none
  | 0x04 => pickXbr x
  | 0x10 => pickVArith x
  | 0x11 => pickVCmp x
  | 0x12 => (decCvt x).map .vcvt
  | 0x13 => pickRed x
  | 0x14 => pickVPerm x
  | 0x15 => pickVMem x
  | 0x16 => pickKop x
  | 0x20 => (decMma x).map .mma
  | 0x21 | 0x22 => pickTile x
  | 0x30 => pickTask x
  | 0x31 => pickBar x
  | 0x40 => pickL2c x
  | 0x50 => pickAmo x
  | 0x51 | 0x52 => pickFence x
  | 0x60 | 0x61 | 0x62 => pickCopy x
  | 0x70 => pickStr x
  | 0x78 => pickSf x
  | 0x7C | 0x7D | 0x7E => pickSys x
  | _ => none
where
  /-- XBR by f (R57). -/
  pickXbr (x : XFields) : Option Instr :=
    match x.f.toNat with
    | 0 => some (.beqX x.srcA x.srcB x.imm)
    | 1 => some (.bneX x.srcA x.srcB x.imm)
    | 2 => some (.bltX x.srcA x.srcB x.imm)
    | 3 => some (.bltuX x.srcA x.srcB x.imm)
    | 4 => some (.bgeX x.srcA x.srcB x.imm)
    | 5 => some (.bgeuX x.srcA x.srcB x.imm)
    | 6 => some (.bX x.imm)
    | 7 => some (.callX x.imm)
    | _ => none
  /-- VRED by f (R57). -/
  pickRed (x : XFields) : Option Instr :=
    match x.f.toNat with
    | 0 => (decV1 x).map .vredAdd
    | 1 => (decV1 x).map .vredMax
    | 2 => (decV1 x).map .vredMin
    | 3 => (decV1 x).map .vredAnd
    | 4 => (decV1 x).map .vredOr
    | _ => none

/-! ## Words and fields (R40, R44, R51) -/

def NFields.word (n : NFields) : W32 := n.f ++ n.b ++ n.a ++ n.d ++ n.op ++ (0 : BitVec 2)

def SFields.word (s : SFields) : W32 := s.hd ++ s.hc ++ s.hb ++ s.ha ++ s.idx ++ (1 : BitVec 2)

def XFields.word0 (x : XFields) : W32 :=
  x.f ++ x.b ++ x.a ++ x.d ++ x.op ++ (if x.lit.isSome then (3 : BitVec 2) else 2)

def XFields.word1 (x : XFields) : W32 := x.q ++ x.sc ++ x.rm ++ x.ty ++ x.pm ++ x.e ++ x.c

/-- The words of an encoding, the lowest address first (R3, R36). -/
def Enc.words : Enc → List W32
  | .native n => [n.word]
  | .splice s => [s.word]
  | .ext x =>
    match x.lit with
    | none => [x.word0, x.word1, x.imm]
    | some l => [x.word0, x.word1, x.imm, l.setWidth 32, l.extractLsb' 32 32]

def nfieldsOf (w : W32) : NFields :=
  ⟨w.extractLsb' 27 5, w.extractLsb' 21 6, w.extractLsb' 15 6, w.extractLsb' 9 6, w.extractLsb' 2 7⟩

def sfieldsOf (w : W32) : SFields :=
  ⟨w.extractLsb' 27 5, w.extractLsb' 21 6, w.extractLsb' 15 6, w.extractLsb' 9 6, w.extractLsb' 2 7⟩

def xfieldsOf (w0 w1 w2 : W32) (lit : Option Word) : XFields :=
  ⟨w0.extractLsb' 27 5, w0.extractLsb' 21 6, w0.extractLsb' 15 6, w0.extractLsb' 9 6, w0.extractLsb' 2 7,
   w1.extractLsb' 27 5, w1.extractLsb' 23 4, w1.extractLsb' 20 3, w1.extractLsb' 16 4, w1.extractLsb' 12 4,
   w1.extractLsb' 6 6, w1.extractLsb' 0 6, w2, lit⟩

/-- Words of an instruction by its length code (R36). -/
def wordCount (w : W32) : Nat :=
  match (w.extractLsb' 0 2).toNat with
  | 2 => 3
  | 3 => 5
  | _ => 1

/-- Accepts a picked instruction when it is well formed and encodes to just these fields (R50, R58). -/
def accept (e : Enc) : Option Instr → Except DecErr Instr
  | none => .error .reservedCode
  | some i => if i.enc = some e then (if i.wf then .ok i else .error .illFormed) else .error .badField

/-- The decoder on the words of an extended form (R45 to R49). -/
def decodeExt (w0 w1 w2 : W32) (lit : Option Word) : Except DecErr Instr :=
  accept (.ext (xfieldsOf w0 w1 w2 lit)) (pickExt (xfieldsOf w0 w1 w2 lit))

/-- The decoder on words: total, and every rejection has its name. -/
noncomputable def decodeWords : List W32 → Except DecErr Instr
  | [] => .error .short
  | w0 :: rest =>
    match (w0.extractLsb' 0 2).toNat, rest with
    | 0, _ => accept (.native (nfieldsOf w0)) (pickNative (nfieldsOf w0))
    | 1, _ =>
      let s := sfieldsOf w0
      .ok (.spliceWord s.idx s.ha s.hb s.hc s.hd)
    | 2, w1 :: w2 :: _ => decodeExt w0 w1 w2 none
    | 3, w1 :: w2 :: w3 :: w4 :: _ => decodeExt w0 w1 w2 (some (w4 ++ w3))
    | _, _ => .error .short

/-- The words of an instruction that has an encoding. -/
def encode (i : Instr) : Option (List W32) := i.enc.map Enc.words

/-- Little-endian words of a byte string (R3). -/
def wordsOf : List Byte → List W32
  | b0 :: b1 :: b2 :: b3 :: rest => (b3 ++ b2 ++ b1 ++ b0) :: wordsOf rest
  | _ => []

/-- The bytes of words, each word little-endian, the first at the lowest address (R3). -/
def bytesOfWords : List W32 → List Byte
  | [] => []
  | w :: ws => toBytes 4 w.toNat ++ bytesOfWords ws

/-- The decoder on bytes. -/
noncomputable def decodeBytes (bs : List Byte) : Except DecErr Instr := decodeWords (wordsOf bs)

/-- The five words whose low nbits bits are those of w and whose other bits are zero. -/
def tableWords (nbits w : Nat) : List W32 :=
  let v := w % 2 ^ nbits
  [BitVec.ofNat 32 v, BitVec.ofNat 32 (v / 2 ^ 32), BitVec.ofNat 32 (v / 2 ^ 64), BitVec.ofNat 32 (v / 2 ^ 96),
   BitVec.ofNat 32 (v / 2 ^ 128)]

/-- The instruction the decoder reads from a row's word, as spec/opcode_table.json numbers its bits. -/
noncomputable def decodeTableWord (nbits w : Nat) : Option Instr :=
  (decodeBytes (bytesOfWords (tableWords nbits w))).toOption

end Sys2Proof
end

