-- ==== Sys2Proof/Machine/Fence.lean ====
section
/-! DEFINITION. FENCE, IFENCE, DRAIN and SENDAM, and the activations that messages start (09_consistency.md R220 to
R226; 01_machine.md R33; 19_preemption.md R341). -/

namespace Sys2Proof.Machine

/-- A load or an atomic of the slot has not arrived (R221). -/
def State.dataOut (s : State) (u : Nat) : Bool :=
  s.amoOut u || s.agenda.any fun i =>
    match i with
    | .loadDataArrival t _ _ _ => t.uid == u
    | .atomicReturn r _ _ => r.req.uid == u && r.dest != .none
    | _ => false

/-- FENCE (R221). -/
def execFence (sc : Scope) (s : State) : Out :=
  issue .s .outer (fun s => s.waitRpq.bind fun s _ => (await (!s.dataOut s.me.uid) s).bind fun s _ => s.release sc) s

/-- IFENCE (R222): what the fetch buffer holds beyond it, and the quad's lines from outside QLM, are discarded. -/
def execIfence (s : State) : Out :=
  issue .s .inner (fun s =>
    let s := s.modQuad (taQuad s.cur) fun q => { q with icache := [] }
    .ok ((s.modMe fun sl => { sl with fbuf := sl.fbuf.take 1 }).countMe 30 1) ()) s

/-- A message that the slot sent has not been placed (R223). -/
def State.mailOut (s : State) (ta : Nat) : Bool :=
  let me := BitVec.ofNat 64 ta
  (s.agenda.any fun i => match i with | .remoteWriteArrival w => w.sender == me | _ => false) ||
    s.cores.any fun p => p.2.held.any fun m => m.1.sender == me && m.1.kind != 1

/-- DRAIN (R223). -/
def execDrain (s : State) : Out :=
  issue .s .outer (fun s => s.waitRpq.bind fun s _ =>
    await (s.me.stq == 0 && !s.dataOut s.me.uid && !s.mailOut s.cur && s.me.copn == 0) s) s

/-- SENDAM (R224, R225): g(b) is the entry address, g(c), g(e) and imm32 the payload. -/
def execSendam (a b c e : Src) (imm : W32) (s : State) : Out :=
  issue .s .outer (fun s => (s.examine [a, b, c, e]).bind fun s _ =>
    let t := s.g a.reg
    (need (bit t 2 && s.taOk s.myCtx t) 0x07 t s).bind fun s _ =>
    s.waitRpq.bind fun s _ => s.waitAmo.bind fun s _ =>
    if s.devOf t ≠ 0 then await (s.me.stq == 0) s
    else
      let core := slice t 3 13
      let m : RxMsg := { kind := 2, sender := s.selfAddr, ctx := s.me.ctx, ta := hndOf core, value := s.g c.reg
                         w2h := imm, w3 := s.g e.reg, more := [s.g b.reg, BitVec.ofNat 64 s.me.ctx, 0, 0] }
      let sl := s.me
      if sl.sent then .ok s ()
      else if sl.sending then .wait s
      else if taHnd s.cur then .ok (s.modMe fun sl => { sl with outbox := sl.outbox ++ [.am core m] }) ()
      else
      let s := s.flushMail s.selfAddr (hndOf core)
      if s.rxOpen core m then .ok (s.rxGive core m) ()
      else .wait ((s.rxHold core m (some sl.uid)).modMe fun sl => { sl with sending := true })) s

/-! ## Activations -/

/-- The message that would start the next activation of a core (R219). -/
def State.nextMsg (s : State) (core : Nat) : Option RxMsg := (s.core core).rxq.find? fun m => m.kind != 0

/-- Whether the handler slot can start an activation (R219, R341): it does not once it is to freeze with RXFULL. -/
def State.hndFree (s : State) (core : Nat) : Bool :=
  let sl := s.slot (hndOf core)
  sl.st == .idle && sl.trigger.isNone && !(s.core core).rxfull && !(s.agenda.any fun i => match i with | .rxfull c => c == core | _ => false)

/-- Starts the activation that a message calls for, from its entry address (R33). -/
def State.startActivation (s : State) (core : Nat) (m : RxMsg) : State :=
  let ta := hndOf core
  let n := (s.core core).acts + 1
  let entry := m.more.headD 0
  let drop (s : State) : State :=
    ((s.modCore core fun c => { c with rxq := c.rxq.filter fun x => x.pos != m.pos }).setSlot ta {}).rxLeft core
  match s.ctx m.ctx with
  | none => drop s
  | some c =>
    let s := s.modCore core fun c => { c with acts := n }
    let s := s.note ⟨3, m.ctx, m.kind, m.sender.setWidth 32, BitVec.ofNat 64 ta, entry⟩
    match m.amo with
    | some r => ((drop s).doAmo r).note ⟨4, m.ctx, 0, 0, BitVec.ofNat 64 ta, 0⟩
    | none =>
      let sl := startSlot c m.ctx ta s.nextUid c.hndbud entry (localAddr (rxOff core + 0x1000))
        (localAddr (rxOff core + 32 * m.pos)) m.sender (n.setWidth 64)
      { s.setSlot ta { sl with trigger := some m } with nextUid := s.nextUid + 1 }

/-- The oldest message of an idle handler slot starts its activation (R33, R219). -/
def execHandlerActivationStart (core : Nat) (s : State) : Out :=
  .next (match s.nextMsg core with
    | some m => if s.hndFree core && decide (m.pos < 64) then s.startActivation core m else s
    | none => s)

/-- The triggering message of a killed activation is delivered again (R226). -/
def execActivationRedelivery (core : Nat) (s : State) : Out :=
  let s := s.strandsSweep.rxLeft core
  let sl := s.slot (hndOf core)
  .next (match sl.trigger with
    | some m => if sl.st = .idle then s.startActivation core m else s
    | none => s)

/-- A message found the queue full: once no activation runs, the handler slot freezes with an RXFULL packet
(R341). -/
def execRxfull (core : Nat) (s : State) : Out :=
  let ta := hndOf core
  .next (match (s.slot ta).st, (s.core core).held with
    | .idle, (m, _) :: _ =>
      let p : Packet := { taddr := BitVec.ofNat 64 ta, faddr := m.sender, fcode := 0x0F, ctxn := m.ctx }
      let s := s.modCore core fun c => { c with rxfull := true }
      let s := s.modSlot ta fun sl => { sl with st := .frozen, ctx := m.ctx, pkt := p }
      (s.post (.faultService p)).note ⟨6, m.ctx, 0x0F, m.sender.setWidth 32, BitVec.ofNat 64 ta, 0⟩
    | .idle, [] => s
    | _, _ => s.post (.rxfull core))

end Sys2Proof.Machine
end

