-- ==== Sys2Proof/Machine/Int.lean ====
section
/-! DEFINITION. Integer arithmetic: INT3, INT1 but for the presence functions, the immediate forms and XINT
(04_scalar.md R87 to R95). -/

namespace Sys2Proof.Machine

/-! ## The results (R88, R89, R95) -/

/-- Zero bits of the low n from bit n - 1 down to the first one bit. -/
def leadZeros (x : Word) : Nat → Nat
  | 0 => 0
  | n + 1 => if bit x n then 0 else 1 + leadZeros x n

/-- Zero bits from bit i up to the first one bit, n bits at most. -/
def trailZeros (x : Word) : Nat → Nat → Nat
  | 0, _ => 0
  | n + 1, i => if bit x i then 0 else 1 + trailZeros x n (i + 1)

/-- One bits among the low n. -/
def onesBelow (x : Word) : Nat → Nat
  | 0 => 0
  | n + 1 => (bit x n).toNat + onesBelow x n

/-- The low n bits of x in the opposite order. -/
def bitRev (x : Word) : Nat → Word
  | 0 => 0
  | n + 1 => (if bit x n then (1 : Word) else 0) <<< (63 - n) ||| bitRev x n

def aluAdd (x y : Word) : Word := x + y
def aluSub (x y : Word) : Word := x - y
def aluMul (x y : Word) : Word := x * y
def aluMulh (x y : Word) : Word := BitVec.ofInt 64 ((x.toInt * y.toInt) / 2 ^ 64)
def aluMulhu (x y : Word) : Word := BitVec.ofNat 64 ((x.toNat * y.toNat) / 2 ^ 64)
def aluDiv (x y : Word) : Word := if y = 0 then BitVec.allOnes 64 else BitVec.ofInt 64 (x.toInt.tdiv y.toInt)
def aluDivu (x y : Word) : Word := if y = 0 then BitVec.allOnes 64 else BitVec.ofNat 64 (x.toNat / y.toNat)
def aluRem (x y : Word) : Word := if y = 0 then x else BitVec.ofInt 64 (x.toInt - x.toInt.tdiv y.toInt * y.toInt)
def aluRemu (x y : Word) : Word := if y = 0 then x else BitVec.ofNat 64 (x.toNat % y.toNat)
def aluAnd (x y : Word) : Word := x &&& y
def aluOr (x y : Word) : Word := x ||| y
def aluXor (x y : Word) : Word := x ^^^ y
def aluAndn (x y : Word) : Word := x &&& ~~~y
def aluShl (x y : Word) : Word := x <<< slice y 0 6
def aluShr (x y : Word) : Word := x >>> slice y 0 6
def aluSra (x y : Word) : Word := x.sshiftRight (slice y 0 6)
def aluRol (x y : Word) : Word := (x <<< slice y 0 6) ||| (x >>> (64 - slice y 0 6))
def aluMin (x y : Word) : Word := if x.toInt ≤ y.toInt then x else y
def aluMax (x y : Word) : Word := if x.toInt ≤ y.toInt then y else x
def aluMinu (x y : Word) : Word := if x.toNat ≤ y.toNat then x else y
def aluMaxu (x y : Word) : Word := if x.toNat ≤ y.toNat then y else x
def aluCmpEq (x y : Word) : Word := ofBool (x == y)
def aluCmpNe (x y : Word) : Word := ofBool (x != y)
def aluCmpLt (x y : Word) : Word := ofBool (decide (x.toInt < y.toInt))
def aluCmpLtu (x y : Word) : Word := ofBool (decide (x.toNat < y.toNat))
def aluCmpGe (x y : Word) : Word := ofBool (decide (y.toInt ≤ x.toInt))
def aluCmpGeu (x y : Word) : Word := ofBool (decide (y.toNat ≤ x.toNat))

/-! ## The forms -/

/-- A native word with two sources (R88). -/
def int3 (f : Word → Word → Word) (d a b : Reg) (s : State) : Out :=
  issue .s .inner (fun s => (s.examine [blk a, blk b]).bind fun s _ => (s.freeG d).bind fun s _ =>
    .ok (s.putG d (f (s.g a) (s.g b))) ()) s

/-- A native word with one source (R95). -/
def int1 (f : Word → Word) (d a : Reg) (s : State) : Out :=
  issue .s .inner (fun s => (s.examine [blk a]).bind fun s _ => (s.freeG d).bind fun s _ =>
    .ok (s.putG d (f (s.g a))) ()) s

/-- A native word with an 11-bit constant (R42, R90). -/
def intI (f : Word → Word → Word) (d a : Reg) (i : BitVec 11) (s : State) : Out :=
  int1 (fun x => f x (sextW i)) d a s

/-- XINT: sources, then the result to its destination (R87, R88, R47). -/
def xint (srcs : List Src) (dst : Dst) (f : State → Word) (s : State) : Out :=
  issue .s dst.reach (fun s => (s.examine (srcs ++ dst.srcs)).bind fun s _ => (s.freeDst dst).bind fun s _ =>
    s.putDst dst (f s)) s

/-- Functions 0 to 26 of XINT (R88). -/
def xint2 (f : Word → Word → Word) (o : XInt) (s : State) : Out :=
  xint (o.a :: o.y.srcs) o.dst (fun s => f (s.g o.a.reg) (s.y o.y)) s

/-! ## Native words -/

def execAdd (d a b : Reg) (s : State) : Out := int3 aluAdd d a b s
def execSub (d a b : Reg) (s : State) : Out := int3 aluSub d a b s
def execMul (d a b : Reg) (s : State) : Out := int3 aluMul d a b s
def execMulh (d a b : Reg) (s : State) : Out := int3 aluMulh d a b s
def execMulhu (d a b : Reg) (s : State) : Out := int3 aluMulhu d a b s
def execDiv (d a b : Reg) (s : State) : Out := int3 aluDiv d a b s
def execDivu (d a b : Reg) (s : State) : Out := int3 aluDivu d a b s
def execRem (d a b : Reg) (s : State) : Out := int3 aluRem d a b s
def execRemu (d a b : Reg) (s : State) : Out := int3 aluRemu d a b s
def execAnd (d a b : Reg) (s : State) : Out := int3 aluAnd d a b s
def execOr (d a b : Reg) (s : State) : Out := int3 aluOr d a b s
def execXor (d a b : Reg) (s : State) : Out := int3 aluXor d a b s
def execAndn (d a b : Reg) (s : State) : Out := int3 aluAndn d a b s
def execShl (d a b : Reg) (s : State) : Out := int3 aluShl d a b s
def execShr (d a b : Reg) (s : State) : Out := int3 aluShr d a b s
def execSra (d a b : Reg) (s : State) : Out := int3 aluSra d a b s
def execRol (d a b : Reg) (s : State) : Out := int3 aluRol d a b s
def execMin (d a b : Reg) (s : State) : Out := int3 aluMin d a b s
def execMax (d a b : Reg) (s : State) : Out := int3 aluMax d a b s
def execMinu (d a b : Reg) (s : State) : Out := int3 aluMinu d a b s
def execMaxu (d a b : Reg) (s : State) : Out := int3 aluMaxu d a b s
def execCmpEq (d a b : Reg) (s : State) : Out := int3 aluCmpEq d a b s
def execCmpNe (d a b : Reg) (s : State) : Out := int3 aluCmpNe d a b s
def execCmpLt (d a b : Reg) (s : State) : Out := int3 aluCmpLt d a b s
def execCmpLtu (d a b : Reg) (s : State) : Out := int3 aluCmpLtu d a b s
def execCmpGe (d a b : Reg) (s : State) : Out := int3 aluCmpGe d a b s
def execCmpGeu (d a b : Reg) (s : State) : Out := int3 aluCmpGeu d a b s

def execMov (d a : Reg) (s : State) : Out := int1 (fun x => x) d a s
def execClz (d a : Reg) (s : State) : Out := int1 (fun x => BitVec.ofNat 64 (leadZeros x 64)) d a s
def execCtz (d a : Reg) (s : State) : Out := int1 (fun x => BitVec.ofNat 64 (trailZeros x 64 0)) d a s
def execPopc (d a : Reg) (s : State) : Out := int1 (fun x => BitVec.ofNat 64 (onesBelow x 64)) d a s
def execSextB (d a : Reg) (s : State) : Out := int1 (fun x => sextLow x 8) d a s
def execSextH (d a : Reg) (s : State) : Out := int1 (fun x => sextLow x 16) d a s
def execSextW (d a : Reg) (s : State) : Out := int1 (fun x => sextLow x 32) d a s
def execZextB (d a : Reg) (s : State) : Out := int1 (fun x => zextLow x 8) d a s
def execZextH (d a : Reg) (s : State) : Out := int1 (fun x => zextLow x 16) d a s
def execZextW (d a : Reg) (s : State) : Out := int1 (fun x => zextLow x 32) d a s
def execNot (d a : Reg) (s : State) : Out := int1 (fun x => ~~~x) d a s
def execBrev (d a : Reg) (s : State) : Out := int1 (fun x => bitRev x 64) d a s

def execAddi (d a : Reg) (i : BitVec 11) (s : State) : Out := intI aluAdd d a i s
def execAndi (d a : Reg) (i : BitVec 11) (s : State) : Out := intI aluAnd d a i s
def execOri (d a : Reg) (i : BitVec 11) (s : State) : Out := intI aluOr d a i s
def execXori (d a : Reg) (i : BitVec 11) (s : State) : Out := intI aluXor d a i s
def execShli (d a : Reg) (i : BitVec 11) (s : State) : Out := intI aluShl d a i s
def execShri (d a : Reg) (i : BitVec 11) (s : State) : Out := intI aluShr d a i s
def execSrai (d a : Reg) (i : BitVec 11) (s : State) : Out := intI aluSra d a i s
def execCmpiEq (d a : Reg) (i : BitVec 11) (s : State) : Out := intI aluCmpEq d a i s
def execCmpiLt (d a : Reg) (i : BitVec 11) (s : State) : Out := intI aluCmpLt d a i s
def execCmpiLtu (d a : Reg) (i : BitVec 11) (s : State) : Out := intI aluCmpLtu d a i s

/-! ## XINT -/

def execAddX (o : XInt) (s : State) : Out := xint2 aluAdd o s
def execSubX (o : XInt) (s : State) : Out := xint2 aluSub o s
def execMulX (o : XInt) (s : State) : Out := xint2 aluMul o s
def execMulhX (o : XInt) (s : State) : Out := xint2 aluMulh o s
def execMulhuX (o : XInt) (s : State) : Out := xint2 aluMulhu o s
def execDivX (o : XInt) (s : State) : Out := xint2 aluDiv o s
def execDivuX (o : XInt) (s : State) : Out := xint2 aluDivu o s
def execRemX (o : XInt) (s : State) : Out := xint2 aluRem o s
def execRemuX (o : XInt) (s : State) : Out := xint2 aluRemu o s
def execAndX (o : XInt) (s : State) : Out := xint2 aluAnd o s
def execOrX (o : XInt) (s : State) : Out := xint2 aluOr o s
def execXorX (o : XInt) (s : State) : Out := xint2 aluXor o s
def execAndnX (o : XInt) (s : State) : Out := xint2 aluAndn o s
def execShlX (o : XInt) (s : State) : Out := xint2 aluShl o s
def execShrX (o : XInt) (s : State) : Out := xint2 aluShr o s
def execSraX (o : XInt) (s : State) : Out := xint2 aluSra o s
def execRolX (o : XInt) (s : State) : Out := xint2 aluRol o s
def execMinX (o : XInt) (s : State) : Out := xint2 aluMin o s
def execMaxX (o : XInt) (s : State) : Out := xint2 aluMax o s
def execMinuX (o : XInt) (s : State) : Out := xint2 aluMinu o s
def execMaxuX (o : XInt) (s : State) : Out := xint2 aluMaxu o s
def execCmpEqX (o : XInt) (s : State) : Out := xint2 aluCmpEq o s
def execCmpNeX (o : XInt) (s : State) : Out := xint2 aluCmpNe o s
def execCmpLtX (o : XInt) (s : State) : Out := xint2 aluCmpLt o s
def execCmpLtuX (o : XInt) (s : State) : Out := xint2 aluCmpLtu o s
def execCmpGeX (o : XInt) (s : State) : Out := xint2 aluCmpGe o s
def execCmpGeuX (o : XInt) (s : State) : Out := xint2 aluCmpGeu o s

/-- SEL (R91): all three sources are read, whichever way the test goes. -/
def execSel (o : XSel) (s : State) : Out :=
  xint (o.a :: o.y.srcs ++ [o.c]) o.dst (fun s => if s.g o.c.reg ≠ 0 then s.g o.a.reg else s.y o.y) s

/-- The width of a field (R92). -/
def fieldWidth (w1 : BitVec 6) : Nat := w1.toNat + 1

/-- BFX (R92). -/
def execBfx (o : XBfx) (s : State) : Out :=
  xint [o.a] o.dst (fun s =>
    let x := s.g o.a.reg >>> o.pos.toNat
    if o.sx then sextLow x (fieldWidth o.width1) else zextLow x (fieldWidth o.width1)) s

/-- The mask m of BFI (R92). -/
def fieldMask (pos w1 : BitVec 6) : Word := BitVec.ofNat 64 (2 ^ fieldWidth w1 - 1) <<< pos.toNat

/-- BFI (R92). -/
def execBfi (o : XBfi) (s : State) : Out :=
  xint [o.a, o.b] o.dst (fun s =>
    let m := fieldMask o.pos o.width1
    (s.g o.b.reg &&& ~~~m) ||| ((s.g o.a.reg <<< o.pos.toNat) &&& m)) s

/-- ADDPC (R93). -/
def execAddpc (dst : Dst) (off : W32) (s : State) : Out := xint [] dst (fun s => s.me.pc + sextW off) s

/-- LI (R94). -/
def execLi (dst : Dst) (y : YOp) (s : State) : Out := xint y.srcs dst (fun s => s.y y) s

end Sys2Proof.Machine
end

