-- ==== Sys2Proof/Machine/L2c.lean ====
section
/-! DEFINITION. L2PIN, L2UNPIN, L2STAT and L2FLUSH (08_memory.md R193 to R199). -/

namespace Sys2Proof.Machine

/-- What every L2C function does first (R199). -/
def l2First (srcs : List Src) (ds : List Reg) (s : State) : Res Unit :=
  (s.examine srcs).bind fun s _ =>
  (ds.foldl (fun (r : Res Unit) d => r.bind fun s _ => s.freeG d) (.ok s ())).bind fun s _ =>
  s.waitRpq.bind fun s _ => await (s.me.stq == 0 && !s.dataOut s.me.uid) s

/-- The pages of 64 KiB that a range touches: the lowest address of the range in each. -/
def rangePages (base len : Nat) : List Nat :=
  if len = 0 then []
  else (List.range ((base + len - 1) / 65536 - base / 65536 + 1)).map fun i =>
    if i = 0 then base else (base / 65536 + i) * 65536

/-- A translation outside the QLM block and inside the address space. -/
def State.xlateAny (s : State) (who : Option Nat) (c : Ctx) (va : Nat) : State × Option TlbEntry :=
  if 2 ^ 56 ≤ va ∨ va / 2 ^ 48 = 0xFF then (s, none) else s.tlbLoad c who va

/-- Translates the pages of a range for L2PIN, in ascending order: the first that fails, or where they lie (R195). -/
def State.pinPages (s : State) (who : Option Nat) (c : Ctx) : List Nat → State × Except Nat (List (Nat × Nat))
  | [] => (s, .ok [])
  | va :: rest =>
    match s.xlateAny who c va with
    | (s, none) => (s, .error va)
    | (s, some e) =>
      if !bit e.pte 2 then (s, .error va)
      else
        match s.pinPages who c rest with
        | (s, .ok l) => (s, .ok ((ptePA e.pte + (va - e.page), pteMT e.pte) :: l))
        | (s, .error x) => (s, .error x)

/-- Whether the pages follow one another in physical memory (R195). -/
def contiguous : List (Nat × Nat) → Bool
  | [] => true
  | [_] => true
  | (p, _) :: (q, m) :: rest => (p / 65536 + 1 == q / 65536) && contiguous ((q, m) :: rest)

/-- The status of a pin, and the register and ways that it takes (R193, R195). -/
def State.pinStatus (s : State) (pages : List (Nat × Nat)) (len w : Nat) : Nat × Nat × List Nat :=
  let base := (pages.map Prod.fst).headD 0
  let used := s.retain.toList.filterMap fun r => r
  let free := (List.range 16).find? fun i => (s.retain.toList.getD i none).isNone
  let ways := ((List.range 12).filter fun i => !s.reservedWays.contains i).take w
  if pages.any fun p => p.2 != 0 then (5, 0, [])
  else if !contiguous pages then (4, 0, [])
  else if used.any fun r => decide (base < r.base + r.len) && decide (r.base < base + len) then (3, 0, [])
  else
    match free with
    | none => (1, 0, [])
    | some i => if 12 < s.reservedWays.length + w then (2, 0, []) else (0, i, ways)

/-- Sets a retention register. -/
def State.setRetain (s : State) (i : Nat) (r : Option Retention) : State :=
  { s with retain := if h : i < 16 then s.retain.set i r h else s.retain }

/-- L2PIN (R195). -/
def execL2pin (d : Reg) (a b : Src) (w : BitVec 4) (s : State) : Out :=
  issue .s .outer (fun s => (l2First [a, b] [d] s).bind fun s _ =>
    let va := s.g a.reg
    let len := (s.g b.reg).toNat
    if va.toNat % 128 ≠ 0 ∨ len % 128 ≠ 0 ∨ len = 0 then .trap s 0x05 va
    else
      match s.pinPages (some s.cur) s.myCtx (rangePages va.toNat len) with
      | (s, .error x) => .trap s 0x06 (BitVec.ofNat 64 x)
      | (s, .ok pages) =>
        let (st, i, ways) := s.pinStatus pages len w.toNat
        let base := (pages.map Prod.fst).headD 0
        let s := if st = 0 then s.setRetain i (some { ctx := s.me.ctx, vbase := va, base := base, len := len, ways := ways }) else s
        .ok (s.putG d (BitVec.ofNat 64 (st * 2 ^ 8 + i))) ()) s

/-- The register that an index names, in use by the issuing context (R196). -/
def State.needRetain (s : State) (v : Word) : Res (Nat × Retention) :=
  match s.retain.toList.getD v.toNat none with
  | some r => if r.ctx = s.me.ctx ∧ v.toNat < 16 then .ok s (v.toNat, r) else .trap s 0x07 v
  | none => .trap s 0x07 v

/-- L2UNPIN (R196). -/
def execL2unpin (d : Reg) (a : Src) (s : State) : Out :=
  issue .s .outer (fun s => (l2First [a] [d] s).bind fun s _ =>
    (s.needRetain (s.g a.reg)).bind fun s r => .ok ((s.setRetain r.1 none).putG d 0) ()) s

/-- L2STAT (R197). -/
def execL2stat (d : Reg) (a : Src) (clr : Bool) (s : State) : Out :=
  issue .s .outer (fun s => (l2First [a] [d] s).bind fun s _ =>
    (s.needRetain (s.g a.reg)).bind fun s r =>
      let s := if clr then s.setRetain r.1 (some { r.2 with hits := 0, miss := 0 }) else s
      .ok (s.putG d (BitVec.ofNat 64 (r.2.miss * 2 ^ 32 + r.2.hits))) ()) s

/-- Removes the lines from lo to hi from L2 and every L1 (R198). -/
def State.dropLines (s : State) (lo hi : Nat) : State :=
  let keep (x : CacheLine) : Bool := decide (x.line < lo) || decide (hi < x.line)
  { s with
    cores := s.cores.map fun p => (p.1, { p.2 with l1 := p.2.l1.map fun q => (q.1, q.2.filter keep) })
    dies := s.dies.map fun p => (p.1, { p.2 with l2 := p.2.l2.map fun q => (q.1, q.2.filter keep) }) }

/-- Flushes the pages of a range and counts those that fail translation (R198). -/
def State.flushPages (s : State) (c : Ctx) (last : Nat) : List Nat → State × Nat
  | [] => (s, 0)
  | va :: rest =>
    match s.xlateAny (some s.cur) c va with
    | (s, none) =>
      let (s, n) := s.flushPages c last rest
      (s, n + 1)
    | (s, some e) =>
      let pa := ptePA e.pte + (va - e.page)
      let n := Nat.min (65535 - va % 65536) (last - va)
      let s := if pteMT e.pte = 0 then s.dropLines (pa / 128) ((pa + n) / 128) else s
      s.flushPages c last rest

/-- L2FLUSH (R198). -/
def execL2flush (d : Reg) (a b : Src) (s : State) : Out :=
  issue .s .outer (fun s => (l2First [a, b] [d] s).bind fun s _ =>
    let base := (s.g a.reg).toNat
    let len := (s.g b.reg).toNat
    let (s, n) := s.flushPages s.myCtx (base + len - 1) (rangePages base len)
    .ok (s.putG d (BitVec.ofNat 64 n)) ()) s

end Sys2Proof.Machine
end

