-- ==== Sys2Proof/Machine/Presence.lean ====
section
/-! DEFINITION. The instructions that move presence: TAKE, PTEST, PEMPTY, PSET and PUT (04_scalar.md R96 to R100),
and the arrival of a remote write (R23). -/

namespace Sys2Proof.Machine

/-- The register becomes EMPTY and not pending; its value stays. -/
def Slot.emptyG (sl : Slot) (r : Reg) : Slot := sl.setG r ⟨(sl.greg r).val, .empty, false⟩

/-- TAKE (R96). -/
def execTake (d a : Reg) (s : State) : Out :=
  issue .s .inner (fun s =>
    let x := s.me.greg a
    if s.me.takes.any fun t => t.1 == a then .wait s
    else if x.pres = .empty ∧ 32 ≤ a.toNat ∧ x.pend = false then
      (s.freeG d).bind fun s _ =>
        .ok ((s.modMe fun sl => { sl.pendG d with takes := sl.takes ++ [(a, d)] }).landNext s.cur a) ()
    else if x.pres = .empty then .wait s
    else (if d = a then .ok s () else s.freeG d).bind fun s _ =>
      let s := s.modMe fun sl => (sl.emptyG a).arriveG d x.val (x.pres == .poison)
      .ok (s.landNext s.cur a) ()) s

/-- PTEST (R97): bit 3 tells of a remote write that waits for the register. -/
def execPtest (d a : Reg) (s : State) : Out :=
  issue .s .inner (fun s => (s.freeG d).bind fun s _ =>
    let x := s.me.greg a
    let code := match x.pres with | .empty => 0 | .full => 1 | .poison => 2
    let queued := (s.core s.myCore).rxq.any fun m =>
      m.kind == 0 && m.ta == s.cur && m.uid == s.me.uid && (32 + m.reg.toNat == a.toNat)
    .ok (s.putG d (BitVec.ofNat 64 (code + (if x.pend then 4 else 0) + (if queued then 8 else 0)))) ()) s

/-- PEMPTY (R98). -/
def execPempty (a : Reg) (s : State) : Out :=
  issue .s .inner (fun s => (s.freeG a).bind fun s _ =>
    .ok ((s.modMe fun sl => sl.emptyG a).landNext s.cur a) ()) s

/-- PSET (R99): the value is unchanged. -/
def execPset (d : Reg) (p : Presence) (s : State) : Out :=
  issue .s .inner (fun s => (s.freeG d).bind fun s _ =>
    let s := s.modMe fun sl => sl.setG d ⟨(sl.greg d).val, p, false⟩
    .ok (if p = .empty then s.landNext s.cur d else s) ()) s

/-- PUT (R100). -/
def execPut (n : BitVec 5) (a e : Src) (s : State) : Out :=
  issue .s .outer (fun s => (s.examine [a, e]).bind fun s _ =>
    s.putDst (.rem n e) (s.g a.reg)) s

/-- A remote write reaches its core (R19, R23, R341). -/
def execRemoteWriteArrival (w : RemWrite) (s : State) : Out :=
  .next (s.rxArrive (taCore w.ta) (msgOf w) none)

end Sys2Proof.Machine
end

