-- ==== Sys2Proof/Machine/Settle.lean ====
section
/-! DEFINITION. The SF class, the settle events, and deadlines (13_settle.md R282 to R305). -/

namespace Sys2Proof.Machine

/-! ## Images (R282 to R284) -/

/-- The bytes that the signature is fed with (R284). -/
def sigBytes (img : List Byte) : List Byte :=
  (List.range (imgField img 8 2)).flatMap fun b =>
    ((List.range 16).flatMap fun i => ((img.drop (64 + 640 * b + 4 * i)).take 3)) ++
      (imgCells img b).flatMap fun w => toBytes 2 (w / 2 ^ 4 % 64 * 16 + w % 16)

def imgSig (img : List Byte) : Word := BitVec.ofNat 64 (crc64 0 (sigBytes img))

/-- Whether a gain cell of a block is in order (R283). -/
def cellOk (img : List Byte) (b w : Nat) : Bool :=
  let src := w / 2 ^ 4 % 64
  decide (src < 48) && imgUsed img (16 * b + w % 16) &&
    (if src < 16 then imgUsed img (16 * b + src) else imgLane img b (src - 16) / 2 ^ 15 == 1)

/-- Whether a lane word is in order (R283). -/
def laneOk (img : List Byte) (w : Nat) : Bool :=
  w / 2 ^ 10 % 32 == 0 &&
    (w / 2 ^ 15 == 0 || (decide (w / 16 % 64 < imgField img 8 2) && imgUsed img (16 * (w / 16 % 64) + w % 16)))

/-- A malformed image of a region with the given number of blocks (R283). -/
def badImage (img : List Byte) (count : Nat) : Bool :=
  let nblk := imgField img 8 2
  imgField img 0x14 44 != 0 || imgField img 0xD 3 != 0 || imgField img 0xC 1 / 4 != 0 || imgField img 0xA 1 / 8 != 0 ||
    nblk == 0 || decide (count < nblk) || decide (imgTheta img < 6) || decide (11 < imgTheta img) ||
    decide (2 ^ 24 < imgField img 0x10 4) || decide (imgTmo img < imgHold img) ||
    ((List.range nblk).any fun b =>
      ((List.range 16).any fun i => imgVar img (16 * b + i) / 2 ^ 17 != 0) ||
      ((List.range 128).any fun c => imgCell img b c / 2 ^ 22 != 0) ||
      ((imgCells img b).any fun w => !cellOk img b w) ||
      ((List.range 32).any fun l => !laneOk img (imgLane img b l))) ||
    !((List.range (16 * nblk)).any fun j => imgUsed img j)

/-! ## Issue (R280, R297, R298, R300) -/

/-- The region that g(a) names; a handler activation has none (R280, R297). -/
def State.sfRegion (s : State) (g : Word) : Res Region :=
  (need (!taHnd s.cur) 0x07 0 s).bind fun s _ =>
  if 15 < g.toNat then .trap s 0x07 g
  else
    match s.region? (regionKey s.me.ctx g.toNat) with
    | none => .trap s 0x07 g
    | some r => .ok s r

/-- The places of a memory operand, checked precisely (R298): a view takes no write (R202). -/
def State.sfPlaces (s : State) (va : Word) (len align : Nat) (write : Bool) : Res (List (Place × Nat)) :=
  let ps := if len = 0 then [] else pageParts va len
  (alignAll [va] align s).bind fun s _ =>
  (s.protAll ps write).bind fun s _ =>
  match s.lookAll s.myCtx (if write then .w else .r) write ps with
  | (s, .error a) => .trap s 0x06 a
  | (s, .ok l) =>
    if write && l.any fun p => p.1.view.isSome then .trap s 0x07 va
    else .ok s ((l.zip ps).map fun x => (x.1.1, x.2.2))

/-- The run state as a status (R301). -/
def sfStatus (st : Nat) : Nat := if st = 0 then 6 else if st = 1 then 0 else if st = 2 then 9 else st - 2

def sfWord (code : Nat) (clip : Bool) : Word := BitVec.ofNat 64 (code + clip.toNat * 256)

/-- g(d) becomes pending and the reply is on its way (R298, R304). -/
def State.sfAnswer (s : State) (d : Reg) (v : Word) (pois : Bool) (smp : Option (Nat × Nat)) : State :=
  ((s.modMe fun sl => sl.pendG d).countMe 31 1).post (.sfReply s.meT d v pois smp)

/-- Whether another task holds the region (R300). -/
def Region.busy (r : Region) (uid : Nat) : Bool := r.claim.uid != 0 && r.claim.uid != uid

/-- The issuing task claims a region that is free (R300). -/
def State.sfClaim (s : State) (k : Nat) : State :=
  s.modRegion k fun r => if r.claim.uid = 0 then { r with claim := s.meT, taskid := s.me.taskid } else r

/-- The steps that the functions with a reply share; `places` checks the operand, `refuse` gives the status of R286 in
a state, `act` the effect and the reply. -/
def sf (srcs : List Src) (d a : Reg) (places : State → Region → Res (List (Place × Nat)))
    (refuse : Region → Option Nat) (act : State → Nat → Region → List (Place × Nat) → State) (s₀ : State) : Out :=
  issue .v .outer (fun s =>
    (s.examine srcs).bind fun s _ => (s.freeG d).bind fun s _ =>
    (s.sfRegion (s.g a)).bind fun s r =>
    (places s r).bind fun s ps =>
    s.waitRpq.bind fun s _ => s.waitAmo.bind fun s _ =>
    let k := regionKey s.me.ctx (s.g a).toNat
    if r.busy s.me.uid then .ok (s.sfAnswer d 5 false none) ()
    else
      let s := s.sfClaim k
      match refuse r, s.region? k with
      | some st, _ => .ok (s.sfAnswer d (sfWord st false) false none) ()
      | none, some r => .ok (act s k r ps) ()
      | none, none => .ok s ()) s₀

def noPlaces (s : State) (_ : Region) : Res (List (Place × Nat)) := .ok s []

/-- The poisoned byte with the lowest physical address among an operand's; memory of a lost device reads poisoned (R298,
R329). -/
def State.lowestPois (s : State) (ps : List (Place × Nat)) : Option Nat :=
  (ps.flatMap fun p => ((List.range p.2).find? fun i => s.gran (p.1.key + i) || s.lostAt p.1 || (p.1.view.isSome &&
      !(match p.1.view with | some f => (s.fmtOfLine f ((p.1.pa + i) / 128)).en | none => true))).toList.map fun i => p.1.key % 2 ^ 64 + i).foldl
    (fun acc a => match acc with | none => some a | some b => some (Nat.min a b)) none

/-- Reads an operand that has no poison and goes on; with poison there is no effect, a deferred record, and POISON
presence (R298). -/
def State.sfOperand (s : State) (d : Reg) (ps : List (Place × Nat)) (f : State → List Byte → State) : State :=
  match s.lowestPois ps with
  | some pa => (s.report ⟨1, 1, 0, 0, 0, 0, BitVec.ofNat 64 pa, s.selfAddr, none, 0⟩).sfAnswer d 0 true none
  | none =>
    let (s, bs) := s.opReadAll .normal ps false
    f s (bs.map Prod.fst)

def busyRun (r : Region) : Option Nat := if r.state = 2 then some 5 else none
def busyOrIdle (r : Region) : Option Nat := if r.state = 2 then some 5 else if r.state = 0 then some 6 else none

/-! ## Configuration (R302) -/

/-- The bytes that an image takes by its header. -/
def State.imagePlaces (va : Word) (s : State) (r : Region) : Res (List (Place × Nat)) :=
  (s.sfPlaces va 64 64 false).bind fun s ps =>
    let h := (s.opReadAll .normal ps false).2.map Prod.fst
    let nblk := imgField h 8 2
    s.sfPlaces va (64 + 640 * (if nblk ≤ r.count then nblk else 0)) 64 false

/-- SFCFG (R302). -/
def execSfcfg (d : Reg) (a b : Src) (s : State) : Out :=
  sf [a, b] d a.reg (fun s r => State.imagePlaces (s.g b.reg) s r) busyRun (fun s k _ ps =>
    s.sfOperand d ps fun s img =>
      match s.region? k with
      | none => s
      | some r =>
        let sig : Word := BitVec.ofNat 64 (imgField img 0 8)
        if badImage img r.count || imgSig img != sig then
          (s.modRegion k fun r => { r with state := 0, image := [], bias := [], u := [], seed := 0 }).sfAnswer d 7 false none
        else
          let n := 16 * imgField img 8 2
          (s.modRegion k fun r =>
            { r with state := 1, image := img, sig := some sig, bias := List.replicate n 0, u := List.replicate n 0
                     seed := 0, hist := if r.sig = some sig then r.hist else [] }).sfAnswer d 0 false none) s

/-- SFSCL (R302): g0 takes the immediate. -/
def execSfscl (d : Reg) (a b : Src) (e : BitVec 6) (s : State) : Out :=
  sf [a, b] d a.reg (fun s r => if b.reg = 0 then .ok s [] else s.sfPlaces (s.g b.reg) (16 * r.count) 1 false) (fun _ => none)
    (fun s k r ps =>
      if b.reg = 0 then
        (s.modRegion k fun r => { r with exps := List.replicate (16 * r.count) e.toInt }).sfAnswer d 0 false none
      else s.sfOperand d ps fun s bs =>
        let xs := (List.range (16 * r.count)).map fun j => (bs.getD j 0).toInt
        (s.modRegion k fun r => { r with exps := xs.map fun x => max (-32) (min 31 x) }).sfAnswer d
          (sfWord 0 (xs.any fun x => decide (x < -32) || decide (31 < x))) false none) s

/-- rnd(x × 2^k, I64, RNE) before it is clipped; none for a NaN (R292, R302). -/
def scaled (x : Nat) (k : Int) : Option Int :=
  match (fmtOf .fp64).num false x with
  | .nan _ => none
  | .zero _ => some 0
  | .inf neg => some (if neg then -(2 ^ 63) else 2 ^ 63)
  | .fin neg m e => some (toIntegral {} neg m (e + k)).1

def clipCode (x : Int) : Int × Bool := (max (-8192) (min 8191 x), decide (x < -8192) || decide (8191 < x))

/-- SFBIAS (R302). -/
def execSfbias (d : Reg) (a b : Src) (i16 : Bool) (sc : BitVec 7) (s : State) : Out :=
  let w := if i16 then 2 else 8
  sf [a, b] d a.reg (fun s r => s.sfPlaces (s.g b.reg) (w * r.n) w false) busyOrIdle (fun s k r ps =>
    s.sfOperand d ps fun s bs =>
      let val (j : Nat) : Int × Bool :=
        if imgUsed r.image j then
          let x := imgField bs (w * j) w
          clipCode (if i16 then asInt 16 x else (scaled x (sc.toInt + 13)).getD 0)
        else (intAt r.bias j, false)
      let vs := (List.range r.n).map val
      (s.modRegion k fun r => { r with bias := vs.map Prod.fst, state := 1 }).sfAnswer d
        (sfWord 0 (vs.any Prod.snd)) false none) s

/-- The entries of a seed block that its header calls for; 0 when N is out of range (R291). -/
def seedN (h : List Byte) : Nat := if imgField h 8 4 ≤ 1024 then imgField h 8 4 else 0

def State.seedPlaces (va : Word) (s : State) (_ : Region) : Res (List (Place × Nat)) :=
  (s.sfPlaces va 16 16 false).bind fun s ps =>
    let h := (s.opReadAll .normal ps false).2.map Prod.fst
    s.sfPlaces va (16 + 16 * (if imgField h 0xC 4 = 0 then seedN h else 0)) 16 false

def badSeed (bs : List Byte) : Bool :=
  seedN bs == 0 || imgField bs 0xC 4 != 0 || (List.range (seedN bs)).any fun t => imgField bs (0x12 + 16 * t) 6 != 0

/-- The seeded value of a used slot: its code, whether it was clipped, and whether an entry was found (R292). -/
def seedOf (bs : List Byte) (vid : Nat) (e : Int) : Int × Bool × Bool :=
  match (List.range (seedN bs)).find? fun t => imgField bs (0x10 + 16 * t) 2 == vid with
  | none => (0, false, false)
  | some t =>
    match scaled (imgField bs (0x18 + 16 * t) 8) (13 - e) with
    | none => (0, true, true)
    | some c => ((clipCode c).1, (clipCode c).2, true)

/-- SFSEED (R291, R292). -/
def execSfseed (d : Reg) (a b : Src) (s : State) : Out :=
  sf [a, b] d a.reg (fun s r => State.seedPlaces (s.g b.reg) s r) busyOrIdle (fun s k r ps =>
    s.sfOperand d ps fun s bs =>
      if badSeed bs then s.sfAnswer d 10 false none
      else
        let val (j : Nat) : Int × Bool × Bool :=
          if imgUsed r.image j then seedOf bs (imgVid r.image j) (intAt r.exps j) else (0, false, true)
        let vs := (List.range r.n).map val
        let full := r.sig == some (BitVec.ofNat 64 (imgField bs 0 8)) && vs.all fun v => v.2.2
        let clip := vs.any fun v => v.2.1
        (s.modRegion k fun r => { r with u := vs.map fun v => 100 * v.1, clip := clip, seed := if full then 1 else 2
                                         state := 1 }).sfAnswer d (sfWord (if full then 0 else 8) clip) false none) s

/-! ## Runs and samples (R286, R299, R302) -/

/-- SFRUN: the run may certify or saturate, and it times out (R287, R288; log 10). One that starts beyond a limit saturates
at once. -/
def execSfrun (d : Reg) (a : Src) (s : State) : Out :=
  sf [a] d a.reg noPlaces busyOrIdle (fun s k r _ =>
    let free := (List.range (16 * r.nblk)).map fun j => if imgUsed r.image j then Config.freeSettle s.ctr (j + 1024) else 0
    let ctx := k / 16
    let reg := k % 16
    let s := s.modRegion k fun r => { r with state := 2, start := s.time, runs := r.runs + 1 }
    match r.crossed r.u with
    | some (b, i) =>
      (s.modRegion k fun r => { r with state := 4, u := r.u.map clampU, sblk := b, sunit := i }).sfAnswer d 0 false none
    | none =>
    let s := ((s.post (.settleCertify ctx reg (s.freeU r))).post (.settleSaturation ctx reg free)).post
      (.settleTimeout ctx reg (s.freeU r))
    s.sfAnswer d 0 false none) s

/-- Whether a reply to the slot is on its way (R304). -/
def State.sfOut (s : State) (uid : Nat) : Bool :=
  s.agenda.any fun i => match i with | .sfReply t _ _ _ _ => t.uid == uid | _ => false

/-- SFWAIT (R299). -/
def execSfwait (d : Reg) (a : Src) (t : Bool) (s : State) : Out :=
  issue .v .outer (fun s =>
    (s.examine [a]).bind fun s _ => (s.freeG d).bind fun s _ =>
    (s.sfRegion (s.g a.reg)).bind fun s r =>
    s.waitRpq.bind fun s _ => s.waitAmo.bind fun s _ =>
    (await (!s.sfOut s.me.uid) s).bind fun s _ =>
    if r.busy s.me.uid then .ok ((s.countMe 31 1).putG d 5) ()
    else
      let s := s.sfClaim (regionKey s.me.ctx (s.g a.reg).toNat)
      if r.state = 2 then .wait s
      else if t && r.state == 4 then .trap s 0x0A (s.g a.reg)
      else if t && r.state == 5 then .trap s 0x0B (s.g a.reg)
      else .ok ((s.countMe 31 1).putG d (sfWord (sfStatus r.state) false)) ()) s

/-- The element of a code and an exponent, exactly (R302). -/
def sampleBits (fp32 : Bool) (q e : Int) : List Byte :=
  if fp32 then toBytes 4 ((fmtOf .fp32).rndInt {} q (e - 13) false).bits
  else toBytes 8 ((fmtOf .fp64).rndInt {} q (e - 13) false).bits

/-- The engine in whose name a region writes (R304). -/
def sfEngine (t : Target) (ctx : Nat) (rp : Bool) : EngOp :=
  { id := 0, req := t, ctx := ctx, graph := 0, unit := 0, rp := rp, taskid := 0, shadow := [], sink := 0, tag := 0, cdep := 0
    trap := false, ack := none }

def cleanBytes (bs : List Byte) : List (Byte × Bool) := bs.map fun b => (b, false)

/-- SFSMP (R302): the sample is written when its reply arrives (R304). -/
def execSfsmp (d : Reg) (a b : Src) (fp32 : Bool) (s : State) : Out :=
  let w := if fp32 then 4 else 8
  sf [a, b] d a.reg (fun s r => s.sfPlaces (s.g b.reg) (w * r.n) w true) (fun r => if r.state = 0 then some 6 else none)
    (fun s k r ps =>
      let u := if r.state = 2 then s.freeU r else r.u
      let clip := r.clips u
      let q := r.codes u
      let bytes := (List.range r.n).flatMap fun j =>
        if imgUsed r.image j then sampleBits fp32 (intAt q j) (intAt r.exps j) else List.replicate w 0
      let plan := (planRuns ps (cleanBytes bytes) []).map fun x => (x.1, x.2.map Prod.fst)
      let s := s.modRegion k fun r =>
        { r with clip := clip, runs := r.runs + 1, smps := r.smps ++ [⟨r.runs, s.me.rp, plan⟩] }
      let o := sfEngine s.meT s.me.ctx s.me.rp
      let s := plan.foldl (fun s x => (s.writePartial o (x.1, cleanBytes x.2)).1) (s.opMark o (pageParts (s.g b.reg) (w * r.n)))
      s.sfAnswer d (sfWord (sfStatus r.state) clip) false (some (k, r.runs))) s

/-- SFHALT (R302). -/
def execSfhalt (d : Reg) (a : Src) (s : State) : Out :=
  sf [a] d a.reg noPlaces (fun _ => none) (fun s k r _ =>
    let st := if r.state = 2 then 6 else r.state
    (s.haltRegion (k / 16) (k % 16)).sfAnswer d (sfWord (sfStatus st) false) false none) s

/-- The word of SFSTAT for a task (R303). -/
def Region.stat (r : Region) (uid : Nat) : Word :=
  BitVec.ofNat 64 (r.state + (r.claim.uid != 0 && r.claim.uid == uid).toNat * 2 ^ 8 + (r.claim.uid != 0).toNat * 2 ^ 9
    + r.hist.length * 2 ^ 10 + r.seed * 2 ^ 12 + r.clip.toNat * 2 ^ 14 + r.dlerr.toNat * 2 ^ 15
    + (if r.state = 0 then 0 else r.nblk) * 2 ^ 24 + r.sunit * 2 ^ 37 + r.sblk * 2 ^ 42)

/-- SFSTAT (R303): it neither claims nor is refused (R300). -/
def execSfstat (d : Reg) (a : Src) (s : State) : Out :=
  issue .v .outer (fun s =>
    (s.examine [a]).bind fun s _ => (s.freeG d).bind fun s _ =>
    (s.sfRegion (s.g a.reg)).bind fun s r =>
    s.waitRpq.bind fun s _ => s.waitAmo.bind fun s _ =>
    .ok (s.sfAnswer d (r.stat s.me.uid) false none) ()) s

/-- SFDLN (R294, R302). -/
def execSfdln (d : Reg) (a b c : Src) (s : State) : Out :=
  sf [a, b, c] d a.reg (fun s r => s.sfPlaces (s.g c.reg) (8 * r.n) 8 true) (fun _ => none) (fun s k _ _ =>
    (s.modMe fun sl => { sl with dline := s.g b.reg, dlb := true, dlreg := BitVec.ofNat 4 k, dlbuf := s.g c.reg }).sfAnswer
      d 0 false none) s

/-- SFACPT (R293, R302): its vector joins the history, unused integrators' elements as +0 (R281), and it blocks until its
reply has arrived in g(d). -/
def execSfacpt (d : Reg) (a b : Src) (s : State) : Out :=
  issue .v .outer (fun s =>
    if s.me.barSent then await (!s.sfOut s.me.uid) s
    else
    (s.examine [a, b]).bind fun s _ => (s.freeG d).bind fun s _ =>
    (s.sfRegion (s.g a.reg)).bind fun s r =>
    (s.sfPlaces (s.g b.reg) (8 * r.n) 8 false).bind fun s ps =>
    s.waitRpq.bind fun s _ => s.waitAmo.bind fun s _ =>
    (await (!s.sfOut s.me.uid) s).bind fun s _ =>
    let k := regionKey s.me.ctx (s.g a.reg).toNat
    let sent (s : State) : Res Unit := .wait (s.modMe fun sl => { sl with barSent := true })
    if r.busy s.me.uid then sent (s.sfAnswer d 5 false none)
    else
      let s := s.sfClaim k
      if r.state = 0 then sent (s.sfAnswer d 6 false none)
      else
        sent (s.sfOperand d ps fun s bs =>
          let v : List Word := (List.range r.n).map fun j =>
            if imgUsed r.image j then BitVec.ofNat 64 (imgField bs (8 * j) 8) else 0
          (s.modRegion k fun r => { r with hist := v :: r.hist.take 1 }).sfAnswer d 0 false none)) s

/-- SFREL (R300, R302). -/
def execSfrel (d : Reg) (a : Src) (s : State) : Out :=
  sf [a] d a.reg noPlaces (fun _ => none) (fun s k _ _ =>
    (s.endClaim (k / 16) (k % 16)).sfAnswer d 0 false none) s

/-! ## Events (R287, R288, R298, R304, R305) -/

/-- A reply arrives; with a sample, its bytes are written first, unless it has been abandoned: HALTED (R301, R304). -/
def execSfReply (t : Target) (d : Reg) (value : Word) (pois : Bool) (smp : Option (Nat × Nat)) (s : State) : Out :=
  let out : State × Word := match smp with
    | none => (s, value)
    | some (k, no) =>
      match s.region? k with
      | none => (s, (4 : Word))
      | some r =>
        match r.smps.find? fun (x : SmpOp) => x.no == no with
        | none => (s, (4 : Word))
        | some x =>
          let s := x.plan.foldl (fun (s : State) p => s.writeRun (sfEngine t (k / 16) x.rp) (p.1, cleanBytes p.2)) s
          (s.modRegion k fun r => { r with smps := r.smps.filter fun y => y.no != no }, value)
  .next (out.1.modTask t fun sl => sl.arriveG d out.2 pois)

/-- A unit leaves its range: the run is SATURATED and what crossed is clamped (R287). -/
def execSettleSaturation (ctx reg : Nat) (states : List Int) (s : State) : Out :=
  .next (match s.region? (regionKey ctx reg) with
    | none => s
    | some r =>
      if r.state ≠ 2 then s
      else
        match r.crossed states with
        | none => s
        | some (b, i) =>
          (s.endRun ctx reg (states.map clampU) 4).modRegion (regionKey ctx reg) fun r => { r with sblk := b, sunit := i })

/-- A run is certified: not before its hold time, not after its timeout, and with states that R289 admits (R288,
R289). -/
def execSettleCertify (ctx reg : Nat) (states : List Int) (s : State) : Out :=
  .next (match s.region? (regionKey ctx reg) with
    | none => s
    | some r =>
      let t := imgTau r.image
      if r.state = 2 && decide (r.start + t * imgHold r.image ≤ s.time) && decide (s.time ≤ r.start + t * imgTmo r.image)
          && r.certifies states && (r.crossed states).isNone then s.endRun ctx reg states 3
      else s)

/-- The timeout passes (R288). -/
def execSettleTimeout (ctx reg : Nat) (states : List Int) (s : State) : Out :=
  .next (match s.region? (regionKey ctx reg) with
    | none => s
    | some r => if r.state = 2 then s.endRun ctx reg (r.within (states.map clampU)) 5 else s)

/-- The samples of a region that have not completed are poisoned (R305). -/
def State.poisonSamples (s : State) (k : Nat) : State :=
  match s.region? k with
  | none => s
  | some r => r.smps.foldl (fun s x => x.plan.foldl (fun s p =>
      (List.range ((p.1 % 32 + p.2.length + 31) / 32)).foldl (fun s i => s.poisonAt (p.1 + 32 * i)) s) s) s

/-- Lost configuration memory (R305). -/
def execSettleConfigError (ctx reg blk : Nat) (s : State) : Out :=
  .next (match s.region? (regionKey ctx reg) with
    | none => s
    | some r =>
      let s := s.poisonSamples (regionKey ctx reg)
      let s := (s.haltRegion ctx reg).modRegion (regionKey ctx reg) fun r => { r with smps := [] }
      s.report ⟨2, 10, 11, (r.first + blk) % 64, r.die, 0, BitVec.ofNat 64 (regionKey ctx reg), 0, none, 0⟩)

/-! ## Deadlines (R294 to R296) -/

/-- The fallback vector of n elements (R294). -/
def Region.fallback (r : Region) : List Word :=
  let f := fmtOf .fp64
  (List.range r.n).map fun j =>
    match r.hist with
    | h1 :: h2 :: _ =>
      BitVec.ofNat 64 (f.fma {} false true 0x4000000000000000 (h1.getD j 0).toNat (h2.getD j 0).toNat).bits
    | [h1] => h1.getD j 0
    | [] => 0

/-- Writes the fallback vector to the bound buffer; a failure sets DLERR and writes nothing (R294). -/
def State.writeFallback (s : State) (t : Target) (sl : Slot) (k : Nat) (r : Region) : State :=
  let bs := r.fallback.flatMap fun w => toBytes 8 w.toNat
  let o := sfEngine t sl.ctx sl.rp
  if bs.isEmpty then s.modRegion k fun r => { r with dlerr := false }
  else
    match s.opPlaces o true (pageParts sl.dlbuf bs.length) with
    | (s, .error _) => s.modRegion k fun r => { r with dlerr := true }
    | (s, .ok ps) =>
      ((planRuns ps (cleanBytes bs) []).foldl (fun s run => s.writeRun o run)
        (s.opMark o (pageParts sl.dlbuf bs.length))).modRegion k fun r => { r with dlerr := false }

/-- What a deadline does to its region when it fires (R294). -/
def State.fireRegion (s : State) (t : Target) (sl : Slot) : State :=
  let k := regionKey sl.ctx sl.dlreg.toNat
  match (if sl.dlb then s.region? k else none) with
  | none => s
  | some r =>
    let s := s.haltRegion sl.ctx sl.dlreg.toNat
    let s := r.smps.foldl (fun s x => x.plan.foldl (fun s p =>
      (s.writePartial (sfEngine t sl.ctx x.rp) (p.1, cleanBytes p.2)).1) s) s
    let s := s.modRegion k fun r => { r with smps := [] }
    s.writeFallback t sl k r

/-- A deadline fires (R294): `ta` is the slot, or 65,536 and the number of a task that is saved (R295, R296). -/
def execDeadlineFire (ta : Nat) (s : State) : Out :=
  let t : Target := if ta < 65536 then ⟨ta, (s.slot ta).uid⟩ else ⟨0, ta - 65536⟩
  .next (match s.task? t with
    | none => s
    | some sl =>
      if sl.dline = 0 ∨ s.time < sl.dline.toNat then s
      else
        (s.fireRegion t sl).modTask t fun sl =>
          { sl with faddr := sl.dline, dlval := sl.dline, dline := 0, fcode := 0x0C, dlpend := true })

/-- A slot leaves its wait at a barrier: its rank waits no more (R181). -/
def State.leaveBars (s : State) (ta : Nat) : State :=
  let sl := s.slot ta
  s.modUnit sl.ctx sl.unit sl.uid fun u => { u with bars := u.bars.map (BarSlot.unwait sl.rank) }

/-- A slot leaves the instruction it is blocked in, which has no effect (R294, R337). -/
def State.leaveWait (s : State) (ta : Nat) : State :=
  let uid := (s.slot ta).uid
  let s := s.withdrawV uid
  let s := s.leaveBars ta
  let s := (s.cores.map Prod.fst).foldl (fun s c =>
    if (s.core c).held.any fun m => m.2 == some uid then
      (s.modCore c fun x => { x with held := x.held.filter fun m => m.2 != some uid }).rxLeft c
    else s) s
  s.modSlot ta fun sl => { sl with sending := false, sent := false, barSent := false }

/-- The diversion of a fired deadline, at an instruction boundary or out of a wait (R294, R296). -/
def execDeadlineDiversion (ta : Nat) (s : State) : Out :=
  let sl := s.slot ta
  .next (if !sl.dlpend then s
    else
      let s := (s.leaveWait ta).modSlot ta fun sl => { sl with dlpend := false, fcode := 0x0C, faddr := sl.dlval }
      if sl.dlfb ≠ 0 then s.modSlot ta fun sl => { sl with pc := sl.dlfb, sptBad := none }
      else s.raise ta 0x0C sl.dlval)

end Sys2Proof.Machine
end

