-- ==== Sys2Proof/Machine/Strand.lean ====
section
/-! DEFINITION. The STR class and the events of strands (11_strands.md R249 to R266). -/

namespace Sys2Proof.Machine

/-! ## Handles (R246, R249, R250) -/

/-- The first item of R250 without its REUSE test; a HOME of this device's own number is 0. How long another device's
table is, that device knows (log 16). -/
def State.handleOk (s : State) (h : Word) : Bool :=
  let dev := slice h 48 12
  slice h 60 4 == 0 && (dev == 0 || dev == s.host.devNo || s.inFabric s.myCtx dev) &&
    slice h 32 16 == s.myCtx.asid && (s.homeOf h != 0 || decide (slice h 0 16 < s.myCtx.strn))

/-- Whether the handle's strand has this device as its home (R268). -/
def State.handleHome (s : State) (h : Word) : Bool := s.homeOf h == 0

/-- The strand that a handle names, by the whole first item of R250: of another device's strand, one of whose ends is on
this device (R268). -/
def State.findEnd (s : State) (h : Word) : Res Strand :=
  if s.handleOk h then
    match s.strandOf s.me.ctx h with
    | some x => .ok s x
    | none => .trap s 0x0E h
  else .trap s 0x0E h

/-- An end that the issuing slot may use: bound to its quad, and of the kind the function needs (R250). -/
def State.useEnd (s : State) (h : Word) (kind : Option Bool) : Res Strand :=
  (s.findEnd h).bind fun s x =>
    let e := x.side (handleSink h)
    if e.st == 0 && e.dev == 0 && e.quad == taQuad s.cur && kind.getD (handleSink h) == handleSink h then .ok s x
    else .trap s 0x0E h

/-- What R249 denies to a handler activation. -/
def State.taskOnly (s : State) (h : Word) : Res Unit := need (!taHnd s.cur) 0x0E h s

/-- A ring of a strand: a local window address, a multiple of the item size, inside the task's share (R253). It
answers the local offset. -/
def State.checkRing (s : State) (va : Word) (size depth : Nat) : Res Nat :=
  (need (va.toNat % size == 0) 0x05 va s).bind fun s _ =>
  if slice va 20 44 ≠ 0x00FF0000000 then .trap s 0x07 va
  else
    match s.protect s.cur va (depth * size) true with
    | some (some _) => .ok s (slice va 0 20)
    | _ => .trap s 0x07 va

/-- The status of what an end knows of its peer (R252). -/
def peerCode (peer : Nat) : Word := if peer = 1 then 4 else if peer = 2 then 2 else 0

/-! ## SOPEN (R253) -/

/-- The lowest free entry of a context's table. -/
def State.freeEntry (s : State) (ctx strn : Nat) : Option Nat :=
  (List.range (Nat.min strn (s.strands.length + 1))).find? fun j => (s.strand? (strandKey ctx j)).isNone

/-- A fresh strand with both ends bound (R253, R328). -/
def freshStrand (ctx idx reuse sz l : Nat) (src snk : StrandEnd) (off : Nat) : Strand :=
  { ctx := ctx, idx := idx, reuse := reuse, s := sz, l := l, src := src, snk := snk
    ringQuad := snk.quad, ringOff := off, ringUid := snk.owner, credits := 2 ^ l }

/-- SOPEN (R253). -/
def execSopen (d : Reg) (a : Src) (sz : BitVec 3) (l : BitVec 4) (s : State) : Out :=
  issue .v .inner (fun s =>
    (s.examine [a]).bind fun s _ => (s.freeG d).bind fun s _ => (s.freeG (d + 1)).bind fun s _ =>
    (s.checkRing (s.g a.reg) (8 * 2 ^ sz.toNat) (2 ^ l.toNat)).bind fun s off =>
    (s.taskOnly 0).bind fun s _ =>
      match s.freeEntry s.me.ctx s.myCtx.strn with
      | none => .ok ((s.putG d 0).putG (d + 1) 0) ()
      | some j =>
        let e : StrandEnd := { quad := taQuad s.cur, owner := s.me.uid, ownerId := s.me.taskid }
        let x := freshStrand s.me.ctx j (s.freeReuse s.me.ctx j) sz.toNat l.toNat e e off
        let asid := s.myCtx.asid
        .ok (((s.putStrand x).putG d (x.handle asid false)).putG (d + 1) (x.handle asid true)) ()) s

/-! ## Sending (R254, R257) -/

/-- Sends one item, or answers the peer's status in g(d); it waits for a credit (R254). The item's strand is kept with
it; the flag says whether it went. -/
def State.sendItem (s : State) (x : Strand) (d : Reg) (item : VWord) (carried : Option Word) : Res Bool :=
  if x.src.peer ≠ 0 then .ok (s.putG d (peerCode x.src.peer)) false
  else if x.credits = 0 then .wait s
  else
    let x' := { x with nsend := x.nsend + 1, credits := x.credits - 1
                       ends := x.ends ++ (match carried with | some h => [(x.nsend, h)] | none => []) }
    let s := s.putStrand x'
    let s := if x.snk.dev = 0 then
        s.post (.strandItemArrival x.ctx x.idx ⟨x.nsend, item, carried.isSome, false⟩)
      else s
    .ok ((s.countMe 23 1).putG d 0) true

/-- The item of SSEND: g(b), or v(c), of which a poisoned one raises POISON (R254). -/
def State.sendValue (s : State) (x : Strand) : SendItem → Res VWord
  | .g b => .ok s ((s.g b.reg).setWidth 2048)
  | .v c =>
    if bit s.me.vpois c.toNat then .trap s 0x04 (zextW c)
    else .ok s (BitVec.ofNat 2048 ((s.me.v[c.toNat]'(c.isLt)).toNat % 2 ^ (8 * x.size)))

/-- The g sources of an item. -/
def sendSrcs : SendItem → List Src
  | .g b => [b]
  | .v _ => []

/-- SSEND (R254). -/
def execSsend (d : Reg) (a : Src) (item : SendItem) (s : State) : Out :=
  issue .v .outer (fun s =>
    (s.examine (a :: sendSrcs item)).bind fun s _ => (s.freeG d).bind fun s _ =>
    s.waitRpq.bind fun s _ => s.waitAmo.bind fun s _ =>
    (s.useEnd (s.g a.reg) (some false)).bind fun s x =>
    (need (match item with | .g _ => x.s == 0 | .v _ => true) 0x0E (s.g a.reg) s).bind fun s _ =>
    (s.sendValue x item).bind fun s v =>
    (s.sendItem x d v none).bind fun s _ => .ok s ()) s

/-- The end g(b) leaves its quad for a device (R257, R259, R260): it is in transit, its anchor is asked for a move, and a source
sends its stopper after its last item. -/
def State.depart (s : State) (y : Strand) (sink : Bool) (dev : Nat) : State :=
  let e := y.side sink
  let y := y.setSide sink { e with st := 1, dev := dev, owner := 0, ownerId := 0, holder := 0, watch := none }
  let y := if sink then y else { y with gates := y.gates ++ [y.nsend], stoppers := y.stoppers ++ [false] }
  let s := (s.putStrand y).post (.strandMoveRequest y.ctx y.idx sink)
  if sink then s else s.post (.strandStopperArrival y.ctx y.idx)

/-- SPASS (R257). -/
def execSpass (d : Reg) (a b : Src) (s : State) : Out :=
  issue .v .outer (fun s =>
    (s.examine [a, b]).bind fun s _ => (s.freeG d).bind fun s _ =>
    s.waitRpq.bind fun s _ => s.waitAmo.bind fun s _ =>
    let h := s.g b.reg
    (s.taskOnly (s.g a.reg)).bind fun s _ =>
    (s.useEnd (s.g a.reg) (some false)).bind fun s x =>
    (s.useEnd h none).bind fun s y =>
    (need (x.key != y.key) 0x0E h s).bind fun s _ =>
    (await (!handleSink h || y.claims.isEmpty) s).bind fun s _ =>
    (s.sendItem x d (h.setWidth 2048) (some h)).bind fun s sent =>
    .ok (if sent then s.depart y (handleSink h) x.snk.dev else s) ()) s

/-! ## Receiving (R255) -/

/-- A g form fits only a strand of 8-byte items (R250). -/
def recvFits (x : Strand) : RecvItem → Bool
  | .g => x.s == 0
  | .v _ => true

def recvV : RecvItem → Option VReg
  | .g => none
  | .v c => some c

/-- g(d + 1) is a destination of the V = 0 form. -/
def State.freeRecv (s : State) (d : Reg) : RecvItem → Res Unit
  | .g => (s.freeG d).bind fun s _ => s.freeG (d + 1)
  | .v _ => s.freeG d

/-- SRECV (R255). -/
def execSrecv (d : Reg) (a : Src) (item : RecvItem) (s : State) : Out :=
  issue .v .inner (fun s =>
    if s.me.sent then .ok s ()
    else if s.me.sending then .wait s
    else
      (s.examine [a]).bind fun s _ => (s.freeRecv d item).bind fun s _ =>
      (s.useEnd (s.g a.reg) (some true)).bind fun s x =>
      (need (recvFits x item) 0x0E (s.g a.reg) s).bind fun s _ =>
        let s := match item with
          | .g => s.modMe fun sl => (sl.pendG d).pendG (d + 1)
          | .v _ => s.modMe fun sl => { sl with sending := true }
        let s := (s.putStrand { x with claims := x.claims ++ [⟨s.meT, d, recvV item, s.ctr⟩] }).serve x.key
        if s.me.sending then .wait s else .ok s ()) s

/-- SPOLL (R255). -/
def execSpoll (d : Reg) (a : Src) (item : RecvItem) (s : State) : Out :=
  issue .v .inner (fun s =>
    (s.examine [a]).bind fun s _ => (s.freeRecv d item).bind fun s _ =>
    (s.useEnd (s.g a.reg) (some true)).bind fun s x =>
    (need (recvFits x item) 0x0E (s.g a.reg) s).bind fun s _ =>
      let c : Claim := ⟨s.meT, d, recvV item, s.ctr⟩
      if x.claims.isEmpty && decide (x.ntake < x.ndeliv) && !s.ringHeld x then
        let (s, x) := s.takeOne x c
        .ok ((s.putStrand x).serve x.key) ()
      else
        match (if x.claims.isEmpty then x.drained else none) with
        | some code => .ok (s.modMe (Slot.takeItem x.size c code none false)) ()
        | none =>
          let s := s.putG d 1
          .ok (match item with | .g => s.putG (d + 1) 0 | .v _ => s) ()) s

/-! ## SACCEPT (R258 to R261) -/

/-- The stub copies the items of the old ring into the new one, in sequence order (R260). -/
def State.copyRing (s : State) (x : Strand) (quad off : Nat) : State :=
  let y := { x with ringQuad := quad, ringOff := off }
  (List.range (x.ndeliv - x.ntake)).foldl (fun s i =>
    let n := x.ntake + i
    let bs := s.bytes (s.itemKey x n) x.size
    let p := s.pois (s.itemKey x n) x.size
    let s := s.putBytes (y.slotKey n) bs
    if p then s.poisonAt (y.slotKey n) else s) s

/-- The end is bound here, and its move is accepted. -/
def State.bindEnd (s : State) (x : Strand) (sink : Bool) (off : Nat) : State :=
  let quad := taQuad s.cur
  let e := x.side sink
  let s := if sink then s.copyRing x quad off else s
  let x := x.setSide sink { e with st := 0, quad := quad, dev := 0, owner := s.me.uid, ownerId := s.me.taskid
                                   wired := false, holder := 0 }
  let x := if sink then { x with ringUid := s.me.uid } else x
  let x := { x with moves := updFirst (fun m => m.sink == sink && !m.accepted) (fun m => { m with accepted := true }) x.moves
                    ringQuad := if sink then quad else x.ringQuad, ringOff := if sink then off else x.ringOff }
  let s := s.putStrand { x with moves := grantRun x.moves }
  let s := if sink then s.post (.strandRouteSwitch x.ctx x.idx) else s
  s.serve x.key

/-- SACCEPT (R258): ALIGN and PROTECT of a ring stand before STRAND (R30); the anchor of another device's strand grants
there (log 16). -/
def execSaccept (d : Reg) (a b : Src) (s : State) : Out :=
  issue .v .outer (fun s =>
    (s.examine [a, b]).bind fun s _ => (s.freeG d).bind fun s _ =>
    let h := s.g a.reg
    let sink := handleSink h
    (s.findEnd h).bind fun s x =>
    (if sink then s.checkRing (s.g b.reg) x.size x.depth else .ok s 0).bind fun s off =>
    (s.taskOnly h).bind fun s _ =>
    (need ((x.side sink).st == 1 && (x.side sink).holder == s.me.uid) 0x0E h s).bind fun s _ =>
    (await ((decide (x.idx < 65536) || Config.freeFlag s.ctr 42) && match x.moves.head? with | some m => m.sink == sink && !m.accepted | none => false) s).bind fun s _ =>
    .ok ((s.bindEnd x sink off).putG d (peerCode (x.side sink).peer)) ()) s

/-! ## SCLOSE, SSTAT, SWATCH, SFLUSH (R263 to R266) -/

/-- SCLOSE (R263). -/
def execSclose (a : Src) (s : State) : Out :=
  issue .v .outer (fun s =>
    (s.examine [a]).bind fun s _ =>
    (s.taskOnly (s.g a.reg)).bind fun s _ =>
    (s.useEnd (s.g a.reg) none).bind fun s x => .ok (s.closeEnd x (handleSink (s.g a.reg))) ()) s

/-- MOVE of an end (R265). -/
def Strand.moveState (x : Strand) (sink : Bool) : Nat :=
  match x.moves.head? with
  | some m =>
    if m.sink = sink then 1
    else if (x.side sink).st = 1 || x.moves.any fun m => m.sink == sink then 2
    else 3
  | none => if (x.side sink).st = 1 then 2 else if (x.side (!sink)).st = 1 then 3 else 0

/-- The word of SSTAT for an end seen from a quad (R265). -/
def Strand.stat (x : Strand) (sink : Bool) (quad : Nat) : Word :=
  let e := x.side sink
  if !e.live then 3
  else
    let state := if e.st = 1 then 2 else if e.quad = quad ∧ e.dev = 0 then 0 else 1
    let wt := match e.watch with | some (_, t) => 32 + t.toNat * 64 | none => 0
    BitVec.ofNat 64 (state + x.moveState sink * 4 + wt + e.peer * 2 ^ 12 + x.s * 2 ^ 24 + x.l * 2 ^ 32
      + (if sink then x.ndeliv - x.ntake else x.credits) * 2 ^ 48)

/-- A word of SSTAT as another device's entry may give it: the fields within their ranges (R265; log 16). -/
def remoteStat (w : Word) : Word :=
  if slice w 0 2 = 3 then 3
  else
    BitVec.ofNat 64 (1 + slice w 0 2 / 2 + slice w 2 3 % 4 * 4 + slice w 5 7 * 32 + slice w 12 4 % 3 * 2 ^ 12 + slice w 24 3 % 6 * 2 ^ 24
      + (1 + slice w 32 4 % 10) * 2 ^ 32 + slice w 48 16 % 1025 * 2 ^ 48)

/-- SSTAT (R265); of a strand of another device that has no end here the word is what that device answers (log 16). -/
def execSstat (d : Reg) (a : Src) (s : State) : Out :=
  issue .v .inner (fun s =>
    (s.examine [a]).bind fun s _ => (s.freeG d).bind fun s _ =>
    let h := s.g a.reg
    (need (s.handleOk h) 0x0E h s).bind fun s _ =>
    match s.strandOf s.me.ctx h with
    | some x => .ok (s.putG d (x.stat (handleSink h) (taQuad s.cur))) ()
    | none => .ok (s.putG d (if s.handleHome h then 3 else remoteStat (Config.freeRemote s.ctr))) ()) s

/-- SWATCH (R264). -/
def execSwatch (a : Src) (t : BitVec 6) (s : State) : Out :=
  issue .v .inner (fun s =>
    (s.examine [a]).bind fun s _ =>
    (s.useEnd (s.g a.reg) none).bind fun s x =>
      let sink := handleSink (s.g a.reg)
      let e : StrandEnd := { x.side sink with watch := some (s.meT, t) }
      if e.peer ≠ 0 then .ok ((s.putStrand (x.setSide sink { e with watch := none })).fireWatch e) ()
      else .ok (s.putStrand (x.setSide sink e)) ()) s

/-- SFLUSH (R266). -/
def execSflush (d : Reg) (a : Src) (s : State) : Out :=
  issue .v .inner (fun s =>
    (s.examine [a]).bind fun s _ => (s.freeG d).bind fun s _ =>
    (s.useEnd (s.g a.reg) (some false)).bind fun s x =>
    (await (if x.snk.dev = 0 then decide (x.nsend ≤ x.ndeliv) else Config.freeFlag s.ctr 40) s).bind fun s _ =>
    .ok (s.putG d (peerCode x.src.peer)) ()) s

/-! ## Events -/

/-- An item reaches the sink: it waits its turn, or is discarded where the sink is gone (R254, R256, R262). From another
device it brings its number and a rewritten handle; to a sink there it goes on (R268). -/
def execStrandItemArrival (ctx entry : Nat) (it : StrandItem) (s : State) : Out :=
  .next (match s.strand? (strandKey ctx entry) with
    | none => s
    | some x =>
      let far := x.src.dev != 0
      let h := s.crossed x.src.dev (it.item.setWidth 64)
      let it := if far && it.isEnd then { it with item := h.setWidth 2048 } else it
      let x := if far then { x with nsend := Nat.max x.nsend (it.seq + 1)
                                    ends := if it.isEnd then x.ends ++ [(it.seq, h)] else x.ends } else x
      if x.snk.st = 0 ∧ x.snk.dev ≠ 0 then s.putStrand x
      else if x.snk.live then (s.putStrand { x with arrived := x.arrived ++ [it] }).serve x.key
      else
        let carried := x.ends.filter fun e => e.1 == it.seq
        let s := s.putStrand { x with ndeliv := x.ndeliv + 1, ends := x.ends.filter fun e => e.1 != it.seq }
        s.orphan (carried.filterMap fun e => (s.strandOf ctx e.2).map fun y => (y.key, handleSink e.2)))

/-- A credit reaches the source (R254, R255): of a sink on another device it tells that an item was taken there (R268). -/
def execStrandCreditReturn (ctx entry : Nat) (s : State) : Out :=
  .next (match s.strand? (strandKey ctx entry) with
    | none => s
    | some x =>
      let taken := if x.snk.dev = 0 then x.ntake else Nat.min (x.ntake + 1) x.nsend
      s.putStrand { x with credits := Nat.min (x.credits + 1) x.depth, ntake := taken
                           ndeliv := if x.snk.dev = 0 then x.ndeliv else Nat.max x.ndeliv taken })

/-- An end that has gone to another device is bound there once its move is granted (R261, R268; log 16). -/
def State.bindAway (s : State) (x : Strand) (sink : Bool) : State :=
  let e := x.side sink
  if e.dev = 0 ∨ e.st ≠ 1 then s
  else if (match x.moves.head? with | some m => m.sink == sink && !m.accepted | none => false) && Config.freeFlag s.ctr 42 then
    let x := x.setSide sink { e with st := 0, quad := slice (Config.freeRemote s.ctr) 0 11 }
    let moves := updFirst (fun m => m.sink == sink && !m.accepted) (fun m => { m with accepted := true }) x.moves
    let s := s.putStrand { x with moves := grantRun moves, arrived := if sink then [] else x.arrived }
    if sink then s.post (.strandRouteSwitch x.ctx x.idx) else s
  else s.post (.strandMoveRequest x.ctx x.idx sink)

/-- A request for a move reaches the anchor (R257, R261); while an end is on its way to another device it stands for what
happens there. -/
def execStrandMoveRequest (ctx entry : Nat) (sink : Bool) (s : State) : Out :=
  .next (match s.strand? (strandKey ctx entry) with
    | none => s
    | some x =>
      let e := x.side sink
      if sink && !x.snk.live then s
      else if e.dev ≠ 0 ∧ x.moves.any fun m => m.sink == sink && !m.accepted then s.bindAway x sink
      else
        let x := if e.dev ≠ 0 ∧ e.st = 0 then x.setSide sink { e with st := 1 } else x
        let m : StrandMove := { sink := sink, accepted := !(x.side sink).live, stopped := !x.snk.live
                                old := (x.side sink).quad }
        let s := s.putStrand { x with moves := grantRun (x.moves ++ [m]) }
        if e.dev ≠ 0 then s.post (.strandMoveRequest ctx entry sink) else s)

/-- A stopper reaches the sink, or the stub that it retires (R259, R260). -/
def execStrandStopperArrival (ctx entry : Nat) (s : State) : Out :=
  .next (match s.strand? (strandKey ctx entry) with
    | none => s
    | some x =>
      let sink := x.stoppers.headD true
      let moves := updFirst (fun m => m.sink == sink && !m.stopped && (!sink || m.accepted)) (fun m => { m with stopped := true }) x.moves
      let x := { x with stoppers := x.stoppers.drop 1, moves := grantRun moves
                        gates := if sink then x.gates else x.gates.drop 1 }
      (s.putStrand x).serve x.key)

/-- The new route reaches the source, which sends a stopper down the old one (R260). -/
def execStrandRouteSwitch (ctx entry : Nat) (s : State) : Out :=
  .next (match s.strand? (strandKey ctx entry) with
    | none => s
    | some x =>
      (s.putStrand { x with stoppers := x.stoppers ++ [true] }).post (.strandStopperArrival ctx entry))

/-- A fray reaches the peer of an orphaned end (R262); a source on another device is orphaned there. -/
def execStrandFray (ctx entry : Nat) (s : State) : Out :=
  .next (match s.strand? (strandKey ctx entry) with
    | none => s
    | some x =>
      if x.src.dev ≠ 0 ∧ x.src.live then (s.putStrand { x with src := { x.src with st := 2 } }).peerGone x.key true 2
      else s.peerGone x.key (x.src.st == 2) 2)

end Sys2Proof.Machine
end

