-- ==== Sys2Proof/Machine/Sys.lean ====
section
/-! DEFINITION. The SYS instructions (19_preemption.md R342, R343; 01_machine.md R25, R26) and the PMC instructions
(20_measurement.md R354 to R357). -/

namespace Sys2Proof.Machine

/-- TRAP (R342). -/
def execTrap (imm : W32) (s : State) : Out := issue .s .outer (fun s => .trap s 0x12 (zextW imm)) s

/-- A special register of a slot, by its index (R25); RPQ and TIME come from the core and the device. -/
def State.special (s : State) (sl : Slot) (rpq : Nat) (i : Nat) : Word :=
  match i with
  | 0 => sl.taskid
  | 1 => sl.tcoord
  | 2 => sl.arg
  | 3 => sl.ctxid
  | 4 => sl.self
  | 5 => BitVec.ofNat 64 s.time
  | 6 => BitVec.ofNat 64 sl.budget
  | 7 => sl.fpctl
  | 8 => sl.tagrdy
  | 9 => sl.ggeo0
  | 10 => sl.ggeo1
  | 11 => sl.spt
  | 12 => sl.fcont
  | 13 => sl.fcode
  | 14 => sl.faddr
  | 15 => sl.dline
  | 16 => sl.dlfb
  | 17 => BitVec.ofNat 64 sl.stq
  | 18 => BitVec.ofNat 64 rpq
  | 19 => sl.graph
  | 20 => sl.capl
  | 21 => sl.pairst
  | _ => 0

/-- RDSR (R342): TIME is pending until it arrives (R22). -/
def execRdsr (d : Reg) (i : BitVec 6) (s : State) : Out :=
  issue .s .inner (fun s =>
    if 22 ≤ i.toNat then .trap s 0x01 s.me.pc
    else (s.freeG d).bind fun s _ =>
      let v := s.special s.me (s.rpqN s.cur) i.toNat
      if i = 5 ∧ d ≠ 0 then
        .ok ((s.modMe fun sl => sl.pendG d).post (.loadDataArrival s.meT d v false)) ()
      else .ok (s.putG d v) ()) s

/-- WRSR (R25, R26, R294). -/
def execWrsr (i : BitVec 6) (a : Src) (s : State) : Out :=
  issue .s .inner (fun s =>
    if 22 ≤ i.toNat then .trap s 0x01 s.me.pc
    else (s.examine [a]).bind fun s _ =>
      let v := s.g a.reg
      match i.toNat with
      | 7 => if fpctlOk v then .ok (s.modMe fun sl => { sl with fpctl := v &&& fpctlMask }) () else .trap s 0x01 s.me.pc
      | 9 => .ok (s.modMe fun sl => { sl with ggeo0 := v }) ()
      | 10 => .ok (s.modMe fun sl => { sl with ggeo1 := v }) ()
      | 12 => .ok (s.modMe fun sl => { sl with fcont := v }) ()
      | 15 => .ok (s.modMe fun sl => { sl with dline := v }) ()
      | 16 => .ok (s.modMe fun sl => { sl with dlfb := v }) ()
      | _ => .trap s 0x07 (zextW i)) s

/-- Moves a running task from one slot to another of its quad, with the remote writes that wait for it. -/
def State.moveTask (s : State) (src dst : Nat) : State :=
  let sl := s.slot src
  let mine (m : RxMsg) : Bool := m.kind == 0 && m.ta == src && m.uid == sl.uid
  let mail := (s.core (taCore src)).rxq.filter mine
  let s := s.modCore (taCore src) fun c => { c with rxq := c.rxq.filter fun m => !mine m }
  let s := (s.setSlot dst { sl with self := BitVec.ofNat 64 dst }).setSlot src {}
  let s := s.modUnit sl.ctx sl.unit sl.uid fun u =>
    { u with members := u.members.map fun m => if m.uid = sl.uid then { m with ta := dst } else m }
  (mail.foldl (fun s m => s.rxArrive (taCore dst) { m with ta := dst } none) s).rxLeft (taCore src)

/-- PAIR (R343): the pair is the slot on the lower-numbered core (22_ras_power.md, "Lashed pairs"). -/
def execPair (d : Reg) (s : State) : Out :=
  issue .s .outer (fun s =>
    (need (!taHnd s.cur) 0x07 0 s).bind fun s _ => (s.freeG d).bind fun s _ =>
    s.waitRpq.bind fun s _ => s.waitAmo.bind fun s _ => (await (s.me.stq == 0) s).bind fun s _ =>
    let other := partnerOf s.cur
    if s.me.paired then .ok (s.putG d 2) ()
    else if !s.idle other then .ok (s.putG d 1) ()
    else
      let main := pairMain s.cur
      let s := if main = s.cur then s else { s.moveTask s.cur main with cur := main }
      let s := (s.putG d 0).modMe fun sl => { sl with pairst := pairstOf main, retired := 0, heldSt := [] }
      let s := s.setSlot (partnerOf main) { st := .running, partner := some main }
      .ok { s with agreed := Store.set s.agreed s.me.uid { s.me with pc := s.nextPc } } ()) s

/-- UNPAIR (R343): the exchange that it forces has agreed; a disagreement is the event LASHED_EXCHANGE. -/
def execUnpair (d : Reg) (s : State) : Out :=
  issue .s .outer (fun s =>
    (need (!taHnd s.cur) 0x07 0 s).bind fun s _ => (s.freeG d).bind fun s _ =>
    if !s.me.paired then .ok (s.putG d 2) ()
    else
      let u := s.me.uid
      let s := (s.setSlot (partnerOf s.cur) {}).putG d 0
      let s := s.modMe fun sl => { sl with pairst := 0, retired := 0 }
      .ok { s with agreed := s.agreed.filter fun p => p.1 != u } ()) s

/-! ## PMC -/

/-- Changes counter n of a core. -/
def CoreSt.modPmc (c : CoreSt) (n : Nat) (f : PmCounter → PmCounter) : CoreSt :=
  { c with pmc := (List.range 4).map fun i => if i = n then f (c.pmc.getD i {}) else c.pmc.getD i {} }

/-- PMCFG (R355): it is not counted itself by the configuration it sets. -/
def execPmcfg (d : Reg) (n : BitVec 2) (a : Src) (s₀ : State) : Out :=
  match ((s₀.preIssue .inner).examine [a]).bind fun s _ => s.freeG d with
  | .wait s => .next s
  | .trap s c v => .next ((s.uncount s₀).raise s₀.cur c v)
  | .ok s _ =>
    let s := s.countIssue .s
    let w := s.g a.reg
    let k := (s.core s.myCore).pmc.getD n.toNat {}
    let held := bit k.cfg 9
    let s :=
      if slice w 10 54 ≠ 0 ∨ slice w 6 2 ≠ 0 ∨ 32 ≤ slice w 0 6 then s.putG d 2
      else if k.replay || (held && k.ctx != some s.me.ctx) then s.putG d 1
      else if bit w 9 then
        (s.modCore s.myCore fun c => c.modPmc n.toNat fun _ => { cfg := w, count := 0, ctx := some s.me.ctx, uid := s.me.uid, since := s.ctr }).putG d 0
      else (s.modCore s.myCore fun c => c.modPmc n.toNat fun _ => {}).putG d 0
    .next (s.retireTo s.nextPc)

/-- PMRD (R356). -/
def execPmrd (d : Reg) (n : BitVec 2) (s : State) : Out :=
  issue .s .inner (fun s => (await (!s.me.anyPending) s).bind fun s _ =>
    let k := (s.core s.myCore).pmc.getD n.toNat {}
    .ok (s.putG d (if bit k.cfg 9 && !k.replay && k.ctx == some s.me.ctx then BitVec.ofNat 64 k.count else 0)) ()) s

/-- MARK (R357). -/
def execMark (a : Src) (imm : W32) (s : State) : Out :=
  issue .s .outer (fun s => (s.examine [a]).bind fun s _ =>
    .ok (s.note ⟨5, s.me.ctx, 0, imm, s.selfAddr, s.g a.reg⟩) ()) s

end Sys2Proof.Machine
end

