-- ==== Sys2Proof/Machine/Vector.lean ====
section
/-! DEFINITION. The vector and mask instructions (05_vector.md R116 to R135). -/

namespace Sys2Proof.Machine

/-! ## Lanes (R116) -/

def State.vreg (s : State) (r : VReg) : VWord := s.me.v[r.toNat]'(r.isLt)
def State.kreg (s : State) (r : KReg) : KWord := s.me.k[r.toNat]'(r.isLt)

/-- Lane i of width w. -/
def lane (w : Nat) (x : VWord) (i : Nat) : Nat := slice x (w * i) w

/-- The number that lanes of width w make, the first the lowest. -/
def joinLanes (w : Nat) : List Nat → Nat
  | [] => 0
  | x :: xs => x % 2 ^ w + 2 ^ w * joinLanes w xs

def ofLanes (w : Nat) (l : List Nat) : VWord := BitVec.ofNat 2048 (joinLanes w l)

/-- Whether lane i is active (R117). -/
def State.laneOn (s : State) (m : VMask) (i : Nat) : Bool := !m.en || bit (s.kreg m.k) i

/-- The active lanes among the first n. -/
def State.actives (s : State) (m : VMask) (n : Nat) : List Nat := (List.range n).filter fun i => s.laneOn m i

/-- Whether a v register is poisoned. -/
def State.vpois (s : State) (r : VReg) : Bool := bit s.me.vpois r.toNat

/-- Writes a v register with its flag (R24). -/
def State.putV (s : State) (d : VReg) (x : VWord) (pois : Bool) : State :=
  s.modMe fun sl =>
    { sl with v := sl.v.set d.toNat x d.isLt
              vpois := if pois then sl.vpois ||| (1#32 <<< d.toNat) else sl.vpois &&& ~~~(1#32 <<< d.toNat) }

def State.putK (s : State) (d : KReg) (x : KWord) : State :=
  s.modMe fun sl => { sl with k := sl.k.set d.toNat x d.isLt }

/-- Whether old lanes of a destination survive (R118): merge with an inactive lane. -/
def State.survives (s : State) (m : VMask) (n : Nat) : Bool := m.en && !m.z && (List.range n).any fun i => !s.laneOn m i

/-- Writes a destination lane by lane: a result in each active lane, else 0 or the old lane (R117). -/
def State.putLanes (s : State) (d : VReg) (w : Nat) (m : VMask) (res : List (Option Nat)) (srcPois : Bool) : State :=
  let old := s.vreg d
  let l := (List.range (2048 / w)).map fun i =>
    match res.getD i none with
    | some x => x
    | none => if m.z then 0 else lane w old i
  s.putV d (ofLanes w l) (srcPois || (s.survives m (2048 / w) && s.vpois d))

/-- Lanes are counted (R353). -/
def State.countLanes (s : State) (m : VMask) (n : Nat) : State := s.countMe 27 (s.actives m n).length

/-! ## Results with rounding (R66, R119) -/

/-- The results of the active lanes in order, with the LFSR's state and the flags. Each active lane of an RSR operation
takes one step. -/
def laneRun (env : FpEnv) (act : Nat → Bool) (op : FpEnv → Nat → FpRes) : List Nat → W32 → List (Option Nat) × W32 × FpFlags
  | [], l => ([], l, {})
  | i :: is, l =>
    if act i then
      let l' := if env.mode = .rsr then lfsrStep l else l
      let r := op { env with draw := l'.toNat } i
      let (rs, l'', fl) := laneRun env act op is l'
      (some r.bits :: rs, l'', r.flags.or fl)
    else
      let (rs, l', fl) := laneRun env act op is l
      (none :: rs, l', fl)

/-- The rounding environment of an instruction: its mode, and FTZ. -/
def State.fpEnv (s : State) (rm : Rm) : FpEnv := { mode := s.me.mode rm, ftz := s.me.ftz }

/-- The LFSR and the flags after an instruction. -/
def State.putFp (s : State) (l : W32) (f : FpFlags) : State := (s.modMe fun sl => { sl with lfsr := l }).setFlags f

/-- A lane-wise function of the registers `srcs` that writes v(d). -/
def vecOp (d : VReg) (ty : Ty) (rm : Rm) (m : VMask) (srcs : List VReg) (op : State → FpEnv → Nat → FpRes) (s₀ : State) : Out :=
  issue .v .inner (fun s =>
    let w := ty.width
    let (rs, l, fl) := laneRun (s.fpEnv rm) (s.laneOn m) (op s) (List.range (2048 / w)) s.me.lfsr
    .ok (((s.countLanes m (2048 / w)).putLanes d w m rs (srcs.any fun r => s.vpois r)).putFp l fl) ()) s₀

/-! ## VARITH (R122, R123) -/

/-- An exact integer result. -/
def intRes (w : Nat) (i : Int) : FpRes := ⟨ofInt w i, {}⟩

/-- The two-source functions: 0 VADD, 1 VSUB, 2 VMUL, 3 VDIV, 4 VMIN, 5 VMAX, 17 VSHL, 18 VSHR, 19 VSRA, 20 VAND, 21 VOR,
22 VXOR, 23 VMULH. -/
def arith2 (f : Nat) (ty : Ty) (env : FpEnv) (x y : Nat) : FpRes :=
  let w := ty.width
  let fm := fmtOf ty
  let sx := asInt w x
  let sy := asInt w y
  let sh := y % w
  match f with
  | 0 => if ty.isInt then intRes w (sx + sy) else fm.add env x y
  | 1 => if ty.isInt then intRes w (sx - sy) else fm.sub env x y
  | 2 => if ty.isInt then intRes w (sx * sy) else fm.mul env x y
  | 3 => fm.div env x y
  | 4 => if ty.isInt then intRes w (min sx sy) else fm.minmax env false x y
  | 5 => if ty.isInt then intRes w (max sx sy) else fm.minmax env true x y
  | 17 => ⟨x * 2 ^ sh % 2 ^ w, {}⟩
  | 18 => ⟨x / 2 ^ sh, {}⟩
  | 19 => intRes w (sx / 2 ^ sh)
  | 20 => ⟨x &&& y, {}⟩
  | 21 => ⟨x ||| y, {}⟩
  | 22 => ⟨x ^^^ y, {}⟩
  | _ => intRes w (sx * sy / 2 ^ w)

/-- VABS and VNEG of a float: exact, but for a NaN and FTZ (R123). -/
def signRes (f : Fmt) (env : FpEnv) (neg : Bool) (x : Nat) : FpRes :=
  match f.num env.ftz x with
  | .nan sig => f.nanRes sig
  | _ =>
    let y := f.read env.ftz x
    ⟨if neg then f.negate y else y % 2 ^ (f.width - 1), {}⟩

/-- The one-source functions: 6 VABS, 7 VNEG, 8 VSQRT, 12 VRCP, 13 VRSQ, 14 VEXP2, 15 VLOG2. -/
def arith1 (f : Nat) (ty : Ty) (env : FpEnv) (x : Nat) : FpRes :=
  let w := ty.width
  let fm := fmtOf ty
  match f with
  | 6 => if ty.isInt then intRes w (asInt w x).natAbs else signRes fm env false x
  | 7 => if ty.isInt then intRes w (-(asInt w x)) else signRes fm env true x
  | 8 => fm.sqrt env x
  | 12 => estFn 2 ty env.ftz x
  | 13 => estFn 3 ty env.ftz x
  | 14 => estFn 0 ty env.ftz x
  | _ => estFn 1 ty env.ftz x

def varith2 (f : Nat) (o : V2) (s : State) : Out :=
  vecOp o.d o.ty o.rm o.m [o.a, o.b] (fun s env i =>
    arith2 f o.ty env (lane o.ty.width (s.vreg o.a) i) (lane o.ty.width (s.vreg o.b) i)) s

def varith1 (f : Nat) (o : V1) (s : State) : Out :=
  vecOp o.d o.ty o.rm o.m [o.a] (fun s env i => arith1 f o.ty env (lane o.ty.width (s.vreg o.a) i)) s

/-- VFMA, and with signs turned VFMS and VFNMA (R122, R123). -/
def varith3 (np nz : Bool) (o : V3) (s : State) : Out :=
  vecOp o.d o.ty o.rm o.m [o.a, o.b, o.c] (fun s env i =>
    (fmtOf o.ty).fma env np nz (lane o.ty.width (s.vreg o.a) i) (lane o.ty.width (s.vreg o.b) i)
      (lane o.ty.width (s.vreg o.c) i)) s

def execVaddX (o : V2) (s : State) : Out := varith2 0 o s
def execVsubX (o : V2) (s : State) : Out := varith2 1 o s
def execVmulX (o : V2) (s : State) : Out := varith2 2 o s
def execVdiv (o : V2) (s : State) : Out := varith2 3 o s
def execVminX (o : V2) (s : State) : Out := varith2 4 o s
def execVmaxX (o : V2) (s : State) : Out := varith2 5 o s
def execVabs (o : V1) (s : State) : Out := varith1 6 o s
def execVneg (o : V1) (s : State) : Out := varith1 7 o s
def execVsqrt (o : V1) (s : State) : Out := varith1 8 o s
def execVfma (o : V3) (s : State) : Out := varith3 false false o s
def execVfms (o : V3) (s : State) : Out := varith3 false true o s
def execVfnma (o : V3) (s : State) : Out := varith3 true false o s
def execVrcp (o : V1) (s : State) : Out := varith1 12 o s
def execVrsq (o : V1) (s : State) : Out := varith1 13 o s
def execVexp2 (o : V1) (s : State) : Out := varith1 14 o s
def execVlog2 (o : V1) (s : State) : Out := varith1 15 o s
def execVshl (o : V2) (s : State) : Out := varith2 17 o s
def execVshr (o : V2) (s : State) : Out := varith2 18 o s
def execVsra (o : V2) (s : State) : Out := varith2 19 o s
def execVandX (o : V2) (s : State) : Out := varith2 20 o s
def execVorX (o : V2) (s : State) : Out := varith2 21 o s
def execVxorX (o : V2) (s : State) : Out := varith2 22 o s
def execVmulh (o : V2) (s : State) : Out := varith2 23 o s

/-- VSEL (R122, R123): its own selector under the mask. -/
def execVsel (o : VSelOp) (s : State) : Out :=
  vecOp o.d o.ty .rne o.m [o.a, o.b] (fun s _ i =>
    ⟨lane o.ty.width (s.vreg (if bit (s.kreg o.c) i then o.a else o.b)) i, {}⟩) s

/-- The native words: every lane active, RNE (R120). -/
def vnative (f : Nat) (d a b : VReg) (ty : Ty) (s : State) : Out := varith2 f ⟨d, a, b, ty, .rne, ⟨false, false, 0⟩⟩ s

def execVadd (d a b : VReg) (ty : Ty) (s : State) : Out := vnative 0 d a b ty s
def execVsub (d a b : VReg) (ty : Ty) (s : State) : Out := vnative 1 d a b ty s
def execVmul (d a b : VReg) (ty : Ty) (s : State) : Out := vnative 2 d a b ty s
def execVmin (d a b : VReg) (ty : Ty) (s : State) : Out := vnative 4 d a b ty s
def execVmax (d a b : VReg) (ty : Ty) (s : State) : Out := vnative 5 d a b ty s
def execVand (d a b : VReg) (ty : Ty) (s : State) : Out := vnative 20 d a b ty s
def execVor (d a b : VReg) (ty : Ty) (s : State) : Out := vnative 21 d a b ty s
def execVxor (d a b : VReg) (ty : Ty) (s : State) : Out := vnative 22 d a b ty s

/-! ## VCMP (R124, R125) -/

/-- A comparison with whether it sets NV: 0 EQ, 1 NE, 2 LT, 3 LE, 4 GT, 5 GE, 6 UN, 7 LTU. -/
def cmpRes (f : Nat) (ty : Ty) (ftz : Bool) (x y : Nat) : Bool × Bool :=
  let w := ty.width
  if ty.isInt then
    let a := asInt w x
    let b := asInt w y
    (match f with
      | 0 => a == b | 1 => a != b | 2 => decide (a < b) | 3 => decide (a ≤ b) | 4 => decide (b < a)
      | 5 => decide (b ≤ a) | _ => decide (x < y), false)
  else
    let fm := fmtOf ty
    let sig := (fm.num ftz x).isSig || (fm.num ftz y).isSig
    match fm.cmp ftz x y with
    | none => (f == 1 || f == 6, if 2 ≤ f ∧ f ≤ 5 then true else sig)
    | some c =>
      (match f with
        | 0 => c == .eq | 1 => c != .eq | 2 => c == .lt | 3 => c != .gt | 4 => c == .gt | 5 => c != .lt | _ => false, false)

/-- The first poisoned register of a list raises POISON with its number (R118). -/
def State.cleanV (s : State) (l : List VReg) : Res Unit :=
  match l.find? fun r => s.vpois r with
  | some r => .trap s 0x04 (zextW r)
  | none => .ok s ()

/-- A k register from its bits. -/
def ofBits (l : List Bool) : KWord := BitVec.ofNat 256 (joinLanes 1 (l.map Bool.toNat))

def vcmp (f : Nat) (o : VCmpOp) (s₀ : State) : Out :=
  issue .v .inner (fun s =>
    (s.cleanV [o.a, o.b]).bind fun s _ =>
    let w := o.ty.width
    let n := 2048 / w
    let res (i : Nat) : Bool × Bool :=
      if s.laneOn o.m i then cmpRes f o.ty s.me.ftz (lane w (s.vreg o.a) i) (lane w (s.vreg o.b) i)
      else (!o.m.z && bit (s.kreg o.d) i, false)
    let rs := (List.range n).map res
    .ok (((s.countLanes o.m n).putK o.d (ofBits (rs.map Prod.fst))).setFlags { nv := rs.any Prod.snd }) ()) s₀

def execVcmpEq (o : VCmpOp) (s : State) : Out := vcmp 0 o s
def execVcmpNe (o : VCmpOp) (s : State) : Out := vcmp 1 o s
def execVcmpLt (o : VCmpOp) (s : State) : Out := vcmp 2 o s
def execVcmpLe (o : VCmpOp) (s : State) : Out := vcmp 3 o s
def execVcmpGt (o : VCmpOp) (s : State) : Out := vcmp 4 o s
def execVcmpGe (o : VCmpOp) (s : State) : Out := vcmp 5 o s
def execVcmpUn (o : VCmpOp) (s : State) : Out := vcmp 6 o s
def execVcmpLtu (o : VCmpOp) (s : State) : Out := vcmp 7 o s

/-! ## VCVT (R126, R127) -/

/-- cvt with the saturate bit of R127. -/
def cvtRes (st dt : Ty) (env : FpEnv) (sat : Bool) (x : Nat) : FpRes :=
  let r := convert st dt env sat x
  if sat && !dt.isInt && dt.width != 8 && r.flags.ov then
    let f := fmtOf dt
    ⟨f.sign (decide (2 ^ (f.width - 1) ≤ r.bits)) + f.maxBits, { r.flags with ov := false, sat := true, nx := true }⟩
  else r

/-- VCVT (R126): part `part` of the narrower register. -/
def execVcvt (o : VCvtOp) (s₀ : State) : Out :=
  issue .v .inner (fun s =>
    let ws := o.sty.width
    let wd := o.dty.width
    let m := 2048 / Nat.max ws wd
    let p := o.part.toNat * m
    let a := s.vreg o.a
    let src (j : Nat) : Nat := if ws < wd then lane ws a (p + j) else lane ws a j
    let (rs, l, fl) := laneRun (s.fpEnv o.rm) (s.laneOn o.m) (fun env j => cvtRes o.sty o.dty env o.sat (src j))
      (List.range m) s.me.lfsr
    let base := if ws < wd then 0 else p
    let old := s.vreg o.d
    let out (i : Nat) : Nat :=
      if i < base ∨ base + m ≤ i then lane wd old i
      else
        match rs.getD (i - base) none with
        | some x => x
        | none => if o.m.z then 0 else lane wd old i
    let kept := s.survives o.m m || decide (wd < ws)
    .ok (((s.countLanes o.m m).putV o.d (ofLanes wd ((List.range (2048 / wd)).map out))
      (s.vpois o.a || (kept && s.vpois o.d))).putFp l fl) ()) s₀

/-! ## VRED (R80, R128) -/

/-- One level of the tree: pairs from the left, each a node. -/
def redLevel (env : FpEnv) (op : FpEnv → Nat → Nat → FpRes) : List Nat → W32 → List Nat × W32 × FpFlags
  | x :: y :: rest, l =>
    let l' := if env.mode = .rsr then lfsrStep l else l
    let r := op { env with draw := l'.toNat } x y
    let (rs, l'', fl) := redLevel env op rest l'
    (r.bits :: rs, l'', r.flags.or fl)
  | xs, l => (xs, l, {})

/-- The tree, level by level (R80). -/
def redTree (env : FpEnv) (op : FpEnv → Nat → Nat → FpRes) : Nat → List Nat → W32 → Nat × W32 × FpFlags
  | 0, xs, l => (xs.headD 0, l, {})
  | n + 1, xs, l =>
    match xs with
    | [x] => (x, l, {})
    | _ =>
      let (ys, l', fl) := redLevel env op xs l
      let (r, l'', fl') := redTree env op n ys l'
      (r, l'', fl.or fl')

/-- The identities (R80). -/
def redIdentity (f : Nat) (ty : Ty) : Nat :=
  let w := ty.width
  let fm := fmtOf ty
  match f with
  | 0 => if ty.isInt then 0 else fm.sign true
  | 5 => if ty.isInt then 2 ^ (w - 1) else fm.sign true + fm.infBits
  | 4 => if ty.isInt then 2 ^ (w - 1) - 1 else fm.infBits
  | 20 => 2 ^ w - 1
  | _ => 0

/-- VRED by the function of `arith2` that it folds with (R128). -/
def vred (f : Nat) (o : V1) (s₀ : State) : Out :=
  issue .v .inner (fun s =>
    let w := o.ty.width
    let n := 2048 / w
    let xs := (List.range n).map fun i => if s.laneOn o.m i then lane w (s.vreg o.a) i else redIdentity f o.ty
    let (r, l, fl) := redTree (s.fpEnv o.rm) (arith2 f o.ty) 8 xs s.me.lfsr
    .ok (((s.countLanes o.m n).putV o.d (BitVec.ofNat 2048 r) (s.vpois o.a)).putFp l fl) ()) s₀

def execVredAdd (o : V1) (s : State) : Out := vred 0 o s
def execVredMax (o : V1) (s : State) : Out := vred 5 o s
def execVredMin (o : V1) (s : State) : Out := vred 4 o s
def execVredAnd (o : V1) (s : State) : Out := vred 20 o s
def execVredOr (o : V1) (s : State) : Out := vred 21 o s

/-! ## VPERM (R129, R130) -/

def execVperm (o : VPermOp) (s : State) : Out :=
  vecOp o.d o.ty .rne o.m [o.a, o.b] (fun s _ i =>
    let w := o.ty.width
    ⟨lane w (s.vreg o.a) (lane w (s.vreg o.b) i % (2048 / w)), {}⟩) s

def execVslide (o : VSlideOp) (s : State) : Out :=
  vecOp o.d o.ty .rne o.m [o.a, o.b] (fun s _ i =>
    let w := o.ty.width
    let n := 2048 / w
    ⟨if i + o.s.toNat < n then lane w (s.vreg o.a) (i + o.s.toNat) else lane w (s.vreg o.b) (i + o.s.toNat - n), {}⟩) s

def execViota (o : VIotaOp) (s : State) : Out :=
  vecOp o.d o.ty .rne o.m [] (fun s _ i => ⟨(s.actives o.m i).length, {}⟩) s

/-- VBCAST (R130). -/
def execVbcast (o : VBcastOp) (s₀ : State) : Out :=
  issue .v .inner (fun s =>
    (s.examine [o.a]).bind fun s _ =>
    let w := o.ty.width
    let x := (s.g o.a.reg).toNat % 2 ^ w
    let rs := (List.range (2048 / w)).map fun i => if s.laneOn o.m i then some x else none
    .ok ((s.countLanes o.m (2048 / w)).putLanes o.d w o.m rs false) ()) s₀

/-- The index of VEXTR and VINS (R130). -/
def State.laneIdx (s : State) (b : Reg) (imm : W32) (n : Nat) : Nat := (s.g b + sextW imm).toNat % n

/-- VEXTR (R130): a poisoned source gives POISON presence (R118). -/
def execVextr (o : VExtrOp) (s₀ : State) : Out :=
  issue .v .inner (fun s =>
    (s.examine [o.b]).bind fun s _ => (s.freeG o.d).bind fun s _ =>
    let w := o.ty.width
    let x := lane w (s.vreg o.a) (s.laneIdx o.b.reg o.idx (2048 / w))
    let v : Word := if o.ty.isInt then BitVec.ofInt 64 (asInt w x) else BitVec.ofNat 64 x
    .ok ((s.countMe 27 1).modMe fun sl => sl.arriveG o.d v (s.vpois o.a)) ()) s₀

/-- VINS (R130): the old destination counts as read (R118). -/
def execVins (o : VInsOp) (s₀ : State) : Out :=
  issue .v .inner (fun s =>
    (s.examine [o.a, o.b]).bind fun s _ =>
    let w := o.ty.width
    let k := s.laneIdx o.b.reg o.idx (2048 / w)
    let l := (List.range (2048 / w)).map fun i => if i = k then (s.g o.a.reg).toNat else lane w (s.vreg o.d) i
    .ok ((s.countMe 27 1).putV o.d (ofLanes w l) (s.vpois o.d)) ()) s₀

/-! ## VMEM (R131 to R134) -/

/-- A vector load of active lanes: `addr` gives each lane's address, `idx` is an index register. A poisoned index raises
POISON, after the checks of the addresses (R30, R118; log 19). -/
def vload (d : VReg) (ty : Ty) (h : Hint) (m : VMask) (srcs : List Src) (idx : List VReg) (addr : State → Nat → Word)
    (one : Bool) (s₀ : State) : Out :=
  issue .v .load (fun s =>
    (s.examine srcs).bind fun s _ =>
    let w := ty.width
    let act := s.actives m (2048 / w)
    let ps := (if one then act.take 1 else act).map fun i => (addr s i, w / 8)
    if idx.any fun r => s.vpois r then
      (alignAll (ps.map Prod.fst) (w / 8) s).bind fun s _ => (s.protAll ps false).bind fun s _ =>
        if s.accessHeld || s.anyHeld s.cur ps then .wait s
        else
        match s.placeAll s.myCtx .r false ps with
        | (s, .error a) => .trap s 0x06 a
        | (s, .ok _) => (s.cleanV idx).bind fun s _ => .ok s ()
    else
      (s.loadLanes ps (w / 8) h).bind fun s r =>
      let val (i : Nat) : Option Nat :=
        if s.laneOn m i then
          (r[if one then 0 else act.findIdx fun j => j == i]?).map fun x => ofBytes x.1
        else none
      .ok ((s.countLanes m (2048 / w)).putLanes d w m ((List.range (2048 / w)).map val) (r.any Prod.snd)) ()) s₀

/-- A vector store of active lanes; its data, or its index, must not be poisoned (R118, R133). -/
def vstore (d : VReg) (ty : Ty) (h : Hint) (m : VMask) (srcs : List Src) (idx : List VReg) (addr : State → Nat → Word)
    (s₀ : State) : Out :=
  issue .v .inner (fun s =>
    (s.examine srcs).bind fun s _ =>
    let w := ty.width
    let ls := (s.actives m (2048 / w)).map fun i => (addr s i, toBytes (w / 8) (lane w (s.vreg d) i))
    (alignAll (ls.map Prod.fst) (w / 8) s).bind fun s _ =>
    (s.protAll (ls.map fun l => (l.1, w / 8)) true).bind fun s _ =>
    (s.cleanV (idx ++ [d])).bind fun s _ =>
    (s.storeLanes ls (w / 8) false h).bind fun s _ => .ok (s.countLanes m (2048 / w)) ()) s₀

/-- g(a) + o + i × w/8. -/
def unitAddr (a : Src) (off : W32) (ty : Ty) (s : State) (i : Nat) : Word :=
  s.g a.reg + sextW off + BitVec.ofNat 64 (i * (ty.width / 8))

/-- g(a) + o + i × g(b). -/
def strideAddr (a b : Src) (off : W32) (s : State) (i : Nat) : Word :=
  s.g a.reg + sextW off + BitVec.ofNat 64 i * s.g b.reg

/-- g(a) + o + sext(b[i], w) × w/8. -/
def indexAddr (a : Src) (b : VReg) (off : W32) (ty : Ty) (s : State) (i : Nat) : Word :=
  s.g a.reg + sextW off + BitVec.ofInt 64 (asInt ty.width (lane ty.width (s.vreg b) i) * (ty.width / 8 : Nat))

def execVld (o : VMem1) (s : State) : Out := vload o.d o.ty o.hint o.m [o.a] [] (unitAddr o.a o.off o.ty) false s
def execVst (o : VMem1) (s : State) : Out := vstore o.d o.ty o.hint o.m [o.a] [] (unitAddr o.a o.off o.ty) s
def execVlds (o : VMem2) (s : State) : Out := vload o.d o.ty o.hint o.m [o.a, o.b] [] (strideAddr o.a o.b o.off) false s
def execVsts (o : VMem2) (s : State) : Out := vstore o.d o.ty o.hint o.m [o.a, o.b] [] (strideAddr o.a o.b o.off) s
def execVgath (o : VMemX) (s : State) : Out := vload o.d o.ty o.hint o.m [o.a] [o.b] (indexAddr o.a o.b o.off o.ty) false s
def execVscat (o : VMemX) (s : State) : Out := vstore o.d o.ty o.hint o.m [o.a] [o.b] (indexAddr o.a o.b o.off o.ty) s
def execVldb (o : VMem1) (s : State) : Out :=
  vload o.d o.ty o.hint o.m [o.a] [] (fun s _ => s.g o.a.reg + sextW o.off) true s

/-! ## KOP (R135) -/

def kop (d : KReg) (f : State → KWord) (s : State) : Out := issue .v .inner (fun s => .ok (s.putK d (f s)) ()) s

def execKand (d a b : KReg) (s : State) : Out := kop d (fun s => s.kreg a &&& s.kreg b) s
def execKor (d a b : KReg) (s : State) : Out := kop d (fun s => s.kreg a ||| s.kreg b) s
def execKxor (d a b : KReg) (s : State) : Out := kop d (fun s => s.kreg a ^^^ s.kreg b) s
def execKnot (d a : KReg) (s : State) : Out := kop d (fun s => ~~~ s.kreg a) s

/-- The number of ones that KSET sets: clamped, the sum exact. -/
def ksetCount (g : Word) (imm : W32) : Nat := Nat.min (g.toInt + imm.toNat).toNat 256

def execKset (d : KReg) (a : Src) (count : W32) (s₀ : State) : Out :=
  issue .v .inner (fun s =>
    (s.examine [a]).bind fun s _ => .ok (s.putK d (BitVec.ofNat 256 (2 ^ ksetCount (s.g a.reg) count - 1))) ()) s₀

/-- A function of a k register into g(d). -/
def kread (d : Reg) (f : State → Word) (s₀ : State) : Out :=
  issue .v .inner (fun s => (s.freeG d).bind fun s _ => .ok (s.putG d (f s)) ()) s₀

def execKget (d : Reg) (a : KReg) (j : BitVec 2) (s : State) : Out :=
  kread d (fun s => BitVec.ofNat 64 (slice (s.kreg a) (64 * j.toNat) 64)) s
def execKpopc (d : Reg) (a : KReg) (s : State) : Out :=
  kread d (fun s => BitVec.ofNat 64 ((List.range 256).filter fun i => bit (s.kreg a) i).length) s
def execKfirst (d : Reg) (a : KReg) (s : State) : Out :=
  kread d (fun s => BitVec.ofNat 64 (((List.range 256).find? fun i => bit (s.kreg a) i).getD 256)) s

end Sys2Proof.Machine
end

