-- ==== Sys2Proof/Machine/Tile.lean ====
section
/-! DEFINITION. Tile multiply, accumulators and group geometry (06_tile.md R136 to R155). -/

namespace Sys2Proof.Machine

/-! ## Shapes (R136) -/

/-- The input type, and the accumulator's. -/
def mmaIn : MmaFmt → Ty
  | .bf16 => .bf16 | .fp16 => .fp16 | .e4m3 => .e4m3 | .e5m2 => .e5m2 | .i8 => .i8 | .fp32 => .fp32 | .fp64 => .fp64

def mmaAcc : MmaFmt → Ty
  | .i8 => .i32 | .fp64 => .fp64 | _ => .fp32

/-- Rows, and bytes of a row. -/
def mmaRows : MmaFmt → Nat
  | .fp64 => 8 | _ => 16

def mmaRowLen : MmaFmt → Nat
  | .fp32 => 32 | _ => 64

/-- The v registers of a register operand. -/
def mmaGroup (f : MmaFmt) : Nat := mmaRows f * mmaRowLen f / 256

/-! ## Operands (R137 to R139) -/

/-- The g sources of an operand: a descriptor's two registers. -/
def MOpsrcs : MOp → List Src
  | .reg _ => []
  | .qlm n => [n, ⟨n.reg + 1, n.trap⟩]

/-- The rows of a QLM operand. -/
def State.mmaRowAddrs (s : State) (f : MmaFmt) (n : Src) : List Word :=
  let lay := s.g (n.reg + 1)
  (List.range (mmaRows f)).map fun r =>
    s.g n.reg + BitVec.ofNat 64 (r * slice lay 0 32 + r * slice lay 32 5 % 32 * 128)

/-- ALIGN of a descriptor. -/
def State.mmaAlign (s : State) (f : MmaFmt) : MOp → Res Unit
  | .reg _ => .ok s ()
  | .qlm n =>
    let stride := slice (s.g (n.reg + 1)) 0 32
    (need ((s.g n.reg).toNat % mmaRowLen f == 0) 0x05 (s.g n.reg) s).bind fun s _ =>
      need (stride % mmaRowLen f == 0) 0x05 (BitVec.ofNat 64 stride) s

/-- The row addresses of an operand that fail their checks. -/
def State.mmaBad (s : State) (f : MmaFmt) : MOp → List Word
  | .reg _ => []
  | .qlm n => (s.mmaRowAddrs f n).filter fun a =>
      !inQlmBlock a || (s.protect s.cur a (mmaRowLen f) false).isNone

/-- The lowest word of a list. -/
def lowest (l : List Word) : Option Word :=
  l.foldl (fun acc a => match acc with | none => some a | some b => some (if a.toNat < b.toNat then a else b)) none

/-- The rows of an operand as bytes. -/
def State.mmaBytes (s : State) (f : MmaFmt) : MOp → List (List Byte)
  | .reg v =>
    let n := mmaRowLen f
    (List.range (mmaRows f)).map fun r =>
      toBytes n (slice (s.vreg (BitVec.ofNat 5 (v.toNat + r * n / 256))) (8 * (r * n % 256)) (8 * n))
  | .qlm n => (s.mmaRowAddrs f n).map fun a =>
      match s.protect s.cur a (mmaRowLen f) false with
      | some (some key) => s.bytes key (mmaRowLen f)
      | _ => []

/-- The pieces of QLM that an operand is read from. -/
def State.mmaPieces (s : State) (f : MmaFmt) : MOp → List (Word × Nat)
  | .reg _ => []
  | .qlm n => (s.mmaRowAddrs f n).map fun a => (a, mmaRowLen f)

/-- The poisoned bytes of a QLM operand, as addresses. -/
def State.mmaPois (s : State) (f : MmaFmt) : MOp → List Word
  | .reg _ => []
  | .qlm n => (s.mmaRowAddrs f n).flatMap fun a =>
      match s.protect s.cur a (mmaRowLen f) false with
      | some (some key) => ((List.range (mmaRowLen f)).filter fun i => s.gran (key + i)).map fun i => a + BitVec.ofNat 64 i
      | _ => []

/-- The v registers of a register operand. -/
def mmaRegs (f : MmaFmt) : MOp → List VReg
  | .reg v => (List.range (mmaGroup f)).map fun i => BitVec.ofNat 5 (v.toNat + i)
  | .qlm _ => []

/-! ## MMA (R79, R141, R142) -/

/-- The elements of a row. -/
def rowElems (t : Ty) (row : List Byte) : List Nat :=
  let w := t.width / 8
  (List.range (row.length / w)).map fun k => ofBytes ((row.drop (w * k)).take w)

/-- One output element: the exact sum, rounded once by RNE, or clipped to I32 (R79). -/
def mmaElem (f : MmaFmt) (ftz : Bool) (c : Nat) (a b : List Nat) : FpRes :=
  match f with
  | .i8 =>
    let sum := (a.zip b).foldl (fun acc p => acc + asInt 8 p.1 * asInt 8 p.2) (asInt 32 c)
    if sum < -(2 ^ 31) then ⟨2 ^ 31, { sat := true, nx := true }⟩
    else if (2 ^ 31 : Int) ≤ sum then ⟨2 ^ 31 - 1, { sat := true, nx := true }⟩
    else ⟨ofInt 32 sum, {}⟩
  | _ =>
    let fi := fmtOf (mmaIn f)
    let fa := fmtOf (mmaAcc f)
    let x := a.map fun v => fi.num ftz v
    let y := b.map fun v => fi.num ftz v
    let z := fa.num ftz c
    let ps := (x.zip y).map fun p => p.1.mul p.2
    let bad := z.isSig || x.any Num.isSig || y.any Num.isSig || ps.any Prod.snd
    (fa.sum { ftz := ftz } (z :: ps.map Prod.fst)).withNv bad

/-- The accumulator after an MMA, and its flags. -/
def mmaResult (f : MmaFmt) (ftz clr : Bool) (acc : Acc) (a b : List (List Byte)) : Acc × FpFlags :=
  let w := (mmaAcc f).width
  let n := mmaRows f
  let ea := a.map (rowElems (mmaIn f))
  let eb := b.map (rowElems (mmaIn f))
  let rs := (List.range n).flatMap fun i => (List.range n).map fun j =>
    mmaElem f ftz (if clr then 0 else slice acc (w * (n * i + j)) w) (ea.getD i []) (eb.getD j [])
  let low := joinLanes w (rs.map FpRes.bits)
  let bits := w * n * n
  (BitVec.ofNat 8192 (acc.toNat / 2 ^ bits * 2 ^ bits + low), rs.foldl (fun fl r => fl.or r.flags) {})

def State.acc (s : State) (d : AReg) : Acc := s.me.a[d.toNat]'(d.isLt)
def State.putAcc (s : State) (d : AReg) (x : Acc) : State := s.modMe fun sl => { sl with a := sl.a.set d.toNat x d.isLt }

/-- MMA (R141, R142). -/
def execMma (o : MmaOp) (s₀ : State) : Out :=
  issue .v .load (fun s =>
    (s.examine (MOpsrcs o.a ++ MOpsrcs o.b)).bind fun s _ =>
    (s.mmaAlign o.f o.a).bind fun s _ => (s.mmaAlign o.f o.b).bind fun s _ =>
    match lowest (s.mmaBad o.f o.a ++ s.mmaBad o.f o.b) with
    | some a => .trap s 0x07 a
    | none =>
      if s.accessHeld || s.anyHeld s.cur (s.mmaPieces o.f o.a ++ s.mmaPieces o.f o.b) then .wait s
      else
      match lowest (s.mmaPois o.f o.a ++ s.mmaPois o.f o.b) with
      | some a => .trap s 0x04 a
      | none =>
        (s.cleanV (mmaRegs o.f o.a ++ mmaRegs o.f o.b)).bind fun s _ =>
        let (acc, fl) := mmaResult o.f s.me.ftz o.clr (s.acc o.d) (s.mmaBytes o.f o.a) (s.mmaBytes o.f o.b)
        let rows := (match o.a with | .qlm _ => mmaRows o.f | .reg _ => 0) + (match o.b with | .qlm _ => mmaRows o.f | .reg _ => 0)
        .ok ((((s.countMe 4 1).countMe 13 rows).putAcc o.d acc).setFlags fl) ()) s₀

/-! ## Accumulator instructions (R145 to R150) -/

def execAclr (d : AReg) (s₀ : State) : Out := issue .v .inner (fun s => .ok (s.putAcc d 0) ()) s₀

/-- The bytes that a type moves. -/
def accLen : AccTy → Nat
  | .fp64 => 512 | _ => 1024

/-- The address of ALD and AST. -/
def State.accAddr (s : State) (o : AccMem) : Word := s.g o.a.reg + sextW o.off

/-- The granules that ALD and AST move. -/
def accParts (va : Word) (n : Nat) : List (Word × Nat) := (List.range (n / 32)).map fun i => (va + BitVec.ofNat 64 (32 * i), 32)

/-- ALD (R148). -/
def execAld (o : AccMem) (s₀ : State) : Out :=
  issue .v .load (fun s =>
    (s.examine [o.a]).bind fun s _ =>
    let va := s.accAddr o
    let n := accLen o.ty
    (alignAll [va] 64 s).bind fun s _ =>
    (s.loadLanes (accParts va n) 32 o.hint).bind fun s r =>
      match (List.range r.length).find? fun i => ((r[i]?).map Prod.snd).getD false with
      | some i => .trap s 0x04 (va + BitVec.ofNat 64 (32 * i))
      | none =>
        let acc := s.acc o.d
        .ok (s.putAcc o.d (BitVec.ofNat 8192 (acc.toNat / 2 ^ (8 * n) * 2 ^ (8 * n) + ofBytes (r.flatMap Prod.fst)))) ()) s₀

/-- AST (R149): one run in the replay queue. -/
def execAst (o : AccMem) (s₀ : State) : Out :=
  issue .v .inner (fun s =>
    (s.examine [o.a]).bind fun s _ =>
    let va := s.accAddr o
    (alignAll [va] 64 s).bind fun s _ =>
    let ls := (accParts va (accLen o.ty)).map fun p =>
      (p.1, toBytes 32 (slice (s.acc o.d) (8 * (p.1 - va).toNat) 256))
    s.storeLanes ls 32 true o.hint) s₀

/-- AMOV (R150). -/
def execAmov (o : AMovOp) (s₀ : State) : Out :=
  issue .v .inner (fun s =>
    match o with
    | .toV d a p => .ok (s.putV d (BitVec.ofNat 2048 (slice (s.acc a) (2048 * p.toNat) 2048)) false) ()
    | .toA d a p =>
      (s.cleanV [a]).bind fun s _ =>
      .ok (s.putAcc d (setSlice (s.acc d) (2048 * p.toNat) 2048 (s.vreg a).toNat)) ()) s₀

/-! ## Group geometry (R151 to R155) -/

/-- GGSET (R153). -/
def execGgset (a : Src) (field : BitVec 3) (s₀ : State) : Out :=
  issue .s .inner (fun s =>
    (s.examine [a]).bind fun s _ =>
    let v := (s.g a.reg).toNat
    .ok (s.modMe fun sl =>
      match field.toNat with
      | 0 => { sl with ggeo0 := setSlice sl.ggeo0 0 32 v }
      | 1 => { sl with ggeo0 := setSlice sl.ggeo0 32 32 v }
      | 2 => { sl with ggeo1 := setSlice sl.ggeo1 0 16 v }
      | 3 => { sl with ggeo1 := setSlice sl.ggeo1 16 16 v }
      | 4 => { sl with ggeo1 := setSlice sl.ggeo1 32 8 v }
      | 5 => { sl with ggeo1 := setSlice sl.ggeo1 40 8 v }
      | 6 => { sl with ggeo1 := setSlice sl.ggeo1 48 8 v }
      | _ => { sl with ggeo1 := setSlice sl.ggeo1 56 8 v }) ()) s₀

/-- Start and length of block t (R154). -/
def ggRange (t o n b e blk : Nat) : Nat × Nat :=
  if n = 0 ∨ b = 0 ∨ t < o ∨ n ≤ t - o then (e, 0)
  else
    let start := (t - o + blk * n) * b
    if e ≤ start then (e, 0) else (start, Nat.min b (e - start))

/-- GGRNG (R154). -/
def execGgrng (d : Reg) (a : Src) (axis : Bool) (s₀ : State) : Out :=
  issue .s .inner (fun s =>
    (s.examine [a]).bind fun s _ => (s.freeG d).bind fun s _ =>
    let sl := s.me
    let t := (s.g a.reg).toNat
    let r := if axis then
        ggRange (slice sl.tcoord 16 16) (slice sl.ggeo1 56 8) (slice sl.ggeo1 40 8) (slice sl.ggeo1 16 16) (slice sl.ggeo0 32 32) t
      else
        ggRange (slice sl.tcoord 0 16) (slice sl.ggeo1 48 8) (slice sl.ggeo1 32 8) (slice sl.ggeo1 0 16) (slice sl.ggeo0 0 32) t
    .ok (s.putG d (BitVec.ofNat 64 (r.2 * 2 ^ 32 + r.1))) ()) s₀

/-- GGMASK (R155). -/
def execGgmask (o : GgMaskOp) (s₀ : State) : Out :=
  issue .s .inner (fun s =>
    (s.examine [o.a, o.b]).bind fun s _ =>
    let c := 2 ^ o.cl.toNat
    let lx := slice (s.g o.a.reg) 32 32
    let ly := slice (s.g o.b.reg) 32 32
    .ok (s.putK o.d (ofBits ((List.range 256).map fun i =>
      decide (o.col0.toNat + i % c < lx) && decide (o.row0.toNat + i / c < ly)))) ()) s₀

end Sys2Proof.Machine
end

