-- ==== Sys2Proof/Machine/Splice.lean ====
section
/-! DEFINITION. Splice words and words that are no instruction (02_encoding.md R51, R52, R58; 12_splices.md R270 to
R276). -/

namespace Sys2Proof.Machine

/-! ## SPLLOAD and SPLGET (R273 to R275) -/

/-- An entry of the slot's loaded copy. -/
def Slot.splice (sl : Slot) (i : BitVec 7) : BitVec 128 := sl.splc[i.toNat]'(i.isLt)

/-- The entry that a splice word expands by: none for a handler slot, or while no table is loaded (R52). -/
def Slot.tableEntry (sl : Slot) (hnd : Bool) (i : BitVec 7) : Option (BitVec 128) :=
  if hnd || sl.spt == 0 then none else some (sl.splice i)

/-- The entry for an instruction's words: only a splice word has one. -/
def Slot.entryFor (sl : Slot) (hnd : Bool) (ws : List W32) : Option (BitVec 128) :=
  let w := ws.headD 0
  if slice w 0 2 = 1 then sl.tableEntry hnd (sfieldsOf w).idx else none

/-- The slot takes a table. Instructions behind the SPLLOAD that are decoded already, four at most, keep the old table, each
as it may be (R276). -/
def Slot.newTable (sl : Slot) (ctr : Nat) (t : Word) (copy : Vector (BitVec 128) 128) : Slot :=
  let new : Slot := { sl with splc := copy, spt := t }
  let again (f : FbEntry) : FbEntry := { f with entry := new.entryFor false f.words }
  { new with fbuf := sl.fbuf.take 1 ++ ((sl.fbuf.drop 1).zipIdx).map fun (p : FbEntry × Nat) =>
      if Config.freeFlag ctr (70 + p.2) then p.1 else again p.1 }

/-- Whether a slot of a quad holds a copy. -/
def State.copyHeld (s : State) (quad : Nat) (x : Nat × Vector (BitVec 128) 128) : Bool :=
  (List.range 4).any fun c => (List.range 4).any fun i =>
    let sl := s.slot (quad * 32 + c * 8 + i)
    sl.uid != 0 && sl.ctx == x.1 && sl.spt != 0 && sl.splc == x.2

/-- A copy written to its context's spill area, whose layout is not stated (log 7). -/
def State.spillCopy (s : State) (x : Nat × Vector (BitVec 128) 128) : State :=
  match s.ctx x.1 with
  | none => s
  | some c => s.putBytes (c.splspill + Config.freeSpill s.ctr % 8192 * 2048) (x.2.toList.flatMap fun e => toBytes 16 e.toNat)

/-- The issuing slot uses its copy: it is in the quad's splice cache, which holds eight; a ninth sends the least recently
used one to the spill area (R277). -/
def State.useCopy (s : State) : State :=
  if s.me.spt = 0 then s
  else
    let q := taQuad s.cur
    let mine := (s.me.ctx, s.me.splc)
    let l := mine :: (s.quad q).splices.filter fun x => x != mine
    let l := if l.length ≤ 8 then l else l.filter (s.copyHeld q)
    let s := (l.drop 8).foldl State.spillCopy s
    s.modQuad q fun x => { x with splices := l.take 8 }

/-- SPLLOAD (R274). -/
def execSplload (a : Src) (s : State) : Out :=
  issue .s .load (fun s =>
    (s.examine [a]).bind fun s _ =>
    let t := s.g a.reg
    (need (!taHnd s.cur) 0x07 t s).bind fun s _ =>
    if t = 0 then .ok (s.modMe fun sl => sl.newTable s.ctr 0 (Vector.replicate 128 0)) ()
    else (s.readTable t).bind fun s bs => .ok (s.modMe fun sl => sl.newTable s.ctr t (splcOf bs)).useCopy ()) s

/-- SPLGET (R275). -/
def execSplget (d : Reg) (a : Src) (s : State) : Out :=
  issue .s .inner (fun s =>
    (s.examine [a]).bind fun s _ => (s.freeG d).bind fun s _ => (s.freeG (d + 1)).bind fun s _ =>
    let e := if s.me.spt = 0 then 0 else s.me.splice ((s.g a.reg).setWidth 7)
    .ok ((s.putG d (e.setWidth 64)).putG (d + 1) (e.extractLsb' 64 64)) ()) s

/-! ## Expansion (R270 to R272) -/

/-- The field that a target code reaches: word, lowest bit, width (R271). -/
def spliceField : Nat → Nat × Nat × Nat
  | 1 => (0, 9, 6) | 2 => (0, 15, 6) | 3 => (0, 21, 6) | 4 => (1, 0, 6) | 5 => (1, 6, 6) | 6 => (2, 0, 6)
  | 7 => (2, 6, 6) | 8 => (1, 16, 4) | 9 => (1, 27, 5) | _ => (1, 23, 4)

/-- Whether two target codes overlap (R272). -/
def spliceOverlap (a b : Nat) : Bool := a == b || (a == 10 && (b == 6 || b == 7)) || (b == 10 && (a == 6 || a == 7))

/-- Pours one hole of wh bits into the words: none is an in-splice ILLEGAL. -/
def pour (ws : List W32) (seen : List Nat) (desc v wh : Nat) : Option (List W32 × List Nat) :=
  let code := desc % 16
  if desc / 16 ≠ 0 ∨ 12 ≤ code then none
  else if code = 0 then (if v = 0 then some (ws, seen) else none)
  else if seen.any fun c => spliceOverlap c code then none
  else if code = 10 then some ([ws.getD 0 0, ws.getD 1 0, BitVec.ofInt 32 (asInt wh v)], code :: seen)
  else
    let (w, lo, width) := spliceField code
    if 2 ^ width ≤ v then none
    else some ((List.range 3).map (fun i => if i = w then setSlice (ws.getD i 0) lo width v else ws.getD i 0), code :: seen)

/-- Pours the holes in order. -/
def pourAll (ws : List W32) (seen : List Nat) : List (Nat × Nat × Nat) → Option (List W32)
  | [] => some ws
  | (desc, v, wh) :: rest =>
    match pour ws seen desc v wh with
    | none => none
    | some (ws, seen) => pourAll ws seen rest

/-- The three words of a splice word (R272). -/
def expandSplice (e : BitVec 128) (ha hb hc : BitVec 6) (hd : BitVec 5) : Option (List W32) :=
  let desc (i : Nat) : Nat := slice e (96 + 8 * i) 8
  pourAll [e.extractLsb' 0 32, e.extractLsb' 32 32, e.extractLsb' 64 32] []
    [(desc 0, ha.toNat, 6), (desc 1, hb.toNat, 6), (desc 2, hc.toNat, 6), (desc 3, hd.toNat, 5)]

/-- A word that is no instruction raises ILLEGAL (R58). -/
def execIllegalWord (s : State) : Out := .next (s.raise s.cur 0x01 s.me.pc)

/-- The expanded instruction: every extended form, by its own meaning. -/
def execExtended (i : Instr) (s : State) : Out :=
  match i with
  | .addX o => execAddX o s
  | .subX o => execSubX o s
  | .mulX o => execMulX o s
  | .mulhX o => execMulhX o s
  | .mulhuX o => execMulhuX o s
  | .divX o => execDivX o s
  | .divuX o => execDivuX o s
  | .remX o => execRemX o s
  | .remuX o => execRemuX o s
  | .andX o => execAndX o s
  | .orX o => execOrX o s
  | .xorX o => execXorX o s
  | .andnX o => execAndnX o s
  | .shlX o => execShlX o s
  | .shrX o => execShrX o s
  | .sraX o => execSraX o s
  | .rolX o => execRolX o s
  | .minX o => execMinX o s
  | .maxX o => execMaxX o s
  | .minuX o => execMinuX o s
  | .maxuX o => execMaxuX o s
  | .cmpEqX o => execCmpEqX o s
  | .cmpNeX o => execCmpNeX o s
  | .cmpLtX o => execCmpLtX o s
  | .cmpLtuX o => execCmpLtuX o s
  | .cmpGeX o => execCmpGeX o s
  | .cmpGeuX o => execCmpGeuX o s
  | .sel o => execSel o s
  | .bfx o => execBfx o s
  | .bfi o => execBfi o s
  | .addpc dst off => execAddpc dst off s
  | .li dst y => execLi dst y s
  | .ldBX o => execLdBX o s
  | .ldHX o => execLdHX o s
  | .ldWX o => execLdWX o s
  | .ldDX o => execLdDX o s
  | .ldsBX o => execLdsBX o s
  | .ldsHX o => execLdsHX o s
  | .ldsWX o => execLdsWX o s
  | .stBX o => execStBX o s
  | .stHX o => execStHX o s
  | .stWX o => execStWX o s
  | .stDX o => execStDX o s
  | .pref addr hint => execPref addr hint s
  | .put n a e => execPut n a e s
  | .pset d p => execPset d p s
  | .beqX a b off => execBeqX a b off s
  | .bneX a b off => execBneX a b off s
  | .bltX a b off => execBltX a b off s
  | .bltuX a b off => execBltuX a b off s
  | .bgeX a b off => execBgeX a b off s
  | .bgeuX a b off => execBgeuX a b off s
  | .bX off => execBX off s
  | .callX off => execCallX off s
  | .vaddX o => execVaddX o s
  | .vsubX o => execVsubX o s
  | .vmulX o => execVmulX o s
  | .vdiv o => execVdiv o s
  | .vminX o => execVminX o s
  | .vmaxX o => execVmaxX o s
  | .vabs o => execVabs o s
  | .vneg o => execVneg o s
  | .vsqrt o => execVsqrt o s
  | .vfma o => execVfma o s
  | .vfms o => execVfms o s
  | .vfnma o => execVfnma o s
  | .vrcp o => execVrcp o s
  | .vrsq o => execVrsq o s
  | .vexp2 o => execVexp2 o s
  | .vlog2 o => execVlog2 o s
  | .vsel o => execVsel o s
  | .vshl o => execVshl o s
  | .vshr o => execVshr o s
  | .vsra o => execVsra o s
  | .vandX o => execVandX o s
  | .vorX o => execVorX o s
  | .vxorX o => execVxorX o s
  | .vmulh o => execVmulh o s
  | .vcmpEq o => execVcmpEq o s
  | .vcmpNe o => execVcmpNe o s
  | .vcmpLt o => execVcmpLt o s
  | .vcmpLe o => execVcmpLe o s
  | .vcmpGt o => execVcmpGt o s
  | .vcmpGe o => execVcmpGe o s
  | .vcmpUn o => execVcmpUn o s
  | .vcmpLtu o => execVcmpLtu o s
  | .vcvt o => execVcvt o s
  | .vredAdd o => execVredAdd o s
  | .vredMax o => execVredMax o s
  | .vredMin o => execVredMin o s
  | .vredAnd o => execVredAnd o s
  | .vredOr o => execVredOr o s
  | .vperm o => execVperm o s
  | .vbcast o => execVbcast o s
  | .vextr o => execVextr o s
  | .vins o => execVins o s
  | .vslide o => execVslide o s
  | .viota o => execViota o s
  | .vld o => execVld o s
  | .vst o => execVst o s
  | .vlds o => execVlds o s
  | .vsts o => execVsts o s
  | .vgath o => execVgath o s
  | .vscat o => execVscat o s
  | .vldb o => execVldb o s
  | .kand d a b => execKand d a b s
  | .kor d a b => execKor d a b s
  | .kxor d a b => execKxor d a b s
  | .knot d a => execKnot d a s
  | .kset d a count => execKset d a count s
  | .kget d a j => execKget d a j s
  | .kpopc d a => execKpopc d a s
  | .kfirst d a => execKfirst d a s
  | .mma o => execMma o s
  | .aclr d => execAclr d s
  | .ald o => execAld o s
  | .ast o => execAst o s
  | .amov o => execAmov o s
  | .ggset a field => execGgset a field s
  | .ggrng d a axis => execGgrng d a axis s
  | .ggmask o => execGgmask o s
  | .spawn d a => execSpawn d a s
  | .spawnr d a b => execSpawnr d a b s
  | .gang d a => execGang d a s
  | .depset d a b => execDepset d a b s
  | .depdec a n => execDepdec a n s
  | .epush a b => execEpush a b s
  | .epop d a => execEpop d a s
  | .cancel d a prop => execCancel d a prop s
  | .barinit n0 a b => execBarinit n0 a b s
  | .bararv n0 => execBararv n0 s
  | .barwait d n0 t => execBarwait d n0 t s
  | .barsync d n0 t => execBarsync d n0 t s
  | .barack n0 a => execBarack n0 a s
  | .barpois n0 => execBarpois n0 s
  | .barstat d n0 => execBarstat d n0 s
  | .l2pin d a b w => execL2pin d a b w s
  | .l2unpin d a => execL2unpin d a s
  | .l2stat d a clr => execL2stat d a clr s
  | .l2flush d a b => execL2flush d a b s
  | .amoSwap o => execAmoSwap o s
  | .amoCas o => execAmoCas o s
  | .amoAdd o => execAmoAdd o s
  | .amoAnd o => execAmoAnd o s
  | .amoOr o => execAmoOr o s
  | .amoXor o => execAmoXor o s
  | .amoMin o => execAmoMin o s
  | .amoMax o => execAmoMax o s
  | .amoMinu o => execAmoMinu o s
  | .amoMaxu o => execAmoMaxu o s
  | .amoFadd o => execAmoFadd o s
  | .amoFmin o => execAmoFmin o s
  | .amoFmax o => execAmoFmax o s
  | .fence sc => execFence sc s
  | .ifence => execIfence s
  | .drain => execDrain s
  | .sendam a b c e imm => execSendam a b c e imm s
  | .cpset idx a => execCpset idx a s
  | .cpgo d => execCpgo d s
  | .cpstat d a => execCpstat d a s
  | .cpabort d a => execCpabort d a s
  | .waitany d a c => execWaitany d a c s
  | .waitall d a c => execWaitall d a c s
  | .ffrdy d a => execFfrdy d a s
  | .tagclr a => execTagclr a s
  | .tagget d t => execTagget d t s
  | .creduce d a => execCreduce d a s
  | .callred d a => execCallred d a s
  | .cbcast d a => execCbcast d a s
  | .cgather d a => execCgather d a s
  | .sopen d a n0 l => execSopen d a n0 l s
  | .ssend d a item => execSsend d a item s
  | .srecv d a item => execSrecv d a item s
  | .spoll d a item => execSpoll d a item s
  | .spass d a b => execSpass d a b s
  | .saccept d a b => execSaccept d a b s
  | .sclose a => execSclose a s
  | .sstat d a => execSstat d a s
  | .swatch a t => execSwatch a t s
  | .sflush d a => execSflush d a s
  | .sfcfg d a b => execSfcfg d a b s
  | .sfscl d a b e => execSfscl d a b e s
  | .sfbias d a b i16 n0 => execSfbias d a b i16 n0 s
  | .sfseed d a b => execSfseed d a b s
  | .sfrun d a => execSfrun d a s
  | .sfwait d a t => execSfwait d a t s
  | .sfsmp d a b fp32 => execSfsmp d a b fp32 s
  | .sfhalt d a => execSfhalt d a s
  | .sfstat d a => execSfstat d a s
  | .sfdln d a b c => execSfdln d a b c s
  | .sfacpt d a b => execSfacpt d a b s
  | .sfrel d a => execSfrel d a s
  | .splload a => execSplload a s
  | .splget d a => execSplget d a s
  | .trap imm => execTrap imm s
  | .rdsr d idx => execRdsr d idx s
  | .wrsr idx a => execWrsr idx a s
  | .pair d => execPair d s
  | .unpair d => execUnpair d s
  | .pmcfg d n a => execPmcfg d n a s
  | .pmrd d n => execPmrd d n s
  | .mark a imm => execMark a imm s
  | _ => execIllegalWord s

/-- The slot shows a splice word and its entry (R335). -/
def Slot.showSplice (sl : Slot) (w : W32) (e : BitVec 128) : Slot :=
  { sl with words := [w, e.extractLsb' 0 32, e.extractLsb' 32 32, e.extractLsb' 64 32, e.extractLsb' 96 32], ilen := 4 }

/-- A splice word (R52, R272): the entry is the one its word was decoded under (R276). -/
def execSpliceWord (idx : BitVec 7) (ha hb hc : BitVec 6) (hd : BitVec 5) (s : State) : Out :=
  let sl := s.me
  let w := (SFields.mk hd hc hb ha idx).word
  let entry := match sl.fbuf.head? with
    | some f => if f.pc = sl.pc && f.words == [w] then f.entry else sl.tableEntry (taHnd s.cur) idx
    | none => sl.tableEntry (taHnd s.cur) idx
  let bad (e : BitVec 128) : State := s.modMe fun sl => sl.showSplice w e
  match entry with
  | none => .next ((bad 0).raiseAs s.cur 0x02 (zextW idx) false true)
  | some e =>
    if slice e 0 2 ≠ 2 then .next ((bad e).raiseAs s.cur 0x02 (zextW idx) false true)
    else
      match expandSplice e ha hb hc hd with
      | none => .next ((bad e).raiseAs s.cur 0x01 sl.pc true true)
      | some ws =>
        match decodeExt (ws.getD 0 0) (ws.getD 1 0) (ws.getD 2 0) none with
        | .error _ => .next ((bad e).raiseAs s.cur 0x01 sl.pc true true)
        | .ok i => execExtended i (s.useCopy.modMe fun sl => { sl with words := ws, ilen := 4, spl := true })

end Sys2Proof.Machine
end

