-- ==== Sys2Proof/Machine/Fetch.lean ====
section
/-! DEFINITION. Fetching: where a word comes from, the quad's instruction cache, the fetch buffer (02_encoding.md R36
to R39; 08_memory.md R205, R206; 22_ras_power.md, "poison"). -/

namespace Sys2Proof.Machine

/-! ## One word -/

/-- Where a word is fetched from, and whether that is QLM; else the fault: XLATE for an address that does not
translate with execute permission, PROTECT for one outside the slot's share of QLM (R39, R185, R186). -/
def State.fetchPlace (s : State) (ta : Nat) (va : Word) : State × Except Nat (Place × Bool) :=
  if slice va 56 8 ≠ 0 then (s, .error 0x06)
  else if inQlmBlock va then
    match s.protect ta va 4 false with
    | some (some key) => (s, .ok (⟨key, 0, false, none, 0, 0⟩, true))
    | _ => (s, .error 0x07)
  else
    match s.ctx (s.slot ta).ctx with
    | none => (s, .error 0x06)
    | some c =>
      match s.translate c (some ta) va .x with
      | (s, none) => (s, .error 0x06)
      | (s, some p) => (s, .ok (p, false))

/-- A line as memory has it now: its bytes and its poisoned granules. -/
def State.codeLine (s : State) (p : Place) : IcLine :=
  let k := p.key / 128
  match p.view with
  | some f =>
    if (s.fmtOfLine f (p.pa / 128)).en then ⟨k, s.fillData (p.pa / 128), []⟩ else ⟨k, List.replicate 128 0, [0, 1, 2, 3]⟩
  | none => ⟨k, s.bytes (128 * k) 128, (List.range 4).filter fun i => s.gran (128 * k + 32 * i)⟩

/-- The line through the quad's instruction cache: a line from outside QLM may be served as it was cached (R206;
log 7). The cache holds 512 lines. -/
def State.icLine (s : State) (quad : Nat) (p : Place) : State × IcLine :=
  let k := p.key / 128
  match (s.quad quad).icache.find? fun l => l.key == k && Config.freeIcacheKeep s.ctr k with
  | some l => (s, l)
  | none =>
    let l := s.codeLine p
    (s.modQuad quad fun q => { q with icache := (l :: q.icache.filter fun x => x.key != k).take 512 }, l)

/-- The word at a place, and whether it is poisoned. -/
def State.fetchAt (s : State) (ta : Nat) (p : Place × Bool) : State × W32 × Bool :=
  if p.2 then (s, BitVec.ofNat 32 (ofBytes (s.bytes p.1.key 4)), s.pois p.1.key 4)
  else if s.lostAt p.1 then (s.reportLost ta p.1, 0, true)
  else
    let (s, l) := s.icLine (taQuad ta) p.1
    let o := p.1.key % 128
    (s, BitVec.ofNat 32 (ofBytes ((l.bytes.drop o).take 4)), l.pois.contains (o / 32))

/-! ## One instruction -/

/-- An instruction as fetched: its words; or the words known when its fetch faults, with the fault. -/
inductive Fetched where
  | ok (words : List W32)
  | bad (words : List W32) (code : Nat) (faddr : Word)
  deriving DecidableEq, Repr

/-- The places of the words at the given addresses, or the lowest that has none (R39). -/
def State.fetchPlaces (s : State) (ta : Nat) : List Word → State × Except (Nat × Word) (List (Word × Place × Bool))
  | [] => (s, .ok [])
  | va :: rest =>
    match s.fetchPlace ta va with
    | (s, .error c) => (s, .error (c, va))
    | (s, .ok p) =>
      match s.fetchPlaces ta rest with
      | (s, .ok l) => (s, .ok ((va, p) :: l))
      | (s, .error e) => (s, .error e)

/-- The words at the places, or the first poisoned one. -/
def State.fetchWords (s : State) (ta : Nat) : List (Word × Place × Bool) → State × Except Word (List W32)
  | [] => (s, .ok [])
  | (va, p) :: rest =>
    match s.fetchAt ta p with
    | (s, _, true) => (s, .error va)
    | (s, w, false) =>
      match s.fetchWords ta rest with
      | (s, .ok l) => (s, .ok (w :: l))
      | (s, .error e) => (s, .error e)

/-- The instruction at an address (R36, R37, R39): a first word that is poisoned leaves its length unknown (R335). A later
word that does not translate raises XLATE also where word 0 alone would be ILLEGAL: R58 and R39 do not say which comes first
(DESIGN CHOICE, log 11). -/
def State.fetchInstr (s : State) (ta : Nat) (pc : Word) : State × Fetched :=
  if slice pc 0 2 ≠ 0 then (s, .bad [] 0x05 pc)
  else
    match s.fetchPlace ta pc with
    | (s, .error c) => (s, .bad [] c pc)
    | (s, .ok p) =>
      match s.fetchAt ta p with
      | (s, _, true) => (s, .bad [] 0x04 pc)
      | (s, w, false) =>
        match s.fetchPlaces ta ((List.range (wordCount w - 1)).map fun i => pc + BitVec.ofNat 64 (4 * (i + 1))) with
        | (s, .error (c, a)) => (s, .bad [w] c a)
        | (s, .ok ps) =>
          match s.fetchWords ta ps with
          | (s, .error a) => (s, .bad [w] 0x04 a)
          | (s, .ok ws) => (s, .ok (w :: ws))

/-- The events of a fetch that counters can count, each counted from 0 for one task: translation misses, walks and lookups in
L2 (R353). -/
def fetchCounters (uid : Nat) : List PmCounter :=
  [20, 21, 11, 12].map fun (ev : Nat) => { cfg := BitVec.ofNat 64 (512 + ev), uid := uid }

/-- A fetch, and the events that count when its instruction issues, and only then: an instruction that faults counts none
of its events, and PMRD sees none of its own or of a younger one (R353, R356). A fetch from QLM has none. -/
def State.fetchOne (s : State) (ta : Nat) (pc : Word) : State × Fetched × List (Nat × Nat) :=
  if inQlmBlock pc then
    let (s, r) := s.fetchInstr ta pc
    (s, r, [])
  else
    let core := taCore ta
    let old := (s.core core).pmc
    let (s, r) := (s.modCore core fun c => { c with pmc := fetchCounters (s.slot ta).uid }).fetchInstr ta pc
    let evs := ((s.core core).pmc.map fun (p : PmCounter) => (slice p.cfg 0 6, p.count)).filter fun e => e.2 != 0
    (s.modCore core fun c => { c with pmc := old }, r, evs)

/-- Its entry of the fetch buffer: a splice word carries the entry it expands by (R276). -/
def Slot.bufEntry (sl : Slot) (hnd : Bool) (pc : Word) (ws : List W32) (evs : List (Nat × Nat)) : FbEntry :=
  ⟨pc, ws, sl.entryFor hnd ws, evs⟩

/-! ## The fetch buffer -/

/-- The slot shows the words it executes; `n` is the length by R36. -/
def Slot.showWords (sl : Slot) (ws : List W32) (n : Nat) : Slot := { sl with words := ws, ilen := 4 * n, spl := false }

/-- The words of the instruction at PC, where the buffer begins with it. -/
def Slot.buffered (sl : Slot) : Option (List W32) :=
  match sl.fbuf with
  | f :: _ => if f.pc = sl.pc then some f.words else none
  | [] => none

/-- The words at PC: those the buffer holds for it, else fetched now; decoded instructions that follow stay (R279,
R337). -/
def State.fetchPc (s : State) (ta : Nat) : State × Fetched :=
  let sl := s.slot ta
  match sl.buffered with
  | some ws => (s, .ok ws)
  | none =>
    match s.fetchOne ta sl.pc with
    | (s, .ok ws, evs) =>
      let next := sl.pc + BitVec.ofNat 64 (4 * ws.length)
      let rest := if (sl.fbuf.head?.map FbEntry.pc) = some next then sl.fbuf else []
      (s.modSlot ta fun sl => { sl with fbuf := (sl.bufEntry (taHnd ta) sl.pc ws evs :: rest).take 4 }, .ok ws)
    | (s, r, _) => (s.modSlot ta fun sl => { sl with fbuf := [] }, r)

/-- The address after the last buffered instruction. -/
def Slot.nextFetch (sl : Slot) : Word :=
  match sl.fbuf.getLast? with
  | some f => f.pc + BitVec.ofNat 64 (4 * f.words.length)
  | none => sl.pc

/-- Decodes ahead, up to n instructions; it stops where a fetch would fault, without effect (R38; log 7). -/
def State.prefetch (s : State) (ta : Nat) : Nat → State
  | 0 => s
  | n + 1 =>
    let sl := s.slot ta
    let pc := sl.nextFetch
    match s.fetchOne ta pc with
    | (s', .ok ws, evs) =>
      (s'.modSlot ta fun sl => { sl with fbuf := sl.fbuf ++ [sl.bufEntry (taHnd ta) pc ws evs] }).prefetch ta n
    | (_, .bad .., _) => s

/-- The fifth buffered instruction is decoded as its words and the table stand now. -/
def State.freshFifth (s : State) (ta : Nat) : State :=
  if 4 < (s.slot ta).fbuf.length then (s.modSlot ta fun sl => { sl with fbuf := sl.fbuf.take 4 }).prefetch ta 1 else s

/-- The slot ta reaches the instruction at its PC: the instruction to execute, or the state after the fault that
its fetch raises (R38). A table that could not be read at the start makes the first instruction fault (R32). -/
noncomputable def State.reach (s : State) (ta : Nat) : State × Option Instr :=
  match (({ s with cur := ta } : State).freshFifth ta).fetchPc ta with
  | (s, .bad ws code a) =>
    let n := match ws with | [] => 0 | w :: _ => wordCount w
    ((s.modSlot ta fun sl => sl.showWords ws n).raise ta code a, none)
  | (s, .ok ws) =>
    let s := s.modSlot ta fun sl => sl.showWords ws ws.length
    match (s.slot ta).sptBad with
    | some (code, a) => (s.raise ta code a, none)
    | none => (s, some (match decodeWords ws with | .ok i => i | .error _ => .illegalWord))

/-- After its instruction the slot may hold up to five decoded instructions, of which the fifth is decoded again when the
next one is reached: it executes at most four with old contents or under an old table (R205, R276; log 7). -/
def State.decodeAhead (s : State) (ta : Nat) : State :=
  let sl := s.slot ta
  if sl.st = .running && sl.partner.isNone && (sl.fbuf.isEmpty || sl.buffered.isSome) then
    s.prefetch ta (Nat.min 5 (Config.freePrefetch s.ctr ta) - sl.fbuf.length)
  else s

end Sys2Proof.Machine
end

