-- ==== Sys2Proof/Machine/Window.lean ====
section
/-! DEFINITION. The fault packet (R335) and the debug window of a slot (R336, R339), as cells of 8 bytes. -/

namespace Sys2Proof.Machine

/-! ## The packet (R335) -/

def packetFlags (p : Packet) : Nat :=
  p.fcode % 256 + p.inspl.toNat * 2 ^ 8 + p.splw.toNat * 2 ^ 9 + p.park.toNat * 2 ^ 10 + p.ilen % 8 * 2 ^ 11
    + p.rpqe % 16 * 2 ^ 14 + p.ctxn % 64 * 2 ^ 18

/-- The 56 bytes of a packet. -/
def packetBytes (p : Packet) : List Byte :=
  toBytes 8 p.taddr.toNat ++ toBytes 8 p.pc.toNat ++ toBytes 8 p.faddr.toNat ++ toBytes 8 p.taskid.toNat
    ++ toBytes 4 (packetFlags p) ++ (List.range 5).flatMap fun i => toBytes 4 (p.instr.getD i 0).toNat

/-- The packet that 56 bytes stand for. -/
def packetOfBytes (bs : List Byte) : Packet :=
  let f (off len : Nat) : Nat := ofBytes ((bs.drop off).take len)
  let x := f 0x20 4
  let n := x / 2 ^ 11 % 8
  { taddr := BitVec.ofNat 64 (f 0 8), pc := BitVec.ofNat 64 (f 8 8), faddr := BitVec.ofNat 64 (f 0x10 8)
    taskid := BitVec.ofNat 64 (f 0x18 8), fcode := x % 256, inspl := x / 2 ^ 8 % 2 = 1, splw := x / 2 ^ 9 % 2 = 1
    park := x / 2 ^ 10 % 2 = 1, ilen := n, rpqe := x / 2 ^ 14 % 16, ctxn := x / 2 ^ 18 % 64
    instr := (List.range n).map fun i => BitVec.ofNat 32 (f (0x24 + 4 * i) 4) }

/-! ## Records shown in the window -/

def RpqSt.code : RpqSt → Nat
  | .parked => 1
  | .replaying => 2
  | .abandoned => 3

/-- The four cells of a replay-queue entry (R339). -/
def RpqEntry.cells (e : RpqEntry) : List Word :=
  [e.fva, BitVec.ofNat 64 (e.len % 2 ^ 18 + e.st.code * 2 ^ 18 + e.seq % 2 ^ 32 * 2 ^ 32), BitVec.ofNat 64 e.doff, e.addr0]

/-- The words a buffered instruction decodes to: a splice word that expands shows its expansion (R279). -/
def FbEntry.shown (f : FbEntry) : List W32 × Bool :=
  let w := f.words.headD 0
  match f.entry with
  | none => (f.words, false)
  | some e =>
    let h := sfieldsOf w
    match (if slice e 0 2 = 2 then expandSplice e h.ha h.hb h.hc h.hd else none) with
    | some ws => (ws, true)
    | none => (f.words, true)

/-- The four cells of a fetch-buffer entry (R336). -/
def FbEntry.cells (f : FbEntry) : List Word :=
  let (ws, spl) := f.shown
  let bs := (List.range 5).flatMap (fun i => toBytes 4 (ws.getD i 0).toNat) ++ toBytes 4 (1 + 2 * spl.toNat)
  f.pc :: (List.range 3).map fun i => BitVec.ofNat 64 (ofBytes ((bs.drop (8 * i)).take 8))

def SlotSt.code : SlotSt → Nat
  | .idle => 0
  | .running => 1
  | .frozen => 2
  | .saved => 3

def presenceCode : Presence → Nat
  | .empty => 0
  | .full => 1
  | .poison => 2

/-- The presence that a code stands for; 11 is never held (R20). -/
def presenceOf (n : Nat) : Option Presence :=
  match n with
  | 0 => some .empty
  | 1 => some .full
  | 2 => some .poison
  | _ => none

/-- 64 flags as a word. -/
def maskOf (f : Nat → Bool) : Word := BitVec.ofNat 64 ((List.range 64).foldl (fun n i => if f i then n + 2 ^ i else n) 0)

/-- The register of a number below 64. -/
def regOf (n : Nat) : Reg := BitVec.ofNat 6 n

/-- The 64 bits from bit 64 i up of a long register. -/
def cellOf {n : Nat} (x : BitVec n) (i : Nat) : Word := x.extractLsb' (64 * i) 64

/-! ## Reading a cell (R336) -/

/-- The slot's own replay-queue entries, and the writes that wait for it, in core c. -/
def State.rpqOf (s : State) (core uid : Nat) : List RpqEntry := (s.core core).rpq.filter fun e => e.uid == uid

/-- The cell at an offset that is a multiple of 8, of the slot state sl whose core is core. -/
def State.windowCell (s : State) (core : Nat) (sl : Slot) (off : Nat) : Word :=
  if off < 0x200 then (sl.greg (regOf (off / 8))).val
  else if off < 0x210 then
    BitVec.ofNat 64 ((List.range 32).foldl (fun n i =>
      n + presenceCode (sl.greg (regOf ((off - 0x200) / 8 * 32 + i))).pres * 4 ^ i) 0)
  else if off = 0x210 then maskOf fun i => (sl.greg (regOf i)).pend
  else if off = 0x218 then maskOf fun i =>
    decide (32 ≤ i) && (s.core core).rxq.any fun m => m.kind == 0 && m.uid == sl.uid && sl.uid != 0 && m.reg.toNat + 32 == i
  else if off = 0x220 then BitVec.ofNat 64 sl.st.code
  else if off = 0x230 then sl.outarg
  else if off = 0x238 then zextW sl.outstat
  else if off = 0x240 then sl.pc
  else if off = 0x248 then BitVec.ofNat 64 (sl.lfsr.toNat + sl.lph.toNat * 2 ^ 32)
  else if 0x250 ≤ off ∧ off < 0x288 then BitVec.ofNat 64 (ofBytes (((packetBytes sl.pkt).drop (off - 0x250)).take 8))
  else if 0x400 ≤ off ∧ off < 0x4B0 then s.special sl (s.rpqOf core sl.uid).length ((off - 0x400) / 8)
  else if 0x500 ≤ off ∧ off < 0x538 then sl.shadow.toList.getD ((off - 0x500) / 8) 0
  else if off = 0x540 then BitVec.ofNat 64 sl.copn
  else if 0x600 ≤ off ∧ off < 0x700 then
    let i := (off - 0x600) / 4
    BitVec.ofNat 64 ((sl.tags.toList.getD i 0).toNat + (sl.tags.toList.getD (i + 1) 0).toNat * 2 ^ 32)
  else if 0x700 ≤ off ∧ off < 0x800 then cellOf (sl.k.toList.getD ((off - 0x700) / 32) 0) (off % 32 / 8)
  else if 0x800 ≤ off ∧ off < 0xA00 then
    match (s.rpqOf core sl.uid).find? fun e => e.no == (off - 0x800) / 32 with
    | some e => e.cells.getD (off % 32 / 8) 0
    | none => 0
  else if 0xA00 ≤ off ∧ off < 0xB00 then (sl.fbuf.flatMap FbEntry.cells).getD ((off - 0xA00) / 8) 0
  else if off = 0xB00 then zextW sl.vpois
  else if off = 0xB10 then BitVec.ofNat 64 (sl.dlreg.toNat + sl.dlb.toNat * 2 ^ 8 + sl.dlpend.toNat * 2 ^ 9)
  else if off = 0xB18 then sl.dlbuf
  else if 0xC00 ≤ off ∧ off < 0x1C00 then cellOf (sl.a.toList.getD ((off - 0xC00) / 1024) 0) ((off - 0xC00) % 1024 / 8)
  else if 0x1C00 ≤ off ∧ off < 0x2400 then cellOf (sl.splc.toList.getD ((off - 0x1C00) / 16) 0) (off % 16 / 8)
  else if 0x2400 ≤ off ∧ off < 0x4400 then cellOf (sl.v.toList.getD ((off - 0x2400) / 256) 0) (off % 256 / 8)
  else 0

/-- Window bytes +0x0000 to +0x43FF (R346, R350). -/
def State.windowBytes (s : State) (core : Nat) (sl : Slot) : List Byte :=
  (List.range 2176).flatMap fun i => toBytes 8 (s.windowCell core sl (8 * i)).toNat

/-! ## Writing a cell (R336) -/

/-- Replaces the 64 bits from bit 64 i up of a long register. -/
def putCell {n : Nat} (x : BitVec n) (i : Nat) (w : Word) : BitVec n := setSlice x (64 * i) 64 w.toNat

/-- A vector with one element changed. -/
def setV {α : Type} {n : Nat} (v : Vector α n) (i : Nat) (f : α → α) : Vector α n :=
  if h : i < n then v.set i (f (v[i]'h)) h else v

/-- A special register written from outside: TIME and the count RPQ are not written, and bits that the tables of R25 to R28 do
not name stay zero (R4, R336). A value that a field never holds leaves the register (DESIGN CHOICE, log 16). -/
def Slot.setSpecial (sl : Slot) (i : Nat) (w : Word) : Slot :=
  match i with
  | 0 => { sl with taskid := w }
  | 1 => { sl with tcoord := w }
  | 2 => { sl with arg := w }
  | 3 => { sl with ctxid := w &&& 0x3FFFFF#64 }
  | 4 => { sl with self := w }
  | 6 => { sl with budget := slice w 0 32 }
  | 7 => if fpctlOk w then { sl with fpctl := w &&& fpctlMask } else sl
  | 8 => { sl with tagrdy := w }
  | 9 => { sl with ggeo0 := w }
  | 10 => { sl with ggeo1 := w }
  | 11 => { sl with spt := w }
  | 12 => { sl with fcont := w }
  | 13 => { sl with fcode := w &&& 0xFF#64 }
  | 14 => { sl with faddr := w }
  | 15 => { sl with dline := w }
  | 16 => { sl with dlfb := w }
  | 17 => { sl with stq := w.toNat }
  | 19 => { sl with graph := w &&& 0xFFFFFFFF#64 }
  | 20 => { sl with capl := w }
  | 21 => if bit w 2 || slice w 3 2 == 3 then sl else { sl with pairst := w &&& 0x1F#64 }
  | _ => sl

/-- The presence codes of 32 registers; code 11 leaves a register's state unchanged (R336). -/
def Slot.setPres (sl : Slot) (base : Nat) (w : Word) : Slot :=
  (List.range 32).foldl (fun (sl : Slot) i =>
    let r := regOf (base + i)
    match presenceOf (slice w (2 * i) 2) with
    | some p => sl.setG r { sl.greg r with pres := p }
    | none => sl) sl

/-- Writes the cell at an offset that is a multiple of 8; read-only cells and gaps keep their value. -/
def Slot.putWindow (sl : Slot) (off : Nat) (w : Word) : Slot :=
  if off < 0x200 then sl.setG (regOf (off / 8)) { sl.greg (regOf (off / 8)) with val := w }
  else if off < 0x210 then sl.setPres ((off - 0x200) / 8 * 32) w
  else if off = 0x230 then { sl with outarg := w }
  else if off = 0x240 then { sl with pc := w }
  else if off = 0x248 then
    { sl with lfsr := if slice w 0 32 = 0 then sl.lfsr else w.setWidth 32, lph := w.extractLsb' 32 8 }
  else if 0x400 ≤ off ∧ off < 0x4B0 then sl.setSpecial ((off - 0x400) / 8) w
  else if 0x500 ≤ off ∧ off < 0x538 then { sl with shadow := setV sl.shadow ((off - 0x500) / 8) fun _ => w }
  else if 0x600 ≤ off ∧ off < 0x700 then
    let i := (off - 0x600) / 4
    let tag (x : W32) : W32 := x &&& 0xFFFF0FFF#32
    { sl with tags := setV (setV sl.tags i fun _ => tag (w.setWidth 32)) (i + 1) fun _ => tag (w.extractLsb' 32 32) }
  else if 0x700 ≤ off ∧ off < 0x800 then { sl with k := setV sl.k ((off - 0x700) / 32) fun x => putCell x (off % 32 / 8) w }
  else if off = 0xB00 then { sl with vpois := w.setWidth 32 }
  else if off = 0xB10 then { sl with dlreg := w.setWidth 4, dlb := bit w 8, dlpend := bit w 9 }
  else if off = 0xB18 then { sl with dlbuf := w }
  else if 0xC00 ≤ off ∧ off < 0x1C00 then
    { sl with a := setV sl.a ((off - 0xC00) / 1024) fun x => putCell x ((off - 0xC00) % 1024 / 8) w }
  else if 0x1C00 ≤ off ∧ off < 0x2400 then
    { sl with splc := setV sl.splc ((off - 0x1C00) / 16) fun x => putCell x (off % 16 / 8) w }
  else if 0x2400 ≤ off ∧ off < 0x4400 then
    { sl with v := setV sl.v ((off - 0x2400) / 256) fun x => putCell x (off % 256 / 8) w }
  else sl

/-- n bytes of a value laid over a cell from byte o up. -/
def mergeCell (old : Word) (o n : Nat) (v : Word) : Word := setSlice old (8 * o) (8 * n) v.toNat

/-! ## Which slot state a window shows -/

/-- The saved task that stands in a slot: of a pre-empted or a quiesced unit (R336). -/
def State.savedAt (s : State) (ta : Nat) : Option Nat :=
  s.units.findSome? fun u => if u.stopped then (u.members.find? fun m => m.ta == ta && !m.ended).map Member.uid else none

/-- A context is frozen by a quiesce (R348). -/
def State.isQuiesced (s : State) (ctx : Nat) : Bool :=
  match s.ctx ctx with
  | some c => c.quiesced
  | none => false

/-- Whether a frozen activation is saved in its slot: its context is quiesced (R348). -/
def State.savedAct (s : State) (ta : Nat) : Bool :=
  taHnd ta && (s.slot ta).trigger.isSome && s.isQuiesced (s.slot ta).ctx

/-- The slot state that a window shows: the slot, or the task saved in it, whose STATE is 3. -/
def State.windowSlot (s : State) (ta : Nat) : Slot :=
  let ta := s.pairOf ta
  match (if s.idle ta then s.savedAt ta else none) with
  | some u => { Store.get {} s.parked u with st := .saved }
  | none => if s.savedAct ta then { s.slot ta with st := .saved } else s.slot ta

/-- Changes the slot state that a window shows. -/
def State.modWindow (s : State) (ta : Nat) (f : Slot → Slot) : State :=
  let ta := s.pairOf ta
  match (if s.idle ta then s.savedAt ta else none) with
  | some u => { s with parked := Store.set s.parked u (f (Store.get {} s.parked u)) }
  | none => s.modSlot ta f

/-- A replay-queue entry whose cell k is written: FVA, then STATE and SEQ, DOFF and ADDR0; STATE 0 frees it. RLEN follows
from the store (R336, R339; log 20). -/
def RpqEntry.putCell (e : RpqEntry) (k : Nat) (w : Word) : Option RpqEntry :=
  match k with
  | 0 => some { e with fva := w }
  | 1 =>
    match slice w 18 2 with
    | 0 => none
    | 1 => some { e with st := .parked, seq := slice w 32 32 }
    | 2 => some { e with st := .replaying, seq := slice w 32 32 }
    | _ => some { e with st := .abandoned, seq := slice w 32 32 }
  | 2 => some { e with doff := w.toNat }
  | _ => some { e with addr0 := w }

/-- A write into a slot's table of replay-queue entries; one that the slot does not hold stays free. -/
def State.putRpqt (s : State) (core uid off n : Nat) (v : Word) : State :=
  let no := (off - 0x800) / 32
  let k := off % 32 / 8
  s.modCore core fun c => { c with rpq := c.rpq.filterMap fun e =>
    if e.uid = uid ∧ e.no = no then e.putCell k (mergeCell (e.cells.getD k 0) (off % 8) n v) else some e }

/-- A write of n bytes at an offset of a window that is no outcome: outside OUTARG only while STATE is 2 or 3
(R336). -/
def State.windowWrite (s : State) (ta off n : Nat) (v : Word) : State :=
  let sl := s.windowSlot ta
  let cell := off / 8 * 8
  if 0x800 ≤ off ∧ off < 0xA00 then
    (if sl.st = .frozen ∨ sl.st = .saved then s.putRpqt (taCore (s.pairOf ta)) sl.uid off n v else s)
  else if cell = 0x230 ∨ sl.st = .frozen ∨ sl.st = .saved then
    s.modWindow ta fun sl => sl.putWindow cell (mergeCell (s.windowCell (taCore ta) sl cell) (off % 8) n v)
  else s

end Sys2Proof.Machine
end

