-- ==== Sys2Proof/Machine/Service.lean ====
section
/-! DEFINITION. The service strand (18_host.md R325), the end of a context (R316), the outcomes of a fault and the
fault service (19_preemption.md R337, R338, R340, R341). -/

namespace Sys2Proof.Machine

/-! ## The service strand (R325) -/

/-- Free slots of the ring; none while no ring is set. -/
def HostIf.svcFree (h : HostIf) : Nat := match h.ring with | some _ => 2 ^ h.ringL - (h.sent - h.used) | none => 0

/-- Sends waiting items while there is credit: MSI-X vector 0 when the ring was empty. -/
def State.svcRun (s : State) : List (List Byte) → State
  | [] => { s with host := { s.host with waiting := [] } }
  | it :: rest =>
    match s.host.ring with
    | none => { s with host := { s.host with waiting := it :: rest } }
    | some pa =>
      if s.host.svcFree = 0 then { s with host := { s.host with waiting := it :: rest } }
      else
        let h := s.host
        let s := s.setMem (Memory.write s.mem (hostKey (pa + 64 * (h.sent % 2 ^ h.ringL))) it)
        State.svcRun { s with host := { h with sent := h.sent + 1, msix := if h.sent = h.used then h.msix + 1 else h.msix } } rest

/-- An event for the host: its type, its context and 56 bytes. -/
def State.service (s : State) (kind ctx : Nat) (contents : List Byte) : State :=
  let item := toBytes 8 (kind + ctx * 2 ^ 8) ++ (contents ++ List.replicate 56 0).take 56
  s.svcRun (s.host.waiting ++ [item])

/-- The host writes the running total of the items it has consumed. -/
def execSvcCreditWrite (total : Word) (s : State) : Out :=
  let h := s.host
  let out := (h.sent + 2 ^ 64 - total.toNat % 2 ^ 64) % 2 ^ 64
  .next (match h.ring with
    | none => s
    | some _ =>
      if h.sent - h.used < out then s
      else State.svcRun { s with host := { h with used := h.sent - out } } h.waiting)

/-! ## INVAL (R323) -/

/-- Drops the entries of an address space that touch a range. -/
def State.invalRange (s : State) (asid base len : Nat) : State :=
  { s with tlb := s.tlb.filter fun e => !(e.asid == asid && decide (e.page < base + len) && decide (base < e.page + e.size)) }

/-! ## The end of a context (R316) -/

/-- A slot of a context, or the partner of one. -/
def State.slotIn (s : State) (n ta : Nat) : Bool :=
  let sl := s.slot (s.pairOf ta)
  sl.st != .idle && sl.ctx == n || (sl.trigger.isSome && (match sl.trigger with | some m => m.ctx == n | none => false))

/-- Whether an event is of a context: it acts for nothing once the context is gone. -/
def eventOf (n : Nat) : Instr → Bool
  | .remoteWriteArrival w => w.ctx == n
  | .atomicAtHome r => r.ctx == n
  | .atomicReturn r _ _ => r.ctx == n
  | .edgeDeferredPush p => p.ctx == n
  | .barrierArrival c _ _ _ _ => c == n
  | .barrierAck c _ _ => c == n
  | .collectiveCommit c _ _ _ => c == n
  | .collectiveAbort c _ _ => c == n
  | .collectiveWatchdog c _ _ => c == n
  | .settleSaturation c _ _ => c == n
  | .settleCertify c _ _ => c == n
  | .settleTimeout c _ _ => c == n
  | .settleConfigError c _ _ => c == n
  | .strandItemArrival c _ _ => c == n
  | .strandCreditReturn c _ => c == n
  | .strandMoveRequest c _ _ => c == n
  | .strandStopperArrival c _ => c == n
  | .strandRouteSwitch c _ => c == n
  | .strandFray c _ => c == n
  | .faultService p => p.ctxn == n
  | .unitResume c _ => c == n
  | .pageWalk c _ => c == n
  | _ => false

/-- The trace records of the tasks and activations that end with their context (R365). -/
def State.noteKills (s : State) (n : Nat) : State :=
  let s := s.slots.foldl (fun (s : State) p =>
    let sl := p.2
    if sl.ctx = n ∧ sl.st ≠ .idle ∧ sl.partner.isNone ∧ sl.uid ≠ 0 then
      (if taHnd p.1 then s.noteAct p.1 else s.note ⟨2, n, 1, 0, BitVec.ofNat 64 p.1, match s.unitOf p.1 with | some u => u.task.pc | none => sl.pc⟩)
    else s) s
  (s.units.filter fun u => u.ctx == n && u.stopped).foldl (fun (s : State) u =>
    (u.members.filter fun m => !m.ended).foldl (fun (s : State) m =>
      s.note ⟨2, n, 1, 0, BitVec.ofNat 64 m.ta, u.task.pc⟩) s) s

/-- The L1s of the clusters of a context's fused gangs empty as the gangs end (R190). -/
def State.emptyFused (s : State) (n : Nat) : State :=
  (s.units.filter fun u => u.ctx == n && !u.stopped).foldl (fun (s : State) u =>
    match u.gang with | some g => if g.fuse then s.emptyCluster u.die u.origin else s | none => s) s

/-- Everything of a context that the scheduler holds is gone. -/
def State.dropWork (s : State) (n : Nat) : State :=
  let keep (w : Work) : Bool := w.ctx != n
  { s with
    slots := s.slots.map fun (p : Nat × Slot) => if s.slotIn n p.1 then (p.1, {}) else p
    parked := s.parked.filter fun p => p.2.ctx != n
    agreed := s.agreed.filter fun p => p.2.ctx != n
    agenda := s.agenda.filter fun i => !eventOf n i
    units := s.units.filter fun u => u.ctx != n
    ready := s.ready.filter keep
    credits := s.credits.filter fun c => c.ctx != n
    dies := s.dies.map fun (p : Nat × DieSt) => (p.1, { p.2 with
      placer := p.2.placer.filter keep, overflow := p.2.overflow.filter keep
      reserved := match p.2.reserved with | some r => if r.ctx = n then none else some r | none => none }) }

/-- The cores keep nothing of a context: queues, parked stores, counters. -/
def State.dropCores (s : State) (n : Nat) : State :=
  { s with cores := s.cores.map fun (p : Nat × CoreSt) =>
      let c := p.2
      (p.1, { c with
        rxq := c.rxq.filter fun m => m.ctx != n
        held := c.held.filter fun m => m.1.ctx != n
        rpq := c.rpq.filter fun e => e.ctx != n
        urgent := c.urgent.filter fun w => w.ctx != n
        normal := c.normal.filter fun w => w.ctx != n
        rxfull := c.rxfull && (s.slot (hndOf p.1)).ctx != n
        pmc := c.pmc.map fun (k : PmCounter) => if k.ctx = some n ∧ k.replay = false then {} else k }) }

/-- Operations in flight end with any of their bytes new, and deliver nothing (R316). -/
def State.dropOps (s : State) (n : Nat) : State :=
  let ops := s.engines.flatMap fun p => p.2.ops.filter fun o => o.ctx == n
  let s := ops.foldl (fun (s : State) o => o.plan.foldl (fun (s : State) run => (s.writePartial o run).1) s) s
  let uids := (s.slots.filter fun p => p.2.ctx == n).map fun p => p.2.uid
  let s := (uids ++ (s.parked.filter fun p => p.2.ctx == n).map Prod.fst).foldl State.dropBufs s
  { s with engines := s.engines.map fun (p : Nat × EngSt) => (p.1, { p.2 with ops := p.2.ops.filter fun o => o.ctx != n }) }

/-- A context's strands end: their entries are free (R247, R316). -/
def State.dropStrands (s : State) (n : Nat) : State :=
  s.strands.foldl (fun (s : State) p => match p.2 with | some x => if x.ctx = n then s.freeStrand x else s | none => s) s

/-- A region's samples before their completion point leave any of their bytes new (R301). -/
def State.dropRegions (s : State) (n : Nat) : State :=
  let s := s.regions.foldl (fun (s : State) p =>
    match p.2 with
    | some r =>
      if p.1 / 16 = n then
        r.smps.foldl (fun (s : State) x => x.plan.foldl (fun (s : State) q =>
          (s.writePartial (sfEngine ⟨0, 0⟩ n x.rp) (q.1, cleanBytes q.2)).1) s) s
      else s
    | none => s) s
  { s with regions := s.regions.filter fun p => p.1 / 16 != n }

/-- The replay run of a context ends with it (log 22). -/
def State.dropReplay (s : State) (n : Nat) : State :=
  if s.replay.busy && slice s.replay.cfg 0 6 == n then
    { s with
      replay := { s.replay with busy := false }
      cores := s.cores.map fun (p : Nat × CoreSt) =>
        (p.1, { p.2 with pmc := p.2.pmc.map fun (k : PmCounter) => if k.replay then {} else k }) }
  else s

/-- CTX_KILL of context n. -/
def State.killCtx (s : State) (n : Nat) : State :=
  match s.ctx n with
  | none => s
  | some c =>
    let s := (((s.noteKills n).emptyFused n).dropCores n).dropOps n
    let s := ((((s.dropStrands n).dropRegions n).dropReplay n).dropWork n).setCtx n none
    let s := { s with
      tlb := s.tlb.filter fun e => e.asid != c.asid
      retain := ⟨(s.retain.toList.map fun (r : Option Retention) =>
        match r with | some x => if x.ctx = n then none else some x | none => none).toArray, by simp⟩
      trace := { s.trace with stop := s.trace.stop.filter fun x => x != n
                              stopped := s.trace.stopped && (s.trace.stop.any fun x => x != n) }
      host := { s.host with
        wins := s.host.wins.map fun (p : Nat × Window) => if p.2.ctx = n then (p.1, {}) else p
        waiting := s.host.waiting.filter fun it => !((it.getD 0 0).toNat == 1 && (it.getD 1 0).toNat == n) } }
    (s.cores.map Prod.fst).foldl State.rxLeft s

/-! ## Ending a task by an outcome or an error -/

/-- An activation is killed and its messages dropped (R226). -/
def State.killActivationAt (s : State) (ta : Nat) : State :=
  (s.modSlot ta fun sl => { sl with outbox := [] }).endActivation ta

/-- Kills what a slot holds: the activation, or the task with its whole unit; its graph freezes (R176, R178, R226). -/
def State.killSlot (s : State) (ta : Nat) : State :=
  if taHnd ta then s.killActivationAt ta
  else
    match s.unitOf ta with
    | some u => s.killUnit u
    | none => s

/-- The budget a task gets when an outcome lets it go on (R337), or when it resumes (R345). -/
def State.budgetOf (s : State) (sl : Slot) : Nat :=
  let c := (s.ctx sl.ctx).getD { desc := [], descPA := 0 }
  match s.units.find? fun u => u.ctx == sl.ctx && u.members.any fun m => m.uid == sl.uid with
  | some u => u.task.cycles c
  | none => c.hndbud

/-! ## Outcomes (R337, R340, R341) -/

/-- The slot on which an outcome acts. -/
def State.outcomeSlot (s : State) (ta : Nat) : Nat := s.pairOf (ta % 65536)

def State.outStat (s : State) (ta n : Nat) : State := s.modWindow ta fun sl => { sl with outstat := BitVec.ofNat 8 n }

/-- Whether a handler slot is frozen by an RXFULL packet. -/
def State.isRxfull (s : State) (ta : Nat) : Bool := taHnd ta && (s.core (taCore ta)).rxfull

/-- The checks of an outcome that needs STATE = 2; `f` acts on the frozen task. -/
def State.onFrozen (s : State) (ta : Nat) (f : State → State) : State :=
  if s.isRxfull ta then s.outStat ta 2
  else if (s.slot ta).st = .frozen ∧ s.savedAct ta = false then f (s.outStat ta 0)
  else s.outStat ta 1

/-- The task goes on with a fresh budget. -/
def State.thawSlot (s : State) (ta : Nat) (f : Slot → Slot) : State :=
  let b := s.budgetOf (s.slot ta)
  s.modSlot ta fun sl => f { sl with st := .running, budget := b, fbuf := sl.fbuf.take 4 }

/-- A task that was frozen at its start for want of its table reads it again (R32, R274). -/
def State.retryTable (s : State) (ta : Nat) : State := if (s.slot ta).sptBad.isSome then s.loadSpt ta else s

/-- The handler slot that RXFULL froze starts again (R341). -/
def State.restartHandler (s : State) (ta : Nat) : State :=
  (s.modCore (taCore ta) fun c => { c with rxfull := false }).setSlot ta {}

/-- RESUME: the instruction at PC is decoded afresh. -/
def State.doResume (s : State) (ta : Nat) : State :=
  if s.isRxfull ta then s.restartHandler ta
  else s.onFrozen ta fun s =>
    (s.retryTable ta).thawSlot ta fun sl => { sl with fbuf := if sl.buffered.isSome then sl.fbuf.drop 1 else sl.fbuf }

def execResume (ta : Nat) (s : State) : Out := .next (s.doResume (s.outcomeSlot ta))

/-- SKIP: PC advances by the length of R36. -/
def State.doSkip (s : State) (ta : Nat) : State :=
  s.onFrozen ta fun s =>
    if (s.slot ta).pkt.ilen = 0 then s.outStat ta 2
    else (s.leaveWait ta).thawSlot ta fun sl =>
      { sl with pc := sl.pc + BitVec.ofNat 64 sl.ilen, sptBad := none, fbuf := if sl.buffered.isSome then sl.fbuf.drop 1 else sl.fbuf }

def execSkip (ta : Nat) (s : State) : Out := .next (s.doSkip (s.outcomeSlot ta))

/-- GOTO: PC becomes OUTARG. -/
def State.doGoto (s : State) (ta : Nat) : State :=
  s.onFrozen ta fun s => (s.leaveWait ta).thawSlot ta fun sl => { sl with pc := sl.outarg, sptBad := none }

def execGoto (ta : Nat) (s : State) : Out := .next (s.doGoto (s.outcomeSlot ta))

/-- FCONT: the fault is delivered at FCONT; with FCONT = 0 it kills. -/
def State.doFcont (s : State) (ta : Nat) : State :=
  s.onFrozen ta fun s =>
    if (s.slot ta).fcont = 0 then s.killSlot ta
    else (s.leaveWait ta).thawSlot ta fun sl =>
      { sl with fcode := BitVec.ofNat 64 sl.pkt.fcode, faddr := sl.pkt.faddr, pc := sl.fcont, sptBad := none }

def execFcont (ta : Nat) (s : State) : Out := .next (s.doFcont (s.outcomeSlot ta))

/-- KILLT. -/
def State.doKillt (s : State) (ta : Nat) : State := s.onFrozen ta fun s => s.killSlot ta

def execKillt (ta : Nat) (s : State) : Out := .next (s.doKillt (s.outcomeSlot ta))

/-- KILLG: every task of the slot's graph. -/
def State.doKillg (s : State) (ta : Nat) : State :=
  s.onFrozen ta fun s =>
    let sl := s.slot ta
    let g := slice sl.graph 0 32
    let s := if taHnd ta then s.killActivationAt ta else s
    let s := (s.units.filter fun u => u.ctx == sl.ctx && u.task.graph == g).foldl State.killUnit s
    s.freeze sl.ctx g

def execKillg (ta : Nat) (s : State) : Out := .next (s.doKillg (s.outcomeSlot ta))

/-- KILLC. -/
def State.doKillc (s : State) (ta : Nat) : State := s.onFrozen ta fun s => s.killCtx (s.slot ta).ctx

def execKillc (ta : Nat) (s : State) : Out := .next (s.doKillc (s.outcomeSlot ta))

/-- The parked entry that OUTARG names, of the slot's own. -/
def State.outEntry (s : State) (ta : Nat) : Option RpqEntry :=
  let sl := s.slot ta
  (s.rpqOf (taCore ta) sl.uid).find? fun e => e.no == slice sl.outarg 0 4 && e.st == .parked

/-- The checks of REPLAY and ABANDON: the slot holds a task, frozen or not. -/
def State.onEntry (s : State) (ta : Nat) (f : State → RpqEntry → State) : State :=
  if s.isRxfull ta then s.outStat ta 2
  else if (s.slot ta).st = .idle then s.outStat ta 1
  else
    match s.outEntry ta with
    | some e => f (s.outStat ta 0) e
    | none => s.outStat ta 2

/-- REPLAY of an entry: it walks again, unless an older store of the slot lies on its page (R340). -/
def State.replayEntry (s : State) (ta : Nat) (e : RpqEntry) : State :=
  if s.rpqBehind (taCore ta) e then
    s.modCore (taCore ta) fun c => { c with rpq := c.rpq.map fun x => if x.no = e.no then { x with fva := 0, behind := true } else x }
  else s.rpqRetry (taCore ta) e

def State.doReplay (s : State) (ta : Nat) : State := s.onEntry ta fun s e => s.replayEntry ta e

def execReplay (ta : Nat) (s : State) : Out := .next (s.doReplay (s.outcomeSlot ta))

/-- ABANDON of an entry; stores that it held back are looked at again (R340, R105). -/
def State.abandonEntry (s : State) (ta : Nat) (e : RpqEntry) : State :=
  (s.modCore (taCore ta) fun c =>
    { c with rpq := c.rpq.map fun x => if x.no = e.no then { x with st := .abandoned } else x }).rpqWake (taCore ta)

def State.doAbandon (s : State) (ta : Nat) : State := s.onEntry ta fun s e => s.abandonEntry ta e

def execAbandon (ta : Nat) (s : State) : Out := .next (s.doAbandon (s.outcomeSlot ta))

/-- GROW: an extension of 4,096 entries at OUTARG; the handler slot starts again and held messages go in. -/
def State.doGrow (s : State) (ta : Nat) : State :=
  let pa := (s.slot ta).outarg.toNat
  if !s.isRxfull ta then s.outStat ta 1
  else if pa % 128 ≠ 0 ∨ hbmSize < pa + 131072 then s.outStat ta 2
  else
    let s := (s.modCore (taCore ta) fun c => { c with ext := some pa }).restartHandler ta
    s.rxRelease (taCore ta) (s.core (taCore ta)).held

def execGrow (ta : Nat) (s : State) : Out := .next (s.doGrow (s.outcomeSlot ta))

/-- FBCLR: the fetch buffer is emptied, whatever STATE is (R336). -/
def State.doFbclr (s : State) (ta : Nat) : State := s.modWindow (ta % 65536) fun sl => { sl with fbuf := [] }

def execFbclr (ta : Nat) (s : State) : Out := .next (s.doFbclr ta)

/-- A write of OUTCOME applies its code; a code that is none of R337 sets OUTSTAT 2. -/
def State.outcome (s : State) (ta code : Nat) : State :=
  let ta := s.outcomeSlot ta
  match code with
  | 1 => s.doResume ta
  | 2 => s.doSkip ta
  | 3 => s.doGoto ta
  | 4 => s.doFcont ta
  | 5 => s.doKillt ta
  | 6 => s.doKillg ta
  | 7 => s.doKillc ta
  | 8 => s.doReplay ta
  | 9 => s.doAbandon ta
  | 10 => s.doGrow ta
  | _ => s.outStat ta 2

/-! ## Fault service (R338) -/

/-- The level-3 entry for an address that hardware may fill: V = 0, DEMAND = 1, MT = 0, not poisoned. -/
def State.demandWalk (s : State) (va : Nat) : List (Nat × Nat) → Nat → Option Nat
  | [], _ => none
  | (sh, w) :: rest, table =>
    let pa := table + 8 * (va / 2 ^ sh % 2 ^ w)
    let p : Word := BitVec.ofNat 64 (ofBytes (s.bytes pa 8))
    if s.gran pa then none
    else if rest.isEmpty then (if !bit p 0 && bit p 11 && pteMT p == 0 then some pa else none)
    else
      match pteNode p with
      | some next => s.demandWalk va rest next
      | none => none

def State.demandEntry (s : State) (c : Ctx) (va : Word) : Option Nat :=
  if slice va 56 8 ≠ 0 ∨ inQlmBlock va then none
  else s.demandWalk va.toNat [(47, 9), (38, 9), (29, 9), (16, 13)] (c.ptroot / 2 ^ 16 * 2 ^ 16)

/-- Hardware page fill: a DEMAND entry gets the last frame of FPOOL, zeroed, and INVAL covers the page. -/
def State.pageFill (s : State) (c : Ctx) (va : Word) : Option State :=
  match s.demandEntry c va with
  | none => none
  | some pa =>
    let n := if c.fpool = 0 then 0 else ofBytes (s.bytes c.fpool 8)
    if n = 0 then none
    else
      let frame := ofBytes (s.bytes (c.fpool + 8 * n) 8)
      let p : Word := BitVec.ofNat 64 (ofBytes (s.bytes pa 8))
      let q := slice p 0 12 - slice p 0 12 / 2 ^ 11 * 2 ^ 11
      let keep := q / 2 ^ 8 * 2 ^ 8 + q / 4 % 8 * 4
      let s := s.putBytes c.fpool (toBytes 8 (n - 1))
      let s := s.putBytes frame (List.replicate 65536 0)
      let s := s.setMem (Memory.write s.mem pa (toBytes 8 (frame / 2 ^ 16 % 2 ^ 36 * 2 ^ 16 + keep + 3)))
      some (s.invalRange c.asid (va.toNat / 65536 * 65536) 65536)

/-- Whether a packet still stands: its slot is frozen with it, or its entry is parked. -/
def State.pktLive (s : State) (p : Packet) : Bool :=
  let ta := slice p.taddr 0 16
  if p.park then (s.core (taCore ta)).rpq.any fun e => e.ctx == p.ctxn && e.no == p.rpqe && e.st == .parked && e.fva == p.faddr
  else (s.slot ta).st == .frozen && (s.slot ta).pkt == p

/-- The hardware fault service (C0 clear). -/
def State.hwService (s : State) (c : Ctx) (p : Packet) : State :=
  let ta := slice p.taddr 0 16
  if p.fcode = 0x0F then s.doResume ta
  else if taHnd ta then s.doKillt ta
  else if c.policy p.fcode then s.doFcont ta
  else s.doKillt ta

/-- The C0 service of a packet. -/
def State.faultC0 (s : State) (c : Ctx) (p : Packet) : State :=
  if c.duty 0 then s.service 1 p.ctxn (packetBytes p) else s.hwService c p

/-- The supervisor serves a packet. -/
def execFaultService (p : Packet) (s : State) : Out :=
  let ta := slice p.taddr 0 16
  .next (match s.ctx p.ctxn with
    | none => s
    | some c =>
      if !s.pktLive p then s
      else if p.fcode ≠ 0x06 then s.faultC0 c p
      else if c.duty 1 then s.service 1 p.ctxn (packetBytes p)
      else
        match s.pageFill c p.faddr, (s.core (taCore ta)).rpq.find? fun e => e.no == p.rpqe with
        | some s', e =>
          if p.park then (match e with | some e => s'.replayEntry ta e | none => s') else s'.doResume ta
        | none, e =>
          if p.park then (match e with | some e => s.abandonEntry ta e | none => s) else s.faultC0 c p)

end Sys2Proof.Machine
end

