-- ==== Sys2Proof/Machine/Command.lean ====
section
/-! DEFINITION. The commands of the host (18_host.md R313 to R329; 19_preemption.md R349), launch windows (R318,
R319), and accesses from outside (R312, R210, R326, R332). -/

namespace Sys2Proof.Machine

/-- A command's argument. -/
def State.arg (s : State) (i : Nat) : Word := s.host.args.toList.getD i 0

/-- A command completes with its code and value (R313). -/
def State.cmdDone (s : State) (code value : Nat) : State :=
  { s with host := { s.host with busy := false, code := BitVec.ofNat 8 code, value := BitVec.ofNat 32 value } }

/-- Whether n bytes at a physical address lie in HBM. -/
def inHbm (pa n : Nat) : Bool := decide (pa + n ≤ hbmSize)

/-! ## CTX_CREATE (R315, R317) -/

/-- Entry r of a settle region table. -/
def State.settabAt (s : State) (c : Ctx) (r : Nat) : Nat := if c.settab = 0 then 0 else ofBytes (s.bytes (c.settab + 8 * r) 8)

/-- A valid entry: settle die, first block, count. -/
def settleEntry (w : Nat) : Option (Nat × Nat × Nat) :=
  if w / 2 ^ 31 % 2 = 1 then some (w / 2 ^ 16 % 4, w % 2 ^ 6, w / 2 ^ 8 % 2 ^ 6 + 1) else none

/-- The regions of a context, by number. -/
def State.settab (s : State) (c : Ctx) : List (Nat × Nat × Nat × Nat) :=
  (List.range 16).filterMap fun r => (settleEntry (s.settabAt c r)).map fun e => (r, e)

/-- Whether two runs of blocks share a block. -/
def blocksMeet (a b : Nat × Nat × Nat) : Bool :=
  a.1 == b.1 && decide (a.2.1 < b.2.1 + b.2.2) && decide (b.2.1 < a.2.1 + a.2.2)

/-- No two of a list's runs share a block. -/
def blocksApart : List (Nat × Nat × Nat) → Bool
  | [] => true
  | a :: l => (l.all fun b => !blocksMeet a b) && blocksApart l

/-- A malformed settle region table (R317). -/
def State.badSettab (s : State) (c : Ctx) : Bool :=
  let l := (s.settab c).map Prod.snd
  let live := s.regions.filterMap fun p => p.2.map fun r => (r.die, r.first, r.count)
  ((List.range 16).any fun r =>
    let w := s.settabAt c r
    w / 2 ^ 32 != 0 || w / 2 ^ 18 % 2 ^ 13 != 0 || w / 2 ^ 14 % 4 != 0 || w / 2 ^ 6 % 4 != 0) ||
    (l.any fun e => decide (64 < e.2.1 + e.2.2)) || !blocksApart l || l.any fun e => live.any fun x => blocksMeet e x

/-- A malformed descriptor (R315). -/
def State.badDesc (s : State) (c : Ctx) : Bool :=
  let f := c.field
  f 0x78 8 != 0 || f 0x40 8 / 2 ^ 17 != 0 || c.strn == 0 || decide (65536 < c.strn) ||
    c.strtab % 64 != 0 || !inHbm c.strtab (64 * c.strn) ||
    f 0x50 8 % 65536 != 0 || !inHbm (f 0x50 8) 0x1000000 || f 0x48 8 % 65536 != 0 || !inHbm (f 0x48 8) 0x1000000 ||
    f 0x34 4 % 2 != 0 || f 0x34 4 / 2 ^ 19 != 0 || f 0x30 4 / 8 != 0 ||
    f 0x2C 4 % 4096 != 0 || decide (262144 < f 0x2C 4) ||
    (f 0x28 4 != 0 && (decide (f 0x28 4 < 1000) || decide (1000000 < f 0x28 4))) ||
    c.hndbud == 0 || c.defbud == 0 || f 0x18 4 / 2 ^ 14 != 0 || decide (5 < c.fpdef % 8) || c.fpdef / 2 ^ 4 % 16 != 0 ||
    f 0x0A 6 != 0 || c.ptroot / 2 ^ 52 != 0 || c.ptroot % 65536 != 0 || !inHbm c.ptroot 4096 ||
    !inHbm c.fabgrp 4 || !inHbm c.colltab 1024 || !inHbm c.settab 128 || !inHbm c.fpool 8 ||
    (c.fabgrp != 0 && s.host.devNo == 0) || s.badSettab c

/-- The context and its settle regions come to life. -/
def State.createCtx (s : State) (n : Nat) (c : Ctx) : State :=
  (s.settab c).foldl (fun (s : State) e =>
    { s with regions := Store.set s.regions (regionKey n e.1) (some { die := e.2.1, first := e.2.2.1, count := e.2.2.2 }) })
    (s.setCtx n (some c))

def execCtxCreate (s : State) : Out :=
  let pa := (s.arg 0).toNat
  let n := slice (s.arg 1) 0 6
  let c : Ctx := { desc := s.bytes pa 128, descPA := pa }
  .next (
    if (s.ctx n).isSome then s.cmdDone 1 0
    else if pa % 64 ≠ 0 ∨ !inHbm pa 128 then s.cmdDone 3 0
    else if s.ctxs.any fun p => (match p.2 with | some x => x.asid == c.asid | none => false) then s.cmdDone 2 0
    else if s.badDesc c then s.cmdDone 3 0
    else (s.createCtx n c).cmdDone 0 0)

def execCtxKill (s : State) : Out :=
  let n := slice (s.arg 1) 0 6
  .next (if (s.ctx n).isSome then (s.killCtx n).cmdDone 0 0 else s.cmdDone 1 0)

/-- Accesses of a context that hold a translation they made: executing copies and planned collectives, atomics on their
way, stores that a lashed pair holds, and samples before their completion point (R323). -/
def State.translated (s : State) (n : Nat) : Bool :=
  (s.engines.any fun p => p.2.ops.any fun o => o.ctx == n && (decide (2 ≤ o.st) || o.coll.isSome)) ||
    (s.agenda.any fun i => match i with | .atomicAtHome r => r.ctx == n | _ => false) ||
    (s.slots.any fun p => p.2.ctx == n && !p.2.heldSt.isEmpty) ||
    s.regions.any fun p => p.1 / 16 == n && (match p.2 with | some r => !r.smps.isEmpty | none => false)

/-- Lashed pairs of a context that hold stores exchange, so that INVAL can complete. -/
def State.pairsExchange (s : State) (n : Nat) : State :=
  (s.slots.filter fun p => p.2.ctx == n && p.2.st == .running && !p.2.heldSt.isEmpty).foldl (fun (s : State) p =>
    if s.agenda.contains (.lashedExchange p.1) then s else s.post (.lashedExchange p.1)) s

/-- INVAL waits until every access of the context that holds a translation has been performed (R323). -/
def execInval (s : State) : Out :=
  let n := slice (s.arg 1) 0 6
  .next (match s.ctx n with
    | none => s.cmdDone 1 0
    | some c =>
      if s.translated n then (s.pairsExchange n).post .inval
      else if s.arg 2 = 0 then { s with tlb := s.tlb.filter fun e => e.asid != c.asid }.cmdDone 0 0
      else (s.invalRange c.asid (s.arg 0).toNat (s.arg 2).toNat).cmdDone 0 0)

/-! ## Launch windows (R318, R319) -/

def State.win (s : State) (i : Nat) : Window := Store.get {} s.host.wins i
def State.modWin (s : State) (i : Nat) (f : Window → Window) : State :=
  { s with host := { s.host with wins := Store.set s.host.wins i (f (s.win i)) } }

/-- A window is free when it is not open and no item of it waits (log 16). -/
def State.freeWin (s : State) : Option Nat :=
  (List.range 256).find? fun i => !(s.win i).isOpen && (s.win i).queue.isEmpty

def execLaunchOpen (s : State) : Out :=
  let n := slice (s.arg 1) 0 6
  let l := slice (s.arg 3) 0 4
  .next (if (s.ctx n).isNone then s.cmdDone 1 0
    else
      match s.freeWin with
      | none => s.cmdDone 2 0
      | some i =>
        if l = 0 ∨ 10 < l then s.cmdDone 3 0
        else (s.modWin i fun _ => { isOpen := true, ctx := n, die := slice (s.arg 2) 0 2, l := l }).cmdDone 0 i)

def execLaunchClose (s : State) : Out :=
  let i := (s.arg 1).toNat
  .next (if i < 256 ∧ (s.win i).isOpen then (s.modWin i fun w => { w with isOpen := false }).cmdDone 0 0 else s.cmdDone 1 0)

/-- CRED: free slots of the launch strand. -/
def Window.cred (w : Window) : Nat := if w.isOpen then 2 ^ w.l - w.queue.length else 0

/-- A refused item: its status in ERR and LAST (R319). -/
def Window.refuse (w : Window) (cookie : Word) (status : Nat) : Window :=
  { w with err := w.err ||| 2 ^ status, last := (cookie <<< 8) + BitVec.ofNat 64 status }

/-- The 32 bytes of an item. -/
def LaunchItem.bytes (it : LaunchItem) : List Byte :=
  toBytes 8 it.rec_.toNat ++ toBytes 8 it.kind ++ toBytes 8 0 ++ toBytes 8 it.cookie.toNat

/-- A write of COOKIE sends the window's item, as its bytes stand; under duty C2 it becomes a service record (R318,
R324). -/
def State.launchSend (s : State) (i : Nat) : State :=
  let w := s.win i
  if !w.isOpen then s
  else if w.cred = 0 then s.modWin i fun w => w.refuse w.cookie 5
  else
    let c2 := match s.ctx w.ctx with | some c => c.duty 2 | none => false
    let it : LaunchItem := { rec_ := w.rec_, kind := w.kind, cookie := w.cookie, sent := c2 }
    let s := s.modWin i fun w => { w with queue := w.queue ++ [it] }
    if c2 then s.service 2 w.ctx it.bytes else s

def execLaunchItemSend (i : Nat) (s : State) : Out := .next (s.launchSend i)

/-- The host approves or refuses the first item that waits for it (R324). -/
def execLaunchItemApproval (i : Nat) (ok : Bool) (s : State) : Out :=
  let mark (it : LaunchItem) : LaunchItem := { it with ok := ok, no := !ok }
  .next (s.modWin i fun w => { w with queue := updFirst (fun it => it.sent && !it.ok && !it.no) mark w.queue })

/-- The load of a core: occupied task slots and records on its deques (R319). -/
def State.coreLoad (s : State) (core : Nat) : Nat :=
  let c := s.core core
  ((List.range 4).filter fun i => !s.idle (taOf core i)).length + c.urgent.length + c.normal.length

/-- The least-loaded core of a die; among equals the lowest (R319). -/
def State.leastLoaded (s : State) (die : Nat) : Nat :=
  ((List.range 2048).foldl (fun (b : Option (Nat × Nat)) i =>
    let core := die * 2048 + i
    if !s.present die (i / 4) then b
    else
      let v := s.coreLoad core
      match b with
      | some (bv, _) => if v < bv then some (v, core) else b
      | none => some (v, core)) none).elim (die * 2048) Prod.snd

/-- Accepts an item as SPAWN or GANG would: its status (R319). -/
def State.acceptItem (s : State) (w : Window) (it : LaunchItem) : State × Nat :=
  let gang := it.kind % 2 = 1
  let n := if gang then 128 else 64
  if it.rec_.toNat % n ≠ 0 then (s, 1)
  else
    match s.recRead none w.ctx it.rec_ n with
    | (s, .bytes bs) =>
      if gang then
        if badGang bs then (s, 1)
        else s.accept w.ctx it.rec_ (some (parseGang bs)) (parseTask ((bs.drop 64).take 64)) (w.die * 2048) false false
      else if badTask bs then (s, 1)
      else s.accept w.ctx it.rec_ none (parseTask bs) (s.leastLoaded w.die) false false
    | (s, .pois _) => (s, 6)
    | (s, _) => (s, 4)

/-- Whether the placer may take the first item of a window: intake has not stopped, and under C2 it has been
approved (R324, R348). An item that the host refuses leaves without a record (log 16). -/
def State.itemReady (s : State) (i : Nat) : Bool :=
  match (s.win i).queue with
  | it :: _ => s.mayStart (s.win i).ctx && (!it.sent || it.ok || it.no)
  | [] => false

/-- The placer takes the first item of a window (R319). -/
def execLaunchItemAccept (i : Nat) (s : State) : Out :=
  let w := s.win i
  .next (match w.queue with
    | it :: rest =>
      if !s.itemReady i then s
      else
        let s := s.modWin i fun w => { w with queue := rest }
        if it.no then s
        else
          let (s, st) := s.acceptItem w it
          if st = 0 then s else s.modWin i fun w => w.refuse it.cookie st
    | [] => s)

/-! ## Service ring, duties, devices (R325, R324, R327, R329) -/

def execSvcRing (s : State) : Out :=
  let pa := (s.arg 0).toNat
  let l := slice (s.arg 2) 0 4
  .next (if pa % 64 ≠ 0 then s.cmdDone 1 0
    else if l = 0 ∨ 10 < l then s.cmdDone 2 0
    else (State.svcRun { s with host := { s.host with ring := some pa, ringL := l, sent := 0, used := 0 } } s.host.waiting).cmdDone 0 0)

def execDuty (s : State) : Out :=
  .next ({ s with host := { s.host with duty := (s.arg 0).setWidth 4 } }.cmdDone 0 0)

/-- A device is lost: ends on it are orphaned, and collectives with its members abort (R268, R245, R329). -/
def State.loseDevice (s : State) (dev : Nat) : State :=
  if s.host.lost.contains dev then s
  else
    let s := { s with host := { s.host with lost := s.host.lost ++ [dev] } }
    let s := s.orphan (s.strands.flatMap fun p =>
      match p.2 with
      | some x => (if x.src.dev = dev then [(p.1, false)] else []) ++ (if x.snk.dev = dev then [(p.1, true)] else [])
      | none => [])
    let ops := s.engines.flatMap fun p => p.2.ops.filterMap fun o => o.coll.map fun c => (o.ctx, c.grp, c.op)
    ops.foldl (fun (s : State) x =>
      match s.ctx x.1 with
      | some c =>
        match s.groupOf c x.2.1 with
        | some l => if l.any fun m => m.1 == dev then s.collAbort x.1 x.2.1 x.2.2 else s
        | none => s
      | none => s) s

def execDevLost (s : State) : Out :=
  let dev := slice (s.arg 0) 0 16
  .next (if s.ctxs.any fun p => (match p.2 with | some c => s.inFabric c dev | none => false) then
      (s.loseDevice dev).cmdDone 0 0
    else s.cmdDone 1 0)

/-- 1 ms without an acknowledgement (R329). -/
def execDeviceLostTimeout (dev : Nat) (s : State) : Out := .next (s.loseDevice dev)

/-- LYONG_SETUP (R327). -/
def execLyongSetup (s : State) : Out :=
  let no := slice (s.arg 0) 0 12
  let pa := (s.arg 1).toNat
  .next (if no = 0 then s.cmdDone 1 0
    else if pa % 64 ≠ 0 ∨ !inHbm pa 8192 then s.cmdDone 2 0
    else if s.ctxs.any fun p => (match p.2 with | some c => c.fabgrp != 0 | none => false) then s.cmdDone 3 0
    else
      let tab := (List.range 4096).filterMap fun i =>
        let m := ofBytes (s.bytes (pa + 2 * i) 2)
        if m = 0 then none else some (i, m)
      { s with host := { s.host with devNo := no, routes := tab, ports := (s.arg 2).setWidth 16
                                     up := s.host.up &&& (s.arg 2).setWidth 16 } }.cmdDone 0 0)

/-- A port that may train goes up or down (R326). -/
def execLyongPortTraining (port : Nat) (up : Bool) (s : State) : Out :=
  let m : BitVec 16 := 1#16 <<< port
  let h := s.host
  .next { s with host := { h with up := if up then h.up ||| (m &&& h.ports) else h.up &&& ~~~m } }

/-! ## STRAND_WIRE and STRAND_FREE (R328) -/

/-- An end at a location word: none when the word is bad. -/
def State.wireEnd (s : State) (c : Ctx) (w : Word) : Option StrandEnd :=
  let d := slice w 0 12
  let dev := if d = s.host.devNo then 0 else d
  let quad := slice w 12 2 * 512 + slice w 14 9
  if slice w 23 9 ≠ 0 then none
  else if s.host.devNo = 0 ∧ d ≠ 0 then none
  else if dev = 0 then (if s.present (slice w 12 2) (slice w 14 9) then some { quad := quad, wired := true } else none)
  else if s.inFabric c dev && Config.freeFlag s.ctr 41 then some { quad := quad, dev := dev, wired := true }
  else none

def execStrandWire (s : State) : Out :=
  let n := slice (s.arg 1) 0 6
  let idx := slice (s.arg 2) 0 16
  let a := s.arg 5
  let off := slice a 0 20
  let sz := slice a 20 3
  let l := slice a 23 4
  .next (match s.ctx n with
    | none => s.cmdDone 1 0
    | some c =>
      if c.strn ≤ idx ∨ (s.strand? (strandKey n idx)).isSome then s.cmdDone 2 0
      else
        match s.wireEnd c (s.arg 3), s.wireEnd c (s.arg 4) with
        | some src, some snk =>
          if slice a 27 37 ≠ 0 ∨ 5 < sz ∨ l = 0 ∨ 10 < l ∨ off % (8 * 2 ^ sz) ≠ 0 ∨ 0xF4000 < off + 2 ^ l * (8 * 2 ^ sz) then
            s.cmdDone 4 0
          else
            let x := freshStrand n idx (s.freeReuse n idx) sz l src snk off
            (s.putStrand x).cmdDone 0 x.reuse
        | _, _ => s.cmdDone 3 0)

/-- Closes an end that is still live. -/
def State.closeLive (s : State) (k : Nat) (sink : Bool) : State :=
  match s.strand? k with
  | some x => if (x.side sink).live then s.closeEnd x sink else s
  | none => s

def execStrandFree (s : State) : Out :=
  let n := slice (s.arg 1) 0 6
  let k := strandKey n (slice (s.arg 2) 0 16)
  .next (if (s.ctx n).isNone then s.cmdDone 1 0
    else if (s.strand? k).isNone then s.cmdDone 2 0
    else
      let s := (s.closeLive k false).closeLive k true
      (match s.strand? k with | some x => s.freeStrand x | none => s).cmdDone 0 0)

/-! ## THAW, DBG_MAP, unknown commands (R349, R313) -/

def execThaw (s : State) : Out :=
  let n := slice (s.arg 1) 0 6
  let g := slice (s.arg 2) 0 32
  .next (if (s.ctx n).isNone then s.cmdDone 2 0
    else if s.graphFrozen n g then (s.modCtx n fun c => { c with frozen := c.frozen.filter fun x => x != g }).cmdDone 0 0
    else s.cmdDone 1 0)

/-- The slot that DBG_MAP names: of this device, in a quad in service. It may be empty, or hold a task, saved or not, or an
activation of the context; one that another context holds is not shown (R336, R349; log 16). -/
def State.dbgSlot (s : State) (n : Nat) (c : Ctx) (t : Word) : Bool :=
  let ta := slice t 0 16
  s.taOk c t && s.devOf t == 0 &&
    ((s.windowSlot ta).st == .idle || (s.windowSlot ta).ctx == n || (s.isRxfull ta && (s.windowSlot ta).pkt.ctxn == n))

/-- DBG_MAP: the window of the slot appears at the debug window of the BAR (R349). -/
def execDbgMap (s : State) : Out :=
  let n := slice (s.arg 1) 0 6
  let t := s.arg 0
  .next (match s.ctx n with
    | some c =>
      if s.dbgSlot n c t then { s with host := { s.host with dbg := some (slice t 0 16) } }.cmdDone 0 0
      else s.cmdDone 1 0
    | none => s.cmdDone 1 0)

def execUnknownCommand (s : State) : Out := .next (s.cmdDone 0xFF 0)

/-! ## Accesses from outside (R312, R210, R332) -/

/-- Bytes written at a home slice from outside: no L1 keeps a copy of the lines (R189). -/
def State.outsideWrite (s : State) (pa : Nat) (bs : List Byte) : State :=
  let s := s.putBytes pa bs
  if bs.isEmpty then s
  else (List.range ((pa + bs.length - 1) / 128 - pa / 128 + 1)).foldl (fun (s : State) i => s.dropL1 (pa / 128 + i) none) s

/-- A host access over CXL.mem (R312): outside the exposed range nothing happens; a read changes nothing. While a
thermal emergency holds it waits (R390); in recovery it is not served (R330). -/
def execHostMemAccess (write : Bool) (pa : Word) (bytes : List Byte) (s : State) : Out :=
  .next (if write && inHbm pa.toNat bytes.length && !s.host.recovery then s.outsideWrite pa.toNat bytes else s)

/-- A load or store from a peer device (R210, R321). -/
def execPeerMemAccess (dev : Nat) (write : Bool) (pa : Word) (bytes : List Byte) (s : State) : Out :=
  .next (if write && inHbm pa.toNat bytes.length && !s.host.lost.contains dev && !s.host.recovery then s.outsideWrite pa.toNat bytes else s)

/-! ## The capability list and attestation (R332 to R334) -/

/-- The entries of the capability list: id and data (R334), with the link as it trained (R312). -/
def State.capEntries (s : State) : List (Nat × Nat) :=
  [(0x0001, (List.range 4).foldl (fun n d => n + s.clustersUp d * 2 ^ (8 * d)) 0 + s.host.devNo * 2 ^ 32
      + Config.freeLanes % 32 * 2 ^ 48 + Config.freeRate % 256 * 2 ^ 56),
   (0x0010, 4 + 64 * 2 ^ 8 + 16 * 2 ^ 16), (0x0011, 8 + 28 * 2 ^ 8), (0x0012, 1024 + 4 * 2 ^ 16), (0x0013, 32 + 6 * 2 ^ 8),
   (0x0014, 16 + 8 * 2 ^ 8 + 224 * 2 ^ 16 + s.host.up.toNat * 2 ^ 32), (0x0015, 1024 + 16 * 2 ^ 16 + 64 * 2 ^ 24),
   (0x0016, 4095), (0x0017, 4 + 32 * 2 ^ 8)]

/-- The capability list as bytes (R333). -/
def State.capBytes (s : State) : List Byte :=
  let l := s.capEntries
  (List.range l.length).flatMap fun i =>
    let e := l.getD i (0, 0)
    toBytes 2 e.1 ++ toBytes 1 1 ++ toBytes 1 16 ++ toBytes 4 (if i + 1 = l.length then 0 else 16 * (i + 1)) ++ toBytes 8 e.2

/-- The read-only copy of the list in BAR0: n bytes at a BAR0 offset (R312). System software maps the list into contexts
from there or from a copy that it makes (R333; log 2). -/
def State.capCopy (s : State) (off n : Nat) : List Byte := ((s.capBytes ++ List.replicate n 0).drop (off - 0x1000)).take n

/-- n free bytes of an attestation answer from a place on. -/
def State.spdmBytes (s : State) (place n : Nat) : List Byte := (List.range n).map fun i => Config.freeSpdm s.ctr (place + i)

/-- The measurements: digests of firmware and of the fences, and of the capability list (R332). -/
def State.measures (s : State) : List (Nat × List Byte) :=
  ((List.range 5).map fun i => (i + 1, s.spdmBytes (64 * i) 48)) ++ [(6, Config.sha384 s.capBytes)]

/-- The answer to a request, by its code and its first parameter; none is given to a request that is not served (log 17). -/
def State.spdmAnswer (s : State) (code : Nat) : Option SpdmAnswer :=
  let rsa := s.spdmBytes 1024 384
  let slh := s.spdmBytes 2048 16224
  match code % 256 with
  | 0x84 => some (.version [0x12, 0x13])
  | 0xE1 => some (.capabilities false)
  | 0xE3 => some (.algorithms true true)
  | 0x81 => some (.digests [(0, s.spdmBytes 512 48), (1, s.spdmBytes 576 48)])
  | 0x82 => if code / 256 < 2 then some (.certificate (code / 256) (s.spdmBytes 32768 (Config.freeSpdm s.ctr 0).toNat)) else none
  | 0x83 => some (.challenge rsa slh)
  | 0xE0 => some (.measurements s.measures rsa slh)
  | _ => none

/-- An SPDM request is answered in the DOE mailbox (R332; log 17). -/
def execSpdmRequest (code : Nat) (s : State) : Out :=
  .next { s with host := { s.host with doe := s.spdmAnswer code } }

end Sys2Proof.Machine
end

