-- ==== Sys2Proof/Machine/Measure.lean ====
section
/-! DEFINITION. Replay runs (20_measurement.md R358 to R363), the trace cores and their filter (R364 to R369), and the
link counter grid (R370). -/

namespace Sys2Proof.Machine

/-! ## The trace filter (R368, R369) -/

def State.modTrace (s : State) (f : TraceSt → TraceSt) : State := { s with trace := f s.trace }

/-- Instruction i of the filter. -/
def State.filterWord (s : State) (i : Nat) : Nat := ofBytes (s.bytes (s.trace.fprog.toNat + 2 * i) 2)

/-- Whether the check of an enabling passes an instruction at an index of a program of n instructions. -/
def filterOk (n i w : Nat) : Bool :=
  let op := w / 2048
  let x := w % 2048
  if op = 4 then decide (x ≤ 3)
  else if op = 5 ∨ op = 6 then true
  else if op = 24 ∨ op = 25 ∨ op = 26 then decide (x ≠ 0) && decide (i + x < n)
  else if op = 2 ∨ op = 27 ∨ op = 28 ∨ op = 29 then decide (x ≤ 15)
  else if op = 30 then decide (x / 32 + x % 32 + 1 ≤ 64)
  else decide (x = 0)

/-- What a filter run comes to. -/
inductive Verdict where
  | keep | drop | trig | ferr
  deriving DecidableEq, Repr

/-- The filter's state within a run: the stack, its top first, the variables and the counters. -/
structure Filter where
  stack : List Word := []
  var   : Vector Word 16
  cnt   : Vector Word 16
  deriving DecidableEq, Repr

/-- A function of two entries: x the top, y below it. -/
def filterBin (op : Nat) (y x : Word) : Word :=
  match op with
  | 10 => y + x
  | 11 => y - x
  | 12 => y &&& x
  | 13 => y ||| x
  | 14 => y ^^^ x
  | 16 => y <<< slice x 0 6
  | 17 => y >>> slice x 0 6
  | 18 => ofBool (y == x)
  | 19 => ofBool (y != x)
  | 20 => ofBool (decide (y.toNat < x.toNat))
  | 21 => ofBool (decide (x.toNat ≤ y.toNat))
  | 22 => ofBool (decide (y.toInt < x.toInt))
  | _ => ofBool (decide (x.toInt ≤ y.toInt))

/-- One instruction: the next pc with the filter's state, or the verdict. -/
def filterStep (rec_ : List Word) (pc w : Nat) (f : Filter) : Filter × Except Verdict Nat :=
  let op := w / 2048
  let i := w % 2048
  let push (v : Word) (st : List Word) : Filter × Except Verdict Nat :=
    if st.length < 16 then ({ f with stack := v :: st }, .ok (pc + 1)) else (f, .error .ferr)
  let at_ (v : Vector Word 16) : Word := v.toList.getD i 0
  let under : Filter × Except Verdict Nat := (f, .error .ferr)
  if op = 0 then (f, .error .keep)
  else if op = 1 then (f, .error .drop)
  else if op = 2 then ({ f with cnt := if h : i < 16 then f.cnt.set i (f.cnt[i]'h + 1) h else f.cnt }, .ok (pc + 1))
  else if op = 3 then (f, .error .trig)
  else if op = 4 then push (rec_.getD i 0) f.stack
  else if op = 5 then push (sextLow (BitVec.ofNat 64 i) 11) f.stack
  else if op = 26 then (f, .ok (pc + i))
  else if op = 27 then push (at_ f.var) f.stack
  else if op = 29 then push (at_ f.cnt) f.stack
  else
    match f.stack with
    | [] => under
    | x :: st =>
      if op = 6 then push ((x <<< 11) ||| BitVec.ofNat 64 i) st
      else if op = 7 then push x (x :: st)
      else if op = 8 then ({ f with stack := st }, .ok (pc + 1))
      else if op = 15 then push (~~~ x) st
      else if op = 24 then ({ f with stack := st }, .ok (if x = 0 then pc + i else pc + 1))
      else if op = 25 then ({ f with stack := st }, .ok (if x = 0 then pc + 1 else pc + i))
      else if op = 28 then
        ({ f with stack := st, var := if h : i < 16 then f.var.set i x h else f.var }, .ok (pc + 1))
      else if op = 30 then push (BitVec.ofNat 64 (slice x (i / 32) (i % 32 + 1))) st
      else
        match st with
        | [] => under
        | y :: st =>
          if op = 9 then ({ f with stack := y :: x :: st }, .ok (pc + 1))
          else if op = 31 then
            match st with
            | [] => under
            | a :: st => push (if x ≠ 0 then a else y) st
          else push (filterBin op y x) st

/-- The run for a record, with fuel for every instruction of the longest program: a checked program only branches
forward. -/
def State.filterRun (s : State) (rec_ : List Word) : Nat → Nat → Filter → Filter × Verdict
  | 0, _, f => (f, .keep)
  | n + 1, pc, f =>
    if s.trace.flen ≤ pc then (f, .keep)
    else
      match filterStep rec_ pc (s.filterWord pc) f with
      | (f, .ok pc) => s.filterRun rec_ n pc f
      | (f, .error v) => (f, v)

/-! ## Writing records (R365, R366) -/

/-- The four words of a record. -/
def traceWords (r : TraceRec) (time : Nat) : List Word :=
  [BitVec.ofNat 64 time, r.taddr,
   BitVec.ofNat 64 (r.kind % 2 ^ 8 + r.ctx % 64 * 2 ^ 8 + r.tag % 2 ^ 16 * 2 ^ 16 + r.aux.toNat * 2 ^ 32), r.entry]

/-- Bytes that a controller writes at a physical address of HBM. -/
def State.dmaWrite (s : State) (pa : Nat) (bs : List Byte) : State :=
  if inHbm pa bs.length then s.outsideWrite pa bs else s

def TraceSt.full (t : TraceSt) : Bool := (t.head + 2 ^ 64 - t.tail % 2 ^ 64) % 2 ^ 64 == 2 ^ t.rsz

/-- Puts a record into the ring, which has room. -/
def State.ringPut (s : State) (ws : List Word) : State :=
  let t := s.trace
  (s.dmaWrite (t.ring.toNat + 32 * (t.head % 2 ^ t.rsz)) (ws.flatMap fun w => toBytes 8 w.toNat)).modTrace fun t =>
    { t with head := (t.head + 1) % 2 ^ 64 }

/-- A LOST record goes in as soon as space has returned. -/
def State.putLost (s : State) : State :=
  let t := s.trace
  if t.owed = 0 ∨ t.full then s
  else
    (s.ringPut (traceWords ⟨9, 0, 0, BitVec.ofNat 32 (Nat.min t.owed 0xFFFFFFFF), 0, 0⟩ s.time)).modTrace fun t =>
      { t with owed := 0 }

/-- A record goes into the ring, or is dropped and counted. -/
def State.ringWrite (s : State) (ws : List Word) : State :=
  let s := s.putLost
  if s.trace.full then s.modTrace fun t => { t with lost := satAdd64 t.lost 1, owed := t.owed + 1 } else s.ringPut ws

/-- A debug stop of a record's context (R367). -/
def State.debugStop (s : State) (r : TraceRec) : State :=
  (s.modTrace fun t => { t with stopped := true, stop := if t.stop.contains r.ctx then t.stop else t.stop ++ [r.ctx] }).ringWrite
    (traceWords ⟨7, r.ctx, 0, 0, r.taddr, r.entry⟩ s.time)

/-- A record reaches the trace cores: the filter decides. STOP and LOST records are written unfiltered (log 22). -/
def execTraceRecord (r : TraceRec) (time : Nat) (s : State) : Out :=
  let ws := traceWords r time
  .next (
    if !s.trace.en then s
    else if s.trace.flen = 0 then s.ringWrite ws
    else
      let (f, v) := s.filterRun ws 257 0 { var := s.trace.var, cnt := s.trace.cnt }
      let s := s.modTrace fun t => { t with var := f.var, cnt := f.cnt }
      match v with
      | .keep => s.ringWrite ws
      | .drop => s
      | .trig => (s.ringWrite ws).debugStop r
      | .ferr => (s.ringWrite ws).modTrace fun t => { t with ferr := satAdd64 t.ferr 1 })

/-! ## The trace controller (R364, R366 to R368) -/

/-- EN is written 1: the filter is checked; its variables and counters start at 0 with the enabling. -/
def State.traceOn (s : State) : State :=
  let t := s.trace
  let ok := decide (t.flen ≤ 256) && (List.range t.flen).all fun i => filterOk t.flen i (s.filterWord i)
  s.modTrace fun t =>
    let z : Vector Word 16 := Vector.replicate 16 0
    { t with en := ok, badf := !ok, var := if t.en then t.var else z, cnt := if t.en then t.cnt else z }

def execTraceEnable (s : State) : Out := .next s.traceOn

/-- CLR. -/
def State.traceClr (s : State) : State :=
  s.modTrace fun t => { t with var := Vector.replicate 16 0, cnt := Vector.replicate 16 0, lost := 0, ferr := 0 }

def execTraceClear (s : State) : Out := .next s.traceClr

/-- RESUME ends a debug stop. -/
def State.traceGo (s : State) : State := s.modTrace fun t => { t with stop := [], stopped := false }

def execTraceResume (s : State) : Out := .next s.traceGo

/-- The reader writes TAIL. -/
def State.traceTail (s : State) (value : Word) : State := (s.modTrace fun t => { t with tail := value.toNat }).putLost

def execTraceTailWrite (value : Word) (s : State) : Out := .next (s.traceTail value)

/-! ## The link counter grid (R370) -/

/-- The virtual quad at the other end of a link: 0 east, 1 north, 2 west, 3 south. Which way rows and columns count is
not stated (log 22). -/
def linkTo (vq link : Nat) : Option Nat :=
  let row := vq / 16
  let col := vq % 16
  let up (v lim : Nat) : Option Nat := if v + 1 < lim then some (v + 1) else none
  let down (v : Nat) : Option Nat := if v = 0 then none else some (v - 1)
  match link with
  | 0 => (if Config.freeFlag 0 60 then up col 16 else down col).map fun c => row * 16 + c
  | 2 => (if Config.freeFlag 0 60 then down col else up col 16).map fun c => row * 16 + c
  | 1 => (if Config.freeFlag 0 61 then up row 32 else down row).map fun r => r * 16 + col
  | _ => (if Config.freeFlag 0 61 then down row else up row 32).map fun r => r * 16 + col

/-- A record of a link: for each virtual channel the flits and the stall cycles of the interval. -/
def linkRecord (ctr place : Nat) : List Byte :=
  (List.range 8).flatMap fun i => toBytes 4 (Nat.min (Config.freeFlits ctr (place + 4 * i)) 0xFFFFFFFF)

/-- The snapshot's bytes. -/
def State.gridBytes (s : State) : List Byte :=
  let z : List Byte := List.replicate 32 0
  (toBytes 8 s.time ++ toBytes 8 s.grid.seq ++ List.replicate 48 0) ++
    ((List.range 8192).flatMap fun i =>
      let die := i / 2048
      let vq := i / 4 % 512
      if s.present die vq && (linkTo vq (i % 4)).isSome then linkRecord s.ctr (64 + 32 * i) else z) ++
    (List.range 16).flatMap fun p => linkRecord s.ctr (64 + 32 * (8192 + p))

/-- The snapshot of an interval that has ended. -/
def execLinkGridSnapshot (s : State) : Out :=
  let g := s.grid
  .next (
    if g.ivl = 0 ∨ g.nsnap = 0 then s
    else
      { s.dmaWrite (g.grid.toNat + 262720 * (g.seq % g.nsnap)) s.gridBytes with
        grid := { g with seq := (g.seq + 1) % 2 ^ 64, last := s.time } })

/-! ## Replay runs (R359 to R363) -/

def State.modReplay (s : State) (f : ReplaySt → ReplaySt) : State := { s with replay := f s.replay }

def ReplaySt.ctx (r : ReplaySt) : Nat := slice r.cfg 0 6
def ReplaySt.die (r : ReplaySt) : Nat := slice r.cfg 6 2
def ReplaySt.npass (r : ReplaySt) : Nat := slice r.cfg 8 4

/-- The frames of HBM that a page table maps, with their sizes (R320, R321). -/
def State.leavesFrom (s : State) (c : Ctx) : List (Nat × Nat × Option Nat) → Nat → List (Nat × Nat)
  | [], _ => []
  | (_, w, leaf) :: rest, table =>
    (List.range (2 ^ w)).flatMap fun i =>
      let p : Word := BitVec.ofNat 64 (ofBytes (s.bytes (table + 8 * i) 8))
      if bit p 1 then
        match leaf with
        | some size => if s.pteLeaf c p size && pteMT p == 0 then [(ptePA p, size)] else []
        | none => []
      else
        match pteNode p, rest with
        | some next, _ :: _ => s.leavesFrom c rest next
        | _, _ => []

/-- Every line of a context's pages leaves every L1 and L2; its retention registers stay (R361). -/
def State.dropPages (s : State) (c : Ctx) : State :=
  let l := s.leavesFrom c walkLevels (c.ptroot / 2 ^ 16 * 2 ^ 16)
  let keep (x : CacheLine) : Bool := l.all fun p => !(decide (p.1 ≤ x.line * 128) && decide (x.line * 128 < p.1 + p.2))
  { s with
    cores := s.cores.map fun (p : Nat × CoreSt) => (p.1, { p.2 with l1 := p.2.l1.map fun q => (q.1, q.2.filter keep) })
    dies := s.dies.map fun (p : Nat × DieSt) => (p.1, { p.2 with l2 := p.2.l2.map fun q => (q.1, q.2.filter keep) }) }

/-- The write set goes back: the captured pages from WSAREA, where they follow the unit's QLM area, which returns when the
unit is placed (R360). -/
def State.restoreSet (s : State) : State :=
  let r := s.replay
  (List.range r.pages.length).foldl (fun (s : State) i =>
    let page := r.pages.getD i 0
    s.copyBytes (r.wsArea.toNat + r.area + 65536 * i) (65536 * page) 65536) s

/-- The run is over: BUSY falls and the counters are released. -/
def State.replayStop (s : State) : State :=
  { s with
    replay := { s.replay with busy := false }
    cores := s.cores.map fun (p : Nat × CoreSt) =>
      (p.1, { p.2 with pmc := p.2.pmc.map fun (k : PmCounter) => if k.replay then {} else k }) }

/-- The 64 bytes of a pass's result (R359). -/
def resultBytes (counts : List Nat) (status fprint : Nat) : List Byte :=
  (List.range 4).flatMap (fun i => toBytes 8 (counts.getD i 0)) ++ toBytes 8 status ++ toBytes 8 fprint ++ List.replicate 16 0

def State.putResult (s : State) (counts : List Nat) (status fprint : Nat) : State :=
  s.dmaWrite (s.replay.result.toNat + 64 * s.replay.pass) (resultBytes counts status fprint)

/-- Accepts REC as SPAWN or GANG would: 0, or the RCODE of its refusal. Later passes use the core of pass 0. -/
def State.replayAccept (s : State) : State × Nat :=
  let r := s.replay
  let gang := bit r.cfg 13
  let n := if gang then 128 else 64
  if r.recA.toNat % n ≠ 0 then (s, 3)
  else
    match s.recRead none r.ctx r.recA n with
    | (s, .pois _) => (s, 6)
    | (s, .bytes bs) =>
      if (if gang then badGang bs else badTask bs) then (s, 3)
      else
        let core := match r.place with
          | some (_, c :: _) => c
          | _ => s.leastLoaded r.die
        let (s, st) :=
          if gang then s.accept r.ctx r.recA (some (parseGang bs)) (parseTask ((bs.drop 64).take 64)) (r.die * 2048) false false true
          else s.accept r.ctx r.recA none (parseTask bs) core true false true
        (s, if st = 0 then 0 else if st = 2 then 4 else 5)
    | (s, _) => (s, 2)

/-- Pass k starts: the write set is restored, the caches are reset, and REC is accepted. -/
def State.passStart (s : State) (k : Nat) : State :=
  let s := s.modReplay fun r => { r with pass := k, mism := false, mkind := 0, done := [], freed := [], waits := []
                                         prints := [], ended := none }
  let s := { s with cores := s.cores.map fun (p : Nat × CoreSt) =>
    (p.1, { p.2 with pmc := p.2.pmc.map fun (k : PmCounter) => if k.replay then { k with count := 0 } else k }) }
  let s := if k = 0 ∨ s.replay.wsOv then s else s.restoreSet
  match s.ctx s.replay.ctx with
  | none => s.replayStop
  | some c =>
    let (s, code) := (s.dropPages c).replayAccept
    if code = 0 then s
    else ((s.putResult [] (2 ^ 7) 0).modReplay fun r => { r with rcode := code }).replayStop

/-- GO (R358, R359). -/
def State.replayGo (s : State) : State :=
  if s.replay.busy then s
  else if (s.ctx s.replay.ctx).isNone then s.modReplay fun r => { r with rcode := 1 }
  else
    (s.modReplay fun r => { r with busy := true, rcode := 0, place := none, pages := [], area := 0, wsOv := false
                                   logOv := false, fprint := 0, logged := [] }).passStart 0

def execReplayRunGo (s : State) : Out := .next s.replayGo

/-- The fingerprint of the ended tasks, in rank order (R363). -/
def fingerprint (l : List (Nat × W32)) : W32 :=
  let ordered := (List.range 128).flatMap fun r => (l.filter fun p => p.1 == r).map Prod.snd
  crc32c 0 (ordered.flatMap fun c => toBytes 4 c.toNat)

/-- The unit's atomics at a location in a list. -/
def unitAt (l : List (Nat × Nat)) (k : Nat) : Nat := ((logAt l k).filter fun r => r != 0xFFFF).length

/-- STATUS of a completed pass (R363). -/
def ReplaySt.status (r : ReplaySt) (bad : Bool) : Nat :=
  let ws := r.pass == 0 && r.wsOv
  let lg := r.pass == 0 && r.logOv
  1 + r.mism.toNat * 2 + (r.mism || ws || lg).toNat * 4 + lg.toNat * 8 + ws.toNat * 16 + bad.toNat * 32 + r.mkind * 256

/-- The unit of a pass has completed: its result is written, and the run goes on or stops (R359, R362, R363). A
differing path comes before a missing atomic (R372; log 22). -/
def execReplayPassComplete (s : State) : Out :=
  let r := s.replay
  .next (match r.busy, r.ended with
    | true, some code =>
      let cores := match r.place with | some (_, l) => l | none => []
      let sum (i : Nat) : Nat := (cores.map fun c => (((s.core c).pmc.getD i {}).count)).foldl satAdd64 0
      let fp := fingerprint r.prints
      let s := if r.pass = 0 then s.modReplay fun r => { r with fprint := fp }
        else
          let s := if fp = r.fprint then s else s.mismatch 2
          if !r.logOv && r.logged.any fun p => decide (unitAt r.done p.1 < unitAt r.logged p.1) then s.mismatch 1 else s
      let s := s.putResult ((List.range 4).map sum) (s.replay.status (code != 0)) fp.toNat
      if code ≠ 0 ∨ r.npass ≤ r.pass then s.replayStop else s.passStart (r.pass + 1)
    | _, _ => s)

/-- An enforced atomic has waited 1 ms: the atomics held at its location go on in arrival order (R362). -/
def execReplayEnforceTimeout (key : Nat) (s : State) : Out :=
  .next (
    if s.replay.busy && s.replay.waits.any fun p => p.1 == key then
      (s.mismatch 4).modReplay fun r => { r with freed := r.freed ++ [key], waits := r.waits.filter fun p => p.1 != key }
    else s)

end Sys2Proof.Machine
end

