-- ==== Sys2Proof/Machine/Preempt.lean ====
section
/-! DEFINITION. Budgets, pre-emption, force-stop and resume (19_preemption.md R344 to R347). -/

namespace Sys2Proof.Machine

/-! ## The request (R344) -/

/-- PREEMPT marks a request on a running unit. -/
def execPreempt (s : State) : Out :=
  let n := slice (s.arg 1) 0 6
  let hit (u : UnitSt) : Bool := u.is n (s.arg 0) && !u.stopped
  .next (
    if s.units.any hit then
      { s with units := updFirst hit (fun u => { u with preempt := some ((s.arg 2).toNat, bit (s.arg 3) 0) }) s.units }.cmdDone 0 0
    else s.cmdDone 1 0)

/-- The members of a unit that have not ended. -/
def UnitSt.live (u : UnitSt) : List Member := u.members.filter fun m => !m.ended

/-- Whether a slot of a unit is frozen. -/
def State.anyFrozen (s : State) (u : UnitSt) : Bool := u.live.any fun m => (s.slot m.ta).st == .frozen

/-! ## Force-stop (R345) -/

/-- A slot leaves a waiting instruction: a held message is taken back; an instruction whose message has gone, the arrival of
a BARSYNC, and a claim, stay (R255, R345). -/
def State.leaveForStop (s : State) (ta : Nat) : State :=
  let uid := (s.slot ta).uid
  let claimed := s.strands.any fun p => match p.2 with | some x => x.claims.any fun c => c.t.uid == uid && c.v.isSome | none => false
  let s := if (s.slot ta).barSent then s else s.leaveBars ta
  let s := (s.cores.map Prod.fst).foldl (fun (s : State) c =>
    if (s.core c).held.any fun m => m.2 == some uid then
      (s.modCore c fun x => { x with held := x.held.filter fun m => m.2 != some uid }).rxLeft c
    else s) s
  s.modSlot ta fun sl => { sl with sending := sl.sending && claimed }

/-- A task is saved: a lashed pair's held stores are performed first (R378). -/
def State.saveTask (s : State) (m : Member) (save : Option Nat) : State :=
  let s := if (s.slot m.ta).paired then s.exchange m.ta else s
  let s := (s.leaveForStop m.ta).dropBufs m.uid
  let sl := s.slot m.ta
  let s := match save with
    | some pa => s.putBytes pa (s.windowBytes (taCore m.ta) { sl with st := .saved })
    | none => s
  let s := if sl.paired then s.setSlot (partnerOf m.ta) {} else s
  { s.setSlot m.ta {} with
    parked := Store.set s.parked m.uid { sl with fbuf := [], words := [] }
    agreed := s.agreed.filter fun p => p.1 != m.uid }

/-- Every task of a unit is stopped and saved; the unit waits at its die's placer (R345, R346). -/
def State.forceStop (s : State) (u : UnitSt) : State :=
  let s := (List.range u.members.length).foldl (fun (s : State) i =>
    let m := u.members.getD i ⟨0, 0, 0, true⟩
    if m.ended then s else s.saveTask m (u.preempt.map fun p => p.1 + 17408 * i)) s
  let s := match u.gang with | some g => if g.fuse then s.emptyCluster u.die u.origin else s | none => s
  { s with units := updFirst (fun x => x.is u.ctx u.addr && x.members == u.members) (fun x =>
      { x with stopped := true, save := x.preempt, preempt := none, since := s.time }) s.units }

/-- Whether a context is being quiesced. -/
def State.quiescing (s : State) (n : Nat) : Bool := match s.ctx n with | some c => c.stopped | none => false

/-- Whether a task at BUDGET 0 waits: a request stands on its unit, and another of its slots is frozen (R344). -/
def State.stopWaits (s : State) (ta : Nat) : Bool :=
  match s.unitOf ta with
  | some u => u.preempt.isSome && !s.quiescing u.ctx && s.anyFrozen u
  | none => false

/-- BUDGET has reached 0 (R344, R348). -/
def execBudgetExpiry (ta : Nat) (s : State) : Out :=
  let sl := s.slot ta
  .next (
    if sl.st ≠ .running ∨ sl.budget ≠ 0 ∨ sl.partner.isSome then s
    else
      match (if taHnd ta then none else s.unitOf ta) with
      | some u =>
        if s.quiescing u.ctx then s.forceStop u
        else if u.preempt.isSome then (if s.anyFrozen u then s else s.forceStop u)
        else s.raise ta 0x09 sl.pc
      | none => s.raise ta 0x09 sl.pc)

/-! ## Resume (R345 to R347) -/

/-- Where a unit would resume: its die, its origin, and for each rank its slot. -/
structure Room where
  die    : Nat
  origin : Nat
  slots  : List (Nat × Nat)
  deriving DecidableEq, Repr

/-- Whether the unit's area may lie at its offset in the quads: the bytes are free, or its own. -/
def State.areaMine (s : State) (u : UnitSt) (quads : List Nat) (claim : Bool) : Bool :=
  quads.all fun q => (s.areaUsers q u.qlmOff u.qlmLen).all fun x => x == u || claim && x.victim

/-- Whether a slot, and with LASH its partner, is free for a unit that resumes in it. -/
def State.slotBack (s : State) (ta : Nat) (lash own : Bool) : Bool :=
  let free (t : Nat) : Bool := s.quadOpen (taQuad t) && s.idle t && (own || !s.isReserved t)
  free ta && (!lash || free (partnerOf ta))

/-- The slots of a rectangle for a gang, by rank: on its old rectangle, its own (R347). -/
def State.gangRoom (s : State) (u : UnitSt) (g : GangRec) (home : Bool) (die o : Nat) (claim : Bool) : Option Room :=
  let lash := g.lash || u.task.lash
  let own := s.ownsReservation die o u.ctx u.addr
  if (g.fuse && !s.clusterFree die o) || (die != u.die && decide (4096 < s.barsUsed die + g.bars)) then none
  else if home then
    (if (u.live.all fun m => s.slotBack m.ta lash own) && s.areaMine u (rectQuads die o g) claim then
      some ⟨die, o, u.live.map fun m => (m.rank, m.ta)⟩ else none)
  else
    match s.rectSlots die o g lash own with
    | none => none
    | some l =>
      if s.areaMine u (rectQuads die o g) claim then
        some ⟨die, o, l.map fun x => ((x.2.1 * g.s + x.2.2.1) * (4 * g.w) + x.1, if lash then pairMain x.2.2.2 else x.2.2.2)⟩
      else none

/-- The slot of a quad for a loose task: its own, else one on the core it ran on, by its place in the quad. -/
def State.looseRoom (s : State) (u : UnitSt) (home : Bool) (die o : Nat) (claim : Bool) : Option Room :=
  match u.live with
  | [] => none
  | m :: _ =>
    let core := (die * 512 + o) * 4 + taCore m.ta % 4
    if !s.present die o || !s.areaMine u [die * 512 + o] claim then none
    else
      (if home then (if s.slotBack m.ta u.task.lash false then some m.ta else none) else s.looseSlot core u.task.lash).map fun ta => ⟨die, o, [(m.rank, if u.task.lash then pairMain ta else ta)]⟩

def State.roomAt (s : State) (u : UnitSt) (p : Bool × Nat × Nat) (claim : Bool) : Option Room :=
  match u.gang with
  | some g => s.gangRoom u g p.1 p.2.1 p.2.2 claim
  | none => s.looseRoom u p.1 p.2.1 p.2.2 claim

/-- The places where a unit may resume, as (in its own slots, die, origin): its own first, then any of the same shape at
the same position within a cluster (R347). -/
def UnitSt.places (u : UnitSt) : List (Bool × Nat × Nat) :=
  let own := (true, u.die, u.origin)
  if (match u.save with | some (_, fixed) => fixed | none => true) then [own]
  else
    let w := match u.gang with | some g => g.w | none => 1
    let h := match u.gang with | some g => g.h | none => 1
    own :: (List.range 4).flatMap fun d =>
      ((origins w h).filter fun o => o % 4 == u.origin % 4 && o / 16 % 2 == u.origin / 16 % 2).map fun o => (false, d, o)

/-- Where a stopped unit can resume now: on free QLM first, else on bytes claimed from victims. -/
def State.resumeRoom (s : State) (u : UnitSt) : Option Room :=
  if !u.stopped || !s.mayStart u.ctx then none
  else
    match u.places.findSome? fun p => s.roomAt u p false with
    | some r => some r
    | none => u.places.findSome? fun p => s.roomAt u p true

/-- A task's parked stores go with it to another core, where each that waits for the supervisor sends its packet again under
its new number (R338, R345; log 20). -/
def State.moveRpq (s : State) (uid dst src : Nat) : State :=
  if src = dst then s
  else
    let mine := (s.core (taCore src)).rpq.filter fun e => e.uid == uid
    let s := s.modCore (taCore src) fun c => { c with rpq := c.rpq.filter fun e => e.uid != uid }
    mine.foldl (fun (s : State) e =>
      let c := s.core (taCore dst)
      let e : RpqEntry := { e with ta := dst, no := c.rpqNo.getD e.no, doff := (c.rpqRoom e.len).getD e.doff }
      let s := s.modCore (taCore dst) fun c => { c with rpq := c.rpq ++ [e] }
      if e.st = .parked ∧ e.behind = false then s.post (.faultService (s.parkPacket dst e)) else s) s

/-- Whether the parked stores of a unit's tasks fit where it would resume. -/
def State.rpqFits (s : State) (u : UnitSt) (r : Room) : Bool :=
  u.live.all fun m =>
    match r.slots.find? fun x => x.1 == m.rank with
    | none => false
    | some (_, ta) =>
      let mine := (s.core (taCore m.ta)).rpq.filter fun e => e.uid == m.uid
      taCore ta == taCore m.ta || mine.isEmpty ||
        (decide ((s.core (taCore ta)).rpq.length + mine.length ≤ 16) &&
          ((s.core (taCore ta)).rpqRoom ((mine.map RpqEntry.len).foldl (· + ·) 0)).isSome)

/-- A task comes back into a slot: a fresh budget, an empty fetch buffer; a saved packet is sent again (R344,
R345). -/
def State.restoreTask (s : State) (m : Member) (ta : Nat) : State :=
  let sl := Store.get {} s.parked m.uid
  let mine (x : RxMsg) : Bool := x.kind == 0 && x.uid == m.uid
  let mail := (s.core (taCore m.ta)).rxq.filter mine
  let s := s.modCore (taCore m.ta) fun c => { c with rxq := c.rxq.filter fun x => !mine x }
  let s := { s with parked := s.parked.filter fun p => p.1 != m.uid }
  let frozen := sl.st == .frozen
  let sl := { sl with self := BitVec.ofNat 64 ta, budget := s.budgetOf sl
                      pkt := if frozen then { sl.pkt with taddr := BitVec.ofNat 64 ta } else sl.pkt }
  let s := s.setSlot ta { sl with st := if frozen then .frozen else .running }
  let s := if sl.paired then
      { s.setSlot (partnerOf ta) { st := .running, partner := some ta } with agreed := Store.set s.agreed m.uid (s.slot ta) } else s
  let s := s.moveRpq m.uid ta m.ta
  let s := (mail.foldl (fun (s : State) x => s.rxArrive (taCore ta) { x with ta := ta } none) s).rxLeft (taCore m.ta)
  if frozen then s.post (.faultService sl.pkt) else s

/-- Bound ends of a moved unit's tasks, and their rings, follow it (R347, R267; log 21). -/
def State.moveEnds (s : State) (uids : List Nat) (quadMap : List (Nat × Nat)) : State :=
  let go (q : Nat) : Nat := ((quadMap.find? fun p => p.1 == q).map Prod.snd).getD q
  s.strands.foldl (fun (s : State) p =>
    match p.2 with
    | none => s
    | some x =>
      let mv (e : StrandEnd) : StrandEnd := if e.owner ≠ 0 ∧ uids.contains e.owner then { e with quad := go e.quad } else e
      let ring := if x.ringUid ≠ 0 ∧ uids.contains x.ringUid then go x.ringQuad else x.ringQuad
      (s.putStrand { x with src := mv x.src, snk := mv x.snk, ringQuad := ring }).serve p.1) s

/-- A unit resumes in a room (R345 to R347): its area is used in place, or copied there before any task issues. -/
def State.resumeIn (s : State) (u : UnitSt) (r : Room) : State :=
  let u' := { u with die := r.die, origin := r.origin }
  let base := match u.save with | some (a, _) => a + 17408 * u.members.length | none => 0
  let s := s.unreserve u.ctx u.addr
  let s := s.claimArea (u'.quads.filter fun q => !u.quads.contains q || u.saved) u.qlmOff u.qlmLen
  let s := (List.range u.quads.length).foldl (fun (s : State) i =>
    let dst := qlmKey (u'.quads.getD i 0) u.qlmOff
    if u.saved then s.copyBytes (base + u.qlmLen * i) dst u.qlmLen
    else if u'.quads = u.quads then s
    else s.copyBytes (qlmKey (u.quads.getD i 0) u.qlmOff) dst u.qlmLen) s
  let at_ (m : Member) : Nat := ((r.slots.find? fun x => x.1 == m.rank).map Prod.snd).getD m.ta
  let members := u.members.map fun m => if m.ended then m else { m with ta := at_ m }
  let s := { s with units := updFirst (fun x => x.is u.ctx u.addr && x.members == u.members) (fun x =>
    { x with die := r.die, origin := r.origin, members := members, stopped := false, save := none, saved := false }) s.units }
  let s := match u.gang with | some g => if g.fuse then s.emptyCluster r.die r.origin else s | none => s
  let s := u.live.foldl (fun (s : State) m => s.restoreTask m (at_ m)) s
  s.moveEnds (u.live.map Member.uid) (u.quads.zip u'.quads)

/-- A stopped unit that can resume now. -/
def State.canResume (s : State) (u : UnitSt) : Bool :=
  match s.resumeRoom u with
  | some r => s.rpqFits u r
  | none => false

/-- The stopped unit of a record resumes where it can; of several, the first that can. -/
def execUnitResume (ctx : Nat) (addr : Word) (s : State) : Out :=
  .next (match s.units.find? fun u => u.is ctx addr && u.stopped && s.canResume u with
    | none => s
    | some u =>
      match s.resumeRoom u with
      | some r => if s.rpqFits u r then s.resumeIn u r else s
      | none => s)

end Sys2Proof.Machine
end

