-- ==== Sys2Proof/Machine/Image.lean ====
section
/-! DEFINITION. Quiesce and the serial state image (19_preemption.md R348 to R351). What R350 leaves open in a section
is chosen here (log 18). -/

namespace Sys2Proof.Machine

/-! ## Quiesce (R348) -/

/-- The contexts of a bitmap. -/
def bitmapOf (w : Word) : List Nat := (List.range 64).filter fun i => bit w i

/-- Whether a task or activation of a context is meant. -/
def State.targetIn (s : State) (n : Nat) (t : Target) : Bool :=
  match s.task? t with | some sl => sl.ctx == n | none => false

/-- Whether an event on its way is a context's: it is waited for. -/
def State.eventIn (s : State) (n : Nat) : Instr → Bool
  | .loadDataArrival t _ _ _ => s.targetIn n t
  | .storeAck t => s.targetIn n t
  | .sfReply t _ _ _ _ => s.targetIn n t
  | .remoteWriteArrival w => w.ctx == n
  | .atomicAtHome r => r.ctx == n
  | .atomicReturn r _ _ => r.ctx == n
  | .edgeDeferredPush p => p.ctx == n
  | .barrierArrival c _ _ _ _ => c == n
  | .barrierAck c _ _ => c == n
  | .collectiveCommit c _ _ _ => c == n
  | .collectiveAbort c _ _ => c == n
  | .strandItemArrival c _ _ => c == n
  | .strandCreditReturn c _ => c == n
  | .strandMoveRequest c _ _ => c == n
  | .strandStopperArrival c _ => c == n
  | .strandRouteSwitch c _ => c == n
  | .strandFray c _ => c == n
  | _ => false

/-- The operations of a context that have not completed. -/
def State.opsIn (s : State) (n : Nat) : List EngOp :=
  s.engines.flatMap fun p => p.2.ops.filter fun o => o.ctx == n

/-- Whether the commit of a collective is on its way. -/
def State.committing (s : State) (n grp op : Nat) : Bool :=
  s.agenda.any fun i => match i with | .collectiveCommit c g o _ => c == n && g == grp && o == op | _ => false

/-- Whether a context's tasks have ended or are saved: step 3 of R348. -/
def State.tasksDone (s : State) (n : Nat) : Bool :=
  (s.units.all fun u => u.ctx != n || u.stopped) &&
    s.slots.all fun p => !(p.2.ctx == n && p.2.st == .running && p.2.partner.isNone)

/-- Steps 4 and 5 of R348: copies have completed, nothing is in flight, and no item waits at a stub. -/
def State.drained (s : State) (n : Nat) : Bool :=
  s.tasksDone n &&
    (s.cores.all fun p => (p.2.rxq ++ p.2.held.map Prod.fst).all fun m => m.ctx != n || m.kind == 0) &&
    (s.strands.all fun p => match p.2 with
      | some x => x.ctx != n || !x.snk.live || x.arrived.isEmpty
      | none => true) &&
    ((s.opsIn n).all fun o => o.coll.isSome && o.st == 1) && s.agenda.all fun i => !s.eventIn n i

/-- Items held at the stubs of rings whose areas have been saved go into those areas (R348, R267). -/
def State.deliverHeld (s : State) (n : Nat) : State :=
  s.strands.foldl (fun (s : State) p => match p.2 with
    | some x =>
      if x.ctx = n ∧ x.snk.live ∧ s.ringHeld x then
        let (s, x) := State.deliverRun x.arrived.length x s
        s.putStrand x
      else s
    | none => s) s

/-- Intake stops; a debug stop of the context ends, and so do frozen slots that have no running one beside them. Once the
tasks are done, held items are delivered; then uncommitted collectives abort, and last the running settle regions halt
(R348). -/
def State.quiesceStep (s : State) (n : Nat) : State :=
  let dbg := s.trace.stop.contains n
  let s := (s.modCtx n fun c => { c with stopped := true }).modTrace fun t =>
    { t with stop := t.stop.filter fun x => x != n, stopped := t.stopped && (t.stop.any fun x => x != n) }
  let s := (s.units.filter fun u => u.ctx == n && !u.stopped &&
      (dbg || u.live.all fun m => (s.slot m.ta).st == .frozen)).foldl State.forceStop s
  let s := if s.tasksDone n then s.deliverHeld n else s
  let s := if s.drained n then
      (s.opsIn n).foldl (fun (s : State) o =>
        match o.coll with
        | some c => if o.st = 1 ∧ !s.committing n c.grp c.op then s.collAbort n c.grp c.op else s
        | none => s) s
    else s
  if s.drained n && (s.opsIn n).isEmpty then (List.range 16).foldl (fun (s : State) r => s.haltRegion n r) s else s

/-- Whether nothing of a context moves any more. -/
def State.quiet (s : State) (n : Nat) : Bool := s.drained n && (s.opsIn n).isEmpty

/-! ## Writing the image (R350) -/

/-- A section. -/
def imgSec (ty : Nat) (p : List Byte) : List Byte :=
  let p := p ++ List.replicate ((16 - p.length % 16) % 16) 0
  toBytes 2 ty ++ toBytes 6 1 ++ toBytes 8 (16 + p.length) ++ p

/-- A task record as launched (R158). -/
def taskBytes (t : TaskRec) : List Byte :=
  toBytes 8 t.pc.toNat ++ toBytes 8 t.arg.toNat ++ toBytes 2 t.tx ++ toBytes 2 t.ty ++ toBytes 4 (t.prio + t.lash.toNat * 4)
    ++ toBytes 8 t.spt.toNat ++ toBytes 4 t.budget ++ toBytes 4 t.deps ++ toBytes 8 (t.dkind * 2 ^ 60 + t.dtarget)
    ++ toBytes 8 t.graph ++ toBytes 8 t.fcont.toNat

/-- A record as launched (R158, R160). -/
def recBytes (g : Option GangRec) (t : TaskRec) : List Byte :=
  match g with
  | none => taskBytes t
  | some g =>
    toBytes 4 2 ++ toBytes 1 g.w ++ toBytes 1 g.h ++ toBytes 1 g.s ++ toBytes 1 (g.fuse.toNat + g.lash.toNat * 2)
      ++ toBytes 4 g.qlm ++ toBytes 4 g.bars ++ toBytes 8 g.geo0.toNat ++ toBytes 8 g.geo1.toNat ++ List.replicate 32 0
      ++ taskBytes t

/-- Section 2: the descriptor, SETTAB, and the used COLLTAB entries with their members. -/
def State.imgCtx (s : State) (c : Ctx) : List Byte :=
  let groups := (List.range 64).filter fun g => (s.groupOf c g).isSome
  (c.desc ++ List.replicate 128 0).take 128 ++ (List.range 16).flatMap (fun r => toBytes 8 (s.settabAt c r)) ++
    groups.flatMap fun g =>
      let n := ofBytes (s.bytes (c.colltab + 16 * g) 2)
      let list := ofBytes (s.bytes (c.colltab + 16 * g + 8) 8)
      toBytes 8 g ++ s.bytes (c.colltab + 16 * g) 16 ++ toBytes 8 0 ++ s.bytes list (4 * n) ++
        List.replicate ((16 - 4 * n % 16) % 16) 0

/-- Section 3: the entry, a bound sink's ring, and what the entry does not hold. -/
def State.imgStrand (s : State) (x : Strand) : List Byte :=
  let id (uid : Nat) : Nat := match s.task? ⟨0, uid⟩ with | some sl => sl.taskid.toNat | none => 0
  let watch (e : StrandEnd) : List Byte := match e.watch with
    | some (t, n) => toBytes 8 (id t.uid) ++ toBytes 8 (n.toNat + 1)
    | none => List.replicate 16 0
  x.image.flatMap (toBytes 8) ++
    (if x.snk.st = 0 ∧ x.snk.dev = 0 then s.bytes (s.itemKey x 0) (x.depth * x.size) else []) ++
    toBytes 4 x.idx ++ toBytes 4 x.ringQuad ++ toBytes 8 x.ends.length ++ toBytes 8 x.nsend ++ toBytes 8 x.ndeliv ++ toBytes 8 x.ntake ++
    watch x.src ++ watch x.snk ++ toBytes 8 (id x.src.holder) ++ toBytes 8 (id x.snk.holder) ++ toBytes 8 (id x.ringUid) ++
    toBytes 8 x.claims.length ++ (x.ends.flatMap fun e => toBytes 8 e.1 ++ toBytes 8 e.2.toNat) ++
    x.claims.flatMap fun c => toBytes 8 (id c.t.uid) ++ toBytes 4 c.d.toNat ++
      toBytes 4 (match c.v with | some v => v.toNat + 1 | none => 0)

/-- An armed deadline as the time that remains. -/
def Slot.relDline (sl : Slot) (now : Nat) : Slot :=
  if sl.dline = 0 then sl else { sl with dline := BitVec.ofNat 64 (Nat.max 1 (sl.dline.toNat - now)) }

/-- A saved task's window. -/
def State.imgWindow (s : State) (now : Nat) (m : Member) : List Byte :=
  if m.ended then List.replicate 17408 0
  else
    let sl := (Store.get {} s.parked m.uid : Slot).relDline now
    s.windowBytes (taCore m.ta) { sl with st := .saved }

/-- The data of a parked store in its core's area (R339). -/
def RpqEntry.areaBytes (e : RpqEntry) : List Byte :=
  let pad (l : List Byte) : List Byte := l ++ List.replicate ((8 - l.length % 8) % 8) 0
  if e.run then toBytes 8 e.addr0.toNat ++ pad (e.lanes.flatMap Prod.snd)
  else e.lanes.flatMap fun l => toBytes 8 l.1.toNat ++ pad l.2

/-- A core's replay data area with the entries of a unit's tasks. -/
def State.imgArea (s : State) (u : UnitSt) (core : Nat) : List Byte :=
  let mine := (s.core core).rpq.filter fun e => u.members.any fun m => m.uid == e.uid
  let m := mine.foldl (fun m e => Memory.write m e.doff e.areaBytes) ([] : List Host.Cell)
  Memory.read m 0 16384

def hintCode : Hint → Nat
  | .normal => 0
  | .ef => 1
  | .kp => 2
  | .na => 3

/-- What the window does not hold of a saved task: its rank, what its waiting instruction has done, whether it is frozen and
at how many bytes, a fired deadline, pending TAKEs, traps that wait, remote writes that wait, and the shape of its parked
stores. -/
def State.imgExtra (s : State) (m : Member) : List Byte :=
  let sl : Slot := Store.get {} s.parked m.uid
  let c := s.core (taCore m.ta)
  let mail := c.rxq.filter fun x => x.kind == 0 && x.uid == m.uid && m.uid != 0
  let rpq := s.rpqOf (taCore m.ta) m.uid
  let flags := m.ended.toNat + sl.barSent.toNat * 2 + (sl.st == .frozen).toNat * 4 + sl.ilen / 4 % 8 * 8 + sl.sending.toNat * 64
    + sl.sent.toNat * 128 + sl.viewBad.isSome.toNat * 256 + sl.sptBad.isSome.toNat * 512
  toBytes 2 m.rank ++ toBytes 2 flags ++ toBytes 4 mail.length ++ toBytes 4 rpq.length ++ toBytes 4 m.ta ++
    ((List.range 64).flatMap fun i =>
      toBytes 1 (((sl.takes.find? fun t => t.2.toNat == i).map fun t => t.1.toNat + 1).getD 0)) ++
    toBytes 8 sl.dlval.toNat ++ toBytes 8 ((sl.viewBad.getD 0).toNat) ++ toBytes 8 (((sl.sptBad.map Prod.fst)).getD 0) ++
    toBytes 8 ((((sl.sptBad.map Prod.snd)).getD 0).toNat) ++ toBytes 8 sl.copTrap.length ++
    (sl.copTrap.flatMap fun i => toBytes 8 i.toNat) ++
    (mail.flatMap fun x => toBytes 8 x.sender.toNat ++ toBytes 8 x.value.toNat ++ toBytes 8 (x.reg.toNat + x.pois.toNat * 256) ++ toBytes 8 0) ++
    rpq.flatMap fun e =>
      toBytes 8 (((e.lanes.map fun l => l.2.length).headD 0)) ++ toBytes 4 e.lanes.length ++ toBytes 1 e.run.toNat ++ toBytes 1 e.no
        ++ toBytes 2 (hintCode e.hint) ++ toBytes 8 e.pc.toNat ++ toBytes 4 e.words.length
        ++ (List.range 5).flatMap fun i => toBytes 4 (e.words.getD i 0).toNat

/-- The cores of a unit's tasks. -/
def UnitSt.cores (u : UnitSt) : List Nat := (u.members.map fun m => taCore m.ta).eraseDups

/-- The bytes of a unit's area in QLM, or in its save area (R346). -/
def State.unitArea (s : State) (u : UnitSt) : List Byte :=
  let base := match u.save with | some (a, _) => a + 17408 * u.members.length | none => 0
  (List.range u.quads.length).flatMap fun i =>
    if u.saved then s.bytes (base + u.qlmLen * i) u.qlmLen else s.bytes (qlmKey (u.quads.getD i 0) u.qlmOff) u.qlmLen

/-- Section 4. -/
def State.imgUnit (s : State) (now : Nat) (u : UnitSt) : List Byte :=
  recBytes u.gang u.task ++
    (toBytes 8 u.addr.toNat ++ toBytes 2 u.die ++ toBytes 2 u.origin ++ toBytes 2 (clusterIdx u.origin) ++ toBytes 2 u.killed.toNat
      ++ toBytes 4 u.qlmOff ++ toBytes 4 u.qlmLen ++ toBytes 4 u.members.length ++ toBytes 4 u.cores.length) ++
    u.members.flatMap (s.imgWindow now) ++ u.cores.flatMap (s.imgArea u) ++ s.unitArea u ++ u.members.flatMap s.imgExtra

/-- A record of section 5 and where it waits: 0 the ready table, 1 and 2 the deques, 3 the overflow list, 4 the
placer. -/
def workBytes (place loc : Nat) (w : Work) : List Byte :=
  toBytes 1 0 ++ toBytes 1 place ++ toBytes 1 w.gang.isSome.toNat ++ toBytes 1 w.token.toNat ++ toBytes 1 w.fixed.toNat ++ toBytes 3 0
    ++ toBytes 4 loc ++ toBytes 4 w.home ++ toBytes 8 (ofInt 64 w.count) ++ toBytes 8 w.addr.toNat ++ recBytes w.gang w.task

/-- Section 5. -/
def State.imgQueue (s : State) (n : Nat) (c : Ctx) : List Byte :=
  let mine (l : List Work) : List Work := l.filter fun w => w.ctx == n
  (mine s.ready).flatMap (workBytes 0 0) ++
    (s.cores.flatMap fun p => (mine p.2.urgent).flatMap (workBytes 1 p.1) ++ (mine p.2.normal).flatMap (workBytes 2 p.1)) ++
    (s.dies.flatMap fun p => (mine p.2.overflow).flatMap (workBytes 3 p.1) ++ (mine p.2.placer).flatMap (workBytes 4 p.1)) ++
    ((s.credits.filter fun x => x.ctx == n).flatMap fun x =>
      toBytes 8 1 ++ toBytes 8 x.addr.toNat ++ toBytes 8 x.n ++ toBytes 8 x.marks.length ++ (x.marks.flatMap (toBytes 4)) ++
        List.replicate ((16 - 4 * x.marks.length % 16) % 16) 0) ++
    c.frozen.flatMap fun g => toBytes 8 2 ++ toBytes 8 g

/-- Section 6, with the ranks that wait at a slot and the statuses of those released. -/
def imgBars (u : UnitSt) : List Byte :=
  toBytes 8 u.addr.toNat ++ toBytes 8 u.bars.length ++ (u.bars.flatMap fun b =>
    toBytes 16 b.memb.toNat ++ toBytes 16 b.arr.toNat ++ toBytes 4 b.ackx ++ toBytes 4 b.ackn ++ toBytes 1 b.ph.toNat
      ++ toBytes 1 b.pois.toNat ++ toBytes 6 b.cause) ++
    toBytes 8 ((u.bars.map fun b => b.waits.length).foldl (· + ·) 0) ++
    (List.range u.bars.length).flatMap fun i => (u.bars.getD i {}).waits.flatMap fun w =>
      toBytes 4 i ++ toBytes 4 w.1 ++ toBytes 8 (match w.2 with | some st => st + 1 | none => 0)

/-- A sample as a seed block with the configuration's SIG (R291). -/
def Region.seedBlock (r : Region) : List Byte :=
  let q := r.codes r.u
  toBytes 8 ((r.sig.getD 0).toNat) ++ toBytes 8 r.used.length ++
    r.used.flatMap fun j => toBytes 8 (imgVid r.image j) ++ sampleBits false (intAt q j) (intAt r.exps j)

/-- Section 9. -/
def imgRegion (i : Nat) (r : Region) : List Byte :=
  toBytes 1 i ++ toBytes 1 r.state ++ toBytes 2 r.hist.length ++ toBytes 4 r.image.length ++ toBytes 8 r.taskid.toNat ++ r.image ++
    ((List.range (16 * r.nblk)).flatMap fun j => toBytes 2 (ofInt 16 (intAt r.bias j))) ++
    ((List.range (16 * r.count)).flatMap fun j => toBytes 1 (ofInt 8 (intAt r.exps j))) ++
    (if r.image.isEmpty then [] else r.seedBlock) ++ r.hist.flatMap fun h => h.flatMap fun w => toBytes 8 w.toNat

/-- Section 10. -/
def State.imgCounters (s : State) (n : Nat) (c : Ctx) : List Byte :=
  let cores := s.cores.filter fun p => p.2.pmc.any fun k => k.ctx == some n && !k.replay
  s.bytes (c.descPA + 0x10) 8 ++ toBytes 8 cores.length ++ cores.flatMap fun p =>
    toBytes 16 p.1 ++ (List.range 4).flatMap fun i =>
      let k := p.2.pmc.getD i {}
      if k.ctx = some n ∧ k.replay = false then
        toBytes 8 k.cfg.toNat ++ toBytes 8 k.count ++
          toBytes 16 (match s.task? ⟨0, k.uid⟩ with | some sl => sl.taskid.toNat | none => 0)
      else List.replicate 32 0

/-- The image of a quiesced context. -/
def State.imageBytes (s : State) (n : Nat) (c : Ctx) : List Byte :=
  let units := s.units.filter fun u => u.ctx == n
  let body :=
    imgSec 1 (toBytes 8 0x4942524E ++ toBytes 8 c.frozeAt ++ s.capBytes) ++ imgSec 2 (s.imgCtx c) ++
    (s.strands.flatMap fun p => match p.2 with
      | some x => if x.ctx = n then imgSec 3 (s.imgStrand x) else []
      | none => []) ++
    (units.flatMap fun u => imgSec 4 (s.imgUnit c.frozeAt u)) ++ imgSec 5 (s.imgQueue n c) ++
    (units.flatMap fun u => if u.gang.isSome then imgSec 6 (imgBars u) else []) ++
    (c.aborted.flatMap fun a => imgSec 7 ((a.shadow.flatMap fun w => toBytes 8 w.toNat) ++ toBytes 8 a.id.toNat ++ toBytes 8 a.ta.toNat
      ++ toBytes 8 a.taskid.toNat)) ++
    ((List.range 16).flatMap fun i => match s.retain.toList.getD i none with
      | some r => if r.ctx = n then imgSec 8 (toBytes 8 i ++ toBytes 8 r.vbase.toNat ++ toBytes 8 r.len ++ toBytes 8 r.ways.length) else []
      | none => []) ++
    ((List.range 16).flatMap fun i => match s.region? (regionKey n i) with
      | some r => imgSec 9 (imgRegion i r)
      | none => []) ++
    imgSec 10 (s.imgCounters n c)
  let head := toBytes 2 0xFFFF ++ toBytes 6 1 ++ toBytes 8 32
  body ++ head ++ toBytes 8 (crc64 0 (body ++ head)) ++ List.replicate 8 0

/-- QUIESCE goes on until every context of its bitmap is quiet, and freezes each then. -/
def execQuiesce (s : State) : Out :=
  let l := bitmapOf (s.arg 0)
  .next (
    if l.any fun n => (s.ctx n).isNone then s.cmdDone 1 0
    else
      let s := l.foldl (fun (s : State) n =>
        if (match s.ctx n with | some c => c.quiesced | none => true) then s else s.quiesceStep n) s
      let s := l.foldl (fun (s : State) n =>
        if (match s.ctx n with | some c => !c.quiesced | none => false) && s.quiet n then
          s.modCtx n fun c => { c with quiesced := true, frozeAt := s.time }
        else s) s
      if l.all fun n => (match s.ctx n with | some c => c.quiesced | none => true) then
        s.cmdDone 0 ((l.map fun n => match s.ctx n with | some c => (s.imageBytes n c).length | none => 0).foldl (· + ·) 0)
      else s.post .quiesce)

/-- A copy of section 7 completes ABORTED when its context is released (R351). -/
def State.releaseCopy (s : State) (n : Nat) (a : AbortedCopy) : State :=
  let ctl := a.shadow.getD 5 0
  let sl := s.parked.find? fun p => p.2.ctx == n && p.2.taskid == a.taskid
  let uid := match sl with | some p => p.1 | none => 0
  let o : EngOp := { id := a.id, req := ⟨slice a.ta 0 16, uid⟩, ctx := n
                     graph := match sl with | some p => p.2.graph.setWidth 32 | none => 0
                     unit := match sl with | some p => p.2.unit | none => 0
                     taskid := a.taskid, shadow := a.shadow, sink := slice ctl 0 2, tag := slice ctl 2 6
                     cdep := a.shadow.getD 6 0, trap := bit ctl 31, ack := if bit ctl 30 then some (slice ctl 24 6) else none
                     st := 3, status := 5 }
  (s.modEng (engOfId a.id) fun x => { x with ops := x.ops ++ [o] }).post (.copyCompletion a.id)

/-- UNQUIESCE: the contexts are released; their units resume where they can. -/
def execUnquiesce (s : State) : Out :=
  let l := bitmapOf (s.arg 0)
  let frozen (n : Nat) : Bool := match s.ctx n with | some c => c.quiesced | none => false
  .next (
    if l.any fun n => !frozen n then s.cmdDone 1 0
    else
      (l.foldl (fun (s : State) n =>
        match s.ctx n with
        | none => s
        | some c => c.aborted.foldl (fun (s : State) a => s.releaseCopy n a)
            (s.setCtx n (some { c with quiesced := false, stopped := false, aborted := [] }))) s).cmdDone 0 0)

/-- IMAGE_WRITE: a buffer that is not aligned, or not in HBM, is too small (log 18). -/
def execImageWrite (s : State) : Out :=
  let n := slice (s.arg 2) 0 6
  let pa := (s.arg 0).toNat
  .next (match s.ctx n with
    | some c =>
      if !c.quiesced then s.cmdDone 1 0
      else
        let bs := s.imageBytes n c
        if pa % 64 ≠ 0 ∨ (s.arg 1).toNat < bs.length ∨ !inHbm pa bs.length then s.cmdDone 2 0
        else (s.outsideWrite pa bs).cmdDone 0 bs.length
    | none => s.cmdDone 1 0)

/-! ## Reading an image (R351) -/

/-- The sections from an offset: type, offset of the contents, and contents. -/
def imgSecs : Nat → List Byte → Nat → Option (List (Nat × Nat × List Byte))
  | 0, _, _ => none
  | f + 1, bs, off =>
    let ty := recField bs off 2
    let len := recField bs (off + 8) 8
    if bs.length < off + 16 ∨ recField bs (off + 2) 6 ≠ 1 ∨ len < 16 ∨ len % 16 ≠ 0 ∨ bs.length < off + len then none
    else
      let p := (bs.drop (off + 16)).take (len - 16)
      if ty = 0xFFFF then (if 8 ≤ p.length ∧ recField p 0 8 = crc64 0 (bs.take (off + 16)) then some [] else none)
      else (imgSecs f bs (off + len)).map fun l => (ty, off + 16, p) :: l

/-- Types ascend; 3 to 9 may repeat. -/
def ascending : List Nat → Bool
  | [] => true
  | [t] => decide (1 ≤ t) && decide (t ≤ 10)
  | t :: u :: l => decide (1 ≤ t) && (decide (t < u) || (t == u && decide (3 ≤ t) && decide (t ≤ 9))) && ascending (u :: l)

/-- The sections of a good image: it begins with the magic and a context. -/
def imageParse (bs : List Byte) : Option (List (Nat × Nat × List Byte)) :=
  match imgSecs (bs.length / 16 + 1) bs 0 with
  | some ((1, o₁, p₁) :: (2, o₂, p₂) :: l) =>
    if recField p₁ 0 4 = 0x4942524E ∧ 256 ≤ p₂.length ∧ ascending ((1 :: 2 :: l.map fun x => x.1)) then
      some ((1, o₁, p₁) :: (2, o₂, p₂) :: l)
    else none
  | _ => none

/-- The contents of the sections of one type. -/
def secsOf (l : List (Nat × Nat × List Byte)) (ty : Nat) : List (List Byte) :=
  (l.filter fun x => x.1 == ty).map fun x => x.2.2

/-- A slot state from its window. -/
def slotOfWindow (bs : List Byte) : Slot :=
  let cell (off : Nat) : Word := BitVec.ofNat 64 (recField bs off 8)
  let sl := (List.range 2176).foldl (fun (sl : Slot) i => sl.putWindow (8 * i) (cell (8 * i))) {}
  let sl := (List.range 64).foldl (fun (sl : Slot) i =>
    if bit (cell 0x210) i then sl.setG (regOf i) { sl.greg (regOf i) with pend := true } else sl) sl
  let p := packetOfBytes ((bs.drop 0x250).take 56)
  { sl with pkt := p, outstat := BitVec.ofNat 8 (recField bs 0x238 1), copn := recField bs 0x540 4, st := .running }

/-- The fixed part of a saved task's extra bytes, with what follows it. -/
def extraLen (p : List Byte) (o : Nat) : Nat := 120 + 8 * recField p (o + 112) 8 + 32 * recField p (o + 4) 4 + 48 * recField p (o + 8) 4

/-- The offsets of the extra bytes of n tasks. -/
def extraOffs (p : List Byte) : Nat → Nat → List Nat
  | 0, _ => []
  | n + 1, o => o :: extraOffs p n (o + extraLen p o)

def hintAt (n : Nat) : Hint := match n with | 1 => .ef | 2 => .kp | 3 => .na | _ => .normal

/-- A parked store from its window entry, the data area and its shape. -/
def rpqOfImage (win area : List Byte) (i len count run hint : Nat) : RpqEntry :=
  let o := 0x800 + 32 * i
  let doff := recField win (o + 0x10) 8
  let step := 8 + (len + 7) / 8 * 8
  let a0 : Word := BitVec.ofNat 64 (recField win (o + 0x18) 8)
  let lane (j : Nat) : Word × List Byte :=
    if run = 1 then (a0 + BitVec.ofNat 64 (len * j), (area.drop (doff + 8 + len * j)).take len)
    else (BitVec.ofNat 64 (recField area (doff + step * j) 8), (area.drop (doff + step * j + 8)).take len)
  let w := recField win (o + 8) 8
  { no := 0, ta := 0, uid := 0, ctx := 0, seq := w / 2 ^ 32, addr0 := a0, fva := BitVec.ofNat 64 (recField win o 8)
    st := if w / 2 ^ 18 % 4 = 3 then .abandoned else if w / 2 ^ 18 % 4 = 2 then .replaying else .parked
    lanes := (List.range count).map lane, run := run == 1, hint := hintAt hint }

/-- Puts a parked store into a core's queue, where it fits. -/
def State.putRpq (s : State) (core : Nat) (e : RpqEntry) : Option State :=
  match (s.core core).rpqNo, (s.core core).rpqRoom e.len with
  | some no, some o => some (s.modCore core fun c => { c with rpq := c.rpq ++ [{ e with no := no, doff := o }] })
  | _, _ => none

/-- The place that a unit returns to: its own where its quads are in service and its area is free, else one by R347. -/
def State.restorePlace (s : State) (u : UnitSt) : Option (Nat × Nat) :=
  (({ u with save := some (0, false) } : UnitSt).places.map Prod.snd).find? fun p =>
    let quads := ({ u with die := p.1, origin := p.2 } : UnitSt).quads
    (quads.all fun q => s.present (q / 512) (q % 512)) && s.areaFree quads u.qlmOff u.qlmLen false

/-- One saved task: its slot state, waiting remote writes and parked stores. -/
def State.restoreMember (s : State) (n : Nat) (c : Ctx) (addr : Word) (ta uid : Nat) (win area p : List Byte) (o : Nat) : Option State :=
  let flags := recField p (o + 2) 2
  if flags % 2 = 1 then some s
  else
    let sl := slotOfWindow win
    let takes := (List.range 64).filterMap fun i =>
      let v := recField p (o + 16 + i) 1
      if v = 0 then none else some (regOf (v - 1), regOf i)
    let nm := recField p (o + 4) 4
    let nr := recField p (o + 8) 4
    let nc := recField p (o + 112) 8
    let sl := { sl with
      uid := uid, ctx := n, unit := addr, rank := recField p o 2, takes := takes, barSent := flags / 2 % 2 = 1, seq := 2 ^ 32
      st := if flags / 4 % 2 = 1 then .frozen else .running, ilen := flags / 8 % 8 * 4, words := sl.pkt.instr
      sending := flags / 64 % 2 = 1, sent := flags / 128 % 2 = 1, dlval := BitVec.ofNat 64 (recField p (o + 80) 8)
      viewBad := if flags / 256 % 2 = 1 then some (BitVec.ofNat 64 (recField p (o + 88) 8)) else none
      sptBad := if flags / 512 % 2 = 1 then some (recField p (o + 96) 8, BitVec.ofNat 64 (recField p (o + 104) 8)) else none
      copTrap := (List.range nc).map fun i => BitVec.ofNat 32 (recField p (o + 120 + 8 * i) 8)
      ctxid := BitVec.ofNat 64 (c.asid + n * 2 ^ 16), self := BitVec.ofNat 64 ta
      dline := if sl.dline = 0 then 0 else sl.dline + BitVec.ofNat 64 s.time }
    let s := { s with parked := Store.set s.parked uid sl }
    let s := (List.range nm).foldl (fun (s : State) i =>
      let q := o + 120 + 8 * nc + 32 * i
      let w := recField p (q + 16) 8
      s.rxArrive (taCore ta) { kind := 0, sender := BitVec.ofNat 64 (recField p q 8), ctx := n, ta := ta, reg := BitVec.ofNat 5 w
                               value := BitVec.ofNat 64 (recField p (q + 8) 8), pois := w / 256 % 2 = 1, uid := uid } none) s
    (List.range nr).foldl (fun (r : Option State) i => r.bind fun s =>
      let q := o + 120 + 8 * nc + 32 * nm + 48 * i
      let e := rpqOfImage win area (recField p (q + 13) 1) (recField p q 8) (recField p (q + 8) 4) (recField p (q + 12) 1) (recField p (q + 14) 2)
      s.putRpq (taCore ta) { e with
        ta := ta, uid := uid, ctx := n, pc := BitVec.ofNat 64 (recField p (q + 16) 8)
        words := (List.range (Nat.min 5 (recField p (q + 24) 4))).map fun j => BitVec.ofNat 32 (recField p (q + 28 + 4 * j) 4) }) (some s)

/-- A unit of section 4, with its barrier slots from section 6. Its tasks stay saved until the context is released. -/
def State.restoreUnit (s : State) (n : Nat) (c : Ctx) (bars : List (List Byte)) (p : List Byte) : Option State :=
  let gang := recField p 0 4 == 2 && !badGang (p.take 128)
  let g := if gang then some (parseGang (p.take 128)) else none
  let h := if gang then 128 else 64
  let t := parseTask ((p.drop (h - 64)).take 64)
  let addr : Word := BitVec.ofNat 64 (recField p h 8)
  let nmem := recField p (h + 24) 4
  let ncore := recField p (h + 28) 4
  let u : UnitSt := { ctx := n, addr := addr, gang := g, task := t, die := recField p (h + 8) 2 % 4, origin := recField p (h + 10) 2 % 512
                      qlmOff := recField p (h + 16) 4, qlmLen := recField p (h + 20) 4, killed := recField p (h + 14) 2 == 1, stopped := true, since := s.time }
  match s.restorePlace u with
  | none => none
  | some (die, origin) =>
    let u' := { u with die := die, origin := origin }
    let wins := h + 32
    let areas := wins + 17408 * nmem
    let qlm := areas + 16384 * ncore
    let offs := extraOffs p nmem (qlm + u.qlmLen * u.quads.length)
    let moved (ta : Nat) : Nat :=
      match (u.quads.zip u'.quads).find? fun x => x.1 == taQuad ta with
      | some x => x.2 * 32 + ta % 32
      | none => ta
    let olds := offs.map fun o => recField p (o + 12) 4
    let cores := (olds.map taCore).eraseDups
    let b := match (if gang then bars[(s.units.filter fun x => x.ctx == n && x.gang.isSome).length]? else none) with
      | none => []
      | some b => (List.range (recField b 8 8)).map fun i =>
        let o := 16 + 48 * i
        let w := 16 + 48 * recField b 8 8
        let waits := (List.range (recField b w 8)).filterMap fun j =>
          let q := w + 8 + 16 * j
          if recField b q 4 = i then
            some (recField b (q + 4) 4, if recField b (q + 8) 8 = 0 then none else some (recField b (q + 8) 8 - 1))
          else none
        ({ waits := waits, memb := BitVec.ofNat 128 (recField b o 16), arr := BitVec.ofNat 128 (recField b (o + 16) 16), ackx := recField b (o + 32) 4
           ackn := recField b (o + 36) 4, ph := recField b (o + 40) 1 == 1, pois := recField b (o + 41) 1 == 1
           cause := recField b (o + 42) 6 } : BarSlot)
    let members := (List.range nmem).map fun i =>
      let o := offs.getD i 0
      (⟨recField p o 2, moved (olds.getD i 0), s.nextUid + i, recField p (o + 2) 2 % 2 == 1⟩ : Member)
    let s := { s with units := s.units ++ [{ u' with members := members, bars := b }], nextUid := s.nextUid + nmem }
    let s := (List.range u'.quads.length).foldl (fun (s : State) i =>
      s.putBytes (qlmKey (u'.quads.getD i 0) u.qlmOff) ((p.drop (qlm + u.qlmLen * i)).take u.qlmLen)) s
    (List.range nmem).foldl (fun (r : Option State) i => r.bind fun s =>
      let m := members.getD i ⟨0, 0, 0, true⟩
      let k := ((List.range cores.length).find? fun j => cores.getD j 0 == taCore (olds.getD i 0)).getD 0
      s.restoreMember n c addr m.ta m.uid ((p.drop (wins + 17408 * i)).take 17408) ((p.drop (areas + 16384 * k)).take 16384) p
        (offs.getD i 0)) (some s)

/-- The restored task of a TASKID; 0 where there is none. -/
def State.uidOf (s : State) (n : Nat) (taskid : Nat) : Nat :=
  if taskid = 0 then 0
  else ((s.parked.find? fun p => p.2.ctx == n && p.2.taskid.toNat == taskid).map Prod.fst).getD 0

/-- A strand of section 3. An owned end, and its ring, are where its owner is now (R267). -/
def State.restoreStrand (s : State) (n : Nat) (p : List Byte) : State :=
  let w (i : Nat) : Nat := recField p (8 * i) 8
  let sz := w 0 / 2 ^ 16 % 8
  let l := w 0 / 2 ^ 19 % 16
  let quadOf (loc : Nat) : Nat := loc / 2 ^ 12 % 4 * 512 + loc / 2 ^ 14 % 512
  let sst := w 0 / 2 ^ 23 % 4
  let kst := w 0 / 2 ^ 25 % 4
  let ring := if kst = 0 ∧ w 1 / 2 ^ 32 % 2 ^ 12 = 0 then 2 ^ l * (8 * 2 ^ sz) else 0
  let o := 64 + ring
  let where_ (uid q : Nat) : Nat := if uid = 0 then q else match s.units.find? fun u => u.members.any fun m => m.uid == uid with
    | some u => ((u.members.find? fun m => m.uid == uid).map fun m => taQuad m.ta).getD q
    | none => q
  let peer (st : Nat) : Nat := if st = 3 then 1 else if st = 2 then 2 else 0
  let watch (k : Nat) : Option (Target × BitVec 6) :=
    if recField p (k + 8) 8 = 0 then none else some (⟨0, s.uidOf n (recField p k 8)⟩, BitVec.ofNat 6 (recField p (k + 8) 8 - 1))
  let mk (st own loc pst k hold : Nat) (wired : Bool) : StrandEnd :=
    let uid := s.uidOf n own
    { st := st, quad := where_ uid (quadOf loc), dev := loc % 2 ^ 12, owner := uid, ownerId := BitVec.ofNat 64 own, wired := wired
      watch := watch k, peer := peer pst, holder := s.uidOf n (recField p hold 8) }
  let src := mk sst (w 3) (w 1 % 2 ^ 32) kst (o + 40) (o + 72) (w 0 / 2 ^ 27 % 2 == 1)
  let snk := mk kst (w 4) (w 1 / 2 ^ 32) sst (o + 56) (o + 80) (w 0 / 2 ^ 28 % 2 == 1)
  let mv (code : Nat) : List StrandMove := if code = 0 then [] else [{ sink := code == 2, stopped := true, old := quadOf (w 2 % 2 ^ 32) }]
  let ruid := s.uidOf n (recField p (o + 88) 8)
  let ne := recField p (o + 8) 8
  let x : Strand := { ctx := n, idx := recField p o 4, reuse := w 0 % 2 ^ 15, s := sz, l := l, src := src, snk := snk
                      ringQuad := where_ ruid (recField p (o + 4) 4), ringUid := ruid
                      ringOff := w 5 % 2 ^ 20, nsend := recField p (o + 16) 8, ndeliv := recField p (o + 24) 8, ntake := recField p (o + 32) 8
                      credits := w 7 % 2 ^ 11, moves := mv (w 0 / 2 ^ 29 % 4) ++ mv (w 0 / 2 ^ 31 % 4)
                      ends := (List.range ne).map fun i =>
                        (recField p (o + 104 + 16 * i) 8, BitVec.ofNat 64 (recField p (o + 112 + 16 * i) 8))
                      claims := (List.range (recField p (o + 96) 8)).map fun i =>
                        let q := o + 104 + 16 * ne + 16 * i
                        let v := recField p (q + 12) 4
                        ⟨⟨0, s.uidOf n (recField p q 8)⟩, BitVec.ofNat 6 (recField p (q + 8) 4),
                          if v = 0 then none else some (BitVec.ofNat 5 (v - 1)), 0⟩ }
  let s := if ring = 0 then s else s.putBytes (qlmKey x.ringQuad x.ringOff) ((p.drop 64).take ring)
  s.putStrand x

/-- The records of section 5. -/
def State.restoreQueue (s : State) (n : Nat) : Nat → List Byte → State
  | 0, _ => s
  | f + 1, p =>
    if p.length < 16 then s
    else
      let kind := recField p 0 1
      if kind = 2 then
        (s.modCtx n fun c => { c with frozen := c.frozen ++ [recField p 8 8] }).restoreQueue n f (p.drop 16)
      else if kind = 1 then
        let k := recField p 24 8
        let s := { s with credits := s.credits ++
          [(⟨n, BitVec.ofNat 64 (recField p 8 8), recField p 16 8, (List.range k).map fun i => recField p (32 + 4 * i) 4⟩ : Credit)] }
        s.restoreQueue n f (p.drop (32 + (4 * k + 15) / 16 * 16))
      else
        let gang := recField p 2 1 == 1
        let r := (p.drop 32).take (if gang then 128 else 64)
        let loc := recField p 8 4
        let w : Work := { ctx := n, addr := BitVec.ofNat 64 (recField p 24 8), gang := if gang then some (parseGang r) else none
                          task := if gang then parseTask ((r.drop 64).take 64) else parseTask r, count := asInt 64 (recField p 16 8)
                          token := recField p 3 1 == 1, fixed := recField p 4 1 == 1, home := recField p 12 4, since := s.time }
        let up := s.present (loc / 2048 % 4) (loc / 4 % 512)
        let s := match recField p 1 1 with
          | 0 => { s with ready := s.ready ++ [w] }
          | 1 => if up then s.modCore loc fun c => { c with urgent := c.urgent ++ [w] }
            else s.modDie (loc / 2048) fun d => { d with overflow := d.overflow ++ [w] }
          | 2 => if up then s.modCore loc fun c => { c with normal := c.normal ++ [w] }
            else s.modDie (loc / 2048) fun d => { d with overflow := d.overflow ++ [w] }
          | 3 => s.modDie loc fun d => { d with overflow := d.overflow ++ [w] }
          | _ => s.modDie loc fun d => { d with placer := d.placer ++ [w] }
        s.restoreQueue n f (p.drop (32 + r.length))

/-- A retention register of section 8: its index and its ways must be free (R193, R195). -/
def State.restoreRetain (s : State) (n : Nat) (c : Ctx) (p : List Byte) : Option State :=
  let i := recField p 0 8
  let va : Word := BitVec.ofNat 64 (recField p 8 8)
  let len := recField p 16 8
  match s.pinPages none c (rangePages va.toNat len) with
  | (_, .error _) => none
  | (s, .ok pages) =>
    let (st, _, ways) := s.pinStatus pages len (recField p 24 8)
    if st ≠ 0 ∨ 16 ≤ i ∨ (s.retain.toList.getD i none).isSome then none
    else some (s.setRetain i (some { ctx := n, vbase := va, base := (pages.map Prod.fst).headD 0, len := len, ways := ways }))

/-- A settle region of section 9: configured, seeded from its sample, and left READY with its history. -/
def State.restoreRegion (s : State) (n : Nat) (p : List Byte) : Option State :=
  let i := recField p 0 1
  let il := recField p 4 4
  let img := (p.drop 16).take il
  let k := regionKey n i
  match s.region? k with
  | none => none
  | some r =>
    let nb := if il = 0 then 0 else imgField img 8 2
    if 16 ≤ i ∨ (il ≠ 0 ∧ badImage img r.count) then none
    else
      let b := 16 + il
      let e := b + 32 * nb
      let sd := e + 16 * r.count
      let bs := p.drop sd
      let h := if il = 0 then sd else sd + 16 + 16 * seedN bs
      let exps := (List.range (16 * r.count)).map fun j => asInt 8 (recField p (e + j) 1)
      let hist := (List.range (recField p 2 2)).map fun t => (List.range (16 * nb)).map fun j =>
        (BitVec.ofNat 64 (recField p (h + 8 * (16 * nb * t + j)) 8) : Word)
      let taskid := recField p 8 8
      let u := (List.range (16 * nb)).map fun j => if imgUsed img j then 100 * (seedOf bs (imgVid img j) (intAt exps j)).1 else 0
      some { s with regions := Store.set s.regions k (some { r with
        state := if il = 0 then 0 else 1, image := img, sig := if il = 0 then none else some (imgSig img)
        bias := (List.range (16 * nb)).map fun j => asInt 16 (recField p (b + 2 * j) 2), exps := exps, u := u, hist := hist
        seed := if il = 0 then 0 else 1, claim := ⟨0, s.uidOf n taskid⟩, taskid := BitVec.ofNat 64 taskid }) }

/-- Counters and DROPS of section 10. -/
def State.restoreCounters (s : State) (n : Nat) (c : Ctx) (p : List Byte) : State :=
  let s := s.setMem (Memory.write s.mem (c.descPA + 0x10) (p.take 8))
  (List.range (recField p 8 8)).foldl (fun (s : State) i =>
    let o := 16 + 144 * i
    let core := recField p o 16
    (List.range 4).foldl (fun (s : State) j =>
      let q := o + 16 + 32 * j
      let cfg := recField p q 8
      let old := (s.core core).pmc.getD j {}
      if cfg / 2 ^ 9 % 2 = 0 ∨ bit old.cfg 9 then s
      else s.modCore core fun x => { x with pmc := x.pmc.set j { cfg := BitVec.ofNat 64 cfg, count := recField p (q + 8) 8, ctx := some n
                                                                 uid := s.uidOf n (recField p (q + 16) 16) } }) s) s

/-- An aborted copy of section 7. -/
def abortedOf (p : List Byte) : AbortedCopy :=
  { shadow := (List.range 7).map fun i => BitVec.ofNat 64 (recField p (8 * i) 8), id := BitVec.ofNat 32 (recField p 56 8)
    ta := BitVec.ofNat 64 (recField p 64 8), taskid := BitVec.ofNat 64 (recField p 72 8) }

/-- SETTAB and the COLLTAB entries of section 2, written where the image's own descriptor names them. -/
def State.restoreTables (s : State) (c : Ctx) (p : List Byte) : State :=
  let s := if c.settab = 0 then s else s.outsideWrite c.settab ((p.drop 128).take 128)
  let rec groups : Nat → List Byte → State → State
    | 0, _, s => s
    | f + 1, q, s =>
      if q.length < 32 ∨ c.colltab = 0 then s
      else
        let n := recField q 8 2
        let s := s.outsideWrite (c.colltab + 16 * recField q 0 8) ((q.drop 8).take 16)
        let s := s.outsideWrite (recField q 16 8) ((q.drop 32).take (4 * n))
        groups f (q.drop (32 + (4 * n + 15) / 16 * 16)) s
  groups 64 (p.drop 256) s

/-- Runs a step for every section of a type; the first that cannot be done ends the restore. -/
def eachSec (l : List (List Byte)) (f : State → List Byte → Option State) (s : State) : Option State :=
  l.foldl (fun (r : Option State) p => r.bind fun s => f s p) (some s)

/-- Rebuilds every section: the state, or the code of what is impossible. -/
def State.restoreAll (s : State) (n : Nat) (c : Ctx) (own : Bool) (l : List (Nat × Nat × List Byte)) : Except Nat State :=
  let p₂ := (secsOf l 2).headD []
  let s := if own then s.restoreTables c p₂ else s
  if s.badSettab c then .error 3
  else
    let s := s.createCtx n { c with stopped := true, quiesced := true, frozeAt := s.time, aborted := (secsOf l 7).map abortedOf }
    match eachSec (secsOf l 4) (fun s p => s.restoreUnit n c (secsOf l 6) p) s with
    | none => .error 2
    | some s =>
      let s := (secsOf l 3).foldl (fun (s : State) p => s.restoreStrand n p) s
      let s := (secsOf l 5).foldl (fun (s : State) p => s.restoreQueue n (p.length / 16 + 1) p) s
      match eachSec (secsOf l 9) (fun s p => s.restoreRegion n p) s with
      | none => .error 3
      | some s =>
        match eachSec (secsOf l 8) (fun s p => s.restoreRetain n c p) s with
        | none => .error 5
        | some s => .ok ((secsOf l 10).foldl (fun (s : State) p => s.restoreCounters n c p) s)

/-- Whether a descriptor is malformed apart from its settle regions, which have a code of their own (R349). -/
def State.badBase (s : State) (c : Ctx) : Bool :=
  !inHbm c.settab 128 || State.badDesc s { c with desc := c.desc.take 0x58 ++ List.replicate 8 0 ++ c.desc.drop 0x60 }

/-- Whether a context number or an address-space id is in use. -/
def State.nameUsed (s : State) (n asid : Nat) : Bool :=
  (s.ctx n).isSome || s.ctxs.any fun p => match p.2 with | some x => x.asid == asid | none => false

/-- The descriptor that a restore uses: the one at an address, or the image's own. -/
def State.descAt (s : State) (pa : Nat) : Ctx := { desc := s.bytes pa 128, descPA := pa }

/-- IMAGE_RESTORE: all of the image, or nothing. -/
def execImageRestore (s : State) : Out :=
  let n := slice (s.arg 3) 0 6
  let pa := (s.arg 0).toNat
  let len := (s.arg 1).toNat
  let own := s.arg 2 == 0
  .next (
    if !inHbm pa len then s.cmdDone 1 0
    else
      match imageParse (s.bytes pa len) with
      | none => s.cmdDone 1 0
      | some l =>
        let off := ((l.find? fun x => x.1 == 2).map fun x => x.2.1).getD 0
        let c := s.descAt (if own then pa + off else (s.arg 2).toNat)
        if s.nameUsed n c.asid then s.cmdDone 4 0
        else if !inHbm c.descPA 128 || s.badBase c then s.cmdDone 1 0
        else
          match s.restoreAll n c own l with
          | .ok s => s.cmdDone 0 0
          | .error code => s.cmdDone code 0)

end Sys2Proof.Machine
end

