-- ==== Sys2Proof/Machine/Ras.lean ====
section
/-! DEFINITION. Errors, fencing, lashed pairs, page retirement, power and heat (22_ras_power.md R373 to R391), and
power-on reset (18_host.md R330). -/

namespace Sys2Proof.Machine

/-! ## Error records (R373) -/

/-- The physical quad of a virtual quad. -/
def State.physOf (s : State) (die vq : Nat) : Nat := slice (s.vqEntry die vq) 0 10

def State.bank (s : State) (die : Nat) : ErrBank := Store.get {} s.ras.banks die
def State.modRas (s : State) (f : RasSt → RasSt) : State := { s with ras := f s.ras }
def State.setBank (s : State) (die : Nat) (b : ErrBank) : State :=
  s.modRas fun r => { r with banks := Store.set r.banks die b }

def ErrBank.rec' (b : ErrBank) (i : Nat) : ErrRec := Store.get {} b.recs i
def ErrBank.put (b : ErrBank) (i : Nat) (r : ErrRec) : ErrBank := { b with recs := Store.set b.recs i r }

/-- Whether a unit lies in the mesh: a core, a lane, a tile row, a QLM sub-array or an L1. -/
def inMesh (ukind : Nat) : Bool := decide (1 ≤ ukind) && decide (ukind ≤ 5)

/-- The record of a report. -/
def State.recOf (s : State) (e : ErrReport) : ErrRec :=
  let m := inMesh e.ukind
  { valid := true, cls := e.cls, cause := e.cause, count := 1, ukind := e.ukind, uidx := e.uidx % 128, die := e.die
    vquad := if m then e.vquad else 0, pquad := if m then s.physOf e.die e.vquad else 0
    addr := e.addr, taddr := e.taddr, time := s.time }

/-- The same error: class, cause, unit and address. -/
def ErrRec.same (a b : ErrRec) : Bool :=
  a.valid && a.cls == b.cls && a.cause == b.cause && a.ukind == b.ukind && a.uidx == b.uidx && a.die == b.die &&
    a.vquad == b.vquad && a.pquad == b.pquad && a.addr == b.addr

/-- The place of a new record: the next free one, else the oldest corrected one. -/
def ErrBank.place (b : ErrBank) : Option Nat :=
  match ((List.range 256).map fun i => (b.next + i) % 256).find? fun i => !(b.rec' i).valid with
  | some i => some i
  | none => ((List.range 256).foldl (fun (best : Option (Nat × Nat)) i =>
      let r := b.rec' i
      if r.cls ≠ 0 then best
      else
        match best with
        | some (n, _) => if r.no < n then some (r.no, i) else best
        | none => some (r.no, i)) none).map Prod.snd

/-- The number that the next filled record gets. -/
def ErrBank.fresh (b : ErrBank) : Nat := 1 + (b.recs.map fun p => p.2.no).foldl Nat.max 0

/-- Files a record in its die's bank: the record as it stands then. -/
def State.file (s : State) (n : ErrRec) : State × ErrRec :=
  let b := s.bank n.die
  match (List.range 256).find? fun i => (b.rec' i).same n with
  | some i =>
    let r := { b.rec' i with count := Nat.min ((b.rec' i).count + 1) 65535, time := s.time }
    (s.setBank n.die (b.put i r), r)
  | none =>
    match b.place with
    | some i => (s.setBank n.die { b.put i { n with no := b.fresh } with next := (i + 1) % 256 }, n)
    | none => (s.setBank n.die (b.put 0 { b.rec' 0 with count := Nat.min ((b.rec' 0).count + 1) 65535 }), n)

/-- Records an error. -/
def State.record (s : State) (e : ErrReport) : State × ErrRec := s.file (s.recOf e)

/-- The 32 bytes of a record. -/
def ErrRec.bytes (r : ErrRec) : List Byte :=
  toBytes 8 (r.valid.toNat * 2 ^ 63 + r.cls * 2 ^ 61 + r.cause * 2 ^ 48 + r.count * 2 ^ 32 + r.ukind * 2 ^ 28 + r.uidx * 2 ^ 21
    + r.die * 2 ^ 19 + r.vquad * 2 ^ 10 + r.pquad) ++ toBytes 8 r.taddr.toNat ++ toBytes 8 r.addr.toNat ++ toBytes 8 r.time

/-! ## Histograms and fencing (R381, R382) -/

def quadKey (die pq : Nat) : Nat := die * 1024 + pq
def unitKey (die pq kind idx : Nat) : Nat := (quadKey die pq * 16 + kind) * 128 + idx

/-- Adds to a histogram entry; counts saturate at 32 bits. -/
def State.histAdd (s : State) (k corr mis : Nat) : State :=
  let (c, m) := Store.get (0, 0) s.ras.hist k
  let cap (n : Nat) : Nat := Nat.min n 0xFFFFFFFF
  s.modRas fun r => { r with hist := Store.set r.hist k (cap (c + corr), cap (m + mis)) }

/-- The thresholds by default: 64 corrected, 4 mismatches. -/
def State.overLimit (s : State) (k : Nat) : Bool :=
  let (c, m) := Store.get (0, 0) s.ras.hist k
  decide (64 < c) || decide (4 < m)

/-- The physical quads of a die. -/
def physQuads : List Nat := List.range 528

/-- The virtual quad in service that a physical quad serves. -/
def State.virtOf (s : State) (die pq : Nat) : Option Nat :=
  (List.range 512).find? fun v => s.present die v && s.physOf die v == pq

/-- Whether a virtual quad holds no work. -/
def State.quadIdle (s : State) (die vq : Nat) : Bool :=
  (List.range 4).all fun c =>
    let core := (die * 512 + vq) * 4 + c
    (slotsOf core).all (fun ta => (s.slot ta).st == .idle && (s.slot ta).trigger.isNone) && (s.core core).rxq.isEmpty

/-- Whether a physical quad may take a moved quad: healthy, powered, and a spare or without work (R391). -/
def State.moveTarget (s : State) (die pq : Nat) : Bool :=
  decide (pq < 528) && !s.ras.quads.contains (quadKey die pq) && !s.ras.gated.contains (quadKey die pq) &&
    (match s.virtOf die pq with
    | none => true
    | some v => s.quadIdle die v)

/-- The lines in the ways of a fenced L2 sub-array are written back and removed (R382). -/
def State.dropLost (s : State) (die slice : Nat) : State :=
  let lost := s.lostWays die (slice * 2048)
  s.modDie die fun d => { d with l2 := d.l2.map fun (q : Nat × List CacheLine) =>
    if q.1 / 2048 = slice then (q.1, q.2.filter fun x => !lost.contains x.way) else q }

/-- Fences a unit; one inside a quad fences its physical quad, whose work moves to a spare where one is idle; one of an L2
slice loses its ways. -/
def State.fenceUnit (s : State) (die vq kind idx : Nat) : State :=
  let pq := if inMesh kind then s.physOf die vq else 0
  let k := unitKey die pq kind idx
  if s.ras.fenced.contains k then s
  else
    let s := s.modRas fun r => { r with fenced := r.fenced ++ [k] }
    if 1 ≤ kind ∧ kind ≤ 4 then
      let s := s.modRas fun r => { r with quads := if r.quads.contains (quadKey die pq) then r.quads else r.quads ++ [quadKey die pq] }
      match physQuads.find? fun p => (s.virtOf die p).isNone && s.moveTarget die p with
      | some p => s.post (.thermalMove die vq p)
      | none => s
    else if kind = 6 then s.dropLost die idx
    else s

/-! ## Detection (R373 to R375) -/

/-- Kills what each slot of a list holds. -/
def State.killSlots (s : State) (tas : List Nat) : State :=
  tas.foldl (fun (s : State) ta =>
    let ta := s.pairOf ta
    if (s.slot ta).st = .idle then s else s.killSlot ta) s

/-- The contexts whose state a unit held: an engine's operations or a settle block's region; of the other units the
spec does not say, and any may have been held (log 22). -/
def State.heldBy (s : State) (e : ErrReport) : List Nat :=
  (s.ctxs.filter fun p => p.2.isSome).map Prod.fst |>.filter fun n =>
    if e.ukind = 10 then
      ([e.uidx, e.uidx + 128].flatMap fun i => (Store.get {} s.engines i : EngSt).ops).any fun o => o.ctx == n
    else if e.ukind = 11 then
      (List.range 16).any fun r =>
        match s.region? (regionKey n r) with
        | some x => x.die == e.die && decide (x.first ≤ e.uidx) && decide (e.uidx < x.first + x.count)
        | none => false
    else Config.freeFlag s.ctr (2000 + n)

/-- An urgent error kills the smallest unit whose state it touched (R375). A lashed pair raises LASHED instead
(R380), a failed wake test touches no work (R383), and lost settle configuration touches its region (R305). -/
def State.urgentKill (s : State) (e : ErrReport) : State :=
  if e.cause = 4 ∨ e.cause = 5 ∨ e.cause = 10 then s
  else if e.taddr ≠ 0 then
    let ta := slice e.taddr 0 16
    let sl := s.slot ta
    if sl.st = .idle then s
    else if taHnd ta then
      if sl.trigger.isSome then s.killAct ta else s
    else s.killSlots [ta]
  else if e.ukind = 1 then s.killSlots (slotsOf ((e.die * 512 + e.vquad) * 4 + e.uidx % 4))
  else if inMesh e.ukind then
    s.killSlots ((List.range 4).flatMap fun c => slotsOf ((e.die * 512 + e.vquad) * 4 + c))
  else (s.heldBy e).foldl State.killCtx s

/-- The base die that serves a frame is not stated for a frame as a whole (log 22). -/
def State.homedOn (s : State) (base frame : Nat) : Bool := Config.freeFlag s.ctr (3000 + base) || decide (frame % 65536 ≠ 0)

def State.retBlk (s : State) (base : Nat) : RetireBlk := Store.get {} s.ras.retire base
def State.setRetBlk (s : State) (base : Nat) (b : RetireBlk) : State :=
  s.modRas fun r => { r with retire := Store.set r.retire base b }

/-- Records a frame retired, or refused. -/
def State.reportPage (s : State) (frame : Word) : State := s.report ⟨0, 9, 7, 0, 0, 0, frame, 0, none, 0⟩

/-- GO: a retirement starts, or is refused; once started, its lines are copied one after another. What a physical
address serves does not change (log 22). -/
def State.retireRun (s : State) (base : Nat) : State :=
  let b := s.retBlk base
  if b.state = 0 then
    let bad := slice b.src 0 16 != 0 || slice b.dst 0 16 != 0 || !inHbm b.src.toNat 65536 || !inHbm b.dst.toNat 65536 ||
      !s.homedOn base b.src.toNat || !s.homedOn base b.dst.toNat || b.remap == 1024
    if bad then (s.setRetBlk base { b with state := 3 }).reportPage b.src
    else (s.setRetBlk base { b with state := 1, wmark := 0 }).post (.retireGo base)
  else if b.state = 1 then
    if b.wmark < 512 then
      ((s.copyBytes (b.src.toNat + 128 * b.wmark) (b.dst.toNat + 128 * b.wmark) 128).setRetBlk base
        { b with wmark := b.wmark + 1 }).post (.retireGo base)
    else (s.setRetBlk base { b with state := 2 }).post (.retireSwitch base)
  else s

/-- In hardware retirement mode a frame that returned an uncorrectable error, or whose corrected errors have passed a
threshold that the spec does not state, is moved to the last spare of a base die that serves it (R384; log 22). -/
def State.retireWeak (s : State) (e : ErrReport) : State :=
  let weak (k : Nat) : Bool := if e.cls = 0 then Config.freeFlag s.ctr (4000 + k / 65536) else e.cause == 1
  match (match e.granule with | some k => some k | none => if e.ukind = 7 ∧ e.cls = 0 then some e.addr.toNat else none) with
  | none => s
  | some k =>
    if bit e.mode 2 || !weak k || !decide (k < hbmSize) then s
    else
      match (List.range 8).find? fun i =>
        let b := s.retBlk i
        b.state == 0 && b.spare != 0 && ofBytes (s.bytes b.spare.toNat 8) != 0 && Config.freeFlag s.ctr (3000 + i) with
      | none => s
      | some i =>
        let b := s.retBlk i
        let n := ofBytes (s.bytes b.spare.toNat 8)
        let dst : Word := BitVec.ofNat 64 (ofBytes (s.bytes (b.spare.toNat + 8 * n) 8))
        let s := s.putBytes b.spare.toNat (toBytes 8 (n - 1))
        (s.setRetBlk i { b with dst := dst, src := BitVec.ofNat 64 (k / 65536 * 65536) }).retireRun i

/-- An error is detected: its record, its poison, its histogram count, what it kills and what it fences. -/
def execErrorDetected (e : ErrReport) (s : State) : Out :=
  let (s, r) := s.record e
  let s := if bit e.mode 1 then s.service 3 0 r.bytes else s
  let s := match e.granule with | some k => s.poisonAt k | none => s
  let k := unitKey e.die (if inMesh e.ukind then s.physOf e.die e.vquad else 0) e.ukind (e.uidx % 128)
  let counted := 1 ≤ e.ukind && e.ukind ≤ 6
  let s := if counted && e.cls == 0 then s.histAdd k (if e.cause = 4 then 0 else 1) 0 else s
  let s := if counted && e.cause == 4 then s.histAdd k 0 1 else s
  let s := if e.cls = 2 then s.urgentKill e else s
  let s := s.retireWeak e
  .next (
    if bit e.mode 1 then s
    else if e.ukind ≠ 0 ∧ (e.cls = 2 ∨ (counted ∧ s.overLimit k)) then s.fenceUnit e.die e.vquad e.ukind (e.uidx % 128)
    else s)

/-! ## Lashed pairs (R379, R380) -/

/-- The reports of both cores of a pair. -/
def State.reportPair (s : State) (ta cls : Nat) (pc : Word) : State :=
  [taCore ta, taCore (partnerOf ta)].foldl (fun (s : State) c =>
    s.report ⟨cls, 4, 1, c % 4, taDie ta, taVq ta, pc, if cls = 0 then BitVec.ofNat 64 ta else 0, none, 0⟩) s

/-- A disagreement: held stores are discarded and the pair returns to the rollback point; the third time it raises
LASHED there. -/
def State.rollback (s : State) (ta : Nat) : State :=
  let sl := s.slot ta
  let old := Store.get sl s.agreed sl.uid
  let rb := slice sl.pairst 3 2
  let back (n : Nat) : Slot := { old with st := .running, heldSt := [], retired := 0, fbuf := [], budget := sl.budget
                                          pairst := (old.pairst &&& 7) + BitVec.ofNat 64 (n * 8) }
  if rb < 2 then (s.setSlot ta (back (rb + 1))).reportPair ta 0 old.pc
  else ((s.setSlot ta (back 2)).reportPair ta 2 old.pc).raise ta 0x10 old.pc

/-- The two cores compare their CRCs: they differ only where a fault inside a core made them differ (R379; log 13). -/
def execLashedExchange (ta : Nat) (s : State) : Out :=
  let sl := s.slot ta
  .next (
    if !sl.paired || sl.st != .running || sl.partner.isSome then s
    else if Config.freeFlag s.ctr 30 then s.exchange ta
    else s.rollback ta)

/-! ## Page retirement (R384, R385) -/

def execRetireGo (base : Nat) (s : State) : Out := .next (s.retireRun base)

/-- The remap entry switches, and the frame is retired. -/
def execRetireSwitch (base : Nat) (s : State) : Out :=
  let b := s.retBlk base
  .next (
    if b.state ≠ 2 then s
    else
      ((s.setRetBlk base { b with state := 0, remap := b.remap + 1 }).modRas fun r =>
        { r with remaps := r.remaps ++ [(b.src.toNat, b.dst.toNat)] }).reportPage b.src)

/-! ## Rails (R386 to R389) -/

def rowKey (die row : Nat) : Nat := die * 132 + row
def State.row (s : State) (k : Nat) : RailRow := Store.get {} s.ras.rows k

/-- Changes a row; the first row written starts the count of control intervals. -/
def State.modRow (s : State) (k : Nat) (f : RailRow → RailRow) : State :=
  s.modRas fun r => { r with
    rows := Store.set r.rows k (f (s.row k))
    interval := if r.rows.isEmpty then s.time / 10000 else r.interval }

/-- A cap above 5 touches the row, and lifts N when it is above it (R387). -/
def RailRow.capped (r : RailRow) : RailRow :=
  { r with touched := r.touched || decide (5 < r.thcap) || decide (5 < r.icap), n := Nat.max r.n (Nat.max r.thcap r.icap) }

/-- The row's register is written: a value outside a field's range leaves the field (R386). -/
def RailRow.write (r : RailRow) (w : Word) : RailRow :=
  let pick (lo hi v old : Nat) : Nat := if lo ≤ v ∧ v ≤ hi then v else old
  ({ r with base := pick 6 48 (slice w 0 6) r.base, thcap := pick 5 48 (slice w 8 6) r.thcap
            icap := pick 5 48 (slice w 16 6) r.icap, breq := bit w 33, droop := r.droop && !bit w 35, uven := bit w 36
            slack := slice w 48 4 } : RailRow).capped

/-- A write of a power register; SLACK is the same in the four registers of the quad row. -/
def State.railWrite (s : State) (die row : Nat) (value : Word) : State :=
  let s := s.modRow (rowKey die row) fun r => r.write value
  (List.range 4).foldl (fun (s : State) i =>
    s.modRow (rowKey die (row / 4 * 4 + i)) fun r => { r with slack := slice value 48 4 }) s

def execRailPowerWrite (die row : Nat) (value : Word) (s : State) : Out := .next (s.railWrite die row value)

/-- One row at an interval boundary (R387, R388). -/
def RailRow.boundary (r : RailRow) (canary : Bool) : RailRow :=
  let grant := r.breq && !r.touched
  let b := if grant then 5 else r.base
  { r with
    bgrant := grant, breq := grant, n := Nat.max r.thcap (Nat.max r.icap b)
    voff := if r.uven && !r.uvoff then (if canary then r.voff - 2 else Nat.min (r.voff + 1) 40) else r.voff
    touched := decide (5 < r.thcap) || decide (5 < r.icap) }

/-- A boundary of the control intervals; `canaries` are the rows whose canaries reported a corrected error. -/
def execControlInterval (canaries : List Nat) (s : State) : Out :=
  .next (s.modRas fun r => { r with
    rows := r.rows.map fun (p : Nat × RailRow) => (p.1, p.2.boundary (canaries.contains p.1))
    interval := s.time / 10000 })

/-- A droop (R387). -/
def execRailDroop (die row : Nat) (s : State) : Out :=
  .next (s.modRow (rowKey die row) fun r => { r with n := Nat.min (r.n + 1) 48, droop := true, touched := true })

/-- An uncorrectable error in an undervolted row (R388). -/
def execMarginError (die row granule : Nat) (s : State) : Out :=
  .next (
    if (s.row (rowKey die row)).voff = 0 then s
    else
      (s.modRow (rowKey die row) fun r => { r with voff := 0, uvoff := true }).report
        ⟨1, 2, 8, row % 4, die, 0, BitVec.ofNat 64 granule, 0, some granule, 0⟩)

/-- Every 24 hours both counts of every entry are halved (R381). -/
def execHistogramDecay (s : State) : Out :=
  .next (s.modRas fun r => { r with hist := r.hist.map fun (p : Nat × (Nat × Nat)) => (p.1, (p.2.1 / 2, p.2.2 / 2)) })

/-! ## Gating and waking (R383) -/

/-- The power of a quad that holds no work is gated. -/
def execQuadPowerGate (die pq : Nat) (s : State) : Out :=
  let free := match s.virtOf die pq with | some v => s.quadIdle die v | none => true
  .next (if free && !s.ras.gated.contains (quadKey die pq) then
      s.modRas fun r => { r with gated := r.gated ++ [quadKey die pq] } else s)

/-- The rail row of a physical quad (R12). -/
def rowOf (pq : Nat) : Nat := pq / 16 * 4 + pq % 16 / 4

/-- A quad wakes and is tested; `failing` are its failing items as kind * 128 + index. The record names the physical quad
that was tested (R16), and 0 as the virtual quad of a spare, which has none (DESIGN CHOICE, log 22). A failing quad is fenced
unless the host decides it (R324, R382); it stays gated. -/
def execQuadWakeTest (die pq : Nat) (failing : List Nat) (s : State) : Out :=
  .next (
    if !s.ras.gated.contains (quadKey die pq) then s
    else if failing.isEmpty then
      let s := s.modRas fun r => { r with gated := r.gated.filter fun x => x != quadKey die pq }
      if s.ras.rows.any fun p => p.1 == rowKey die (rowOf pq) then
        s.modRow (rowKey die (rowOf pq)) fun r => { r with uvoff := false } else s
    else
      let s := failing.foldl (fun (s : State) i => s.histAdd (unitKey die pq (i / 128) (i % 128)) 0 1) s
      let i := failing.headD 0
      let (s, r) := s.file { s.recOf ⟨2, 5, i / 128, i % 128, die, (s.virtOf die pq).getD 0, 0, 0, none, 0⟩ with pquad := pq }
      if bit s.host.duty 1 then s.service 3 0 r.bytes
      else s.modRas fun r => { r with
        quads := if r.quads.contains (quadKey die pq) then r.quads else r.quads ++ [quadKey die pq] })

/-! ## Heat (R390, R391) -/

/-- Every compute clock is gated; the host is told when it holds the power policy. -/
def execThermalEmergency (s : State) : Out :=
  .next (
    if s.ras.hot then s
    else
      let s := if bit s.host.duty 3 then s.service 4 0 (toBytes 8 s.time) else s
      s.modRas fun r => { r with hot := true, since := s.time })

/-- Clocks resume: a run's certification timeout did not count. -/
def execThermalResume (s : State) : Out :=
  .next (
    if !s.ras.hot then s
    else
      let gap := s.time - s.ras.since
      let s := s.modRas fun r => { r with hot := false }
      let s := { s with regions := s.regions.map fun (p : Nat × Option Region) =>
        (p.1, p.2.map fun (r : Region) => if r.state = 2 then { r with start := r.start + gap } else r) }
      s.report ⟨0, 7, 0, 0, 0, 0, 0, 0, none, 0⟩)

/-- The physical quad of a table entry is replaced (R13, R17). -/
def State.setPhys (s : State) (die vq pq : Nat) : State :=
  let e := setSlice (s.vqEntry die vq) 0 10 pq
  s.modDie die fun d => { d with vqt := Store.set d.vqt vq e }

/-- The work of a quad goes on in another place: nothing that names it changes but the table; fetch buffers, the
instruction cache and the L1s do not go with it. The record of the move carries no unit and no quad, since R16 and R391 do
not say which it names (DESIGN CHOICE, log 22). -/
def State.moveQuad (s : State) (die vq pq : Nat) : State :=
  let old := s.physOf die vq
  let s := match s.virtOf die pq with | some v => s.setPhys die v old | none => s
  let s := s.setPhys die vq pq
  let quad := die * 512 + vq
  let s := (s.modQuad quad fun q => { q with icache := [] })
  let s := { s with
    slots := s.slots.map fun (p : Nat × Slot) => if taQuad p.1 = quad then (p.1, { p.2 with fbuf := [] }) else p
    cores := s.cores.map fun (p : Nat × CoreSt) => if p.1 / 4 = quad then (p.1, { p.2 with l1 := [] }) else p }
  let s := s.modRas fun r => { r with moved := Store.set r.moved quad (s.time + 1) }
  let s := match s.slots.find? fun p => taQuad p.1 == quad && p.2.st != .idle && p.2.partner.isNone with
    | some p => s.note ⟨8, p.2.ctx, 0, 0, BitVec.ofNat 64 (quad * 32), 0⟩
    | none => s
  s.report ⟨0, 7, 0, 0, die, 0, 0, 0, none, 0⟩

/-- A hot quad moves to an idle physical quad, at most once in 1 ms; where none is idle its row's thermal cap rises,
by an amount that policy chooses (log 22). -/
def execThermalMove (die vq target : Nat) (s : State) : Out :=
  let last := Store.get 0 s.ras.moved (die * 512 + vq)
  .next (
    if !s.present die vq || (last != 0 && decide (s.time + 1 < last + 1000000)) then s
    else if s.moveTarget die target && s.physOf die vq != target then s.moveQuad die vq target
    else if physQuads.any fun p => s.moveTarget die p && s.physOf die vq != p then s
    else
      s.modRow (rowKey die (rowOf (s.physOf die vq))) fun r =>
        ({ r with thcap := r.thcap + (if r.thcap < 48 then 1 + Config.freeCycles s.ctr 900 % (48 - r.thcap) else 0) } : RailRow).capped)

/-! ## Power-on reset (R330) -/

/-- The virtual quad table that boot firmware builds for a die (R14): with every quad healthy, the identity; else the
healthy quads in ascending order, which R14 leaves to the firmware (DESIGN CHOICE, log 2). `bad` tells which are not healthy:
fenced, or fused off, or failing the test of boot. -/
def bootTable (bad : Nat → Bool) (die : Nat) : Store W32 :=
  let healthy := physQuads.filter fun p => !bad (quadKey die p)
  if healthy.length = 528 then []
  else
    let up := if 512 ≤ healthy.length then 64 else healthy.length / 8
    let vqs := (List.range 512).filter fun v => decide (clusterOf v < up)
    let on := (List.range vqs.length).map fun i => (vqs.getD i 0, healthy.getD i 0)
    (List.range 512).map fun v =>
      (v, BitVec.ofNat 32 (match on.find? fun p => p.1 == v with | some p => 2 ^ 31 + p.2 | none => 0))

/-- A field of 4 bytes of a firmware image (R331). -/
def fwField (img : Nat → Byte) (off : Nat) : Nat := ofBytes ((List.range 4).map fun i => img (off + i))

/-- A firmware image is accepted when its header is one, its security version is not below the fused minimum, and both
signatures verify over the header's first 32 bytes and the payload (R331). -/
def fwOk (img : Nat → Byte) : Bool :=
  let part (off n : Nat) : List Byte := (List.range n).map fun i => img (off + i)
  let msg := part 0 32 ++ part (fwField img 0x10) (fwField img 0x14)
  fwField img 0 == 0x4642524E && fwField img 4 == 0 && decide (Config.minSvn ≤ fwField img 0x0C) &&
    Config.rsaVerifies msg (part (fwField img 0x18) 384) && Config.slhVerifies msg (part (fwField img 0x1C) 16224)

/-- Power-on reset: the state after reset, with what outlives it: the histograms, the fence list and the remap
entries (R381, R382, R385). Boot tries the two firmware slots; with neither accepted the device stays in recovery. Quads that
the fuses leave out, or that fail the test of boot, are free flags of the part (R330; log 17). -/
def execPowerOnReset (s : State) : Out :=
  let ras : RasSt := { hist := s.ras.hist, fenced := s.ras.fenced, quads := s.ras.quads, remaps := s.ras.remaps
                       retire := s.ras.retire.map fun (p : Nat × RetireBlk) => (p.1, { remap := p.2.remap }) }
  let ok := fwOk (Config.freeFlash s.ctr 0) || fwOk (Config.freeFlash s.ctr 1)
  let bad (k : Nat) : Bool := s.ras.quads.contains k || Config.freeFlag s.ctr (10000 + k)
  let dies := (List.range 4).map fun d => (d, ({ vqt := bootTable bad d } : DieSt))
  .next { State.reset with ras := ras, ctr := s.ctr, nextUid := s.nextUid, dies := dies, host := { recovery := !ok } }

end Sys2Proof.Machine
end

