-- ==== Sys2Proof/Machine/Regs.lean ====
section
/-! DEFINITION. Writes of the register blocks: BAR0 and BAR2, and the management space (18_host.md R313, R314, R318,
R325; 08_memory.md R200; 19_preemption.md R336; 20_measurement.md R358, R364, R370; 22_ras_power.md R373, R384, R386).
A write has n bytes and lies within one 8-byte register; read-only fields keep their value. -/

namespace Sys2Proof.Machine

/-! ## Format regions (R200, R203) -/

def State.setFmt (s : State) (f base : Nat) (r : FmtRegion) : State :=
  { s with fmts := if h : 8 * base + f < 64 then s.fmts.set (8 * base + f) r h else s.fmts }

/-- A region's register set in a base die has been written: EN needs a good FMT and NELEM. -/
def State.fmtChecked (s : State) (f base : Nat) : State :=
  let r := s.fmtReg f base
  let ok := decide (2 ≤ r.fmt) && decide (r.fmt ≤ 4) && decide (1 ≤ r.nelem.toNat) && decide (r.nelem.toNat ≤ 2 ^ 39)
  s.setFmt f base { r with en := r.en && ok }

/-- And every line of the view goes (R203). -/
def State.fmtWritten (s : State) (f base : Nat) : State := (s.fmtChecked f base).dropView f

/-- A region's register sets have been written in all 8 base dies (R200). -/
def execFormatRegionWrite (f : Nat) (s : State) : Out :=
  .next (((List.range 8).foldl (fun (s : State) b => s.fmtChecked f b) s).dropView f)

/-- A register of a set is written, in one base die (R314). -/
def State.fmtRegWrite (s : State) (f base cell o n : Nat) (v : Word) : State :=
  let r := s.fmtReg f base
  match cell with
  | 0x00 => (s.setFmt f base { r with codes := mergeCell r.codes o n v }).fmtWritten f base
  | 0x08 => (s.setFmt f base { r with bscale := mergeCell r.bscale o n v }).fmtWritten f base
  | 0x10 => (s.setFmt f base { r with sscale := mergeCell r.sscale o n v }).fmtWritten f base
  | 0x18 => (s.setFmt f base { r with nelem := mergeCell r.nelem o n v }).fmtWritten f base
  | 0x20 =>
    let w := mergeCell (BitVec.ofNat 64 (r.fmt + r.en.toNat * 256)) o n v
    (s.setFmt f base { r with fmt := slice w 0 4, en := bit w 8 }).fmtWritten f base
  | _ => s

/-! ## The command block (R313) -/

/-- The event that a command code starts. -/
def commandOf : Nat → Instr
  | 0x01 => .ctxCreate
  | 0x02 => .ctxKill
  | 0x03 => .inval
  | 0x04 => .launchOpen
  | 0x05 => .launchClose
  | 0x06 => .svcRing
  | 0x07 => .duty
  | 0x08 => .devLost
  | 0x09 => .lyongSetup
  | 0x0A => .strandWire
  | 0x0B => .strandFree
  | 0x10 => .quiesce
  | 0x11 => .imageWrite
  | 0x12 => .imageRestore
  | 0x13 => .unquiesce
  | 0x14 => .preempt
  | 0x15 => .thaw
  | 0x16 => .dbgMap
  | _ => .unknownCommand

def State.commandWrite (s : State) (cell o n : Nat) (v : Word) : State :=
  if cell ≤ 0x28 then
    let i := cell / 8
    { s with host := { s.host with args := if h : i < 6 then s.host.args.set i (mergeCell (s.host.args[i]'h) o n v) h else s.host.args } }
  else if cell = 0x38 ∧ o = 0 then
    if s.host.busy then { s with host := { s.host with code := 0xFE } }
    else { s with host := { s.host with cmd := v.setWidth 8, busy := true } }.post (commandOf (slice v 0 8))
  else s

/-! ## Replay, link grid and trace (R358, R364, R370) -/

def State.replayWrite (s : State) (cell o n : Nat) (v : Word) : State :=
  let m (old : Word) : Word := mergeCell old o n v
  match cell with
  | 0x00 => s.modReplay fun r => { r with recA := m r.recA }
  | 0x08 => s.modReplay fun r => { r with plan := m r.plan }
  | 0x10 => s.modReplay fun r => { r with result := m r.result }
  | 0x18 => s.modReplay fun r => { r with log := m r.log }
  | 0x20 => s.modReplay fun r => { r with logLen := m r.logLen }
  | 0x28 => s.modReplay fun r => { r with wsArea := m r.wsArea }
  | 0x30 => s.modReplay fun r => { r with wsLen := m r.wsLen }
  | 0x38 =>
    let w := m (s.replay.cfg.setWidth 64)
    let s := s.modReplay fun r => { r with cfg := BitVec.ofNat 32 (slice w 0 14) }
    if bit w 16 then s.replayGo else s
  | _ => s

def State.gridWrite (s : State) (cell o n : Nat) (v : Word) : State :=
  let g := s.grid
  match cell with
  | 0x00 => { s with grid := { g with grid := mergeCell g.grid o n v } }
  | 0x08 => { s with grid := { g with ivl := slice (mergeCell (BitVec.ofNat 64 g.ivl) o n v) 0 32, last := s.time } }
  | 0x10 => { s with grid := { g with nsnap := slice (mergeCell (BitVec.ofNat 64 g.nsnap) o n v) 0 32 } }
  | _ => s

def State.traceWrite (s : State) (cell o n : Nat) (v : Word) : State :=
  let t := s.trace
  match cell with
  | 0x00 =>
    let w := mergeCell (t.ring + BitVec.ofNat 64 t.rsz) o n v
    s.modTrace fun t => { t with ring := w >>> 8 <<< 8, rsz := slice w 0 5 }
  | 0x10 => s.traceTail (mergeCell (BitVec.ofNat 64 t.tail) o n v)
  | 0x18 => s.modTrace fun t => { t with fprog := mergeCell t.fprog o n v }
  | 0x20 =>
    let w := mergeCell (BitVec.ofNat 64 (t.flen * 2 ^ 32 + t.en.toNat)) o n v
    let s := s.modTrace fun t => { t with flen := slice w 32 32 }
    if o ≠ 0 then s
    else
      let s := if bit w 0 then s.traceOn else s.modTrace fun t => { t with en := false }
      let s := if bit w 1 then s.traceClr else s
      if bit w 3 then s.traceGo else s
  | 0x38 => s.modTrace fun t => { t with mask := mergeCell t.mask o n v }
  | _ => s

/-! ## Errors, retirement and rails (R373, R384, R386) -/

/-- VALID of an error record is cleared by writing 1. -/
def State.errWrite (s : State) (die i o n : Nat) (v : Word) : State :=
  if bit (mergeCell 0 o n v) 63 then s.setBank die ((s.bank die).put i { (s.bank die).rec' i with valid := false }) else s

def State.retireWrite (s : State) (base cell o n : Nat) (v : Word) : State :=
  let b := s.retBlk base
  match cell with
  | 0x00 =>
    let w := mergeCell b.src o n v
    let s := s.setRetBlk base { b with src := w &&& ~~~1#64 }
    if bit w 0 && b.state == 0 then s.retireRun base else s
  | 0x08 => s.setRetBlk base { b with dst := mergeCell b.dst o n v }
  | 0x20 => s.setRetBlk base { b with spare := mergeCell b.spare o n v }
  | _ => s

/-- The fields of a power register that a write may change. -/
def RailRow.word (r : RailRow) : Word :=
  BitVec.ofNat 64 (r.base + r.thcap * 2 ^ 8 + r.icap * 2 ^ 16 + r.breq.toNat * 2 ^ 33 + r.uven.toNat * 2 ^ 36 + r.slack * 2 ^ 48)

/-! ## Launch windows (R318) -/

def State.launchWrite (s : State) (win cell o n : Nat) (v : Word) : State :=
  let w := s.win win
  match cell with
  | 0x00 => s.modWin win fun w => { w with rec_ := mergeCell w.rec_ o n v }
  | 0x08 => s.modWin win fun w => { w with kind := slice (mergeCell (BitVec.ofNat 64 w.kind) o n v) 0 1 }
  | 0x18 => (s.modWin win fun w => { w with cookie := mergeCell w.cookie o n v }).launchSend win
  | 0x28 => s.modWin win fun _ => { w with err := slice (BitVec.ofNat 64 w.err &&& ~~~ mergeCell 0 o n v) 0 7 }
  | _ => s

/-! ## Debug windows, replay data areas and QLM (R336, R339) -/

/-- A write into a slot's window: OUTCOME and FBCLR act, the rest is data. -/
def State.debugWrite (s : State) (ta off n : Nat) (v : Word) : State :=
  let cell := off / 8 * 8
  if cell = 0x220 then (if off ≤ 0x221 ∧ bit (mergeCell 0 (off % 8) n v) 8 then s.doFbclr ta else s)
  else if cell = 0x228 then (if off = 0x228 then s.outcome ta (slice v 0 4) else s)
  else s.windowWrite ta off n v

/-- The lanes of a parked store from its bytes in the area, which keep its shape. -/
def RpqEntry.fromArea (e : RpqEntry) (bs : List Byte) : RpqEntry :=
  let len := (e.lanes.map fun l => l.2.length).headD 0
  let step := 8 + (len + 7) / 8 * 8
  { e with lanes := (List.range e.lanes.length).map fun j =>
      if e.run then (((e.lanes.getD j (0, [])).1), (bs.drop (8 + len * j)).take len)
      else (BitVec.ofNat 64 (ofBytes ((bs.drop (step * j)).take 8)), (bs.drop (step * j + 8)).take len) }

/-- A parked store after a write of n bytes at an offset of its core's area. -/
def RpqEntry.patched (off n : Nat) (v : Word) (e : RpqEntry) : RpqEntry :=
  if e.doff < off + n ∧ off < e.doff + e.len then
    let bs := e.areaBytes
    let new := toBytes n v.toNat
    let at_ (i : Nat) : Byte := if off ≤ e.doff + i ∧ e.doff + i < off + n then new.getD (e.doff + i - off) 0 else bs.getD i 0
    e.fromArea ((List.range bs.length).map at_)
  else e

/-- A write into a core's replay data area reaches the parked stores that lie there. -/
def State.areaWrite (s : State) (core off n : Nat) (v : Word) : State :=
  s.modCore core fun c => { c with rpq := c.rpq.map (RpqEntry.patched off n v) }

/-- A write into a quad's 2 MiB block. -/
def State.quadWrite (s : State) (quad off n : Nat) (v : Word) : State :=
  if off < 0xA0000 then
    let i := off / 0x8000
    s.debugWrite (quad * 32 + i / 5 * 8 + i % 5) (off % 0x8000) n v
  else if off < 0xB0000 then s.areaWrite (quad * 4 + (off - 0xA0000) / 0x4000) (off % 0x4000) n v
  else if 0x100000 ≤ off then s.putBytes (qlmKey quad (off - 0x100000)) (toBytes n v.toNat)
  else s

/-! ## The spaces (R312, R314) -/

/-- A write to BAR0, or to its copy in a management space. -/
def State.bar0Write (s : State) (off n : Nat) (v : Word) : State :=
  let cell := off / 8 * 8
  let o := off % 8
  if off < 0x40 then s.commandWrite cell o n v
  else if cell = 0x40 then (match execSvcCreditWrite (mergeCell (BitVec.ofNat 64 s.host.used) o n v) s with | .next s => s | _ => s)
  else if 0x800 ≤ off ∧ off < 0x840 then s.replayWrite (cell - 0x800) o n v
  else if 0x840 ≤ off ∧ off < 0x860 then s.gridWrite (cell - 0x840) o n v
  else if 0x880 ≤ off ∧ off < 0x8C0 then s.traceWrite (cell - 0x880) o n v
  else if 0x2000 ≤ off ∧ off < 0xA000 then
    let i := off - 0x2000
    if i % 32 < 8 then s.errWrite (i / 0x2000) (i % 0x2000 / 32) o n v else s
  else if 0xA000 ≤ off ∧ off < 0xA200 then s.retireWrite ((off - 0xA000) / 64) ((cell - 0xA000) % 64) o n v
  else if 0xB000 ≤ off ∧ off < 0xD000 then
    let i := off - 0xB000
    let row := i % 0x800 / 8
    if row < 132 then s.railWrite (i / 0x800) row (mergeCell (s.row (rowKey (i / 0x800) row)).word o n v) else s
  else if 0x10000 ≤ off ∧ off < 0x18000 then
    match s.host.dbg with
    | some ta => s.debugWrite ta (off - 0x10000) n v
    | none => s
  else s

/-- A write to an entry pair of a die's virtual quad table: PRES and PHYS (R13). -/
def State.vqtWrite (s : State) (die off n : Nat) (v : Word) : State :=
  let e := off / 8 * 2
  let old : Word := BitVec.ofNat 64 ((s.vqEntry die e).toNat + (s.vqEntry die (e + 1)).toNat * 2 ^ 32)
  let w := mergeCell old (off % 8) n v &&& 0x800003FF800003FF#64
  s.modDie die fun d => { d with vqt := Store.set (Store.set d.vqt e (w.setWidth 32)) (e + 1) (w.extractLsb' 32 32) }

/-- A write to the management space of a die. -/
def State.mgmtWrite (s : State) (die off n : Nat) (v : Word) : State :=
  if off < 0x100000 then s.bar0Write off n v
  else if off < 0x100800 then s.vqtWrite die (off - 0x100000) n v
  else if 0x200000 ≤ off ∧ off < 0x200800 then
    let o := off - 0x200000
    if o % 0x400 < 0x200 then s.fmtRegWrite (o % 0x400 / 64) (2 * die + o / 0x400) (o / 8 * 8 % 64) (o % 8) n v else s
  else if 0x100000000 ≤ off ∧ off < 0x140000000 then
    let x := off - 0x100000000
    s.quadWrite (die * 512 + x / 0x200000) (x % 0x200000) n v
  else s

/-- In recovery only the 64 MiB image-load window of BAR0 is served; the supervisors do not run (R330; log 17). -/
def State.loadWrite (s : State) (a n : Nat) (v : Word) : State :=
  if a < 2 ^ 40 ∧ Config.loadWindow ≤ a ∧ a + n ≤ Config.loadWindow + 2 ^ 26 then
    { s with host := { s.host with image := Memory.write s.host.image (a - Config.loadWindow) (toBytes n v.toNat) } }
  else s

/-- A write of n bytes to a register. Addresses below 2^40 are BAR0 offsets, those from 2^40 on BAR2 offsets, and the
supervisors' are physical (log 16). -/
def execRegisterWrite (addr : Word) (n : Nat) (value : Word) (s : State) : Out :=
  let a := addr.toNat
  .next (
    if n = 0 ∨ 8 < a % 8 + n then s
    else if s.host.recovery then s.loadWrite a n value
    else if 0x00FE000000000000 ≤ a ∧ a < 0x00FE040000000000 then
      s.mgmtWrite ((a - 0x00FE000000000000) / 0x10000000000) (a % 0x10000000000) n value
    else if a < 2 ^ 40 then s.bar0Write a n value
    else if a < 2 ^ 40 + 0x100000 then s.launchWrite ((a - 2 ^ 40) / 4096) (a / 8 * 8 % 4096) (a % 8) n value
    else s)

end Sys2Proof.Machine
end

