-- ==== Sys2Proof/Machine/Dispatch.lean ====
section
/-! DEFINITION. The one dispatch: each instruction and each event to its meaning. -/

namespace Sys2Proof.Machine

def exec (i : Instr) (s : State) : Host.Outcome State Fault Refusal :=
  match i with
  | .addX o => Sys2Proof.Machine.execAddX o s
  | .subX o => Sys2Proof.Machine.execSubX o s
  | .mulX o => Sys2Proof.Machine.execMulX o s
  | .mulhX o => Sys2Proof.Machine.execMulhX o s
  | .mulhuX o => Sys2Proof.Machine.execMulhuX o s
  | .divX o => Sys2Proof.Machine.execDivX o s
  | .divuX o => Sys2Proof.Machine.execDivuX o s
  | .remX o => Sys2Proof.Machine.execRemX o s
  | .remuX o => Sys2Proof.Machine.execRemuX o s
  | .andX o => Sys2Proof.Machine.execAndX o s
  | .orX o => Sys2Proof.Machine.execOrX o s
  | .xorX o => Sys2Proof.Machine.execXorX o s
  | .andnX o => Sys2Proof.Machine.execAndnX o s
  | .shlX o => Sys2Proof.Machine.execShlX o s
  | .shrX o => Sys2Proof.Machine.execShrX o s
  | .sraX o => Sys2Proof.Machine.execSraX o s
  | .rolX o => Sys2Proof.Machine.execRolX o s
  | .minX o => Sys2Proof.Machine.execMinX o s
  | .maxX o => Sys2Proof.Machine.execMaxX o s
  | .minuX o => Sys2Proof.Machine.execMinuX o s
  | .maxuX o => Sys2Proof.Machine.execMaxuX o s
  | .cmpEqX o => Sys2Proof.Machine.execCmpEqX o s
  | .cmpNeX o => Sys2Proof.Machine.execCmpNeX o s
  | .cmpLtX o => Sys2Proof.Machine.execCmpLtX o s
  | .cmpLtuX o => Sys2Proof.Machine.execCmpLtuX o s
  | .cmpGeX o => Sys2Proof.Machine.execCmpGeX o s
  | .cmpGeuX o => Sys2Proof.Machine.execCmpGeuX o s
  | .sel o => Sys2Proof.Machine.execSel o s
  | .bfx o => Sys2Proof.Machine.execBfx o s
  | .bfi o => Sys2Proof.Machine.execBfi o s
  | .addpc dst off => Sys2Proof.Machine.execAddpc dst off s
  | .li dst y => Sys2Proof.Machine.execLi dst y s
  | .ldBX o => Sys2Proof.Machine.execLdBX o s
  | .ldHX o => Sys2Proof.Machine.execLdHX o s
  | .ldWX o => Sys2Proof.Machine.execLdWX o s
  | .ldDX o => Sys2Proof.Machine.execLdDX o s
  | .ldsBX o => Sys2Proof.Machine.execLdsBX o s
  | .ldsHX o => Sys2Proof.Machine.execLdsHX o s
  | .ldsWX o => Sys2Proof.Machine.execLdsWX o s
  | .stBX o => Sys2Proof.Machine.execStBX o s
  | .stHX o => Sys2Proof.Machine.execStHX o s
  | .stWX o => Sys2Proof.Machine.execStWX o s
  | .stDX o => Sys2Proof.Machine.execStDX o s
  | .pref addr hint => Sys2Proof.Machine.execPref addr hint s
  | .put n a e => Sys2Proof.Machine.execPut n a e s
  | .pset d p => Sys2Proof.Machine.execPset d p s
  | .beqX a b off => Sys2Proof.Machine.execBeqX a b off s
  | .bneX a b off => Sys2Proof.Machine.execBneX a b off s
  | .bltX a b off => Sys2Proof.Machine.execBltX a b off s
  | .bltuX a b off => Sys2Proof.Machine.execBltuX a b off s
  | .bgeX a b off => Sys2Proof.Machine.execBgeX a b off s
  | .bgeuX a b off => Sys2Proof.Machine.execBgeuX a b off s
  | .bX off => Sys2Proof.Machine.execBX off s
  | .callX off => Sys2Proof.Machine.execCallX off s
  | .vaddX o => Sys2Proof.Machine.execVaddX o s
  | .vsubX o => Sys2Proof.Machine.execVsubX o s
  | .vmulX o => Sys2Proof.Machine.execVmulX o s
  | .vdiv o => Sys2Proof.Machine.execVdiv o s
  | .vminX o => Sys2Proof.Machine.execVminX o s
  | .vmaxX o => Sys2Proof.Machine.execVmaxX o s
  | .vabs o => Sys2Proof.Machine.execVabs o s
  | .vneg o => Sys2Proof.Machine.execVneg o s
  | .vsqrt o => Sys2Proof.Machine.execVsqrt o s
  | .vfma o => Sys2Proof.Machine.execVfma o s
  | .vfms o => Sys2Proof.Machine.execVfms o s
  | .vfnma o => Sys2Proof.Machine.execVfnma o s
  | .vrcp o => Sys2Proof.Machine.execVrcp o s
  | .vrsq o => Sys2Proof.Machine.execVrsq o s
  | .vexp2 o => Sys2Proof.Machine.execVexp2 o s
  | .vlog2 o => Sys2Proof.Machine.execVlog2 o s
  | .vsel o => Sys2Proof.Machine.execVsel o s
  | .vshl o => Sys2Proof.Machine.execVshl o s
  | .vshr o => Sys2Proof.Machine.execVshr o s
  | .vsra o => Sys2Proof.Machine.execVsra o s
  | .vandX o => Sys2Proof.Machine.execVandX o s
  | .vorX o => Sys2Proof.Machine.execVorX o s
  | .vxorX o => Sys2Proof.Machine.execVxorX o s
  | .vmulh o => Sys2Proof.Machine.execVmulh o s
  | .vcmpEq o => Sys2Proof.Machine.execVcmpEq o s
  | .vcmpNe o => Sys2Proof.Machine.execVcmpNe o s
  | .vcmpLt o => Sys2Proof.Machine.execVcmpLt o s
  | .vcmpLe o => Sys2Proof.Machine.execVcmpLe o s
  | .vcmpGt o => Sys2Proof.Machine.execVcmpGt o s
  | .vcmpGe o => Sys2Proof.Machine.execVcmpGe o s
  | .vcmpUn o => Sys2Proof.Machine.execVcmpUn o s
  | .vcmpLtu o => Sys2Proof.Machine.execVcmpLtu o s
  | .vcvt o => Sys2Proof.Machine.execVcvt o s
  | .vredAdd o => Sys2Proof.Machine.execVredAdd o s
  | .vredMax o => Sys2Proof.Machine.execVredMax o s
  | .vredMin o => Sys2Proof.Machine.execVredMin o s
  | .vredAnd o => Sys2Proof.Machine.execVredAnd o s
  | .vredOr o => Sys2Proof.Machine.execVredOr o s
  | .vperm o => Sys2Proof.Machine.execVperm o s
  | .vbcast o => Sys2Proof.Machine.execVbcast o s
  | .vextr o => Sys2Proof.Machine.execVextr o s
  | .vins o => Sys2Proof.Machine.execVins o s
  | .vslide o => Sys2Proof.Machine.execVslide o s
  | .viota o => Sys2Proof.Machine.execViota o s
  | .vld o => Sys2Proof.Machine.execVld o s
  | .vst o => Sys2Proof.Machine.execVst o s
  | .vlds o => Sys2Proof.Machine.execVlds o s
  | .vsts o => Sys2Proof.Machine.execVsts o s
  | .vgath o => Sys2Proof.Machine.execVgath o s
  | .vscat o => Sys2Proof.Machine.execVscat o s
  | .vldb o => Sys2Proof.Machine.execVldb o s
  | .kand d a b => Sys2Proof.Machine.execKand d a b s
  | .kor d a b => Sys2Proof.Machine.execKor d a b s
  | .kxor d a b => Sys2Proof.Machine.execKxor d a b s
  | .knot d a => Sys2Proof.Machine.execKnot d a s
  | .kset d a count => Sys2Proof.Machine.execKset d a count s
  | .kget d a j => Sys2Proof.Machine.execKget d a j s
  | .kpopc d a => Sys2Proof.Machine.execKpopc d a s
  | .kfirst d a => Sys2Proof.Machine.execKfirst d a s
  | .mma o => Sys2Proof.Machine.execMma o s
  | .aclr d => Sys2Proof.Machine.execAclr d s
  | .ald o => Sys2Proof.Machine.execAld o s
  | .ast o => Sys2Proof.Machine.execAst o s
  | .amov o => Sys2Proof.Machine.execAmov o s
  | .ggset a field => Sys2Proof.Machine.execGgset a field s
  | .ggrng d a axis => Sys2Proof.Machine.execGgrng d a axis s
  | .ggmask o => Sys2Proof.Machine.execGgmask o s
  | .spawn d a => Sys2Proof.Machine.execSpawn d a s
  | .spawnr d a b => Sys2Proof.Machine.execSpawnr d a b s
  | .gang d a => Sys2Proof.Machine.execGang d a s
  | .depset d a b => Sys2Proof.Machine.execDepset d a b s
  | .depdec a n => Sys2Proof.Machine.execDepdec a n s
  | .epush a b => Sys2Proof.Machine.execEpush a b s
  | .epop d a => Sys2Proof.Machine.execEpop d a s
  | .cancel d a prop => Sys2Proof.Machine.execCancel d a prop s
  | .barinit n0 a b => Sys2Proof.Machine.execBarinit n0 a b s
  | .bararv n0 => Sys2Proof.Machine.execBararv n0 s
  | .barwait d n0 t => Sys2Proof.Machine.execBarwait d n0 t s
  | .barsync d n0 t => Sys2Proof.Machine.execBarsync d n0 t s
  | .barack n0 a => Sys2Proof.Machine.execBarack n0 a s
  | .barpois n0 => Sys2Proof.Machine.execBarpois n0 s
  | .barstat d n0 => Sys2Proof.Machine.execBarstat d n0 s
  | .l2pin d a b w => Sys2Proof.Machine.execL2pin d a b w s
  | .l2unpin d a => Sys2Proof.Machine.execL2unpin d a s
  | .l2stat d a clr => Sys2Proof.Machine.execL2stat d a clr s
  | .l2flush d a b => Sys2Proof.Machine.execL2flush d a b s
  | .amoSwap o => Sys2Proof.Machine.execAmoSwap o s
  | .amoCas o => Sys2Proof.Machine.execAmoCas o s
  | .amoAdd o => Sys2Proof.Machine.execAmoAdd o s
  | .amoAnd o => Sys2Proof.Machine.execAmoAnd o s
  | .amoOr o => Sys2Proof.Machine.execAmoOr o s
  | .amoXor o => Sys2Proof.Machine.execAmoXor o s
  | .amoMin o => Sys2Proof.Machine.execAmoMin o s
  | .amoMax o => Sys2Proof.Machine.execAmoMax o s
  | .amoMinu o => Sys2Proof.Machine.execAmoMinu o s
  | .amoMaxu o => Sys2Proof.Machine.execAmoMaxu o s
  | .amoFadd o => Sys2Proof.Machine.execAmoFadd o s
  | .amoFmin o => Sys2Proof.Machine.execAmoFmin o s
  | .amoFmax o => Sys2Proof.Machine.execAmoFmax o s
  | .fence sc => Sys2Proof.Machine.execFence sc s
  | .ifence => Sys2Proof.Machine.execIfence s
  | .drain => Sys2Proof.Machine.execDrain s
  | .sendam a b c e imm => Sys2Proof.Machine.execSendam a b c e imm s
  | .cpset idx a => Sys2Proof.Machine.execCpset idx a s
  | .cpgo d => Sys2Proof.Machine.execCpgo d s
  | .cpstat d a => Sys2Proof.Machine.execCpstat d a s
  | .cpabort d a => Sys2Proof.Machine.execCpabort d a s
  | .waitany d a c => Sys2Proof.Machine.execWaitany d a c s
  | .waitall d a c => Sys2Proof.Machine.execWaitall d a c s
  | .ffrdy d a => Sys2Proof.Machine.execFfrdy d a s
  | .tagclr a => Sys2Proof.Machine.execTagclr a s
  | .tagget d t => Sys2Proof.Machine.execTagget d t s
  | .creduce d a => Sys2Proof.Machine.execCreduce d a s
  | .callred d a => Sys2Proof.Machine.execCallred d a s
  | .cbcast d a => Sys2Proof.Machine.execCbcast d a s
  | .cgather d a => Sys2Proof.Machine.execCgather d a s
  | .sopen d a n0 l => Sys2Proof.Machine.execSopen d a n0 l s
  | .ssend d a item => Sys2Proof.Machine.execSsend d a item s
  | .srecv d a item => Sys2Proof.Machine.execSrecv d a item s
  | .spoll d a item => Sys2Proof.Machine.execSpoll d a item s
  | .spass d a b => Sys2Proof.Machine.execSpass d a b s
  | .saccept d a b => Sys2Proof.Machine.execSaccept d a b s
  | .sclose a => Sys2Proof.Machine.execSclose a s
  | .sstat d a => Sys2Proof.Machine.execSstat d a s
  | .swatch a t => Sys2Proof.Machine.execSwatch a t s
  | .sflush d a => Sys2Proof.Machine.execSflush d a s
  | .sfcfg d a b => Sys2Proof.Machine.execSfcfg d a b s
  | .sfscl d a b e => Sys2Proof.Machine.execSfscl d a b e s
  | .sfbias d a b i16 n0 => Sys2Proof.Machine.execSfbias d a b i16 n0 s
  | .sfseed d a b => Sys2Proof.Machine.execSfseed d a b s
  | .sfrun d a => Sys2Proof.Machine.execSfrun d a s
  | .sfwait d a t => Sys2Proof.Machine.execSfwait d a t s
  | .sfsmp d a b fp32 => Sys2Proof.Machine.execSfsmp d a b fp32 s
  | .sfhalt d a => Sys2Proof.Machine.execSfhalt d a s
  | .sfstat d a => Sys2Proof.Machine.execSfstat d a s
  | .sfdln d a b c => Sys2Proof.Machine.execSfdln d a b c s
  | .sfacpt d a b => Sys2Proof.Machine.execSfacpt d a b s
  | .sfrel d a => Sys2Proof.Machine.execSfrel d a s
  | .splload a => Sys2Proof.Machine.execSplload a s
  | .splget d a => Sys2Proof.Machine.execSplget d a s
  | .trap imm => Sys2Proof.Machine.execTrap imm s
  | .rdsr d idx => Sys2Proof.Machine.execRdsr d idx s
  | .wrsr idx a => Sys2Proof.Machine.execWrsr idx a s
  | .pair d => Sys2Proof.Machine.execPair d s
  | .unpair d => Sys2Proof.Machine.execUnpair d s
  | .pmcfg d n a => Sys2Proof.Machine.execPmcfg d n a s
  | .pmrd d n => Sys2Proof.Machine.execPmrd d n s
  | .mark a imm => Sys2Proof.Machine.execMark a imm s
  | .loadDataArrival t d value pois => Sys2Proof.Machine.execLoadDataArrival t d value pois s
  | .storeAck t => Sys2Proof.Machine.execStoreAck t s
  | .parkedStoreRetranslate core entry => Sys2Proof.Machine.execParkedStoreRetranslate core entry s
  | .remoteWriteArrival w => Sys2Proof.Machine.execRemoteWriteArrival w s
  | .atomicAtHome r => Sys2Proof.Machine.execAtomicAtHome r s
  | .atomicReturn r old pois => Sys2Proof.Machine.execAtomicReturn r old pois s
  | .activationRedelivery core => Sys2Proof.Machine.execActivationRedelivery core s
  | .rxfull core => Sys2Proof.Machine.execRxfull core s
  | .edgeDeferredPush p => Sys2Proof.Machine.execEdgeDeferredPush p s
  | .barrierArrival ctx uid slot rank phase => Sys2Proof.Machine.execBarrierArrival ctx uid slot rank phase s
  | .barrierAck ctx uid slot => Sys2Proof.Machine.execBarrierAck ctx uid slot s
  | .copyExecute engine => Sys2Proof.Machine.execCopyExecute engine s
  | .copyCompletion id => Sys2Proof.Machine.execCopyCompletion id s
  | .collectiveCommit ctx grp op outside => Sys2Proof.Machine.execCollectiveCommit ctx grp op outside s
  | .collectiveAbort ctx grp op => Sys2Proof.Machine.execCollectiveAbort ctx grp op s
  | .collectiveWatchdog ctx grp op => Sys2Proof.Machine.execCollectiveWatchdog ctx grp op s
  | .sfReply t d value pois smp => Sys2Proof.Machine.execSfReply t d value pois smp s
  | .settleSaturation ctx region states => Sys2Proof.Machine.execSettleSaturation ctx region states s
  | .settleCertify ctx region states => Sys2Proof.Machine.execSettleCertify ctx region states s
  | .settleTimeout ctx region states => Sys2Proof.Machine.execSettleTimeout ctx region states s
  | .settleConfigError ctx region blk => Sys2Proof.Machine.execSettleConfigError ctx region blk s
  | .strandItemArrival ctx entry it => Sys2Proof.Machine.execStrandItemArrival ctx entry it s
  | .strandCreditReturn ctx entry => Sys2Proof.Machine.execStrandCreditReturn ctx entry s
  | .strandMoveRequest ctx entry sink => Sys2Proof.Machine.execStrandMoveRequest ctx entry sink s
  | .strandStopperArrival ctx entry => Sys2Proof.Machine.execStrandStopperArrival ctx entry s
  | .strandRouteSwitch ctx entry => Sys2Proof.Machine.execStrandRouteSwitch ctx entry s
  | .strandFray ctx entry => Sys2Proof.Machine.execStrandFray ctx entry s
  | .traceRecord r time => Sys2Proof.Machine.execTraceRecord r time s
  | .launchItemSend win => Sys2Proof.Machine.execLaunchItemSend win s
  | .launchItemAccept win => Sys2Proof.Machine.execLaunchItemAccept win s
  | .retireGo base => Sys2Proof.Machine.execRetireGo base s
  | .retireSwitch base => Sys2Proof.Machine.execRetireSwitch base s
  | .faultService p => Sys2Proof.Machine.execFaultService p s
  | .errorDetected e => Sys2Proof.Machine.execErrorDetected e s
  | .lashedExchange ta => Sys2Proof.Machine.execLashedExchange ta s
  | .thermalMove die vquad target => Sys2Proof.Machine.execThermalMove die vquad target s
  | .thermalEmergency => Sys2Proof.Machine.execThermalEmergency s
  | .thermalResume => Sys2Proof.Machine.execThermalResume s
  | .quadPowerGate die pquad => Sys2Proof.Machine.execQuadPowerGate die pquad s
  | .quadWakeTest die pquad failing => Sys2Proof.Machine.execQuadWakeTest die pquad failing s
  | .controlInterval canaries => Sys2Proof.Machine.execControlInterval canaries s
  | .railDroop die row => Sys2Proof.Machine.execRailDroop die row s
  | .marginError die row granule => Sys2Proof.Machine.execMarginError die row granule s
  | .histogramDecay => Sys2Proof.Machine.execHistogramDecay s
  | .deviceLostTimeout dev => Sys2Proof.Machine.execDeviceLostTimeout dev s
  | .hostMemAccess write pa bytes => Sys2Proof.Machine.execHostMemAccess write pa bytes s
  | .spdmRequest code => Sys2Proof.Machine.execSpdmRequest code s
  | .powerOnReset => Sys2Proof.Machine.execPowerOnReset s
  | .linkGridSnapshot => Sys2Proof.Machine.execLinkGridSnapshot s
  | .replayRunGo => Sys2Proof.Machine.execReplayRunGo s
  | .replayPassComplete => Sys2Proof.Machine.execReplayPassComplete s
  | .replayEnforceTimeout key => Sys2Proof.Machine.execReplayEnforceTimeout key s
  | .svcCreditWrite total => Sys2Proof.Machine.execSvcCreditWrite total s
  | .handlerActivationStart core => Sys2Proof.Machine.execHandlerActivationStart core s
  | .taskStart core => Sys2Proof.Machine.execTaskStart core s
  | .taskSteal core victim => Sys2Proof.Machine.execTaskSteal core victim s
  | .gangPlace die => Sys2Proof.Machine.execGangPlace die s
  | .gangAgingReserve die => Sys2Proof.Machine.execGangAgingReserve die s
  | .unitResume ctx rec => Sys2Proof.Machine.execUnitResume ctx rec s
  | .budgetExpiry ta => Sys2Proof.Machine.execBudgetExpiry ta s
  | .deadlineFire ta => Sys2Proof.Machine.execDeadlineFire ta s
  | .deadlineDiversion ta => Sys2Proof.Machine.execDeadlineDiversion ta s
  | .copyTrap ta => Sys2Proof.Machine.execCopyTrap ta s
  | .pageWalk ctx va => Sys2Proof.Machine.execPageWalk ctx va s
  | .ctxCreate => Sys2Proof.Machine.execCtxCreate s
  | .ctxKill => Sys2Proof.Machine.execCtxKill s
  | .inval => Sys2Proof.Machine.execInval s
  | .launchOpen => Sys2Proof.Machine.execLaunchOpen s
  | .launchClose => Sys2Proof.Machine.execLaunchClose s
  | .svcRing => Sys2Proof.Machine.execSvcRing s
  | .duty => Sys2Proof.Machine.execDuty s
  | .devLost => Sys2Proof.Machine.execDevLost s
  | .lyongSetup => Sys2Proof.Machine.execLyongSetup s
  | .strandWire => Sys2Proof.Machine.execStrandWire s
  | .strandFree => Sys2Proof.Machine.execStrandFree s
  | .quiesce => Sys2Proof.Machine.execQuiesce s
  | .imageWrite => Sys2Proof.Machine.execImageWrite s
  | .imageRestore => Sys2Proof.Machine.execImageRestore s
  | .unquiesce => Sys2Proof.Machine.execUnquiesce s
  | .preempt => Sys2Proof.Machine.execPreempt s
  | .thaw => Sys2Proof.Machine.execThaw s
  | .dbgMap => Sys2Proof.Machine.execDbgMap s
  | .unknownCommand => Sys2Proof.Machine.execUnknownCommand s
  | .resume ta => Sys2Proof.Machine.execResume ta s
  | .skip ta => Sys2Proof.Machine.execSkip ta s
  | .goto ta => Sys2Proof.Machine.execGoto ta s
  | .fcont ta => Sys2Proof.Machine.execFcont ta s
  | .killt ta => Sys2Proof.Machine.execKillt ta s
  | .killg ta => Sys2Proof.Machine.execKillg ta s
  | .killc ta => Sys2Proof.Machine.execKillc ta s
  | .replay ta => Sys2Proof.Machine.execReplay ta s
  | .abandon ta => Sys2Proof.Machine.execAbandon ta s
  | .grow ta => Sys2Proof.Machine.execGrow ta s
  | .fbclr ta => Sys2Proof.Machine.execFbclr ta s
  | .traceEnable => Sys2Proof.Machine.execTraceEnable s
  | .traceClear => Sys2Proof.Machine.execTraceClear s
  | .traceResume => Sys2Proof.Machine.execTraceResume s
  | .railPowerWrite die row value => Sys2Proof.Machine.execRailPowerWrite die row value s
  | .formatRegionWrite f => Sys2Proof.Machine.execFormatRegionWrite f s
  | .registerWrite addr n value => Sys2Proof.Machine.execRegisterWrite addr n value s
  | .peerMemAccess dev write pa bytes => Sys2Proof.Machine.execPeerMemAccess dev write pa bytes s
  | .lyongPortTraining port up => Sys2Proof.Machine.execLyongPortTraining port up s
  | .traceTailWrite value => Sys2Proof.Machine.execTraceTailWrite value s
  | .launchItemApproval win ok => Sys2Proof.Machine.execLaunchItemApproval win ok s
  | .add d a b => Sys2Proof.Machine.execAdd d a b s
  | .sub d a b => Sys2Proof.Machine.execSub d a b s
  | .mul d a b => Sys2Proof.Machine.execMul d a b s
  | .mulh d a b => Sys2Proof.Machine.execMulh d a b s
  | .mulhu d a b => Sys2Proof.Machine.execMulhu d a b s
  | .div d a b => Sys2Proof.Machine.execDiv d a b s
  | .divu d a b => Sys2Proof.Machine.execDivu d a b s
  | .rem d a b => Sys2Proof.Machine.execRem d a b s
  | .remu d a b => Sys2Proof.Machine.execRemu d a b s
  | .and d a b => Sys2Proof.Machine.execAnd d a b s
  | .or d a b => Sys2Proof.Machine.execOr d a b s
  | .xor d a b => Sys2Proof.Machine.execXor d a b s
  | .andn d a b => Sys2Proof.Machine.execAndn d a b s
  | .shl d a b => Sys2Proof.Machine.execShl d a b s
  | .shr d a b => Sys2Proof.Machine.execShr d a b s
  | .sra d a b => Sys2Proof.Machine.execSra d a b s
  | .rol d a b => Sys2Proof.Machine.execRol d a b s
  | .min d a b => Sys2Proof.Machine.execMin d a b s
  | .max d a b => Sys2Proof.Machine.execMax d a b s
  | .minu d a b => Sys2Proof.Machine.execMinu d a b s
  | .maxu d a b => Sys2Proof.Machine.execMaxu d a b s
  | .cmpEq d a b => Sys2Proof.Machine.execCmpEq d a b s
  | .cmpNe d a b => Sys2Proof.Machine.execCmpNe d a b s
  | .cmpLt d a b => Sys2Proof.Machine.execCmpLt d a b s
  | .cmpLtu d a b => Sys2Proof.Machine.execCmpLtu d a b s
  | .cmpGe d a b => Sys2Proof.Machine.execCmpGe d a b s
  | .cmpGeu d a b => Sys2Proof.Machine.execCmpGeu d a b s
  | .mov d a => Sys2Proof.Machine.execMov d a s
  | .clz d a => Sys2Proof.Machine.execClz d a s
  | .ctz d a => Sys2Proof.Machine.execCtz d a s
  | .popc d a => Sys2Proof.Machine.execPopc d a s
  | .sextB d a => Sys2Proof.Machine.execSextB d a s
  | .sextH d a => Sys2Proof.Machine.execSextH d a s
  | .sextW d a => Sys2Proof.Machine.execSextW d a s
  | .zextB d a => Sys2Proof.Machine.execZextB d a s
  | .zextH d a => Sys2Proof.Machine.execZextH d a s
  | .zextW d a => Sys2Proof.Machine.execZextW d a s
  | .not d a => Sys2Proof.Machine.execNot d a s
  | .brev d a => Sys2Proof.Machine.execBrev d a s
  | .take d a => Sys2Proof.Machine.execTake d a s
  | .ptest d a => Sys2Proof.Machine.execPtest d a s
  | .pempty a => Sys2Proof.Machine.execPempty a s
  | .addi d a imm => Sys2Proof.Machine.execAddi d a imm s
  | .andi d a imm => Sys2Proof.Machine.execAndi d a imm s
  | .ori d a imm => Sys2Proof.Machine.execOri d a imm s
  | .xori d a imm => Sys2Proof.Machine.execXori d a imm s
  | .shli d a imm => Sys2Proof.Machine.execShli d a imm s
  | .shri d a imm => Sys2Proof.Machine.execShri d a imm s
  | .srai d a imm => Sys2Proof.Machine.execSrai d a imm s
  | .cmpiEq d a imm => Sys2Proof.Machine.execCmpiEq d a imm s
  | .cmpiLt d a imm => Sys2Proof.Machine.execCmpiLt d a imm s
  | .cmpiLtu d a imm => Sys2Proof.Machine.execCmpiLtu d a imm s
  | .ldB d a imm => Sys2Proof.Machine.execLdB d a imm s
  | .ldH d a imm => Sys2Proof.Machine.execLdH d a imm s
  | .ldW d a imm => Sys2Proof.Machine.execLdW d a imm s
  | .ldD d a imm => Sys2Proof.Machine.execLdD d a imm s
  | .ldsB d a imm => Sys2Proof.Machine.execLdsB d a imm s
  | .ldsH d a imm => Sys2Proof.Machine.execLdsH d a imm s
  | .ldsW d a imm => Sys2Proof.Machine.execLdsW d a imm s
  | .stB d a imm => Sys2Proof.Machine.execStB d a imm s
  | .stH d a imm => Sys2Proof.Machine.execStH d a imm s
  | .stW d a imm => Sys2Proof.Machine.execStW d a imm s
  | .stD d a imm => Sys2Proof.Machine.execStD d a imm s
  | .beq a b off => Sys2Proof.Machine.execBeq a b off s
  | .bne a b off => Sys2Proof.Machine.execBne a b off s
  | .blt a b off => Sys2Proof.Machine.execBlt a b off s
  | .bltu a b off => Sys2Proof.Machine.execBltu a b off s
  | .bge a b off => Sys2Proof.Machine.execBge a b off s
  | .bgeu a b off => Sys2Proof.Machine.execBgeu a b off s
  | .br off => Sys2Proof.Machine.execBr off s
  | .call off => Sys2Proof.Machine.execCall off s
  | .jr d a => Sys2Proof.Machine.execJr d a s
  | .dbnz a off => Sys2Proof.Machine.execDbnz a off s
  | .endTask => Sys2Proof.Machine.execEndTask s
  | .vadd d a b ty => Sys2Proof.Machine.execVadd d a b ty s
  | .vsub d a b ty => Sys2Proof.Machine.execVsub d a b ty s
  | .vmul d a b ty => Sys2Proof.Machine.execVmul d a b ty s
  | .vmin d a b ty => Sys2Proof.Machine.execVmin d a b ty s
  | .vmax d a b ty => Sys2Proof.Machine.execVmax d a b ty s
  | .vand d a b ty => Sys2Proof.Machine.execVand d a b ty s
  | .vor d a b ty => Sys2Proof.Machine.execVor d a b ty s
  | .vxor d a b ty => Sys2Proof.Machine.execVxor d a b ty s
  | .spliceWord idx ha hb hc hd => Sys2Proof.Machine.execSpliceWord idx ha hb hc hd s
  | .illegalWord => Sys2Proof.Machine.execIllegalWord s

end Sys2Proof.Machine
end

