-- ==== Sys2Proof/Machine/Moves.lean ====
section
/-! DEFINITION. The moves of the machine: what may happen next, the choice among it (log 3), the start of a move, and
the time that passes with it (log 4). -/

namespace Sys2Proof.Machine

/-- A move: an event of the agenda, an act that the machine's state calls for, or a slot's turn. -/
inductive Move where
  | event (n : Nat)
  | act (i : Instr)
  | run (ta : Nat)
  deriving DecidableEq, Repr

/-! ## What holds a context or a slot -/

/-- A slot is held: its context is quiesced, or under a debug stop, in which a running activation still runs to its end
(R348, R367). -/
def State.slotHeld (s : State) (ta : Nat) (sl : Slot) : Bool :=
  s.isQuiesced sl.ctx || (!taHnd ta && s.trace.stop.contains sl.ctx)

/-- Whether a slot's turn may come: it runs, it is no partner of a pair, and it does not wait at BUDGET 0 (R344). -/
def State.mayRun (s : State) (ta : Nat) : Bool :=
  let sl := s.slot ta
  sl.st == .running && sl.partner.isNone && !s.slotHeld ta sl && !(sl.budget == 0 && s.stopWaits ta)

/-! ## Events of the agenda -/

/-- Whether an event may be taken, by the events before it: what the spec keeps in order stays in order (R101, R256,
R259, R297, R366), and what has a time waits for it (R288). -/
def State.eligible (s : State) (before : List Instr) : Instr → Bool
  | .rxfull core => (s.slot (hndOf core)).st == .idle
  | .remoteWriteArrival w => !before.any (isMail w.sender w.ta)
  | .strandStopperArrival c e =>
    !before.any fun j => match j with
      | .strandItemArrival c' e' _ => c' == c && e' == e
      | .strandMoveRequest c' e' _ => c' == c && e' == e
      | .strandStopperArrival c' e' => c' == c && e' == e
      | _ => false
  | .sfReply t _ _ _ _ => !before.any fun j => match j with | .sfReply t' _ _ _ _ => t'.uid == t.uid | _ => false
  | .traceRecord _ _ => !before.any fun j => match j with | .traceRecord _ _ => true | _ => false
  | .settleCertify c g _ =>
    (match s.region? (regionKey c g) with
     | some r => r.state != 2 || decide (r.start + imgTau r.image * imgHold r.image ≤ s.time)
     | none => true)
  | .settleTimeout c g _ =>
    (match s.region? (regionKey c g) with
     | some r => r.state != 2 || decide (r.start + imgTau r.image * imgTmo r.image ≤ s.time)
     | none => true)
  | .atomicAtHome r => !(s.replayHolds r && s.replay.waits.any fun p => p.1 == r.key)
  | .faultService p => !s.isQuiesced p.ctxn
  | .activationRedelivery core =>
    (match (s.slot (hndOf core)).trigger with
     | some m => !s.isQuiesced m.ctx && !s.trace.stop.contains m.ctx
     | none => true)
  | _ => true

/-- What goes on while the clocks of the compute dies are gated (R390; log 22). -/
def worksHot : Instr → Bool
  | .thermalResume => true
  | .thermalEmergency => true
  | .collectiveWatchdog _ _ _ => true
  | .collectiveAbort _ _ _ => true
  | .powerOnReset => true
  | .registerWrite _ _ _ => true
  | .svcCreditWrite _ => true
  | .spdmRequest _ => true
  | .launchItemApproval _ _ => true
  | .lyongPortTraining _ _ => true
  | .deviceLostTimeout _ => true
  | .controlInterval _ => true
  | .errorDetected _ => true
  | .retireGo _ => true
  | .retireSwitch _ => true
  | _ => false

/-- The events that may be taken, by their places. -/
def State.eventMoves (s : State) : List Instr → List Instr → Nat → List Move
  | _, [], _ => []
  | before, i :: rest, n =>
    let l := s.eventMoves (before ++ [i]) rest (n + 1)
    if s.eligible before i && (!s.ras.hot || worksHot i) then .event n :: l else l

/-! ## Acts that the state calls for -/

/-- Deadlines that are due, of slots and of saved tasks (R294 to R296). -/
noncomputable def State.dueDeadlines (s : State) : List Instr :=
  let due (sl : Slot) : Bool :=
    decide (sl.dline ≠ 0) && decide (sl.dline.toNat ≤ s.time) && sl.st != .idle
  ((s.slots.filter fun p => due p.2).map fun p => Instr.deadlineFire p.1) ++
    (s.parked.filter fun p => due p.2).map fun p => Instr.deadlineFire (65536 + p.1)

/-- The cores that may have a record to start: those with records, and every core of a die that overflows. -/
def State.startCores (s : State) : List Nat :=
  ((s.cores.filter fun p => !(p.2.urgent.isEmpty && p.2.normal.isEmpty)).map Prod.fst) ++
    (s.dies.filter fun p => !p.2.overflow.isEmpty).flatMap fun p => (List.range 2048).map fun i => p.1 * 2048 + i

/-- Starts of loose tasks (R169). -/
noncomputable def State.startActs (s : State) : List Instr :=
  (s.startCores.filter fun c => match s.nextWork c with | some w => (s.startOn c w).isSome | none => false).map fun c =>
    Instr.taskStart c

/-- Steals: a core with nothing of its own and a free slot, from a victim of its nearest tier (R169). -/
noncomputable def State.stealActs (s : State) : List Instr :=
  ((s.cores.filter fun p => (s.bottom p.1).isSome).map fun p => p.1 / 2048).eraseDups.flatMap fun d =>
    (List.range 2048).flatMap fun i =>
      let c := d * 2048 + i
      if (s.nextWork c).isSome || (s.looseSlot c false).isNone then []
      else (s.victims c).map fun v => Instr.taskSteal c v

noncomputable def State.resumeActs (s : State) : List Instr :=
  (s.units.filter fun u => u.stopped && s.canResume u).map fun u => Instr.unitResume u.ctx u.addr

/-- Placements and reservations (R170, R171); a stopped unit of the die that can resume goes first (R346). -/
noncomputable def State.placeActs (s : State) : List Instr :=
  (s.dies.filter fun p => !p.2.placer.isEmpty).flatMap fun p =>
    (if (s.units.any fun u => u.stopped && u.die == p.1 && s.canResume u) then [] else [Instr.gangPlace p.1]) ++
      (if p.2.reserved.isNone then [Instr.gangAgingReserve p.1] else [])

/-- Activations that may start (R219); a debug stop starts none (R367). -/
noncomputable def State.handlerActs (s : State) : List Instr :=
  (s.cores.filter fun p =>
    match s.nextMsg p.1 with
    | some m => s.hndFree p.1 && decide (m.pos < 64) && !s.trace.stop.contains m.ctx && !s.isQuiesced m.ctx
    | none => false).map fun p => Instr.handlerActivationStart p.1

/-- Items of launch windows that may be taken (R319). -/
def State.launchActs (s : State) : List Instr :=
  (s.host.wins.filter fun p => s.itemReady p.1).map fun p => Instr.launchItemAccept p.1

/-- Collectives whose 1 ms has passed before they committed (R245). -/
def State.watchdogActs (s : State) : List Instr :=
  s.engines.flatMap fun p => p.2.ops.filterMap fun o =>
    match o.coll with
    | some c => if o.st = 1 ∧ c.since + 1000000 ≤ s.time then some (.collectiveWatchdog o.ctx c.grp c.op) else none
    | none => none

/-- Collectives whose contributions are all there: every member issues on this device (R245). -/
noncomputable def State.commitActs (s : State) : List Instr :=
  s.engines.flatMap fun p => p.2.ops.filterMap fun o =>
    match o.coll, s.ctx o.ctx with
    | some c, some x =>
      match s.groupOf x c.grp with
      | some members =>
        if o.st = 1 ∧ (s.collParts o.ctx c.grp c.op [] members).isSome then some (Instr.collectiveCommit o.ctx c.grp c.op []) else none
      | none => none
    | _, _ => none

/-- Acts of the controllers: waking, the control intervals of 10 us, the link grid, and replay's 1 ms (R362, R370, R383,
R387). -/
noncomputable def State.controlActs (s : State) : List Instr :=
  (s.ras.gated.map fun k => Instr.quadWakeTest (k / 1024) (k % 1024) []) ++
    (if !s.ras.rows.isEmpty && decide (s.ras.interval < s.time / 10000) then
      [Instr.controlInterval ((s.ras.rows.map Prod.fst).filter fun r => Config.freeFlag s.ctr (1000 + r))] else []) ++
    (if s.grid.ivl ≠ 0 ∧ s.grid.nsnap ≠ 0 ∧ s.grid.last + 1000 * s.grid.ivl ≤ s.time then [Instr.linkGridSnapshot] else []) ++
    (s.replay.waits.filter fun p => decide (p.2 + 1000000 ≤ s.time)).map fun p => Instr.replayEnforceTimeout p.1

/-- Every act that the state calls for. -/
noncomputable def State.acts (s : State) : List Instr :=
  if s.ras.hot then s.watchdogActs
  else
    s.dueDeadlines ++ s.startActs ++ s.stealActs ++ s.resumeActs ++ s.placeActs ++ s.handlerActs ++ s.launchActs ++
      s.commitActs ++ s.watchdogActs ++ s.controlActs

/-! ## The choice -/

/-- The turns that may come (R168; log 3). -/
def State.turns (s : State) : List Nat := if s.ras.hot then [] else (s.slots.filter fun p => s.mayRun p.1).map Prod.fst

/-- Every move that may come next. -/
noncomputable def State.moves (s : State) : List Move :=
  s.eventMoves [] s.agenda 0 ++ (s.acts.map Move.act ++ s.turns.map Move.run)

/-- The next move: where there is more than one, any of them (log 3). -/
noncomputable def State.choose (s : State) : Option Move :=
  match s.moves with
  | [] => none
  | [m] => some m
  | ms => ms[Config.freeChoice s.ctr % ms.length]?

/-! ## The start of a move -/

/-- What happens at an instruction boundary instead of the next instruction: the diversion of a deadline, the trap of a
failed copy, or the end of the budget (R238, R294, R344). An instruction whose message has gone is finished first. -/
noncomputable def State.boundary (s : State) (ta : Nat) : Option Instr :=
  let sl := s.slot ta
  if sl.sent then none
  else if sl.dlpend then some (.deadlineDiversion ta)
  else if sl.copTrap ≠ [] then some (.copyTrap ta)
  else if sl.budget = 0 then some (.budgetExpiry ta)
  else none

/-- The slot shows the instruction at its PC, as far as it can be fetched. -/
def State.showNext (s : State) (ta : Nat) : State :=
  match s.fetchPc ta with
  | (s, .ok ws) => s.modSlot ta fun sl => sl.showWords ws ws.length
  | (s, .bad _ _ _) => s.modSlot ta fun sl => sl.showWords [] 0

/-- A slot's turn: the event of its boundary, or the instruction at its PC; none when its fetch has faulted. -/
noncomputable def State.turn (s : State) (ta : Nat) : State × Option Instr :=
  match s.boundary ta with
  | some i => (({ s with cur := ta } : State).showNext ta, some i)
  | none => s.reach ta

/-- The state in which a move's instruction or event executes, and which it is. -/
noncomputable def State.begin_ (s : State) : Move → State × Option Instr
  | .event n => ({ s with agenda := s.agenda.eraseIdx n }, s.agenda[n]?)
  | .act i => (s, some i)
  | .run ta => s.turn ta

/-! ## Time (log 4) -/

/-- The cycles that pass in a core with this move; none while its clock is gated (R390). -/
def State.cycles (s : State) (core : Nat) : Nat := if s.ras.hot then 0 else Config.freeCycles s.ctr core

/-- Whether a slot stalls while quads move: it is of one of them, or of a gang that holds one (R35, R391). -/
def State.stalls (s : State) (quads : List Nat) (ta : Nat) : Bool :=
  quads.any fun q => taQuad ta == q || (match s.unitOf ta with | some u => u.quads.contains q | none => false)

/-- A slot's BUDGET counts while it runs, is not held and does not stall for a thermal move (R35, R367). -/
def State.spend (s : State) (quads : List Nat) (ta : Nat) (sl : Slot) : Slot :=
  if sl.st = .running ∧ sl.partner.isNone ∧ s.slotHeld ta sl = false ∧ s.stalls quads ta = false then
    { sl with budget := sl.budget - s.cycles (taCore ta) } else sl

/-- The events that count cycles in which a slot was blocked or starved; how many of them is not modelled (R353; log
4). -/
def stallEvents : List Nat := [8, 14, 25, 26, 29]

/-- The cycles of an event that a counter counts with this move. CYCLES counts once for a context (R353). -/
def State.ticks (s : State) (core : Nat) (p : PmCounter) : Nat :=
  let ev := slice p.cfg 0 6
  let mine := (slotsOf core).filter fun ta => (s.slot ta).st != .idle && p.counts (s.slot ta) ev
  let n := s.cycles core
  if ev = 0 then (if mine.isEmpty then 0 else n)
  else if stallEvents.contains ev then
    (mine.map fun ta => Config.freeCycles s.ctr (65536 + 64 * ta + ev) % (n + 1)).foldl (· + ·) 0
  else 0

/-- The counters of a core after a move. -/
def State.tickCore (s : State) (core : Nat) (c : CoreSt) : CoreSt :=
  if c.pmc.any fun p => bit p.cfg 9 then
    { c with pmc := c.pmc.map fun (p : PmCounter) => if bit p.cfg 9 then { p with count := satAdd64 p.count (s.ticks core p) } else p }
  else c

/-- What the host and peer devices write in their own memory (R312, R321; log 16). -/
def State.outsideMem (s : State) : List Host.Cell :=
  (Config.freeOutside s.ctr).foldl (fun (m : List Host.Cell) x => if 2 * 2 ^ 64 ≤ x.1 then Memory.set m x.1 x.2 else m) s.mem

/-- Time passes while quads move: TIME, budgets and counters advance, memory outside may change, and the next free values are
drawn. -/
def State.elapseOver (s : State) (quads : List Nat) : State :=
  { s with
    ctr := s.ctr + 1
    time := s.time + Config.freeNs s.ctr
    mem := s.outsideMem
    slots := s.slots.map fun (p : Nat × Slot) => (p.1, s.spend quads p.1 p.2)
    cores := s.cores.map fun (p : Nat × CoreSt) => (p.1, s.tickCore p.1 p.2) }

/-- Time passes. -/
def State.elapse (s : State) : State := s.elapseOver []

/-! ## The end of a move -/

/-- The quads that an event has moved (R391). -/
def State.movedQuads (s t : State) : Move → List Nat
  | .event _ => (t.ras.moved.filter fun p => !s.ras.moved.contains p).map Prod.fst
  | _ => []

/-- Whether a slot's turn held an exchange of a lashed pair: the rollback point has moved (R379). -/
def State.exchanged (s t : State) (ta : Nat) : Bool :=
  let sl := s.slot ta
  sl.paired && Store.get {} t.agreed sl.uid != (Store.get {} s.agreed sl.uid : Slot)

/-- After a turn: where the pair's CRCs disagreed at its exchange, the rollback stands in its place (R380; log 13); the
slot decodes ahead (log 7). -/
def State.settleTurn (s t : State) : Move → State
  | .run ta => (if s.exchanged t ta && !Config.freeFlag s.ctr 30 then s.rollback ta else t).decodeAhead ta
  | _ => t

/-- The state that a move leaves: `t` is what its instruction or event left. -/
def State.finish (s t : State) (m : Move) : State := (s.settleTurn t m).elapseOver (s.movedQuads t m)

/-! ## Placing an instruction (log 6) -/

/-- The bytes of the instruction whose low nbits bits are those of w, up to the longest instruction. -/
def placeBytes (nbits w : Nat) : List Byte := bytesOfWords (tableWords nbits w)

/-- A loose task on slot 0 whose first instruction lies at the bottom of its share. -/
def placedUnit : UnitSt :=
  { ctx := 0, addr := 0, task := { pc := localAddr 0, budget := 200000000 }, qlmLen := 16384, members := [⟨0, 0, 1, false⟩] }

/-- The machine with that task alone, and the instruction in its share: nothing else can move. -/
def State.placed (s : State) (nbits w : Nat) : State :=
  let s := { s with
    mem := Memory.write s.mem (qlmKey 0 0) (placeBytes nbits w), agenda := [], parked := [], cores := [], dies := [], units := [placedUnit]
    engines := [], host := { s.host with wins := [] }, trace := { s.trace with stop := [] }, grid := { s.grid with ivl := 0 }
    replay := { s.replay with waits := [] }, ras := { s.ras with hot := false, gated := [], rows := [] }
    ctxs := s.ctxs.filter fun p => p.1 != 0, nextUid := Nat.max s.nextUid 2 }
  { s with slots := [(0, s.taskSlot placedUnit ⟨0, 0, 1, false⟩ (tcoordOf 1 0 0 0) (localAddr 16384))] }

end Sys2Proof.Machine
end

