-- ==== Sys2Proof/Machine/Step.lean ====
section
/-! DEFINITION. One step: a move is chosen, its instruction or event executes, and time passes. -/

namespace Sys2Proof.Machine

/-- One step of the machine (log 3): with no move, time passes. -/
noncomputable def step (s : State) : Host.Outcome State Fault Refusal :=
  match s.choose with
  | none => .next s.elapse
  | some m =>
    match s.begin_ m with
    | (s', none) => .next (s.finish s' m)
    | (s', some i) =>
      match exec i s' with
      | .next t => .next (s.finish t m)
      | .fault r => .fault r
      | .refused r => .refused r

/-- The machine with an instruction placed where the next step fetches it (log 6). -/
def State.withFetchWord (s : State) (nbits w : Nat) : State := s.placed nbits w

end Sys2Proof.Machine
end

