-- ==== Sys2Proof/Laws/Decode.lean ====
section
/-! SUPPORT. Laws of the encoder and the decoder: each code field, each layout and each operand form read back. -/

namespace Sys2Proof

/-! ## Code fields -/

@[simp] theorem tyOf_tyCode (t : Ty) : tyOf (tyCode t) = some t := by cases t <;> rfl
@[simp] theorem rmOf_rmCode (r : Rm) : rmOf (rmCode r) = some r := by cases r <;> rfl
@[simp] theorem scOf_scCode (s : Scope) : scOf (scCode s) = some s := by cases s <;> rfl
@[simp] theorem hintOf_hintCode (h : Hint) : hintOf (hintCode h) = h := by cases h <;> rfl
@[simp] theorem mmaOf_mmaCode (f : MmaFmt) : mmaOf (mmaCode f) = some f := by cases f <;> rfl
@[simp] theorem accTyOf_accTyCode (t : AccTy) : accTyOf (accTyCode t) = some t := by cases t <;> rfl
@[simp] theorem presOf_presCode (p : Presence) : presOf ((presCode p).setWidth 32 |>.setWidth 2) = some p := by
  cases p <;> rfl
@[simp] theorem presOf_presCode' (p : Presence) : presOf (presCode p) = some p := by cases p <;> rfl
@[simp] theorem tyOf_cvt (b : Bool) (t : Ty) : tyOf ((BitVec.ofBool b ++ tyCode t).setWidth 4) = some t := by
  cases b <;> cases t <;> rfl
@[simp] theorem sat_cvt (b : Bool) (t : Ty) : (BitVec.ofBool b ++ tyCode t)[4] = b := by cases b <;> cases t <;> rfl
@[simp] theorem tyOf_tyCode5 (t : Ty) : tyOf (((tyCode t).setWidth 5).setWidth 4) = some t := by cases t <;> rfl

/-! ## Register fields (R45) -/

@[simp] theorem fv_vf (v : VReg) : fv (vf v) = v := by unfold fv vf; ext i hi; simp
@[simp] theorem fa_af (a : AReg) : fa (af a) = a := by unfold fa af; ext i hi; simp
@[simp] theorem fk_kf (k : KReg) : fk (kf k) = k := by unfold fk kf; ext i hi; simp

/-- A narrower field survives being widened and narrowed again. -/
@[simp] theorem setWidth_back {m n : Nat} (x : BitVec m) (h : m ≤ n) : (x.setWidth n).setWidth m = x := by
  rw [BitVec.setWidth_setWidth_of_le _ h, BitVec.setWidth_eq]

/-! ## The pieces of q, pm and the constants -/

@[simp] theorem pmBits_a (a b c e : Bool) : (pmBits a b c e)[0] = a := by cases a <;> cases b <;> cases c <;> cases e <;> rfl
@[simp] theorem pmBits_b (a b c e : Bool) : (pmBits a b c e)[1] = b := by cases a <;> cases b <;> cases c <;> cases e <;> rfl
@[simp] theorem pmBits_c (a b c e : Bool) : (pmBits a b c e)[2] = c := by cases a <;> cases b <;> cases c <;> cases e <;> rfl
@[simp] theorem pmBits_e (a b c e : Bool) : (pmBits a b c e)[3] = e := by cases a <;> cases b <;> cases c <;> cases e <;> rfl

@[simp] theorem qXInt_rd (r i l : Bool) : (qXInt r i l)[4] = r := by cases r <;> cases i <;> cases l <;> rfl
@[simp] theorem qXInt_imm (r i l : Bool) : (qXInt r i l)[1] = i := by cases r <;> cases i <;> cases l <;> rfl
@[simp] theorem qXInt_lit (r i l : Bool) : (qXInt r i l)[0] = l := by cases r <;> cases i <;> cases l <;> rfl

@[simp] theorem qMem_rd (r l a : Bool) (h : Hint) : (qMem r l a h)[4] = r := by cases r <;> cases l <;> cases a <;> cases h <;> rfl
@[simp] theorem qMem_rl (r l a : Bool) (h : Hint) : (qMem r l a h)[3] = l := by cases r <;> cases l <;> cases a <;> cases h <;> rfl
@[simp] theorem qMem_aq (r l a : Bool) (h : Hint) : (qMem r l a h)[2] = a := by cases r <;> cases l <;> cases a <;> cases h <;> rfl
@[simp] theorem qMem_hint (r l a : Bool) (h : Hint) : hintOf ((qMem r l a h).extractLsb' 0 2) = h := by
  cases r <;> cases l <;> cases a <;> cases h <;> rfl

@[simp] theorem q0_bit (b : Bool) : (q0 b)[0] = b := by cases b <;> rfl
@[simp] theorem hintRm_hint (h : Hint) : hintOf ((hintRm h).setWidth 2) = h := by cases h <;> rfl
@[simp] theorem hint5 (h : Hint) : hintOf (((hintCode h).setWidth 5).extractLsb' 0 2) = h := by cases h <;> rfl

@[simp] theorem qMask_mask (m : VMask) :
    (⟨(qMask m)[3], (qMask m)[4], (qMask m).extractLsb' 0 3⟩ : VMask) = m := by
  obtain ⟨en, z, k⟩ := m
  unfold qMask
  simp only [VMask.mk.injEq]
  revert k
  cases en <;> cases z <;> decide

@[simp] theorem imm_ni (op : Nat) (d a : Reg) (i : BitVec 11) : (ni op d a i).imm = i := by
  unfold ni nf NFields.imm
  apply BitVec.eq_of_getLsbD_eq
  intro j hj
  rw [BitVec.getLsbD_append]
  split
  · next h => simp [h]
  · next h =>
    have h1 : j - 6 < 5 := by omega
    have h2 : 6 + (j - 6) = j := by omega
    simp [h1, h2]

@[simp] theorem off23_nj (op : Nat) (off : BitVec 23) : (nj op off).off23 = off := by
  unfold nj nf NFields.off23
  apply BitVec.eq_of_getLsbD_eq
  intro j hj
  rw [BitVec.getLsbD_append, BitVec.getLsbD_append, BitVec.getLsbD_append]
  split
  · next h => simp [h]
  · next h =>
    split
    · next h1 =>
      have h2 : 6 + (j - 6) = j := by omega
      simp [h1, h2]
    · next h1 =>
      split
      · next h2 =>
        have h3 : 12 + (j - 6 - 6) = j := by omega
        simp [h2, h3]
      · next h2 =>
        have h3 : 18 + (j - 6 - 6 - 6) = j := by omega
        have h4 : j - 6 - 6 - 6 < 5 := by omega
        simp [h3, h4]

/-! ## Layouts (R40, R44, R51) -/

/-- The bits of a part of a word that is put together from two parts. -/
theorem extract_low {m n : Nat} (x : BitVec m) (y : BitVec n) (i w : Nat) (h : i + w ≤ n) :
    (x ++ y).extractLsb' i w = y.extractLsb' i w := by
  apply BitVec.eq_of_getLsbD_eq
  intro j hj
  have h1 : i + j < n := by omega
  simp [hj, BitVec.getLsbD_append, h1]

theorem extract_high {m n : Nat} (x : BitVec m) (y : BitVec n) (i w : Nat) (h : n ≤ i) :
    (x ++ y).extractLsb' i w = x.extractLsb' (i - n) w := by
  apply BitVec.eq_of_getLsbD_eq
  intro j hj
  have h1 : ¬ i + j < n := by omega
  have h2 : i + j - n = i - n + j := by omega
  simp [hj, BitVec.getLsbD_append, h1, h2]

theorem extract_all {n : Nat} (x : BitVec n) : x.extractLsb' 0 n = x := by
  apply BitVec.eq_of_getLsbD_eq
  intro j hj
  simp [hj]

@[simp] theorem nfieldsOf_word (n : NFields) : nfieldsOf n.word = n := by
  obtain ⟨f, b, a, d, op⟩ := n
  simp only [nfieldsOf, NFields.word, NFields.mk.injEq]
  refine ⟨?_, ?_, ?_, ?_, ?_⟩ <;>
    repeat first
      | exact extract_all _
      | rw [extract_high _ _ _ _ (by decide)]
      | rw [extract_low _ _ _ _ (by decide)]

@[simp] theorem sfieldsOf_word (s : SFields) : sfieldsOf s.word = s := by
  obtain ⟨hd, hc, hb, ha, idx⟩ := s
  simp only [sfieldsOf, SFields.word, SFields.mk.injEq]
  refine ⟨?_, ?_, ?_, ?_, ?_⟩ <;>
    repeat first
      | exact extract_all _
      | rw [extract_high _ _ _ _ (by decide)]
      | rw [extract_low _ _ _ _ (by decide)]

@[simp] theorem xfieldsOf_words (x : XFields) : xfieldsOf x.word0 x.word1 x.imm x.lit = x := by
  obtain ⟨f, b, a, d, op, q, sc, rm, ty, pm, e, c, imm, lit⟩ := x
  simp only [xfieldsOf, XFields.word0, XFields.word1, XFields.mk.injEq, and_true]
  refine ⟨?_, ?_, ?_, ?_, ?_, ?_, ?_, ?_, ?_, ?_, ?_, ?_⟩ <;>
    repeat first
      | exact extract_all _
      | rw [extract_high _ _ _ _ (by decide)]
      | rw [extract_low _ _ _ _ (by decide)]

/-- The four shapes in which a part of a constant is read back. -/
theorem part0 {m n : Nat} (x : BitVec m) (y : BitVec n) : (x ++ y).extractLsb' 0 n = y :=
  (extract_low _ _ _ _ (by omega)).trans (extract_all _)
theorem part1 {l m n : Nat} (x : BitVec l) (y : BitVec m) (z : BitVec n) : ((x ++ y) ++ z).extractLsb' n m = y := by
  rw [extract_high _ _ _ _ (Nat.le_refl _), Nat.sub_self]
  exact part0 ..
theorem part2 {k l m n : Nat} (w : BitVec k) (x : BitVec l) (y : BitVec m) (z : BitVec n) :
    (((w ++ x) ++ y) ++ z).extractLsb' (n + m) l = x := by
  rw [extract_high _ _ _ _ (by omega), Nat.add_sub_cancel_left]
  exact part1 ..

theorem part_bit {k m n : Nat} (w : BitVec k) (b : Bool) (y : BitVec m) (z : BitVec n) :
    (((w ++ BitVec.ofBool b) ++ y) ++ z).getLsbD (n + m) = b := by
  have h1 : ¬ n + m < n := by omega
  have h2 : n + m - n = m := by omega
  rw [BitVec.getLsbD_append, if_neg h1, h2, BitVec.getLsbD_append, if_neg (by omega), Nat.sub_self, BitVec.getLsbD_append]
  cases b <;> rfl

/-- The length code of each form (R36). -/
theorem code_native (n : NFields) : n.word.extractLsb' 0 2 = 0 := extract_low _ _ 0 2 (by decide)
theorem code_splice (s : SFields) : s.word.extractLsb' 0 2 = 1 := extract_low _ _ 0 2 (by decide)
theorem code_ext (x : XFields) : x.word0.extractLsb' 0 2 = if x.lit.isSome then 3 else 2 := by
  unfold XFields.word0
  rw [extract_low _ _ 0 2 (by decide), extract_all]

end Sys2Proof
end

