-- ==== Sys2Proof/Laws/PerInstr.lean ====
section
/-! SUPPORT. The family RoundTrip: the fields that an instruction's encoding puts into its form pick that instruction
again, with every operand. One lemma per constructor; an event has no encoding. -/

set_option linter.unusedSimpArgs false

namespace Sys2Proof

/-- The instruction that the fields of a form pick. -/
noncomputable def Enc.pick : Enc → Option Instr
  | .native n => pickNative n
  | .splice s => some (.spliceWord s.idx s.ha s.hb s.hc s.hd)
  | .ext x => pickExt x

end Sys2Proof

/-- A well-formed instruction that has an encoding is picked again by its fields. -/
def Sys2Proof.Laws.RoundTrip.Statement (i : Sys2Proof.Instr) : Prop :=
  i.wf = true → ∀ e, i.enc = some e → e.pick = some i

namespace Sys2Proof.Laws

open Sys2Proof

theorem RoundTrip.addX (o : XInt) : RoundTrip.Statement (.addX o) := by
  intro hw e he
  obtain rfl := Option.some.inj he
  obtain ⟨dst, a, y⟩ := o
  change (XFields.y _).bind _ = _
  cases dst <;> cases y <;>
    simp [XFields.y, encXInt, XFields.srcA, XFields.srcB, XFields.srcC, XFields.srcE, xf, encG, noSrc, YOp.isImm, YOp.litWord, YOp.src, YOp.imm32, XFields.dst, Dst.isRem, Dst.field, Dst.e, pickXInt.pickY]
theorem RoundTrip.subX (o : XInt) : RoundTrip.Statement (.subX o) := by
  intro hw e he
  obtain rfl := Option.some.inj he
  obtain ⟨dst, a, y⟩ := o
  change (XFields.y _).bind _ = _
  cases dst <;> cases y <;>
    simp [XFields.y, encXInt, XFields.srcA, XFields.srcB, XFields.srcC, XFields.srcE, xf, encG, noSrc, YOp.isImm, YOp.litWord, YOp.src, YOp.imm32, XFields.dst, Dst.isRem, Dst.field, Dst.e, pickXInt.pickY]
theorem RoundTrip.mulX (o : XInt) : RoundTrip.Statement (.mulX o) := by
  intro hw e he
  obtain rfl := Option.some.inj he
  obtain ⟨dst, a, y⟩ := o
  change (XFields.y _).bind _ = _
  cases dst <;> cases y <;>
    simp [XFields.y, encXInt, XFields.srcA, XFields.srcB, XFields.srcC, XFields.srcE, xf, encG, noSrc, YOp.isImm, YOp.litWord, YOp.src, YOp.imm32, XFields.dst, Dst.isRem, Dst.field, Dst.e, pickXInt.pickY]
theorem RoundTrip.mulhX (o : XInt) : RoundTrip.Statement (.mulhX o) := by
  intro hw e he
  obtain rfl := Option.some.inj he
  obtain ⟨dst, a, y⟩ := o
  change (XFields.y _).bind _ = _
  cases dst <;> cases y <;>
    simp [XFields.y, encXInt, XFields.srcA, XFields.srcB, XFields.srcC, XFields.srcE, xf, encG, noSrc, YOp.isImm, YOp.litWord, YOp.src, YOp.imm32, XFields.dst, Dst.isRem, Dst.field, Dst.e, pickXInt.pickY]
theorem RoundTrip.mulhuX (o : XInt) : RoundTrip.Statement (.mulhuX o) := by
  intro hw e he
  obtain rfl := Option.some.inj he
  obtain ⟨dst, a, y⟩ := o
  change (XFields.y _).bind _ = _
  cases dst <;> cases y <;>
    simp [XFields.y, encXInt, XFields.srcA, XFields.srcB, XFields.srcC, XFields.srcE, xf, encG, noSrc, YOp.isImm, YOp.litWord, YOp.src, YOp.imm32, XFields.dst, Dst.isRem, Dst.field, Dst.e, pickXInt.pickY]
theorem RoundTrip.divX (o : XInt) : RoundTrip.Statement (.divX o) := by
  intro hw e he
  obtain rfl := Option.some.inj he
  obtain ⟨dst, a, y⟩ := o
  change (XFields.y _).bind _ = _
  cases dst <;> cases y <;>
    simp [XFields.y, encXInt, XFields.srcA, XFields.srcB, XFields.srcC, XFields.srcE, xf, encG, noSrc, YOp.isImm, YOp.litWord, YOp.src, YOp.imm32, XFields.dst, Dst.isRem, Dst.field, Dst.e, pickXInt.pickY]
theorem RoundTrip.divuX (o : XInt) : RoundTrip.Statement (.divuX o) := by
  intro hw e he
  obtain rfl := Option.some.inj he
  obtain ⟨dst, a, y⟩ := o
  change (XFields.y _).bind _ = _
  cases dst <;> cases y <;>
    simp [XFields.y, encXInt, XFields.srcA, XFields.srcB, XFields.srcC, XFields.srcE, xf, encG, noSrc, YOp.isImm, YOp.litWord, YOp.src, YOp.imm32, XFields.dst, Dst.isRem, Dst.field, Dst.e, pickXInt.pickY]
theorem RoundTrip.remX (o : XInt) : RoundTrip.Statement (.remX o) := by
  intro hw e he
  obtain rfl := Option.some.inj he
  obtain ⟨dst, a, y⟩ := o
  change (XFields.y _).bind _ = _
  cases dst <;> cases y <;>
    simp [XFields.y, encXInt, XFields.srcA, XFields.srcB, XFields.srcC, XFields.srcE, xf, encG, noSrc, YOp.isImm, YOp.litWord, YOp.src, YOp.imm32, XFields.dst, Dst.isRem, Dst.field, Dst.e, pickXInt.pickY]
theorem RoundTrip.remuX (o : XInt) : RoundTrip.Statement (.remuX o) := by
  intro hw e he
  obtain rfl := Option.some.inj he
  obtain ⟨dst, a, y⟩ := o
  change (XFields.y _).bind _ = _
  cases dst <;> cases y <;>
    simp [XFields.y, encXInt, XFields.srcA, XFields.srcB, XFields.srcC, XFields.srcE, xf, encG, noSrc, YOp.isImm, YOp.litWord, YOp.src, YOp.imm32, XFields.dst, Dst.isRem, Dst.field, Dst.e, pickXInt.pickY]
theorem RoundTrip.andX (o : XInt) : RoundTrip.Statement (.andX o) := by
  intro hw e he
  obtain rfl := Option.some.inj he
  obtain ⟨dst, a, y⟩ := o
  change (XFields.y _).bind _ = _
  cases dst <;> cases y <;>
    simp [XFields.y, encXInt, XFields.srcA, XFields.srcB, XFields.srcC, XFields.srcE, xf, encG, noSrc, YOp.isImm, YOp.litWord, YOp.src, YOp.imm32, XFields.dst, Dst.isRem, Dst.field, Dst.e, pickXInt.pickY]
theorem RoundTrip.orX (o : XInt) : RoundTrip.Statement (.orX o) := by
  intro hw e he
  obtain rfl := Option.some.inj he
  obtain ⟨dst, a, y⟩ := o
  change (XFields.y _).bind _ = _
  cases dst <;> cases y <;>
    simp [XFields.y, encXInt, XFields.srcA, XFields.srcB, XFields.srcC, XFields.srcE, xf, encG, noSrc, YOp.isImm, YOp.litWord, YOp.src, YOp.imm32, XFields.dst, Dst.isRem, Dst.field, Dst.e, pickXInt.pickY]
theorem RoundTrip.xorX (o : XInt) : RoundTrip.Statement (.xorX o) := by
  intro hw e he
  obtain rfl := Option.some.inj he
  obtain ⟨dst, a, y⟩ := o
  change (XFields.y _).bind _ = _
  cases dst <;> cases y <;>
    simp [XFields.y, encXInt, XFields.srcA, XFields.srcB, XFields.srcC, XFields.srcE, xf, encG, noSrc, YOp.isImm, YOp.litWord, YOp.src, YOp.imm32, XFields.dst, Dst.isRem, Dst.field, Dst.e, pickXInt.pickY]
theorem RoundTrip.andnX (o : XInt) : RoundTrip.Statement (.andnX o) := by
  intro hw e he
  obtain rfl := Option.some.inj he
  obtain ⟨dst, a, y⟩ := o
  change (XFields.y _).bind _ = _
  cases dst <;> cases y <;>
    simp [XFields.y, encXInt, XFields.srcA, XFields.srcB, XFields.srcC, XFields.srcE, xf, encG, noSrc, YOp.isImm, YOp.litWord, YOp.src, YOp.imm32, XFields.dst, Dst.isRem, Dst.field, Dst.e, pickXInt.pickY]
theorem RoundTrip.shlX (o : XInt) : RoundTrip.Statement (.shlX o) := by
  intro hw e he
  obtain rfl := Option.some.inj he
  obtain ⟨dst, a, y⟩ := o
  change (XFields.y _).bind _ = _
  cases dst <;> cases y <;>
    simp [XFields.y, encXInt, XFields.srcA, XFields.srcB, XFields.srcC, XFields.srcE, xf, encG, noSrc, YOp.isImm, YOp.litWord, YOp.src, YOp.imm32, XFields.dst, Dst.isRem, Dst.field, Dst.e, pickXInt.pickY]
theorem RoundTrip.shrX (o : XInt) : RoundTrip.Statement (.shrX o) := by
  intro hw e he
  obtain rfl := Option.some.inj he
  obtain ⟨dst, a, y⟩ := o
  change (XFields.y _).bind _ = _
  cases dst <;> cases y <;>
    simp [XFields.y, encXInt, XFields.srcA, XFields.srcB, XFields.srcC, XFields.srcE, xf, encG, noSrc, YOp.isImm, YOp.litWord, YOp.src, YOp.imm32, XFields.dst, Dst.isRem, Dst.field, Dst.e, pickXInt.pickY]
theorem RoundTrip.sraX (o : XInt) : RoundTrip.Statement (.sraX o) := by
  intro hw e he
  obtain rfl := Option.some.inj he
  obtain ⟨dst, a, y⟩ := o
  change (XFields.y _).bind _ = _
  cases dst <;> cases y <;>
    simp [XFields.y, encXInt, XFields.srcA, XFields.srcB, XFields.srcC, XFields.srcE, xf, encG, noSrc, YOp.isImm, YOp.litWord, YOp.src, YOp.imm32, XFields.dst, Dst.isRem, Dst.field, Dst.e, pickXInt.pickY]
theorem RoundTrip.rolX (o : XInt) : RoundTrip.Statement (.rolX o) := by
  intro hw e he
  obtain rfl := Option.some.inj he
  obtain ⟨dst, a, y⟩ := o
  change (XFields.y _).bind _ = _
  cases dst <;> cases y <;>
    simp [XFields.y, encXInt, XFields.srcA, XFields.srcB, XFields.srcC, XFields.srcE, xf, encG, noSrc, YOp.isImm, YOp.litWord, YOp.src, YOp.imm32, XFields.dst, Dst.isRem, Dst.field, Dst.e, pickXInt.pickY]
theorem RoundTrip.minX (o : XInt) : RoundTrip.Statement (.minX o) := by
  intro hw e he
  obtain rfl := Option.some.inj he
  obtain ⟨dst, a, y⟩ := o
  change (XFields.y _).bind _ = _
  cases dst <;> cases y <;>
    simp [XFields.y, encXInt, XFields.srcA, XFields.srcB, XFields.srcC, XFields.srcE, xf, encG, noSrc, YOp.isImm, YOp.litWord, YOp.src, YOp.imm32, XFields.dst, Dst.isRem, Dst.field, Dst.e, pickXInt.pickY]
theorem RoundTrip.maxX (o : XInt) : RoundTrip.Statement (.maxX o) := by
  intro hw e he
  obtain rfl := Option.some.inj he
  obtain ⟨dst, a, y⟩ := o
  change (XFields.y _).bind _ = _
  cases dst <;> cases y <;>
    simp [XFields.y, encXInt, XFields.srcA, XFields.srcB, XFields.srcC, XFields.srcE, xf, encG, noSrc, YOp.isImm, YOp.litWord, YOp.src, YOp.imm32, XFields.dst, Dst.isRem, Dst.field, Dst.e, pickXInt.pickY]
theorem RoundTrip.minuX (o : XInt) : RoundTrip.Statement (.minuX o) := by
  intro hw e he
  obtain rfl := Option.some.inj he
  obtain ⟨dst, a, y⟩ := o
  change (XFields.y _).bind _ = _
  cases dst <;> cases y <;>
    simp [XFields.y, encXInt, XFields.srcA, XFields.srcB, XFields.srcC, XFields.srcE, xf, encG, noSrc, YOp.isImm, YOp.litWord, YOp.src, YOp.imm32, XFields.dst, Dst.isRem, Dst.field, Dst.e, pickXInt.pickY]
theorem RoundTrip.maxuX (o : XInt) : RoundTrip.Statement (.maxuX o) := by
  intro hw e he
  obtain rfl := Option.some.inj he
  obtain ⟨dst, a, y⟩ := o
  change (XFields.y _).bind _ = _
  cases dst <;> cases y <;>
    simp [XFields.y, encXInt, XFields.srcA, XFields.srcB, XFields.srcC, XFields.srcE, xf, encG, noSrc, YOp.isImm, YOp.litWord, YOp.src, YOp.imm32, XFields.dst, Dst.isRem, Dst.field, Dst.e, pickXInt.pickY]
theorem RoundTrip.cmpEqX (o : XInt) : RoundTrip.Statement (.cmpEqX o) := by
  intro hw e he
  obtain rfl := Option.some.inj he
  obtain ⟨dst, a, y⟩ := o
  change (XFields.y _).bind _ = _
  cases dst <;> cases y <;>
    simp [XFields.y, encXInt, XFields.srcA, XFields.srcB, XFields.srcC, XFields.srcE, xf, encG, noSrc, YOp.isImm, YOp.litWord, YOp.src, YOp.imm32, XFields.dst, Dst.isRem, Dst.field, Dst.e, pickXInt.pickY]
theorem RoundTrip.cmpNeX (o : XInt) : RoundTrip.Statement (.cmpNeX o) := by
  intro hw e he
  obtain rfl := Option.some.inj he
  obtain ⟨dst, a, y⟩ := o
  change (XFields.y _).bind _ = _
  cases dst <;> cases y <;>
    simp [XFields.y, encXInt, XFields.srcA, XFields.srcB, XFields.srcC, XFields.srcE, xf, encG, noSrc, YOp.isImm, YOp.litWord, YOp.src, YOp.imm32, XFields.dst, Dst.isRem, Dst.field, Dst.e, pickXInt.pickY]
theorem RoundTrip.cmpLtX (o : XInt) : RoundTrip.Statement (.cmpLtX o) := by
  intro hw e he
  obtain rfl := Option.some.inj he
  obtain ⟨dst, a, y⟩ := o
  change (XFields.y _).bind _ = _
  cases dst <;> cases y <;>
    simp [XFields.y, encXInt, XFields.srcA, XFields.srcB, XFields.srcC, XFields.srcE, xf, encG, noSrc, YOp.isImm, YOp.litWord, YOp.src, YOp.imm32, XFields.dst, Dst.isRem, Dst.field, Dst.e, pickXInt.pickY]
theorem RoundTrip.cmpLtuX (o : XInt) : RoundTrip.Statement (.cmpLtuX o) := by
  intro hw e he
  obtain rfl := Option.some.inj he
  obtain ⟨dst, a, y⟩ := o
  change (XFields.y _).bind _ = _
  cases dst <;> cases y <;>
    simp [XFields.y, encXInt, XFields.srcA, XFields.srcB, XFields.srcC, XFields.srcE, xf, encG, noSrc, YOp.isImm, YOp.litWord, YOp.src, YOp.imm32, XFields.dst, Dst.isRem, Dst.field, Dst.e, pickXInt.pickY]
theorem RoundTrip.cmpGeX (o : XInt) : RoundTrip.Statement (.cmpGeX o) := by
  intro hw e he
  obtain rfl := Option.some.inj he
  obtain ⟨dst, a, y⟩ := o
  change (XFields.y _).bind _ = _
  cases dst <;> cases y <;>
    simp [XFields.y, encXInt, XFields.srcA, XFields.srcB, XFields.srcC, XFields.srcE, xf, encG, noSrc, YOp.isImm, YOp.litWord, YOp.src, YOp.imm32, XFields.dst, Dst.isRem, Dst.field, Dst.e, pickXInt.pickY]
theorem RoundTrip.cmpGeuX (o : XInt) : RoundTrip.Statement (.cmpGeuX o) := by
  intro hw e he
  obtain rfl := Option.some.inj he
  obtain ⟨dst, a, y⟩ := o
  change (XFields.y _).bind _ = _
  cases dst <;> cases y <;>
    simp [XFields.y, encXInt, XFields.srcA, XFields.srcB, XFields.srcC, XFields.srcE, xf, encG, noSrc, YOp.isImm, YOp.litWord, YOp.src, YOp.imm32, XFields.dst, Dst.isRem, Dst.field, Dst.e, pickXInt.pickY]
theorem RoundTrip.sel (o : XSel) : RoundTrip.Statement (.sel o) := by
  intro hw e he
  obtain rfl := Option.some.inj he
  obtain ⟨dst, a, y, c⟩ := o
  change (XFields.y _).bind _ = _
  cases dst <;> cases y <;>
    simp [XFields.y, encXInt, XFields.srcA, XFields.srcB, XFields.srcC, XFields.srcE, xf, encG, noSrc, YOp.isImm, YOp.litWord, YOp.src, YOp.imm32, XFields.dst, Dst.isRem, Dst.field, Dst.e, pickXInt.pickY]
theorem RoundTrip.bfx (o : XBfx) : RoundTrip.Statement (.bfx o) := by
  intro hw e he
  obtain rfl := Option.some.inj he
  change some (Instr.bfx _) = _
  obtain ⟨dst, a, p, w, sx⟩ := o
  cases dst <;>
    (simp [encBf, XFields.srcA, XFields.srcB, XFields.srcC, XFields.srcE, xf, encG, noSrc, XFields.dst, Dst.isRem, Dst.field, Dst.e]; exact ⟨part0 _ _, part1 _ _ _, part_bit _ _ _ _⟩)
theorem RoundTrip.bfi (o : XBfi) : RoundTrip.Statement (.bfi o) := by
  intro hw e he
  obtain rfl := Option.some.inj he
  change some (Instr.bfi _) = _
  obtain ⟨dst, a, b, p, w⟩ := o
  cases dst <;>
    (simp [encBf, XFields.srcA, XFields.srcB, XFields.srcC, XFields.srcE, xf, encG, noSrc, XFields.dst, Dst.isRem, Dst.field, Dst.e]; exact ⟨part0 _ _, part1 _ _ _⟩)
theorem RoundTrip.addpc (dst : Dst) (off : W32) : RoundTrip.Statement (.addpc dst off) := by
  intro hw e he
  obtain rfl := Option.some.inj he
  change some (Instr.addpc _ _) = _
  cases dst <;> simp [encXInt, YOp.isImm, YOp.litWord, YOp.src, XFields.srcA, XFields.srcB, XFields.srcC, XFields.srcE, xf, encG, noSrc, XFields.dst, Dst.isRem, Dst.field, Dst.e]
theorem RoundTrip.li (dst : Dst) (y : YOp) : RoundTrip.Statement (.li dst y) := by
  intro hw e he
  obtain rfl := Option.some.inj he
  change (XFields.y _).bind _ = _
  cases dst <;> cases y <;>
    simp [XFields.y, encXInt, XFields.srcA, XFields.srcB, XFields.srcC, XFields.srcE, xf, encG, noSrc, YOp.isImm, YOp.litWord, YOp.src, YOp.imm32, XFields.dst, Dst.isRem, Dst.field, Dst.e, pickXInt.pickY] <;> simp [Instr.wf] at hw
theorem RoundTrip.ldBX (o : XLoad) : RoundTrip.Statement (.ldBX o) := by
  intro hw e he
  obtain rfl := Option.some.inj he
  change (decLoad _).map _ = _
  obtain ⟨dst, rest⟩ := o
  cases dst <;> simp [encLoad, decLoad, encV, encXAddr, encAmoWith, XFields.mask, XFields.addr, XFields.hint, XFields.vhint, XFields.srcA, XFields.srcB, XFields.srcC, XFields.srcE, xf, encG, noSrc, XFields.dst, Dst.isRem, Dst.field, Dst.e, MOp.isQlm, MOp.field, MOp.trap]
theorem RoundTrip.ldHX (o : XLoad) : RoundTrip.Statement (.ldHX o) := by
  intro hw e he
  obtain rfl := Option.some.inj he
  change (decLoad _).map _ = _
  obtain ⟨dst, rest⟩ := o
  cases dst <;> simp [encLoad, decLoad, encV, encXAddr, encAmoWith, XFields.mask, XFields.addr, XFields.hint, XFields.vhint, XFields.srcA, XFields.srcB, XFields.srcC, XFields.srcE, xf, encG, noSrc, XFields.dst, Dst.isRem, Dst.field, Dst.e, MOp.isQlm, MOp.field, MOp.trap]
theorem RoundTrip.ldWX (o : XLoad) : RoundTrip.Statement (.ldWX o) := by
  intro hw e he
  obtain rfl := Option.some.inj he
  change (decLoad _).map _ = _
  obtain ⟨dst, rest⟩ := o
  cases dst <;> simp [encLoad, decLoad, encV, encXAddr, encAmoWith, XFields.mask, XFields.addr, XFields.hint, XFields.vhint, XFields.srcA, XFields.srcB, XFields.srcC, XFields.srcE, xf, encG, noSrc, XFields.dst, Dst.isRem, Dst.field, Dst.e, MOp.isQlm, MOp.field, MOp.trap]
theorem RoundTrip.ldDX (o : XLoad) : RoundTrip.Statement (.ldDX o) := by
  intro hw e he
  obtain rfl := Option.some.inj he
  change (decLoad _).map _ = _
  obtain ⟨dst, rest⟩ := o
  cases dst <;> simp [encLoad, decLoad, encV, encXAddr, encAmoWith, XFields.mask, XFields.addr, XFields.hint, XFields.vhint, XFields.srcA, XFields.srcB, XFields.srcC, XFields.srcE, xf, encG, noSrc, XFields.dst, Dst.isRem, Dst.field, Dst.e, MOp.isQlm, MOp.field, MOp.trap]
theorem RoundTrip.ldsBX (o : XLoad) : RoundTrip.Statement (.ldsBX o) := by
  intro hw e he
  obtain rfl := Option.some.inj he
  change (decLoad _).map _ = _
  obtain ⟨dst, rest⟩ := o
  cases dst <;> simp [encLoad, decLoad, encV, encXAddr, encAmoWith, XFields.mask, XFields.addr, XFields.hint, XFields.vhint, XFields.srcA, XFields.srcB, XFields.srcC, XFields.srcE, xf, encG, noSrc, XFields.dst, Dst.isRem, Dst.field, Dst.e, MOp.isQlm, MOp.field, MOp.trap]
theorem RoundTrip.ldsHX (o : XLoad) : RoundTrip.Statement (.ldsHX o) := by
  intro hw e he
  obtain rfl := Option.some.inj he
  change (decLoad _).map _ = _
  obtain ⟨dst, rest⟩ := o
  cases dst <;> simp [encLoad, decLoad, encV, encXAddr, encAmoWith, XFields.mask, XFields.addr, XFields.hint, XFields.vhint, XFields.srcA, XFields.srcB, XFields.srcC, XFields.srcE, xf, encG, noSrc, XFields.dst, Dst.isRem, Dst.field, Dst.e, MOp.isQlm, MOp.field, MOp.trap]
theorem RoundTrip.ldsWX (o : XLoad) : RoundTrip.Statement (.ldsWX o) := by
  intro hw e he
  obtain rfl := Option.some.inj he
  change (decLoad _).map _ = _
  obtain ⟨dst, rest⟩ := o
  cases dst <;> simp [encLoad, decLoad, encV, encXAddr, encAmoWith, XFields.mask, XFields.addr, XFields.hint, XFields.vhint, XFields.srcA, XFields.srcB, XFields.srcC, XFields.srcE, xf, encG, noSrc, XFields.dst, Dst.isRem, Dst.field, Dst.e, MOp.isQlm, MOp.field, MOp.trap]
theorem RoundTrip.stBX (o : XStore) : RoundTrip.Statement (.stBX o) := by
  intro hw e he
  obtain rfl := Option.some.inj he
  change (decStore _).map _ = _
  simp [encStore, decStore, encV, encXAddr, encAmoWith, XFields.mask, XFields.addr, XFields.hint, XFields.vhint, XFields.srcA, XFields.srcB, XFields.srcC, XFields.srcE, xf, encG, noSrc, XFields.dst, Dst.isRem, Dst.field, Dst.e, MOp.isQlm, MOp.field, MOp.trap]
theorem RoundTrip.stHX (o : XStore) : RoundTrip.Statement (.stHX o) := by
  intro hw e he
  obtain rfl := Option.some.inj he
  change (decStore _).map _ = _
  simp [encStore, decStore, encV, encXAddr, encAmoWith, XFields.mask, XFields.addr, XFields.hint, XFields.vhint, XFields.srcA, XFields.srcB, XFields.srcC, XFields.srcE, xf, encG, noSrc, XFields.dst, Dst.isRem, Dst.field, Dst.e, MOp.isQlm, MOp.field, MOp.trap]
theorem RoundTrip.stWX (o : XStore) : RoundTrip.Statement (.stWX o) := by
  intro hw e he
  obtain rfl := Option.some.inj he
  change (decStore _).map _ = _
  simp [encStore, decStore, encV, encXAddr, encAmoWith, XFields.mask, XFields.addr, XFields.hint, XFields.vhint, XFields.srcA, XFields.srcB, XFields.srcC, XFields.srcE, xf, encG, noSrc, XFields.dst, Dst.isRem, Dst.field, Dst.e, MOp.isQlm, MOp.field, MOp.trap]
theorem RoundTrip.stDX (o : XStore) : RoundTrip.Statement (.stDX o) := by
  intro hw e he
  obtain rfl := Option.some.inj he
  change (decStore _).map _ = _
  simp [encStore, decStore, encV, encXAddr, encAmoWith, XFields.mask, XFields.addr, XFields.hint, XFields.vhint, XFields.srcA, XFields.srcB, XFields.srcC, XFields.srcE, xf, encG, noSrc, XFields.dst, Dst.isRem, Dst.field, Dst.e, MOp.isQlm, MOp.field, MOp.trap]
theorem RoundTrip.pref (addr : XAddr) (hint : Hint) : RoundTrip.Statement (.pref addr hint) := by
  intro hw e he
  obtain rfl := Option.some.inj he
  change some (Instr.pref _ _) = _
  simp [XFields.addr, XFields.hint, encStore, encXAddr, encGgMask, decGgMask, decSend, decRecv, encSend, encRecv, encAMov, decAMov, XFields.srcA, XFields.srcB, XFields.srcC, XFields.srcE, xf, encG, noSrc]
theorem RoundTrip.put (n : BitVec 5) (a : Src) (e : Src) : RoundTrip.Statement (.put n a e) := by
  intro hw e he
  obtain rfl := Option.some.inj he
  change some (Instr.put _ _ _) = _
  simp [XFields.addr, XFields.hint, encStore, encXAddr, encGgMask, decGgMask, decSend, decRecv, encSend, encRecv, encAMov, decAMov, XFields.srcA, XFields.srcB, XFields.srcC, XFields.srcE, xf, encG, noSrc]
theorem RoundTrip.pset (d : Reg) (p : Presence) : RoundTrip.Statement (.pset d p) := by
  intro hw e he
  obtain rfl := Option.some.inj he
  change (presOf _).map _ = _
  simp [XFields.srcA, XFields.srcB, XFields.srcC, XFields.srcE, xf, encG, noSrc]
theorem RoundTrip.beqX (a : Src) (b : Src) (off : W32) : RoundTrip.Statement (.beqX a b off) := by
  intro hw e he
  obtain rfl := Option.some.inj he
  change some (Instr.beqX _ _ _) = _
  simp [XFields.addr, XFields.hint, encStore, encXAddr, encGgMask, decGgMask, decSend, decRecv, encSend, encRecv, encAMov, decAMov, XFields.srcA, XFields.srcB, XFields.srcC, XFields.srcE, xf, encG, noSrc]
theorem RoundTrip.bneX (a : Src) (b : Src) (off : W32) : RoundTrip.Statement (.bneX a b off) := by
  intro hw e he
  obtain rfl := Option.some.inj he
  change some (Instr.bneX _ _ _) = _
  simp [XFields.addr, XFields.hint, encStore, encXAddr, encGgMask, decGgMask, decSend, decRecv, encSend, encRecv, encAMov, decAMov, XFields.srcA, XFields.srcB, XFields.srcC, XFields.srcE, xf, encG, noSrc]
theorem RoundTrip.bltX (a : Src) (b : Src) (off : W32) : RoundTrip.Statement (.bltX a b off) := by
  intro hw e he
  obtain rfl := Option.some.inj he
  change some (Instr.bltX _ _ _) = _
  simp [XFields.addr, XFields.hint, encStore, encXAddr, encGgMask, decGgMask, decSend, decRecv, encSend, encRecv, encAMov, decAMov, XFields.srcA, XFields.srcB, XFields.srcC, XFields.srcE, xf, encG, noSrc]
theorem RoundTrip.bltuX (a : Src) (b : Src) (off : W32) : RoundTrip.Statement (.bltuX a b off) := by
  intro hw e he
  obtain rfl := Option.some.inj he
  change some (Instr.bltuX _ _ _) = _
  simp [XFields.addr, XFields.hint, encStore, encXAddr, encGgMask, decGgMask, decSend, decRecv, encSend, encRecv, encAMov, decAMov, XFields.srcA, XFields.srcB, XFields.srcC, XFields.srcE, xf, encG, noSrc]
theorem RoundTrip.bgeX (a : Src) (b : Src) (off : W32) : RoundTrip.Statement (.bgeX a b off) := by
  intro hw e he
  obtain rfl := Option.some.inj he
  change some (Instr.bgeX _ _ _) = _
  simp [XFields.addr, XFields.hint, encStore, encXAddr, encGgMask, decGgMask, decSend, decRecv, encSend, encRecv, encAMov, decAMov, XFields.srcA, XFields.srcB, XFields.srcC, XFields.srcE, xf, encG, noSrc]
theorem RoundTrip.bgeuX (a : Src) (b : Src) (off : W32) : RoundTrip.Statement (.bgeuX a b off) := by
  intro hw e he
  obtain rfl := Option.some.inj he
  change some (Instr.bgeuX _ _ _) = _
  simp [XFields.addr, XFields.hint, encStore, encXAddr, encGgMask, decGgMask, decSend, decRecv, encSend, encRecv, encAMov, decAMov, XFields.srcA, XFields.srcB, XFields.srcC, XFields.srcE, xf, encG, noSrc]
theorem RoundTrip.bX (off : W32) : RoundTrip.Statement (.bX off) := by
  intro hw e he
  obtain rfl := Option.some.inj he
  change some (Instr.bX _) = _
  simp [XFields.addr, XFields.hint, encStore, encXAddr, encGgMask, decGgMask, decSend, decRecv, encSend, encRecv, encAMov, decAMov, XFields.srcA, XFields.srcB, XFields.srcC, XFields.srcE, xf, encG, noSrc]
theorem RoundTrip.callX (off : W32) : RoundTrip.Statement (.callX off) := by
  intro hw e he
  obtain rfl := Option.some.inj he
  change some (Instr.callX _) = _
  simp [XFields.addr, XFields.hint, encStore, encXAddr, encGgMask, decGgMask, decSend, decRecv, encSend, encRecv, encAMov, decAMov, XFields.srcA, XFields.srcB, XFields.srcC, XFields.srcE, xf, encG, noSrc]
theorem RoundTrip.vaddX (o : V2) : RoundTrip.Statement (.vaddX o) := by
  intro hw e he
  obtain rfl := Option.some.inj he
  change (decV2 _).map _ = _
  simp [encV2, decV2, encV, encXAddr, encAmoWith, XFields.mask, XFields.addr, XFields.hint, XFields.vhint, XFields.srcA, XFields.srcB, XFields.srcC, XFields.srcE, xf, encG, noSrc, XFields.dst, Dst.isRem, Dst.field, Dst.e, MOp.isQlm, MOp.field, MOp.trap]
theorem RoundTrip.vsubX (o : V2) : RoundTrip.Statement (.vsubX o) := by
  intro hw e he
  obtain rfl := Option.some.inj he
  change (decV2 _).map _ = _
  simp [encV2, decV2, encV, encXAddr, encAmoWith, XFields.mask, XFields.addr, XFields.hint, XFields.vhint, XFields.srcA, XFields.srcB, XFields.srcC, XFields.srcE, xf, encG, noSrc, XFields.dst, Dst.isRem, Dst.field, Dst.e, MOp.isQlm, MOp.field, MOp.trap]
theorem RoundTrip.vmulX (o : V2) : RoundTrip.Statement (.vmulX o) := by
  intro hw e he
  obtain rfl := Option.some.inj he
  change (decV2 _).map _ = _
  simp [encV2, decV2, encV, encXAddr, encAmoWith, XFields.mask, XFields.addr, XFields.hint, XFields.vhint, XFields.srcA, XFields.srcB, XFields.srcC, XFields.srcE, xf, encG, noSrc, XFields.dst, Dst.isRem, Dst.field, Dst.e, MOp.isQlm, MOp.field, MOp.trap]
theorem RoundTrip.vdiv (o : V2) : RoundTrip.Statement (.vdiv o) := by
  intro hw e he
  obtain rfl := Option.some.inj he
  change (decV2 _).map _ = _
  simp [encV2, decV2, encV, encXAddr, encAmoWith, XFields.mask, XFields.addr, XFields.hint, XFields.vhint, XFields.srcA, XFields.srcB, XFields.srcC, XFields.srcE, xf, encG, noSrc, XFields.dst, Dst.isRem, Dst.field, Dst.e, MOp.isQlm, MOp.field, MOp.trap]
theorem RoundTrip.vminX (o : V2) : RoundTrip.Statement (.vminX o) := by
  intro hw e he
  obtain rfl := Option.some.inj he
  change (decV2 _).map _ = _
  simp [encV2, decV2, encV, encXAddr, encAmoWith, XFields.mask, XFields.addr, XFields.hint, XFields.vhint, XFields.srcA, XFields.srcB, XFields.srcC, XFields.srcE, xf, encG, noSrc, XFields.dst, Dst.isRem, Dst.field, Dst.e, MOp.isQlm, MOp.field, MOp.trap]
theorem RoundTrip.vmaxX (o : V2) : RoundTrip.Statement (.vmaxX o) := by
  intro hw e he
  obtain rfl := Option.some.inj he
  change (decV2 _).map _ = _
  simp [encV2, decV2, encV, encXAddr, encAmoWith, XFields.mask, XFields.addr, XFields.hint, XFields.vhint, XFields.srcA, XFields.srcB, XFields.srcC, XFields.srcE, xf, encG, noSrc, XFields.dst, Dst.isRem, Dst.field, Dst.e, MOp.isQlm, MOp.field, MOp.trap]
theorem RoundTrip.vabs (o : V1) : RoundTrip.Statement (.vabs o) := by
  intro hw e he
  obtain rfl := Option.some.inj he
  change (decV1 _).map _ = _
  simp [encV1, decV1, encV, encXAddr, encAmoWith, XFields.mask, XFields.addr, XFields.hint, XFields.vhint, XFields.srcA, XFields.srcB, XFields.srcC, XFields.srcE, xf, encG, noSrc, XFields.dst, Dst.isRem, Dst.field, Dst.e, MOp.isQlm, MOp.field, MOp.trap]
theorem RoundTrip.vneg (o : V1) : RoundTrip.Statement (.vneg o) := by
  intro hw e he
  obtain rfl := Option.some.inj he
  change (decV1 _).map _ = _
  simp [encV1, decV1, encV, encXAddr, encAmoWith, XFields.mask, XFields.addr, XFields.hint, XFields.vhint, XFields.srcA, XFields.srcB, XFields.srcC, XFields.srcE, xf, encG, noSrc, XFields.dst, Dst.isRem, Dst.field, Dst.e, MOp.isQlm, MOp.field, MOp.trap]
theorem RoundTrip.vsqrt (o : V1) : RoundTrip.Statement (.vsqrt o) := by
  intro hw e he
  obtain rfl := Option.some.inj he
  change (decV1 _).map _ = _
  simp [encV1, decV1, encV, encXAddr, encAmoWith, XFields.mask, XFields.addr, XFields.hint, XFields.vhint, XFields.srcA, XFields.srcB, XFields.srcC, XFields.srcE, xf, encG, noSrc, XFields.dst, Dst.isRem, Dst.field, Dst.e, MOp.isQlm, MOp.field, MOp.trap]
theorem RoundTrip.vfma (o : V3) : RoundTrip.Statement (.vfma o) := by
  intro hw e he
  obtain rfl := Option.some.inj he
  change (decV3 _).map _ = _
  simp [encV3, decV3, encV, encXAddr, encAmoWith, XFields.mask, XFields.addr, XFields.hint, XFields.vhint, XFields.srcA, XFields.srcB, XFields.srcC, XFields.srcE, xf, encG, noSrc, XFields.dst, Dst.isRem, Dst.field, Dst.e, MOp.isQlm, MOp.field, MOp.trap]
theorem RoundTrip.vfms (o : V3) : RoundTrip.Statement (.vfms o) := by
  intro hw e he
  obtain rfl := Option.some.inj he
  change (decV3 _).map _ = _
  simp [encV3, decV3, encV, encXAddr, encAmoWith, XFields.mask, XFields.addr, XFields.hint, XFields.vhint, XFields.srcA, XFields.srcB, XFields.srcC, XFields.srcE, xf, encG, noSrc, XFields.dst, Dst.isRem, Dst.field, Dst.e, MOp.isQlm, MOp.field, MOp.trap]
theorem RoundTrip.vfnma (o : V3) : RoundTrip.Statement (.vfnma o) := by
  intro hw e he
  obtain rfl := Option.some.inj he
  change (decV3 _).map _ = _
  simp [encV3, decV3, encV, encXAddr, encAmoWith, XFields.mask, XFields.addr, XFields.hint, XFields.vhint, XFields.srcA, XFields.srcB, XFields.srcC, XFields.srcE, xf, encG, noSrc, XFields.dst, Dst.isRem, Dst.field, Dst.e, MOp.isQlm, MOp.field, MOp.trap]
theorem RoundTrip.vrcp (o : V1) : RoundTrip.Statement (.vrcp o) := by
  intro hw e he
  obtain rfl := Option.some.inj he
  change (decV1 _).map _ = _
  simp [encV1, decV1, encV, encXAddr, encAmoWith, XFields.mask, XFields.addr, XFields.hint, XFields.vhint, XFields.srcA, XFields.srcB, XFields.srcC, XFields.srcE, xf, encG, noSrc, XFields.dst, Dst.isRem, Dst.field, Dst.e, MOp.isQlm, MOp.field, MOp.trap]
theorem RoundTrip.vrsq (o : V1) : RoundTrip.Statement (.vrsq o) := by
  intro hw e he
  obtain rfl := Option.some.inj he
  change (decV1 _).map _ = _
  simp [encV1, decV1, encV, encXAddr, encAmoWith, XFields.mask, XFields.addr, XFields.hint, XFields.vhint, XFields.srcA, XFields.srcB, XFields.srcC, XFields.srcE, xf, encG, noSrc, XFields.dst, Dst.isRem, Dst.field, Dst.e, MOp.isQlm, MOp.field, MOp.trap]
theorem RoundTrip.vexp2 (o : V1) : RoundTrip.Statement (.vexp2 o) := by
  intro hw e he
  obtain rfl := Option.some.inj he
  change (decV1 _).map _ = _
  simp [encV1, decV1, encV, encXAddr, encAmoWith, XFields.mask, XFields.addr, XFields.hint, XFields.vhint, XFields.srcA, XFields.srcB, XFields.srcC, XFields.srcE, xf, encG, noSrc, XFields.dst, Dst.isRem, Dst.field, Dst.e, MOp.isQlm, MOp.field, MOp.trap]
theorem RoundTrip.vlog2 (o : V1) : RoundTrip.Statement (.vlog2 o) := by
  intro hw e he
  obtain rfl := Option.some.inj he
  change (decV1 _).map _ = _
  simp [encV1, decV1, encV, encXAddr, encAmoWith, XFields.mask, XFields.addr, XFields.hint, XFields.vhint, XFields.srcA, XFields.srcB, XFields.srcC, XFields.srcE, xf, encG, noSrc, XFields.dst, Dst.isRem, Dst.field, Dst.e, MOp.isQlm, MOp.field, MOp.trap]
theorem RoundTrip.vsel (o : VSelOp) : RoundTrip.Statement (.vsel o) := by
  intro hw e he
  obtain rfl := Option.some.inj he
  change (decVSel _).map _ = _
  simp [decVSel, encV, XFields.mask, XFields.srcA, XFields.srcB, XFields.srcC, XFields.srcE, xf, encG, noSrc]
theorem RoundTrip.vshl (o : V2) : RoundTrip.Statement (.vshl o) := by
  intro hw e he
  obtain rfl := Option.some.inj he
  change (decV2 _).map _ = _
  simp [encV2, decV2, encV, encXAddr, encAmoWith, XFields.mask, XFields.addr, XFields.hint, XFields.vhint, XFields.srcA, XFields.srcB, XFields.srcC, XFields.srcE, xf, encG, noSrc, XFields.dst, Dst.isRem, Dst.field, Dst.e, MOp.isQlm, MOp.field, MOp.trap]
theorem RoundTrip.vshr (o : V2) : RoundTrip.Statement (.vshr o) := by
  intro hw e he
  obtain rfl := Option.some.inj he
  change (decV2 _).map _ = _
  simp [encV2, decV2, encV, encXAddr, encAmoWith, XFields.mask, XFields.addr, XFields.hint, XFields.vhint, XFields.srcA, XFields.srcB, XFields.srcC, XFields.srcE, xf, encG, noSrc, XFields.dst, Dst.isRem, Dst.field, Dst.e, MOp.isQlm, MOp.field, MOp.trap]
theorem RoundTrip.vsra (o : V2) : RoundTrip.Statement (.vsra o) := by
  intro hw e he
  obtain rfl := Option.some.inj he
  change (decV2 _).map _ = _
  simp [encV2, decV2, encV, encXAddr, encAmoWith, XFields.mask, XFields.addr, XFields.hint, XFields.vhint, XFields.srcA, XFields.srcB, XFields.srcC, XFields.srcE, xf, encG, noSrc, XFields.dst, Dst.isRem, Dst.field, Dst.e, MOp.isQlm, MOp.field, MOp.trap]
theorem RoundTrip.vandX (o : V2) : RoundTrip.Statement (.vandX o) := by
  intro hw e he
  obtain rfl := Option.some.inj he
  change (decV2 _).map _ = _
  simp [encV2, decV2, encV, encXAddr, encAmoWith, XFields.mask, XFields.addr, XFields.hint, XFields.vhint, XFields.srcA, XFields.srcB, XFields.srcC, XFields.srcE, xf, encG, noSrc, XFields.dst, Dst.isRem, Dst.field, Dst.e, MOp.isQlm, MOp.field, MOp.trap]
theorem RoundTrip.vorX (o : V2) : RoundTrip.Statement (.vorX o) := by
  intro hw e he
  obtain rfl := Option.some.inj he
  change (decV2 _).map _ = _
  simp [encV2, decV2, encV, encXAddr, encAmoWith, XFields.mask, XFields.addr, XFields.hint, XFields.vhint, XFields.srcA, XFields.srcB, XFields.srcC, XFields.srcE, xf, encG, noSrc, XFields.dst, Dst.isRem, Dst.field, Dst.e, MOp.isQlm, MOp.field, MOp.trap]
theorem RoundTrip.vxorX (o : V2) : RoundTrip.Statement (.vxorX o) := by
  intro hw e he
  obtain rfl := Option.some.inj he
  change (decV2 _).map _ = _
  simp [encV2, decV2, encV, encXAddr, encAmoWith, XFields.mask, XFields.addr, XFields.hint, XFields.vhint, XFields.srcA, XFields.srcB, XFields.srcC, XFields.srcE, xf, encG, noSrc, XFields.dst, Dst.isRem, Dst.field, Dst.e, MOp.isQlm, MOp.field, MOp.trap]
theorem RoundTrip.vmulh (o : V2) : RoundTrip.Statement (.vmulh o) := by
  intro hw e he
  obtain rfl := Option.some.inj he
  change (decV2 _).map _ = _
  simp [encV2, decV2, encV, encXAddr, encAmoWith, XFields.mask, XFields.addr, XFields.hint, XFields.vhint, XFields.srcA, XFields.srcB, XFields.srcC, XFields.srcE, xf, encG, noSrc, XFields.dst, Dst.isRem, Dst.field, Dst.e, MOp.isQlm, MOp.field, MOp.trap]
theorem RoundTrip.vcmpEq (o : VCmpOp) : RoundTrip.Statement (.vcmpEq o) := by
  intro hw e he
  obtain rfl := Option.some.inj he
  change (decCmp _).map _ = _
  simp [encCmp, decCmp, encV, encXAddr, encAmoWith, XFields.mask, XFields.addr, XFields.hint, XFields.vhint, XFields.srcA, XFields.srcB, XFields.srcC, XFields.srcE, xf, encG, noSrc, XFields.dst, Dst.isRem, Dst.field, Dst.e, MOp.isQlm, MOp.field, MOp.trap]
theorem RoundTrip.vcmpNe (o : VCmpOp) : RoundTrip.Statement (.vcmpNe o) := by
  intro hw e he
  obtain rfl := Option.some.inj he
  change (decCmp _).map _ = _
  simp [encCmp, decCmp, encV, encXAddr, encAmoWith, XFields.mask, XFields.addr, XFields.hint, XFields.vhint, XFields.srcA, XFields.srcB, XFields.srcC, XFields.srcE, xf, encG, noSrc, XFields.dst, Dst.isRem, Dst.field, Dst.e, MOp.isQlm, MOp.field, MOp.trap]
theorem RoundTrip.vcmpLt (o : VCmpOp) : RoundTrip.Statement (.vcmpLt o) := by
  intro hw e he
  obtain rfl := Option.some.inj he
  change (decCmp _).map _ = _
  simp [encCmp, decCmp, encV, encXAddr, encAmoWith, XFields.mask, XFields.addr, XFields.hint, XFields.vhint, XFields.srcA, XFields.srcB, XFields.srcC, XFields.srcE, xf, encG, noSrc, XFields.dst, Dst.isRem, Dst.field, Dst.e, MOp.isQlm, MOp.field, MOp.trap]
theorem RoundTrip.vcmpLe (o : VCmpOp) : RoundTrip.Statement (.vcmpLe o) := by
  intro hw e he
  obtain rfl := Option.some.inj he
  change (decCmp _).map _ = _
  simp [encCmp, decCmp, encV, encXAddr, encAmoWith, XFields.mask, XFields.addr, XFields.hint, XFields.vhint, XFields.srcA, XFields.srcB, XFields.srcC, XFields.srcE, xf, encG, noSrc, XFields.dst, Dst.isRem, Dst.field, Dst.e, MOp.isQlm, MOp.field, MOp.trap]
theorem RoundTrip.vcmpGt (o : VCmpOp) : RoundTrip.Statement (.vcmpGt o) := by
  intro hw e he
  obtain rfl := Option.some.inj he
  change (decCmp _).map _ = _
  simp [encCmp, decCmp, encV, encXAddr, encAmoWith, XFields.mask, XFields.addr, XFields.hint, XFields.vhint, XFields.srcA, XFields.srcB, XFields.srcC, XFields.srcE, xf, encG, noSrc, XFields.dst, Dst.isRem, Dst.field, Dst.e, MOp.isQlm, MOp.field, MOp.trap]
theorem RoundTrip.vcmpGe (o : VCmpOp) : RoundTrip.Statement (.vcmpGe o) := by
  intro hw e he
  obtain rfl := Option.some.inj he
  change (decCmp _).map _ = _
  simp [encCmp, decCmp, encV, encXAddr, encAmoWith, XFields.mask, XFields.addr, XFields.hint, XFields.vhint, XFields.srcA, XFields.srcB, XFields.srcC, XFields.srcE, xf, encG, noSrc, XFields.dst, Dst.isRem, Dst.field, Dst.e, MOp.isQlm, MOp.field, MOp.trap]
theorem RoundTrip.vcmpUn (o : VCmpOp) : RoundTrip.Statement (.vcmpUn o) := by
  intro hw e he
  obtain rfl := Option.some.inj he
  change (decCmp _).map _ = _
  simp [encCmp, decCmp, encV, encXAddr, encAmoWith, XFields.mask, XFields.addr, XFields.hint, XFields.vhint, XFields.srcA, XFields.srcB, XFields.srcC, XFields.srcE, xf, encG, noSrc, XFields.dst, Dst.isRem, Dst.field, Dst.e, MOp.isQlm, MOp.field, MOp.trap]
theorem RoundTrip.vcmpLtu (o : VCmpOp) : RoundTrip.Statement (.vcmpLtu o) := by
  intro hw e he
  obtain rfl := Option.some.inj he
  change (decCmp _).map _ = _
  simp [encCmp, decCmp, encV, encXAddr, encAmoWith, XFields.mask, XFields.addr, XFields.hint, XFields.vhint, XFields.srcA, XFields.srcB, XFields.srcC, XFields.srcE, xf, encG, noSrc, XFields.dst, Dst.isRem, Dst.field, Dst.e, MOp.isQlm, MOp.field, MOp.trap]
theorem RoundTrip.vcvt (o : VCvtOp) : RoundTrip.Statement (.vcvt o) := by
  intro hw e he
  obtain rfl := Option.some.inj he
  change (decCvt _).map _ = _
  simp [encCvt, decCvt, encV, encXAddr, encAmoWith, XFields.mask, XFields.addr, XFields.hint, XFields.vhint, XFields.srcA, XFields.srcB, XFields.srcC, XFields.srcE, xf, encG, noSrc, XFields.dst, Dst.isRem, Dst.field, Dst.e, MOp.isQlm, MOp.field, MOp.trap]
theorem RoundTrip.vredAdd (o : V1) : RoundTrip.Statement (.vredAdd o) := by
  intro hw e he
  obtain rfl := Option.some.inj he
  change (decV1 _).map _ = _
  simp [encV1, decV1, encV, encXAddr, encAmoWith, XFields.mask, XFields.addr, XFields.hint, XFields.vhint, XFields.srcA, XFields.srcB, XFields.srcC, XFields.srcE, xf, encG, noSrc, XFields.dst, Dst.isRem, Dst.field, Dst.e, MOp.isQlm, MOp.field, MOp.trap]
theorem RoundTrip.vredMax (o : V1) : RoundTrip.Statement (.vredMax o) := by
  intro hw e he
  obtain rfl := Option.some.inj he
  change (decV1 _).map _ = _
  simp [encV1, decV1, encV, encXAddr, encAmoWith, XFields.mask, XFields.addr, XFields.hint, XFields.vhint, XFields.srcA, XFields.srcB, XFields.srcC, XFields.srcE, xf, encG, noSrc, XFields.dst, Dst.isRem, Dst.field, Dst.e, MOp.isQlm, MOp.field, MOp.trap]
theorem RoundTrip.vredMin (o : V1) : RoundTrip.Statement (.vredMin o) := by
  intro hw e he
  obtain rfl := Option.some.inj he
  change (decV1 _).map _ = _
  simp [encV1, decV1, encV, encXAddr, encAmoWith, XFields.mask, XFields.addr, XFields.hint, XFields.vhint, XFields.srcA, XFields.srcB, XFields.srcC, XFields.srcE, xf, encG, noSrc, XFields.dst, Dst.isRem, Dst.field, Dst.e, MOp.isQlm, MOp.field, MOp.trap]
theorem RoundTrip.vredAnd (o : V1) : RoundTrip.Statement (.vredAnd o) := by
  intro hw e he
  obtain rfl := Option.some.inj he
  change (decV1 _).map _ = _
  simp [encV1, decV1, encV, encXAddr, encAmoWith, XFields.mask, XFields.addr, XFields.hint, XFields.vhint, XFields.srcA, XFields.srcB, XFields.srcC, XFields.srcE, xf, encG, noSrc, XFields.dst, Dst.isRem, Dst.field, Dst.e, MOp.isQlm, MOp.field, MOp.trap]
theorem RoundTrip.vredOr (o : V1) : RoundTrip.Statement (.vredOr o) := by
  intro hw e he
  obtain rfl := Option.some.inj he
  change (decV1 _).map _ = _
  simp [encV1, decV1, encV, encXAddr, encAmoWith, XFields.mask, XFields.addr, XFields.hint, XFields.vhint, XFields.srcA, XFields.srcB, XFields.srcC, XFields.srcE, xf, encG, noSrc, XFields.dst, Dst.isRem, Dst.field, Dst.e, MOp.isQlm, MOp.field, MOp.trap]
theorem RoundTrip.vperm (o : VPermOp) : RoundTrip.Statement (.vperm o) := by
  intro hw e he
  obtain rfl := Option.some.inj he
  change (tyOf _).bind _ = _
  simp [encV, XFields.mask, XFields.srcA, XFields.srcB, XFields.srcC, XFields.srcE, xf, encG, noSrc]
theorem RoundTrip.vbcast (o : VBcastOp) : RoundTrip.Statement (.vbcast o) := by
  intro hw e he
  obtain rfl := Option.some.inj he
  change (tyOf _).bind _ = _
  simp [encV, XFields.mask, XFields.srcA, XFields.srcB, XFields.srcC, XFields.srcE, xf, encG, noSrc]
theorem RoundTrip.vextr (o : VExtrOp) : RoundTrip.Statement (.vextr o) := by
  intro hw e he
  obtain rfl := Option.some.inj he
  change (tyOf _).bind _ = _
  simp [encV, XFields.mask, XFields.srcA, XFields.srcB, XFields.srcC, XFields.srcE, xf, encG, noSrc]
theorem RoundTrip.vins (o : VInsOp) : RoundTrip.Statement (.vins o) := by
  intro hw e he
  obtain rfl := Option.some.inj he
  change (tyOf _).bind _ = _
  simp [encV, XFields.mask, XFields.srcA, XFields.srcB, XFields.srcC, XFields.srcE, xf, encG, noSrc]
theorem RoundTrip.vslide (o : VSlideOp) : RoundTrip.Statement (.vslide o) := by
  intro hw e he
  obtain rfl := Option.some.inj he
  change (tyOf _).bind _ = _
  simp [encV, XFields.mask, XFields.srcA, XFields.srcB, XFields.srcC, XFields.srcE, xf, encG, noSrc]
theorem RoundTrip.viota (o : VIotaOp) : RoundTrip.Statement (.viota o) := by
  intro hw e he
  obtain rfl := Option.some.inj he
  change (tyOf _).bind _ = _
  simp [encV, XFields.mask, XFields.srcA, XFields.srcB, XFields.srcC, XFields.srcE, xf, encG, noSrc]
theorem RoundTrip.vld (o : VMem1) : RoundTrip.Statement (.vld o) := by
  intro hw e he
  obtain rfl := Option.some.inj he
  change (decVm1 _).map _ = _
  simp [encVm1, decVm1, encV, encXAddr, encAmoWith, XFields.mask, XFields.addr, XFields.hint, XFields.vhint, XFields.srcA, XFields.srcB, XFields.srcC, XFields.srcE, xf, encG, noSrc, XFields.dst, Dst.isRem, Dst.field, Dst.e, MOp.isQlm, MOp.field, MOp.trap]
theorem RoundTrip.vst (o : VMem1) : RoundTrip.Statement (.vst o) := by
  intro hw e he
  obtain rfl := Option.some.inj he
  change (decVm1 _).map _ = _
  simp [encVm1, decVm1, encV, encXAddr, encAmoWith, XFields.mask, XFields.addr, XFields.hint, XFields.vhint, XFields.srcA, XFields.srcB, XFields.srcC, XFields.srcE, xf, encG, noSrc, XFields.dst, Dst.isRem, Dst.field, Dst.e, MOp.isQlm, MOp.field, MOp.trap]
theorem RoundTrip.vlds (o : VMem2) : RoundTrip.Statement (.vlds o) := by
  intro hw e he
  obtain rfl := Option.some.inj he
  change (decVm2 _).map _ = _
  simp [encVm2, decVm2, encV, encXAddr, encAmoWith, XFields.mask, XFields.addr, XFields.hint, XFields.vhint, XFields.srcA, XFields.srcB, XFields.srcC, XFields.srcE, xf, encG, noSrc, XFields.dst, Dst.isRem, Dst.field, Dst.e, MOp.isQlm, MOp.field, MOp.trap]
theorem RoundTrip.vsts (o : VMem2) : RoundTrip.Statement (.vsts o) := by
  intro hw e he
  obtain rfl := Option.some.inj he
  change (decVm2 _).map _ = _
  simp [encVm2, decVm2, encV, encXAddr, encAmoWith, XFields.mask, XFields.addr, XFields.hint, XFields.vhint, XFields.srcA, XFields.srcB, XFields.srcC, XFields.srcE, xf, encG, noSrc, XFields.dst, Dst.isRem, Dst.field, Dst.e, MOp.isQlm, MOp.field, MOp.trap]
theorem RoundTrip.vgath (o : VMemX) : RoundTrip.Statement (.vgath o) := by
  intro hw e he
  obtain rfl := Option.some.inj he
  change (decVmX _).map _ = _
  simp [encVmX, decVmX, encV, encXAddr, encAmoWith, XFields.mask, XFields.addr, XFields.hint, XFields.vhint, XFields.srcA, XFields.srcB, XFields.srcC, XFields.srcE, xf, encG, noSrc, XFields.dst, Dst.isRem, Dst.field, Dst.e, MOp.isQlm, MOp.field, MOp.trap]
theorem RoundTrip.vscat (o : VMemX) : RoundTrip.Statement (.vscat o) := by
  intro hw e he
  obtain rfl := Option.some.inj he
  change (decVmX _).map _ = _
  simp [encVmX, decVmX, encV, encXAddr, encAmoWith, XFields.mask, XFields.addr, XFields.hint, XFields.vhint, XFields.srcA, XFields.srcB, XFields.srcC, XFields.srcE, xf, encG, noSrc, XFields.dst, Dst.isRem, Dst.field, Dst.e, MOp.isQlm, MOp.field, MOp.trap]
theorem RoundTrip.vldb (o : VMem1) : RoundTrip.Statement (.vldb o) := by
  intro hw e he
  obtain rfl := Option.some.inj he
  change (decVm1 _).map _ = _
  simp [encVm1, decVm1, encV, encXAddr, encAmoWith, XFields.mask, XFields.addr, XFields.hint, XFields.vhint, XFields.srcA, XFields.srcB, XFields.srcC, XFields.srcE, xf, encG, noSrc, XFields.dst, Dst.isRem, Dst.field, Dst.e, MOp.isQlm, MOp.field, MOp.trap]
theorem RoundTrip.kand (d : KReg) (a : KReg) (b : KReg) : RoundTrip.Statement (.kand d a b) := by
  intro hw e he
  obtain rfl := Option.some.inj he
  change some (Instr.kand _ _ _) = _
  simp [XFields.addr, XFields.hint, encStore, encXAddr, encGgMask, decGgMask, decSend, decRecv, encSend, encRecv, encAMov, decAMov, XFields.srcA, XFields.srcB, XFields.srcC, XFields.srcE, xf, encG, noSrc]
theorem RoundTrip.kor (d : KReg) (a : KReg) (b : KReg) : RoundTrip.Statement (.kor d a b) := by
  intro hw e he
  obtain rfl := Option.some.inj he
  change some (Instr.kor _ _ _) = _
  simp [XFields.addr, XFields.hint, encStore, encXAddr, encGgMask, decGgMask, decSend, decRecv, encSend, encRecv, encAMov, decAMov, XFields.srcA, XFields.srcB, XFields.srcC, XFields.srcE, xf, encG, noSrc]
theorem RoundTrip.kxor (d : KReg) (a : KReg) (b : KReg) : RoundTrip.Statement (.kxor d a b) := by
  intro hw e he
  obtain rfl := Option.some.inj he
  change some (Instr.kxor _ _ _) = _
  simp [XFields.addr, XFields.hint, encStore, encXAddr, encGgMask, decGgMask, decSend, decRecv, encSend, encRecv, encAMov, decAMov, XFields.srcA, XFields.srcB, XFields.srcC, XFields.srcE, xf, encG, noSrc]
theorem RoundTrip.knot (d : KReg) (a : KReg) : RoundTrip.Statement (.knot d a) := by
  intro hw e he
  obtain rfl := Option.some.inj he
  change some (Instr.knot _ _) = _
  simp [XFields.addr, XFields.hint, encStore, encXAddr, encGgMask, decGgMask, decSend, decRecv, encSend, encRecv, encAMov, decAMov, XFields.srcA, XFields.srcB, XFields.srcC, XFields.srcE, xf, encG, noSrc]
theorem RoundTrip.kset (d : KReg) (a : Src) (count : W32) : RoundTrip.Statement (.kset d a count) := by
  intro hw e he
  obtain rfl := Option.some.inj he
  change some (Instr.kset _ _ _) = _
  simp [XFields.addr, XFields.hint, encStore, encXAddr, encGgMask, decGgMask, decSend, decRecv, encSend, encRecv, encAMov, decAMov, XFields.srcA, XFields.srcB, XFields.srcC, XFields.srcE, xf, encG, noSrc]
theorem RoundTrip.kget (d : Reg) (a : KReg) (j : BitVec 2) : RoundTrip.Statement (.kget d a j) := by
  intro hw e he
  obtain rfl := Option.some.inj he
  change some (Instr.kget _ _ _) = _
  simp [XFields.addr, XFields.hint, encStore, encXAddr, encGgMask, decGgMask, decSend, decRecv, encSend, encRecv, encAMov, decAMov, XFields.srcA, XFields.srcB, XFields.srcC, XFields.srcE, xf, encG, noSrc]
theorem RoundTrip.kpopc (d : Reg) (a : KReg) : RoundTrip.Statement (.kpopc d a) := by
  intro hw e he
  obtain rfl := Option.some.inj he
  change some (Instr.kpopc _ _) = _
  simp [XFields.addr, XFields.hint, encStore, encXAddr, encGgMask, decGgMask, decSend, decRecv, encSend, encRecv, encAMov, decAMov, XFields.srcA, XFields.srcB, XFields.srcC, XFields.srcE, xf, encG, noSrc]
theorem RoundTrip.kfirst (d : Reg) (a : KReg) : RoundTrip.Statement (.kfirst d a) := by
  intro hw e he
  obtain rfl := Option.some.inj he
  change some (Instr.kfirst _ _) = _
  simp [XFields.addr, XFields.hint, encStore, encXAddr, encGgMask, decGgMask, decSend, decRecv, encSend, encRecv, encAMov, decAMov, XFields.srcA, XFields.srcB, XFields.srcC, XFields.srcE, xf, encG, noSrc]
theorem RoundTrip.mma (o : MmaOp) : RoundTrip.Statement (.mma o) := by
  intro hw e he
  obtain rfl := Option.some.inj he
  change (decMma _).map _ = _
  obtain ⟨f, d, a, b, c⟩ := o
  cases a <;> cases b <;> cases c <;> simp [encMma, decMma, encV, encXAddr, encAmoWith, XFields.mask, XFields.addr, XFields.hint, XFields.vhint, XFields.srcA, XFields.srcB, XFields.srcC, XFields.srcE, xf, encG, noSrc, XFields.dst, Dst.isRem, Dst.field, Dst.e, MOp.isQlm, MOp.field, MOp.trap]
theorem RoundTrip.aclr (d : AReg) : RoundTrip.Statement (.aclr d) := by
  intro hw e he
  obtain rfl := Option.some.inj he
  change some (Instr.aclr _) = _
  simp [XFields.addr, XFields.hint, encStore, encXAddr, encGgMask, decGgMask, decSend, decRecv, encSend, encRecv, encAMov, decAMov, XFields.srcA, XFields.srcB, XFields.srcC, XFields.srcE, xf, encG, noSrc]
theorem RoundTrip.ald (o : AccMem) : RoundTrip.Statement (.ald o) := by
  intro hw e he
  obtain rfl := Option.some.inj he
  change (decAccMem _).map _ = _
  simp [encAccMem, decAccMem, encV, encXAddr, encAmoWith, XFields.mask, XFields.addr, XFields.hint, XFields.vhint, XFields.srcA, XFields.srcB, XFields.srcC, XFields.srcE, xf, encG, noSrc, XFields.dst, Dst.isRem, Dst.field, Dst.e, MOp.isQlm, MOp.field, MOp.trap]
theorem RoundTrip.ast (o : AccMem) : RoundTrip.Statement (.ast o) := by
  intro hw e he
  obtain rfl := Option.some.inj he
  change (decAccMem _).map _ = _
  simp [encAccMem, decAccMem, encV, encXAddr, encAmoWith, XFields.mask, XFields.addr, XFields.hint, XFields.vhint, XFields.srcA, XFields.srcB, XFields.srcC, XFields.srcE, xf, encG, noSrc, XFields.dst, Dst.isRem, Dst.field, Dst.e, MOp.isQlm, MOp.field, MOp.trap]
theorem RoundTrip.amov (o : AMovOp) : RoundTrip.Statement (.amov o) := by
  intro hw e he
  obtain rfl := Option.some.inj he
  cases o <;> (change some (Instr.amov _) = _; simp [encAMov, decAMov, XFields.srcA, XFields.srcB, XFields.srcC, XFields.srcE, xf, encG, noSrc])
theorem RoundTrip.ggset (a : Src) (field : BitVec 3) : RoundTrip.Statement (.ggset a field) := by
  intro hw e he
  obtain rfl := Option.some.inj he
  change some (Instr.ggset _ _) = _
  simp [XFields.addr, XFields.hint, encStore, encXAddr, encGgMask, decGgMask, decSend, decRecv, encSend, encRecv, encAMov, decAMov, XFields.srcA, XFields.srcB, XFields.srcC, XFields.srcE, xf, encG, noSrc]
theorem RoundTrip.ggrng (d : Reg) (a : Src) (axis : Bool) : RoundTrip.Statement (.ggrng d a axis) := by
  intro hw e he
  obtain rfl := Option.some.inj he
  change some (Instr.ggrng _ _ _) = _
  cases axis <;> simp [XFields.addr, XFields.hint, encStore, encXAddr, encGgMask, decGgMask, decSend, decRecv, encSend, encRecv, encAMov, decAMov, XFields.srcA, XFields.srcB, XFields.srcC, XFields.srcE, xf, encG, noSrc]
theorem RoundTrip.ggmask (o : GgMaskOp) : RoundTrip.Statement (.ggmask o) := by
  intro hw e he
  obtain rfl := Option.some.inj he
  change some (Instr.ggmask _) = _
  obtain ⟨d, a, b, cl, r, c⟩ := o
  simp [encGgMask, decGgMask, XFields.srcA, XFields.srcB, XFields.srcC, XFields.srcE, xf, encG, noSrc]
  exact ⟨part0 _ _, part1 _ _ _, part2 _ _ _ _⟩
theorem RoundTrip.spawn (d : Reg) (a : Src) : RoundTrip.Statement (.spawn d a) := by
  intro hw e he
  obtain rfl := Option.some.inj he
  change some (Instr.spawn _ _) = _
  simp [XFields.addr, XFields.hint, encStore, encXAddr, encGgMask, decGgMask, decSend, decRecv, encSend, encRecv, encAMov, decAMov, XFields.srcA, XFields.srcB, XFields.srcC, XFields.srcE, xf, encG, noSrc]
theorem RoundTrip.spawnr (d : Reg) (a : Src) (b : Src) : RoundTrip.Statement (.spawnr d a b) := by
  intro hw e he
  obtain rfl := Option.some.inj he
  change some (Instr.spawnr _ _ _) = _
  simp [XFields.addr, XFields.hint, encStore, encXAddr, encGgMask, decGgMask, decSend, decRecv, encSend, encRecv, encAMov, decAMov, XFields.srcA, XFields.srcB, XFields.srcC, XFields.srcE, xf, encG, noSrc]
theorem RoundTrip.gang (d : Reg) (a : Src) : RoundTrip.Statement (.gang d a) := by
  intro hw e he
  obtain rfl := Option.some.inj he
  change some (Instr.gang _ _) = _
  simp [XFields.addr, XFields.hint, encStore, encXAddr, encGgMask, decGgMask, decSend, decRecv, encSend, encRecv, encAMov, decAMov, XFields.srcA, XFields.srcB, XFields.srcC, XFields.srcE, xf, encG, noSrc]
theorem RoundTrip.depset (d : Reg) (a : Src) (b : Src) : RoundTrip.Statement (.depset d a b) := by
  intro hw e he
  obtain rfl := Option.some.inj he
  change some (Instr.depset _ _ _) = _
  simp [XFields.addr, XFields.hint, encStore, encXAddr, encGgMask, decGgMask, decSend, decRecv, encSend, encRecv, encAMov, decAMov, XFields.srcA, XFields.srcB, XFields.srcC, XFields.srcE, xf, encG, noSrc]
theorem RoundTrip.depdec (a : Src) (n : BitVec 16) : RoundTrip.Statement (.depdec a n) := by
  intro hw e he
  obtain rfl := Option.some.inj he
  change some (Instr.depdec _ _) = _
  simp [XFields.addr, XFields.hint, encStore, encXAddr, encGgMask, decGgMask, decSend, decRecv, encSend, encRecv, encAMov, decAMov, XFields.srcA, XFields.srcB, XFields.srcC, XFields.srcE, xf, encG, noSrc]
theorem RoundTrip.epush (a : Src) (b : Src) : RoundTrip.Statement (.epush a b) := by
  intro hw e he
  obtain rfl := Option.some.inj he
  change some (Instr.epush _ _) = _
  simp [XFields.addr, XFields.hint, encStore, encXAddr, encGgMask, decGgMask, decSend, decRecv, encSend, encRecv, encAMov, decAMov, XFields.srcA, XFields.srcB, XFields.srcC, XFields.srcE, xf, encG, noSrc]
theorem RoundTrip.epop (d : Reg) (a : Src) : RoundTrip.Statement (.epop d a) := by
  intro hw e he
  obtain rfl := Option.some.inj he
  change some (Instr.epop _ _) = _
  simp [XFields.addr, XFields.hint, encStore, encXAddr, encGgMask, decGgMask, decSend, decRecv, encSend, encRecv, encAMov, decAMov, XFields.srcA, XFields.srcB, XFields.srcC, XFields.srcE, xf, encG, noSrc]
theorem RoundTrip.cancel (d : Reg) (a : Src) (prop : Bool) : RoundTrip.Statement (.cancel d a prop) := by
  intro hw e he
  obtain rfl := Option.some.inj he
  change some (Instr.cancel _ _ _) = _
  cases prop <;> simp [XFields.addr, XFields.hint, encStore, encXAddr, encGgMask, decGgMask, decSend, decRecv, encSend, encRecv, encAMov, decAMov, XFields.srcA, XFields.srcB, XFields.srcC, XFields.srcE, xf, encG, noSrc]
theorem RoundTrip.barinit (s : BitVec 3) (a : Src) (b : Src) : RoundTrip.Statement (.barinit s a b) := by
  intro hw e he
  obtain rfl := Option.some.inj he
  change some (Instr.barinit _ _ _) = _
  simp [XFields.addr, XFields.hint, encStore, encXAddr, encGgMask, decGgMask, decSend, decRecv, encSend, encRecv, encAMov, decAMov, XFields.srcA, XFields.srcB, XFields.srcC, XFields.srcE, xf, encG, noSrc]
theorem RoundTrip.bararv (s : BitVec 3) : RoundTrip.Statement (.bararv s) := by
  intro hw e he
  obtain rfl := Option.some.inj he
  change some (Instr.bararv _) = _
  simp [XFields.addr, XFields.hint, encStore, encXAddr, encGgMask, decGgMask, decSend, decRecv, encSend, encRecv, encAMov, decAMov, XFields.srcA, XFields.srcB, XFields.srcC, XFields.srcE, xf, encG, noSrc]
theorem RoundTrip.barwait (d : Reg) (s : BitVec 3) (t : Bool) : RoundTrip.Statement (.barwait d s t) := by
  intro hw e he
  obtain rfl := Option.some.inj he
  change some (Instr.barwait _ _ _) = _
  cases t <;> simp [XFields.addr, XFields.hint, encStore, encXAddr, encGgMask, decGgMask, decSend, decRecv, encSend, encRecv, encAMov, decAMov, XFields.srcA, XFields.srcB, XFields.srcC, XFields.srcE, xf, encG, noSrc]
theorem RoundTrip.barsync (d : Reg) (s : BitVec 3) (t : Bool) : RoundTrip.Statement (.barsync d s t) := by
  intro hw e he
  obtain rfl := Option.some.inj he
  change some (Instr.barsync _ _ _) = _
  cases t <;> simp [XFields.addr, XFields.hint, encStore, encXAddr, encGgMask, decGgMask, decSend, decRecv, encSend, encRecv, encAMov, decAMov, XFields.srcA, XFields.srcB, XFields.srcC, XFields.srcE, xf, encG, noSrc]
theorem RoundTrip.barack (s : BitVec 3) (a : Src) : RoundTrip.Statement (.barack s a) := by
  intro hw e he
  obtain rfl := Option.some.inj he
  change some (Instr.barack _ _) = _
  simp [XFields.addr, XFields.hint, encStore, encXAddr, encGgMask, decGgMask, decSend, decRecv, encSend, encRecv, encAMov, decAMov, XFields.srcA, XFields.srcB, XFields.srcC, XFields.srcE, xf, encG, noSrc]
theorem RoundTrip.barpois (s : BitVec 3) : RoundTrip.Statement (.barpois s) := by
  intro hw e he
  obtain rfl := Option.some.inj he
  change some (Instr.barpois _) = _
  simp [XFields.addr, XFields.hint, encStore, encXAddr, encGgMask, decGgMask, decSend, decRecv, encSend, encRecv, encAMov, decAMov, XFields.srcA, XFields.srcB, XFields.srcC, XFields.srcE, xf, encG, noSrc]
theorem RoundTrip.barstat (d : Reg) (s : BitVec 3) : RoundTrip.Statement (.barstat d s) := by
  intro hw e he
  obtain rfl := Option.some.inj he
  change some (Instr.barstat _ _) = _
  simp [XFields.addr, XFields.hint, encStore, encXAddr, encGgMask, decGgMask, decSend, decRecv, encSend, encRecv, encAMov, decAMov, XFields.srcA, XFields.srcB, XFields.srcC, XFields.srcE, xf, encG, noSrc]
theorem RoundTrip.l2pin (d : Reg) (a : Src) (b : Src) (w : BitVec 4) : RoundTrip.Statement (.l2pin d a b w) := by
  intro hw e he
  obtain rfl := Option.some.inj he
  change some (Instr.l2pin _ _ _ _) = _
  simp [XFields.addr, XFields.hint, encStore, encXAddr, encGgMask, decGgMask, decSend, decRecv, encSend, encRecv, encAMov, decAMov, XFields.srcA, XFields.srcB, XFields.srcC, XFields.srcE, xf, encG, noSrc]
theorem RoundTrip.l2unpin (d : Reg) (a : Src) : RoundTrip.Statement (.l2unpin d a) := by
  intro hw e he
  obtain rfl := Option.some.inj he
  change some (Instr.l2unpin _ _) = _
  simp [XFields.addr, XFields.hint, encStore, encXAddr, encGgMask, decGgMask, decSend, decRecv, encSend, encRecv, encAMov, decAMov, XFields.srcA, XFields.srcB, XFields.srcC, XFields.srcE, xf, encG, noSrc]
theorem RoundTrip.l2stat (d : Reg) (a : Src) (clr : Bool) : RoundTrip.Statement (.l2stat d a clr) := by
  intro hw e he
  obtain rfl := Option.some.inj he
  change some (Instr.l2stat _ _ _) = _
  cases clr <;> simp [XFields.addr, XFields.hint, encStore, encXAddr, encGgMask, decGgMask, decSend, decRecv, encSend, encRecv, encAMov, decAMov, XFields.srcA, XFields.srcB, XFields.srcC, XFields.srcE, xf, encG, noSrc]
theorem RoundTrip.l2flush (d : Reg) (a : Src) (b : Src) : RoundTrip.Statement (.l2flush d a b) := by
  intro hw e he
  obtain rfl := Option.some.inj he
  change some (Instr.l2flush _ _ _) = _
  simp [XFields.addr, XFields.hint, encStore, encXAddr, encGgMask, decGgMask, decSend, decRecv, encSend, encRecv, encAMov, decAMov, XFields.srcA, XFields.srcB, XFields.srcC, XFields.srcE, xf, encG, noSrc]
theorem RoundTrip.amoSwap (o : AmoOp) : RoundTrip.Statement (.amoSwap o) := by
  intro hw e he
  obtain rfl := Option.some.inj he
  change (decAmo _).map _ = _
  obtain ⟨dst, rest⟩ := o
  cases dst <;> simp [encAmo, decAmo, encV, encXAddr, encAmoWith, XFields.mask, XFields.addr, XFields.hint, XFields.vhint, XFields.srcA, XFields.srcB, XFields.srcC, XFields.srcE, xf, encG, noSrc, XFields.dst, Dst.isRem, Dst.field, Dst.e, MOp.isQlm, MOp.field, MOp.trap]
theorem RoundTrip.amoCas (o : CasOp) : RoundTrip.Statement (.amoCas o) := by
  intro hw e he
  obtain rfl := Option.some.inj he
  change (decCas _).map _ = _
  obtain ⟨dst, rest⟩ := o
  cases dst <;> simp [encCas, decCas, encV, encXAddr, encAmoWith, XFields.mask, XFields.addr, XFields.hint, XFields.vhint, XFields.srcA, XFields.srcB, XFields.srcC, XFields.srcE, xf, encG, noSrc, XFields.dst, Dst.isRem, Dst.field, Dst.e, MOp.isQlm, MOp.field, MOp.trap]
theorem RoundTrip.amoAdd (o : AmoOp) : RoundTrip.Statement (.amoAdd o) := by
  intro hw e he
  obtain rfl := Option.some.inj he
  change (decAmo _).map _ = _
  obtain ⟨dst, rest⟩ := o
  cases dst <;> simp [encAmo, decAmo, encV, encXAddr, encAmoWith, XFields.mask, XFields.addr, XFields.hint, XFields.vhint, XFields.srcA, XFields.srcB, XFields.srcC, XFields.srcE, xf, encG, noSrc, XFields.dst, Dst.isRem, Dst.field, Dst.e, MOp.isQlm, MOp.field, MOp.trap]
theorem RoundTrip.amoAnd (o : AmoOp) : RoundTrip.Statement (.amoAnd o) := by
  intro hw e he
  obtain rfl := Option.some.inj he
  change (decAmo _).map _ = _
  obtain ⟨dst, rest⟩ := o
  cases dst <;> simp [encAmo, decAmo, encV, encXAddr, encAmoWith, XFields.mask, XFields.addr, XFields.hint, XFields.vhint, XFields.srcA, XFields.srcB, XFields.srcC, XFields.srcE, xf, encG, noSrc, XFields.dst, Dst.isRem, Dst.field, Dst.e, MOp.isQlm, MOp.field, MOp.trap]
theorem RoundTrip.amoOr (o : AmoOp) : RoundTrip.Statement (.amoOr o) := by
  intro hw e he
  obtain rfl := Option.some.inj he
  change (decAmo _).map _ = _
  obtain ⟨dst, rest⟩ := o
  cases dst <;> simp [encAmo, decAmo, encV, encXAddr, encAmoWith, XFields.mask, XFields.addr, XFields.hint, XFields.vhint, XFields.srcA, XFields.srcB, XFields.srcC, XFields.srcE, xf, encG, noSrc, XFields.dst, Dst.isRem, Dst.field, Dst.e, MOp.isQlm, MOp.field, MOp.trap]
theorem RoundTrip.amoXor (o : AmoOp) : RoundTrip.Statement (.amoXor o) := by
  intro hw e he
  obtain rfl := Option.some.inj he
  change (decAmo _).map _ = _
  obtain ⟨dst, rest⟩ := o
  cases dst <;> simp [encAmo, decAmo, encV, encXAddr, encAmoWith, XFields.mask, XFields.addr, XFields.hint, XFields.vhint, XFields.srcA, XFields.srcB, XFields.srcC, XFields.srcE, xf, encG, noSrc, XFields.dst, Dst.isRem, Dst.field, Dst.e, MOp.isQlm, MOp.field, MOp.trap]
theorem RoundTrip.amoMin (o : AmoOp) : RoundTrip.Statement (.amoMin o) := by
  intro hw e he
  obtain rfl := Option.some.inj he
  change (decAmo _).map _ = _
  obtain ⟨dst, rest⟩ := o
  cases dst <;> simp [encAmo, decAmo, encV, encXAddr, encAmoWith, XFields.mask, XFields.addr, XFields.hint, XFields.vhint, XFields.srcA, XFields.srcB, XFields.srcC, XFields.srcE, xf, encG, noSrc, XFields.dst, Dst.isRem, Dst.field, Dst.e, MOp.isQlm, MOp.field, MOp.trap]
theorem RoundTrip.amoMax (o : AmoOp) : RoundTrip.Statement (.amoMax o) := by
  intro hw e he
  obtain rfl := Option.some.inj he
  change (decAmo _).map _ = _
  obtain ⟨dst, rest⟩ := o
  cases dst <;> simp [encAmo, decAmo, encV, encXAddr, encAmoWith, XFields.mask, XFields.addr, XFields.hint, XFields.vhint, XFields.srcA, XFields.srcB, XFields.srcC, XFields.srcE, xf, encG, noSrc, XFields.dst, Dst.isRem, Dst.field, Dst.e, MOp.isQlm, MOp.field, MOp.trap]
theorem RoundTrip.amoMinu (o : AmoOp) : RoundTrip.Statement (.amoMinu o) := by
  intro hw e he
  obtain rfl := Option.some.inj he
  change (decAmo _).map _ = _
  obtain ⟨dst, rest⟩ := o
  cases dst <;> simp [encAmo, decAmo, encV, encXAddr, encAmoWith, XFields.mask, XFields.addr, XFields.hint, XFields.vhint, XFields.srcA, XFields.srcB, XFields.srcC, XFields.srcE, xf, encG, noSrc, XFields.dst, Dst.isRem, Dst.field, Dst.e, MOp.isQlm, MOp.field, MOp.trap]
theorem RoundTrip.amoMaxu (o : AmoOp) : RoundTrip.Statement (.amoMaxu o) := by
  intro hw e he
  obtain rfl := Option.some.inj he
  change (decAmo _).map _ = _
  obtain ⟨dst, rest⟩ := o
  cases dst <;> simp [encAmo, decAmo, encV, encXAddr, encAmoWith, XFields.mask, XFields.addr, XFields.hint, XFields.vhint, XFields.srcA, XFields.srcB, XFields.srcC, XFields.srcE, xf, encG, noSrc, XFields.dst, Dst.isRem, Dst.field, Dst.e, MOp.isQlm, MOp.field, MOp.trap]
theorem RoundTrip.amoFadd (o : AmoOp) : RoundTrip.Statement (.amoFadd o) := by
  intro hw e he
  obtain rfl := Option.some.inj he
  change (decAmo _).map _ = _
  obtain ⟨dst, rest⟩ := o
  cases dst <;> simp [encAmo, decAmo, encV, encXAddr, encAmoWith, XFields.mask, XFields.addr, XFields.hint, XFields.vhint, XFields.srcA, XFields.srcB, XFields.srcC, XFields.srcE, xf, encG, noSrc, XFields.dst, Dst.isRem, Dst.field, Dst.e, MOp.isQlm, MOp.field, MOp.trap]
theorem RoundTrip.amoFmin (o : AmoOp) : RoundTrip.Statement (.amoFmin o) := by
  intro hw e he
  obtain rfl := Option.some.inj he
  change (decAmo _).map _ = _
  obtain ⟨dst, rest⟩ := o
  cases dst <;> simp [encAmo, decAmo, encV, encXAddr, encAmoWith, XFields.mask, XFields.addr, XFields.hint, XFields.vhint, XFields.srcA, XFields.srcB, XFields.srcC, XFields.srcE, xf, encG, noSrc, XFields.dst, Dst.isRem, Dst.field, Dst.e, MOp.isQlm, MOp.field, MOp.trap]
theorem RoundTrip.amoFmax (o : AmoOp) : RoundTrip.Statement (.amoFmax o) := by
  intro hw e he
  obtain rfl := Option.some.inj he
  change (decAmo _).map _ = _
  obtain ⟨dst, rest⟩ := o
  cases dst <;> simp [encAmo, decAmo, encV, encXAddr, encAmoWith, XFields.mask, XFields.addr, XFields.hint, XFields.vhint, XFields.srcA, XFields.srcB, XFields.srcC, XFields.srcE, xf, encG, noSrc, XFields.dst, Dst.isRem, Dst.field, Dst.e, MOp.isQlm, MOp.field, MOp.trap]
theorem RoundTrip.fence (sc : Scope) : RoundTrip.Statement (.fence sc) := by
  intro hw e he
  obtain rfl := Option.some.inj he
  change (scOf _).map _ = _
  simp [XFields.srcA, XFields.srcB, XFields.srcC, XFields.srcE, xf, encG, noSrc]
theorem RoundTrip.ifence : RoundTrip.Statement (.ifence) := by
  intro hw e he
  obtain rfl := Option.some.inj he
  change some (Instr.ifence) = _
  simp [XFields.addr, XFields.hint, encStore, encXAddr, encGgMask, decGgMask, decSend, decRecv, encSend, encRecv, encAMov, decAMov, XFields.srcA, XFields.srcB, XFields.srcC, XFields.srcE, xf, encG, noSrc]
theorem RoundTrip.drain : RoundTrip.Statement (.drain) := by
  intro hw e he
  obtain rfl := Option.some.inj he
  change some (Instr.drain) = _
  simp [XFields.addr, XFields.hint, encStore, encXAddr, encGgMask, decGgMask, decSend, decRecv, encSend, encRecv, encAMov, decAMov, XFields.srcA, XFields.srcB, XFields.srcC, XFields.srcE, xf, encG, noSrc]
theorem RoundTrip.sendam (a : Src) (b : Src) (c : Src) (e : Src) (imm : W32) : RoundTrip.Statement (.sendam a b c e imm) := by
  intro hw e he
  obtain rfl := Option.some.inj he
  change some (Instr.sendam _ _ _ _ _) = _
  simp [XFields.addr, XFields.hint, encStore, encXAddr, encGgMask, decGgMask, decSend, decRecv, encSend, encRecv, encAMov, decAMov, XFields.srcA, XFields.srcB, XFields.srcC, XFields.srcE, xf, encG, noSrc]
theorem RoundTrip.cpset (idx : BitVec 3) (a : Src) : RoundTrip.Statement (.cpset idx a) := by
  intro hw e he
  obtain rfl := Option.some.inj he
  change some (Instr.cpset _ _) = _
  simp [XFields.addr, XFields.hint, encStore, encXAddr, encGgMask, decGgMask, decSend, decRecv, encSend, encRecv, encAMov, decAMov, XFields.srcA, XFields.srcB, XFields.srcC, XFields.srcE, xf, encG, noSrc]
theorem RoundTrip.cpgo (d : Reg) : RoundTrip.Statement (.cpgo d) := by
  intro hw e he
  obtain rfl := Option.some.inj he
  change some (Instr.cpgo _) = _
  simp [XFields.addr, XFields.hint, encStore, encXAddr, encGgMask, decGgMask, decSend, decRecv, encSend, encRecv, encAMov, decAMov, XFields.srcA, XFields.srcB, XFields.srcC, XFields.srcE, xf, encG, noSrc]
theorem RoundTrip.cpstat (d : Reg) (a : Src) : RoundTrip.Statement (.cpstat d a) := by
  intro hw e he
  obtain rfl := Option.some.inj he
  change some (Instr.cpstat _ _) = _
  simp [XFields.addr, XFields.hint, encStore, encXAddr, encGgMask, decGgMask, decSend, decRecv, encSend, encRecv, encAMov, decAMov, XFields.srcA, XFields.srcB, XFields.srcC, XFields.srcE, xf, encG, noSrc]
theorem RoundTrip.cpabort (d : Reg) (a : Src) : RoundTrip.Statement (.cpabort d a) := by
  intro hw e he
  obtain rfl := Option.some.inj he
  change some (Instr.cpabort _ _) = _
  simp [XFields.addr, XFields.hint, encStore, encXAddr, encGgMask, decGgMask, decSend, decRecv, encSend, encRecv, encAMov, decAMov, XFields.srcA, XFields.srcB, XFields.srcC, XFields.srcE, xf, encG, noSrc]
theorem RoundTrip.waitany (d : Reg) (a : Src) (c : Bool) : RoundTrip.Statement (.waitany d a c) := by
  intro hw e he
  obtain rfl := Option.some.inj he
  change some (Instr.waitany _ _ _) = _
  cases c <;> simp [XFields.addr, XFields.hint, encStore, encXAddr, encGgMask, decGgMask, decSend, decRecv, encSend, encRecv, encAMov, decAMov, XFields.srcA, XFields.srcB, XFields.srcC, XFields.srcE, xf, encG, noSrc]
theorem RoundTrip.waitall (d : Reg) (a : Src) (c : Bool) : RoundTrip.Statement (.waitall d a c) := by
  intro hw e he
  obtain rfl := Option.some.inj he
  change some (Instr.waitall _ _ _) = _
  cases c <;> simp [XFields.addr, XFields.hint, encStore, encXAddr, encGgMask, decGgMask, decSend, decRecv, encSend, encRecv, encAMov, decAMov, XFields.srcA, XFields.srcB, XFields.srcC, XFields.srcE, xf, encG, noSrc]
theorem RoundTrip.ffrdy (d : Reg) (a : Src) : RoundTrip.Statement (.ffrdy d a) := by
  intro hw e he
  obtain rfl := Option.some.inj he
  change some (Instr.ffrdy _ _) = _
  simp [XFields.addr, XFields.hint, encStore, encXAddr, encGgMask, decGgMask, decSend, decRecv, encSend, encRecv, encAMov, decAMov, XFields.srcA, XFields.srcB, XFields.srcC, XFields.srcE, xf, encG, noSrc]
theorem RoundTrip.tagclr (a : Src) : RoundTrip.Statement (.tagclr a) := by
  intro hw e he
  obtain rfl := Option.some.inj he
  change some (Instr.tagclr _) = _
  simp [XFields.addr, XFields.hint, encStore, encXAddr, encGgMask, decGgMask, decSend, decRecv, encSend, encRecv, encAMov, decAMov, XFields.srcA, XFields.srcB, XFields.srcC, XFields.srcE, xf, encG, noSrc]
theorem RoundTrip.tagget (d : Reg) (t : BitVec 6) : RoundTrip.Statement (.tagget d t) := by
  intro hw e he
  obtain rfl := Option.some.inj he
  change some (Instr.tagget _ _) = _
  simp [XFields.addr, XFields.hint, encStore, encXAddr, encGgMask, decGgMask, decSend, decRecv, encSend, encRecv, encAMov, decAMov, XFields.srcA, XFields.srcB, XFields.srcC, XFields.srcE, xf, encG, noSrc]
theorem RoundTrip.creduce (d : Reg) (a : Src) : RoundTrip.Statement (.creduce d a) := by
  intro hw e he
  obtain rfl := Option.some.inj he
  change some (Instr.creduce _ _) = _
  simp [XFields.addr, XFields.hint, encStore, encXAddr, encGgMask, decGgMask, decSend, decRecv, encSend, encRecv, encAMov, decAMov, XFields.srcA, XFields.srcB, XFields.srcC, XFields.srcE, xf, encG, noSrc]
theorem RoundTrip.callred (d : Reg) (a : Src) : RoundTrip.Statement (.callred d a) := by
  intro hw e he
  obtain rfl := Option.some.inj he
  change some (Instr.callred _ _) = _
  simp [XFields.addr, XFields.hint, encStore, encXAddr, encGgMask, decGgMask, decSend, decRecv, encSend, encRecv, encAMov, decAMov, XFields.srcA, XFields.srcB, XFields.srcC, XFields.srcE, xf, encG, noSrc]
theorem RoundTrip.cbcast (d : Reg) (a : Src) : RoundTrip.Statement (.cbcast d a) := by
  intro hw e he
  obtain rfl := Option.some.inj he
  change some (Instr.cbcast _ _) = _
  simp [XFields.addr, XFields.hint, encStore, encXAddr, encGgMask, decGgMask, decSend, decRecv, encSend, encRecv, encAMov, decAMov, XFields.srcA, XFields.srcB, XFields.srcC, XFields.srcE, xf, encG, noSrc]
theorem RoundTrip.cgather (d : Reg) (a : Src) : RoundTrip.Statement (.cgather d a) := by
  intro hw e he
  obtain rfl := Option.some.inj he
  change some (Instr.cgather _ _) = _
  simp [XFields.addr, XFields.hint, encStore, encXAddr, encGgMask, decGgMask, decSend, decRecv, encSend, encRecv, encAMov, decAMov, XFields.srcA, XFields.srcB, XFields.srcC, XFields.srcE, xf, encG, noSrc]
theorem RoundTrip.sopen (d : Reg) (a : Src) (s : BitVec 3) (l : BitVec 4) : RoundTrip.Statement (.sopen d a s l) := by
  intro hw e he
  obtain rfl := Option.some.inj he
  change some (Instr.sopen _ _ _ _) = _
  simp [XFields.srcA, XFields.srcB, XFields.srcC, XFields.srcE, xf, encG, noSrc]
  exact ⟨part0 _ _, part1 _ _ _⟩
theorem RoundTrip.ssend (d : Reg) (a : Src) (item : SendItem) : RoundTrip.Statement (.ssend d a item) := by
  intro hw e he
  obtain rfl := Option.some.inj he
  cases item <;> (change some (Instr.ssend _ _ _) = _; simp [decSend, decRecv, encSend, encRecv, XFields.srcA, XFields.srcB, XFields.srcC, XFields.srcE, xf, encG, noSrc])
theorem RoundTrip.srecv (d : Reg) (a : Src) (item : RecvItem) : RoundTrip.Statement (.srecv d a item) := by
  intro hw e he
  obtain rfl := Option.some.inj he
  cases item <;> (change some (Instr.srecv _ _ _) = _; simp [decSend, decRecv, encSend, encRecv, XFields.srcA, XFields.srcB, XFields.srcC, XFields.srcE, xf, encG, noSrc])
theorem RoundTrip.spoll (d : Reg) (a : Src) (item : RecvItem) : RoundTrip.Statement (.spoll d a item) := by
  intro hw e he
  obtain rfl := Option.some.inj he
  cases item <;> (change some (Instr.spoll _ _ _) = _; simp [decSend, decRecv, encSend, encRecv, XFields.srcA, XFields.srcB, XFields.srcC, XFields.srcE, xf, encG, noSrc])
theorem RoundTrip.spass (d : Reg) (a : Src) (b : Src) : RoundTrip.Statement (.spass d a b) := by
  intro hw e he
  obtain rfl := Option.some.inj he
  change some (Instr.spass _ _ _) = _
  simp [XFields.addr, XFields.hint, encStore, encXAddr, encGgMask, decGgMask, decSend, decRecv, encSend, encRecv, encAMov, decAMov, XFields.srcA, XFields.srcB, XFields.srcC, XFields.srcE, xf, encG, noSrc]
theorem RoundTrip.saccept (d : Reg) (a : Src) (b : Src) : RoundTrip.Statement (.saccept d a b) := by
  intro hw e he
  obtain rfl := Option.some.inj he
  change some (Instr.saccept _ _ _) = _
  simp [XFields.addr, XFields.hint, encStore, encXAddr, encGgMask, decGgMask, decSend, decRecv, encSend, encRecv, encAMov, decAMov, XFields.srcA, XFields.srcB, XFields.srcC, XFields.srcE, xf, encG, noSrc]
theorem RoundTrip.sclose (a : Src) : RoundTrip.Statement (.sclose a) := by
  intro hw e he
  obtain rfl := Option.some.inj he
  change some (Instr.sclose _) = _
  simp [XFields.addr, XFields.hint, encStore, encXAddr, encGgMask, decGgMask, decSend, decRecv, encSend, encRecv, encAMov, decAMov, XFields.srcA, XFields.srcB, XFields.srcC, XFields.srcE, xf, encG, noSrc]
theorem RoundTrip.sstat (d : Reg) (a : Src) : RoundTrip.Statement (.sstat d a) := by
  intro hw e he
  obtain rfl := Option.some.inj he
  change some (Instr.sstat _ _) = _
  simp [XFields.addr, XFields.hint, encStore, encXAddr, encGgMask, decGgMask, decSend, decRecv, encSend, encRecv, encAMov, decAMov, XFields.srcA, XFields.srcB, XFields.srcC, XFields.srcE, xf, encG, noSrc]
theorem RoundTrip.swatch (a : Src) (t : BitVec 6) : RoundTrip.Statement (.swatch a t) := by
  intro hw e he
  obtain rfl := Option.some.inj he
  change some (Instr.swatch _ _) = _
  simp [XFields.addr, XFields.hint, encStore, encXAddr, encGgMask, decGgMask, decSend, decRecv, encSend, encRecv, encAMov, decAMov, XFields.srcA, XFields.srcB, XFields.srcC, XFields.srcE, xf, encG, noSrc]
theorem RoundTrip.sflush (d : Reg) (a : Src) : RoundTrip.Statement (.sflush d a) := by
  intro hw e he
  obtain rfl := Option.some.inj he
  change some (Instr.sflush _ _) = _
  simp [XFields.addr, XFields.hint, encStore, encXAddr, encGgMask, decGgMask, decSend, decRecv, encSend, encRecv, encAMov, decAMov, XFields.srcA, XFields.srcB, XFields.srcC, XFields.srcE, xf, encG, noSrc]
theorem RoundTrip.sfcfg (d : Reg) (a : Src) (b : Src) : RoundTrip.Statement (.sfcfg d a b) := by
  intro hw e he
  obtain rfl := Option.some.inj he
  change some (Instr.sfcfg _ _ _) = _
  simp [XFields.addr, XFields.hint, encStore, encXAddr, encGgMask, decGgMask, decSend, decRecv, encSend, encRecv, encAMov, decAMov, XFields.srcA, XFields.srcB, XFields.srcC, XFields.srcE, xf, encG, noSrc]
theorem RoundTrip.sfscl (d : Reg) (a : Src) (b : Src) (e : BitVec 6) : RoundTrip.Statement (.sfscl d a b e) := by
  intro hw e he
  obtain rfl := Option.some.inj he
  change some (Instr.sfscl _ _ _ _) = _
  simp [XFields.addr, XFields.hint, encStore, encXAddr, encGgMask, decGgMask, decSend, decRecv, encSend, encRecv, encAMov, decAMov, XFields.srcA, XFields.srcB, XFields.srcC, XFields.srcE, xf, encG, noSrc]
theorem RoundTrip.sfbias (d : Reg) (a : Src) (b : Src) (i16 : Bool) (s : BitVec 7) : RoundTrip.Statement (.sfbias d a b i16 s) := by
  intro hw e he
  obtain rfl := Option.some.inj he
  change some (Instr.sfbias _ _ _ _ _) = _
  cases i16 <;> simp [XFields.addr, XFields.hint, encStore, encXAddr, encGgMask, decGgMask, decSend, decRecv, encSend, encRecv, encAMov, decAMov, XFields.srcA, XFields.srcB, XFields.srcC, XFields.srcE, xf, encG, noSrc]
theorem RoundTrip.sfseed (d : Reg) (a : Src) (b : Src) : RoundTrip.Statement (.sfseed d a b) := by
  intro hw e he
  obtain rfl := Option.some.inj he
  change some (Instr.sfseed _ _ _) = _
  simp [XFields.addr, XFields.hint, encStore, encXAddr, encGgMask, decGgMask, decSend, decRecv, encSend, encRecv, encAMov, decAMov, XFields.srcA, XFields.srcB, XFields.srcC, XFields.srcE, xf, encG, noSrc]
theorem RoundTrip.sfrun (d : Reg) (a : Src) : RoundTrip.Statement (.sfrun d a) := by
  intro hw e he
  obtain rfl := Option.some.inj he
  change some (Instr.sfrun _ _) = _
  simp [XFields.addr, XFields.hint, encStore, encXAddr, encGgMask, decGgMask, decSend, decRecv, encSend, encRecv, encAMov, decAMov, XFields.srcA, XFields.srcB, XFields.srcC, XFields.srcE, xf, encG, noSrc]
theorem RoundTrip.sfwait (d : Reg) (a : Src) (t : Bool) : RoundTrip.Statement (.sfwait d a t) := by
  intro hw e he
  obtain rfl := Option.some.inj he
  change some (Instr.sfwait _ _ _) = _
  cases t <;> simp [XFields.addr, XFields.hint, encStore, encXAddr, encGgMask, decGgMask, decSend, decRecv, encSend, encRecv, encAMov, decAMov, XFields.srcA, XFields.srcB, XFields.srcC, XFields.srcE, xf, encG, noSrc]
theorem RoundTrip.sfsmp (d : Reg) (a : Src) (b : Src) (fp32 : Bool) : RoundTrip.Statement (.sfsmp d a b fp32) := by
  intro hw e he
  obtain rfl := Option.some.inj he
  change some (Instr.sfsmp _ _ _ _) = _
  cases fp32 <;> simp [XFields.addr, XFields.hint, encStore, encXAddr, encGgMask, decGgMask, decSend, decRecv, encSend, encRecv, encAMov, decAMov, XFields.srcA, XFields.srcB, XFields.srcC, XFields.srcE, xf, encG, noSrc]
theorem RoundTrip.sfhalt (d : Reg) (a : Src) : RoundTrip.Statement (.sfhalt d a) := by
  intro hw e he
  obtain rfl := Option.some.inj he
  change some (Instr.sfhalt _ _) = _
  simp [XFields.addr, XFields.hint, encStore, encXAddr, encGgMask, decGgMask, decSend, decRecv, encSend, encRecv, encAMov, decAMov, XFields.srcA, XFields.srcB, XFields.srcC, XFields.srcE, xf, encG, noSrc]
theorem RoundTrip.sfstat (d : Reg) (a : Src) : RoundTrip.Statement (.sfstat d a) := by
  intro hw e he
  obtain rfl := Option.some.inj he
  change some (Instr.sfstat _ _) = _
  simp [XFields.addr, XFields.hint, encStore, encXAddr, encGgMask, decGgMask, decSend, decRecv, encSend, encRecv, encAMov, decAMov, XFields.srcA, XFields.srcB, XFields.srcC, XFields.srcE, xf, encG, noSrc]
theorem RoundTrip.sfdln (d : Reg) (a : Src) (b : Src) (c : Src) : RoundTrip.Statement (.sfdln d a b c) := by
  intro hw e he
  obtain rfl := Option.some.inj he
  change some (Instr.sfdln _ _ _ _) = _
  simp [XFields.addr, XFields.hint, encStore, encXAddr, encGgMask, decGgMask, decSend, decRecv, encSend, encRecv, encAMov, decAMov, XFields.srcA, XFields.srcB, XFields.srcC, XFields.srcE, xf, encG, noSrc]
theorem RoundTrip.sfacpt (d : Reg) (a : Src) (b : Src) : RoundTrip.Statement (.sfacpt d a b) := by
  intro hw e he
  obtain rfl := Option.some.inj he
  change some (Instr.sfacpt _ _ _) = _
  simp [XFields.addr, XFields.hint, encStore, encXAddr, encGgMask, decGgMask, decSend, decRecv, encSend, encRecv, encAMov, decAMov, XFields.srcA, XFields.srcB, XFields.srcC, XFields.srcE, xf, encG, noSrc]
theorem RoundTrip.sfrel (d : Reg) (a : Src) : RoundTrip.Statement (.sfrel d a) := by
  intro hw e he
  obtain rfl := Option.some.inj he
  change some (Instr.sfrel _ _) = _
  simp [XFields.addr, XFields.hint, encStore, encXAddr, encGgMask, decGgMask, decSend, decRecv, encSend, encRecv, encAMov, decAMov, XFields.srcA, XFields.srcB, XFields.srcC, XFields.srcE, xf, encG, noSrc]
theorem RoundTrip.splload (a : Src) : RoundTrip.Statement (.splload a) := by
  intro hw e he
  obtain rfl := Option.some.inj he
  change some (Instr.splload _) = _
  simp [XFields.addr, XFields.hint, encStore, encXAddr, encGgMask, decGgMask, decSend, decRecv, encSend, encRecv, encAMov, decAMov, XFields.srcA, XFields.srcB, XFields.srcC, XFields.srcE, xf, encG, noSrc]
theorem RoundTrip.splget (d : Reg) (a : Src) : RoundTrip.Statement (.splget d a) := by
  intro hw e he
  obtain rfl := Option.some.inj he
  change some (Instr.splget _ _) = _
  simp [XFields.addr, XFields.hint, encStore, encXAddr, encGgMask, decGgMask, decSend, decRecv, encSend, encRecv, encAMov, decAMov, XFields.srcA, XFields.srcB, XFields.srcC, XFields.srcE, xf, encG, noSrc]
theorem RoundTrip.trap (imm : W32) : RoundTrip.Statement (.trap imm) := by
  intro hw e he
  obtain rfl := Option.some.inj he
  change some (Instr.trap _) = _
  simp [XFields.addr, XFields.hint, encStore, encXAddr, encGgMask, decGgMask, decSend, decRecv, encSend, encRecv, encAMov, decAMov, XFields.srcA, XFields.srcB, XFields.srcC, XFields.srcE, xf, encG, noSrc]
theorem RoundTrip.rdsr (d : Reg) (idx : BitVec 6) : RoundTrip.Statement (.rdsr d idx) := by
  intro hw e he
  obtain rfl := Option.some.inj he
  change some (Instr.rdsr _ _) = _
  simp [XFields.addr, XFields.hint, encStore, encXAddr, encGgMask, decGgMask, decSend, decRecv, encSend, encRecv, encAMov, decAMov, XFields.srcA, XFields.srcB, XFields.srcC, XFields.srcE, xf, encG, noSrc]
theorem RoundTrip.wrsr (idx : BitVec 6) (a : Src) : RoundTrip.Statement (.wrsr idx a) := by
  intro hw e he
  obtain rfl := Option.some.inj he
  change some (Instr.wrsr _ _) = _
  simp [XFields.addr, XFields.hint, encStore, encXAddr, encGgMask, decGgMask, decSend, decRecv, encSend, encRecv, encAMov, decAMov, XFields.srcA, XFields.srcB, XFields.srcC, XFields.srcE, xf, encG, noSrc]
theorem RoundTrip.pair (d : Reg) : RoundTrip.Statement (.pair d) := by
  intro hw e he
  obtain rfl := Option.some.inj he
  change some (Instr.pair _) = _
  simp [XFields.addr, XFields.hint, encStore, encXAddr, encGgMask, decGgMask, decSend, decRecv, encSend, encRecv, encAMov, decAMov, XFields.srcA, XFields.srcB, XFields.srcC, XFields.srcE, xf, encG, noSrc]
theorem RoundTrip.unpair (d : Reg) : RoundTrip.Statement (.unpair d) := by
  intro hw e he
  obtain rfl := Option.some.inj he
  change some (Instr.unpair _) = _
  simp [XFields.addr, XFields.hint, encStore, encXAddr, encGgMask, decGgMask, decSend, decRecv, encSend, encRecv, encAMov, decAMov, XFields.srcA, XFields.srcB, XFields.srcC, XFields.srcE, xf, encG, noSrc]
theorem RoundTrip.pmcfg (d : Reg) (n : BitVec 2) (a : Src) : RoundTrip.Statement (.pmcfg d n a) := by
  intro hw e he
  obtain rfl := Option.some.inj he
  change some (Instr.pmcfg _ _ _) = _
  simp [XFields.addr, XFields.hint, encStore, encXAddr, encGgMask, decGgMask, decSend, decRecv, encSend, encRecv, encAMov, decAMov, XFields.srcA, XFields.srcB, XFields.srcC, XFields.srcE, xf, encG, noSrc]
theorem RoundTrip.pmrd (d : Reg) (n : BitVec 2) : RoundTrip.Statement (.pmrd d n) := by
  intro hw e he
  obtain rfl := Option.some.inj he
  change some (Instr.pmrd _ _) = _
  simp [XFields.addr, XFields.hint, encStore, encXAddr, encGgMask, decGgMask, decSend, decRecv, encSend, encRecv, encAMov, decAMov, XFields.srcA, XFields.srcB, XFields.srcC, XFields.srcE, xf, encG, noSrc]
theorem RoundTrip.mark (a : Src) (imm : W32) : RoundTrip.Statement (.mark a imm) := by
  intro hw e he
  obtain rfl := Option.some.inj he
  change some (Instr.mark _ _) = _
  simp [XFields.addr, XFields.hint, encStore, encXAddr, encGgMask, decGgMask, decSend, decRecv, encSend, encRecv, encAMov, decAMov, XFields.srcA, XFields.srcB, XFields.srcC, XFields.srcE, xf, encG, noSrc]
theorem RoundTrip.loadDataArrival (t : Target) (d : Reg) (value : Word) (pois : Bool) : RoundTrip.Statement (.loadDataArrival t d value pois) := fun _ _ h => nomatch h
theorem RoundTrip.storeAck (t : Target) : RoundTrip.Statement (.storeAck t) := fun _ _ h => nomatch h
theorem RoundTrip.parkedStoreRetranslate (core : Nat) (entry : Nat) : RoundTrip.Statement (.parkedStoreRetranslate core entry) := fun _ _ h => nomatch h
theorem RoundTrip.remoteWriteArrival (w : RemWrite) : RoundTrip.Statement (.remoteWriteArrival w) := fun _ _ h => nomatch h
theorem RoundTrip.atomicAtHome (r : AmoReq) : RoundTrip.Statement (.atomicAtHome r) := fun _ _ h => nomatch h
theorem RoundTrip.atomicReturn (r : AmoReq) (old : Word) (pois : Bool) : RoundTrip.Statement (.atomicReturn r old pois) := fun _ _ h => nomatch h
theorem RoundTrip.activationRedelivery (core : Nat) : RoundTrip.Statement (.activationRedelivery core) := fun _ _ h => nomatch h
theorem RoundTrip.rxfull (core : Nat) : RoundTrip.Statement (.rxfull core) := fun _ _ h => nomatch h
theorem RoundTrip.edgeDeferredPush (p : EdgePush) : RoundTrip.Statement (.edgeDeferredPush p) := fun _ _ h => nomatch h
theorem RoundTrip.barrierArrival (ctx : Nat) (uid : Nat) (slot : Nat) (rank : Nat) (phase : Bool) : RoundTrip.Statement (.barrierArrival ctx uid slot rank phase) := fun _ _ h => nomatch h
theorem RoundTrip.barrierAck (ctx : Nat) (uid : Nat) (slot : Nat) : RoundTrip.Statement (.barrierAck ctx uid slot) := fun _ _ h => nomatch h
theorem RoundTrip.copyExecute (engine : Nat) : RoundTrip.Statement (.copyExecute engine) := fun _ _ h => nomatch h
theorem RoundTrip.copyCompletion (id : W32) : RoundTrip.Statement (.copyCompletion id) := fun _ _ h => nomatch h
theorem RoundTrip.collectiveCommit (ctx : Nat) (grp : Nat) (op : Nat) (outside : List CollPart) : RoundTrip.Statement (.collectiveCommit ctx grp op outside) := fun _ _ h => nomatch h
theorem RoundTrip.collectiveAbort (ctx : Nat) (grp : Nat) (op : Nat) : RoundTrip.Statement (.collectiveAbort ctx grp op) := fun _ _ h => nomatch h
theorem RoundTrip.collectiveWatchdog (ctx : Nat) (grp : Nat) (op : Nat) : RoundTrip.Statement (.collectiveWatchdog ctx grp op) := fun _ _ h => nomatch h
theorem RoundTrip.sfReply (t : Target) (d : Reg) (value : Word) (pois : Bool) (smp : Option (Nat × Nat)) : RoundTrip.Statement (.sfReply t d value pois smp) := fun _ _ h => nomatch h
theorem RoundTrip.settleSaturation (ctx : Nat) (region : Nat) (states : List Int) : RoundTrip.Statement (.settleSaturation ctx region states) := fun _ _ h => nomatch h
theorem RoundTrip.settleCertify (ctx : Nat) (region : Nat) (states : List Int) : RoundTrip.Statement (.settleCertify ctx region states) := fun _ _ h => nomatch h
theorem RoundTrip.settleTimeout (ctx : Nat) (region : Nat) (states : List Int) : RoundTrip.Statement (.settleTimeout ctx region states) := fun _ _ h => nomatch h
theorem RoundTrip.settleConfigError (ctx : Nat) (region : Nat) (blk : Nat) : RoundTrip.Statement (.settleConfigError ctx region blk) := fun _ _ h => nomatch h
theorem RoundTrip.strandItemArrival (ctx : Nat) (entry : Nat) (it : StrandItem) : RoundTrip.Statement (.strandItemArrival ctx entry it) := fun _ _ h => nomatch h
theorem RoundTrip.strandCreditReturn (ctx : Nat) (entry : Nat) : RoundTrip.Statement (.strandCreditReturn ctx entry) := fun _ _ h => nomatch h
theorem RoundTrip.strandMoveRequest (ctx : Nat) (entry : Nat) (sink : Bool) : RoundTrip.Statement (.strandMoveRequest ctx entry sink) := fun _ _ h => nomatch h
theorem RoundTrip.strandStopperArrival (ctx : Nat) (entry : Nat) : RoundTrip.Statement (.strandStopperArrival ctx entry) := fun _ _ h => nomatch h
theorem RoundTrip.strandRouteSwitch (ctx : Nat) (entry : Nat) : RoundTrip.Statement (.strandRouteSwitch ctx entry) := fun _ _ h => nomatch h
theorem RoundTrip.strandFray (ctx : Nat) (entry : Nat) : RoundTrip.Statement (.strandFray ctx entry) := fun _ _ h => nomatch h
theorem RoundTrip.traceRecord (r : TraceRec) (time : Nat) : RoundTrip.Statement (.traceRecord r time) := fun _ _ h => nomatch h
theorem RoundTrip.launchItemSend (win : Nat) : RoundTrip.Statement (.launchItemSend win) := fun _ _ h => nomatch h
theorem RoundTrip.launchItemAccept (win : Nat) : RoundTrip.Statement (.launchItemAccept win) := fun _ _ h => nomatch h
theorem RoundTrip.retireGo (base : Nat) : RoundTrip.Statement (.retireGo base) := fun _ _ h => nomatch h
theorem RoundTrip.retireSwitch (base : Nat) : RoundTrip.Statement (.retireSwitch base) := fun _ _ h => nomatch h
theorem RoundTrip.faultService (p : Packet) : RoundTrip.Statement (.faultService p) := fun _ _ h => nomatch h
theorem RoundTrip.errorDetected (e : ErrReport) : RoundTrip.Statement (.errorDetected e) := fun _ _ h => nomatch h
theorem RoundTrip.lashedExchange (ta : Nat) : RoundTrip.Statement (.lashedExchange ta) := fun _ _ h => nomatch h
theorem RoundTrip.thermalMove (die : Nat) (vquad : Nat) (target : Nat) : RoundTrip.Statement (.thermalMove die vquad target) := fun _ _ h => nomatch h
theorem RoundTrip.thermalEmergency : RoundTrip.Statement (.thermalEmergency) := fun _ _ h => nomatch h
theorem RoundTrip.thermalResume : RoundTrip.Statement (.thermalResume) := fun _ _ h => nomatch h
theorem RoundTrip.quadPowerGate (die : Nat) (pquad : Nat) : RoundTrip.Statement (.quadPowerGate die pquad) := fun _ _ h => nomatch h
theorem RoundTrip.quadWakeTest (die : Nat) (pquad : Nat) (failing : List Nat) : RoundTrip.Statement (.quadWakeTest die pquad failing) := fun _ _ h => nomatch h
theorem RoundTrip.controlInterval (canaries : List Nat) : RoundTrip.Statement (.controlInterval canaries) := fun _ _ h => nomatch h
theorem RoundTrip.railDroop (die : Nat) (row : Nat) : RoundTrip.Statement (.railDroop die row) := fun _ _ h => nomatch h
theorem RoundTrip.marginError (die : Nat) (row : Nat) (granule : Nat) : RoundTrip.Statement (.marginError die row granule) := fun _ _ h => nomatch h
theorem RoundTrip.histogramDecay : RoundTrip.Statement (.histogramDecay) := fun _ _ h => nomatch h
theorem RoundTrip.deviceLostTimeout (dev : Nat) : RoundTrip.Statement (.deviceLostTimeout dev) := fun _ _ h => nomatch h
theorem RoundTrip.hostMemAccess (write : Bool) (pa : Word) (bytes : List Byte) : RoundTrip.Statement (.hostMemAccess write pa bytes) := fun _ _ h => nomatch h
theorem RoundTrip.spdmRequest (code : Nat) : RoundTrip.Statement (.spdmRequest code) := fun _ _ h => nomatch h
theorem RoundTrip.powerOnReset : RoundTrip.Statement (.powerOnReset) := fun _ _ h => nomatch h
theorem RoundTrip.linkGridSnapshot : RoundTrip.Statement (.linkGridSnapshot) := fun _ _ h => nomatch h
theorem RoundTrip.replayRunGo : RoundTrip.Statement (.replayRunGo) := fun _ _ h => nomatch h
theorem RoundTrip.replayPassComplete : RoundTrip.Statement (.replayPassComplete) := fun _ _ h => nomatch h
theorem RoundTrip.replayEnforceTimeout (key : Nat) : RoundTrip.Statement (.replayEnforceTimeout key) := fun _ _ h => nomatch h
theorem RoundTrip.svcCreditWrite (total : Word) : RoundTrip.Statement (.svcCreditWrite total) := fun _ _ h => nomatch h
theorem RoundTrip.handlerActivationStart (core : Nat) : RoundTrip.Statement (.handlerActivationStart core) := fun _ _ h => nomatch h
theorem RoundTrip.taskStart (core : Nat) : RoundTrip.Statement (.taskStart core) := fun _ _ h => nomatch h
theorem RoundTrip.taskSteal (core : Nat) (victim : Nat) : RoundTrip.Statement (.taskSteal core victim) := fun _ _ h => nomatch h
theorem RoundTrip.gangPlace (die : Nat) : RoundTrip.Statement (.gangPlace die) := fun _ _ h => nomatch h
theorem RoundTrip.gangAgingReserve (die : Nat) : RoundTrip.Statement (.gangAgingReserve die) := fun _ _ h => nomatch h
theorem RoundTrip.unitResume (ctx : Nat) (rec : Word) : RoundTrip.Statement (.unitResume ctx rec) := fun _ _ h => nomatch h
theorem RoundTrip.budgetExpiry (ta : Nat) : RoundTrip.Statement (.budgetExpiry ta) := fun _ _ h => nomatch h
theorem RoundTrip.deadlineFire (ta : Nat) : RoundTrip.Statement (.deadlineFire ta) := fun _ _ h => nomatch h
theorem RoundTrip.deadlineDiversion (ta : Nat) : RoundTrip.Statement (.deadlineDiversion ta) := fun _ _ h => nomatch h
theorem RoundTrip.copyTrap (ta : Nat) : RoundTrip.Statement (.copyTrap ta) := fun _ _ h => nomatch h
theorem RoundTrip.pageWalk (ctx : Nat) (va : Word) : RoundTrip.Statement (.pageWalk ctx va) := fun _ _ h => nomatch h
theorem RoundTrip.ctxCreate : RoundTrip.Statement (.ctxCreate) := fun _ _ h => nomatch h
theorem RoundTrip.ctxKill : RoundTrip.Statement (.ctxKill) := fun _ _ h => nomatch h
theorem RoundTrip.inval : RoundTrip.Statement (.inval) := fun _ _ h => nomatch h
theorem RoundTrip.launchOpen : RoundTrip.Statement (.launchOpen) := fun _ _ h => nomatch h
theorem RoundTrip.launchClose : RoundTrip.Statement (.launchClose) := fun _ _ h => nomatch h
theorem RoundTrip.svcRing : RoundTrip.Statement (.svcRing) := fun _ _ h => nomatch h
theorem RoundTrip.duty : RoundTrip.Statement (.duty) := fun _ _ h => nomatch h
theorem RoundTrip.devLost : RoundTrip.Statement (.devLost) := fun _ _ h => nomatch h
theorem RoundTrip.lyongSetup : RoundTrip.Statement (.lyongSetup) := fun _ _ h => nomatch h
theorem RoundTrip.strandWire : RoundTrip.Statement (.strandWire) := fun _ _ h => nomatch h
theorem RoundTrip.strandFree : RoundTrip.Statement (.strandFree) := fun _ _ h => nomatch h
theorem RoundTrip.quiesce : RoundTrip.Statement (.quiesce) := fun _ _ h => nomatch h
theorem RoundTrip.imageWrite : RoundTrip.Statement (.imageWrite) := fun _ _ h => nomatch h
theorem RoundTrip.imageRestore : RoundTrip.Statement (.imageRestore) := fun _ _ h => nomatch h
theorem RoundTrip.unquiesce : RoundTrip.Statement (.unquiesce) := fun _ _ h => nomatch h
theorem RoundTrip.preempt : RoundTrip.Statement (.preempt) := fun _ _ h => nomatch h
theorem RoundTrip.thaw : RoundTrip.Statement (.thaw) := fun _ _ h => nomatch h
theorem RoundTrip.dbgMap : RoundTrip.Statement (.dbgMap) := fun _ _ h => nomatch h
theorem RoundTrip.unknownCommand : RoundTrip.Statement (.unknownCommand) := fun _ _ h => nomatch h
theorem RoundTrip.resume (ta : Nat) : RoundTrip.Statement (.resume ta) := fun _ _ h => nomatch h
theorem RoundTrip.skip (ta : Nat) : RoundTrip.Statement (.skip ta) := fun _ _ h => nomatch h
theorem RoundTrip.goto (ta : Nat) : RoundTrip.Statement (.goto ta) := fun _ _ h => nomatch h
theorem RoundTrip.fcont (ta : Nat) : RoundTrip.Statement (.fcont ta) := fun _ _ h => nomatch h
theorem RoundTrip.killt (ta : Nat) : RoundTrip.Statement (.killt ta) := fun _ _ h => nomatch h
theorem RoundTrip.killg (ta : Nat) : RoundTrip.Statement (.killg ta) := fun _ _ h => nomatch h
theorem RoundTrip.killc (ta : Nat) : RoundTrip.Statement (.killc ta) := fun _ _ h => nomatch h
theorem RoundTrip.replay (ta : Nat) : RoundTrip.Statement (.replay ta) := fun _ _ h => nomatch h
theorem RoundTrip.abandon (ta : Nat) : RoundTrip.Statement (.abandon ta) := fun _ _ h => nomatch h
theorem RoundTrip.grow (ta : Nat) : RoundTrip.Statement (.grow ta) := fun _ _ h => nomatch h
theorem RoundTrip.fbclr (ta : Nat) : RoundTrip.Statement (.fbclr ta) := fun _ _ h => nomatch h
theorem RoundTrip.traceEnable : RoundTrip.Statement (.traceEnable) := fun _ _ h => nomatch h
theorem RoundTrip.traceClear : RoundTrip.Statement (.traceClear) := fun _ _ h => nomatch h
theorem RoundTrip.traceResume : RoundTrip.Statement (.traceResume) := fun _ _ h => nomatch h
theorem RoundTrip.railPowerWrite (die : Nat) (row : Nat) (value : Word) : RoundTrip.Statement (.railPowerWrite die row value) := fun _ _ h => nomatch h
theorem RoundTrip.formatRegionWrite (f : Nat) : RoundTrip.Statement (.formatRegionWrite f) := fun _ _ h => nomatch h
theorem RoundTrip.registerWrite (addr : Word) (n : Nat) (value : Word) : RoundTrip.Statement (.registerWrite addr n value) := fun _ _ h => nomatch h
theorem RoundTrip.peerMemAccess (dev : Nat) (write : Bool) (pa : Word) (bytes : List Byte) : RoundTrip.Statement (.peerMemAccess dev write pa bytes) := fun _ _ h => nomatch h
theorem RoundTrip.lyongPortTraining (port : Nat) (up : Bool) : RoundTrip.Statement (.lyongPortTraining port up) := fun _ _ h => nomatch h
theorem RoundTrip.traceTailWrite (value : Word) : RoundTrip.Statement (.traceTailWrite value) := fun _ _ h => nomatch h
theorem RoundTrip.launchItemApproval (win : Nat) (ok : Bool) : RoundTrip.Statement (.launchItemApproval win ok) := fun _ _ h => nomatch h
theorem RoundTrip.add (d : Reg) (a : Reg) (b : Reg) : RoundTrip.Statement (.add d a b) := by
  intro hw e he
  obtain rfl := Option.some.inj he
  rfl
theorem RoundTrip.sub (d : Reg) (a : Reg) (b : Reg) : RoundTrip.Statement (.sub d a b) := by
  intro hw e he
  obtain rfl := Option.some.inj he
  rfl
theorem RoundTrip.mul (d : Reg) (a : Reg) (b : Reg) : RoundTrip.Statement (.mul d a b) := by
  intro hw e he
  obtain rfl := Option.some.inj he
  rfl
theorem RoundTrip.mulh (d : Reg) (a : Reg) (b : Reg) : RoundTrip.Statement (.mulh d a b) := by
  intro hw e he
  obtain rfl := Option.some.inj he
  rfl
theorem RoundTrip.mulhu (d : Reg) (a : Reg) (b : Reg) : RoundTrip.Statement (.mulhu d a b) := by
  intro hw e he
  obtain rfl := Option.some.inj he
  rfl
theorem RoundTrip.div (d : Reg) (a : Reg) (b : Reg) : RoundTrip.Statement (.div d a b) := by
  intro hw e he
  obtain rfl := Option.some.inj he
  rfl
theorem RoundTrip.divu (d : Reg) (a : Reg) (b : Reg) : RoundTrip.Statement (.divu d a b) := by
  intro hw e he
  obtain rfl := Option.some.inj he
  rfl
theorem RoundTrip.rem (d : Reg) (a : Reg) (b : Reg) : RoundTrip.Statement (.rem d a b) := by
  intro hw e he
  obtain rfl := Option.some.inj he
  rfl
theorem RoundTrip.remu (d : Reg) (a : Reg) (b : Reg) : RoundTrip.Statement (.remu d a b) := by
  intro hw e he
  obtain rfl := Option.some.inj he
  rfl
theorem RoundTrip.and (d : Reg) (a : Reg) (b : Reg) : RoundTrip.Statement (.and d a b) := by
  intro hw e he
  obtain rfl := Option.some.inj he
  rfl
theorem RoundTrip.or (d : Reg) (a : Reg) (b : Reg) : RoundTrip.Statement (.or d a b) := by
  intro hw e he
  obtain rfl := Option.some.inj he
  rfl
theorem RoundTrip.xor (d : Reg) (a : Reg) (b : Reg) : RoundTrip.Statement (.xor d a b) := by
  intro hw e he
  obtain rfl := Option.some.inj he
  rfl
theorem RoundTrip.andn (d : Reg) (a : Reg) (b : Reg) : RoundTrip.Statement (.andn d a b) := by
  intro hw e he
  obtain rfl := Option.some.inj he
  rfl
theorem RoundTrip.shl (d : Reg) (a : Reg) (b : Reg) : RoundTrip.Statement (.shl d a b) := by
  intro hw e he
  obtain rfl := Option.some.inj he
  rfl
theorem RoundTrip.shr (d : Reg) (a : Reg) (b : Reg) : RoundTrip.Statement (.shr d a b) := by
  intro hw e he
  obtain rfl := Option.some.inj he
  rfl
theorem RoundTrip.sra (d : Reg) (a : Reg) (b : Reg) : RoundTrip.Statement (.sra d a b) := by
  intro hw e he
  obtain rfl := Option.some.inj he
  rfl
theorem RoundTrip.rol (d : Reg) (a : Reg) (b : Reg) : RoundTrip.Statement (.rol d a b) := by
  intro hw e he
  obtain rfl := Option.some.inj he
  rfl
theorem RoundTrip.min (d : Reg) (a : Reg) (b : Reg) : RoundTrip.Statement (.min d a b) := by
  intro hw e he
  obtain rfl := Option.some.inj he
  rfl
theorem RoundTrip.max (d : Reg) (a : Reg) (b : Reg) : RoundTrip.Statement (.max d a b) := by
  intro hw e he
  obtain rfl := Option.some.inj he
  rfl
theorem RoundTrip.minu (d : Reg) (a : Reg) (b : Reg) : RoundTrip.Statement (.minu d a b) := by
  intro hw e he
  obtain rfl := Option.some.inj he
  rfl
theorem RoundTrip.maxu (d : Reg) (a : Reg) (b : Reg) : RoundTrip.Statement (.maxu d a b) := by
  intro hw e he
  obtain rfl := Option.some.inj he
  rfl
theorem RoundTrip.cmpEq (d : Reg) (a : Reg) (b : Reg) : RoundTrip.Statement (.cmpEq d a b) := by
  intro hw e he
  obtain rfl := Option.some.inj he
  rfl
theorem RoundTrip.cmpNe (d : Reg) (a : Reg) (b : Reg) : RoundTrip.Statement (.cmpNe d a b) := by
  intro hw e he
  obtain rfl := Option.some.inj he
  rfl
theorem RoundTrip.cmpLt (d : Reg) (a : Reg) (b : Reg) : RoundTrip.Statement (.cmpLt d a b) := by
  intro hw e he
  obtain rfl := Option.some.inj he
  rfl
theorem RoundTrip.cmpLtu (d : Reg) (a : Reg) (b : Reg) : RoundTrip.Statement (.cmpLtu d a b) := by
  intro hw e he
  obtain rfl := Option.some.inj he
  rfl
theorem RoundTrip.cmpGe (d : Reg) (a : Reg) (b : Reg) : RoundTrip.Statement (.cmpGe d a b) := by
  intro hw e he
  obtain rfl := Option.some.inj he
  rfl
theorem RoundTrip.cmpGeu (d : Reg) (a : Reg) (b : Reg) : RoundTrip.Statement (.cmpGeu d a b) := by
  intro hw e he
  obtain rfl := Option.some.inj he
  rfl
theorem RoundTrip.mov (d : Reg) (a : Reg) : RoundTrip.Statement (.mov d a) := by
  intro hw e he
  obtain rfl := Option.some.inj he
  rfl
theorem RoundTrip.clz (d : Reg) (a : Reg) : RoundTrip.Statement (.clz d a) := by
  intro hw e he
  obtain rfl := Option.some.inj he
  rfl
theorem RoundTrip.ctz (d : Reg) (a : Reg) : RoundTrip.Statement (.ctz d a) := by
  intro hw e he
  obtain rfl := Option.some.inj he
  rfl
theorem RoundTrip.popc (d : Reg) (a : Reg) : RoundTrip.Statement (.popc d a) := by
  intro hw e he
  obtain rfl := Option.some.inj he
  rfl
theorem RoundTrip.sextB (d : Reg) (a : Reg) : RoundTrip.Statement (.sextB d a) := by
  intro hw e he
  obtain rfl := Option.some.inj he
  rfl
theorem RoundTrip.sextH (d : Reg) (a : Reg) : RoundTrip.Statement (.sextH d a) := by
  intro hw e he
  obtain rfl := Option.some.inj he
  rfl
theorem RoundTrip.sextW (d : Reg) (a : Reg) : RoundTrip.Statement (.sextW d a) := by
  intro hw e he
  obtain rfl := Option.some.inj he
  rfl
theorem RoundTrip.zextB (d : Reg) (a : Reg) : RoundTrip.Statement (.zextB d a) := by
  intro hw e he
  obtain rfl := Option.some.inj he
  rfl
theorem RoundTrip.zextH (d : Reg) (a : Reg) : RoundTrip.Statement (.zextH d a) := by
  intro hw e he
  obtain rfl := Option.some.inj he
  rfl
theorem RoundTrip.zextW (d : Reg) (a : Reg) : RoundTrip.Statement (.zextW d a) := by
  intro hw e he
  obtain rfl := Option.some.inj he
  rfl
theorem RoundTrip.not (d : Reg) (a : Reg) : RoundTrip.Statement (.not d a) := by
  intro hw e he
  obtain rfl := Option.some.inj he
  rfl
theorem RoundTrip.brev (d : Reg) (a : Reg) : RoundTrip.Statement (.brev d a) := by
  intro hw e he
  obtain rfl := Option.some.inj he
  rfl
theorem RoundTrip.take (d : Reg) (a : Reg) : RoundTrip.Statement (.take d a) := by
  intro hw e he
  obtain rfl := Option.some.inj he
  rfl
theorem RoundTrip.ptest (d : Reg) (a : Reg) : RoundTrip.Statement (.ptest d a) := by
  intro hw e he
  obtain rfl := Option.some.inj he
  rfl
theorem RoundTrip.pempty (a : Reg) : RoundTrip.Statement (.pempty a) := by
  intro hw e he
  obtain rfl := Option.some.inj he
  rfl
theorem RoundTrip.addi (d : Reg) (a : Reg) (i : BitVec 11) : RoundTrip.Statement (.addi d a i) := by
  intro hw e he
  obtain rfl := Option.some.inj he
  exact congrArg (fun x => some (Instr.addi d a x)) (imm_ni ..)
theorem RoundTrip.andi (d : Reg) (a : Reg) (i : BitVec 11) : RoundTrip.Statement (.andi d a i) := by
  intro hw e he
  obtain rfl := Option.some.inj he
  exact congrArg (fun x => some (Instr.andi d a x)) (imm_ni ..)
theorem RoundTrip.ori (d : Reg) (a : Reg) (i : BitVec 11) : RoundTrip.Statement (.ori d a i) := by
  intro hw e he
  obtain rfl := Option.some.inj he
  exact congrArg (fun x => some (Instr.ori d a x)) (imm_ni ..)
theorem RoundTrip.xori (d : Reg) (a : Reg) (i : BitVec 11) : RoundTrip.Statement (.xori d a i) := by
  intro hw e he
  obtain rfl := Option.some.inj he
  exact congrArg (fun x => some (Instr.xori d a x)) (imm_ni ..)
theorem RoundTrip.shli (d : Reg) (a : Reg) (i : BitVec 11) : RoundTrip.Statement (.shli d a i) := by
  intro hw e he
  obtain rfl := Option.some.inj he
  exact congrArg (fun x => some (Instr.shli d a x)) (imm_ni ..)
theorem RoundTrip.shri (d : Reg) (a : Reg) (i : BitVec 11) : RoundTrip.Statement (.shri d a i) := by
  intro hw e he
  obtain rfl := Option.some.inj he
  exact congrArg (fun x => some (Instr.shri d a x)) (imm_ni ..)
theorem RoundTrip.srai (d : Reg) (a : Reg) (i : BitVec 11) : RoundTrip.Statement (.srai d a i) := by
  intro hw e he
  obtain rfl := Option.some.inj he
  exact congrArg (fun x => some (Instr.srai d a x)) (imm_ni ..)
theorem RoundTrip.cmpiEq (d : Reg) (a : Reg) (i : BitVec 11) : RoundTrip.Statement (.cmpiEq d a i) := by
  intro hw e he
  obtain rfl := Option.some.inj he
  exact congrArg (fun x => some (Instr.cmpiEq d a x)) (imm_ni ..)
theorem RoundTrip.cmpiLt (d : Reg) (a : Reg) (i : BitVec 11) : RoundTrip.Statement (.cmpiLt d a i) := by
  intro hw e he
  obtain rfl := Option.some.inj he
  exact congrArg (fun x => some (Instr.cmpiLt d a x)) (imm_ni ..)
theorem RoundTrip.cmpiLtu (d : Reg) (a : Reg) (i : BitVec 11) : RoundTrip.Statement (.cmpiLtu d a i) := by
  intro hw e he
  obtain rfl := Option.some.inj he
  exact congrArg (fun x => some (Instr.cmpiLtu d a x)) (imm_ni ..)
theorem RoundTrip.ldB (d : Reg) (a : Reg) (i : BitVec 11) : RoundTrip.Statement (.ldB d a i) := by
  intro hw e he
  obtain rfl := Option.some.inj he
  exact congrArg (fun x => some (Instr.ldB d a x)) (imm_ni ..)
theorem RoundTrip.ldH (d : Reg) (a : Reg) (i : BitVec 11) : RoundTrip.Statement (.ldH d a i) := by
  intro hw e he
  obtain rfl := Option.some.inj he
  exact congrArg (fun x => some (Instr.ldH d a x)) (imm_ni ..)
theorem RoundTrip.ldW (d : Reg) (a : Reg) (i : BitVec 11) : RoundTrip.Statement (.ldW d a i) := by
  intro hw e he
  obtain rfl := Option.some.inj he
  exact congrArg (fun x => some (Instr.ldW d a x)) (imm_ni ..)
theorem RoundTrip.ldD (d : Reg) (a : Reg) (i : BitVec 11) : RoundTrip.Statement (.ldD d a i) := by
  intro hw e he
  obtain rfl := Option.some.inj he
  exact congrArg (fun x => some (Instr.ldD d a x)) (imm_ni ..)
theorem RoundTrip.ldsB (d : Reg) (a : Reg) (i : BitVec 11) : RoundTrip.Statement (.ldsB d a i) := by
  intro hw e he
  obtain rfl := Option.some.inj he
  exact congrArg (fun x => some (Instr.ldsB d a x)) (imm_ni ..)
theorem RoundTrip.ldsH (d : Reg) (a : Reg) (i : BitVec 11) : RoundTrip.Statement (.ldsH d a i) := by
  intro hw e he
  obtain rfl := Option.some.inj he
  exact congrArg (fun x => some (Instr.ldsH d a x)) (imm_ni ..)
theorem RoundTrip.ldsW (d : Reg) (a : Reg) (i : BitVec 11) : RoundTrip.Statement (.ldsW d a i) := by
  intro hw e he
  obtain rfl := Option.some.inj he
  exact congrArg (fun x => some (Instr.ldsW d a x)) (imm_ni ..)
theorem RoundTrip.stB (d : Reg) (a : Reg) (i : BitVec 11) : RoundTrip.Statement (.stB d a i) := by
  intro hw e he
  obtain rfl := Option.some.inj he
  exact congrArg (fun x => some (Instr.stB d a x)) (imm_ni ..)
theorem RoundTrip.stH (d : Reg) (a : Reg) (i : BitVec 11) : RoundTrip.Statement (.stH d a i) := by
  intro hw e he
  obtain rfl := Option.some.inj he
  exact congrArg (fun x => some (Instr.stH d a x)) (imm_ni ..)
theorem RoundTrip.stW (d : Reg) (a : Reg) (i : BitVec 11) : RoundTrip.Statement (.stW d a i) := by
  intro hw e he
  obtain rfl := Option.some.inj he
  exact congrArg (fun x => some (Instr.stW d a x)) (imm_ni ..)
theorem RoundTrip.stD (d : Reg) (a : Reg) (i : BitVec 11) : RoundTrip.Statement (.stD d a i) := by
  intro hw e he
  obtain rfl := Option.some.inj he
  exact congrArg (fun x => some (Instr.stD d a x)) (imm_ni ..)
theorem RoundTrip.beq (a : Reg) (b : Reg) (off : BitVec 11) : RoundTrip.Statement (.beq a b off) := by
  intro hw e he
  obtain rfl := Option.some.inj he
  exact congrArg (fun x => some (Instr.beq a b x)) (imm_ni ..)
theorem RoundTrip.bne (a : Reg) (b : Reg) (off : BitVec 11) : RoundTrip.Statement (.bne a b off) := by
  intro hw e he
  obtain rfl := Option.some.inj he
  exact congrArg (fun x => some (Instr.bne a b x)) (imm_ni ..)
theorem RoundTrip.blt (a : Reg) (b : Reg) (off : BitVec 11) : RoundTrip.Statement (.blt a b off) := by
  intro hw e he
  obtain rfl := Option.some.inj he
  exact congrArg (fun x => some (Instr.blt a b x)) (imm_ni ..)
theorem RoundTrip.bltu (a : Reg) (b : Reg) (off : BitVec 11) : RoundTrip.Statement (.bltu a b off) := by
  intro hw e he
  obtain rfl := Option.some.inj he
  exact congrArg (fun x => some (Instr.bltu a b x)) (imm_ni ..)
theorem RoundTrip.bge (a : Reg) (b : Reg) (off : BitVec 11) : RoundTrip.Statement (.bge a b off) := by
  intro hw e he
  obtain rfl := Option.some.inj he
  exact congrArg (fun x => some (Instr.bge a b x)) (imm_ni ..)
theorem RoundTrip.bgeu (a : Reg) (b : Reg) (off : BitVec 11) : RoundTrip.Statement (.bgeu a b off) := by
  intro hw e he
  obtain rfl := Option.some.inj he
  exact congrArg (fun x => some (Instr.bgeu a b x)) (imm_ni ..)
theorem RoundTrip.br (off : BitVec 23) : RoundTrip.Statement (.br off) := by
  intro hw e he
  obtain rfl := Option.some.inj he
  exact congrArg (fun x => some (Instr.br x)) (off23_nj ..)
theorem RoundTrip.call (off : BitVec 23) : RoundTrip.Statement (.call off) := by
  intro hw e he
  obtain rfl := Option.some.inj he
  exact congrArg (fun x => some (Instr.call x)) (off23_nj ..)
theorem RoundTrip.jr (d : Reg) (a : Reg) : RoundTrip.Statement (.jr d a) := by
  intro hw e he
  obtain rfl := Option.some.inj he
  rfl
theorem RoundTrip.dbnz (a : Reg) (off : BitVec 11) : RoundTrip.Statement (.dbnz a off) := by
  intro hw e he
  obtain rfl := Option.some.inj he
  exact congrArg (fun x => some (Instr.dbnz a x)) (imm_ni ..)
theorem RoundTrip.endTask : RoundTrip.Statement (.endTask) := by
  intro hw e he
  obtain rfl := Option.some.inj he
  rfl
theorem RoundTrip.vadd (d : VReg) (a : VReg) (b : VReg) (ty : Ty) : RoundTrip.Statement (.vadd d a b ty) := by
  intro hw e he
  obtain rfl := Option.some.inj he
  change (tyOf _).map _ = _
  simp [nvec, nf]
theorem RoundTrip.vsub (d : VReg) (a : VReg) (b : VReg) (ty : Ty) : RoundTrip.Statement (.vsub d a b ty) := by
  intro hw e he
  obtain rfl := Option.some.inj he
  change (tyOf _).map _ = _
  simp [nvec, nf]
theorem RoundTrip.vmul (d : VReg) (a : VReg) (b : VReg) (ty : Ty) : RoundTrip.Statement (.vmul d a b ty) := by
  intro hw e he
  obtain rfl := Option.some.inj he
  change (tyOf _).map _ = _
  simp [nvec, nf]
theorem RoundTrip.vmin (d : VReg) (a : VReg) (b : VReg) (ty : Ty) : RoundTrip.Statement (.vmin d a b ty) := by
  intro hw e he
  obtain rfl := Option.some.inj he
  change (tyOf _).map _ = _
  simp [nvec, nf]
theorem RoundTrip.vmax (d : VReg) (a : VReg) (b : VReg) (ty : Ty) : RoundTrip.Statement (.vmax d a b ty) := by
  intro hw e he
  obtain rfl := Option.some.inj he
  change (tyOf _).map _ = _
  simp [nvec, nf]
theorem RoundTrip.vand (d : VReg) (a : VReg) (b : VReg) (ty : Ty) : RoundTrip.Statement (.vand d a b ty) := by
  intro hw e he
  obtain rfl := Option.some.inj he
  change (tyOf _).map _ = _
  simp [nvec, nf]
theorem RoundTrip.vor (d : VReg) (a : VReg) (b : VReg) (ty : Ty) : RoundTrip.Statement (.vor d a b ty) := by
  intro hw e he
  obtain rfl := Option.some.inj he
  change (tyOf _).map _ = _
  simp [nvec, nf]
theorem RoundTrip.vxor (d : VReg) (a : VReg) (b : VReg) (ty : Ty) : RoundTrip.Statement (.vxor d a b ty) := by
  intro hw e he
  obtain rfl := Option.some.inj he
  change (tyOf _).map _ = _
  simp [nvec, nf]
theorem RoundTrip.spliceWord (idx : BitVec 7) (ha : BitVec 6) (hb : BitVec 6) (hc : BitVec 6) (hd : BitVec 5) : RoundTrip.Statement (.spliceWord idx ha hb hc hd) := fun _ _ he => by obtain rfl := Option.some.inj he; rfl
theorem RoundTrip.illegalWord : RoundTrip.Statement (.illegalWord) := fun _ _ h => nomatch h

end Sys2Proof.Laws
end

