-- ==== Sys2Proof/Safety.lean ====
section
/-! DEFINITION. What counts as a safe run: the machine never stops. No event of the PX9 ends it: every fault of the
spec freezes a slot and is a next state (19_preemption.md R335). -/

namespace Sys2Proof.Machine

/-- A step has a next state. -/
def State.Goes (s : State) : Prop := ∃ t, step s = .next t

/-- n steps from a state, each with a next state. -/
def State.Runs : Nat → State → State → Prop
  | 0, s, t => s = t
  | n + 1, s, t => ∃ u, step s = .next u ∧ State.Runs n u t

end Sys2Proof.Machine
end

