-- ==== Sys2Proof/Certificates/Slice0/Obligations.lean ====
section
/-! DEFINITION. What is claimed of the model, for the provers: the words the claims use, and one definition per claim. -/

namespace Sys2Proof.Claims

open Sys2Proof.Machine

/-! ## Words of the claims -/

/-- The issuing slot is no lashed pair: it has no exchange points (R378). -/
def Solo (s : State) : Prop := s.me.paired = false

/-- A g register of the issuing slot is FULL (R20). -/
def Full (s : State) (r : Reg) : Prop := (s.me.greg r).pres = .full

/-- A g register of the issuing slot is not pending (R22). -/
def Free (s : State) (r : Reg) : Prop := (s.me.greg r).pend = false

/-- Every g source of a list is FULL. -/
def FullAll (s : State) (l : List Src) : Prop := ∀ x ∈ l, Full s x.reg

/-- No store of the issuing slot is parked or was discarded at a view: the wait for RPQ = 0 passes (R105). -/
def Quiet (s : State) : Prop := s.me.viewBad = none ∧ s.myRpq s.cur = []

/-- The issuing slot has no atomic under way, and no value that it acquires is outstanding (R211). -/
def NoAmo (s : State) : Prop := s.accessHeld = false

/-- An instruction ends and PC goes to the next one as fetched (R36). -/
def ended (p : Pipe) (s : State) : State := (s.countIssue p).retireTo s.nextPc

/-- An instruction ends and PC goes to a target. -/
def endedAt (p : Pipe) (t : Word) (s : State) : State := (s.countIssue p).retireTo t

/-- The special registers of a slot that hold state (R25), but for FPCTL. -/
def specials (sl : Slot) : List Word :=
  [sl.taskid, sl.tcoord, sl.arg, sl.ctxid, sl.self, BitVec.ofNat 64 sl.budget, sl.tagrdy, sl.ggeo0, sl.ggeo1, sl.spt, sl.fcont,
    sl.fcode, sl.faddr, sl.dline, sl.dlfb, BitVec.ofNat 64 sl.stq, sl.graph, sl.capl, sl.pairst]

/-- What an instruction that writes only registers leaves as it was: every byte of memory and its poison, every other slot,
and of the issuing slot every register but the named ones; `fp` says that FPCTL and the LFSR may change. -/
structure Kept (s t : State) (gs : List Reg) (vs : List VReg) (ks : List KReg) (as : List AReg) (fp : Bool) : Prop where
  cur : t.cur = s.cur
  mem : ∀ k, Memory.get t.mem k = Memory.get s.mem k
  poison : t.poison = s.poison
  others : ∀ ta, ta ≠ s.cur → t.slot ta = s.slot ta
  g : ∀ r, r ∉ gs → t.me.greg r = s.me.greg r
  v : ∀ r, r ∉ vs → t.vreg r = s.vreg r ∧ t.vpois r = s.vpois r
  k : ∀ r, r ∉ ks → t.kreg r = s.kreg r
  a : ∀ r : AReg, r ∉ as → t.me.a[r.toNat]'(r.isLt) = s.me.a[r.toNat]'(r.isLt)
  special : specials t.me = specials s.me
  fpctl : fp = false → t.me.fpctl = s.me.fpctl ∧ t.me.lfsr = s.me.lfsr
  copies : t.me.shadow = s.me.shadow ∧ t.me.tags = s.me.tags ∧ t.me.copn = s.me.copn

end Sys2Proof.Claims

namespace Sys2Proof.Claims

open Sys2Proof.Machine

/-! ## Integers (R88 to R95) -/

/-- Functions 0 to 26 as R88 and R89 give them: the native word, the extended form, and the result from x and y. -/
noncomputable def int3Table : List ((Reg → Reg → Reg → Instr) × (XInt → Instr) × (Word → Word → Word)) :=
  [(.add, .addX, fun x y => BitVec.ofNat 64 (x.toNat + y.toNat)),
   (.sub, .subX, fun x y => BitVec.ofInt 64 (x.toInt - y.toInt)),
   (.mul, .mulX, fun x y => BitVec.ofNat 64 (x.toNat * y.toNat)),
   (.mulh, .mulhX, fun x y => BitVec.ofInt 64 (x.toInt * y.toInt / 2 ^ 64)),
   (.mulhu, .mulhuX, fun x y => BitVec.ofNat 64 (x.toNat * y.toNat / 2 ^ 64)),
   (.div, .divX, fun x y => if y = 0 then BitVec.allOnes 64 else BitVec.ofInt 64 (x.toInt.tdiv y.toInt)),
   (.divu, .divuX, fun x y => if y = 0 then BitVec.allOnes 64 else BitVec.ofNat 64 (x.toNat / y.toNat)),
   (.rem, .remX, fun x y => if y = 0 then x else BitVec.ofInt 64 (x.toInt - x.toInt.tdiv y.toInt * y.toInt)),
   (.remu, .remuX, fun x y => if y = 0 then x else BitVec.ofNat 64 (x.toNat - x.toNat / y.toNat * y.toNat)),
   (.and, .andX, fun x y => x &&& y),
   (.or, .orX, fun x y => x ||| y),
   (.xor, .xorX, fun x y => x ^^^ y),
   (.andn, .andnX, fun x y => x &&& ~~~y),
   (.shl, .shlX, fun x y => x <<< (y.toNat % 64)),
   (.shr, .shrX, fun x y => x >>> (y.toNat % 64)),
   (.sra, .sraX, fun x y => x.sshiftRight (y.toNat % 64)),
   (.rol, .rolX, fun x y => x.rotateLeft (y.toNat % 64)),
   (.min, .minX, fun x y => if x.toInt ≤ y.toInt then x else y),
   (.max, .maxX, fun x y => if y.toInt ≤ x.toInt then x else y),
   (.minu, .minuX, fun x y => if x.toNat ≤ y.toNat then x else y),
   (.maxu, .maxuX, fun x y => if y.toNat ≤ x.toNat then x else y),
   (.cmpEq, .cmpEqX, fun x y => if x = y then 1 else 0),
   (.cmpNe, .cmpNeX, fun x y => if x = y then 0 else 1),
   (.cmpLt, .cmpLtX, fun x y => if x.toInt < y.toInt then 1 else 0),
   (.cmpLtu, .cmpLtuX, fun x y => if x.toNat < y.toNat then 1 else 0),
   (.cmpGe, .cmpGeX, fun x y => if y.toInt ≤ x.toInt then 1 else 0),
   (.cmpGeu, .cmpGeuX, fun x y => if y.toNat ≤ x.toNat then 1 else 0)]

/-- A register at the start of an arithmetic word or form whose sources are FULL and whose destination is not pending
becomes FULL with the result of x and y, and the instruction ends. -/
def Gives (i : Instr) (s : State) (d : Reg) (v : Word) : Prop := exec i s = .next (ended .s (s.putG d v))

/-- The second operand (R87). -/
def yOf (s : State) : YOp → Word
  | .reg b => (s.me.greg b.reg).val
  | .imm i => i.signExtend 64
  | .lit l => l

/-- The sources of y. -/
def ySrcs : YOp → List Src
  | .reg b => [b]
  | _ => []

end Sys2Proof.Claims

open Sys2Proof Sys2Proof.Machine Sys2Proof.Claims in
/-- R88, R89: with its sources FULL and its destination not pending, every native word of INT3 and every function 0 to 26 of
XINT with a local destination writes the result of its table row, FULL, and ends. Nothing else of the state changes but what
retirement changes. A write of g0 is discarded (R21). -/
def Obligations.IntegerResults : Prop :=
  ∀ e ∈ int3Table, ∀ s : State, Solo s →
    (∀ d a b : Reg, Full s a → Full s b → Free s d →
      Gives (e.1 d a b) s d (e.2.2 (s.me.greg a).val (s.me.greg b).val)) ∧
    (∀ (d : Reg) (a : Src) (y : YOp), FullAll s (a :: ySrcs y) → Free s d →
      Gives (e.2.1 ⟨.loc d, a, y⟩) s d (e.2.2 (s.me.greg a.reg).val (yOf s y)))

namespace Sys2Proof.Claims

open Sys2Proof.Machine

/-- The immediate forms (R90): the result from x and s. -/
noncomputable def immTable : List ((Reg → Reg → BitVec 11 → Instr) × (Word → Word → Word)) :=
  [(.addi, fun x c => x + c), (.andi, fun x c => x &&& c), (.ori, fun x c => x ||| c), (.xori, fun x c => x ^^^ c),
   (.shli, fun x c => x <<< (c.toNat % 64)), (.shri, fun x c => x >>> (c.toNat % 64)),
   (.srai, fun x c => x.sshiftRight (c.toNat % 64)), (.cmpiEq, fun x c => if x = c then 1 else 0),
   (.cmpiLt, fun x c => if x.toInt < c.toInt then 1 else 0), (.cmpiLtu, fun x c => if x.toNat < c.toNat then 1 else 0)]

/-- n is the number of leading zero bits of x. -/
def LeadingZeros (x : Word) (n : Nat) : Prop :=
  n ≤ 64 ∧ (∀ i, 64 - n ≤ i → i < 64 → x.getLsbD i = false) ∧ (n < 64 → x.getLsbD (63 - n) = true)

/-- n is the number of trailing zero bits of x. -/
def TrailingZeros (x : Word) (n : Nat) : Prop :=
  n ≤ 64 ∧ (∀ i, i < n → x.getLsbD i = false) ∧ (n < 64 → x.getLsbD n = true)

/-- The functions 0 to 11 of INT1 (R95): what the result is of x. -/
noncomputable def int1Table : List ((Reg → Reg → Instr) × (Word → Word → Prop)) :=
  [(.mov, fun x r => r = x),
   (.clz, fun x r => LeadingZeros x r.toNat),
   (.ctz, fun x r => TrailingZeros x r.toNat),
   (.popc, fun x r => r.toNat = ((List.range 64).filter fun i => x.getLsbD i).length),
   (.sextB, fun x r => r = (x.setWidth 8).signExtend 64),
   (.sextH, fun x r => r = (x.setWidth 16).signExtend 64),
   (.sextW, fun x r => r = (x.setWidth 32).signExtend 64),
   (.zextB, fun x r => r = (x.setWidth 8).setWidth 64),
   (.zextH, fun x r => r = (x.setWidth 16).setWidth 64),
   (.zextW, fun x r => r = (x.setWidth 32).setWidth 64),
   (.not, fun x r => r = ~~~x),
   (.brev, fun x r => ∀ i, i < 64 → r.getLsbD (63 - i) = x.getLsbD i)]

end Sys2Proof.Claims

open Sys2Proof Sys2Proof.Machine Sys2Proof.Claims in
/-- R90: every immediate form writes its result of x and the sign-extended constant, and ends. -/
def Obligations.ImmediateResults : Prop :=
  ∀ e ∈ immTable, ∀ (s : State) (d a : Reg) (c : BitVec 11), Solo s → Full s a → Free s d →
    Gives (e.1 d a c) s d (e.2 (s.me.greg a).val (c.signExtend 64))

open Sys2Proof Sys2Proof.Machine Sys2Proof.Claims in
/-- R95: every one-source function of INT1 but the presence functions writes its result of x, and ends. -/
def Obligations.OneSourceResults : Prop :=
  ∀ e ∈ int1Table, ∀ (s : State) (d a : Reg), Solo s → Full s a → Free s d →
    ∃ r, e.2 (s.me.greg a).val r ∧ Gives (e.1 d a) s d r

open Sys2Proof Sys2Proof.Machine Sys2Proof.Claims in
/-- R91 to R94: SEL, BFX, BFI, ADDPC and LI with a local destination write their results and end. -/
def Obligations.FieldResults : Prop :=
  ∀ (s : State) (d : Reg), Solo s → Free s d →
    (∀ (a : Src) (y : YOp) (c : Src), FullAll s ((a :: ySrcs y) ++ [c]) →
      Gives (.sel ⟨.loc d, a, y, c⟩) s d (if (s.me.greg c.reg).val ≠ 0 then (s.me.greg a.reg).val else yOf s y)) ∧
    (∀ (a : Src) (p w : BitVec 6), FullAll s [a] → p.toNat + w.toNat + 1 ≤ 64 →
      Gives (.bfx ⟨.loc d, a, p, w, false⟩) s d (((s.me.greg a.reg).val.extractLsb' p.toNat (w.toNat + 1)).setWidth 64) ∧
      Gives (.bfx ⟨.loc d, a, p, w, true⟩) s d (((s.me.greg a.reg).val.extractLsb' p.toNat (w.toNat + 1)).signExtend 64)) ∧
    (∀ (a b : Src) (p w : BitVec 6), FullAll s [a, b] → p.toNat + w.toNat + 1 ≤ 64 →
      ∃ r : Word, Gives (.bfi ⟨.loc d, a, b, p, w⟩) s d r ∧ ∀ i, i < 64 →
        r.getLsbD i = if p.toNat ≤ i ∧ i ≤ p.toNat + w.toNat then (s.me.greg a.reg).val.getLsbD (i - p.toNat)
          else (s.me.greg b.reg).val.getLsbD i) ∧
    (∀ off : W32, Gives (.addpc (.loc d) off) s d (s.me.pc + off.signExtend 64)) ∧
    (∀ y : YOp, FullAll s (ySrcs y) → Gives (.li (.loc d) y) s d (yOf s y))

namespace Sys2Proof.Claims

open Sys2Proof.Machine

/-! ## Retirement, branches and presence (R20 to R38, R96 to R112) -/

/-- Outside the issuing slot nothing changes but the event counters of the cores. -/
structure Local (s t : State) : Prop where
  rest : { t with slots := s.slots, cores := s.cores } = s
  cores : ∀ c, { t.core c with pmc := (s.core c).pmc } = s.core c

/-- The instruction ends with PC at `pc`, changes no register but those of `gs`, and nothing outside the slot. -/
def GoesTo (i : Instr) (s : State) (pc : Word) (gs : List (Reg × Word)) : Prop :=
  ∃ t, exec i s = .next t ∧ t.me.pc = pc ∧ (∀ x ∈ gs, x.1 ≠ 0 → t.me.greg x.1 = ⟨x.2, .full, false⟩) ∧
    Kept s t (gs.map Prod.fst) [] [] [] false ∧ Local s t

/-- The conditional branches: native word, XBR form, and the condition (R109). -/
noncomputable def condTable : List ((Reg → Reg → BitVec 11 → Instr) × (Src → Src → W32 → Instr) × (Word → Word → Bool)) :=
  [(.beq, .beqX, fun x y => decide (x = y)), (.bne, .bneX, fun x y => decide (x ≠ y)),
   (.blt, .bltX, fun x y => decide (x.toInt < y.toInt)), (.bltu, .bltuX, fun x y => decide (x.toNat < y.toNat)),
   (.bge, .bgeX, fun x y => decide (y.toInt ≤ x.toInt)), (.bgeu, .bgeuX, fun x y => decide (y.toNat ≤ x.toNat))]

/-- No remote write waits for a register of the issuing slot (R23). -/
def NoMail (s : State) (r : Reg) : Prop :=
  ∀ m ∈ (s.core s.myCore).rxq, m.kind = 0 → m.ta = s.cur → m.uid = s.me.uid → 32 + m.reg.toNat ≠ r.toNat

/-- The instruction ends in order, with the registers of the slot as `f` leaves them and nothing else changed. -/
def Leaves (i : Instr) (s : State) (gs : List Reg) (P : Slot → Prop) : Prop :=
  ∃ t, exec i s = .next t ∧ t.me.pc = s.nextPc ∧ P t.me ∧ Kept s t gs [] [] [] false ∧ Local s t

/-- A fault is taken (R335): the slot freezes with PC at the instruction and holds the packet, which goes to the
supervisor; nothing else of the slot, no other slot and no byte of memory changes. -/
structure Faulted (s t : State) (code : Nat) (faddr : Word) : Prop where
  me : ∃ p : Packet, t.me = { s.me with st := .frozen, pkt := p } ∧ p.fcode = code ∧ p.faddr = faddr ∧
    p.pc = s.me.pc ∧ p.taddr = BitVec.ofNat 64 s.cur ∧ p.taskid = s.me.taskid ∧ p.ctxn = s.me.ctx ∧ p.instr = s.me.words ∧
    p.park = false ∧ ∃ l, t.agenda = s.agenda ++ .faultService p :: l ∧ l.length ≤ 1
  cur : t.cur = s.cur
  mem : t.mem = s.mem
  poison : t.poison = s.poison
  others : ∀ ta, ta ≠ s.cur → t.slot ta = s.slot ta

/-- The g sources of an instruction that examines them first, in order (R30, R43, R46). -/
def sourcesOf : Instr → Option (List Src)
  | .add _ a b | .sub _ a b | .mul _ a b | .mulh _ a b | .mulhu _ a b | .div _ a b | .divu _ a b | .rem _ a b | .remu _ a b
  | .and _ a b | .or _ a b | .xor _ a b | .andn _ a b | .shl _ a b | .shr _ a b | .sra _ a b | .rol _ a b
  | .min _ a b | .max _ a b | .minu _ a b | .maxu _ a b | .cmpEq _ a b | .cmpNe _ a b | .cmpLt _ a b | .cmpLtu _ a b
  | .cmpGe _ a b | .cmpGeu _ a b | .beq a b _ | .bne a b _ | .blt a b _ | .bltu a b _ | .bge a b _ | .bgeu a b _
  | .stB b a _ | .stH b a _ | .stW b a _ | .stD b a _ => some [⟨a, false⟩, ⟨b, false⟩]
  | .mov _ a | .clz _ a | .ctz _ a | .popc _ a | .sextB _ a | .sextH _ a | .sextW _ a | .zextB _ a | .zextH _ a | .zextW _ a
  | .not _ a | .brev _ a | .addi _ a _ | .andi _ a _ | .ori _ a _ | .xori _ a _ | .shli _ a _ | .shri _ a _ | .srai _ a _
  | .cmpiEq _ a _ | .cmpiLt _ a _ | .cmpiLtu _ a _ | .jr _ a | .dbnz a _
  | .ldB _ a _ | .ldH _ a _ | .ldW _ a _ | .ldD _ a _ | .ldsB _ a _ | .ldsH _ a _ | .ldsW _ a _ => some [⟨a, false⟩]
  | .beqX a b _ | .bneX a b _ | .bltX a b _ | .bltuX a b _ | .bgeX a b _ | .bgeuX a b _ => some [a, b]
  | .addX o | .subX o | .mulX o | .mulhX o | .mulhuX o | .divX o | .divuX o | .remX o | .remuX o | .andX o | .orX o | .xorX o
  | .andnX o | .shlX o | .shrX o | .sraX o | .rolX o | .minX o | .maxX o | .minuX o | .maxuX o | .cmpEqX o | .cmpNeX o
  | .cmpLtX o | .cmpLtuX o | .cmpGeX o | .cmpGeuX o =>
    some (o.a :: ySrcs o.y ++ (match o.dst with | .loc _ => [] | .rem _ e => [e]))
  | .put _ a e => some [a, e]
  | _ => none

end Sys2Proof.Claims

open Sys2Proof Sys2Proof.Machine Sys2Proof.Claims in
/-- R36, R353: what ending an instruction is. PC moves to the next instruction as fetched, or to the target; no register,
no byte of memory and nothing outside the slot changes but the counters. -/
def Obligations.Retirement : Prop :=
  ∀ (p : Pipe) (s : State) (t : Word),
    (ended p s).me.pc = s.me.pc + BitVec.ofNat 64 s.me.ilen ∧ (endedAt p t s).me.pc = t ∧
    Kept s (ended p s) [] [] [] [] false ∧ Local s (ended p s) ∧
    Kept s (endedAt p t s) [] [] [] [] false ∧ Local s (endedAt p t s)

open Sys2Proof Sys2Proof.Machine Sys2Proof.Claims in
/-- R109: a conditional branch goes to its target, in words from the instruction for a native word and in bytes for the XBR
form, when its condition holds, else to the next instruction as fetched. It changes nothing else. -/
def Obligations.ConditionalBranches : Prop :=
  ∀ e ∈ condTable, ∀ s : State, Solo s →
    (∀ (a b : Reg) (off : BitVec 11), Full s a → Full s b →
      GoesTo (e.1 a b off) s
        (if e.2.2 (s.me.greg a).val (s.me.greg b).val then s.me.pc + off.signExtend 64 * 4 else s.nextPc) []) ∧
    (∀ (a b : Src) (off : W32), FullAll s [a, b] →
      GoesTo (e.2.1 a b off) s
        (if e.2.2 (s.me.greg a.reg).val (s.me.greg b.reg).val then s.me.pc + off.signExtend 64 else s.nextPc) [])

open Sys2Proof Sys2Proof.Machine Sys2Proof.Claims in
/-- R110 to R112: B, CALL, their extended forms, JR and DBNZ. CALL links g1 to the next instruction as fetched; JR reads its
target before it writes the link, the address of the word after it; DBNZ branches while the decremented register is not 0. -/
def Obligations.JumpsAndCalls : Prop :=
  ∀ s : State, Solo s →
    (∀ off : BitVec 23, GoesTo (.br off) s (s.me.pc + off.signExtend 64 * 4) []) ∧
    (∀ off : W32, GoesTo (.bX off) s (s.me.pc + off.signExtend 64) []) ∧
    (Free s 1 → ∀ off : BitVec 23, GoesTo (.call off) s (s.me.pc + off.signExtend 64 * 4) [(1, s.nextPc)]) ∧
    (Free s 1 → ∀ off : W32, GoesTo (.callX off) s (s.me.pc + off.signExtend 64) [(1, s.nextPc)]) ∧
    (∀ d a : Reg, Full s a → Free s d → GoesTo (.jr d a) s (s.me.greg a).val [(d, s.me.pc + 4)]) ∧
    (∀ (a : Reg) (off : BitVec 11), Full s a → Free s a →
      GoesTo (.dbnz a off) s (if (s.me.greg a).val - 1 ≠ 0 then s.me.pc + off.signExtend 64 * 4 else s.nextPc)
        [(a, (s.me.greg a).val - 1)])

open Sys2Proof Sys2Proof.Machine Sys2Proof.Claims in
/-- R96 to R99: TAKE, PTEST, PEMPTY and PSET where no remote write waits for the register: TAKE moves value and presence and
empties its source, or leaves a pending take for an EMPTY mailbox; PTEST reads presence and pending; PEMPTY and PSET set
presence and keep the value. -/
def Obligations.PresenceResults : Prop :=
  ∀ s : State, Solo s →
    (∀ d a : Reg, a ≠ 0 → d ≠ 0 → a ≠ d → (s.me.greg a).pres ≠ .empty → (∀ p ∈ s.me.takes, p.1 ≠ a) → Free s d → NoMail s a →
      Leaves (.take d a) s [d, a] fun t => (t.greg a).pres = .empty ∧ (t.greg a).pend = false ∧
        (t.greg d).pres = (s.me.greg a).pres ∧ ((s.me.greg a).pres = .full → (t.greg d).val = (s.me.greg a).val)) ∧
    (∀ d a : Reg, 32 ≤ a.toNat → d ≠ 0 → (s.me.greg a).pres = .empty → Free s a → (∀ p ∈ s.me.takes, p.1 ≠ a) → Free s d →
      NoMail s a → Leaves (.take d a) s [d] fun t => (t.greg d).pres = .empty ∧ (t.greg d).pend = true ∧ (a, d) ∈ t.takes) ∧
    (∀ d a : Reg, Free s d → NoMail s a →
      Gives (.ptest d a) s d (BitVec.ofNat 64
        ((match (s.me.greg a).pres with | .empty => 0 | .full => 1 | .poison => 2) + if (s.me.greg a).pend then 4 else 0))) ∧
    (∀ a : Reg, a ≠ 0 → Free s a → NoMail s a →
      Leaves (.pempty a) s [a] fun t => t.greg a = ⟨(s.me.greg a).val, .empty, false⟩) ∧
    (∀ (d : Reg) (p : Presence), d ≠ 0 → Free s d → NoMail s d →
      Leaves (.pset d p) s [d] fun t => t.greg d = ⟨(s.me.greg d).val, p, false⟩)

open Sys2Proof Sys2Proof.Machine Sys2Proof.Claims in
/-- R30, R43, R46: before anything else an instruction examines its g sources: the first EMPTY one in trap mode raises
PRESENCE with its number, else the first POISON one raises POISON with its number, else an EMPTY one holds the instruction
back with nothing changed. A fault is taken as R335 says. -/
def Obligations.SourceExamination : Prop :=
  ∀ (i : Instr) (l : List Src) (s : State), sourcesOf i = some l → Solo s → taHnd s.cur = false →
    (∀ pre x post, l = pre ++ x :: post → (∀ y ∈ pre, y.trap = false ∨ (s.me.greg y.reg).pres ≠ .empty) → x.trap = true →
      (s.me.greg x.reg).pres = .empty → ∃ t, exec i s = .next t ∧ Faulted s t 0x03 (x.reg.setWidth 64)) ∧
    ((∀ y ∈ l, y.trap = false ∨ (s.me.greg y.reg).pres ≠ .empty) →
      (∀ pre x post, l = pre ++ x :: post → (∀ y ∈ pre, (s.me.greg y.reg).pres ≠ .poison) →
        (s.me.greg x.reg).pres = .poison → ∃ t, exec i s = .next t ∧ Faulted s t 0x04 (x.reg.setWidth 64)) ∧
      ((∀ y ∈ l, (s.me.greg y.reg).pres ≠ .poison) → (∃ y ∈ l, (s.me.greg y.reg).pres = .empty) → exec i s = .next s))

namespace Sys2Proof.Claims

open Sys2Proof.Machine

/-! ## The frame of the instructions that write only registers -/

/-- What an instruction may write: g registers, v registers, k registers, accumulators, and FPCTL with the LFSR. -/
structure Dests where
  gs : List Reg := []
  vs : List VReg := []
  ks : List KReg := []
  as : List AReg := []
  fp : Bool := false

/-- The destinations of a register-only instruction as its rule names them; none where it has a remote destination. -/
def ofDst : Dst → Option Dests
  | .loc d => some { gs := [d] }
  | .rem _ _ => none

/-- The instructions that store nothing, send nothing and write no special register, with what they write: INT3, INT1,
the immediate forms, XINT with a local destination, branches, PTEST, VARITH, VCMP, VCVT, VRED, VPERM, KOP, MMA, ACLR, AMOV,
GGRNG, GGMASK and TAGGET. -/
def writesOf : Instr → Option Dests
  | .add d _ _ | .sub d _ _ | .mul d _ _ | .mulh d _ _ | .mulhu d _ _ | .div d _ _ | .divu d _ _ | .rem d _ _ | .remu d _ _
  | .and d _ _ | .or d _ _ | .xor d _ _ | .andn d _ _ | .shl d _ _ | .shr d _ _ | .sra d _ _ | .rol d _ _ | .min d _ _
  | .max d _ _ | .minu d _ _ | .maxu d _ _ | .cmpEq d _ _ | .cmpNe d _ _ | .cmpLt d _ _ | .cmpLtu d _ _ | .cmpGe d _ _
  | .cmpGeu d _ _ | .mov d _ | .clz d _ | .ctz d _ | .popc d _ | .sextB d _ | .sextH d _ | .sextW d _ | .zextB d _
  | .zextH d _ | .zextW d _ | .not d _ | .brev d _ | .addi d _ _ | .andi d _ _ | .ori d _ _ | .xori d _ _ | .shli d _ _
  | .shri d _ _ | .srai d _ _ | .cmpiEq d _ _ | .cmpiLt d _ _ | .cmpiLtu d _ _ | .ptest d _ | .jr d _ | .dbnz d _
  | .kget d _ _ | .kpopc d _ | .kfirst d _ | .ggrng d _ _ | .tagget d _ => some { gs := [d] }
  | .addX o | .subX o | .mulX o | .mulhX o | .mulhuX o | .divX o | .divuX o | .remX o | .remuX o | .andX o | .orX o | .xorX o
  | .andnX o | .shlX o | .shrX o | .sraX o | .rolX o | .minX o | .maxX o | .minuX o | .maxuX o | .cmpEqX o | .cmpNeX o
  | .cmpLtX o | .cmpLtuX o | .cmpGeX o | .cmpGeuX o => ofDst o.dst
  | .sel o => ofDst o.dst
  | .bfx o => ofDst o.dst
  | .bfi o => ofDst o.dst
  | .addpc d _ | .li d _ => ofDst d
  | .beq _ _ _ | .bne _ _ _ | .blt _ _ _ | .bltu _ _ _ | .bge _ _ _ | .bgeu _ _ _ | .beqX _ _ _ | .bneX _ _ _ | .bltX _ _ _
  | .bltuX _ _ _ | .bgeX _ _ _ | .bgeuX _ _ _ | .br _ | .bX _ => some {}
  | .call _ | .callX _ => some { gs := [1] }
  | .vadd d _ _ _ | .vsub d _ _ _ | .vmul d _ _ _ | .vmin d _ _ _ | .vmax d _ _ _ | .vand d _ _ _ | .vor d _ _ _
  | .vxor d _ _ _ => some { vs := [d], fp := true }
  | .vaddX o | .vsubX o | .vmulX o | .vdiv o | .vminX o | .vmaxX o | .vshl o | .vshr o | .vsra o | .vandX o | .vorX o | .vxorX o
  | .vmulh o => some { vs := [o.d], fp := true }
  | .vabs o | .vneg o | .vsqrt o | .vrcp o | .vrsq o | .vexp2 o | .vlog2 o | .vredAdd o | .vredMax o | .vredMin o | .vredAnd o
  | .vredOr o => some { vs := [o.d], fp := true }
  | .vfma o | .vfms o | .vfnma o => some { vs := [o.d], fp := true }
  | .vcvt o => some { vs := [o.d], fp := true }
  | .vsel o => some { vs := [o.d] }
  | .vperm o => some { vs := [o.d] }
  | .vslide o => some { vs := [o.d] }
  | .viota o => some { vs := [o.d] }
  | .vbcast o => some { vs := [o.d] }
  | .vins o => some { vs := [o.d] }
  | .vextr o => some { gs := [o.d] }
  | .vcmpEq o | .vcmpNe o | .vcmpLt o | .vcmpLe o | .vcmpGt o | .vcmpGe o | .vcmpUn o | .vcmpLtu o =>
    some { ks := [o.d], fp := true }
  | .kand d _ _ | .kor d _ _ | .kxor d _ _ | .knot d _ | .kset d _ _ => some { ks := [d] }
  | .ggmask o => some { ks := [o.d] }
  | .mma o => some { as := [o.d], fp := true }
  | .aclr d => some { as := [d] }
  | .amov (.toV d _ _) => some { vs := [d] }
  | .amov (.toA d _ _) => some { as := [d] }
  | _ => none

end Sys2Proof.Claims

open Sys2Proof Sys2Proof.Machine Sys2Proof.Claims in
/-- The frame (R20 to R26, R87 to R99, R109 to R112, R116 to R155): a register-only instruction of a task slot, whichever way
it goes (it ends, waits, or takes a fault), leaves every register but its destinations, every special register, the copies,
every other slot and every byte of memory as they were; FPCTL and the LFSR change only for the functions that may raise
flags. -/
def Obligations.RegisterFrame : Prop :=
  ∀ (i : Instr) (ds : Dests) (s t : State), writesOf i = some ds → Solo s → taHnd s.cur = false →
    exec i s = .next t → Kept s t ds.gs ds.vs ds.ks ds.as ds.fp

namespace Sys2Proof.Claims

open Sys2Proof.Machine

/-! ## Remote destinations (R19, R20, R23, R47) -/

/-- A thread address that passes R19 and names this device: bits [63:32] and the device field are 0, slot bits are 0 in a
handler's address, and its quad is in service. -/
def Named (s : State) (t : Word) : Prop :=
  t.toNat / 2 ^ 16 = 0 ∧ (t.getLsbD 2 = true → t.toNat % 4 = 0) ∧ s.present (t.toNat / 2 ^ 14 % 4) (t.toNat / 2 ^ 5 % 512) = true

/-- The mailbox is EMPTY and not pending in a slot of the sender's context that is no half of a pair, nothing is held before
its core, and the sender has not begun to send: the message is taken at once (R23, R341). -/
structure OpenBox (s : State) (t : Word) (n : BitVec 5) : Prop where
  alone : (s.slot t.toNat).partner = none
  live : (s.slot t.toNat).st ≠ .idle ∧ (s.slot t.toNat).ctx = s.me.ctx
  empty : ((s.slot t.toNat).greg (32 + n.setWidth 6)).pres = .empty ∧ ((s.slot t.toNat).greg (32 + n.setWidth 6)).pend = false
  held : (s.core (taCore t.toNat)).held = []
  fresh : s.me.sent = false ∧ s.me.sending = false

/-- The remote write that carries a result. -/
def mail (s : State) (t : Word) (n : BitVec 5) (v : Word) : Instr :=
  .remoteWriteArrival ⟨BitVec.ofNat 64 s.cur, s.me.ctx, t.toNat, n, v, false⟩

/-- The instruction sends its result and ends: nothing of its own registers changes. -/
def Sends (i : Instr) (s : State) (t : Word) (n : BitVec 5) (v : Word) : Prop :=
  exec i s = .next (ended .s (s.post (mail s t n v)))

end Sys2Proof.Claims

open Sys2Proof Sys2Proof.Machine Sys2Proof.Claims in
/-- R20, R47, R100: XINT with a remote destination, SEL, LI, ADDPC and PUT send their result as a remote write to register
32 + n of the thread that g(e) names, when no store is parked, no atomic is under way and the mailbox takes it; they write no
register of their own slot. -/
def Obligations.RemoteResults : Prop :=
  ∀ (s : State) (n : BitVec 5) (e : Src), Solo s → taHnd s.cur = false → Quiet s → NoAmo s → Full s e.reg →
    Named s (s.me.greg e.reg).val → OpenBox s (s.me.greg e.reg).val n →
    (∀ x ∈ int3Table, ∀ (a : Src) (y : YOp), FullAll s (a :: ySrcs y) →
      Sends (x.2.1 ⟨.rem n e, a, y⟩) s (s.me.greg e.reg).val n (x.2.2 (s.me.greg a.reg).val (yOf s y))) ∧
    (∀ (a : Src) (y : YOp) (c : Src), FullAll s ((a :: ySrcs y) ++ [c]) →
      Sends (.sel ⟨.rem n e, a, y, c⟩) s (s.me.greg e.reg).val n
        (if (s.me.greg c.reg).val ≠ 0 then (s.me.greg a.reg).val else yOf s y)) ∧
    (∀ y : YOp, FullAll s (ySrcs y) → Sends (.li (.rem n e) y) s (s.me.greg e.reg).val n (yOf s y)) ∧
    (∀ off : W32, Sends (.addpc (.rem n e) off) s (s.me.greg e.reg).val n (s.me.pc + off.signExtend 64)) ∧
    (∀ a : Src, Full s a.reg → Sends (.put n a e) s (s.me.greg e.reg).val n (s.me.greg a.reg).val)

open Sys2Proof Sys2Proof.Machine Sys2Proof.Claims in
/-- R19, R47: with a remote destination a thread address that fails R19, here one with a bit of [63:32] set or with slot bits
in a handler's address, raises PROTECT with the address, and nothing is sent. -/
def Obligations.RemoteTargetChecks : Prop :=
  ∀ (s : State) (n : BitVec 5) (e : Src), Solo s → taHnd s.cur = false → Full s e.reg →
    ((s.me.greg e.reg).val.toNat / 2 ^ 32 ≠ 0 ∨
      ((s.me.greg e.reg).val.getLsbD 2 = true ∧ (s.me.greg e.reg).val.toNat % 4 ≠ 0)) →
    (∀ x ∈ int3Table, ∀ (a : Src) (y : YOp), FullAll s (a :: ySrcs y) →
      ∃ t, exec (x.2.1 ⟨.rem n e, a, y⟩) s = .next t ∧ Faulted s t 0x07 (s.me.greg e.reg).val) ∧
    (∀ a : Src, Full s a.reg → ∃ t, exec (.put n a e) s = .next t ∧ Faulted s t 0x07 (s.me.greg e.reg).val)

namespace Sys2Proof.Claims

open Sys2Proof.Machine

/-! ## Loads and stores (R102 to R108, R185, R186, R320 to R322) -/

/-- Where the n bytes at va are for an access of kind k by the issuing slot: `u` is the state once translated and `key` the
storage key of the first byte. No parked store of the slot holds the page. In the QLM block the share check passes and nothing
is translated; elsewhere bits [63:56] are 0, and translation succeeds at no format view and no lost device. -/
def Placed (s : State) (va : Word) (n : Nat) (k : Acc3) (u : State) (key : Nat) : Prop :=
  s.pageHeld s.cur (pageOf s.cur va) = false ∧
  ((inQlmBlock va = true ∧ s.protect s.cur va n (k == .w) = some (some key) ∧ u = s) ∨
  (inQlmBlock va = false ∧ va.toNat / 2 ^ 56 = 0 ∧
    ∃ p : Place, s.translate s.myCtx (some s.cur) va k = (u, some p) ∧ p.key = key ∧ p.view = none ∧ u.lostAt p = false))

/-- The registers of a slot that no load, store or wait writes. -/
def SameRegs (a b : Slot) : Prop :=
  b.g = a.g ∧ b.v = a.v ∧ b.vpois = a.vpois ∧ b.k = a.k ∧ b.a = a.a ∧ b.fpctl = a.fpctl ∧ b.lfsr = a.lfsr ∧
    specials { b with stq := a.stq } = specials a ∧ b.shadow = a.shadow ∧ b.tags = a.tags ∧ b.copn = a.copn

/-- The loads: native word, XMEM form, bytes, and whether the value is sign-extended (R102). -/
noncomputable def loadTable : List ((Reg → Reg → BitVec 11 → Instr) × (XLoad → Instr) × Nat × Bool) :=
  [(.ldB, .ldBX, 1, false), (.ldH, .ldHX, 2, false), (.ldW, .ldWX, 4, false), (.ldD, .ldDX, 8, false),
   (.ldsB, .ldsBX, 1, true), (.ldsH, .ldsHX, 2, true), (.ldsW, .ldsWX, 4, true)]

/-- The stores (R102). -/
noncomputable def storeTable : List ((Reg → Reg → BitVec 11 → Instr) × (XStore → Instr) × Nat) :=
  [(.stB, .stBX, 1), (.stH, .stHX, 2), (.stW, .stWX, 4), (.stD, .stDX, 8)]

/-- The number that bytes make, the first the lowest. -/
def littleEndian : List Byte → Nat
  | [] => 0
  | b :: bs => b.toNat + 256 * littleEndian bs

/-- The value of a load of n bytes (R102). -/
def loaded (n : Nat) (signed : Bool) (bs : List Byte) : Word :=
  if signed then (BitVec.ofNat (8 * n) (littleEndian bs)).signExtend 64 else BitVec.ofNat 64 (littleEndian bs)

/-- The effective address of XMEM (R103). -/
def effective (s : State) (m : XAddr) : Word :=
  (s.me.greg m.a.reg).val + (s.me.greg m.b.reg).val <<< m.shift.toNat + m.off.signExtend 64

/-- A load to g(d) ends with g(d) EMPTY and pending and its data on their way; the caches, the counters and the translation
aside, nothing else changes. A load to g0 only ends. -/
def Loads (i : Instr) (s : State) (d : Reg) (va : Word) (n : Nat) (signed : Bool) : Prop :=
  ∀ u key, Placed s va n .r u key → ∃ t, exec i s = .next t ∧ t.me.pc = s.nextPc ∧ Kept u t [d] [] [] [] false ∧
    (d ≠ 0 → (t.me.greg d).pres = .empty ∧ (t.me.greg d).pend = true ∧
      t.agenda = u.agenda ++ [.loadDataArrival ⟨s.cur, s.me.uid⟩ d (loaded n signed (Memory.read u.mem key n)) (u.pois key n)])

/-- A store of n bytes of v ends with the bytes in memory, lowest first, STQ one more, and its acknowledgement on its way.
Every other byte of memory stays as the translation left it, and every register and every other slot as it was. -/
def Stores (i : Instr) (s : State) (va : Word) (n : Nat) (v : Word) : Prop :=
  ∀ u key, Placed s va n .w u key → ∃ t, exec i s = .next t ∧ t.me.pc = s.nextPc ∧
    (∀ j, j < n → Memory.get t.mem (key + j) = BitVec.ofNat 8 (v.toNat / 256 ^ j)) ∧
    (∀ k, (∀ j, j < n → k ≠ key + j) → Memory.get t.mem k = Memory.get u.mem k) ∧
    SameRegs s.me t.me ∧ t.me.stq = s.me.stq + 1 ∧ (∀ ta, ta ≠ s.cur → t.slot ta = s.slot ta) ∧
    t.agenda = u.agenda ++ [.storeAck ⟨s.cur, s.me.uid⟩]

/-- The waits of a release: RPQ = 0, and beyond the device STQ = 0 (R106, R209). -/
def Released (s : State) (sc : Scope) : Prop :=
  Quiet s ∧ (sc ∈ [Scope.peer, .fab, .host, .sys, .dur] → s.me.stq = 0) ∧ (sc = .dur → s.me.pm = 0)

end Sys2Proof.Claims

open Sys2Proof Sys2Proof.Machine Sys2Proof.Claims in
/-- R102 to R104, R22, R108: with its sources FULL, its destination not pending, no atomic under way and its address aligned
and readable, every load makes g(d) pending and sends the bytes at its address, zero- or sign-extended; PREF only ends. -/
def Obligations.LoadResults : Prop :=
  ∀ s : State, Solo s → NoAmo s →
    (∀ e ∈ loadTable,
      (∀ (d a : Reg) (c : BitVec 11), Full s a → Free s d →
        ((s.me.greg a).val + c.signExtend 64).toNat % e.2.2.1 = 0 →
        Loads (e.1 d a c) s d ((s.me.greg a).val + c.signExtend 64) e.2.2.1 e.2.2.2) ∧
      (∀ (d : Reg) (m : XAddr) (aq : Bool) (sc : Scope) (h : Hint), FullAll s [m.a, m.b] → Free s d →
        (effective s m).toNat % e.2.2.1 = 0 →
        Loads (e.2.1 ⟨.loc d, m, aq, sc, h⟩) s d (effective s m) e.2.2.1 e.2.2.2)) ∧
    (∀ (m : XAddr) (h : Hint), FullAll s [m.a, m.b] → ∃ t, exec (.pref m h) s = .next t ∧ t.me.pc = s.nextPc ∧
      SameRegs s.me t.me ∧ ∀ ta, ta ≠ s.cur → t.slot ta = s.slot ta)

open Sys2Proof Sys2Proof.Machine Sys2Proof.Claims in
/-- R102, R103, R105, R106: with its sources FULL, no atomic under way and its address aligned and writable, every store
writes the low bytes of g(d), lowest first, counts in STQ and ends; a store-release first waits as its scope says. -/
def Obligations.StoreResults : Prop :=
  ∀ s : State, Solo s → NoAmo s → Memory.wf s.mem = true → s.replay.busy = false →
    ∀ e ∈ storeTable,
      (∀ (d a : Reg) (c : BitVec 11), Full s a → Full s d → ((s.me.greg a).val + c.signExtend 64).toNat % e.2.2 = 0 →
        Stores (e.1 d a c) s ((s.me.greg a).val + c.signExtend 64) e.2.2 (s.me.greg d).val) ∧
      (∀ (o : XStore), FullAll s [o.addr.a, o.addr.b] → Full s o.d → (effective s o.addr).toNat % e.2.2 = 0 →
        (o.rl = true → Released s o.sc) →
        Stores (e.2.1 o) s (effective s o.addr) e.2.2 (s.me.greg o.d).val)

open Sys2Proof Sys2Proof.Machine Sys2Proof.Claims in
/-- R104, R107, R185: a native load or store whose address is not a multiple of its size raises ALIGN with the address; with
an aligned address outside the machine's reach (bits [63:56] not 0) or in the QLM block outside every share, it raises
PROTECT with the address. -/
def Obligations.AccessChecks : Prop :=
  ∀ (s : State) (d a : Reg) (c : BitVec 11), Solo s → taHnd s.cur = false → Full s a → Full s d → Free s d →
    (∀ e ∈ loadTable, ((s.me.greg a).val + c.signExtend 64).toNat % e.2.2.1 ≠ 0 →
      ∃ t, exec (e.1 d a c) s = .next t ∧ Faulted s t 0x05 ((s.me.greg a).val + c.signExtend 64)) ∧
    (∀ e ∈ storeTable, ((s.me.greg a).val + c.signExtend 64).toNat % e.2.2 ≠ 0 →
      ∃ t, exec (e.1 d a c) s = .next t ∧ Faulted s t 0x05 ((s.me.greg a).val + c.signExtend 64)) ∧
    (∀ e ∈ loadTable, ((s.me.greg a).val + c.signExtend 64).toNat % e.2.2.1 = 0 →
      (((s.me.greg a).val + c.signExtend 64).toNat / 2 ^ 56 ≠ 0 ∨
        (inQlmBlock ((s.me.greg a).val + c.signExtend 64) = true ∧
          qlmWindow (taQuad s.cur) ((s.me.greg a).val + c.signExtend 64) = none)) →
      ∃ t, exec (e.1 d a c) s = .next t ∧ Faulted s t 0x07 ((s.me.greg a).val + c.signExtend 64)) ∧
    (∀ e ∈ storeTable, ((s.me.greg a).val + c.signExtend 64).toNat % e.2.2 = 0 →
      (((s.me.greg a).val + c.signExtend 64).toNat / 2 ^ 56 ≠ 0 ∨
        (inQlmBlock ((s.me.greg a).val + c.signExtend 64) = true ∧
          qlmWindow (taQuad s.cur) ((s.me.greg a).val + c.signExtend 64) = none)) →
      ∃ t, exec (e.1 d a c) s = .next t ∧ Faulted s t 0x07 ((s.me.greg a).val + c.signExtend 64))

open Sys2Proof Sys2Proof.Machine Sys2Proof.Claims in
/-- R320 to R322: translating an address changes no slot and no poison, and of memory at most the eight bytes of one page-table
entry; the memory stays in its canonical form. -/
def Sys2Proof.Claims.TranslationFrame : Prop :=
  ∀ (s : State) (c : Ctx) (who : Option Nat) (va : Word) (k : Acc3),
    (s.translate c who va k).1.slots = s.slots ∧ (s.translate c who va k).1.cur = s.cur ∧
    (s.translate c who va k).1.poison = s.poison ∧
    (Memory.wf s.mem = true → Memory.wf (s.translate c who va k).1.mem = true ∧
      ∃ pa, ∀ j, (j < pa ∨ pa + 8 ≤ j) → Memory.get (s.translate c who va k).1.mem j = Memory.get s.mem j)

namespace Sys2Proof.Claims

open Sys2Proof.Machine

/-- The native and XMEM loads with a local destination and the stores: the g destination of a load, whether it is a store,
its bytes, and its address as its meaning computes it. -/
def accessOf : Instr → Option (List Reg × Bool × Nat × (State → Word))
  | .ldB d a c | .ldsB d a c => some ([d], false, 1, fun s => s.naddr a c)
  | .ldH d a c | .ldsH d a c => some ([d], false, 2, fun s => s.naddr a c)
  | .ldW d a c | .ldsW d a c => some ([d], false, 4, fun s => s.naddr a c)
  | .ldD d a c => some ([d], false, 8, fun s => s.naddr a c)
  | .stB _ a c => some ([], true, 1, fun s => s.naddr a c)
  | .stH _ a c => some ([], true, 2, fun s => s.naddr a c)
  | .stW _ a c => some ([], true, 4, fun s => s.naddr a c)
  | .stD _ a c => some ([], true, 8, fun s => s.naddr a c)
  | .ldBX ⟨.loc d, m, _, _, _⟩ | .ldsBX ⟨.loc d, m, _, _, _⟩ => some ([d], false, 1, fun s => s.xaddr m)
  | .ldHX ⟨.loc d, m, _, _, _⟩ | .ldsHX ⟨.loc d, m, _, _, _⟩ => some ([d], false, 2, fun s => s.xaddr m)
  | .ldWX ⟨.loc d, m, _, _, _⟩ | .ldsWX ⟨.loc d, m, _, _, _⟩ => some ([d], false, 4, fun s => s.xaddr m)
  | .ldDX ⟨.loc d, m, _, _, _⟩ => some ([d], false, 8, fun s => s.xaddr m)
  | .stBX o => some ([], true, 1, fun s => s.xaddr o.addr)
  | .stHX o => some ([], true, 2, fun s => s.xaddr o.addr)
  | .stWX o => some ([], true, 4, fun s => s.xaddr o.addr)
  | .stDX o => some ([], true, 8, fun s => s.xaddr o.addr)
  | _ => none

/-- The storage key that a store of n bytes at va would go to. -/
def storedAt (s : State) (va : Word) (n : Nat) : Option Nat :=
  if inQlmBlock va then (s.protect s.cur va n true).getD none
  else (s.translate s.myCtx (some s.cur) va .w).2.map fun p => p.key

end Sys2Proof.Claims

open Sys2Proof Sys2Proof.Machine Sys2Proof.Claims in
/-- The frame of loads and stores of a task slot, whichever way they go (they end, park, wait or take a fault): no register
but a load's destination and STQ changes, no other slot, and no byte of memory but those stored to, as the store's address
translates, and the page-table entry that the translation marks (R102 to R105, R322). -/
def Sys2Proof.Claims.LoadStoreFrame : Prop :=
  ∀ (i : Instr) (gs : List Reg) (st : Bool) (n : Nat) (addr : State → Word) (s t : State),
    accessOf i = some (gs, st, n, addr) → Solo s → taHnd s.cur = false → s.replay.busy = false → Memory.wf s.mem = true →
    exec i s = .next t →
    (∀ r, r ∉ gs → t.me.greg r = s.me.greg r) ∧ SameRegs s.me { t.me with g := s.me.g } ∧
    (∀ ta, ta ≠ s.cur → t.slot ta = s.slot ta) ∧ t.cur = s.cur ∧
    ∀ k, (st = true → ∀ key, storedAt s (addr s) n = some key → k < key ∨ key + n ≤ k) →
      Memory.get t.mem k = Memory.get s.mem k ∨
      Memory.get t.mem k = Memory.get (s.translate s.myCtx (some s.cur) (addr s) (if st then .w else .r)).1.mem k

/-- The frame of a translation and the frame of loads and stores (R102 to R105, R320 to R322): both parts hold. -/
def Obligations.AccessFrames : Prop := Sys2Proof.Claims.TranslationFrame ∧ Sys2Proof.Claims.LoadStoreFrame

namespace Sys2Proof.Claims

open Sys2Proof.Machine

/-! ## Vector lanes (R116 to R135) -/

/-- The active lanes among the first n (R117). -/
def onLanes (s : State) (m : VMask) (n : Nat) : List Nat :=
  (List.range n).filter fun i => !m.en || (s.kreg m.k).getLsbD i

/-- The lane is active. -/
def On (s : State) (m : VMask) (i : Nat) : Bool := !m.en || (s.kreg m.k).getLsbD i

/-- The rounding environment of lane i: the mode, FTZ, and under RSR the LFSR after one step for each active lane up to it
(R54, R66, R67). -/
def laneEnv (s : State) (rm : Rm) (m : VMask) (i : Nat) : FpEnv :=
  { mode := s.me.mode rm, ftz := s.me.ftz
    draw := if s.me.mode rm = .rsr then (lfsrSteps ((onLanes s m i).length + 1) s.me.lfsr).toNat else s.me.lfsr.toNat }

/-- Both sets of flags, over a list. -/
def allFlags (l : List FpFlags) : FpFlags := l.foldr FpFlags.or {}

/-- A lane-wise instruction: each active lane of v(d) gets its result, an inactive lane 0 or what it held, v(d) is poisoned
when a source is or when it was and old lanes survive, the flags gather, the LFSR steps once an active lane under RSR, and
nothing else changes. -/
def LaneWise (i : Instr) (s : State) (d : VReg) (ty : Ty) (rm : Rm) (m : VMask) (srcs : List VReg) (f : FpEnv → Nat → FpRes) :
    Prop :=
  ∃ t, exec i s = .next t ∧ t.me.pc = s.nextPc ∧ Kept s t [] [d] [] [] true ∧ Local s t ∧
    (∀ j, j < 2048 / ty.width → lane ty.width (t.vreg d) j =
      if On s m j then (f (laneEnv s rm m j) j).bits % 2 ^ ty.width else if m.z then 0 else lane ty.width (s.vreg d) j) ∧
    (t.vpois d = true ↔ (∃ r ∈ srcs, s.vpois r = true) ∨
      (m.en = true ∧ m.z = false ∧ (∃ j, j < 2048 / ty.width ∧ On s m j = false) ∧ s.vpois d = true)) ∧
    t.me.fpctl = s.me.fpctl ||| (allFlags ((onLanes s m (2048 / ty.width)).map fun j => (f (laneEnv s rm m j) j).flags)).bits ∧
    t.me.lfsr = if s.me.mode rm = .rsr then lfsrSteps (onLanes s m (2048 / ty.width)).length s.me.lfsr else s.me.lfsr

/-- An integer lane, as a pattern, with no flags. -/
def exactly {w : Nat} (x : BitVec w) : FpRes := ⟨x.toNat, {}⟩

/-- The two-source functions: XV form, native word where there is one, and the result of two lanes (R122, R123). The
integer and bitwise results are two's complement of the lane's width; the floating-point ones are the operations of
03_arithmetic.md. -/
noncomputable def v2Table : List ((V2 → Instr) × Option (VReg → VReg → VReg → Ty → Instr) × (Ty → FpEnv → Nat → Nat → FpRes)) :=
  [(.vaddX, some .vadd, fun ty env x y =>
      if ty.isInt then exactly (BitVec.ofNat ty.width x + BitVec.ofNat ty.width y) else (fmtOf ty).add env x y),
   (.vsubX, some .vsub, fun ty env x y =>
      if ty.isInt then exactly (BitVec.ofNat ty.width x - BitVec.ofNat ty.width y) else (fmtOf ty).sub env x y),
   (.vmulX, some .vmul, fun ty env x y =>
      if ty.isInt then exactly (BitVec.ofNat ty.width x * BitVec.ofNat ty.width y) else (fmtOf ty).mul env x y),
   (.vdiv, none, fun ty env x y => (fmtOf ty).div env x y),
   (.vminX, some .vmin, fun ty env x y =>
      if ty.isInt then (if (BitVec.ofNat ty.width x).toInt ≤ (BitVec.ofNat ty.width y).toInt then ⟨x, {}⟩ else ⟨y, {}⟩)
      else (fmtOf ty).minmax env false x y),
   (.vmaxX, some .vmax, fun ty env x y =>
      if ty.isInt then (if (BitVec.ofNat ty.width y).toInt ≤ (BitVec.ofNat ty.width x).toInt then ⟨x, {}⟩ else ⟨y, {}⟩)
      else (fmtOf ty).minmax env true x y),
   (.vshl, none, fun ty _ x y => exactly (BitVec.ofNat ty.width x <<< (y % ty.width))),
   (.vshr, none, fun ty _ x y => exactly (BitVec.ofNat ty.width x >>> (y % ty.width))),
   (.vsra, none, fun ty _ x y => exactly ((BitVec.ofNat ty.width x).sshiftRight (y % ty.width))),
   (.vandX, some .vand, fun ty _ x y => exactly (BitVec.ofNat ty.width x &&& BitVec.ofNat ty.width y)),
   (.vorX, some .vor, fun ty _ x y => exactly (BitVec.ofNat ty.width x ||| BitVec.ofNat ty.width y)),
   (.vxorX, some .vxor, fun ty _ x y => exactly (BitVec.ofNat ty.width x ^^^ BitVec.ofNat ty.width y)),
   (.vmulh, none, fun ty _ x y => exactly (BitVec.ofInt ty.width
      ((BitVec.ofNat ty.width x).toInt * (BitVec.ofNat ty.width y).toInt / 2 ^ ty.width)))]

/-- The one-source functions (R122, R123). -/
def v1Table : List ((V1 → Instr) × (Ty → FpEnv → Nat → FpRes)) :=
  [(.vabs, fun ty env x =>
      if ty.isInt then
        (if (BitVec.ofNat ty.width x).toInt < 0 then exactly (-BitVec.ofNat ty.width x) else exactly (BitVec.ofNat ty.width x))
      else signRes (fmtOf ty) env false x),
   (.vneg, fun ty env x => if ty.isInt then exactly (-BitVec.ofNat ty.width x) else signRes (fmtOf ty) env true x),
   (.vsqrt, fun ty env x => (fmtOf ty).sqrt env x),
   (.vrcp, fun ty env x => estFn 2 ty env.ftz x), (.vrsq, fun ty env x => estFn 3 ty env.ftz x),
   (.vexp2, fun ty env x => estFn 0 ty env.ftz x), (.vlog2, fun ty env x => estFn 1 ty env.ftz x)]

end Sys2Proof.Claims

open Sys2Proof Sys2Proof.Machine Sys2Proof.Claims in
/-- R116 to R123: every VARITH function of one, two or three sources, and every native vector word with all lanes active and
RNE, writes its lanes, its poison, its flags and the LFSR as LaneWise says. -/
def Obligations.VectorArithmetic : Prop :=
  ∀ s : State, Solo s →
    (∀ e ∈ v2Table, (∀ o : V2, LaneWise (e.1 o) s o.d o.ty o.rm o.m [o.a, o.b] fun env j =>
        e.2.2 o.ty env (lane o.ty.width (s.vreg o.a) j) (lane o.ty.width (s.vreg o.b) j)) ∧
      ∀ n ∈ e.2.1, ∀ (d a b : VReg) (ty : Ty), LaneWise (n d a b ty) s d ty .rne ⟨false, false, 0⟩ [a, b] fun env j =>
        e.2.2 ty env (lane ty.width (s.vreg a) j) (lane ty.width (s.vreg b) j)) ∧
    (∀ e ∈ v1Table, ∀ o : V1, LaneWise (e.1 o) s o.d o.ty o.rm o.m [o.a] fun env j =>
      e.2 o.ty env (lane o.ty.width (s.vreg o.a) j)) ∧
    (∀ e ∈ [(Instr.vfma, false, false), (Instr.vfms, false, true), (Instr.vfnma, true, false)], ∀ o : V3,
      LaneWise (e.1 o) s o.d o.ty o.rm o.m [o.a, o.b, o.c] fun env j =>
        (fmtOf o.ty).fma env e.2.1 e.2.2 (lane o.ty.width (s.vreg o.a) j) (lane o.ty.width (s.vreg o.b) j)
          (lane o.ty.width (s.vreg o.c) j))

open Sys2Proof Sys2Proof.Machine Sys2Proof.Claims in
/-- R122, R129, R130: VSEL, VPERM, VSLIDE, VIOTA and VBCAST move lanes: by the selector k(c), by the index lanes, by a shift
over the pair of registers, by the count of active lanes below, and from g(a). -/
def Obligations.VectorMoves : Prop :=
  ∀ s : State, Solo s →
    (∀ o : VSelOp, LaneWise (.vsel o) s o.d o.ty .rne o.m [o.a, o.b] fun _ j =>
      ⟨if (s.kreg o.c).getLsbD j then lane o.ty.width (s.vreg o.a) j else lane o.ty.width (s.vreg o.b) j, {}⟩) ∧
    (∀ o : VPermOp, LaneWise (.vperm o) s o.d o.ty .rne o.m [o.a, o.b] fun _ j =>
      ⟨lane o.ty.width (s.vreg o.a) (lane o.ty.width (s.vreg o.b) j % (2048 / o.ty.width)), {}⟩) ∧
    (∀ o : VSlideOp, LaneWise (.vslide o) s o.d o.ty .rne o.m [o.a, o.b] fun _ j =>
      ⟨if j + o.s.toNat < 2048 / o.ty.width then lane o.ty.width (s.vreg o.a) (j + o.s.toNat)
        else lane o.ty.width (s.vreg o.b) (j + o.s.toNat - 2048 / o.ty.width), {}⟩) ∧
    (∀ o : VIotaOp, LaneWise (.viota o) s o.d o.ty .rne o.m [] fun _ j => ⟨(onLanes s o.m j).length, {}⟩) ∧
    (∀ o : VBcastOp, Full s o.a.reg → LaneWise (.vbcast o) s o.d o.ty .rne o.m [] fun _ _ => ⟨(s.me.greg o.a.reg).val.toNat, {}⟩)

open Sys2Proof Sys2Proof.Machine Sys2Proof.Claims in
/-- R118, R130: VEXTR reads one lane into g(d), sign-extended for an integer type, POISON from a poisoned register; VINS
writes one lane and keeps the others. The index is g(b) + imm modulo the number of lanes. -/
def Sys2Proof.Claims.LaneExtractInsert : Prop :=
  ∀ s : State, Solo s →
    (∀ o : VExtrOp, o.d ≠ 0 → Full s o.b.reg → Free s o.d →
      ∃ t, exec (.vextr o) s = .next t ∧ t.me.pc = s.nextPc ∧ Kept s t [o.d] [] [] [] false ∧ Local s t ∧
        ∀ x, x = lane o.ty.width (s.vreg o.a)
          (((s.me.greg o.b.reg).val + o.idx.signExtend 64).toNat % (2048 / o.ty.width)) →
        ((s.vpois o.a = false → (t.me.greg o.d).pres = .full ∧
          (t.me.greg o.d).val = if o.ty.isInt then (BitVec.ofNat o.ty.width x).signExtend 64 else BitVec.ofNat 64 x) ∧
        (s.vpois o.a = true → (t.me.greg o.d).pres = .poison))) ∧
    (∀ o : VInsOp, Full s o.a.reg → Full s o.b.reg →
      ∃ t, exec (.vins o) s = .next t ∧ t.me.pc = s.nextPc ∧ Kept s t [] [o.d] [] [] false ∧ Local s t ∧
        t.vpois o.d = s.vpois o.d ∧
        ∀ j, j < 2048 / o.ty.width → lane o.ty.width (t.vreg o.d) j =
          if j = ((s.me.greg o.b.reg).val + o.idx.signExtend 64).toNat % (2048 / o.ty.width)
          then (s.me.greg o.a.reg).val.toNat % 2 ^ o.ty.width else lane o.ty.width (s.vreg o.d) j)

namespace Sys2Proof.Claims

open Sys2Proof.Machine

/-- The comparisons (R124, R125): what each answers of the two integers and, unordered included, of the two floats, and
whether a quiet NaN sets NV. -/
def cmpTable : List ((VCmpOp → Instr) × (Int → Int → Nat → Nat → Bool) × (Option Ordering → Bool) × Bool) :=
  [(.vcmpEq, fun a b _ _ => decide (a = b), fun c => c == some .eq, false),
   (.vcmpNe, fun a b _ _ => decide (a ≠ b), fun c => c != some .eq, false),
   (.vcmpLt, fun a b _ _ => decide (a < b), fun c => c == some .lt, true),
   (.vcmpLe, fun a b _ _ => decide (a ≤ b), fun c => c == some .lt || c == some .eq, true),
   (.vcmpGt, fun a b _ _ => decide (b < a), fun c => c == some .gt, true),
   (.vcmpGe, fun a b _ _ => decide (b ≤ a), fun c => c == some .gt || c == some .eq, true)]

/-- A floating-point comparison sets NV when some active lane is unordered, and either it is an ordering or an operand is a
signalling NaN (R125). -/
def cmpNv (s : State) (o : VCmpOp) (ordering : Bool) : Bool :=
  !o.ty.isInt && (onLanes s o.m (2048 / o.ty.width)).any fun j =>
    ((fmtOf o.ty).cmp s.me.ftz (lane o.ty.width (s.vreg o.a) j) (lane o.ty.width (s.vreg o.b) j)).isNone && (ordering ||
      ((fmtOf o.ty).num s.me.ftz (lane o.ty.width (s.vreg o.a) j)).isSig ||
      ((fmtOf o.ty).num s.me.ftz (lane o.ty.width (s.vreg o.b) j)).isSig)

/-- Instructions that read k registers or set them whole, and leave the rest (R135). -/
def WritesK (i : Instr) (s : State) (d : KReg) (x : KWord) : Prop :=
  ∃ t, exec i s = .next t ∧ t.me.pc = s.nextPc ∧ t.kreg d = x ∧ Kept s t [] [] [d] [] false ∧ Local s t

end Sys2Proof.Claims

open Sys2Proof Sys2Proof.Machine Sys2Proof.Claims in
/-- R118, R124, R125: with no poisoned source every VCMP sets bit j of k(d) to what it answers in an active lane, to 0 or the
old bit in an inactive one, and 0 beyond the lanes, and sets NV as R125 says; VCMP.UN tells of unordered floats and VCMP.LTU compares unsigned. A
poisoned source raises POISON with its number. -/
def Obligations.VectorCompares : Prop :=
  ∀ (s : State) (o : VCmpOp), Solo s →
    ∀ e : (VCmpOp → Instr) × (Int → Int → Nat → Nat → Bool) × (Option Ordering → Bool) × Bool,
      (e ∈ cmpTable ∨ (o.ty.isInt = false ∧ e = (.vcmpUn, fun _ _ _ _ => false, fun c => c == none, false)) ∨
        (o.ty.isInt = true ∧ e = (.vcmpLtu, fun _ _ x y => decide (x < y), fun _ => false, false))) →
      (s.vpois o.a = false → s.vpois o.b = false →
        ∃ t, exec (e.1 o) s = .next t ∧ t.me.pc = s.nextPc ∧ Kept s t [] [] [o.d] [] true ∧ Local s t ∧ t.me.lfsr = s.me.lfsr ∧
          t.me.fpctl = s.me.fpctl ||| (FpFlags.bits { nv := cmpNv s o e.2.2.2 }) ∧
          ∀ j, j < 256 → (t.kreg o.d).getLsbD j =
            if 2048 / o.ty.width ≤ j then false
            else if On s o.m j then
              (if o.ty.isInt then
                e.2.1 (BitVec.ofNat o.ty.width (lane o.ty.width (s.vreg o.a) j)).toInt
                  (BitVec.ofNat o.ty.width (lane o.ty.width (s.vreg o.b) j)).toInt
                  (lane o.ty.width (s.vreg o.a) j) (lane o.ty.width (s.vreg o.b) j)
              else e.2.2.1 ((fmtOf o.ty).cmp s.me.ftz (lane o.ty.width (s.vreg o.a) j) (lane o.ty.width (s.vreg o.b) j)))
            else !o.m.z && (s.kreg o.d).getLsbD j) ∧
      (taHnd s.cur = false → s.vpois o.a = true → ∃ t, exec (e.1 o) s = .next t ∧ Faulted s t 0x04 (o.a.setWidth 64))

open Sys2Proof Sys2Proof.Machine Sys2Proof.Claims in
/-- R135: the k instructions. KSET sets the low g(a) + count bits, clamped to 0 and 256; KGET, KPOPC and KFIRST read into
g(d), KFIRST giving 256 when no bit is set. -/
def Sys2Proof.Claims.MaskInstructions : Prop :=
  ∀ s : State, Solo s →
    (∀ d a b : KReg, WritesK (.kand d a b) s d (s.kreg a &&& s.kreg b) ∧ WritesK (.kor d a b) s d (s.kreg a ||| s.kreg b) ∧
      WritesK (.kxor d a b) s d (s.kreg a ^^^ s.kreg b) ∧ WritesK (.knot d a) s d (~~~ s.kreg a)) ∧
    (∀ (d : KReg) (a : Src) (c : W32), Full s a.reg → ∃ x : KWord, WritesK (.kset d a c) s d x ∧
      ∀ j, j < 256 → x.getLsbD j = decide ((j : Int) < (s.me.greg a.reg).val.toInt + c.toNat)) ∧
    (∀ (d : Reg) (a : KReg), Free s d →
      (∀ j : BitVec 2, ∃ x : Word, exec (.kget d a j) s = .next (ended .v (s.putG d x)) ∧
        ∀ i, i < 64 → x.getLsbD i = (s.kreg a).getLsbD (64 * j.toNat + i)) ∧
      (exec (.kpopc d a) s = .next (ended .v (s.putG d
        (BitVec.ofNat 64 ((List.range 256).filter fun i => (s.kreg a).getLsbD i).length)))) ∧
      (∃ n : Nat, exec (.kfirst d a) s = .next (ended .v (s.putG d (BitVec.ofNat 64 n))) ∧ n ≤ 256 ∧
        (∀ i, i < n → (s.kreg a).getLsbD i = false) ∧ (n < 256 → (s.kreg a).getLsbD n = true)))

/-- The k instructions, and VEXTR and VINS (R118, R130, R135): both parts hold. -/
def Obligations.MasksAndLanes : Prop := Sys2Proof.Claims.MaskInstructions ∧ Sys2Proof.Claims.LaneExtractInsert

namespace Sys2Proof.Claims

open Sys2Proof.Machine

/-! ## Conversions, reductions, vector memory and tiles (R80, R126 to R134, R141 to R155) -/

/-- The node (k, i) of the reduction tree over n lanes (R80): level 0 is the lanes, and each level pairs the one below from
the left. Under RSR the nodes draw in that order, one step each. -/
def redNode (env : FpEnv) (op : FpEnv → Nat → Nat → FpRes) (l : W32) (n : Nat) (x : Nat → Nat) : Nat → Nat → Nat
  | 0, i => x i
  | k + 1, i =>
    (op { env with draw := if env.mode = .rsr then (lfsrSteps (n - n / 2 ^ k + i + 1) l).toNat else l.toNat }
      (redNode env op l n x k (2 * i)) (redNode env op l n x k (2 * i + 1))).bits

/-- What the lanes of a reduction fold with: the function of v2Table, and the identity that an inactive lane counts as. -/
noncomputable def redTable : List ((V1 → Instr) × (V2 → Instr) × (Ty → Nat)) :=
  [(.vredAdd, .vaddX, fun ty => if ty.isInt then 0 else (fmtOf ty).sign true),
   (.vredMax, .vmaxX, fun ty => if ty.isInt then 2 ^ (ty.width - 1) else (fmtOf ty).sign true + (fmtOf ty).infBits),
   (.vredMin, .vminX, fun ty => if ty.isInt then 2 ^ (ty.width - 1) - 1 else (fmtOf ty).infBits),
   (.vredAnd, .vandX, fun ty => 2 ^ ty.width - 1), (.vredOr, .vorX, fun _ => 0)]

/-- The pieces of an access, all readable or writable: `u` is the state once all are translated, in order, and `keys` the
storage keys of their first bytes. No piece fails a check, waits behind a parked store, is at a format view, or on a lost
device. -/
def PlacedAll (s : State) (ps : List (Word × Nat)) (k : Acc3) (u : State) (keys : List Nat) : Prop :=
  (∀ p ∈ ps, s.protect s.cur p.1 p.2 (k == .w) ≠ none ∧ s.pageHeld s.cur (pageOf s.cur p.1) = false) ∧
  ∃ l, s.placeAll s.myCtx k (k == .w) ps = (u, .ok l) ∧ (∀ x ∈ l, x.1.view = none ∧ u.lostAt x.1 = false) ∧
    keys = l.map fun x => x.1.key

/-- A vector load: each active lane gets the bytes at its address, or all the bytes at the one address, and v(d) is poisoned
when a granule read is, or when it was and old lanes survive. -/
def VLoads (i : Instr) (s : State) (d : VReg) (ty : Ty) (m : VMask) (one : Bool) (addr : Nat → Word) : Prop :=
  ∀ act, act = (onLanes s m (2048 / ty.width)).take (if one then 1 else 2048) →
  (∀ j ∈ act, (addr j).toNat % (ty.width / 8) = 0) →
  ∀ u keys, PlacedAll s (act.map fun j => (addr j, ty.width / 8)) .r u keys →
    ∃ t, exec i s = .next t ∧ t.me.pc = s.nextPc ∧ Kept u t [] [d] [] [] false ∧
      (∀ j, j < 2048 / ty.width → lane ty.width (t.vreg d) j =
        if On s m j then
          littleEndian (Memory.read u.mem (keys.getD (if one then 0 else (onLanes s m j).length) 0) (ty.width / 8))
        else if m.z then 0 else lane ty.width (s.vreg d) j) ∧
      (t.vpois d = true ↔ (∃ key ∈ keys, u.pois key (ty.width / 8) = true) ∨
        (m.en = true ∧ m.z = false ∧ (∃ j, j < 2048 / ty.width ∧ On s m j = false) ∧ s.vpois d = true))

/-- A store of pieces: the bytes are in memory, written in order, STQ counts one, its acknowledgement is on its way, and
nothing else changes but what the translations and the counters do. -/
def StoresAll (i : Instr) (s : State) (ls : List (Word × List Byte)) : Prop :=
  ∀ u keys, PlacedAll s (ls.map fun l => (l.1, l.2.length)) .w u keys →
    ∃ t, exec i s = .next t ∧ t.me.pc = s.nextPc ∧
      t.mem = (keys.zip (ls.map Prod.snd)).foldl (fun m x => Memory.write m x.1 x.2) u.mem ∧
      SameRegs s.me t.me ∧ t.me.stq = s.me.stq + 1 ∧ (∀ ta, ta ≠ s.cur → t.slot ta = s.slot ta) ∧
      t.agenda = u.agenda ++ [.storeAck ⟨s.cur, s.me.uid⟩]

/-- A vector store of v(d), unpoisoned and aligned, stores each active lane at its address, the lowest lane first. -/
def VStores (i : Instr) (s : State) (d : VReg) (ty : Ty) (m : VMask) (addr : Nat → Word) : Prop :=
  s.vpois d = false → (∀ j ∈ onLanes s m (2048 / ty.width), (addr j).toNat % (ty.width / 8) = 0) →
    StoresAll i s ((onLanes s m (2048 / ty.width)).map fun j => (addr j, toBytes (ty.width / 8) (lane ty.width (s.vreg d) j)))

/-- The lane addresses of VMEM (R131): unit, strided and indexed. -/
def unitOf (s : State) (a : Src) (off : W32) (ty : Ty) (j : Nat) : Word :=
  (s.me.greg a.reg).val + off.signExtend 64 + BitVec.ofNat 64 (j * (ty.width / 8))
def stridedOf (s : State) (a b : Src) (off : W32) (j : Nat) : Word :=
  (s.me.greg a.reg).val + off.signExtend 64 + BitVec.ofNat 64 j * (s.me.greg b.reg).val
def indexedOf (s : State) (a : Src) (b : VReg) (off : W32) (ty : Ty) (j : Nat) : Word :=
  (s.me.greg a.reg).val + off.signExtend 64 +
    BitVec.ofInt 64 ((BitVec.ofNat ty.width (lane ty.width (s.vreg b) j)).toInt * (ty.width / 8 : Nat))

end Sys2Proof.Claims

open Sys2Proof Sys2Proof.Machine Sys2Proof.Claims in
/-- R126, R127: VCVT converts lanes: a widening one reads part p of v(a), a narrowing one writes part p of v(d) and leaves its
other lanes; inactive lanes as everywhere. -/
def Obligations.VectorConversions : Prop :=
  ∀ (s : State) (o : VCvtOp), Solo s → ∀ m p base,
    m = 2048 / Nat.max o.sty.width o.dty.width → p = o.part.toNat * m →
    (base = if o.sty.width < o.dty.width then 0 else p) → base + m ≤ 2048 / o.dty.width →
    ∀ f : Nat → FpRes, (f = fun j => cvtRes o.sty o.dty (laneEnv s o.rm o.m j) o.sat
      (lane o.sty.width (s.vreg o.a) (if o.sty.width < o.dty.width then p + j else j))) →
    ∃ t, exec (.vcvt o) s = .next t ∧ t.me.pc = s.nextPc ∧ Kept s t [] [o.d] [] [] true ∧ Local s t ∧
      (∀ i, i < 2048 / o.dty.width → lane o.dty.width (t.vreg o.d) i =
        if base ≤ i ∧ i < base + m then
          if On s o.m (i - base) then (f (i - base)).bits % 2 ^ o.dty.width
          else if o.m.z then 0 else lane o.dty.width (s.vreg o.d) i
        else lane o.dty.width (s.vreg o.d) i) ∧
      (t.vpois o.d = true ↔ s.vpois o.a = true ∨ (s.vpois o.d = true ∧ (o.dty.width < o.sty.width ∨
        (o.m.en = true ∧ o.m.z = false ∧ ∃ j, j < m ∧ On s o.m j = false)))) ∧
      t.me.fpctl = s.me.fpctl ||| (allFlags ((onLanes s o.m m).map fun j => (f j).flags)).bits ∧
      t.me.lfsr = if s.me.mode o.rm = .rsr then lfsrSteps (onLanes s o.m m).length s.me.lfsr else s.me.lfsr

open Sys2Proof Sys2Proof.Machine Sys2Proof.Claims in
/-- R80, R128: VRED folds the active lanes, with the identity in the inactive ones, by a balanced tree of its function, and
writes the result alone into v(d), the rest of it 0. Only flag bits of FPCTL may be set, and none by an integer type. -/
def Obligations.VectorReductions : Prop :=
  ∀ s : State, Solo s → ∀ e ∈ redTable, ∀ f ∈ v2Table, (∀ o, f.1 o = e.2.1 o) → ∀ o : V1,
    ∃ t, exec (e.1 o) s = .next t ∧ t.me.pc = s.nextPc ∧ Kept s t [] [o.d] [] [] true ∧ Local s t ∧
      (∀ k, 2 ^ k = 2048 / o.ty.width → t.vreg o.d = BitVec.ofNat 2048
        (redNode { mode := s.me.mode o.rm, ftz := s.me.ftz } (f.2.2 o.ty) s.me.lfsr (2048 / o.ty.width)
          (fun i => if On s o.m i then lane o.ty.width (s.vreg o.a) i else e.2.2 o.ty) k 0)) ∧
      t.vpois o.d = s.vpois o.a ∧
      (∃ fl : FpFlags, t.me.fpctl = s.me.fpctl ||| fl.bits ∧ (o.ty.isInt = true → fl = {})) ∧
      t.me.lfsr = if s.me.mode o.rm = .rsr then lfsrSteps (2048 / o.ty.width - 1) s.me.lfsr else s.me.lfsr

open Sys2Proof Sys2Proof.Machine Sys2Proof.Claims in
/-- R131 to R134: the vector loads and stores at unit, strided and indexed addresses, and VLDB, which reads once and gives
every active lane the same bytes. The index register of VGATH and VSCAT is not poisoned. -/
def Obligations.VectorMemory : Prop :=
  ∀ s : State, Solo s → NoAmo s →
    (∀ o : VMem1, Full s o.a.reg → VLoads (.vld o) s o.d o.ty o.m false (unitOf s o.a o.off o.ty) ∧
      VLoads (.vldb o) s o.d o.ty o.m true (fun _ => (s.me.greg o.a.reg).val + o.off.signExtend 64)) ∧
    (∀ o : VMem2, FullAll s [o.a, o.b] → VLoads (.vlds o) s o.d o.ty o.m false (stridedOf s o.a o.b o.off)) ∧
    (∀ o : VMemX, Full s o.a.reg → s.vpois o.b = false →
      VLoads (.vgath o) s o.d o.ty o.m false (indexedOf s o.a o.b o.off o.ty)) ∧
    (s.replay.busy = false →
      (∀ o : VMem1, Full s o.a.reg → VStores (.vst o) s o.d o.ty o.m (unitOf s o.a o.off o.ty)) ∧
      (∀ o : VMem2, FullAll s [o.a, o.b] → VStores (.vsts o) s o.d o.ty o.m (stridedOf s o.a o.b o.off)) ∧
      (∀ o : VMemX, Full s o.a.reg → s.vpois o.b = false →
        VStores (.vscat o) s o.d o.ty o.m (indexedOf s o.a o.b o.off o.ty)))

namespace Sys2Proof.Claims

open Sys2Proof.Machine

/-- Only accumulator d changes. -/
def WritesA (i : Instr) (s u : State) (d : AReg) (fp : Bool) (P : Acc → Slot → Prop) : Prop :=
  ∃ t, exec i s = .next t ∧ t.me.pc = s.nextPc ∧ Kept u t [] [] [] [d] fp ∧ P (t.acc d) t.me

/-- An operand of MMA that passes its checks (R137 to R139): a v register group unpoisoned; or a descriptor, FULL and aligned,
whose rows all lie in a share of QLM the slot may read, unpoisoned, on pages that hold no parked store of the slot. -/
def GoodOperand (s : State) (f : MmaFmt) : MOp → Prop
  | .reg v => ∀ i, i < mmaGroup f → s.vpois (BitVec.ofNat 5 (v.toNat + i)) = false
  | .qlm n => Full s n.reg ∧ Full s (n.reg + 1) ∧ (s.me.greg n.reg).val.toNat % mmaRowLen f = 0 ∧
    slice (s.me.greg (n.reg + 1)).val 0 32 % mmaRowLen f = 0 ∧
    ∀ a ∈ s.mmaRowAddrs f n, inQlmBlock a = true ∧ s.pageHeld s.cur (pageOf s.cur a) = false ∧ ∃ key, s.protect s.cur a (mmaRowLen f) false = some (some key) ∧
      ∀ i, i < mmaRowLen f → s.gran (key + i) = false

end Sys2Proof.Claims

open Sys2Proof Sys2Proof.Machine Sys2Proof.Claims in
/-- R79, R141 to R150: MMA adds to element (i, j) the exact sum of products of row i of A and row j of B, rounded or clipped
once; ACLR clears, ALD and AST move the low bytes of an accumulator, and AMOV a part of it. -/
def Obligations.TileResults : Prop :=
  ∀ s : State, Solo s →
    (NoAmo s → ∀ o : MmaOp, GoodOperand s o.f o.a → GoodOperand s o.f o.b →
      WritesA (.mma o) s s o.d true fun acc sl => (∃ fl : FpFlags, sl.fpctl = s.me.fpctl ||| fl.bits) ∧
        sl.lfsr = s.me.lfsr ∧ ∀ w n, w = (mmaAcc o.f).width → n = mmaRows o.f →
        (∀ i j, i < n → j < n → slice acc (w * (n * i + j)) w =
          (mmaElem o.f s.me.ftz (if o.clr then 0 else slice (s.acc o.d) (w * (n * i + j)) w)
            (rowElems (mmaIn o.f) ((s.mmaBytes o.f o.a).getD i []))
            (rowElems (mmaIn o.f) ((s.mmaBytes o.f o.b).getD j []))).bits % 2 ^ w) ∧
        acc.toNat / 2 ^ (w * n * n) = (s.acc o.d).toNat / 2 ^ (w * n * n)) ∧
    (∀ d : AReg, WritesA (.aclr d) s s d false fun acc _ => acc = 0) ∧
    (∀ (d : VReg) (a : AReg) (p : BitVec 2), ∃ t, exec (.amov (.toV d a p)) s = .next t ∧ t.me.pc = s.nextPc ∧
      Kept s t [] [d] [] [] false ∧ t.vpois d = false ∧ t.vreg d = (s.acc a).extractLsb' (2048 * p.toNat) 2048) ∧
    (∀ (d : AReg) (a : VReg) (p : BitVec 2), s.vpois a = false → WritesA (.amov (.toA d a p)) s s d false fun acc _ =>
      ∀ i, i < 8192 → acc.getLsbD i = if 2048 * p.toNat ≤ i ∧ i < 2048 * p.toNat + 2048
        then (s.vreg a).getLsbD (i - 2048 * p.toNat) else (s.acc d).getLsbD i) ∧
    (NoAmo s → ∀ (o : AccMem) (va : Word) (n : Nat), va = (s.me.greg o.a.reg).val + o.off.signExtend 64 →
      (n = if o.ty = .fp64 then 512 else 1024) → Full s o.a.reg → va.toNat % 64 = 0 →
      (∀ u keys, PlacedAll s (accParts va n) .r u keys → (∀ key ∈ keys, u.pois key 32 = false) →
        WritesA (.ald o) s u o.d false fun acc _ =>
          acc.toNat = (s.acc o.d).toNat / 2 ^ (8 * n) * 2 ^ (8 * n) +
            littleEndian (keys.flatMap fun key => Memory.read u.mem key 32)) ∧
      (s.replay.busy = false → StoresAll (.ast o) s ((List.range (n / 32)).map fun i =>
        (va + BitVec.ofNat 64 (32 * i), toBytes 32 (slice (s.acc o.d) (256 * i) 256)))))

namespace Sys2Proof.Claims

open Sys2Proof.Machine

/-- Start and length of group-geometry block number k of task coordinate t, with the origin o, the count n, the block length
b and the extent e of its axis (R154). -/
def blockOf (t o n b e k : Nat) : Nat × Nat :=
  if 0 < b ∧ o ≤ t ∧ t < o + n ∧ ((t - o) + k * n) * b < e then (((t - o) + k * n) * b, min b (e - ((t - o) + k * n) * b)) else (e, 0)

end Sys2Proof.Claims

open Sys2Proof Sys2Proof.Machine Sys2Proof.Claims in
/-- R151 to R155: GGSET writes one field of the group geometry; GGRNG gives start and length of a block of its axis; GGMASK
sets the bits of a tile that lie inside both lengths. -/
def Obligations.GroupGeometry : Prop :=
  ∀ s : State, Solo s →
    (∀ (a : Src) (f : BitVec 3), Full s a.reg → ∃ t, exec (.ggset a f) s = .next t ∧ t.me.pc = s.nextPc ∧
      (∀ ta, ta ≠ s.cur → t.slot ta = s.slot ta) ∧ t.mem = s.mem ∧
      SameRegs s.me { t.me with ggeo0 := s.me.ggeo0, ggeo1 := s.me.ggeo1 } ∧
      ∀ x : BitVec 128, x = s.me.ggeo1 ++ s.me.ggeo0 → ∀ p, p ∈ [(0, 0, 32), (1, 32, 32), (2, 64, 16), (3, 80, 16), (4, 96, 8),
        (5, 104, 8), (6, 112, 8), (7, 120, 8)] → p.1 = f.toNat → ∀ i, i < 128 →
          (t.me.ggeo1 ++ t.me.ggeo0).getLsbD i = if p.2.1 ≤ i ∧ i < p.2.1 + p.2.2
            then (s.me.greg a.reg).val.getLsbD (i - p.2.1) else x.getLsbD i) ∧
    (∀ (d : Reg) (a : Src), Full s a.reg → Free s d → ∀ axis : Bool,
      Gives (.ggrng d a axis) s d (BitVec.ofNat 64 ((fun r : Nat × Nat => r.2 * 2 ^ 32 + r.1)
        (if axis then blockOf (slice s.me.tcoord 16 16) (slice s.me.ggeo1 56 8) (slice s.me.ggeo1 40 8)
          (slice s.me.ggeo1 16 16) (slice s.me.ggeo0 32 32) (s.me.greg a.reg).val.toNat
        else blockOf (slice s.me.tcoord 0 16) (slice s.me.ggeo1 48 8) (slice s.me.ggeo1 32 8)
          (slice s.me.ggeo1 0 16) (slice s.me.ggeo0 0 32) (s.me.greg a.reg).val.toNat)))) ∧
    (∀ o : GgMaskOp, FullAll s [o.a, o.b] → ∃ x : KWord,
      exec (.ggmask o) s = .next (ended .s (s.putK o.d x)) ∧ ∀ i, i < 256 → x.getLsbD i =
        decide (o.col0.toNat + i % 2 ^ o.cl.toNat < slice (s.me.greg o.a.reg).val 32 32 ∧
          o.row0.toNat + i / 2 ^ o.cl.toNat < slice (s.me.greg o.b.reg).val 32 32))

namespace Sys2Proof.Claims

open Sys2Proof.Machine

/-! ## Tasks, edges and barriers (R113, R164 to R183) -/

/-- The waits of an instruction that acts outside its slot pass: no parked store, no atomic under way (R105, R211). -/
def Clear (s : State) : Prop := Solo s ∧ Quiet s ∧ NoAmo s

/-- A record as the scheduler accepts it (R165, R166, R172). -/
def workOf (s : State) (va : Word) (g : Option GangRec) (t : TaskRec) (core : Nat) (fixed : Bool) : Work :=
  { ctx := s.me.ctx, addr := va, gang := g, task := t, count := (t.deps : Int), home := if g.isSome then core / 2048 else core
    fixed := fixed }

/-- No decrement has come ahead of the record (R172), and no record of its address waits (R165). -/
def Fresh (s : State) (va : Word) : Prop :=
  (∀ w ∈ s.waiting, ¬ (w.ctx = s.me.ctx ∧ w.addr = va)) ∧ ∀ c ∈ s.credits, ¬ (c.ctx = s.me.ctx ∧ c.addr = va)

/-- What accepting a record does, once read in state u: status 1 for a malformed record, 3 while one of its address waits; a
fresh one with dependencies goes to the ready table, and one without is ready at once: a loose task on a deque of its core, a
gang in the placer of its die. -/
def Accepts (i : Instr) (s u : State) (d : Reg) (va : Word) (bad : Bool) (g : Option GangRec) (t : TaskRec) (core : Nat)
    (fixed : Bool) : Prop :=
  (bad = true → exec i s = .next (ended .s (u.putG d 1))) ∧
  (bad = false → (∃ w ∈ u.waiting, w.ctx = u.me.ctx ∧ w.addr = va) → exec i s = .next (ended .s (u.putG d 3))) ∧
  (bad = false → Fresh u va → (g.isSome = true → u.clustersUp (core / 2048) ≠ 0) →
    (0 < t.deps → exec i s = .next (ended .s (({ u with ready := u.ready ++ [workOf u va g t core fixed] } : State).putG d 0))) ∧
    (t.deps = 0 → g = none → exec i s = .next (ended .s ((u.pushDeque core (workOf u va g t core fixed)).putG d 0))) ∧
    (t.deps = 0 → g ≠ none → exec i s = .next (ended .s ((u.modDie (core / 2048) fun x =>
      { x with placer := x.placer ++ [{ workOf u va g t core fixed with since := u.time }] }).putG d 0))))

/-- A record in the ready table under this address (R172). -/
def Waits (s : State) (va : Word) (w : Work) : Prop :=
  s.ready.find? (fun x => x.ctx == s.me.ctx && x.addr == va) = some w

/-- The ready table with every record under this address replaced, or taken out. -/
def readyWith (s : State) (va : Word) (w : Work) : List Work :=
  s.ready.map fun x => if x.ctx = s.me.ctx ∧ x.addr = va then w else x
def readyWithout (s : State) (va : Word) : List Work :=
  s.ready.filter fun x => !decide (x.ctx = s.me.ctx ∧ x.addr = va)

end Sys2Proof.Claims

open Sys2Proof Sys2Proof.Machine Sys2Proof.Claims in
/-- R164 to R166: SPAWN onto the issuing core, SPAWNR onto the core that g(b) names, GANG on the issuing die; the record's
bytes are those that it reads in state u. -/
def Obligations.TaskCreation : Prop :=
  ∀ (s : State) (d : Reg) (a : Src) (va : Word) (u : State) (bs : List Byte), Clear s → Full s a.reg → Free s d →
    va = (s.me.greg a.reg).val →
    (va.toNat % 64 = 0 → s.readRecord va 64 = .ok u bs →
      Accepts (.spawn d a) s u d va (badTask bs) none (parseTask bs) s.myCore false ∧
      ∀ b : Src, Full s b.reg → s.taOk s.myCtx ((s.me.greg b.reg).val &&& ~~~7) = true →
        s.devOf ((s.me.greg b.reg).val &&& ~~~7) = 0 →
        Accepts (.spawnr d a b) s u d va (badTask bs) none (parseTask bs)
          (slice ((s.me.greg b.reg).val &&& ~~~7) 3 13) true) ∧
    (va.toNat % 128 = 0 → s.readRecord va 128 = .ok u bs →
      Accepts (.gang d a) s u d va (badGang bs) (some (parseGang bs)) (parseTask ((bs.drop 64).take 64)) u.myCore false)

open Sys2Proof Sys2Proof.Machine Sys2Proof.Claims in
/-- R172 to R174, R179: DEPSET sets the count of a waiting record and answers 1, or 0 where none waits; DEPDEC takes n off it,
or keeps the decrement for a record to come; at 0 or below a loose record is ready. CANCEL answers 0 where no record waits,
else it takes the record out, completes it, with an error token if asked, and answers 1. -/
def Obligations.Dependencies : Prop :=
  ∀ (s : State) (a : Src) (va : Word), Clear s → Full s a.reg → va = (s.me.greg a.reg).val → va.toNat % 64 = 0 →
    va.toNat / 2 ^ 56 = 0 →
    (∀ (d : Reg) (b : Src) (n : Int), Full s b.reg → Free s d → n = ((s.me.greg b.reg).val.setWidth 32).toInt →
      ((∀ w ∈ s.ready, ¬ (w.ctx = s.me.ctx ∧ w.addr = va)) → Gives (.depset d a b) s d 0) ∧
      ∀ w, Waits s va w →
        (0 < n → exec (.depset d a b) s =
          .next (ended .s { s.putG d 1 with ready := readyWith s va { w with count := n } })) ∧
        (n ≤ 0 → w.token = false → w.gang = none → exec (.depset d a b) s =
          .next (ended .s (({ s.putG d 1 with ready := readyWithout s va } : State).pushDeque
            (if w.fixed then w.home else s.myCore) { w with count := n })))) ∧
    (∀ n : BitVec 16,
      ((∀ w ∈ s.ready, ¬ (w.ctx = s.me.ctx ∧ w.addr = va)) →
        (∀ c ∈ s.credits, ¬ (c.ctx = s.me.ctx ∧ c.addr = va)) →
        exec (.depdec a n) s = .next (ended .s { s with credits := s.credits ++ [⟨s.me.ctx, va, n.toNat, []⟩] })) ∧
      ∀ w, Waits s va w →
        ((n.toNat : Int) < w.count → exec (.depdec a n) s =
          .next (ended .s { s with ready := readyWith s va { w with count := w.count - n.toNat } })) ∧
        (w.count ≤ n.toNat → w.token = false → w.gang = none → exec (.depdec a n) s =
          .next (ended .s (({ s with ready := readyWithout s va } : State).pushDeque
            (if w.fixed then w.home else s.myCore) { w with count := w.count - n.toNat })))) ∧
    (∀ (d : Reg) (prop : Bool) (l : List Work), Free s d →
      l = s.ready ++ ((s.cores.filter fun p => p.1 / 2048 == taDie s.cur).flatMap fun p => p.2.urgent ++ p.2.normal) ++
        (s.dies.flatMap fun p => p.2.placer) ++ (s.die (taDie s.cur)).overflow →
      ((∀ w ∈ l, ¬ (w.ctx = s.me.ctx ∧ w.addr = va)) → Gives (.cancel d a prop) s d 0) ∧
      ∀ w, l.find? (fun w => w.ctx == s.me.ctx && w.addr == va) = some w →
        exec (.cancel d a prop) s = .next (ended .s
          (((((s.unqueue w.ctx w.addr).replayEnd w.replay 2).cancelled w s.myCore).putG d 1).act [.done w.ctx w.addr w.task prop s.myCore])))

namespace Sys2Proof.Claims

open Sys2Proof.Machine

/-- A good edge header at the address of g(a): the slot may write it, `u` is the state once it is found, and it holds e
(R175). -/
def EdgeAt (s : State) (va : Word) (u : State) (key : Nat) (e : Edge) : Prop :=
  s.edgePlace (some s.cur) s.me.ctx va 64 = (u, .ok key) ∧ u.edgeAt key = .ok e

/-- The word of an item slot of the edge, for a read or a write: `x` is the state once it is found. -/
def ItemAt (u : State) (ctx : Nat) (e : Edge) (n : Nat) (k : Acc3) (x : State) (item : Nat) : Prop :=
  u.edgePlace (some u.cur) ctx (e.base + BitVec.ofNat 64 (8 * n)) 8 k = (x, .ok item)

end Sys2Proof.Claims

open Sys2Proof Sys2Proof.Machine Sys2Proof.Claims in
/-- R175: EPUSH discards at an edge with ERR, waits at a full one, else stores its item at the tail and moves the tail; where
the edge has a consumer and was empty and not running, the consumer is readied. EPOP takes the item at the head, or at an
empty edge clears RUN and answers 1, or 2 with ERR. -/
def Obligations.Edges : Prop :=
  ∀ (s : State) (a : Src) (va : Word) (u : State) (key : Nat) (e : Edge), Clear s → Full s a.reg →
    va = (s.me.greg a.reg).val → va.toNat % 64 = 0 → EdgeAt s va u key e → u.replay.busy = false → u.cur = s.cur →
    (∀ b : Src, Full s b.reg →
      (e.err = true → exec (.epush a b) s = .next (ended .s u)) ∧
      (e.err = false → e.free = 0 → exec (.epush a b) s = .next u) ∧
      ∀ x item v e', e.err = false → e.free ≠ 0 → ItemAt u s.me.ctx e e.tail .w x item → x.replay.busy = false →
        v = (x.me.greg b.reg).val → e' = { e with tail := (e.tail + 1) % e.cap, free := e.free - 1, fill := e.fill + 1 } →
        (e.fill ≠ 0 ∨ e.run = true ∨ e.cons = 0 → exec (.epush a b) s =
          .next (ended .s ((x.putBytes item (toBytes 8 v.toNat)).putEdge key e'))) ∧
        (e.fill = 0 → e.run = false → e.cons ≠ 0 → exec (.epush a b) s =
          .next (ended .s (((x.putBytes item (toBytes 8 v.toNat)).putEdge key { e' with run := true }).readyCons
            (some x.cur) s.me.ctx e.cons x.myCore false)))) ∧
    (∀ d : Reg, Free s d → Free s (d + 1) →
      (e.fill = 0 → exec (.epop d a) s = .next (ended .s
        (((u.putEdge key { e with run := false }).putG (d + 1) 0).putG d (if e.err then 2 else 1)))) ∧
      ∀ x item, e.fill ≠ 0 → ItemAt u s.me.ctx e e.head .r x item → x.replay.busy = false →
        exec (.epop d a) s = .next (ended .s
          (((x.putEdge key { e with head := (e.head + 1) % e.cap, fill := e.fill - 1, free := e.free + 1 }).modMe
            fun sl => sl.arriveG (d + 1) (BitVec.ofNat 64 (ofBytes (x.bytes item 8))) (x.pois item 8)).putG d 0)))

open Sys2Proof Sys2Proof.Machine Sys2Proof.Claims in
/-- R113: with no parked store, no atomic and no store under way, END of a task or of an activation empties its slot. -/
def Obligations.EndEmptiesSlot : Prop :=
  ∀ s : State, Clear s → s.me.stq = 0 →
    ∃ t, exec .endTask s = .next t ∧ (t.slot s.cur).st = .idle ∧ (t.slot s.cur).uid = 0

namespace Sys2Proof.Claims

open Sys2Proof.Machine

/-- Where a rank stands among a slot's waiters: none, or whether it has been released with a status (R181). -/
def standing (b : BarSlot) (rank : Nat) : Option (Nat × Option Nat) := b.waits.find? fun w => w.1 == rank

/-- BARWAIT and BARSYNC after the arrival (R181, R182). A rank that does not wait yet gets 0 at its phase, and at a poisoned
slot its cause or a BARRIER fault; else it joins the waiters. One that waits gets the status that it was released with. -/
def WaitsAt (i : Instr) (s : State) (d : Reg) (n : BitVec 3) (t : Bool) (b : BarSlot) : Prop :=
  (standing b s.me.rank = none →
    (b.pois = false → b.ph = s.lph n → Gives i s d 0) ∧
    (b.pois = false → b.ph ≠ s.lph n → exec i s = .next (s.modMyBar n fun b => { b with waits := b.waits ++ [(s.me.rank, none)] })) ∧
    (b.pois = true → b.cause ≠ 0 → t = false →
      exec i s = .next (ended .s ((s.putLph n b.ph).putG d (BitVec.ofNat 64 b.cause)))) ∧
    (b.pois = true → b.cause ≠ 0 → t = true → taHnd s.cur = false → ∃ x, exec i s = .next x ∧ (x.me.st = .frozen ∧
      x.me.pkt.fcode = 0x0D ∧ x.me.pkt.faddr = n.setWidth 64))) ∧
  (standing b s.me.rank = some (s.me.rank, none) → b.pois = false → b.ph ≠ s.lph n → exec i s = .next s) ∧
  (∀ c, standing b s.me.rank = some (s.me.rank, some c) →
    (c = 0 → exec i s = .next (ended .s ((s.modMyBar n (BarSlot.unwait s.me.rank)).putG d 0))) ∧
    (c ≠ 0 → t = false → exec i s = .next (ended .s
      (((s.modMyBar n (BarSlot.unwait s.me.rank)).putLph n b.ph).putG d (BitVec.ofNat 64 c)))))

end Sys2Proof.Claims

open Sys2Proof Sys2Proof.Machine Sys2Proof.Claims in
/-- R180 to R182: the BAR instructions of a task of a gang that has the slot, with the waits of a release passed: BARINIT,
BARARV, BARWAIT, BARSYNC, BARACK, BARPOIS, BARSTAT; and outside a gang, or beyond its slots, a BARRIER fault. -/
def Obligations.Barriers : Prop :=
  ∀ (s : State) (n : BitVec 3), Solo s →
    (∀ b, s.bar n = some b →
      (∀ x y : Src, FullAll s [x, y] → exec (.barinit n x y) s = .next (ended .s (s.modMyBar n fun b =>
        if b.arr = 0 then
          { b with
            memb := ((s.me.greg y.reg).val ++ (s.me.greg x.reg).val) &&&
              (match s.unitOf s.cur with
                | some u => u.members.foldl (fun w m => if m.ended then w else w ||| (1#128 <<< m.rank)) 0
                | none => 0)
            pois := false, cause := 0, ackx := 0, ackn := 0 }
        else { b with pois := true, cause := 1, waits := releaseAll 1 b.waits }))) ∧
      (Clear s → exec (.bararv n) s = .next (ended .s
        ((s.post (.barrierArrival s.me.ctx s.me.uid n.toNat s.me.rank (s.lph n))).putLph n (!s.lph n)))) ∧
      (∀ (d : Reg) (t : Bool), Free s d → WaitsAt (.barwait d n t) s d n t b ∧
        (s.me.barSent = true → WaitsAt (.barsync d n t) s d n t b) ∧
        (s.me.barSent = false → Clear s → exec (.barsync d n t) s = .next
          ((((s.post (.barrierArrival s.me.ctx s.me.uid n.toNat s.me.rank (s.lph n))).putLph n (!s.lph n)).modMyBar n fun b =>
            { b with waits := (b.waits.filter fun w => w.1 != s.me.rank) ++ [(s.me.rank, none)] }).modMe
            fun sl => { sl with barSent := true }))) ∧
      (∀ a : Src, Full s a.reg → ∃ k, k = slice (s.me.greg a.reg).val 0 16 ∧ exec (.barack n a) s = .next (ended .s
        (s.modMyBar n fun b => if 65535 < b.ackx + k then { b with pois := true, cause := 1, waits := releaseAll 1 b.waits } else { b with ackx := b.ackx + k }))) ∧
      exec (.barpois n) s = .next (ended .s (s.modMyBar n fun b => { b with pois := true, cause := 3, waits := releaseAll 3 b.waits })) ∧
      (∀ d : Reg, Free s d → b.ackn < 65536 → b.ackx < 65536 → b.cause < 16 →
        exec (.barstat d n) s = .next (ended .s ((if b.pois then s.putLph n b.ph else s).putG d
          (BitVec.ofNat 16 b.ackn ++ BitVec.ofNat 16 b.ackx ++ BitVec.ofNat 8 (countBits b.arr) ++
            BitVec.ofNat 8 (countBits b.memb) ++ BitVec.ofNat 12 b.cause ++ BitVec.ofBool b.pois ++ 0#1 ++
            BitVec.ofBool (s.lph n) ++ BitVec.ofBool b.ph : Word))))) ∧
    (s.bar n = none → taHnd s.cur = false → ∃ t, exec (.barpois n) s = .next t ∧ Faulted s t 0x0D (n.setWidth 64))

namespace Sys2Proof.Claims

open Sys2Proof.Machine

/-! ## Atomics (R215 to R219) -/

/-- The atomics of one value operand and their functions (R216). -/
noncomputable def amoTable : List ((AmoOp → Instr) × AmoFn) :=
  [(.amoSwap, .swap), (.amoAdd, .add), (.amoAnd, .and), (.amoOr, .or), (.amoXor, .xor), (.amoMin, .min), (.amoMax, .max),
   (.amoMinu, .minu), (.amoMaxu, .maxu), (.amoFadd, .fadd), (.amoFmin, .fmin), (.amoFmax, .fmax)]

/-- Where the n bytes of an atomic are: in a QLM share that the slot may write, or translated for read and write at no
format view and no location of type HOST that takes no atomics (R216, R217, R321). -/
def AmoPlaced (s : State) (va : Word) (n : Nat) (u : State) (key : Nat) : Prop :=
  (inQlmBlock va = true ∧ s.protect s.cur va n true = some (some key) ∧ u = s) ∨
  (inQlmBlock va = false ∧ va.toNat / 2 ^ 56 = 0 ∧
    ∃ p : Place, s.translate s.myCtx (some s.cur) va .a = (u, some p) ∧ p.key = key ∧ p.view = none ∧ p.mt ≠ 4)

/-- Where the old value goes (R216). -/
def homeward (s : State) : Dst → AmoDest
  | .loc d => if d = 0 then .none else .loc d
  | .rem n e => .rem ((s.me.greg e.reg).val.toNat % 2 ^ 32) n

/-- A destination that takes a result: a local register that is not pending, or a remote one named by a FULL register (R47). -/
def Takes (s : State) : Dst → Prop
  | .loc d => Free s d
  | .rem _ e => Full s e.reg ∧ Named s (s.me.greg e.reg).val

/-- An atomic ends with its request on its way and a local destination EMPTY and pending; the no-return form counts in STQ.
No other register, no other slot and, beyond the translation, no byte of memory changes. -/
def SendsAmo (i : Instr) (s : State) (dst : Dst) (fn : AmoFn) (ty : Ty) (rm : Rm) (va x y : Word) : Prop :=
  ∀ u key, AmoPlaced s va (ty.width / 8) u key → ∃ t, exec i s = .next t ∧ t.me.pc = s.nextPc ∧ t.mem = u.mem ∧
    t.poison = s.poison ∧ (∀ ta, ta ≠ s.cur → t.slot ta = s.slot ta) ∧
    (∀ r, (∀ d, dst = .loc d → r ≠ d) → t.me.greg r = s.me.greg r) ∧ SameRegs s.me { t.me with g := s.me.g } ∧
    (∀ d, dst = .loc d → d ≠ 0 → (t.me.greg d).pres = .empty ∧ (t.me.greg d).pend = true) ∧
    t.me.stq = (if dst = .loc 0 then s.me.stq + 1 else s.me.stq) ∧
    t.agenda = u.agenda ++ [.atomicAtHome ⟨⟨s.cur, s.me.uid⟩, s.me.ctx, homeward s dst, fn, ty, rm, key,
      BitVec.ofNat 64 (x.toNat % 2 ^ ty.width), BitVec.ofNat 64 (y.toNat % 2 ^ ty.width)⟩]

/-- The new value of an integer atomic on patterns of w bits (R216). -/
def newValue (w : Nat) (fn : AmoFn) (old x y : BitVec w) : Option (BitVec w) :=
  match fn with
  | .swap => some x
  | .cas => some (if old = y then x else old)
  | .add => some (old + x)
  | .and => some (old &&& x)
  | .or => some (old ||| x)
  | .xor => some (old ^^^ x)
  | .min => some (if old.toInt ≤ x.toInt then old else x)
  | .max => some (if old.toInt ≤ x.toInt then x else old)
  | .minu => some (if old.toNat ≤ x.toNat then old else x)
  | .maxu => some (if old.toNat ≤ x.toNat then x else old)
  | .fadd | .fmin | .fmax => none

/-- The old value as it returns (R216). -/
def oldValue (w : Nat) (fn : AmoFn) (old : BitVec w) : Word :=
  if fn ∈ [AmoFn.add, .min, .max] then old.signExtend 64 else old.setWidth 64

end Sys2Proof.Claims

open Sys2Proof Sys2Proof.Machine Sys2Proof.Claims in
/-- R215 to R218: with its sources FULL, its destination ready, no store parked, no earlier atomic under way, its address a
multiple of its size and its location one that takes atomics, every AMO sends its request and ends. -/
def Sys2Proof.Claims.AtomicIssue : Prop :=
  ∀ s : State, Clear s →
    (∀ e ∈ amoTable, ∀ o : AmoOp, FullAll s [o.a, o.b] → Takes s o.dst → (o.rl = true → Released s o.sc) →
      ((s.me.greg o.a.reg).val + o.off.signExtend 64).toNat % (o.ty.width / 8) = 0 →
      SendsAmo (e.1 o) s o.dst e.2 o.ty o.rm ((s.me.greg o.a.reg).val + o.off.signExtend 64) (s.me.greg o.b.reg).val 0) ∧
    (∀ o : CasOp, FullAll s [o.a, o.b, o.c] → Takes s o.dst → (o.rl = true → Released s o.sc) →
      ((s.me.greg o.a.reg).val + o.off.signExtend 64).toNat % (o.ty.width / 8) = 0 →
      SendsAmo (.amoCas o) s o.dst .cas o.ty .rne ((s.me.greg o.a.reg).val + o.off.signExtend 64) (s.me.greg o.b.reg).val
        (s.me.greg o.c.reg).val)

open Sys2Proof Sys2Proof.Machine Sys2Proof.Claims in
/-- R216, R218, R219: an atomic at a location of L2 writes the new value of its function, as the integer functions give it,
and sends the old one back; at a poisoned location it changes no byte and answers POISON; one at a QLM location reaches the
queue of the core that owns it. The old value sets the destination of its task FULL, or counts STQ down, or goes on as a remote
write, which a handler activation holds until it ends (R226). -/
def Sys2Proof.Claims.AtomicsAtTheirHome : Prop :=
  ∀ (s : State) (r : AmoReq), s.replay.busy = false →
    (r.key < 2 ^ 64 →
      (s.pois r.key (r.ty.width / 8) = false → ∀ w old new, w = r.ty.width →
        old = BitVec.ofNat w (littleEndian (Memory.read s.mem r.key (w / 8))) →
        newValue w r.fn old (r.x.setWidth w) (r.y.setWidth w) = some new → r.x.toNat < 2 ^ w → r.y.toNat < 2 ^ w →
        exec (.atomicAtHome r) s =
          .next ((s.putBytes r.key (toBytes (w / 8) new.toNat)).post (.atomicReturn r (oldValue w r.fn old) false))) ∧
      (s.pois r.key (r.ty.width / 8) = true → ∃ e, exec (.atomicAtHome r) s =
        .next { s with agenda := s.agenda ++ [.errorDetected e, .atomicReturn r 0 true] })) ∧
    (∀ q off, q < 2048 → off < 2 ^ 20 → r.key = 2 ^ 64 + q * 2 ^ 20 + off →
      exec (.atomicAtHome r) s = .next (s.rxArrive (4 * q + off / 128 % 4)
        { kind := 1, sender := BitVec.ofNat 64 r.req.ta, ctx := r.ctx, ta := 8 * (4 * q + off / 128 % 4) + 4, value := r.x,
          w2h := BitVec.ofNat 32 off, w3 := r.y, amo := some r } none)) ∧
    (∀ (old : Word) (pois : Bool), (s.slot r.req.ta).uid = r.req.uid → r.req.uid ≠ 0 →
      (∀ p ∈ s.agreed, p.1 ≠ r.req.uid) →
      (r.dest = .none → exec (.atomicReturn r old pois) s =
        .next (s.modSlot r.req.ta fun sl => { sl with stq := sl.stq - 1 })) ∧
      (∀ d, r.dest = .loc d → exec (.atomicReturn r old pois) s = .next (s.modSlot r.req.ta fun sl =>
        sl.setG d (if pois then ⟨(sl.greg d).val, .poison, false⟩ else ⟨old, .full, false⟩))) ∧
      (∀ th n i, r.dest = .rem th n → th < 2 ^ 16 → (s.slot th).partner = none →
        i = .remoteWriteArrival ⟨BitVec.ofNat 64 r.req.ta, r.ctx, th, n, old, pois⟩ →
        (taHnd r.req.ta = false → exec (.atomicReturn r old pois) s = .next (s.post i)) ∧
        (taHnd r.req.ta = true → exec (.atomicReturn r old pois) s =
          .next (s.modSlot r.req.ta fun sl => { sl with outbox := sl.outbox ++ [.event i] }))))

/-- Atomics where they are issued and at their home (R215 to R219): both parts hold. -/
def Obligations.Atomics : Prop := Sys2Proof.Claims.AtomicIssue ∧ Sys2Proof.Claims.AtomicsAtTheirHome

namespace Sys2Proof.Claims

open Sys2Proof.Machine

/-! ## L2 control, fences and messages (R193 to R199, R209, R220 to R226) -/

/-- Nothing of the issuing slot is under way: no store parked or unacknowledged, no load and no atomic (R199, R221). -/
def Settled (s : State) : Prop := Quiet s ∧ s.me.stq = 0 ∧ s.dataOut s.me.uid = false

/-- The retention register of an index. -/
def retained (s : State) (i : Nat) : Option Retention := s.retain.toList.getD i none

end Sys2Proof.Claims

open Sys2Proof Sys2Proof.Machine Sys2Proof.Claims in
/-- R193 to R199: L2PIN takes the lowest free retention register and ways none reserves, or answers status 5, 4, 3, 1 or 2 and
takes nothing; L2UNPIN frees a register of the context, L2STAT reads its counters, L2FLUSH answers the pages that fail
translation; an index of no register of the context raises PROTECT. -/
def Sys2Proof.Claims.L2Control : Prop :=
  ∀ (s : State) (d : Reg) (a : Src), Solo s → Settled s → Free s d → Full s a.reg →
    (∀ (b : Src) (w : BitVec 4) (len : Nat) (u : State) (pages : List (Nat × Nat)), Full s b.reg →
      len = (s.me.greg b.reg).val.toNat → (s.me.greg a.reg).val.toNat % 128 = 0 → len % 128 = 0 → len ≠ 0 →
      s.pinPages (some s.cur) s.myCtx (rangePages (s.me.greg a.reg).val.toNat len) = (u, .ok pages) →
      ((∃ p ∈ pages, p.2 ≠ 0) → exec (.l2pin d a b w) s = .next (ended .s (u.putG d 0x500))) ∧
      ((∀ p ∈ pages, p.2 = 0) →
        (contiguous pages = false → exec (.l2pin d a b w) s = .next (ended .s (u.putG d 0x400))) ∧
        (contiguous pages = true → ∀ base, base = (pages.map Prod.fst).headD 0 →
          ((∃ i r, retained u i = some r ∧ base < r.base + r.len ∧ r.base < base + len) →
            exec (.l2pin d a b w) s = .next (ended .s (u.putG d 0x300))) ∧
          ((∀ i r, retained u i = some r → ¬ (base < r.base + r.len ∧ r.base < base + len)) →
            ((∀ i, i < 16 → retained u i ≠ none) → exec (.l2pin d a b w) s = .next (ended .s (u.putG d 0x100))) ∧
            ∀ i, i < 16 → retained u i = none → (∀ j, j < i → retained u j ≠ none) →
              (12 < u.reservedWays.length + w.toNat → exec (.l2pin d a b w) s = .next (ended .s (u.putG d 0x200))) ∧
              (u.reservedWays.length + w.toNat ≤ 12 → exec (.l2pin d a b w) s = .next (ended .s ((u.setRetain i (some
                { ctx := u.me.ctx, vbase := (s.me.greg a.reg).val, base := base, len := len
                  ways := ((List.range 12).filter fun k => !u.reservedWays.contains k).take w.toNat })).putG d
                    (BitVec.ofNat 64 i)))))))) ∧
    (∀ r, (s.me.greg a.reg).val.toNat < 16 → retained s (s.me.greg a.reg).val.toNat = some r → r.ctx = s.me.ctx →
      exec (.l2unpin d a) s = .next (ended .s ((s.setRetain (s.me.greg a.reg).val.toNat none).putG d 0)) ∧
      (r.hits < 2 ^ 32 → r.miss < 2 ^ 32 →
        Gives (.l2stat d a false) s d (BitVec.ofNat 32 r.miss ++ BitVec.ofNat 32 r.hits) ∧
        exec (.l2stat d a true) s = .next (ended .s ((s.setRetain (s.me.greg a.reg).val.toNat
          (some { r with hits := 0, miss := 0 })).putG d (BitVec.ofNat 32 r.miss ++ BitVec.ofNat 32 r.hits))))) ∧
    (taHnd s.cur = false → retained s (s.me.greg a.reg).val.toNat = none →
      ∃ t, exec (.l2unpin d a) s = .next t ∧ Faulted s t 0x07 (s.me.greg a.reg).val) ∧
    (∀ (b : Src) (u : State) (n : Nat), Full s b.reg →
      s.flushPages s.myCtx ((s.me.greg a.reg).val.toNat + (s.me.greg b.reg).val.toNat - 1)
        (rangePages (s.me.greg a.reg).val.toNat (s.me.greg b.reg).val.toNat) = (u, n) →
      exec (.l2flush d a b) s = .next (ended .s (u.putG d (BitVec.ofNat 64 n))))

open Sys2Proof Sys2Proof.Machine Sys2Proof.Claims in
/-- R209, R220 to R225: FENCE ends once no store is parked, no load and no atomic is under way and, beyond the device, STQ = 0,
and under DUR once every store to persistent memory is acknowledged; IFENCE empties the fetch buffer beyond itself and the quad's
lines; DRAIN waits for everything the slot has under way; SENDAM by a task puts
its message of two entries into the receive queue of the named core, and waits while the queue is full. -/
def Sys2Proof.Claims.FencesAndMessages : Prop :=
  ∀ s : State, Solo s →
    (∀ sc : Scope, Quiet s → s.dataOut s.me.uid = false →
      ((sc ∈ [Scope.peer, .fab, .host, .sys, .dur] → s.me.stq = 0) → (sc = .dur → s.me.pm = 0) →
        exec (.fence sc) s = .next (ended .s s)) ∧
      (sc = .dur → s.me.stq = 0 → s.me.pm ≠ 0 →
        exec (.fence sc) s = .next s ∨ exec (.fence sc) s = .next (s.modMe fun sl => { sl with pm := 0 })) ∧
      (sc ∈ [Scope.peer, .fab, .host, .sys, .dur] → s.me.stq ≠ 0 → exec (.fence sc) s = .next s)) ∧
    (exec .ifence s = .next (ended .s
      (((s.modQuad (taQuad s.cur) fun q => { q with icache := [] }).modMe fun sl => { sl with fbuf := sl.fbuf.take 1 }).countMe 30 1))) ∧
    (Settled s → s.mailOut s.cur = false → s.me.copn = 0 → exec .drain s = .next (ended .s s)) ∧
    (Quiet s → (s.me.stq ≠ 0 ∨ s.dataOut s.me.uid = true ∨ s.me.copn ≠ 0) → exec .drain s = .next s) ∧
    (∀ (a b c e : Src) (imm : W32) (core : Nat) (m : RxMsg), Clear s → taHnd s.cur = false → FullAll s [a, b, c, e] →
      Named s (s.me.greg a.reg).val → (s.me.greg a.reg).val.getLsbD 2 = true →
      core = (s.me.greg a.reg).val.toNat / 8 →
      m = { kind := 2, sender := BitVec.ofNat 64 s.cur, ctx := s.me.ctx, ta := 8 * core + 4, value := (s.me.greg c.reg).val
            w2h := imm, w3 := (s.me.greg e.reg).val
            more := [(s.me.greg b.reg).val, BitVec.ofNat 64 s.me.ctx, 0, 0] } →
      (∀ i ∈ s.agenda, isMail (BitVec.ofNat 64 s.cur) (8 * core + 4) i = false) →
      s.me.sent = false → s.me.sending = false → (s.core core).held = [] →
      ((s.core core).rxFits m = true →
        exec (.sendam a b c e imm) s = .next (ended .s (s.rxPut core m))) ∧
      ((s.core core).rxFits m = false →
        exec (.sendam a b c e imm) s =
          .next (((s.modCore core fun k => { k with held := [(m, some s.me.uid)] }).post (.rxfull core)).modMe
            fun sl => { sl with sending := true })))

/-- L2 control, fences and messages (R193 to R199, R209, R220 to R225): both parts hold. -/
def Obligations.L2FencesMessages : Prop := Sys2Proof.Claims.L2Control ∧ Sys2Proof.Claims.FencesAndMessages

namespace Sys2Proof.Claims

open Sys2Proof.Machine

/-! ## Copies, tags and collectives (R227 to R245) -/

/-- The operation that CPGO launches, from the shadow registers of the slot (R227, R229, R232, R233). -/
structure Launched (s : State) (o : EngOp) (id : W32) : Prop where
  id : o.id = id
  req : o.req = ⟨s.cur, s.me.uid⟩ ∧ o.ctx = s.me.ctx ∧ o.graph = s.me.graph.setWidth 32 ∧ o.unit = s.me.unit ∧
    o.taskid = s.me.taskid
  shape : o.shadow = s.me.shadow.toList
  control : ∀ ctl cdep, s.me.shadow.toList[5]? = some ctl → s.me.shadow.toList[6]? = some cdep →
    o.sink = ctl.toNat % 4 ∧ o.tag = ctl.toNat / 4 % 64 ∧ o.trap = ctl.getLsbD 31 ∧ o.cdep = cdep ∧
    o.ack = if ctl.getLsbD 30 then some (ctl.toNat / 2 ^ 24 % 64) else none
  plain : o.coll = none ∧ o.plan = [] ∧ o.written = 0 ∧ o.shown = []
  reach : o.rp = s.me.rp ∧ o.share = ((s.unitOf s.cur).map UnitSt.share).getD ([], 0, 0)

/-- BARS of the gang of the issuing task, none outside a gang. -/
def barsOf (s : State) : Option Nat :=
  match s.unitOf s.cur with
  | some u => u.gang.map fun _ => u.bars.length
  | none => none

/-- The issuing slot has one more operation, on engine e, whose next sequence number is taken (R232). -/
def operated (s : State) (e : Nat) (o : EngOp) : State :=
  ((s.modEng e fun x => { x with seq := nextSeq x.seq, ops := x.ops ++ [o] }).modMe
    fun sl => { sl with copn := sl.copn + 1 }).countMe 22 1

/-- The collectives and their function numbers (R243). -/
noncomputable def collTable : List ((Reg → Src → Instr) × Nat) :=
  [(.creduce, 0), (.callred, 1), (.cbcast, 2), (.cgather, 3)]

/-- The next operation of a member of a group has the next number (R244). -/
def nextColl (u y : State) (my : Nat) : State :=
  y.modCtx y.me.ctx fun k => { k with collSeq := Store.set k.collSeq my (Store.get 0 u.myCtx.collSeq my + 1) }

/-- The place of the issuing die in a member list. -/
def hereIn (s : State) (l : List (Nat × Nat)) (m : Nat) : Prop :=
  ∃ p, l[m]? = some p ∧ (p.1 = 0 ∨ p.1 = s.host.devNo) ∧ p.2 = taDie s.cur

end Sys2Proof.Claims

open Sys2Proof Sys2Proof.Machine Sys2Proof.Claims in
/-- R229, R230, R232, R233, R235, R236: CPSET writes a shadow register and raises ILLEGAL for the eighth; CPGO queues a copy on
the engine of its slot, a malformed one completes at once with status 1, and answers its id, and waits while 64 are queued;
CPSTAT answers the bytes written and the state; CPABORT answers 1 for an operation of the task that has not reached its
completion point, and aborts it with status 5 unless it is a collective past its commit (log 15), and else answers 0. -/
def Sys2Proof.Claims.CopyInstructions : Prop :=
  ∀ s : State, Solo s →
    (∀ (i : BitVec 3) (a : Src), Full s a.reg →
      (∀ h : i.toNat < 7, exec (.cpset i a) s = .next (ended .v (s.modMe fun sl =>
        { sl with shadow := sl.shadow.set i.toNat (s.me.greg a.reg).val h }))) ∧
      (i = 7 → taHnd s.cur = false → ∃ t, exec (.cpset i a) s = .next t ∧ Faulted s t 0x01 s.me.pc)) ∧
    (∀ (d : Reg) (e : Nat) (id : W32), Clear s → Free s d → e = copyEngine s.cur →
      id = BitVec.ofNat 32 (e * 2 ^ 24 + (s.eng e).seq) →
      (((s.eng e).ops.filter fun o => o.st == 1).length < 64 → ∃ o, Launched s o id ∧
        (o.malformed (barsOf s) = true → o.st = 2 ∧ o.status = 1 ∧
          exec (.cpgo d) s = .next (ended .v (((operated s e o).complete o).putG d (id.setWidth 64)))) ∧
        (o.malformed (barsOf s) = false → o.st = 1 ∧ o.status = 0 ∧
          exec (.cpgo d) s = .next (ended .v (((operated s e o).post (.copyExecute e)).putG d (id.setWidth 64))))) ∧
      (64 ≤ ((s.eng e).ops.filter fun o => o.st == 1).length → exec (.cpgo d) s = .next s)) ∧
    (∀ (d : Reg) (a : Src), Full s a.reg → Free s d →
      (s.myOp (s.me.greg a.reg).val = none →
        exec (.cpstat d a) s = .next (ended .v (s.putG d 0)) ∧ exec (.cpabort d a) s = .next (ended .v (s.putG d 0))) ∧
      ∀ o, s.myOp (s.me.greg a.reg).val = some o →
        (o.written < 2 ^ 32 → o.st < 2 ^ 32 →
          exec (.cpstat d a) s = .next (ended .v (s.putG d (BitVec.ofNat 32 o.written ++ BitVec.ofNat 32 o.st)))) ∧
        (o.coll = none → o.st = 1 → exec (.cpabort d a) s =
          .next (ended .v (((s.modOp o.id fun x => { x with st := 3, status := 5, fail := 0 }).post (.copyCompletion o.id)).putG d 1))) ∧
        (o.coll = none → o.st = 2 → exec (.cpabort d a) s =
          .next (ended .v ((s.modOp o.id fun x => { x with st := 3, status := 5, fail := 0 }).putG d 1))) ∧
        (o.coll = none → o.st = 3 → exec (.cpabort d a) s = .next (ended .v (s.putG d 1))) ∧
        (∀ c, o.coll = some c →
          (o.st = 1 → exec (.cpabort d a) s = .next (ended .v ((((s.modOp o.id fun x =>
            { x with st := 3, status := 5, fail := 0 }).post (.copyCompletion o.id)).post (.collectiveAbort o.ctx c.grp c.op)).putG d 1))) ∧
          (o.st ≠ 1 → exec (.cpabort d a) s = .next (ended .v (s.putG d 1)))))

open Sys2Proof Sys2Proof.Machine Sys2Proof.Claims in
/-- R239: WAITANY answers the lowest tag of its mask that is set, 64 for an empty mask, and waits while none is; WAITALL answers
the tags of its mask with a status, once all are set; FFRDY answers the lowest set tag of its mask, or 64; TAGCLR clears tags;
TAGGET answers a status word. -/
def Sys2Proof.Claims.TagInstructions : Prop :=
  ∀ (s : State) (a : Src) (m : Word), Solo s → Full s a.reg → m = (s.me.greg a.reg).val →
    (∀ (d : Reg) (c : Bool), Free s d →
      (m = 0 → Gives (.waitany d a c) s d 64) ∧
      (∀ t : Nat, t < 64 → m.getLsbD t = true → s.me.tagrdy.getLsbD t = true →
        (∀ u, u < t → m.getLsbD u = false ∨ s.me.tagrdy.getLsbD u = false) →
        exec (.waitany d a c) s = .next (ended .s
          ((if c then s.modMe fun sl => sl.clearTags (1#64 <<< t) else s).putG d (BitVec.ofNat 64 t))) ∧
        Gives (.ffrdy d a) s d (BitVec.ofNat 64 t)) ∧
      (m ≠ 0 → s.me.tagrdy &&& m = 0 → exec (.waitany d a c) s = .next s) ∧
      (s.me.tagrdy &&& m = 0 → Gives (.ffrdy d a) s d 64) ∧
      (s.me.tagrdy &&& m = m → ∃ bad, (∀ t : BitVec 6, bad.getLsbD t.toNat =
          (m.getLsbD t.toNat && decide (s.me.tags[t.toNat].toNat % 256 ≠ 0))) ∧
        exec (.waitall d a c) s = .next (ended .s ((if c then s.modMe fun sl => sl.clearTags m else s).putG d bad))) ∧
      (s.me.tagrdy &&& m ≠ m → exec (.waitall d a c) s = .next s)) ∧
    (exec (.tagclr a) s = .next (ended .s (s.modMe fun sl => sl.clearTags m)) ∧
      (s.me.clearTags m).tagrdy = s.me.tagrdy &&& ~~~m ∧
      ∀ t : BitVec 6, (s.me.clearTags m).tags[t.toNat] = if m.getLsbD t.toNat then 0 else s.me.tags[t.toNat]) ∧
    (∀ (d : Reg) (t : BitVec 6), Free s d → Gives (.tagget d t) s d (s.me.tags[t.toNat].setWidth 64))

/-- The copy and tag instructions (R229 to R239): both parts hold. -/
def Obligations.CopiesAndTags : Prop := Sys2Proof.Claims.CopyInstructions ∧ Sys2Proof.Claims.TagInstructions

open Sys2Proof Sys2Proof.Machine Sys2Proof.Claims in
/-- R243, R244: a COLL function queues one operation on the collective engine of its group and answers its id: a malformed
descriptor completes it with status 1, a member of another die with status 3, a destination or a source that fails a check with
the status of that check; else its contribution waits for the others. While 16 operations of the member have not completed it
waits. -/
def Obligations.Collectives : Prop :=
  ∀ (s : State) (d : Reg) (a : Src) (va : Word) (u : State) (bs : List Byte), Clear s → Full s a.reg → Free s d →
    va = (s.me.greg a.reg).val → va.toNat % 64 = 0 → s.readRecord va 64 = .ok u bs →
    ∀ x ∈ collTable, ∀ (my e : Nat) (id : W32) (l : Option (List (Nat × Nat))) (c : CollInfo),
      my = recField bs 0x14 2 → e = 128 + taDie u.cur * 4 + my / 1024 % 4 →
      id = BitVec.ofNat 32 (2 ^ 31 + (e - 128) * 2 ^ 24 + (u.eng e).seq) → l = u.groupOf u.myCtx (my / 1024) →
      c = collOf x.2 bs u.time (Store.get 0 u.myCtx.collSeq my) →
      ∃ o : EngOp, o.id = id ∧ o.req = ⟨u.cur, u.me.uid⟩ ∧ o.ctx = u.me.ctx ∧ o.st = 1 ∧ o.status = 0 ∧ o.coll = some c ∧
        o.sink = recField bs 0x1B 1 % 4 ∧ o.tag = recField bs 0x1B 1 / 4 ∧
        (badColl x.2 bs l = true → exec (x.1 d a) s = .next (ended .v (((operated u e { o with st := 2, status := 1, coll := none }).post
          (.copyCompletion id)).putG d (id.setWidth 64)))) ∧
        (badColl x.2 bs l = false → 16 ≤ u.collOut u.me.ctx (my / 1024) (my % 1024) → exec (x.1 d a) s = .next u) ∧
        (badColl x.2 bs l = false → u.collOut u.me.ctx (my / 1024) (my % 1024) < 16 →
          (¬ hereIn u (l.getD []) (my % 1024) → exec (x.1 d a) s = .next (ended .v (((operated u e
            { o with st := 2, status := 3 }).post (.copyCompletion id)).putG d (id.setWidth 64)))) ∧
          (hereIn u (l.getD []) (my % 1024) →
            (∀ y st fva, u.collDest o c (l.getD []).length = (y, .error (st, fva)) →
              exec (x.1 d a) s = .next (ended .v (((operated (nextColl u y my) e
                { o with st := 2, status := st, fail := fva }).post (.copyCompletion id)).putG d (id.setWidth 64)))) ∧
            ∀ y c', u.collDest o c (l.getD []).length = (y, .ok c') →
              ∀ z r, y.collRead o c' (BitVec.ofNat 64 (recField bs 0 8)) = (z, r) →
              (∀ k, r = .ok k → exec (x.1 d a) s = .next (ended .v ((operated (nextColl u z my) e
                { o with coll := some k }).putG d (id.setWidth 64)))) ∧
              (∀ st fva, r = .error (st, fva) → exec (x.1 d a) s = .next (ended .v (((operated (nextColl u z my) e
                { o with st := 2, status := st, fail := fva }).post (.copyCompletion id)).putG d (id.setWidth 64))))))

namespace Sys2Proof.Claims

open Sys2Proof.Machine

/-! ## Strands (R246 to R268) -/

/-- The handle h names the end of strand x that is bound to the quad of the issuing slot (R246, R249, R250). -/
structure EndAt (s : State) (h : Word) (x : Strand) (sink : Bool) : Prop where
  kind : h.getLsbD 16 = sink
  ok : s.handleOk h = true ∧ s.handleHome h = true
  entry : s.strand? (strandKey s.me.ctx (h.toNat % 2 ^ 16)) = some x ∧ x.reuse = h.toNat / 2 ^ 17 % 2 ^ 15
  bound : (x.side sink).st = 0 ∧ (x.side sink).dev = 0 ∧ (x.side sink).quad = taQuad s.cur

/-- The status of what an end knows of its peer: 0 open, 4 closed, 2 frayed (R252). -/
def peerStatus (n : Nat) : Word := if n = 1 then 4 else if n = 2 then 2 else 0

/-- The strand after its source has sent one item (R254). -/
def sentOne (x : Strand) (carried : List (Nat × Word)) : Strand :=
  { x with nsend := x.nsend + 1, credits := x.credits - 1, ends := x.ends ++ carried }

/-- The item goes to the sink, an arrival of this device where the sink is here, and the instruction counts one send and
answers 0. -/
def sentItem (s : State) (x : Strand) (d : Reg) (item : VWord) (carried : List (Nat × Word)) : State :=
  (((if x.snk.dev = 0 then (s.putStrand (sentOne x carried)).post
      (.strandItemArrival x.ctx x.idx ⟨x.nsend, item, !carried.isEmpty, false⟩)
    else s.putStrand (sentOne x carried)).countMe 23 1).putG d 0)

/-- A ring: whole items, in the share of the task, in its own window (R253). -/
def RingAt (s : State) (va : Word) (size depth : Nat) (off : Nat) : Prop :=
  va.toNat % size = 0 ∧ va.toNat / 2 ^ 20 = 0x00FF0000000 ∧ off = va.toNat % 2 ^ 20 ∧
    ∃ key, s.protect s.cur va (depth * size) true = some (some key)

end Sys2Proof.Claims

open Sys2Proof Sys2Proof.Machine Sys2Proof.Claims in
/-- R253, R254, R257: SOPEN binds both ends of the lowest free entry to the task and answers their handles, or zeros; SSEND
answers the status of a peer that is gone, waits for a credit, or sends its item; SPASS sends an end, which leaves its quad. -/
def Sys2Proof.Claims.StrandSending : Prop :=
  ∀ (s : State) (d : Reg) (a : Src), Solo s → Full s a.reg → Free s d →
    (∀ (sz : BitVec 3) (l : BitVec 4) (off : Nat), Free s (d + 1) → taHnd s.cur = false →
      RingAt s (s.me.greg a.reg).val (8 * 2 ^ sz.toNat) (2 ^ l.toNat) off →
      (s.freeEntry s.me.ctx s.myCtx.strn = none → exec (.sopen d a sz l) s = .next (ended .v ((s.putG d 0).putG (d + 1) 0))) ∧
      ∀ j e x, s.freeEntry s.me.ctx s.myCtx.strn = some j →
        e = ({ quad := taQuad s.cur, owner := s.me.uid, ownerId := s.me.taskid } : StrandEnd) →
        x = ({ ctx := s.me.ctx, idx := j, reuse := s.freeReuse s.me.ctx j, s := sz.toNat, l := l.toNat, src := e, snk := e
               ringQuad := taQuad s.cur, ringOff := off, ringUid := s.me.uid, credits := 2 ^ l.toNat } : Strand) →
        exec (.sopen d a sz l) s = .next (ended .v (((s.putStrand x).putG d (x.handle s.myCtx.asid false)).putG (d + 1)
          (x.handle s.myCtx.asid true)))) ∧
    (∀ x, Clear s → EndAt s (s.me.greg a.reg).val x false →
      (∀ b : Src, Full s b.reg → x.s = 0 →
        (x.src.peer ≠ 0 → exec (.ssend d a (.g b)) s = .next (ended .v (s.putG d (peerStatus x.src.peer)))) ∧
        (x.src.peer = 0 → x.credits = 0 → exec (.ssend d a (.g b)) s = .next s) ∧
        (x.src.peer = 0 → x.credits ≠ 0 → exec (.ssend d a (.g b)) s =
          .next (ended .v (sentItem s x d ((s.me.greg b.reg).val.setWidth 2048) [])))) ∧
      (∀ v : VReg, s.me.vpois.getLsbD v.toNat = false → x.src.peer = 0 → x.credits ≠ 0 →
        exec (.ssend d a (.v v)) s = .next (ended .v
          (sentItem s x d (BitVec.ofNat 2048 ((s.me.v[v.toNat]'(v.isLt)).toNat % 2 ^ (8 * x.size))) []))) ∧
      (∀ (b : Src) (y : Strand) (sink : Bool) (h : Word), taHnd s.cur = false → Full s b.reg → h = (s.me.greg b.reg).val →
        EndAt s h y sink → x.key ≠ y.key → (sink = true → y.claims = []) →
        (x.src.peer ≠ 0 → exec (.spass d a b) s = .next (ended .v (s.putG d (peerStatus x.src.peer)))) ∧
        (x.src.peer = 0 → x.credits = 0 → exec (.spass d a b) s = .next s) ∧
        (x.src.peer = 0 → x.credits ≠ 0 → exec (.spass d a b) s =
          .next (ended .v ((sentItem s x d (h.setWidth 2048) [(x.nsend, h)]).depart y sink x.snk.dev)))))

open Sys2Proof Sys2Proof.Machine Sys2Proof.Claims in
/-- R255, R258, R263 to R266: SRECV claims the next item; SPOLL takes an item that is there, answers the status of a drained
strand whose peer is gone, or 1; SACCEPT binds an end in transit; SCLOSE closes an end; SSTAT answers the state of an end, 3
where there is none here, and of another device's strand what that device answers (log 16); SWATCH arms a tag, or fires it at once; SFLUSH waits until what was sent is delivered. -/
def Sys2Proof.Claims.StrandReceiving : Prop :=
  ∀ (s : State) (d : Reg) (a : Src) (h : Word), Solo s → Full s a.reg → Free s d → h = (s.me.greg a.reg).val →
    (∀ x (item : RecvItem) (c : Claim), EndAt s h x true → (item = .g → x.s = 0 ∧ Free s (d + 1)) →
      c = ⟨⟨s.cur, s.me.uid⟩, d, match item with | .g => none | .v v => some v, s.ctr⟩ →
      (s.me.sent = true → exec (.srecv d a item) s = .next (ended .v s)) ∧
      (s.me.sent = false → s.me.sending = true → exec (.srecv d a item) s = .next s) ∧
      (s.me.sent = false → s.me.sending = false → ∀ y, y = ((s.modMe fun sl => match item with
            | .g => (sl.pendG d).pendG (d + 1)
            | .v _ => { sl with sending := true }).putStrand { x with claims := x.claims ++ [c] }).serve x.key →
        exec (.srecv d a item) s = if y.me.sending then .next y else .next (ended .v y)) ∧
      (x.claims = [] → x.ntake < x.ndeliv → s.ringHeld x = false → ∀ t y, s.takeOne x c = (t, y) →
        exec (.spoll d a item) s = .next (ended .v ((t.putStrand y).serve y.key))) ∧
      (x.claims = [] → x.ndeliv ≤ x.ntake → x.nsend ≤ x.ntake → ∀ code, (x.snk.peer = 1 ∧ code = 4 ∨ x.snk.peer = 2 ∧ code = 2) →
        exec (.spoll d a item) s = .next (ended .v (s.modMe fun sl => match item with
          | .g => (sl.arriveG (d + 1) 0 false).arriveG d (BitVec.ofNat 64 code) false
          | .v _ => { sl.writeG d (BitVec.ofNat 64 code) with sending := false, sent := true }))) ∧
      ((x.claims ≠ [] ∨ (x.ndeliv ≤ x.ntake ∧ (x.ntake < x.nsend ∨ x.snk.peer = 0)) ∨ (s.ringHeld x = true ∧ x.ntake < x.nsend)) →
        exec (.spoll d a item) s = .next (ended .v (match item with | .g => (s.putG d 1).putG (d + 1) 0 | .v _ => s.putG d 1)))) ∧
    (∀ (b : Src) (x : Strand) (sink : Bool) (off : Nat), taHnd s.cur = false → Full s b.reg → h.getLsbD 16 = sink →
      s.handleOk h = true → s.strandOf s.me.ctx h = some x → x.idx < 65536 →
      (x.side sink).st = 1 → (x.side sink).holder = s.me.uid →
      (sink = true → RingAt s (s.me.greg b.reg).val (8 * 2 ^ x.s) (2 ^ x.l) off) → (sink = false → off = 0) →
      ((∃ m l, x.moves = m :: l ∧ m.sink = sink ∧ m.accepted = false) →
        exec (.saccept d a b) s = .next (ended .v ((s.bindEnd x sink off).putG d (peerStatus (x.side sink).peer)))) ∧
      (x.moves = [] → exec (.saccept d a b) s = .next s)) ∧
    (∀ x sink, EndAt s h x sink →
      (taHnd s.cur = false → exec (.sclose a) s = .next (ended .v (s.closeEnd x sink))) ∧
      (∀ t : BitVec 6, (x.side sink).peer = 0 → exec (.swatch a t) s = .next (ended .v (s.putStrand
        (x.setSide sink { x.side sink with watch := some (⟨s.cur, s.me.uid⟩, t) })))) ∧
      (∀ t : BitVec 6, (x.side sink).peer ≠ 0 → exec (.swatch a t) s = .next (ended .v ((s.putStrand
        (x.setSide sink { x.side sink with watch := none })).modTask ⟨s.cur, s.me.uid⟩
          fun sl => sl.deliverTag t 0 false false false false))) ∧
      (sink = false → x.snk.dev = 0 →
        (x.nsend ≤ x.ndeliv → exec (.sflush d a) s = .next (ended .v (s.putG d (peerStatus x.src.peer)))) ∧
        (x.ndeliv < x.nsend → exec (.sflush d a) s = .next s))) ∧
    (s.handleOk h = true →
      (s.strandOf s.me.ctx h = none →
        (s.handleHome h = true → exec (.sstat d a) s = .next (ended .v (s.putG d 3))) ∧
        (s.handleHome h = false → ∃ w, exec (.sstat d a) s = .next (ended .v (s.putG d w)))) ∧
      ∀ x, s.strandOf s.me.ctx h = some x → exec (.sstat d a) s =
        .next (ended .v (s.putG d (x.stat (h.getLsbD 16) (taQuad s.cur)))))

/-- The strand instructions (R253 to R258, R263 to R266): both parts hold. -/
def Obligations.StrandInstructions : Prop := Sys2Proof.Claims.StrandSending ∧ Sys2Proof.Claims.StrandReceiving

open Sys2Proof Sys2Proof.Machine Sys2Proof.Claims in
/-- R254 to R262: an item that arrives at a live sink waits its turn there; a credit raises the source's by one, up to the depth;
a request for a move queues it at the anchor; a stopper stops the move it ends; a route switch sends a stopper down the old
route; a fray tells the peer of an orphaned end. -/
def Obligations.StrandEvents : Prop :=
  ∀ (s : State) (ctx idx : Nat),
    (s.strand? (strandKey ctx idx) = none → ∀ i, ofStrand ctx idx i = true → exec i s = .next s) ∧
    ∀ x, s.strand? (strandKey ctx idx) = some x →
      (∀ it, x.src.dev = 0 → x.snk.dev = 0 → (x.side true).st < 2 → exec (.strandItemArrival ctx idx it) s =
        .next ((s.putStrand { x with arrived := x.arrived ++ [it] }).serve x.key)) ∧
      (x.snk.dev = 0 → exec (.strandCreditReturn ctx idx) s =
        .next (s.putStrand { x with credits := min (x.credits + 1) (2 ^ x.l) })) ∧
      (x.moves = [] → (x.side true).st < 2 → (x.side false).st < 2 → ∀ sink, (x.side sink).dev = 0 → exec (.strandMoveRequest ctx idx sink) s =
        .next (s.putStrand { x with moves := [{ sink := sink, accepted := false, stopped := false, old := (x.side sink).quad }] })) ∧
      (∀ m, x.moves = [m] → m.sink = false → m.stopped = false → x.stoppers = [false] →
        exec (.strandStopperArrival ctx idx) s = .next ((s.putStrand
          { x with stoppers := [], gates := x.gates.drop 1, moves := if m.accepted then [] else [{ m with stopped := true }] }).serve
            x.key)) ∧
      (exec (.strandRouteSwitch ctx idx) s = .next ((s.putStrand { x with stoppers := x.stoppers ++ [true] }).post
        (.strandStopperArrival ctx idx))) ∧
      (x.src.st = 2 → x.snk.st < 2 → x.snk.peer = 0 → x.key = strandKey ctx idx → exec (.strandFray ctx idx) s =
        .next (((s.fireWatch x.snk).putStrand { x with snk := { x.snk with peer := 2, watch := none } }).serve x.key))

namespace Sys2Proof.Claims

open Sys2Proof.Machine

/-! ## Settle (R280 to R305) -/

/-- A task names region k of its context by g(a), and its destination is ready (R280, R297). -/
structure SfReady (s : State) (a : Src) (d : Reg) (k : Nat) (r : Region) : Prop where
  task : taHnd s.cur = false
  src : Full s a.reg
  dst : Free s d
  named : (s.me.greg a.reg).val.toNat ≤ 15 ∧ k = regionKey s.me.ctx (s.me.greg a.reg).val.toNat ∧ s.region? k = some r

/-- The reply is on its way: g(d) is EMPTY and pending, and one SF instruction is counted (R298, R304). -/
def answered (s : State) (d : Reg) (v : Word) (pois : Bool) (smp : Option (Nat × Nat)) : State :=
  ((s.modMe fun sl => sl.pendG d).countMe 31 1).post (.sfReply ⟨s.cur, s.me.uid⟩ d v pois smp)

/-- What the functions with a reply share. Once the operand's places are found (state u) and no store is parked, a region held
by another task answers 5; else the task claims the region if it is free (state x) and the instruction ends in a state that Q
describes from the region as it was (r) and as it is claimed (r') (R286, R298, R300). -/
def SfDoes (i : Instr) (s : State) (a : Src) (d : Reg) (P : State → Region → Res (List (Place × Nat)))
    (Q : State → Nat → Region → Region → List (Place × Nat) → State → Prop) : Prop :=
  ∀ k r u ps, Solo s → SfReady s a d k r → P s r = .ok u ps → u.me = s.me → u.cur = s.cur → Quiet u → NoAmo u →
    (r.claim.uid ≠ 0 → r.claim.uid ≠ s.me.uid → exec i s = .next (ended .v (answered u d 5 false none))) ∧
    (r.claim.uid = 0 ∨ r.claim.uid = s.me.uid → ∀ x r', x = u.sfClaim k → x.region? k = some r' →
      ∃ t, exec i s = .next (ended .v t) ∧ Q x k r r' ps t)

/-- The operand is read: the bytes are those of its places, when none is poisoned (R298). -/
def ReadsAs (x : State) (ps : List (Place × Nat)) (y : State) (bs : List Byte) : Prop :=
  x.lowestPois ps = none ∧ ∃ l, x.opReadAll .normal ps false = (y, l) ∧ bs = l.map Prod.fst

/-- A poisoned operand: no effect, a deferred record, and POISON presence (R298). -/
def SfPoison (x : State) (ps : List (Place × Nat)) (d : Reg) (t : State) : Prop :=
  ∀ pa, x.lowestPois ps = some pa →
    t = answered (x.report ⟨1, 1, 0, 0, 0, 0, BitVec.ofNat 64 pa, BitVec.ofNat 64 x.cur, none, 0⟩) d 0 true none

end Sys2Proof.Claims

open Sys2Proof Sys2Proof.Machine Sys2Proof.Claims in
/-- R282, R283, R286, R291, R292, R302: SFCFG loads a good image and answers 0, or empties the region and answers 7; SFSCL sets
the exponents, clipped to -32 and 31; SFBIAS sets the biases of the used slots and leaves LOADED; SFSEED loads states from a
seed block or answers 10; each answers 5 in a run, and SFBIAS and SFSEED answer 6 where nothing is configured. -/
def Sys2Proof.Claims.SettleConfiguration : Prop :=
  ∀ (s : State) (d : Reg) (a b : Src), Full s b.reg →
    SfDoes (.sfcfg d a b) s a d (fun s r => State.imagePlaces (s.me.greg b.reg).val s r) (fun x k r _ ps t =>
      (r.state = 2 → t = answered x d 5 false none) ∧ (r.state ≠ 2 → SfPoison x ps d t) ∧
      (r.state ≠ 2 → ∀ y img r₂, ReadsAs x ps y img → y.region? k = some r₂ →
        ((badImage img r₂.count = true ∨ imgSig img ≠ BitVec.ofNat 64 (imgField img 0 8)) →
          t = answered (y.modRegion k fun r => { r with state := 0, image := [], bias := [], u := [], seed := 0 }) d 7 false none) ∧
        (badImage img r₂.count = false → imgSig img = BitVec.ofNat 64 (imgField img 0 8) →
          t = answered (y.modRegion k fun r =>
            { r with state := 1, image := img, sig := some (imgSig img), seed := 0
                     bias := List.replicate (16 * imgField img 8 2) 0, u := List.replicate (16 * imgField img 8 2) 0
                     hist := if r.sig = some (imgSig img) then r.hist else [] }) d 0 false none))) ∧
    (∀ e : BitVec 6, b.reg = 0 → SfDoes (.sfscl d a b e) s a d (fun s _ => .ok s []) (fun x k _ _ _ t =>
      t = answered (x.modRegion k fun q => { q with exps := List.replicate (16 * q.count) e.toInt }) d 0 false none)) ∧
    (∀ e : BitVec 6, b.reg ≠ 0 → SfDoes (.sfscl d a b e) s a d
      (fun s r => s.sfPlaces (s.me.greg b.reg).val (16 * r.count) 1 false) (fun x k _ r ps t => SfPoison x ps d t ∧
        ∀ y bs l, ReadsAs x ps y bs →
        l = (List.range (16 * r.count)).map (fun j => (bs.getD j 0).toInt) →
        t = answered (y.modRegion k fun q => { q with exps := l.map fun v => max (-32) (min 31 v) }) d
          (if l.any fun v => decide (v < -32) || decide (31 < v) then 0x100 else 0) false none)) ∧
    (∀ (i16 : Bool) (sc : BitVec 7), SfDoes (.sfbias d a b i16 sc) s a d
      (fun s r => s.sfPlaces (s.me.greg b.reg).val ((if i16 then 2 else 8) * r.n) (if i16 then 2 else 8) false)
      (fun x k r r' ps t =>
        (r.state = 2 → t = answered x d 5 false none) ∧ (r.state = 0 → t = answered x d 6 false none) ∧
        (r.state ≠ 2 → r.state ≠ 0 → SfPoison x ps d t) ∧
        (r.state ≠ 2 → r.state ≠ 0 → ∀ y bs l, ReadsAs x ps y bs →
          l = (List.range r'.n).map (fun j => if imgUsed r'.image j then
              clipCode (if i16 then asInt 16 (imgField bs (2 * j) 2) else (scaled (imgField bs (8 * j) 8) (sc.toInt + 13)).getD 0)
            else (intAt r'.bias j, false)) →
          t = answered (y.modRegion k fun q => { q with bias := l.map Prod.fst, state := 1 }) d
            (if l.any Prod.snd then 0x100 else 0) false none))) ∧
    SfDoes (.sfseed d a b) s a d (fun s r => State.seedPlaces (s.me.greg b.reg).val s r) (fun x k r r' ps t =>
      (r.state = 2 → t = answered x d 5 false none) ∧ (r.state = 0 → t = answered x d 6 false none) ∧
      (r.state ≠ 2 → r.state ≠ 0 → SfPoison x ps d t) ∧
      (r.state ≠ 2 → r.state ≠ 0 → ∀ y bs, ReadsAs x ps y bs →
        (badSeed bs = true → t = answered y d 10 false none) ∧
        (badSeed bs = false → ∀ l full, l = (List.range r'.n).map (fun j =>
            if imgUsed r'.image j then seedOf bs (imgVid r'.image j) (intAt r'.exps j) else (0, false, true)) →
          full = (r'.sig == some (BitVec.ofNat 64 (imgField bs 0 8)) && l.all fun v => v.2.2) →
          t = answered (y.modRegion k fun q => { q with u := l.map (fun v => 100 * v.1), clip := l.any fun v => v.2.1
                                                        seed := if full then 1 else 2, state := 1 }) d
            (sfWord (if full then 0 else 8) (l.any fun v => v.2.1)) false none)))

open Sys2Proof Sys2Proof.Machine Sys2Proof.Claims in
/-- R286 to R288, R293, R294, R299 to R303: SFRUN starts a run, which saturates at once where it starts beyond a limit; SFWAIT answers the state of the region once it is not RUNNING, or
raises SATURATED or TIMEOUT; SFSMP samples; SFHALT halts a run and answers the state; SFSTAT reads; SFDLN arms the deadline;
SFACPT takes a vector into the history, unused integrators' elements as +0, and retires once its reply has arrived; SFREL ends
the claim. -/
def Sys2Proof.Claims.SettleRuns : Prop :=
  ∀ (s : State) (d : Reg) (a : Src),
    SfDoes (.sfrun d a) s a d (fun s _ => .ok s []) (fun x k r r' _ t =>
      (r.state = 2 → t = answered x d 5 false none) ∧ (r.state = 0 → t = answered x d 6 false none) ∧
      (r.state ≠ 2 → r.state ≠ 0 → ∀ y, y = (x.modRegion k fun q =>
          { q with state := 2, start := x.time, runs := q.runs + 1 }) →
        (∀ b i, r'.crossed r'.u = some (b, i) → t = answered (y.modRegion k fun q =>
          { q with state := 4, u := q.u.map (fun v => max (-870400) (min 870400 v)), sblk := b, sunit := i }) d 0 false none) ∧
        (r'.crossed r'.u = none → ∃ u v, t = answered (((y.post (.settleCertify (k / 16) (k % 16) u)).post
            (.settleSaturation (k / 16) (k % 16) v)).post (.settleTimeout (k / 16) (k % 16) u)) d 0 false none ∧
          r'.crossed u = none ∧ v.length = 16 * r'.nblk))) ∧
    SfDoes (.sfhalt d a) s a d (fun s _ => .ok s []) (fun x k _ r' _ t =>
      t = answered (x.haltRegion (k / 16) (k % 16)) d (BitVec.ofNat 64 (sfStatus (if r'.state = 2 then 6 else r'.state))) false none) ∧
    SfDoes (.sfrel d a) s a d (fun s _ => .ok s []) (fun x k _ _ _ t =>
      t = answered (x.endClaim (k / 16) (k % 16)) d 0 false none) ∧
    (∀ b c : Src, FullAll s [b, c] → SfDoes (.sfdln d a b c) s a d
      (fun s r => s.sfPlaces (s.me.greg c.reg).val (8 * r.n) 8 true) (fun x k _ _ _ t =>
        t = answered (x.modMe fun sl => { sl with dline := x.g b.reg, dlb := true, dlreg := BitVec.ofNat 4 k
                                                  dlbuf := x.g c.reg }) d 0 false none)) ∧
    (∀ (b : Src) (fp32 : Bool), Full s b.reg → SfDoes (.sfsmp d a b fp32) s a d
      (fun s r => s.sfPlaces (s.me.greg b.reg).val ((if fp32 then 4 else 8) * r.n) (if fp32 then 4 else 8) true)
      (fun x k r r' _ t => (r.state = 0 → t = answered x d 6 false none) ∧
        (r.state ≠ 0 → ∃ y u clip, u = (if r'.state = 2 then x.freeU r' else r'.u) ∧ clip = r'.clips u ∧ y.slots = x.slots ∧
          t = answered y d (sfWord (sfStatus r'.state) clip) false (some (k, r'.runs))))) ∧
    (∀ k r, Solo s → SfReady s a d k r → Quiet s → NoAmo s →
      exec (.sfstat d a) s = .next (ended .v (answered s d (r.stat s.me.uid) false none)) ∧
      (s.sfOut s.me.uid = false → ∀ tr : Bool,
        (r.claim.uid ≠ 0 → r.claim.uid ≠ s.me.uid → exec (.sfwait d a tr) s = .next (ended .v ((s.countMe 31 1).putG d 5))) ∧
        (r.claim.uid = 0 ∨ r.claim.uid = s.me.uid →
          (r.state = 2 → exec (.sfwait d a tr) s = .next (s.sfClaim k)) ∧
          (r.state ≠ 2 → (tr = true → r.state ≠ 4 ∧ r.state ≠ 5) → exec (.sfwait d a tr) s =
            .next (ended .v (((s.sfClaim k).countMe 31 1).putG d (BitVec.ofNat 64 (sfStatus r.state))))) ∧
          (tr = true → r.state = 4 ∨ r.state = 5 → ∃ t, exec (.sfwait d a tr) s = .next t ∧
            ∃ p : Packet, t.me = { (s.sfClaim k).me with st := .frozen, pkt := p } ∧
              p.fcode = (if r.state = 4 then 0x0A else 0x0B) ∧ p.faddr = (s.me.greg a.reg).val)))) ∧
    (∀ b : Src, Solo s → s.me.barSent = true →
      (s.sfOut s.me.uid = false → exec (.sfacpt d a b) s = .next (ended .v s)) ∧
      (s.sfOut s.me.uid = true → exec (.sfacpt d a b) s = .next s)) ∧
    (∀ (b : Src) k r u ps, Solo s → Full s b.reg → SfReady s a d k r → s.me.barSent = false →
      s.sfPlaces (s.me.greg b.reg).val (8 * r.n) 8 false = .ok u ps → u.me = s.me → u.cur = s.cur → Quiet u → NoAmo u →
      u.sfOut s.me.uid = false →
      ∃ t, exec (.sfacpt d a b) s = .next (t.modMe fun sl => { sl with barSent := true }) ∧
        (r.claim.uid ≠ 0 → r.claim.uid ≠ s.me.uid → t = answered u d 5 false none) ∧
        (r.claim.uid = 0 ∨ r.claim.uid = s.me.uid → ∀ x, x = u.sfClaim k →
          (r.state = 0 → t = answered x d 6 false none) ∧ (r.state ≠ 0 → SfPoison x ps d t) ∧
          (r.state ≠ 0 → ∀ y bs, ReadsAs x ps y bs → t = answered (y.modRegion k fun q =>
            { q with hist := ((List.range r.n).map fun j => if imgUsed r.image j then BitVec.ofNat 64 (imgField bs (8 * j) 8) else 0) ::
                q.hist.take 1 }) d 0 false none)))

/-- The settle instructions (R282 to R303): both parts hold. -/
def Obligations.SettleInstructions : Prop := Sys2Proof.Claims.SettleConfiguration ∧ Sys2Proof.Claims.SettleRuns

open Sys2Proof Sys2Proof.Machine Sys2Proof.Claims in
/-- R287, R288, R294, R298, R301, R304, R305: a reply sets g(d); a run saturates with its states clamped, is certified, or times
out; lost configuration memory poisons the samples under way and halts the region; a deadline that TIME has reached fires and
then diverts its task to DLFB, or raises DEADLINE. -/
def Obligations.SettleEvents : Prop :=
  ∀ s : State,
    (∀ (t : Target) (d : Reg) (v : Word) (p : Bool), (s.slot t.ta).uid = t.uid → t.uid ≠ 0 → (∀ x ∈ s.agreed, x.1 ≠ t.uid) →
      exec (.sfReply t d v p none) s = .next (s.modSlot t.ta fun sl =>
        sl.setG d (if p then ⟨(sl.greg d).val, .poison, false⟩ else ⟨v, .full, false⟩))) ∧
    (∀ (c g : Nat) (r : Region), s.region? (regionKey c g) = some r →
      (∀ u : List Int, r.state = 2 → ∀ b i, r.crossed u = some (b, i) → exec (.settleSaturation c g u) s =
        .next ((s.endRun c g (u.map fun x => max (-870400) (min 870400 x)) 4).modRegion (regionKey c g)
          fun r => { r with sblk := b, sunit := i })) ∧
      (∀ u : List Int, r.state = 2 → r.start + imgTau r.image * imgHold r.image ≤ s.time →
        s.time ≤ r.start + imgTau r.image * imgTmo r.image → r.certifies u = true → r.crossed u = none →
        exec (.settleCertify c g u) s = .next (s.endRun c g u 3)) ∧
      (∀ u : List Int, r.state = 2 →
        exec (.settleTimeout c g u) s = .next (s.endRun c g (r.within (u.map fun x => max (-870400) (min 870400 x))) 5)) ∧
      (∀ u : List Int, r.state ≠ 2 → exec (.settleSaturation c g u) s = .next s ∧ exec (.settleCertify c g u) s = .next s ∧
        exec (.settleTimeout c g u) s = .next s) ∧
      (∀ b, r.smps = [] → exec (.settleConfigError c g b) s = .next
        (((if r.state = 2 then s.endRun c g (s.freeU r) 6 else s).modRegion (regionKey c g) fun r => { r with smps := [] }).report
          ⟨2, 10, 11, (r.first + b) % 64, r.die, 0, BitVec.ofNat 64 (regionKey c g), 0, none, 0⟩))) ∧
    (∀ ta, ta < 65536 → (s.slot ta).uid ≠ 0 → (∀ x ∈ s.agreed, x.1 ≠ (s.slot ta).uid) → (s.slot ta).dlb = false →
      ((s.slot ta).dline = 0 ∨ s.time < (s.slot ta).dline.toNat → exec (.deadlineFire ta) s = .next s) ∧
      ((s.slot ta).dline ≠ 0 → (s.slot ta).dline.toNat ≤ s.time → exec (.deadlineFire ta) s = .next (s.modSlot ta fun sl =>
        { sl with faddr := sl.dline, dlval := sl.dline, dline := 0, fcode := 0x0C, dlpend := true }))) ∧
    (∀ ta u, u = s.leaveWait ta → (s.slot ta).dlpend = true →
      ((s.slot ta).dlfb ≠ 0 → exec (.deadlineDiversion ta) s = .next ((u.modSlot ta fun sl =>
        { sl with dlpend := false, fcode := 0x0C, faddr := sl.dlval }).modSlot ta
          fun sl => { sl with pc := sl.dlfb, sptBad := none })) ∧
      ((s.slot ta).dlfb = 0 → exec (.deadlineDiversion ta) s = .next ((u.modSlot ta fun sl =>
        { sl with dlpend := false, fcode := 0x0C, faddr := sl.dlval }).raise ta 0x0C (s.slot ta).dlval)))

namespace Sys2Proof.Claims

open Sys2Proof.Machine

/-! ## Splices, system instructions and counters (R25 to R28, R58, R270 to R276, R342, R343, R354 to R357) -/

/-- The special registers as RDSR reads them, in the order of their indexes (R25). -/
def readable (s : State) : List Word :=
  [s.me.taskid, s.me.tcoord, s.me.arg, s.me.ctxid, s.me.self, BitVec.ofNat 64 s.time, BitVec.ofNat 64 s.me.budget, s.me.fpctl,
    s.me.tagrdy, s.me.ggeo0, s.me.ggeo1, s.me.spt, s.me.fcont, s.me.fcode, s.me.faddr, s.me.dline, s.me.dlfb,
    BitVec.ofNat 64 s.me.stq, BitVec.ofNat 64 (s.myRpq s.cur).length, s.me.graph, s.me.capl, s.me.pairst]

/-- An instruction of an extended form (R45). -/
def Extended (i : Instr) : Prop := ∃ x, i.enc = some (.ext x)

/-- The entry by which a splice word of the slot expands: the one its word was fetched under, else that of the slot's table. -/
def entryOf (s : State) (idx : BitVec 7) (w : W32) : Option (BitVec 128) :=
  match s.me.fbuf.head? with
  | some f => if f.pc = s.me.pc && f.words == [w] then f.entry else s.me.tableEntry (taHnd s.cur) idx
  | none => s.me.tableEntry (taHnd s.cur) idx

/-- The words that a slot has decoded, under a new table: the instruction itself as it was, and each behind it with its old entry
or the one that its splice word has in the new table (R276). -/
def Redecoded (sl : Slot) (t : Word) (copy : Vector (BitVec 128) 128) (fb : List FbEntry) : Prop :=
  fb.length = sl.fbuf.length ∧ ∀ (j : Nat) (f : FbEntry), sl.fbuf[j]? = some f → ∃ g, fb[j]? = some g ∧
    g.pc = f.pc ∧ g.words = f.words ∧ (j = 0 → g = f) ∧
    (g.entry = f.entry ∨ g.entry = ({ sl with splc := copy, spt := t } : Slot).entryFor false f.words)

end Sys2Proof.Claims

open Sys2Proof Sys2Proof.Machine Sys2Proof.Claims in
/-- R58, R270 to R275: SPLLOAD loads the slot's table, or clears it; SPLGET reads an entry, zeros with no table; a splice word is the extended
instruction that its entry and holes make; with no table or an entry of another form it raises SPLICE, and where the expansion
is no instruction, ILLEGAL; a word that is no instruction raises ILLEGAL. -/
def Obligations.Splices : Prop :=
  ∀ s : State,
    (Solo s → ∀ a : Src, taHnd s.cur = false → Full s a.reg →
      ((s.me.greg a.reg).val = 0 → ∃ fb, Redecoded s.me 0 (Vector.replicate 128 0) fb ∧ exec (.splload a) s =
        .next (ended .s (s.modMe fun sl => { sl with splc := Vector.replicate 128 0, spt := 0, fbuf := fb }))) ∧
      ∀ u bs t, t = (s.me.greg a.reg).val → t ≠ 0 → s.readTable t = .ok u bs →
        ∃ fb, Redecoded u.me t (splcOf bs) fb ∧ exec (.splload a) s =
          .next (ended .s (u.modMe fun sl => { sl with splc := splcOf bs, spt := t, fbuf := fb }).useCopy)) ∧
    (Solo s → ∀ (d : Reg) (a : Src) (i : BitVec 7) (e : BitVec 128), Full s a.reg → Free s d → Free s (d + 1) →
      i = (s.me.greg a.reg).val.setWidth 7 → e = (if s.me.spt = 0 then 0 else s.me.splc[i.toNat]) →
      exec (.splget d a) s = .next (ended .s ((s.putG d (e.setWidth 64)).putG (d + 1) (e.extractLsb' 64 64)))) ∧
    (∀ (idx : BitVec 7) (ha hb hc : BitVec 6) (hd : BitVec 5) (w : W32), w = hd ++ hc ++ hb ++ ha ++ idx ++ (1 : BitVec 2) →
      (∀ e w0 w1 w2 i, entryOf s idx w = some e → e.toNat % 4 = 2 → expandSplice e ha hb hc hd = some [w0, w1, w2] →
        decodeExt w0 w1 w2 none = .ok i → exec (.spliceWord idx ha hb hc hd) s =
          exec i (s.useCopy.modMe fun sl => { sl with words := [w0, w1, w2], ilen := 4, spl := true })) ∧
      (taHnd s.cur = false →
        (entryOf s idx w = none → ∃ t p, exec (.spliceWord idx ha hb hc hd) s = .next t ∧ t.me.st = .frozen ∧ t.me.pkt = p ∧
          p.fcode = 0x02 ∧ p.faddr = idx.setWidth 64 ∧ p.splw = true ∧ p.inspl = false) ∧
        (∀ e, entryOf s idx w = some e → e.toNat % 4 ≠ 2 → ∃ t p, exec (.spliceWord idx ha hb hc hd) s = .next t ∧
          t.me.st = .frozen ∧ t.me.pkt = p ∧ p.fcode = 0x02 ∧ p.faddr = idx.setWidth 64 ∧ p.splw = true ∧ p.inspl = false) ∧
        (∀ e, entryOf s idx w = some e → e.toNat % 4 = 2 → expandSplice e ha hb hc hd = none →
          ∃ t p, exec (.spliceWord idx ha hb hc hd) s = .next t ∧ t.me.st = .frozen ∧ t.me.pkt = p ∧ p.fcode = 0x01 ∧
            p.faddr = s.me.pc ∧ p.splw = true ∧ p.inspl = true))) ∧
    (taHnd s.cur = false → ∃ t, exec .illegalWord s = .next t ∧ Faulted s t 0x01 s.me.pc)

open Sys2Proof Sys2Proof.Machine Sys2Proof.Claims in
/-- R25 to R27, R342: TRAP raises its code with imm32 as FADDR; RDSR writes the special register of its index, TIME as an
arrival; WRSR writes FPCTL when its DRM is a mode, GGEO0, GGEO1, FCONT, DLINE and DLFB; any other register raises PROTECT, an
index from 22 up and a bad FPCTL raise ILLEGAL. -/
def Obligations.SpecialRegisters : Prop :=
  ∀ s : State, Solo s →
    (taHnd s.cur = false → ∀ imm : W32, ∃ t, exec (.trap imm) s = .next t ∧ Faulted s t 0x12 (imm.setWidth 64)) ∧
    (∀ (d : Reg) (i : BitVec 6) (v : Word), Free s d → (readable s)[i.toNat]? = some v →
      (i ≠ 5 → Gives (.rdsr d i) s d v) ∧
      (i = 5 → d ≠ 0 → exec (.rdsr d i) s =
        .next (ended .s ((s.modMe fun sl => sl.pendG d).post (.loadDataArrival ⟨s.cur, s.me.uid⟩ d v false))))) ∧
    (∀ (i : BitVec 6) (a : Src) (v : Word), Full s a.reg → v = (s.me.greg a.reg).val →
      (i = 7 → v.toNat % 8 ≤ 5 → exec (.wrsr i a) s = .next (ended .s (s.modMe fun sl => { sl with fpctl := v &&& 0x3F0F }))) ∧
      (i = 9 → exec (.wrsr i a) s = .next (ended .s (s.modMe fun sl => { sl with ggeo0 := v }))) ∧
      (i = 10 → exec (.wrsr i a) s = .next (ended .s (s.modMe fun sl => { sl with ggeo1 := v }))) ∧
      (i = 12 → exec (.wrsr i a) s = .next (ended .s (s.modMe fun sl => { sl with fcont := v }))) ∧
      (i = 15 → exec (.wrsr i a) s = .next (ended .s (s.modMe fun sl => { sl with dline := v }))) ∧
      (i = 16 → exec (.wrsr i a) s = .next (ended .s (s.modMe fun sl => { sl with dlfb := v }))) ∧
      (taHnd s.cur = false → i.toNat < 22 → i.toNat ∉ [7, 9, 10, 12, 15, 16] →
        ∃ t, exec (.wrsr i a) s = .next t ∧ Faulted s t 0x07 (i.setWidth 64)) ∧
      (taHnd s.cur = false → i = 7 → 5 < v.toNat % 8 → ∃ t, exec (.wrsr i a) s = .next t ∧ Faulted s t 0x01 s.me.pc)) ∧
    (taHnd s.cur = false → ∀ (d : Reg) (i : BitVec 6) (a : Src), 22 ≤ i.toNat →
      (∃ t, exec (.rdsr d i) s = .next t ∧ Faulted s t 0x01 s.me.pc) ∧
      ∃ t, exec (.wrsr i a) s = .next t ∧ Faulted s t 0x01 s.me.pc)

open Sys2Proof Sys2Proof.Machine Sys2Proof.Claims in
/-- R28, R343: PAIR answers 2 in a pair and 1 where the partner slot is occupied, else the task runs as a pair from the slot on
the lower-numbered core; UNPAIR answers 2 outside a pair, else an exchange is forced and the pair's other half is emptied. -/
def Obligations.LashedPairs : Prop :=
  ∀ (s : State) (d : Reg), taHnd s.cur = false → Free s d →
    (Solo s → exec (.unpair d) s = .next (ended .s (s.putG d 2))) ∧
    (Clear s → s.me.stq = 0 →
      (s.idle (partnerOf s.cur) = false → exec (.pair d) s = .next (ended .s (s.putG d 1))) ∧
      (s.idle (partnerOf s.cur) = true → taCore s.cur % 2 = 0 → ∀ x, x = (((s.putG d 0).modMe fun sl =>
          { sl with pairst := pairstOf s.cur, retired := 0, heldSt := [] }).setSlot (partnerOf s.cur)
            { st := .running, partner := some s.cur }) →
        exec (.pair d) s = .next (ended .s { x with agreed := Store.set x.agreed x.me.uid { x.me with pc := x.nextPc } })) ∧
      (s.idle (partnerOf s.cur) = true → taCore s.cur % 2 = 1 → ∀ u x,
        u = ({ s.moveTask s.cur (partnerOf s.cur) with cur := partnerOf s.cur } : State) →
        x = (((u.putG d 0).modMe fun sl => { sl with pairst := pairstOf (partnerOf s.cur), retired := 0, heldSt := [] }).setSlot
          (partnerOf (partnerOf s.cur)) { st := .running, partner := some (partnerOf s.cur) }) →
        exec (.pair d) s = .next (ended .s { x with agreed := Store.set x.agreed x.me.uid { x.me with pc := x.nextPc } }))) ∧
    (s.me.paired = true → ∀ u, u = s.exchange s.cur → u.me.paired = true → Free u d → Quiet u → NoAmo u → u.me.stq = 0 →
      exec (.pair d) s = .next (ended .s (u.putG d 2)) ∧
      exec (.unpair d) s = .next (ended .s { ((u.setSlot (partnerOf u.cur) {}).putG d 0).modMe fun sl =>
        { sl with pairst := 0, retired := 0 } with agreed := u.agreed.filter fun p => p.1 != u.me.uid }))

open Sys2Proof Sys2Proof.Machine Sys2Proof.Claims in
/-- R352, R354 to R357: PMCFG answers 2 for a bad configuration, 1 for a counter held by another, else it starts the counter at 0
for the context, or releases it, and answers 0; PMRD answers the count of a counter that the context holds, else 0; MARK puts
its record in the trace of a traced context. -/
def Obligations.CountersAndMarks : Prop :=
  ∀ s : State, Solo s →
    (∀ (d : Reg) (n : BitVec 2) (a : Src) (w : Word) (c : State) (k : PmCounter), Full s a.reg → Free s d →
      w = (s.me.greg a.reg).val → c = s.countIssue .s → k = (c.core s.myCore).pmc.getD n.toNat {} →
      ∃ x, exec (.pmcfg d n a) s = .next (x.retireTo s.nextPc) ∧
        (w.toNat / 2 ^ 10 ≠ 0 ∨ w.toNat / 2 ^ 6 % 4 ≠ 0 ∨ 32 ≤ w.toNat % 64 → x = c.putG d 2) ∧
        (w.toNat / 2 ^ 10 = 0 → w.toNat / 2 ^ 6 % 4 = 0 → w.toNat % 64 < 32 →
          (k.replay = true ∨ (k.cfg.getLsbD 9 = true ∧ k.ctx ≠ some s.me.ctx) → x = c.putG d 1) ∧
          (k.replay = false → k.cfg.getLsbD 9 = false ∨ k.ctx = some s.me.ctx →
            (w.getLsbD 9 = true → x = (c.modCore s.myCore fun q => q.modPmc n.toNat fun _ =>
              { cfg := w, count := 0, ctx := some s.me.ctx, uid := s.me.uid, since := c.ctr }).putG d 0) ∧
            (w.getLsbD 9 = false → x = (c.modCore s.myCore fun q => q.modPmc n.toNat fun _ => {}).putG d 0)))) ∧
    (∀ (d : Reg) (n : BitVec 2) (k : PmCounter), s.me.anyPending = false → k = (s.core s.myCore).pmc.getD n.toNat {} →
      (k.cfg.getLsbD 9 = true → k.replay = false → k.ctx = some s.me.ctx → Gives (.pmrd d n) s d (BitVec.ofNat 64 k.count)) ∧
      (k.cfg.getLsbD 9 = false ∨ k.ctx ≠ some s.me.ctx → Gives (.pmrd d n) s d 0)) ∧
    (∀ (a : Src) (imm : W32), Full s a.reg →
      (s.trace.en = true → s.trace.mask.getLsbD s.me.ctx = true → exec (.mark a imm) s = .next (ended .s (s.post
        (.traceRecord ⟨5, s.me.ctx, 0, imm, BitVec.ofNat 64 s.cur, (s.me.greg a.reg).val⟩ s.time)))) ∧
      (s.trace.en = false ∨ s.trace.mask.getLsbD s.me.ctx = false → exec (.mark a imm) s = .next (ended .s s)))

namespace Sys2Proof.Claims

open Sys2Proof.Machine

/-! ## Arrivals and other events of the memory system (R22, R23, R34, R105, R176, R181, R322) -/

/-- The task or activation with the target's number is in the target's slot, and not among the lashed pairs. -/
def InSlot (s : State) (t : Target) : Prop := (s.slot t.ta).uid = t.uid ∧ t.uid ≠ 0 ∧ ∀ x ∈ s.agreed, x.1 ≠ t.uid

/-- Messages without their places in the queue. -/
def unplaced (l : List RxMsg) : List RxMsg := l.map fun m => { m with pos := 0 }

/-- No task or activation with the target's number is left (R34). -/
def Gone (s : State) (t : Target) : Prop :=
  (s.slot t.ta).uid ≠ t.uid ∧ (∀ x ∈ s.slots, x.2.uid ≠ t.uid) ∧ (∀ x ∈ s.parked, x.2.uid ≠ t.uid) ∧ ∀ x ∈ s.agreed, x.1 ≠ t.uid

/-- A parked store that is next among its slot's on its pages, and whose bytes are not of QLM saved with its task (R105; log 20). -/
def NextParked (s : State) (core no : Nat) (e : RpqEntry) : Prop :=
  (s.core core).rpq.find? (fun x => x.no == no) = some e ∧ e.no = no ∧ e.st = .parked ∧ e.behind = true ∧
    ((s.slot e.ta).uid = e.uid ∨ ∀ l ∈ e.lanes, inQlmBlock l.1 = false) ∧
    ∀ x ∈ (s.core core).rpq, x.uid = e.uid → x.seq < e.seq → x.st ≠ .abandoned → ∀ p ∈ x.pages, p ∉ e.pages

/-- What an arrival of a rank does to a barrier slot (R181). -/
def arrived (b : BarSlot) (rank : Nat) (phase : Bool) : BarSlot :=
  if b.pois then b
  else if b.memb.getLsbD rank = false ∨ b.arr.getLsbD rank = true ∨ phase ≠ b.ph then
    { b with pois := true, cause := 1, waits := releaseAll 1 b.waits }
  else if b.arr ||| (1#128 <<< rank) = b.memb ∧ b.ackx ≤ b.ackn then
    { b with arr := 0, ackn := b.ackn - b.ackx, ackx := 0, ph := !b.ph, waits := releaseAll 0 b.waits }
  else { b with arr := b.arr ||| (1#128 <<< rank) }

/-- What an engine's acknowledgement does to a barrier slot (R181). -/
def acked (b : BarSlot) : BarSlot :=
  if b.pois then b
  else if b.ackn = 65535 then { b with pois := true, cause := 1, waits := releaseAll 1 b.waits }
  else if b.arr = b.memb ∧ b.ackx ≤ b.ackn + 1 then
    { b with arr := 0, ackn := b.ackn + 1 - b.ackx, ackx := 0, ph := !b.ph, waits := releaseAll 0 b.waits }
  else { b with ackn := b.ackn + 1 }

end Sys2Proof.Claims

open Sys2Proof Sys2Proof.Machine Sys2Proof.Claims in
/-- R22, R34, R101, R104, R105, R176, R181, R322: data arrive and set their register; an acknowledgement takes one from STQ; for
a task that has ended they are discarded; a remote write lands in an EMPTY register, waits in the queue of the core, or is
dropped where the context has no task there, unless a quiesce has saved one (log 18); a parked store is translated again, and performed or reported; a deferred push
acts as EPUSH once the edge has room; arrivals and acknowledgements reach a barrier slot; a walk fills the TLB, here of die 0. -/
def Obligations.Arrivals : Prop :=
  ∀ s : State,
    (∀ t : Target, InSlot s t →
      (∀ (d : Reg) (v : Word), exec (.loadDataArrival t d v false) s =
        .next (s.modSlot t.ta fun sl => sl.setG d ⟨v, .full, false⟩)) ∧
      (∀ (d : Reg) (v : Word), exec (.loadDataArrival t d v true) s =
        .next (s.modSlot t.ta fun sl => sl.setG d ⟨(sl.greg d).val, .poison, false⟩)) ∧
      exec (.storeAck t) s = .next (s.modSlot t.ta fun sl => { sl with stq := sl.stq - 1 })) ∧
    (∀ t : Target, Gone s t → (∀ d v p, exec (.loadDataArrival t d v p) s = .next s) ∧ exec (.storeAck t) s = .next s) ∧
    (∀ w : RemWrite, (s.core (taCore w.ta)).held = [] → ∀ r x, r = 32 + w.reg.setWidth 6 → x = (s.slot w.ta).greg r →
      ((s.slot w.ta).st = .idle ∨ (s.slot w.ta).ctx ≠ w.ctx →
        (s.savedMail (msgOf w) = none → exec (.remoteWriteArrival w) s = .next (s.drop w.ctx)) ∧
        ∀ u (sl : Slot), s.savedMail (msgOf w) = some u → sl = Store.get {} s.parked u → sl.mailReady w.reg = true →
          exec (.remoteWriteArrival w) s =
            .next { s with parked := Store.set s.parked u (sl.landMail w.reg w.value w.pois) }) ∧
      ((s.slot w.ta).st ≠ .idle → (s.slot w.ta).ctx = w.ctx → (s.slot w.ta).takes = [] →
        (x.pres = .empty → x.pend = false → w.pois = false → exec (.remoteWriteArrival w) s =
          .next (s.modSlot w.ta fun sl => sl.setG r ⟨w.value, .full, false⟩)) ∧
        (x.pres = .empty → x.pend = false → w.pois = true → exec (.remoteWriteArrival w) s =
          .next (s.modSlot w.ta fun sl => sl.setG r ⟨(sl.greg r).val, .poison, false⟩)) ∧
        (x.pres ≠ .empty ∨ x.pend = true → (s.core (taCore w.ta)).rxFits (msgOf w) = true →
          ∃ t, exec (.remoteWriteArrival w) s = .next t ∧ t.slot w.ta = s.slot w.ta ∧
            unplaced (t.core (taCore w.ta)).rxq =
              unplaced ((s.core (taCore w.ta)).rxq ++ [{ msgOf w with uid := (s.slot w.ta).uid }])))) ∧
    (∀ core no e c, NextParked s core no e → s.ctx e.ctx = some c →
      (∀ u a, ({ s with cur := e.ta } : State).placeAll c .w true (e.lanes.map fun l => (l.1, l.2.length)) = (u, .error a) →
        ∃ p, exec (.parkedStoreRetranslate core no) s = .next (((({ u with cur := s.cur } : State).uncountNew s core e.at_).modCore core
          fun k => { k with rpq := k.rpq.map fun x => if x.no = e.no then { e with fva := a, behind := false, st := .parked } else x }).post
            (.faultService p)) ∧ p.fcode = 6 ∧ p.faddr = a) ∧
      (∀ u ps, ({ s with cur := e.ta } : State).placeAll c .w true (e.lanes.map fun l => (l.1, l.2.length)) = (u, .ok ps) →
        (∀ p ∈ ps, p.1.view = none) → (∀ x ∈ (u.core core).rpq, x.no ≠ e.no → x.st ≠ .parked ∨ x.behind = false) →
        exec (.parkedStoreRetranslate core no) s =
          .next ((({ (u.modCore core fun k => { k with rpq := k.rpq.filter fun x => x.no != e.no }).writeAll e.hint
            (ps.zip (e.lanes.map Prod.snd)) with cur := s.cur } : State).uncountNew s core e.at_).post (.storeAck ⟨e.ta, e.uid⟩)))) ∧
    (∀ (p : EdgePush) (u : State) (key : Nat) (e : Edge), p.edge.toNat % 64 = 0 →
      s.edgePlace none p.ctx p.edge 64 = (u, .ok key) → u.edgeAt key = .ok e → p.token = false →
      (e.err = true → exec (.edgeDeferredPush p) s = .next u) ∧
      (e.err = false → e.free = 0 → exec (.edgeDeferredPush p) s = .next (u.post (.edgeDeferredPush p))) ∧
      ∀ x item e', e.err = false → e.free ≠ 0 →
        u.edgePlace none p.ctx (e.base + BitVec.ofNat 64 (8 * e.tail)) 8 .w = (x, .ok item) →
        e' = { e with tail := (e.tail + 1) % e.cap, free := e.free - 1, fill := e.fill + 1 } →
        (e.fill ≠ 0 ∨ e.run = true ∨ e.cons = 0 → exec (.edgeDeferredPush p) s =
          .next ((x.putBytes item (toBytes 8 p.item.toNat)).putEdge key e')) ∧
        (e.fill = 0 → e.run = false → e.cons ≠ 0 → exec (.edgeDeferredPush p) s =
          .next (((x.putBytes item (toBytes 8 p.item.toNat)).putEdge key { e' with run := true }).readyCons
            none p.ctx e.cons p.core false))) ∧
    (∀ ctx uid n rank phase, exec (.barrierArrival ctx uid n rank phase) s =
      .next (s.modBar ctx uid n fun b => arrived b rank phase)) ∧
    (∀ ctx uid n, exec (.barrierAck ctx uid n) s = .next (s.modBar ctx uid n acked)) ∧
    (∀ ctx va c, s.ctx ctx = some c → (∀ e ∈ s.tlb, ¬ (e.unit = 0 ∧ e.asid = c.asid ∧ e.page ≤ va.toNat ∧ va.toNat < e.page + e.size)) →
      ∀ p pa size seen, s.walk c va.toNat = (.leaf p pa size, seen) → ∃ t, exec (.pageWalk ctx va) s = .next t ∧
        t.tlb.head? = some ⟨c.asid, va.toNat / size * size, size, p ||| 0x40, pa, 0⟩)

namespace Sys2Proof.Claims

open Sys2Proof.Machine

/-! ## Handler activations and the engines (R33, R219, R226, R234, R236, R238, R241, R242, R245, R341) -/

/-- The slot that an activation for the message starts in, on a core of a context (R33). -/
def Activated (s t : State) (core : Nat) (m : RxMsg) (c : Ctx) : Prop :=
  ∃ sl, t.slot (hndOf core) = sl ∧ sl.st = .running ∧ sl.trigger = some m ∧ sl.ctx = m.ctx ∧ sl.uid = s.nextUid ∧
    sl.pc = m.more.headD 0 ∧ sl.budget = c.hndbud ∧ sl.taskid = ((s.core core).acts + 1).setWidth 64 ∧
    sl.self = BitVec.ofNat 64 (hndOf core) ∧ sl.fpctl = BitVec.ofNat 64 c.fpdef ∧
    sl.greg 2 = ⟨localAddr (rxOff core + 0x1000), .full, false⟩ ∧ sl.greg 3 = ⟨localAddr (rxOff core + 32 * m.pos), .full, false⟩ ∧
    sl.greg 4 = ⟨m.sender, .full, false⟩

end Sys2Proof.Claims

open Sys2Proof Sys2Proof.Machine Sys2Proof.Claims in
/-- R33, R219, R226, R341: the oldest message of an idle handler slot starts its activation at its entry address; a message whose
activation was killed starts it again; a held message freezes the idle handler slot with an RXFULL packet. -/
def Obligations.Activations : Prop :=
  ∀ (s : State) (core : Nat),
    (∀ m c, (s.core core).rxq.find? (fun x => x.kind != 0) = some m → m.pos < 64 → m.amo = none → s.ctx m.ctx = some c →
      ((s.slot (hndOf core)).st = .idle → (s.slot (hndOf core)).trigger = none → (s.core core).rxfull = false →
          .rxfull core ∉ s.agenda → ∃ t, exec (.handlerActivationStart core) s = .next t ∧ Activated s t core m c) ∧
      ((s.slot (hndOf core)).st ≠ .idle ∨ (s.core core).rxfull = true ∨ .rxfull core ∈ s.agenda →
        exec (.handlerActivationStart core) s = .next s)) ∧
    (∀ u m c, u = s.strandsSweep.rxLeft core → (u.slot (hndOf core)).trigger = some m → m.amo = none → u.ctx m.ctx = some c →
      ((u.slot (hndOf core)).st = .idle → ∃ t, exec (.activationRedelivery core) s = .next t ∧ Activated u t core m c) ∧
      ((u.slot (hndOf core)).st ≠ .idle → exec (.activationRedelivery core) s = .next u)) ∧
    (∀ m w l, (s.slot (hndOf core)).st = .idle → (s.core core).held = (m, w) :: l → ∃ t p,
      exec (.rxfull core) s = .next t ∧ (t.slot (hndOf core)).st = .frozen ∧ (t.slot (hndOf core)).pkt = p ∧
      (t.core core).rxfull = true ∧ p.fcode = 0x0F ∧ p.faddr = m.sender ∧ p.ctxn = m.ctx ∧ p.taddr = BitVec.ofNat 64 (hndOf core)) ∧
    ((s.slot (hndOf core)).st = .idle → (s.core core).held = [] → exec (.rxfull core) s = .next s) ∧
    ((s.slot (hndOf core)).st ≠ .idle → exec (.rxfull core) s = .next (s.post (.rxfull core)))

open Sys2Proof Sys2Proof.Machine Sys2Proof.Claims in
/-- R234, R236, R238, R241, R242, R245: an engine takes its next copy, which fails its checks or plans its writes; a completion
writes, frees its place in COPN and acts through its sink, or records its error; a failed copy with TRAP raises COPY; a collective
with one local member whose contributions have all come commits for it; an abort or the watchdog completes it with status 8. -/
def Obligations.EngineEvents : Prop :=
  ∀ s : State,
    (∀ e, (s.eng e).ops.find? (fun o => o.st == 1 && o.coll.isNone) = none → exec (.copyExecute e) s = .next s) ∧
    (∀ e o src dst, (s.eng e).ops.find? (fun o => o.st == 1 && o.coll.isNone) = some o →
      src = (o.grid.map fun x => rowAddr (o.sh 0) (o.sh 3) x.1 x.2) → dst = (o.grid.map fun x => rowAddr (o.sh 1) (o.sh 4) x.1 x.2) →
      (∀ u x, s.rowPlaces o false src = (u, .error x) → exec (.copyExecute e) s = .next ((u.modOp o.id fun o =>
        { o with st := 2, status := x.1, fail := x.2 }).post (.copyCompletion o.id))) ∧
      ∀ u sp, s.rowPlaces o false src = (u, .ok sp) →
        (∀ v x, u.destPlaces o dst = (v, .error x) → exec (.copyExecute e) s = .next ((v.modOp o.id fun o =>
          { o with st := 2, status := x.1, fail := x.2 }).post (.copyCompletion o.id))) ∧
        ∀ v dp, u.destPlaces o dst = (v, .ok dp) → ∃ (w : State) (rows : List (List (Byte × Bool))) (x : State) (ks : List Nat),
          v.readRows o (reusable o (v.eng e).buf) (Machine.hintOf (slice (o.sh 5) 32 2)) (o.grid.zip sp) = (w, rows) ∧
          exec (.copyExecute e) s = .next ((x.modOp o.id fun o =>
            { o with st := 2, plan := dp.flatMap fun q => planRuns q.flatten rows.flatten []
                     pois := rows.flatten.any Prod.snd, written := ks.length, shown := ks
                     acks := if o.ack.isSome then dp.length else 0 }).post (.copyCompletion o.id))) ∧
    (∀ id o, (s.eng (engOfId id)).ops.find? (fun x => x.id == id && decide (2 ≤ x.st)) = some o → o.id = id →
      (o.status = 0 → ∀ w y, w = o.plan.foldl (fun x run => x.writeRun o run) s →
        y = (w.modEng (engOfId id) fun x => { x with ops := x.ops.filter fun z => z.id != id }) →
        (o.ack = none → InSlot y o.req →
          (2 ≤ o.sink → exec (.copyCompletion id) s = .next (y.modSlot o.req.ta fun sl => { sl with copn := sl.copn - 1 })) ∧
          (o.sink = 0 → exec (.copyCompletion id) s = .next ((y.modSlot o.req.ta fun sl => { sl with copn := sl.copn - 1 }).modSlot
            o.req.ta fun sl => sl.deliverTag (BitVec.ofNat 6 o.tag) 0 o.pois o.nv o.sat o.nx)) ∧
          (o.sink = 1 → exec (.copyCompletion id) s = .next ((y.modSlot o.req.ta fun sl =>
            { sl with copn := sl.copn - 1 }).decrement o.ctx o.cdep 1 none (taCore o.req.ta)))) ∧
        (∀ k, o.ack = some k → o.acks = 1 → 2 ≤ o.sink → InSlot y o.req → exec (.copyCompletion id) s =
          .next ((y.post (.barrierAck o.ctx o.req.uid k)).modSlot o.req.ta fun sl => { sl with copn := sl.copn - 1 }))) ∧
      (o.status ≠ 0 → o.st = 2 → o.ack = none → 2 ≤ o.sink → ∀ y e,
        y = (s.modEng (engOfId id) fun x => { x with ops := x.ops.filter fun z => z.id != id }) → InSlot y o.req →
        e = ⟨1, 8, 10, engOfId id % 128, taDie o.req.ta, taVq o.req.ta, o.fail, BitVec.ofNat 64 (id.toNat * 2 ^ 32 + o.req.ta), none, 0⟩ →
        (o.trap = false → exec (.copyCompletion id) s = .next ((y.modSlot o.req.ta fun sl =>
          { sl with copn := sl.copn - 1 }).report e)) ∧
        (o.trap = true → exec (.copyCompletion id) s = .next (((y.modSlot o.req.ta fun sl =>
          { sl with copn := sl.copn - 1 }).modSlot o.req.ta fun sl => { sl with copTrap := sl.copTrap ++ [id] }).report e)))) ∧
    (∀ ta id l, (s.slot ta).copTrap = id :: l → (s.slot ta).st = .running →
      exec (.copyTrap ta) s = .next ((s.modSlot ta fun sl => { sl with copTrap := l }).raise ta 0x11 (id.setWidth 64))) ∧
    (∀ ctx c grp op, s.ctx ctx = some c →
      (∀ outside ms, s.groupOf c grp = some ms → s.collParts ctx grp op outside ms = none →
        exec (.collectiveCommit ctx grp op outside) s = .next s) ∧
      (∀ outside ms ps o k bs, s.groupOf c grp = some ms → s.collParts ctx grp op outside ms = some ps →
        s.collOps ctx grp op = [(o, k)] → bs = collResult k ps →
        (k.writes = false → exec (.collectiveCommit ctx grp op outside) s = .next ((s.modOp o.id fun o =>
          { o with st := 2, plan := [], nx := bs.2.nx, sat := bs.2.sat, nv := bs.2.nv, pois := bs.1.any Prod.snd }).post
            (.copyCompletion o.id))) ∧
        (k.writes = true → ∀ pl u, pl = k.dplan.map (fun x => ((⟨x.1, x.1, decide (x.1 < 2 ^ 64), none, 0, 0⟩ : Place), x.2)) →
            u = pl.foldl (fun (s : State) x => (s.opLookups x.1 x.2 .normal).1) (s.opMark o (pageParts k.dst bs.1.length)) →
          exec (.collectiveCommit ctx grp op outside) s = .next ((u.modOp o.id fun o =>
            { o with st := 2, plan := planRuns pl bs.1 [], nx := bs.2.nx, sat := bs.2.sat, nv := bs.2.nv
                     pois := bs.1.any Prod.snd }).post (.copyCompletion o.id))))) ∧
    (∀ ctx grp op o k, s.collOps ctx grp op = [(o, k)] → o.st = 1 → ∀ t, t = (s.modOp o.id fun o =>
        { o with st := 3, status := 8, fail := 0 }).post (.copyCompletion o.id) →
      exec (.collectiveAbort ctx grp op) s = .next t ∧
      (k.since + 1000000 ≤ s.time → exec (.collectiveWatchdog ctx grp op) s = .next t) ∧
      (s.time < k.since + 1000000 → exec (.collectiveWatchdog ctx grp op) s = .next s))

namespace Sys2Proof.Claims

open Sys2Proof.Machine

/-! ## Fault service and its outcomes (R337 to R341) -/

/-- The events of a write of OUTCOME that need STATE = 2 (R337). -/
noncomputable def needFrozen (ta : Nat) : List Instr := [.resume ta, .skip ta, .goto ta, .fcont ta, .killt ta, .killg ta, .killc ta]

/-- The task of a slot goes on with a fresh budget; of its fetch buffer the four entries that FBUF shows stay (R337; log 7). -/
def Thawed (u : State) (q : Nat) (f : Slot → Slot) : State :=
  u.modSlot q fun sl => f { sl with st := .running, budget := u.budgetOf (u.slot q), fbuf := sl.fbuf.take 4 }

/-- The decoded words without the entry at PC. -/
def restOf (k : Slot) : List FbEntry := if k.buffered.isSome then k.fbuf.drop 1 else k.fbuf

end Sys2Proof.Claims

open Sys2Proof Sys2Proof.Machine Sys2Proof.Claims in
/-- R336, R337, R340, R341: an outcome sets OUTSTAT 1 where STATE is not as it needs, 2 where its operand or the packet does not
fit it, and else 0 and acts: RESUME, SKIP, GOTO and FCONT let the task go on with a fresh budget at PC, past it, at OUTARG, at
FCONT; KILLT, KILLG and KILLC kill; REPLAY and ABANDON act on the parked store that OUTARG names; GROW adds a queue extension;
FBCLR empties the fetch buffer. -/
def Sys2Proof.Claims.Outcomes : Prop :=
  ∀ (s : State) (ta q : Nat), s.pairOf (ta % 65536) = q →
    (s.isRxfull q = true → ∀ i, i ∈ needFrozen ta ++ [.replay ta, .abandon ta] → i ≠ .resume ta →
      exec i s = .next (s.outStat q 2)) ∧
    (s.isRxfull q = true → exec (.resume ta) s = .next ((s.modCore (taCore q) fun c => { c with rxfull := false }).setSlot q {})) ∧
    (s.isRxfull q = false → (s.slot q).st ≠ .frozen ∨ s.savedAct q = true →
      ∀ i ∈ needFrozen ta, exec i s = .next (s.outStat q 1)) ∧
    (s.isRxfull q = false → (s.slot q).st = .frozen → s.savedAct q = false → ∀ u sl x, u = s.outStat q 0 → sl = u.slot q → x = u.leaveWait q →
      (sl.sptBad = none → exec (.resume ta) s = .next (Thawed u q fun k => { k with fbuf := restOf k })) ∧
      (sl.pkt.ilen = 0 → exec (.skip ta) s = .next (u.outStat q 2)) ∧
      (sl.pkt.ilen ≠ 0 → exec (.skip ta) s = .next (Thawed x q fun k =>
        { k with pc := k.pc + BitVec.ofNat 64 k.ilen, sptBad := none, fbuf := restOf k })) ∧
      exec (.goto ta) s = .next (Thawed x q fun k => { k with pc := k.outarg, sptBad := none }) ∧
      (sl.fcont ≠ 0 → exec (.fcont ta) s = .next (Thawed x q fun k =>
        { k with fcode := BitVec.ofNat 64 k.pkt.fcode, faddr := k.pkt.faddr, pc := k.fcont, sptBad := none })) ∧
      (sl.fcont = 0 → exec (.fcont ta) s = .next (u.killSlot q)) ∧
      exec (.killt ta) s = .next (u.killSlot q) ∧
      (taHnd q = false → exec (.killg ta) s = .next (((u.units.filter fun y => y.ctx == sl.ctx &&
        y.task.graph == sl.graph.toNat % 2 ^ 32).foldl State.killUnit u).freeze sl.ctx (sl.graph.toNat % 2 ^ 32))) ∧
      exec (.killc ta) s = .next (u.killCtx sl.ctx)) ∧
    (s.isRxfull q = false →
      ((s.slot q).st = .idle → exec (.replay ta) s = .next (s.outStat q 1) ∧ exec (.abandon ta) s = .next (s.outStat q 1)) ∧
      ((s.slot q).st ≠ .idle → s.outEntry q = none →
        exec (.replay ta) s = .next (s.outStat q 2) ∧ exec (.abandon ta) s = .next (s.outStat q 2)) ∧
      (∀ e u, (s.slot q).st ≠ .idle → s.outEntry q = some e → u = s.outStat q 0 →
        (u.rpqBehind (taCore q) e = true → exec (.replay ta) s = .next (u.modCore (taCore q) fun c =>
          { c with rpq := c.rpq.map fun y => if y.no = e.no then { y with fva := 0, behind := true } else y })) ∧
        (u.rpqBehind (taCore q) e = false → exec (.replay ta) s = .next (u.rpqRetry (taCore q) e)) ∧
        exec (.abandon ta) s = .next ((u.modCore (taCore q) fun c =>
          { c with rpq := c.rpq.map fun y => if y.no = e.no then { y with st := .abandoned } else y }).rpqWake (taCore q)))) ∧
    (s.isRxfull q = false → exec (.grow ta) s = .next (s.outStat q 1)) ∧
    (s.isRxfull q = true → ∀ pa, pa = (s.slot q).outarg.toNat →
      (pa % 128 ≠ 0 ∨ hbmSize < pa + 131072 → exec (.grow ta) s = .next (s.outStat q 2)) ∧
      (pa % 128 = 0 → pa + 131072 ≤ hbmSize → (s.core (taCore q)).held = [] → ∃ t, exec (.grow ta) s = .next t ∧
        t.slot q = {} ∧ (t.core (taCore q)).ext = some pa ∧ (t.core (taCore q)).rxfull = false ∧
        (t.core (taCore q)).rxq = (s.core (taCore q)).rxq)) ∧
    exec (.fbclr ta) s = .next (s.modWindow (ta % 65536) fun sl => { sl with fbuf := [] })

open Sys2Proof Sys2Proof.Machine Sys2Proof.Claims in
/-- R338: the service of a packet that still stands. With its duty bit set it goes to the host's service ring; else hardware fills
a page for a parked store or a fetch, or applies RESUME to RXFULL, FCONT where the context's policy says so, and KILLT otherwise;
a store whose page cannot be filled is abandoned. -/
def Sys2Proof.Claims.FaultService : Prop :=
  ∀ (s : State) (p : Packet) (ta : Nat) (c : Ctx), p.taddr.toNat % 65536 = ta → s.pairOf ta = ta → s.ctx p.ctxn = some c →
    (s.pktLive p = false → exec (.faultService p) s = .next s) ∧
    (s.pktLive p = true → p.fcode ≠ 6 →
      (c.duty 0 = true → exec (.faultService p) s = .next (s.service 1 p.ctxn (packetBytes p))) ∧
      (c.duty 0 = false →
        (p.fcode = 0x0F → exec (.faultService p) s = exec (.resume ta) s) ∧
        (p.fcode ≠ 0x0F → taHnd ta = true ∨ c.policy p.fcode = false → exec (.faultService p) s = exec (.killt ta) s) ∧
        (p.fcode ≠ 0x0F → taHnd ta = false → c.policy p.fcode = true → exec (.faultService p) s = exec (.fcont ta) s))) ∧
    (s.pktLive p = true → p.fcode = 6 →
      (c.duty 1 = true → exec (.faultService p) s = .next (s.service 1 p.ctxn (packetBytes p))) ∧
      (c.duty 1 = false →
        (∀ u, s.pageFill c p.faddr = some u → p.park = false → exec (.faultService p) s = exec (.resume ta) u) ∧
        (∀ e, (s.core (taCore ta)).rpq.find? (fun x => x.no == p.rpqe) = some e → p.park = true →
          (∀ u, s.pageFill c p.faddr = some u → exec (.faultService p) s = .next (u.replayEntry ta e)) ∧
          (s.pageFill c p.faddr = none → exec (.faultService p) s = .next (s.abandonEntry ta e))) ∧
        (s.pageFill c p.faddr = none → p.park = false → c.duty 0 = false →
          (taHnd ta = true ∨ c.policy 6 = false → exec (.faultService p) s = exec (.killt ta) s) ∧
          (taHnd ta = false → c.policy 6 = true → exec (.faultService p) s = exec (.fcont ta) s))))

/-- The outcomes of a debug window and the service of a packet (R336 to R341): both parts hold. -/
def Obligations.FaultHandling : Prop := Sys2Proof.Claims.Outcomes ∧ Sys2Proof.Claims.FaultService

namespace Sys2Proof.Claims

open Sys2Proof.Machine

/-! ## Placing, starting and stopping work (R31, R169 to R171, R344 to R347, R379) -/

/-- A loose task, with no table and no partner, started in a slot with its share at an offset of its quad's QLM (R31, R169). -/
def Started (s t : State) (w : Work) (c : Ctx) (ta off : Nat) : Prop :=
  ∃ sl tc, t.slot ta = sl ∧ tc = BitVec.ofNat 64 (2 ^ 48 + w.task.ty * 2 ^ 16 + w.task.tx) ∧ sl.st = .running ∧
    sl.uid = s.nextUid ∧ sl.ctx = w.ctx ∧ sl.unit = w.addr ∧ sl.pc = w.task.pc ∧ sl.taskid = w.addr ∧ sl.arg = w.task.arg ∧
    sl.fcont = w.task.fcont ∧ sl.graph = BitVec.ofNat 64 w.task.graph ∧ sl.tcoord = tc ∧ sl.self = BitVec.ofNat 64 ta ∧
    sl.budget = (if w.task.budget = 0 then c.defbud else w.task.budget) ∧ sl.fpctl = BitVec.ofNat 64 c.fpdef ∧
    sl.greg 2 = ⟨localAddr (off + c.lqlm), .full, false⟩ ∧ sl.greg 3 = ⟨w.task.arg, .full, false⟩ ∧
    sl.greg 4 = ⟨tc, .full, false⟩ ∧ ∃ u, t.units = s.units ++ [u] ∧ u.ctx = w.ctx ∧ u.addr = w.addr ∧ u.task = w.task ∧
      u.qlmOff = off ∧ u.qlmLen = c.lqlm ∧ u.members = [⟨0, ta, s.nextUid, false⟩]

/-- What happens to a record that a core may start, where the event answers as starting it does (R169, R178, R186). -/
def StartsOn (i : Instr) (s : State) (core : Nat) (w : Work) : Prop :=
  (s.looseSlot core w.task.lash = none → exec i s = .next s) ∧
  ∀ ta, s.looseSlot core w.task.lash = some ta →
    (s.graphFrozen w.ctx w.task.graph = true → exec i s =
      .next ((((s.unqueue w.ctx w.addr).replayEnd w.replay 2).cancelled w core).act [.done w.ctx w.addr w.task true core])) ∧
    (s.graphFrozen w.ctx w.task.graph = false → ∀ c, s.ctx w.ctx = some c →
      (s.offsets [core / 4] c.lqlm false = [] → exec i s = .next s) ∧
      (s.offsets [core / 4] c.lqlm false ≠ [] → w.task.lash = false → w.task.spt = 0 → w.replay = false →
        ∃ t off, exec i s = .next t ∧ off ∈ s.offsets [core / 4] c.lqlm false ∧ Started s t w c ta off))

/-- An origin where an aged request may have its reservation (R171). -/
def MayReserve (s : State) (die : Nat) (g : GangRec) (o : Nat) : Prop :=
  o ∈ origins g.w g.h ∧ ∀ q ∈ rectQuads die o g, s.present die (q % 512) = true

end Sys2Proof.Claims

open Sys2Proof Sys2Proof.Machine Sys2Proof.Claims in
/-- R31, R169 to R171, R178: a core starts the record that is next for it, or steals the bottom of a victim's deque; a record of a
frozen graph completes CANCELLED; the placer places a request that fits; an aged request reserves the rectangle whose occupants
have the least budget left. -/
def Sys2Proof.Claims.Scheduling : Prop :=
  ∀ s : State,
    (∀ core, s.nextWork core = none → exec (.taskStart core) s = .next s) ∧
    (∀ core w, s.nextWork core = some w → StartsOn (.taskStart core) s core w) ∧
    (∀ core victim w, s.nextWork core = none → victim ∈ s.victims core → s.bottom victim = some w →
      w.replay = false → StartsOn (.taskSteal core victim) s core w) ∧
    (∀ core victim, s.nextWork core ≠ none ∨ victim ∉ s.victims core → exec (.taskSteal core victim) s = .next s) ∧
    (∀ die w g, (s.die die).placer = [w] → s.mayStart w.ctx = true → w.gang = some g →
      (∀ o l off, s.findPlace die w.ctx w.addr g (g.lash || w.task.lash) false w.replay = some (o, l, off) →
        (s.graphFrozen w.ctx w.task.graph = false →
          exec (.gangPlace die) s = .next ((s.unqueue w.ctx w.addr).startGang w g die o off l)) ∧
        (s.graphFrozen w.ctx w.task.graph = true → exec (.gangPlace die) s = .next
          ((((s.unqueue w.ctx w.addr).replayEnd w.replay 2).cancelled w ((die * 512 + o) * 4)).act
            [.done w.ctx w.addr w.task true ((die * 512 + o) * 4)]))) ∧
      (s.findPlace die w.ctx w.addr g (g.lash || w.task.lash) false w.replay = none →
        s.findPlace die w.ctx w.addr g (g.lash || w.task.lash) true w.replay = none → exec (.gangPlace die) s = .next s)) ∧
    (∀ die w g c, (s.die die).placer = [w] → w.gang = some g → s.ctx w.ctx = some c → s.mayStart w.ctx = true →
      (∀ u ∈ s.units, ¬ (u.stopped = true ∧ u.die = die ∧ u.gang.isSome = true)) →
      (s.time ≤ w.since + c.aging ∨ (s.die die).reserved ≠ none → exec (.gangAgingReserve die) s = .next s) ∧
      (w.since + c.aging < s.time → (s.die die).reserved = none →
        ((∀ o, ¬ MayReserve s die g o) → exec (.gangAgingReserve die) s = .next s) ∧
        ((∃ o, MayReserve s die g o) → ∃ o, MayReserve s die g o ∧
          (∀ p, MayReserve s die g p → s.rectBudget die o g ≤ s.rectBudget die p g) ∧
          exec (.gangAgingReserve die) s =
            .next (s.modDie die fun d => { d with reserved := some ⟨w.ctx, w.addr, o, g.w, g.h⟩ }))))

open Sys2Proof Sys2Proof.Machine Sys2Proof.Claims in
/-- R344 to R348, R379: at BUDGET 0 a task with a pre-emption request, or of a context being quiesced, is stopped with its unit,
while one of its other slots is frozen it waits, and otherwise it raises BUDGET; a stopped unit resumes where there is room; the
cores of a lashed pair agree, or the pair returns to its rollback point, the third time with LASHED. -/
def Sys2Proof.Claims.StoppingAndResuming : Prop :=
  ∀ (s : State) (ta : Nat),
    ((s.slot ta).st ≠ .running ∨ (s.slot ta).budget ≠ 0 → exec (.budgetExpiry ta) s = .next s) ∧
    ((s.slot ta).st = .running → (s.slot ta).budget = 0 → (s.slot ta).partner = none →
      (taHnd ta = true ∨ s.unitOf ta = none → exec (.budgetExpiry ta) s = .next (s.raise ta 0x09 (s.slot ta).pc)) ∧
      ∀ u, taHnd ta = false → s.unitOf ta = some u →
        (s.quiescing u.ctx = true → exec (.budgetExpiry ta) s = .next (s.forceStop u)) ∧
        (s.quiescing u.ctx = false → u.preempt ≠ none → s.anyFrozen u = false →
          exec (.budgetExpiry ta) s = .next (s.forceStop u)) ∧
        (s.quiescing u.ctx = false → u.preempt ≠ none → s.anyFrozen u = true → exec (.budgetExpiry ta) s = .next s) ∧
        (s.quiescing u.ctx = false → u.preempt = none →
          exec (.budgetExpiry ta) s = .next (s.raise ta 0x09 (s.slot ta).pc))) ∧
    (∀ ctx addr, (∀ u ∈ s.units, u.is ctx addr = true → u.stopped = true → ∀ r, s.resumeRoom u = some r → s.rpqFits u r = false) →
      exec (.unitResume ctx addr) s = .next s) ∧
    (∀ ctx addr u r, s.units.find? (fun u => u.is ctx addr && u.stopped && s.canResume u) = some u → s.resumeRoom u = some r →
      s.rpqFits u r = true ∧ exec (.unitResume ctx addr) s = .next (s.resumeIn u r)) ∧
    ((s.slot ta).paired = true → (s.slot ta).st = .running → (s.slot ta).partner = none →
      ∀ old n, old = Store.get (s.slot ta) s.agreed (s.slot ta).uid → n = (s.slot ta).pairst.toNat / 8 % 4 →
      if Config.freeFlag s.ctr 30 = true then exec (.lashedExchange ta) s = .next (s.exchange ta) else
        (n < 2 → ∃ t, exec (.lashedExchange ta) s = .next t ∧ (t.slot ta).pc = old.pc ∧ (t.slot ta).st = .running ∧
          (t.slot ta).g = old.g ∧ (t.slot ta).heldSt = [] ∧ (t.slot ta).budget = (s.slot ta).budget ∧ t.mem = s.mem ∧
          (t.slot ta).pairst = (old.pairst &&& 7) + BitVec.ofNat 64 ((n + 1) * 8)) ∧
        (2 ≤ n → taHnd ta = false → ∃ t p, exec (.lashedExchange ta) s = .next t ∧ (t.slot ta).st = .frozen ∧
          (t.slot ta).pkt = p ∧ p.fcode = 0x10 ∧ p.faddr = old.pc ∧ (t.slot ta).pc = old.pc ∧ (t.slot ta).g = old.g))

/-- Scheduling, stopping and resuming (R31, R169 to R178, R344 to R348, R379): both parts hold. -/
def Obligations.SchedulingAndStopping : Prop := Sys2Proof.Claims.Scheduling ∧ Sys2Proof.Claims.StoppingAndResuming

namespace Sys2Proof.Claims

open Sys2Proof.Machine

/-! ## Errors, retirement, power and heat (R330, R373 to R391) -/

/-- The histogram entry of an error's unit (R381). -/
def histOf (s : State) (e : ErrReport) : Nat :=
  unitKey e.die (if 1 ≤ e.ukind ∧ e.ukind ≤ 5 then s.physOf e.die e.vquad else 0) e.ukind (e.uidx % 128)

/-- A row's register with a field that keeps its value where the write's is out of its range (R386). -/
def inRange (lo hi v old : Nat) : Nat := if lo ≤ v ∧ v ≤ hi then v else old

/-- A row at a boundary of the control intervals (R387, R388). -/
def atBoundary (r : RailRow) (canary : Bool) (r' : RailRow) : Prop :=
  r'.n = max r.thcap (max r.icap (if r.breq = true ∧ r.touched = false then 5 else r.base)) ∧
    (r'.bgrant = true ↔ r.breq = true ∧ r.touched = false) ∧ (r'.breq = true ↔ r.breq = true ∧ r.touched = false) ∧
    (r'.touched = true ↔ 5 < r.thcap ∨ 5 < r.icap) ∧
    r'.voff = (if r.uven = true ∧ r.uvoff = false then (if canary then r.voff - 2 else min (r.voff + 1) 40) else r.voff) ∧
    r'.base = r.base ∧ r'.thcap = r.thcap ∧ r'.icap = r.icap ∧ r'.droop = r.droop ∧ r'.uven = r.uven ∧ r'.uvoff = r.uvoff ∧
    r'.slack = r.slack

end Sys2Proof.Claims

open Sys2Proof Sys2Proof.Machine Sys2Proof.Claims in
/-- R373 to R375, R381, R382, R384, R385: an error is recorded, in the record of the same error or the next free one; it poisons its
granule, counts for its unit, kills what it touched where it is urgent, and fences a unit that is over its limit or urgent; with
the host's duty bit as it stood when it was detected it goes to the service ring and fences nothing. A retirement copies its frame line by line and then switches; whether a
base die is the home of a frame the spec leaves open (log 22).
Counts are halved every 24 hours. -/
def Sys2Proof.Claims.ErrorsAndRetirement : Prop :=
  ∀ s : State,
    (∀ (e : ErrReport) (i : Nat) (r : ErrRec), (List.range 256).find? (fun i => ((s.bank e.die).rec' i).same (s.recOf e)) = some i →
      r = (s.bank e.die).rec' i → s.record e = (s.setBank e.die ((s.bank e.die).put i { r with
        count := min (r.count + 1) 65535, time := s.time }), { r with count := min (r.count + 1) 65535, time := s.time })) ∧
    (∀ (e : ErrReport) (i : Nat), (List.range 256).find? (fun i => ((s.bank e.die).rec' i).same (s.recOf e)) = none →
      (s.bank e.die).place = some i → s.record e = (s.setBank e.die { (s.bank e.die).put i { s.recOf e with
        no := (s.bank e.die).fresh } with next := (i + 1) % 256 }, s.recOf e)) ∧
    (∀ (e : ErrReport) (x : State), x = (s.record e).1 → e.cause ≠ 4 →
      (e.cls = 1 → e.ukind = 0 ∨ 7 ≤ e.ukind →
        (e.granule = none → e.mode.getLsbD 1 = false → exec (.errorDetected e) s = .next x) ∧
        (e.granule = none → e.mode.getLsbD 1 = true →
          exec (.errorDetected e) s = .next (x.service 3 0 (s.record e).2.bytes)) ∧
        (∀ k, e.granule = some k → e.cause ≠ 1 → e.mode.getLsbD 1 = false →
          exec (.errorDetected e) s = .next (x.poisonAt k))) ∧
      (e.cls = 0 → 1 ≤ e.ukind → e.ukind ≤ 6 → e.granule = none → e.mode.getLsbD 1 = false → ∀ y,
        y = x.histAdd (histOf x e) 1 0 →
        (y.overLimit (histOf x e) = false → exec (.errorDetected e) s = .next y) ∧
        (y.overLimit (histOf x e) = true → exec (.errorDetected e) s =
          .next (y.fenceUnit e.die e.vquad e.ukind (e.uidx % 128)))) ∧
      (e.cls = 2 → 7 ≤ e.ukind → e.granule = none → e.mode.getLsbD 1 = false →
        exec (.errorDetected e) s = .next ((x.urgentKill e).fenceUnit e.die e.vquad e.ukind (e.uidx % 128)))) ∧
    (∀ base b, b = s.retBlk base →
      (b.state = 0 → b.src.toNat % 65536 ≠ 0 ∨ b.dst.toNat % 65536 ≠ 0 ∨ b.remap = 1024 → exec (.retireGo base) s =
        .next ((s.setRetBlk base { b with state := 3 }).report ⟨0, 9, 7, 0, 0, 0, b.src, 0, none, 0⟩)) ∧
      (b.state = 0 → b.src.toNat % 65536 = 0 → b.dst.toNat % 65536 = 0 → inHbm b.src.toNat 65536 = true →
        inHbm b.dst.toNat 65536 = true → b.remap ≠ 1024 → exec (.retireGo base) s =
        .next (if s.homedOn base b.src.toNat = true ∧ s.homedOn base b.dst.toNat = true then
            (s.setRetBlk base { b with state := 1, wmark := 0 }).post (.retireGo base)
          else (s.setRetBlk base { b with state := 3 }).report ⟨0, 9, 7, 0, 0, 0, b.src, 0, none, 0⟩)) ∧
      (b.state = 1 → b.wmark < 512 → exec (.retireGo base) s =
        .next (((s.copyBytes (b.src.toNat + 128 * b.wmark) (b.dst.toNat + 128 * b.wmark) 128).setRetBlk base
          { b with wmark := b.wmark + 1 }).post (.retireGo base))) ∧
      (b.state = 1 → 512 ≤ b.wmark → exec (.retireGo base) s =
        .next ((s.setRetBlk base { b with state := 2 }).post (.retireSwitch base))) ∧
      (b.state = 2 → ∃ t, exec (.retireSwitch base) s = .next t ∧ t.retBlk base = { b with state := 0, remap := b.remap + 1 } ∧
        t.ras.remaps = s.ras.remaps ++ [(b.src.toNat, b.dst.toNat)] ∧ t.mem = s.mem ∧
        t.agenda = s.agenda ++ [.errorDetected ⟨0, 9, 7, 0, 0, 0, b.src, 0, none, s.host.duty⟩]) ∧
      (b.state ≠ 2 → exec (.retireSwitch base) s = .next s)) ∧
    ∃ t, exec .histogramDecay s = .next t ∧ t.ras.hist = s.ras.hist.map fun p => (p.1, (p.2.1 / 2, p.2.2 / 2))

open Sys2Proof Sys2Proof.Machine Sys2Proof.Claims in
/-- R12, R330, R383, R386 to R391: a write of a rail row's power register, a droop, a boundary of the control intervals and an error
in an undervolted row; a quad without work is gated, and wakes unless its test fails; a thermal emergency gates every clock until
it ends; a hot quad moves to an idle one, or its row's cap rises; a port of the fabric trains; power-on reset keeps the histograms,
the fence list and the remap entries. -/
def Sys2Proof.Claims.PowerAndHeat : Prop :=
  ∀ s : State,
    (∀ die row (v : Word) r, r = s.row (rowKey die row) → ∃ t x, exec (.railPowerWrite die row v) s = .next t ∧
      x = t.row (rowKey die row) ∧ x.base = inRange 6 48 (v.toNat % 64) r.base ∧
      x.thcap = inRange 5 48 (v.toNat / 2 ^ 8 % 64) r.thcap ∧ x.icap = inRange 5 48 (v.toNat / 2 ^ 16 % 64) r.icap ∧
      x.breq = v.getLsbD 33 ∧ x.droop = (r.droop && !v.getLsbD 35) ∧ x.uven = v.getLsbD 36 ∧
      x.n = max r.n (max x.thcap x.icap) ∧ (x.touched = true ↔ r.touched = true ∨ 5 < x.thcap ∨ 5 < x.icap) ∧
      x.voff = r.voff ∧ x.uvoff = r.uvoff ∧ x.bgrant = r.bgrant ∧
      ∀ i, i < 4 → (t.row (rowKey die (row / 4 * 4 + i))).slack = v.toNat / 2 ^ 48 % 16) ∧
    (∀ die row r, r = s.row (rowKey die row) → ∃ t, exec (.railDroop die row) s = .next t ∧
      t.row (rowKey die row) = { r with n := min (r.n + 1) 48, droop := true, touched := true }) ∧
    (∀ canaries, ∃ t, exec (.controlInterval canaries) s = .next t ∧ t.ras.interval = s.time / 10000 ∧
      t.ras.rows.map Prod.fst = s.ras.rows.map Prod.fst ∧ ∀ k r, (k, r) ∈ s.ras.rows → ∃ r', (k, r') ∈ t.ras.rows ∧
        atBoundary r (canaries.contains k) r') ∧
    (∀ die row k r, r = s.row (rowKey die row) →
      (r.voff = 0 → exec (.marginError die row k) s = .next s) ∧
      (r.voff ≠ 0 → ∃ t, exec (.marginError die row k) s = .next t ∧ t.row (rowKey die row) = { r with voff := 0, uvoff := true } ∧
        t.agenda = s.agenda ++ [.errorDetected ⟨1, 2, 8, row % 4, die, 0, BitVec.ofNat 64 k, 0, some k, s.host.duty⟩])) ∧
    (∀ die pq,
      (quadKey die pq ∉ s.ras.gated → (∀ v, s.virtOf die pq = some v → s.quadIdle die v = true) →
        exec (.quadPowerGate die pq) s = .next { s with ras := { s.ras with gated := s.ras.gated ++ [quadKey die pq] } }) ∧
      (quadKey die pq ∈ s.ras.gated ∨ (∃ v, s.virtOf die pq = some v ∧ s.quadIdle die v = false) →
        exec (.quadPowerGate die pq) s = .next s) ∧
      (∀ l, quadKey die pq ∉ s.ras.gated → exec (.quadWakeTest die pq l) s = .next s) ∧
      (quadKey die pq ∈ s.ras.gated → ∃ t, exec (.quadWakeTest die pq []) s = .next t ∧
        t.ras.gated = s.ras.gated.filter (· ≠ quadKey die pq) ∧ (t.row (rowKey die (rowOf pq))).uvoff = false) ∧
      (∀ i l, quadKey die pq ∈ s.ras.gated → ∃ (x y : State) (r : ErrRec), x.ras.gated = s.ras.gated ∧ x.ras.banks = s.ras.banks ∧
        x.file { x.recOf ⟨2, 5, i / 128, i % 128, die, (s.virtOf die pq).getD 0, 0, 0, none, 0⟩ with pquad := pq } = (y, r) ∧
        (s.host.duty.getLsbD 1 = true → exec (.quadWakeTest die pq (i :: l)) s = .next (y.service 3 0 r.bytes)) ∧
        (s.host.duty.getLsbD 1 = false → ∃ t, exec (.quadWakeTest die pq (i :: l)) s = .next t ∧
          quadKey die pq ∈ t.ras.quads ∧ quadKey die pq ∈ t.ras.gated ∧ t.ras.banks = y.ras.banks))) ∧
    (s.ras.hot = false → s.host.duty.getLsbD 3 = false → exec .thermalEmergency s =
      .next { s with ras := { s.ras with hot := true, since := s.time } }) ∧
    (s.ras.hot = true → exec .thermalEmergency s = .next s) ∧
    (s.ras.hot = true → ∃ t, exec .thermalResume s = .next t ∧ t.ras = { s.ras with hot := false } ∧
      t.agenda = s.agenda ++ [.errorDetected ⟨0, 7, 0, 0, 0, 0, 0, 0, none, s.host.duty⟩] ∧ t.regions = s.regions.map fun p => (p.1,
        p.2.map fun r => if r.state = 2 then { r with start := r.start + (s.time - s.ras.since) } else r)) ∧
    (s.ras.hot = false → exec .thermalResume s = .next s) ∧
    (∀ die vq target last, last = Store.get 0 s.ras.moved (die * 512 + vq) → last ≠ 0 → s.time + 1 < last + 1000000 →
      exec (.thermalMove die vq target) s = .next s) ∧
    (∀ die vq target last, last = Store.get 0 s.ras.moved (die * 512 + vq) → s.present die vq = true →
      last = 0 ∨ last + 1000000 ≤ s.time + 1 →
      (s.moveTarget die target = true → s.physOf die vq ≠ target →
        exec (.thermalMove die vq target) s = .next (s.moveQuad die vq target)) ∧
      (s.moveTarget die target = false → ∀ p ∈ physQuads, s.moveTarget die p = true → s.physOf die vq ≠ p →
        exec (.thermalMove die vq target) s = .next s) ∧
      ((∀ p, s.moveTarget die p = false) → ∀ r, r = s.row (rowKey die (rowOf (s.physOf die vq))) → r.thcap < 48 →
        ∃ t x, exec (.thermalMove die vq target) s = .next t ∧ x = t.row (rowKey die (rowOf (s.physOf die vq))) ∧
          r.thcap < x.thcap ∧ x.thcap ≤ 48 ∧ x.thcap ≤ x.n)) ∧
    (∀ port up, port < 16 → ∃ t, exec (.lyongPortTraining port up) s = .next t ∧
      ∀ i, i < 16 → t.host.up.getLsbD i = (if i = port then (up && (s.host.ports.getLsbD i || s.host.up.getLsbD i)) else
        s.host.up.getLsbD i)) ∧
    ∃ t, exec .powerOnReset s = .next t ∧ t.ras.hist = s.ras.hist ∧ t.ras.fenced = s.ras.fenced ∧ t.ras.quads = s.ras.quads ∧
      t.ras.remaps = s.ras.remaps ∧ t.ras.banks = [] ∧ t.ras.hot = false ∧ t.ras.gated = [] ∧ t.slots = [] ∧ t.mem = [] ∧
      t.poison = [] ∧ t.time = 0 ∧ t.ctxs = [] ∧ t.units = [] ∧ t.agenda = [] ∧ t.tlb = []

/-- Errors, retirement, power and heat (R12, R330, R373 to R391): both parts hold. -/
def Obligations.ErrorsPowerHeat : Prop := Sys2Proof.Claims.ErrorsAndRetirement ∧ Sys2Proof.Claims.PowerAndHeat

namespace Sys2Proof.Claims

open Sys2Proof Sys2Proof.Machine

/-- A ring of trace records without the record kinds' own bookkeeping: room, and no LOST record owed. -/
def ringOpen (s : State) : Prop := s.trace.owed = 0 ∧ s.trace.full = false

/-- The trace state with the variables and counters that a run of the filter leaves. -/
def ranFilter (s : State) (f : Machine.Filter) : State := { s with trace := { s.trace with var := f.var, cnt := f.cnt } }

/-- A launch item that waits for the host's answer (R324). -/
def awaitsHost (it : LaunchItem) : Prop := it.sent = true ∧ it.ok = false ∧ it.no = false

/-- The ends of strands on a device: false the source, true the sink. -/
def endsOn (s : State) (dev : Nat) : List (Nat × Bool) :=
  s.strands.flatMap fun p => match p.2 with
    | some x => (if x.src.dev = dev then [(p.1, false)] else []) ++ (if x.snk.dev = dev then [(p.1, true)] else [])
    | none => []

/-- A replay block at the start of pass 0 (R358, R359). -/
def replayFresh (r : ReplaySt) : ReplaySt :=
  { r with busy := true, rcode := 0, place := none, pages := [], area := 0, wsOv := false, logOv := false, fprint := 0, logged := []
           pass := 0, mism := false, mkind := 0, done := [], freed := [], waits := [], prints := [], ended := none }

/-- The machine as pass 0 starts: the replay block, and the counters that a pass configured at 0 (R359). -/
def freshPass (s : State) : State :=
  { s with
    replay := replayFresh s.replay
    cores := s.cores.map fun (p : Nat × CoreSt) =>
      (p.1, { p.2 with pmc := p.2.pmc.map fun (k : PmCounter) => if k.replay then { k with count := 0 } else k }) }

/-- The counters of a pass: over the cores of its unit (R359). -/
def passCounts (s : State) : List Nat :=
  (List.range 4).map fun i => ((s.replay.place.elim [] Prod.snd).map fun c => (((s.core c).pmc.getD i {}).count)).foldl satAdd64 0

/-- No logged atomic of the unit is missing (R362). -/
def noneMissing (r : ReplaySt) : Prop := r.logOv = true ∨ ∀ p ∈ r.logged, unitAt r.logged p.1 ≤ unitAt r.done p.1

end Sys2Proof.Claims

open Sys2Proof Sys2Proof.Machine Sys2Proof.Claims in
/-- R364 to R369: while EN is 0 a record is lost silently; with an empty filter it goes into the ring, or counts in LOST while the
ring is full; the filter keeps, drops, stops its context, or fails. EN checks the filter, CLR zeroes, RESUME ends a debug stop, and
TAIL frees ring entries. -/
def Obligations.Tracing : Prop :=
  ∀ s : State,
    (∀ r time, s.trace.en = false → exec (.traceRecord r time) s = .next s) ∧
    (∀ r time, s.trace.en = true → s.trace.flen = 0 →
      (ringOpen s → ∀ t, t = s.trace → inHbm (t.ring.toNat + 32 * (t.head % 2 ^ t.rsz)) 32 = true →
        ∃ u, exec (.traceRecord r time) s = .next u ∧ u.trace = { t with head := (t.head + 1) % 2 ^ 64 } ∧
        u.mem = (s.putBytes (t.ring.toNat + 32 * (t.head % 2 ^ t.rsz)) ((traceWords r time).flatMap fun w => toBytes 8 w.toNat)).mem) ∧
      (s.trace.full = true → exec (.traceRecord r time) s = .next { s with trace := { s.trace with
        lost := min (s.trace.lost + 1) (2 ^ 64 - 1), owed := s.trace.owed + 1 } }) ∧
      (s.trace.full = false → s.trace.owed ≠ 0 → s.putLost.trace.full = false →
        exec (.traceRecord r time) s = .next (s.putLost.ringPut (traceWords r time)))) ∧
    (∀ r time f v, s.trace.en = true → s.trace.flen ≠ 0 →
      s.filterRun (traceWords r time) 257 0 ⟨[], s.trace.var, s.trace.cnt⟩ = (f, v) →
      (v = .drop → exec (.traceRecord r time) s = .next (ranFilter s f)) ∧
      (v = .keep → exec (.traceRecord r time) s = .next ((ranFilter s f).ringWrite (traceWords r time))) ∧
      (v = .trig → exec (.traceRecord r time) s = .next (((ranFilter s f).ringWrite (traceWords r time)).debugStop r)) ∧
      (v = .ferr → ∃ t, exec (.traceRecord r time) s = .next t ∧
        t.trace.ferr = min (((ranFilter s f).ringWrite (traceWords r time)).trace.ferr + 1) (2 ^ 64 - 1))) ∧
    (∃ t, exec .traceEnable s = .next t ∧ t = { s with trace := t.trace } ∧
      (t.trace.en = true ↔ s.trace.flen ≤ 256 ∧ ∀ i, i < s.trace.flen → filterOk s.trace.flen i (s.filterWord i) = true) ∧
      t.trace.badf = !t.trace.en ∧ (s.trace.en = true → t.trace.var = s.trace.var ∧ t.trace.cnt = s.trace.cnt) ∧
      (s.trace.en = false → t.trace.var = Vector.replicate 16 0 ∧ t.trace.cnt = Vector.replicate 16 0)) ∧
    exec .traceClear s = .next { s with trace := { s.trace with
      var := Vector.replicate 16 0, cnt := Vector.replicate 16 0, lost := 0, ferr := 0 } } ∧
    exec .traceResume s = .next { s with trace := { s.trace with stop := [], stopped := false } } ∧
    ∀ v : Word, ∃ t, exec (.traceTailWrite v) s = .next t ∧ t.trace.tail = v.toNat ∧ (s.trace.owed = 0 → t = { s with
      trace := { s.trace with tail := v.toNat } })

open Sys2Proof Sys2Proof.Machine Sys2Proof.Claims in
/-- R318, R319, R324, R325: an item is sent into its window while CRED is not 0 and reported otherwise, under duty C2 as a service
record that the host approves or refuses; the placer takes the first item of a window and reports a refusal; a credit total frees
items of the service ring, and one that is out of range changes nothing. -/
def Obligations.LaunchAndService : Prop :=
  ∀ (s : State) (i : Nat) (w : Window), w = s.win i →
    (w.isOpen = false → exec (.launchItemSend i) s = .next s) ∧
    (w.isOpen = true → 2 ^ w.l ≤ w.queue.length → ∃ t, exec (.launchItemSend i) s = .next t ∧
      t.win i = { w with err := w.err ||| 2 ^ 5, last := (w.cookie <<< 8) + 5 }) ∧
    (∀ c, s.ctx w.ctx = some c → w.isOpen = true → w.queue.length < 2 ^ w.l →
      (c.duty 2 = false → ∃ t, exec (.launchItemSend i) s = .next t ∧
        t.win i = { w with queue := w.queue ++ [⟨w.rec_, w.kind, w.cookie, false, false, false⟩] }) ∧
      (c.duty 2 = true → ∃ x : State, exec (.launchItemSend i) s =
        .next (x.service 2 w.ctx (toBytes 8 w.rec_.toNat ++ toBytes 8 w.kind ++ toBytes 8 0 ++ toBytes 8 w.cookie.toNat)) ∧
        x.win i = { w with queue := w.queue ++ [⟨w.rec_, w.kind, w.cookie, true, false, false⟩] })) ∧
    (∀ a it b ok, w.queue = a ++ it :: b → (∀ x ∈ a, ¬ awaitsHost x) → awaitsHost it →
      ∃ t, exec (.launchItemApproval i ok) s = .next t ∧
        t.win i = { w with queue := a ++ { it with ok := ok, no := !ok } :: b }) ∧
    (w.queue = [] ∨ s.mayStart w.ctx = false → exec (.launchItemAccept i) s = .next s) ∧
    (∀ it rest x, w.queue = it :: rest → s.mayStart w.ctx = true → x = s.modWin i (fun w => { w with queue := rest }) →
      (awaitsHost it → exec (.launchItemAccept i) s = .next s) ∧
      (it.no = true → exec (.launchItemAccept i) s = .next x) ∧
      (it.no = false → it.sent = false ∨ it.ok = true → ∀ y st, x.acceptItem w it = (y, st) →
        (st = 0 → exec (.launchItemAccept i) s = .next y) ∧
        (st ≠ 0 → exec (.launchItemAccept i) s = .next (y.modWin i fun w => w.refuse it.cookie st)))) ∧
    (∀ total : Word, s.host.ring = none → exec (.svcCreditWrite total) s = .next s) ∧
    (∀ (total : Word) pa n, s.host.ring = some pa → s.host.used ≤ s.host.sent → n = (s.host.sent + 2 ^ 64 - total.toNat) % 2 ^ 64 →
      (s.host.sent - s.host.used < n → exec (.svcCreditWrite total) s = .next s) ∧
      (n ≤ s.host.sent - s.host.used → exec (.svcCreditWrite total) s =
        .next ({ s with host := { s.host with used := s.host.sent - n } }.svcRun s.host.waiting)))

open Sys2Proof Sys2Proof.Machine Sys2Proof.Claims in
/-- R200, R312 to R314, R318, R321, R329, R330, R332: a write from outside changes the memory in HBM and no read does, and in recovery
nothing but the image-load window is served; an SPDM request that is not served has no answer; a device that has not
answered for 1 ms is lost; a write of an argument, of a command, of a window's COOKIE, of TAIL and of OUTCOME in the debug window; a
format region is enabled only with a good FMT and NELEM, in each base die's set of registers, and the lines of its view go. -/
def Obligations.OutsideAccesses : Prop :=
  ∀ s : State,
    (∀ (pa : Word) bs, exec (.hostMemAccess false pa bs) s = .next s) ∧
    (∀ (pa : Word) bs, inHbm pa.toNat bs.length = false ∨ s.host.recovery = true → exec (.hostMemAccess true pa bs) s = .next s) ∧
    (∀ (pa : Word) bs, inHbm pa.toNat bs.length = true → s.host.recovery = false → ∃ t, exec (.hostMemAccess true pa bs) s = .next t ∧
      t.mem = (s.putBytes pa.toNat bs).mem ∧ t.slots = s.slots) ∧
    (∀ dev write (pa : Word) bs, write = false ∨ dev ∈ s.host.lost ∨ inHbm pa.toNat bs.length = false ∨ s.host.recovery = true →
      exec (.peerMemAccess dev write pa bs) s = .next s) ∧
    (∀ dev (pa : Word) bs, dev ∉ s.host.lost → inHbm pa.toNat bs.length = true → s.host.recovery = false → ∃ t,
      exec (.peerMemAccess dev true pa bs) s = .next t ∧ t.mem = (s.putBytes pa.toNat bs).mem ∧ t.slots = s.slots) ∧
    (∀ dev, dev ∈ s.host.lost → exec (.deviceLostTimeout dev) s = .next s) ∧
    (∀ dev x, dev ∉ s.host.lost → (∀ p ∈ s.engines, ∀ o ∈ p.2.ops, o.coll = none) →
      x = { s with host := { s.host with lost := s.host.lost ++ [dev] } } → exec (.deviceLostTimeout dev) s = .next (x.orphan (endsOn s dev))) ∧
    (∀ code, ∃ t, exec (.spdmRequest code) s = .next t ∧ t = { s with host := { s.host with doe := t.host.doe } } ∧
      (code % 256 ∉ [0x84, 0xE1, 0xE3, 0x81, 0x82, 0x83, 0xE0] → t.host.doe = none) ∧
      (code % 256 = 0x84 → t.host.doe = some (.version [0x12, 0x13])) ∧
      (code % 256 = 0x82 → 2 ≤ code / 256 → t.host.doe = none)) ∧
    (∀ (a : Word) n (v : Word), n = 0 ∨ 8 < a.toNat % 8 + n → exec (.registerWrite a n v) s = .next s) ∧
    (s.host.recovery = true → ∀ (a : Word) n (v : Word), ∃ im, exec (.registerWrite a n v) s =
      .next { s with host := { s.host with image := im } } ∧
      (a.toNat < Config.loadWindow ∨ Config.loadWindow + 2 ^ 26 < a.toNat + n → im = s.host.image)) ∧
    (s.host.recovery = false →
      (∀ i (h : i < 6) (v : Word), exec (.registerWrite (BitVec.ofNat 64 (8 * i)) 8 v) s =
        .next { s with host := { s.host with args := s.host.args.set i v h } }) ∧
      (∀ n (v : Word), 0 < n → n ≤ 8 →
        (s.host.busy = true → exec (.registerWrite 0x38 n v) s = .next { s with host := { s.host with code := 0xFE } }) ∧
        (s.host.busy = false → ∃ t, exec (.registerWrite 0x38 n v) s = .next t ∧ t.host.busy = true ∧
          t.host.cmd = v.setWidth 8 ∧ t.agenda = s.agenda ++ [commandOf (v.toNat % 256)])) ∧
      (∀ v : Word, exec (.registerWrite 0x890 8 v) s = exec (.traceTailWrite v) s) ∧
      (∀ v : Word, exec (.registerWrite 0x40 8 v) s = exec (.svcCreditWrite v) s) ∧
      (∀ (v : Word) i, i < 256 → exec (.registerWrite (BitVec.ofNat 64 (2 ^ 40 + 4096 * i + 0x18)) 8 v) s =
        exec (.launchItemSend i) (s.modWin i fun w => { w with cookie := v })) ∧
      (∀ (v : Word) ta, s.host.dbg = some ta → exec (.registerWrite 0x10228 8 v) s = .next (s.outcome ta (v.toNat % 16)))) ∧
    ∀ f, f < 8 → ∃ t, exec (.formatRegionWrite f) s = .next t ∧
      (∀ b r, b < 8 → r = s.fmtReg f b → t.fmtReg f b =
        { r with en := r.en && decide (2 ≤ r.fmt ∧ r.fmt ≤ 4 ∧ 1 ≤ r.nelem.toNat ∧ r.nelem.toNat ≤ 2 ^ 39) }) ∧
      (∀ k b, b < 8 → k < 8 → k ≠ f → t.fmtReg k b = s.fmtReg k b) ∧ t.mem = s.mem ∧
      ∀ p ∈ t.dies, ∀ q ∈ p.2.l2, ∀ x ∈ q.2, viewOf (x.line * 128) ≠ some f

open Sys2Proof Sys2Proof.Machine Sys2Proof.Claims in
/-- R358 to R363, R370, R372: GO starts pass 0, or reports why it cannot; a completed pass writes its result and starts the next one,
or ends the run; an enforced atomic that has waited 1 ms lets the atomics of its location go; an interval of the link grid writes
its snapshot. -/
def Obligations.ReplayRuns : Prop :=
  ∀ s : State,
    (s.replay.busy = true → exec .replayRunGo s = .next s) ∧
    (s.replay.busy = false → s.ctx (s.replay.cfg.toNat % 64) = none →
      exec .replayRunGo s = .next { s with replay := { s.replay with rcode := 1 } }) ∧
    (∀ c x y code, s.replay.busy = false → s.ctx (s.replay.cfg.toNat % 64) = some c → x = freshPass s →
      (x.dropPages c).replayAccept = (y, code) → (code = 0 → exec .replayRunGo s = .next y) ∧
      (code ≠ 0 → ∃ t, exec .replayRunGo s = .next t ∧ t.replay.busy = false ∧ t.replay.rcode = code)) ∧
    (s.replay.busy = false ∨ s.replay.ended = none → exec .replayPassComplete s = .next s) ∧
    (∀ code x, s.replay.busy = true → s.replay.ended = some code → s.replay.pass = 0 →
      x = { s with replay := { s.replay with fprint := fingerprint s.replay.prints } } →
      (code ≠ 0 ∨ s.replay.npass = 0 → exec .replayPassComplete s =
        .next (x.putResult (passCounts s) (x.replay.status (code != 0)) (fingerprint s.replay.prints).toNat).replayStop) ∧
      (code = 0 → s.replay.npass ≠ 0 → exec .replayPassComplete s =
        .next ((x.putResult (passCounts s) (x.replay.status false) (fingerprint s.replay.prints).toNat).passStart 1))) ∧
    (∀ code x, s.replay.busy = true → s.replay.ended = some code → s.replay.pass ≠ 0 → noneMissing s.replay →
      x = (if fingerprint s.replay.prints = s.replay.fprint then s else s.mismatch 2) →
      (code ≠ 0 ∨ s.replay.npass ≤ s.replay.pass → exec .replayPassComplete s =
        .next (x.putResult (passCounts s) (x.replay.status (code != 0)) (fingerprint s.replay.prints).toNat).replayStop) ∧
      (code = 0 → s.replay.pass < s.replay.npass → exec .replayPassComplete s =
        .next ((x.putResult (passCounts s) (x.replay.status false) (fingerprint s.replay.prints).toNat).passStart
          (s.replay.pass + 1)))) ∧
    (∀ key, s.replay.busy = false ∨ (∀ p ∈ s.replay.waits, p.1 ≠ key) → exec (.replayEnforceTimeout key) s = .next s) ∧
    (∀ key p, s.replay.busy = true → p ∈ s.replay.waits → p.1 = key → exec (.replayEnforceTimeout key) s =
      .next { s with replay := { s.replay with
        mism := true, mkind := if s.replay.mkind = 0 then 4 else s.replay.mkind, freed := s.replay.freed ++ [key]
        waits := s.replay.waits.filter fun p => p.1 ≠ key } }) ∧
    (s.grid.ivl = 0 ∨ s.grid.nsnap = 0 → exec .linkGridSnapshot s = .next s) ∧
    (s.grid.ivl ≠ 0 → s.grid.nsnap ≠ 0 → ∃ t bs, exec .linkGridSnapshot s = .next t ∧ bs.length = 262720 ∧
      bs.take 16 = toBytes 8 s.time ++ toBytes 8 s.grid.seq ∧
      t.grid = { s.grid with seq := (s.grid.seq + 1) % 2 ^ 64, last := s.time } ∧
      t.mem = (s.dmaWrite (s.grid.grid.toNat + 262720 * (s.grid.seq % s.grid.nsnap)) bs).mem)

namespace Sys2Proof.Claims

open Sys2Proof Sys2Proof.Machine

/-- A command's context: ARG1[5:0] (R313). -/
def argCtx (s : State) : Nat := (s.arg 1).toNat % 64

/-- A command goes on in the state x and completes with a code and a value (R313). -/
def Answers (i : Instr) (s x : State) (code value : Nat) : Prop :=
  exec i s = .next { x with host := { x.host with busy := false, code := BitVec.ofNat 8 code, value := BitVec.ofNat 32 value } }

/-- The descriptor at ARG0 (R315). -/
def argDesc (s : State) : Ctx := { desc := s.bytes (s.arg 0).toNat 128, descPA := (s.arg 0).toNat }

/-- An address space of a live context (R313). -/
def asidUsed (s : State) (a : Nat) : Prop := ∃ p ∈ s.ctxs, ∃ x, p.2 = some x ∧ x.asid = a

/-- An access of a context holds a translation that it made (R323): an executing copy or a planned collective, an atomic on its
way, stores that a lashed pair holds, a sample before its completion point. -/
def holdsPlaces (s : State) (n : Nat) : Prop :=
  (∃ p ∈ s.engines, ∃ o ∈ p.2.ops, o.ctx = n ∧ (2 ≤ o.st ∨ o.coll ≠ none)) ∨ (∃ r, .atomicAtHome r ∈ s.agenda ∧ r.ctx = n) ∨
    (∃ p ∈ s.slots, p.2.ctx = n ∧ p.2.heldSt ≠ []) ∨ ∃ p ∈ s.regions, p.1 / 16 = n ∧ ∃ r, p.2 = some r ∧ r.smps ≠ []

/-- The strand entry of STRAND_WIRE and STRAND_FREE (R328). -/
def argStrand (s : State) : Nat := strandKey (argCtx s) ((s.arg 2).toNat % 65536)

/-- A bad ring of STRAND_WIRE: its offset, its size code, its depth and its bits above (R328). -/
def badRing (a : Word) : Prop :=
  a.toNat / 2 ^ 27 ≠ 0 ∨ 5 < a.toNat / 2 ^ 20 % 8 ∨ a.toNat / 2 ^ 23 % 16 = 0 ∨ 10 < a.toNat / 2 ^ 23 % 16 ∨
    a.toNat % 2 ^ 20 % (8 * 2 ^ (a.toNat / 2 ^ 20 % 8)) ≠ 0 ∨
    0xF4000 < a.toNat % 2 ^ 20 + 2 ^ (a.toNat / 2 ^ 23 % 16) * (8 * 2 ^ (a.toNat / 2 ^ 20 % 8))

/-- A context is quiesced (R348). -/
def isQuiesced (s : State) (n : Nat) : Prop := ∃ c, s.ctx n = some c ∧ c.quiesced = true

end Sys2Proof.Claims

open Sys2Proof Sys2Proof.Machine Sys2Proof.Claims in
/-- R313 to R318, R323 to R325, R327 to R329: the commands that create and end contexts, invalidate translations, open and close
launch windows, set the service ring, the duties and the device's number, lose a device, and wire and free strands: each with its
codes, in the order of the codes' checks. -/
def Sys2Proof.Claims.HostCommands : Prop :=
  ∀ s : State,
    (∀ n c, n = argCtx s → c = argDesc s →
      (s.ctx n ≠ none → Answers .ctxCreate s s 1 0) ∧
      (s.ctx n = none → (s.arg 0).toNat % 64 ≠ 0 ∨ inHbm (s.arg 0).toNat 128 = false → Answers .ctxCreate s s 3 0) ∧
      (s.ctx n = none → (s.arg 0).toNat % 64 = 0 → inHbm (s.arg 0).toNat 128 = true →
        (asidUsed s c.asid → Answers .ctxCreate s s 2 0) ∧
        (¬ asidUsed s c.asid → s.badDesc c = true → Answers .ctxCreate s s 3 0) ∧
        (¬ asidUsed s c.asid → s.badDesc c = false → Answers .ctxCreate s (s.createCtx n c) 0 0 ∧
          (s.createCtx n c).ctx n = some c ∧ (s.settab c = [] → (s.createCtx n c).regions = s.regions)))) ∧
    (∀ n, n = argCtx s → (s.ctx n = none → Answers .ctxKill s s 1 0 ∧ Answers .inval s s 1 0 ∧ Answers .launchOpen s s 1 0 ∧
        Answers .strandWire s s 1 0 ∧ Answers .strandFree s s 1 0) ∧
      ∀ c, s.ctx n = some c →
        Answers .ctxKill s (s.killCtx n) 0 0 ∧
        (holdsPlaces s n → exec .inval s = .next ((s.pairsExchange n).post .inval)) ∧
        (¬ holdsPlaces s n → s.arg 2 = 0 → Answers .inval s { s with tlb := s.tlb.filter fun e => e.asid ≠ c.asid } 0 0) ∧
        (¬ holdsPlaces s n → s.arg 2 ≠ 0 → Answers .inval s { s with tlb := s.tlb.filter fun e =>
          ¬ (e.asid = c.asid ∧ e.page < (s.arg 0).toNat + (s.arg 2).toNat ∧ (s.arg 0).toNat < e.page + e.size) } 0 0) ∧
        (s.freeWin = none → Answers .launchOpen s s 2 0) ∧
        (∀ i l, s.freeWin = some i → l = (s.arg 3).toNat % 16 →
          (l = 0 ∨ 10 < l → Answers .launchOpen s s 3 0) ∧
          (1 ≤ l → l ≤ 10 → Answers .launchOpen s
            (s.modWin i fun _ => ⟨true, n, (s.arg 2).toNat % 4, l, 0, 0, 0, 0, 0, []⟩) 0 i)) ∧
        (c.strn ≤ (s.arg 2).toNat % 65536 ∨ s.strand? (argStrand s) ≠ none → Answers .strandWire s s 2 0) ∧
        ((s.arg 2).toNat % 65536 < c.strn → s.strand? (argStrand s) = none →
          (s.wireEnd c (s.arg 3) = none ∨ s.wireEnd c (s.arg 4) = none → Answers .strandWire s s 3 0) ∧
          (∀ a b, s.wireEnd c (s.arg 3) = some a → s.wireEnd c (s.arg 4) = some b →
            (badRing (s.arg 5) → Answers .strandWire s s 4 0) ∧
            (¬ badRing (s.arg 5) → ∀ r, r = s.freeReuse n ((s.arg 2).toNat % 65536) → Answers .strandWire s
              (s.putStrand (freshStrand n ((s.arg 2).toNat % 65536) r ((s.arg 5).toNat / 2 ^ 20 % 8)
                ((s.arg 5).toNat / 2 ^ 23 % 16) a b ((s.arg 5).toNat % 2 ^ 20))) 0 r))) ∧
        (s.strand? (argStrand s) = none → Answers .strandFree s s 2 0) ∧
        (∀ x, s.strand? (argStrand s) = some x → (x.side false).live = false → (x.side true).live = false →
          Answers .strandFree s (s.freeStrand x) 0 0)) ∧
    ((s.arg 1).toNat < 256 → (s.win (s.arg 1).toNat).isOpen = true →
      Answers .launchClose s (s.modWin (s.arg 1).toNat fun w => { w with isOpen := false }) 0 0) ∧
    (256 ≤ (s.arg 1).toNat ∨ (s.win (s.arg 1).toNat).isOpen = false → Answers .launchClose s s 1 0) ∧
    ((s.arg 0).toNat % 64 ≠ 0 → Answers .svcRing s s 1 0) ∧
    ((s.arg 0).toNat % 64 = 0 → ∀ l, l = (s.arg 2).toNat % 16 → (l = 0 ∨ 10 < l → Answers .svcRing s s 2 0) ∧
      (1 ≤ l → l ≤ 10 → Answers .svcRing s ({ s with host := { s.host with
        ring := some (s.arg 0).toNat, ringL := l, sent := 0, used := 0 } }.svcRun s.host.waiting) 0 0)) ∧
    Answers .duty s { s with host := { s.host with duty := (s.arg 0).setWidth 4 } } 0 0 ∧
    (∀ d, d = (s.arg 0).toNat % 65536 →
      ((∀ p ∈ s.ctxs, ∀ c, p.2 = some c → s.inFabric c d = false) → Answers .devLost s s 1 0) ∧
      ((∃ p ∈ s.ctxs, ∃ c, p.2 = some c ∧ s.inFabric c d = true) → Answers .devLost s (s.loseDevice d) 0 0)) ∧
    (∀ no pa, no = (s.arg 0).toNat % 4096 → pa = (s.arg 1).toNat →
      (no = 0 → Answers .lyongSetup s s 1 0) ∧
      (1 ≤ no →
        (pa % 64 ≠ 0 ∨ inHbm pa 8192 = false → Answers .lyongSetup s s 2 0) ∧
        (pa % 64 = 0 → inHbm pa 8192 = true →
          ((∃ p ∈ s.ctxs, ∃ c, p.2 = some c ∧ c.fabgrp ≠ 0) → Answers .lyongSetup s s 3 0) ∧
          ((∀ p ∈ s.ctxs, ∀ c, p.2 = some c → c.fabgrp = 0) → ∃ t, exec .lyongSetup s = .next t ∧ t.host.devNo = no ∧
            t.host.code = 0 ∧ t.host.busy = false ∧ t.host.ports = (s.arg 2).setWidth 16 ∧
            t.host.up = s.host.up &&& (s.arg 2).setWidth 16 ∧ t.mem = s.mem ∧
            ∀ i m, (i, m) ∈ t.host.routes ↔ i < 4096 ∧ m = ofBytes (s.bytes (pa + 2 * i) 2) ∧ m ≠ 0)))) ∧
    Answers .unknownCommand s s 0xFF 0

open Sys2Proof Sys2Proof.Machine Sys2Proof.Claims in
/-- R344, R348 to R351: QUIESCE stops a context's units, waits until it is quiet and freezes it; IMAGE_WRITE writes a quiesced
context's image; IMAGE_RESTORE creates a context from one, or reports why it cannot; UNQUIESCE releases; PREEMPT marks a running
unit; THAW thaws a graph; DBG_MAP shows a slot of this device in a quad in service that is empty, or holds a task or an activation
of the context, and answers 1 for any other (that a slot which another context holds is not shown is the model's choice: log
16). -/
def Sys2Proof.Claims.StateCommands : Prop :=
  ∀ s : State,
    ((∃ n ∈ bitmapOf (s.arg 0), s.ctx n = none) → Answers .quiesce s s 1 0) ∧
    (∀ n c x c1, bitmapOf (s.arg 0) = [n] → s.ctx n = some c → c.quiesced = false → x = s.quiesceStep n → x.ctx n = some c1 →
      c1.quiesced = false → (x.quiet n = false → exec .quiesce s = .next { x with agenda := x.agenda ++ [.quiesce] }) ∧
      (x.quiet n = true → ∃ t, exec .quiesce s = .next t ∧ t.host.busy = false ∧ t.host.code = 0 ∧
        t.ctx n = some { c1 with quiesced := true, frozeAt := x.time } ∧ t.mem = x.mem ∧ t.slots = x.slots)) ∧
    ((∃ n ∈ bitmapOf (s.arg 0), ¬ isQuiesced s n) → Answers .unquiesce s s 1 0) ∧
    (∀ n c, bitmapOf (s.arg 0) = [n] → s.ctx n = some c → c.quiesced = true → c.aborted = [] →
      Answers .unquiesce s (s.setCtx n (some { c with quiesced := false, stopped := false })) 0 0) ∧
    (∀ n c a, bitmapOf (s.arg 0) = [n] → s.ctx n = some c → c.quiesced = true → c.aborted = [a] →
      Answers .unquiesce s ((s.setCtx n (some { c with quiesced := false, stopped := false, aborted := [] })).releaseCopy n a) 0 0) ∧
    (∀ n, n = (s.arg 2).toNat % 64 → (¬ isQuiesced s n → Answers .imageWrite s s 1 0) ∧
      ∀ c bs, s.ctx n = some c → c.quiesced = true → bs = s.imageBytes n c →
        ((s.arg 0).toNat % 64 ≠ 0 ∨ (s.arg 1).toNat < bs.length ∨ inHbm (s.arg 0).toNat bs.length = false →
          Answers .imageWrite s s 2 0) ∧
        ((s.arg 0).toNat % 64 = 0 → bs.length ≤ (s.arg 1).toNat → inHbm (s.arg 0).toNat bs.length = true →
          Answers .imageWrite s (s.outsideWrite (s.arg 0).toNat bs) 0 bs.length)) ∧
    (∀ n pa len, n = (s.arg 3).toNat % 64 → pa = (s.arg 0).toNat → len = (s.arg 1).toNat →
      (inHbm pa len = false ∨ imageParse (s.bytes pa len) = none → Answers .imageRestore s s 1 0) ∧
      ∀ l c, inHbm pa len = true → imageParse (s.bytes pa len) = some l →
        c = s.descAt (if s.arg 2 = 0 then pa + ((l.find? fun x => x.1 == 2).map fun x => x.2.1).getD 0 else (s.arg 2).toNat) →
        (s.nameUsed n c.asid = true → Answers .imageRestore s s 4 0) ∧
        (s.nameUsed n c.asid = false →
          (inHbm c.descPA 128 = false ∨ s.badBase c = true → Answers .imageRestore s s 1 0) ∧
          (inHbm c.descPA 128 = true → s.badBase c = false →
            (∀ t, s.restoreAll n c (s.arg 2 == 0) l = .ok t → Answers .imageRestore s t 0 0) ∧
            (∀ code, s.restoreAll n c (s.arg 2 == 0) l = .error code → Answers .imageRestore s s code 0)))) ∧
    (∀ n, n = argCtx s →
      (∀ a u b, s.units = a ++ u :: b → (∀ y ∈ a, y.is n (s.arg 0) = false ∨ y.stopped = true) → u.is n (s.arg 0) = true →
        u.stopped = false → Answers .preempt s { s with units :=
          a ++ { u with preempt := some ((s.arg 2).toNat, (s.arg 3).getLsbD 0) } :: b } 0 0) ∧
      ((∀ y ∈ s.units, y.is n (s.arg 0) = false ∨ y.stopped = true) → Answers .preempt s s 1 0) ∧
      (s.ctx n = none → Answers .thaw s s 2 0 ∧ Answers .dbgMap s s 1 0) ∧
      ∀ c, s.ctx n = some c →
        ((s.arg 2).toNat % 2 ^ 32 ∉ c.frozen → Answers .thaw s s 1 0) ∧
        ((s.arg 2).toNat % 2 ^ 32 ∈ c.frozen → Answers .thaw s
          (s.setCtx n (some { c with frozen := c.frozen.filter fun g => g ≠ (s.arg 2).toNat % 2 ^ 32 })) 0 0) ∧
        (∀ w, w = s.windowSlot ((s.arg 0).toNat % 65536) →
          (s.taOk c (s.arg 0) = true → s.devOf (s.arg 0) = 0 →
            w.st = .idle ∨ w.ctx = n ∨ (s.isRxfull ((s.arg 0).toNat % 65536) = true ∧ w.pkt.ctxn = n) → Answers .dbgMap s
              { s with host := { s.host with dbg := some ((s.arg 0).toNat % 65536) } } 0 0) ∧
          (s.taOk c (s.arg 0) = false ∨ s.devOf (s.arg 0) ≠ 0 ∨
            (w.st ≠ .idle ∧ w.ctx ≠ n ∧ ¬ (s.isRxfull ((s.arg 0).toNat % 65536) = true ∧ w.pkt.ctxn = n)) →
              Answers .dbgMap s s 1 0)))

/-- The commands of the host (R313 to R329, R344 to R351): both parts hold. -/
def Obligations.Commands : Prop := Sys2Proof.Claims.HostCommands ∧ Sys2Proof.Claims.StateCommands

namespace Sys2Proof.Claims

open Sys2Proof Sys2Proof.Machine

/-- The words of the instruction at an address stand, clean, in QLM that the slot may read (R36, R39, R185). -/
def HoldsWords (s : State) (ta : Nat) (pc : Word) (ws : List W32) : Prop :=
  pc.toNat % 4 = 0 ∧ (∃ w rest, ws = w :: rest ∧ ws.length = wordCount w) ∧
    ∀ k w, ws[k]? = some w → ∀ a, a = pc + BitVec.ofNat 64 (4 * k) → a.toNat / 2 ^ 56 = 0 ∧ inQlmBlock a = true ∧
      ∃ key, s.protect ta a 4 false = some (some key) ∧ s.pois key 4 = false ∧ BitVec.ofNat 32 (ofBytes (s.bytes key 4)) = w

/-- A slot as it executes the instruction of the words at its PC, which its fetch buffer holds (R36, R335). -/
def shows (sl : Slot) (ta : Nat) (ws : List W32) : Slot :=
  { sl with words := ws, ilen := 4 * ws.length, spl := false, fbuf := [sl.bufEntry (taHnd ta) sl.pc ws []] }

/-- The event or instruction that an instruction word stands for: what does not decode raises ILLEGAL (R58). -/
noncomputable def meantBy (ws : List W32) : Instr := match decodeWords ws with | .ok i => i | .error _ => .illegalWord

end Sys2Proof.Claims

open Sys2Proof Sys2Proof.Machine Sys2Proof.Claims in
/-- 02_encoding.md, "Worked encodings": the listing's words decode to the instructions that it assembles. -/
def Obligations.WordsDecode : Prop :=
  decodeWords [0x00E30A04] = .ok (.add 5 6 7) ∧
    decodeWords [0xFFA4920C] = .ok (.addi 9 9 (-3)) ∧
    decodeWords [0xFFC010A4] = .ok (.dbnz 8 (-2)) ∧
    decodeWords [0x00C29006, 0x80001240, 0x00000000] = .ok (.addX ⟨.rem 8 ⟨9, false⟩, ⟨5, true⟩, .reg ⟨6, false⟩⟩) ∧
    decodeWords [0x480AA807, 0x08000000, 0x00000000, 0xFFFF0000, 0xFFFF0000] =
      .ok (.andX ⟨.loc 20, ⟨21, false⟩, .lit 0xFFFF0000FFFF0000⟩) ∧
    decodeWords [0x00031815] = .ok (.spliceWord 5 12 6 0 0) ∧
    decodeWords [0x000000A8] = .ok .endTask

open Sys2Proof Sys2Proof.Machine Sys2Proof.Claims in
/-- R36, R40 to R58: the words of every well-formed instruction, with whatever follows them, decode to that instruction with every
operand, and so do their bytes; and words that decode begin with the encoding of the well-formed instruction they decode to. -/
def Obligations.EncodeDecodeAll : Prop :=
  (∀ i ws rest, i.wf = true → encode i = some ws → decodeWords (ws ++ rest) = .ok i ∧ decodeBytes (bytesOfWords (ws ++ rest)) = .ok i) ∧
    ∀ ws i, decodeWords ws = .ok i → i.wf = true ∧ ∃ us rest, encode i = some us ∧ ws = us ++ rest

open Sys2Proof Sys2Proof.Machine Sys2Proof.Claims in
/-- R11, R36 to R38, R58: a slot that alone may move, at no boundary of its task, executes the instruction that the words at its PC
stand for, in the state with that instruction shown; then it decodes ahead and time passes. A move of an event executes it, and time
passes, in which a gang that a thermal move has stalled spends no budget. With no
move, time passes. That one move is a step, and which one, is the model's choice (log 3). -/
def Obligations.StepRunsDecoded : Prop :=
  ∀ s : State,
    (∀ ta ws, s.moves = [.run ta] → s.boundary ta = none → (s.slot ta).sptBad = none → (s.slot ta).fbuf = [] →
      HoldsWords s ta (s.slot ta).pc ws → ∀ x t, x = { s with
        cur := ta, slots := Store.set s.slots ta (shows (s.slot ta) ta ws) } →
        exec (meantBy ws) x = .next t →
        step s = .next (s.finish t (.run ta)) ∧
        ((s.slot ta).paired = false → s.finish t (.run ta) = (t.decodeAhead ta).elapse)) ∧
    (∀ ws i, decodeWords ws = .ok i → meantBy ws = i) ∧
    (∀ n i t, s.moves = [.event n] → s.agenda[n]? = some i → exec i { s with agenda := s.agenda.eraseIdx n } = .next t →
      step s = .next (s.finish t (.event n)) ∧ (t.ras.moved = s.ras.moved → s.finish t (.event n) = t.elapse)) ∧
    (∀ i t, s.moves = [.act i] → exec i s = .next t → step s = .next t.elapse) ∧
    (∀ ta i t, s.moves = [.run ta] → s.boundary ta = some i → exec i (({ s with cur := ta } : State).showNext ta) = .next t →
      step s = .next (s.finish t (.run ta))) ∧
    (s.moves = [] → step s = .next s.elapse)

open Sys2Proof Sys2Proof.Machine Sys2Proof.Claims in
/-- R8, R13, R316 and R330 with the layouts' After reset columns: after power-on reset no context and no task exists, the
registers that have a reset value hold it, and memory lists nothing. That a quad table entry maps a quad to itself, in service, and
that memory which nothing has written reads 0, are the model's choices (log 1, log 2). -/
def Obligations.ResetState : Prop :=
  Memory.wf State.reset.mem = true ∧ (∀ k, Memory.get State.reset.mem k = 0) ∧
    (∀ n, State.reset.ctx n = none) ∧ (∀ ta, (State.reset.slot ta).st = .idle) ∧
    (∀ f b, f < 8 → b < 8 → State.reset.fmtReg f b = ⟨0, 0, 0, 0, 0, false⟩) ∧
    (∀ i, State.reset.arg i = 0) ∧ State.reset.host.busy = false ∧ State.reset.host.code = 0 ∧ State.reset.host.value = 0 ∧
    (∀ i, State.reset.win i = ⟨false, 0, 0, 0, 0, 0, 0, 0, 0, []⟩) ∧
    State.reset.trace.en = false ∧ State.reset.trace.head = 0 ∧ State.reset.trace.tail = 0 ∧ State.reset.trace.lost = 0 ∧
    State.reset.replay.busy = false ∧ State.reset.replay.rcode = 0 ∧ State.reset.replay.cfg = 0 ∧
    State.reset.grid.ivl = 0 ∧ State.reset.grid.seq = 0 ∧
    (∀ d i, ((State.reset.bank d).rec' i).valid = false) ∧
    (∀ b, State.reset.retBlk b = ⟨0, 0, 0, 0, 0, 0⟩) ∧
    (∀ r, (State.reset.row r).base = 6 ∧ (State.reset.row r).thcap = 5 ∧ (State.reset.row r).icap = 5 ∧ (State.reset.row r).uven = false) ∧
    (∀ d v, v < 512 → State.reset.present d v = true ∧ State.reset.physOf d v = v)

open Sys2Proof Sys2Proof.Machine Sys2Proof.Claims in
/-- R7, R38: no instruction and no event stops the machine, whatever the state: a fault of the spec freezes a slot and is a next
state. So no step stops. -/
def Obligations.NothingStops : Prop :=
  (∀ i s, ∃ t, exec i s = .next t) ∧ ∀ s, ∃ t, step s = .next t

open Sys2Proof Sys2Proof.Machine Sys2Proof.Claims in
/-- Memory's list of bytes keeps its one canonical form in every step (log 1): addresses rise, and no byte is listed that an unlisted
address reads as. -/
def Obligations.MemoryStaysCanonical : Prop :=
  ∀ s t : State, Memory.wf s.mem = true → step s = .next t → Memory.wf t.mem = true

open Sys2Proof Sys2Proof.Machine Sys2Proof.Claims in
/-- Where each form of the barriers, the atomics, L2 control, fences and messages, copies, tags, collectives and strands
completes, and each event of barriers, atomics and strands (R181, R182, R195 to R199, R216, R221 to R225, R233 to R239, R243 and
R254 to R266): for every state and every operand that meet the conditions, `exec` answers a next state, with the effect named. -/
def Obligations.SystemFormsComplete : Prop :=
  ∀ s : State, Solo s →
    (∀ (n : BitVec 3) (b : BarSlot), s.bar n = some b →
      (∀ x y : Src, FullAll s [x, y] → ∃ f, exec (.barinit n x y) s = .next (ended .s (s.modMyBar n f)) ∧
        ∀ c : BarSlot, c.arr = 0 → ∃ m, f c = { c with memb := m, pois := false, cause := 0, ackx := 0, ackn := 0 }) ∧
      (Clear s → ∃ t, exec (.bararv n) s = .next t ∧ t.me.pc = s.nextPc ∧
        t.agenda = s.agenda ++ [.barrierArrival s.me.ctx s.me.uid n.toNat s.me.rank (s.lph n)]) ∧
      (∀ (d : Reg) (t : Bool), Free s d → b.waits = [] → b.pois = false → b.ph = s.lph n →
        Gives (.barwait d n t) s d 0 ∧ (s.me.barSent = true → Gives (.barsync d n t) s d 0)) ∧
      (∀ a : Src, Full s a.reg → ∃ f, exec (.barack n a) s = .next (ended .s (s.modMyBar n f)) ∧
        ∀ c : BarSlot, c.ackx + (s.me.greg a.reg).val.toNat % 65536 < 65536 →
          f c = { c with ackx := c.ackx + (s.me.greg a.reg).val.toNat % 65536 }) ∧
      (∃ f, exec (.barpois n) s = .next (ended .s (s.modMyBar n f)) ∧ ∀ c : BarSlot, (f c).pois = true ∧ (f c).cause = 3) ∧
      (∀ d : Reg, Free s d → ∃ v t, exec (.barstat d n) s = .next t ∧ t.me.pc = s.nextPc ∧
        (d ≠ 0 → t.me.greg d = ⟨v, .full, false⟩))) ∧
    (∀ ctx uid n rank phase, ∃ f, exec (.barrierArrival ctx uid n rank phase) s = .next (s.modBar ctx uid n f) ∧
      ∀ c : BarSlot, c.pois = true → f c = c) ∧
    (∀ ctx uid n, ∃ f, exec (.barrierAck ctx uid n) s = .next (s.modBar ctx uid n f) ∧ ∀ c : BarSlot, c.pois = true → f c = c) ∧
    (Clear s →
      (∀ e ∈ amoTable, ∀ o : AmoOp, FullAll s [o.a, o.b] → Takes s o.dst → (o.rl = true → Released s o.sc) →
        ((s.me.greg o.a.reg).val + o.off.signExtend 64).toNat % (o.ty.width / 8) = 0 →
        ∀ u key, AmoPlaced s ((s.me.greg o.a.reg).val + o.off.signExtend 64) (o.ty.width / 8) u key →
        ∃ t r, exec (e.1 o) s = .next t ∧ t.me.pc = s.nextPc ∧ t.agenda = u.agenda ++ [.atomicAtHome r] ∧ r.fn = e.2 ∧ r.key = key) ∧
      (∀ o : CasOp, FullAll s [o.a, o.b, o.c] → Takes s o.dst → (o.rl = true → Released s o.sc) →
        ((s.me.greg o.a.reg).val + o.off.signExtend 64).toNat % (o.ty.width / 8) = 0 →
        ∀ u key, AmoPlaced s ((s.me.greg o.a.reg).val + o.off.signExtend 64) (o.ty.width / 8) u key →
        ∃ t r, exec (.amoCas o) s = .next t ∧ t.me.pc = s.nextPc ∧ t.agenda = u.agenda ++ [.atomicAtHome r] ∧ r.fn = .cas ∧
          r.key = key)) ∧
    (∀ r : AmoReq, s.replay.busy = false → r.key < 2 ^ 64 →
      (s.pois r.key (r.ty.width / 8) = false → ∃ new old, exec (.atomicAtHome r) s =
        .next ((s.putBytes r.key (toBytes (r.ty.width / 8) new)).post (.atomicReturn r old false))) ∧
      (s.pois r.key (r.ty.width / 8) = true → ∃ t, exec (.atomicAtHome r) s = .next t ∧ t.mem = s.mem ∧
        .atomicReturn r 0 true ∈ t.agenda)) ∧
    (∀ (r : AmoReq) (old : Word) (d : Reg), (s.slot r.req.ta).uid = r.req.uid → r.req.uid ≠ 0 → (∀ p ∈ s.agreed, p.1 ≠ r.req.uid) →
      (r.dest = .none → exec (.atomicReturn r old false) s = .next (s.modSlot r.req.ta fun sl => { sl with stq := sl.stq - 1 })) ∧
      (r.dest = .loc d → exec (.atomicReturn r old false) s = .next (s.modSlot r.req.ta fun sl => sl.setG d ⟨old, .full, false⟩))) ∧
    (∀ (d : Reg) (a b : Src), Settled s → Free s d → FullAll s [a, b] →
      (∀ (w : BitVec 4) (len : Nat) (u : State) (pages : List (Nat × Nat)), len = (s.me.greg b.reg).val.toNat →
        (s.me.greg a.reg).val.toNat % 128 = 0 → len % 128 = 0 → len ≠ 0 →
        s.pinPages (some s.cur) s.myCtx (rangePages (s.me.greg a.reg).val.toNat len) = (u, .ok pages) →
        ∃ (v : Word) (y : State), exec (.l2pin d a b w) s = .next (ended .s (y.putG d v)) ∧ (y = u ∨ ∃ i r, y = u.setRetain i r)) ∧
      (∀ r, (s.me.greg a.reg).val.toNat < 16 → retained s (s.me.greg a.reg).val.toNat = some r → r.ctx = s.me.ctx →
        exec (.l2unpin d a) s = .next (ended .s ((s.setRetain (s.me.greg a.reg).val.toNat none).putG d 0)) ∧
        ∀ c : Bool, ∃ (v : Word) (y : State), exec (.l2stat d a c) s = .next (ended .s (y.putG d v)) ∧ v.toNat = (r.miss * 2 ^ 32 + r.hits) % 2 ^ 64 ∧
          y = if c then s.setRetain (s.me.greg a.reg).val.toNat (some { r with hits := 0, miss := 0 }) else s) ∧
      (∃ (u : State) (n : Nat), exec (.l2flush d a b) s = .next (ended .s (u.putG d (BitVec.ofNat 64 n))) ∧
        (u, n) = s.flushPages s.myCtx ((s.me.greg a.reg).val.toNat + (s.me.greg b.reg).val.toNat - 1)
          (rangePages (s.me.greg a.reg).val.toNat (s.me.greg b.reg).val.toNat))) ∧
    (∀ sc : Scope, Settled s → s.me.pm = 0 → exec (.fence sc) s = .next (ended .s s)) ∧
    (∃ t, exec .ifence s = .next t ∧ t.me.pc = s.nextPc ∧ (t.quad (taQuad s.cur)).icache = []) ∧
    (Settled s → s.mailOut s.cur = false → s.me.copn = 0 → exec .drain s = .next (ended .s s)) ∧
    (∀ (a b c e : Src) (imm : W32) (core : Nat), Clear s → taHnd s.cur = false → FullAll s [a, b, c, e] →
      Named s (s.me.greg a.reg).val → (s.me.greg a.reg).val.getLsbD 2 = true → core = (s.me.greg a.reg).val.toNat / 8 →
      (∀ i ∈ s.agenda, isMail (BitVec.ofNat 64 s.cur) (8 * core + 4) i = false) →
      s.me.sent = false → s.me.sending = false → (s.core core).held = [] →
      ∃ m : RxMsg, m.kind = 2 ∧ m.value = (s.me.greg c.reg).val ∧ m.w2h = imm ∧ m.w3 = (s.me.greg e.reg).val ∧
        m.more = [(s.me.greg b.reg).val, BitVec.ofNat 64 s.me.ctx, 0, 0] ∧
        ((s.core core).rxFits m = true → exec (.sendam a b c e imm) s = .next (ended .s (s.rxPut core m)))) ∧
    (∀ (i : BitVec 3) (a : Src) (h : i.toNat < 7), Full s a.reg → exec (.cpset i a) s = .next (ended .v (s.modMe fun sl =>
      { sl with shadow := sl.shadow.set i.toNat (s.me.greg a.reg).val h }))) ∧
    (∀ d : Reg, Clear s → Free s d → ((s.eng (copyEngine s.cur)).ops.filter fun o => o.st == 1).length < 64 →
      ∃ (u : State) (o : EngOp), exec (.cpgo d) s = .next (ended .v (u.putG d (o.id.setWidth 64))) ∧ Launched s o o.id) ∧
    (∀ (d : Reg) (a : Src), Full s a.reg → Free s d →
      (∃ v, exec (.cpstat d a) s = .next (ended .v (s.putG d v)) ∧ (s.myOp (s.me.greg a.reg).val = none → v = 0)) ∧
      (∃ (u : State) (v : Word), exec (.cpabort d a) s = .next (ended .v (u.putG d v)) ∧ (v = 0 ↔ s.myOp (s.me.greg a.reg).val = none)) ∧
      (∀ c : Bool, (s.me.greg a.reg).val = 0 ∨ s.me.tagrdy &&& (s.me.greg a.reg).val ≠ 0 →
        ∃ (u : State) (v : Word), exec (.waitany d a c) s = .next (ended .s (u.putG d v)) ∧ v.toNat ≤ 64) ∧
      (∀ c : Bool, s.me.tagrdy &&& (s.me.greg a.reg).val = (s.me.greg a.reg).val →
        ∃ (u : State) (v : Word), exec (.waitall d a c) s = .next (ended .s (u.putG d v)) ∧ v &&& (s.me.greg a.reg).val = v) ∧
      (∃ v, Gives (.ffrdy d a) s d v ∧ v.toNat ≤ 64) ∧
      (exec (.tagclr a) s = .next (ended .s (s.modMe fun sl => sl.clearTags (s.me.greg a.reg).val))) ∧
      (∀ t : BitVec 6, Gives (.tagget d t) s d (s.me.tags[t.toNat].setWidth 64))) ∧
    (∀ (d : Reg) (a : Src) (u : State) (bs : List Byte), Clear s → Full s a.reg → Free s d →
      (s.me.greg a.reg).val.toNat % 64 = 0 → s.readRecord (s.me.greg a.reg).val 64 = .ok u bs →
      u.collOut u.me.ctx (recField bs 0x14 2 / 1024) (recField bs 0x14 2 % 1024) < 16 → ∀ x ∈ collTable,
      ∃ (y : State) (id : W32), exec (x.1 d a) s = .next (ended .v (y.putG d (id.setWidth 64))) ∧ y.me.copn = u.me.copn + 1) ∧
    (∀ (d : Reg) (a : Src), Full s a.reg → Free s d →
      (∀ (sz : BitVec 3) (l : BitVec 4) (off : Nat), Free s (d + 1) → taHnd s.cur = false →
        RingAt s (s.me.greg a.reg).val (8 * 2 ^ sz.toNat) (2 ^ l.toNat) off →
        ∃ (y : State) (v w : Word), exec (.sopen d a sz l) s = .next (ended .v ((y.putG d v).putG (d + 1) w))) ∧
      (∀ x, EndAt s (s.me.greg a.reg).val x false → Clear s → x.src.peer = 0 → x.credits ≠ 0 →
        (∀ b : Src, Full s b.reg → x.s = 0 →
          exec (.ssend d a (.g b)) s = .next (ended .v (sentItem s x d ((s.me.greg b.reg).val.setWidth 2048) []))) ∧
        (∀ v : VReg, s.me.vpois.getLsbD v.toNat = false → exec (.ssend d a (.v v)) s = .next (ended .v
          (sentItem s x d (BitVec.ofNat 2048 ((s.me.v[v.toNat]'(v.isLt)).toNat % 2 ^ (8 * x.size))) []))) ∧
        (∀ (b : Src) (y : Strand) (sink : Bool), taHnd s.cur = false → Full s b.reg → EndAt s (s.me.greg b.reg).val y sink →
          x.key ≠ y.key → (sink = true → y.claims = []) → exec (.spass d a b) s = .next (ended .v ((sentItem s x d
            ((s.me.greg b.reg).val.setWidth 2048) [(x.nsend, (s.me.greg b.reg).val)]).depart y sink x.snk.dev)))) ∧
      (∀ x, EndAt s (s.me.greg a.reg).val x true → x.s = 0 → Free s (d + 1) → s.me.sent = false → s.me.sending = false →
        (∀ y, y = (((s.modMe fun sl => (sl.pendG d).pendG (d + 1)).putStrand
            { x with claims := x.claims ++ [⟨⟨s.cur, s.me.uid⟩, d, none, s.ctr⟩] }).serve x.key) →
          y.me.sending = false → exec (.srecv d a .g) s = .next (ended .v y)) ∧
        (x.claims ≠ [] → exec (.spoll d a .g) s = .next (ended .v ((s.putG d 1).putG (d + 1) 0))) ∧
        (x.claims = [] → x.ntake < x.ndeliv → s.ringHeld x = false →
          ∀ t y, s.takeOne x ⟨⟨s.cur, s.me.uid⟩, d, none, s.ctr⟩ = (t, y) →
          exec (.spoll d a .g) s = .next (ended .v ((t.putStrand y).serve y.key)))) ∧
      (∀ (b : Src) (x : Strand) (m : StrandMove) (l : List StrandMove), taHnd s.cur = false → Full s b.reg →
        (s.me.greg a.reg).val.getLsbD 16 = false → s.handleOk (s.me.greg a.reg).val = true →
        s.strandOf s.me.ctx (s.me.greg a.reg).val = some x → x.idx < 65536 → x.src.st = 1 → x.src.holder = s.me.uid →
        x.moves = m :: l → m.sink = false → m.accepted = false →
        exec (.saccept d a b) s = .next (ended .v ((s.bindEnd x false 0).putG d (peerStatus x.src.peer)))) ∧
      (∀ x sink, EndAt s (s.me.greg a.reg).val x sink →
        (taHnd s.cur = false → exec (.sclose a) s = .next (ended .v (s.closeEnd x sink))) ∧
        (∀ t : BitVec 6, ∃ y, exec (.swatch a t) s = .next (ended .v y)) ∧
        (sink = false → x.snk.dev = 0 → x.nsend ≤ x.ndeliv →
          exec (.sflush d a) s = .next (ended .v (s.putG d (peerStatus x.src.peer))))) ∧
      (s.handleOk (s.me.greg a.reg).val = true → ∃ w, exec (.sstat d a) s = .next (ended .v (s.putG d w)))) ∧
    (∀ ctx idx x, s.strand? (strandKey ctx idx) = some x →
      (∀ it, x.src.dev = 0 → x.snk.dev = 0 → x.snk.st < 2 → exec (.strandItemArrival ctx idx it) s =
        .next ((s.putStrand { x with arrived := x.arrived ++ [it] }).serve x.key)) ∧
      (x.snk.dev = 0 → exec (.strandCreditReturn ctx idx) s =
        .next (s.putStrand { x with credits := min (x.credits + 1) (2 ^ x.l) })) ∧
      (x.moves = [] → x.snk.st < 2 → x.src.st < 2 → ∀ sink, (x.side sink).dev = 0 → exec (.strandMoveRequest ctx idx sink) s =
        .next (s.putStrand { x with moves := [{ sink := sink, accepted := false, stopped := false, old := (x.side sink).quad }] })) ∧
      (∃ ms g, exec (.strandStopperArrival ctx idx) s = .next ((s.putStrand
        { x with stoppers := x.stoppers.drop 1, moves := ms, gates := g }).serve x.key)) ∧
      (exec (.strandRouteSwitch ctx idx) s = .next ((s.putStrand { x with stoppers := x.stoppers ++ [true] }).post
        (.strandStopperArrival ctx idx))) ∧
      (x.src.dev = 0 → exec (.strandFray ctx idx) s = .next (s.peerGone x.key (x.src.st == 2) 2)))
end

