-- ==== Sys2Proof/Laws/State.lean ====
section
/-! SUPPORT. What each update of the state leaves in each field: one lemma per field and update. -/

namespace Sys2Proof.Machine

/-! `State.setSlot` -/

@[simp] theorem State.setSlot_cur (s : State) (ta : Nat) (x : Slot) : (s.setSlot ta x).cur = s.cur := rfl
@[simp] theorem State.setSlot_mem (s : State) (ta : Nat) (x : Slot) : (s.setSlot ta x).mem = s.mem := rfl
@[simp] theorem State.setSlot_poison (s : State) (ta : Nat) (x : Slot) : (s.setSlot ta x).poison = s.poison := rfl
@[simp] theorem State.setSlot_time (s : State) (ta : Nat) (x : Slot) : (s.setSlot ta x).time = s.time := rfl
@[simp] theorem State.setSlot_slots (s : State) (ta : Nat) (x : Slot) : (s.setSlot ta x).slots = Store.set s.slots ta x := rfl
@[simp] theorem State.setSlot_parked (s : State) (ta : Nat) (x : Slot) : (s.setSlot ta x).parked = s.parked := rfl
@[simp] theorem State.setSlot_agreed (s : State) (ta : Nat) (x : Slot) : (s.setSlot ta x).agreed = s.agreed := rfl
@[simp] theorem State.setSlot_cores (s : State) (ta : Nat) (x : Slot) : (s.setSlot ta x).cores = s.cores := rfl
@[simp] theorem State.setSlot_quads (s : State) (ta : Nat) (x : Slot) : (s.setSlot ta x).quads = s.quads := rfl
@[simp] theorem State.setSlot_dies (s : State) (ta : Nat) (x : Slot) : (s.setSlot ta x).dies = s.dies := rfl
@[simp] theorem State.setSlot_ctxs (s : State) (ta : Nat) (x : Slot) : (s.setSlot ta x).ctxs = s.ctxs := rfl
@[simp] theorem State.setSlot_units (s : State) (ta : Nat) (x : Slot) : (s.setSlot ta x).units = s.units := rfl
@[simp] theorem State.setSlot_ready (s : State) (ta : Nat) (x : Slot) : (s.setSlot ta x).ready = s.ready := rfl
@[simp] theorem State.setSlot_credits (s : State) (ta : Nat) (x : Slot) : (s.setSlot ta x).credits = s.credits := rfl
@[simp] theorem State.setSlot_engines (s : State) (ta : Nat) (x : Slot) : (s.setSlot ta x).engines = s.engines := rfl
@[simp] theorem State.setSlot_strands (s : State) (ta : Nat) (x : Slot) : (s.setSlot ta x).strands = s.strands := rfl
@[simp] theorem State.setSlot_regions (s : State) (ta : Nat) (x : Slot) : (s.setSlot ta x).regions = s.regions := rfl
@[simp] theorem State.setSlot_tlb (s : State) (ta : Nat) (x : Slot) : (s.setSlot ta x).tlb = s.tlb := rfl
@[simp] theorem State.setSlot_retain (s : State) (ta : Nat) (x : Slot) : (s.setSlot ta x).retain = s.retain := rfl
@[simp] theorem State.setSlot_fmts (s : State) (ta : Nat) (x : Slot) : (s.setSlot ta x).fmts = s.fmts := rfl
@[simp] theorem State.setSlot_host (s : State) (ta : Nat) (x : Slot) : (s.setSlot ta x).host = s.host := rfl
@[simp] theorem State.setSlot_trace (s : State) (ta : Nat) (x : Slot) : (s.setSlot ta x).trace = s.trace := rfl
@[simp] theorem State.setSlot_replay (s : State) (ta : Nat) (x : Slot) : (s.setSlot ta x).replay = s.replay := rfl
@[simp] theorem State.setSlot_grid (s : State) (ta : Nat) (x : Slot) : (s.setSlot ta x).grid = s.grid := rfl
@[simp] theorem State.setSlot_ras (s : State) (ta : Nat) (x : Slot) : (s.setSlot ta x).ras = s.ras := rfl
@[simp] theorem State.setSlot_agenda (s : State) (ta : Nat) (x : Slot) : (s.setSlot ta x).agenda = s.agenda := rfl
@[simp] theorem State.setSlot_ctr (s : State) (ta : Nat) (x : Slot) : (s.setSlot ta x).ctr = s.ctr := rfl
@[simp] theorem State.setSlot_nextUid (s : State) (ta : Nat) (x : Slot) : (s.setSlot ta x).nextUid = s.nextUid := rfl

/-! `State.modSlot` -/

@[simp] theorem State.modSlot_cur (s : State) (ta : Nat) (f : Slot → Slot) : (s.modSlot ta f).cur = s.cur := rfl
@[simp] theorem State.modSlot_mem (s : State) (ta : Nat) (f : Slot → Slot) : (s.modSlot ta f).mem = s.mem := rfl
@[simp] theorem State.modSlot_poison (s : State) (ta : Nat) (f : Slot → Slot) : (s.modSlot ta f).poison = s.poison := rfl
@[simp] theorem State.modSlot_time (s : State) (ta : Nat) (f : Slot → Slot) : (s.modSlot ta f).time = s.time := rfl
@[simp] theorem State.modSlot_slots (s : State) (ta : Nat) (f : Slot → Slot) : (s.modSlot ta f).slots = Store.set s.slots ta (f (s.slot ta)) := rfl
@[simp] theorem State.modSlot_parked (s : State) (ta : Nat) (f : Slot → Slot) : (s.modSlot ta f).parked = s.parked := rfl
@[simp] theorem State.modSlot_agreed (s : State) (ta : Nat) (f : Slot → Slot) : (s.modSlot ta f).agreed = s.agreed := rfl
@[simp] theorem State.modSlot_cores (s : State) (ta : Nat) (f : Slot → Slot) : (s.modSlot ta f).cores = s.cores := rfl
@[simp] theorem State.modSlot_quads (s : State) (ta : Nat) (f : Slot → Slot) : (s.modSlot ta f).quads = s.quads := rfl
@[simp] theorem State.modSlot_dies (s : State) (ta : Nat) (f : Slot → Slot) : (s.modSlot ta f).dies = s.dies := rfl
@[simp] theorem State.modSlot_ctxs (s : State) (ta : Nat) (f : Slot → Slot) : (s.modSlot ta f).ctxs = s.ctxs := rfl
@[simp] theorem State.modSlot_units (s : State) (ta : Nat) (f : Slot → Slot) : (s.modSlot ta f).units = s.units := rfl
@[simp] theorem State.modSlot_ready (s : State) (ta : Nat) (f : Slot → Slot) : (s.modSlot ta f).ready = s.ready := rfl
@[simp] theorem State.modSlot_credits (s : State) (ta : Nat) (f : Slot → Slot) : (s.modSlot ta f).credits = s.credits := rfl
@[simp] theorem State.modSlot_engines (s : State) (ta : Nat) (f : Slot → Slot) : (s.modSlot ta f).engines = s.engines := rfl
@[simp] theorem State.modSlot_strands (s : State) (ta : Nat) (f : Slot → Slot) : (s.modSlot ta f).strands = s.strands := rfl
@[simp] theorem State.modSlot_regions (s : State) (ta : Nat) (f : Slot → Slot) : (s.modSlot ta f).regions = s.regions := rfl
@[simp] theorem State.modSlot_tlb (s : State) (ta : Nat) (f : Slot → Slot) : (s.modSlot ta f).tlb = s.tlb := rfl
@[simp] theorem State.modSlot_retain (s : State) (ta : Nat) (f : Slot → Slot) : (s.modSlot ta f).retain = s.retain := rfl
@[simp] theorem State.modSlot_fmts (s : State) (ta : Nat) (f : Slot → Slot) : (s.modSlot ta f).fmts = s.fmts := rfl
@[simp] theorem State.modSlot_host (s : State) (ta : Nat) (f : Slot → Slot) : (s.modSlot ta f).host = s.host := rfl
@[simp] theorem State.modSlot_trace (s : State) (ta : Nat) (f : Slot → Slot) : (s.modSlot ta f).trace = s.trace := rfl
@[simp] theorem State.modSlot_replay (s : State) (ta : Nat) (f : Slot → Slot) : (s.modSlot ta f).replay = s.replay := rfl
@[simp] theorem State.modSlot_grid (s : State) (ta : Nat) (f : Slot → Slot) : (s.modSlot ta f).grid = s.grid := rfl
@[simp] theorem State.modSlot_ras (s : State) (ta : Nat) (f : Slot → Slot) : (s.modSlot ta f).ras = s.ras := rfl
@[simp] theorem State.modSlot_agenda (s : State) (ta : Nat) (f : Slot → Slot) : (s.modSlot ta f).agenda = s.agenda := rfl
@[simp] theorem State.modSlot_ctr (s : State) (ta : Nat) (f : Slot → Slot) : (s.modSlot ta f).ctr = s.ctr := rfl
@[simp] theorem State.modSlot_nextUid (s : State) (ta : Nat) (f : Slot → Slot) : (s.modSlot ta f).nextUid = s.nextUid := rfl

/-! `State.modMe` -/

@[simp] theorem State.modMe_cur (s : State) (f : Slot → Slot) : (s.modMe f).cur = s.cur := rfl
@[simp] theorem State.modMe_mem (s : State) (f : Slot → Slot) : (s.modMe f).mem = s.mem := rfl
@[simp] theorem State.modMe_poison (s : State) (f : Slot → Slot) : (s.modMe f).poison = s.poison := rfl
@[simp] theorem State.modMe_time (s : State) (f : Slot → Slot) : (s.modMe f).time = s.time := rfl
@[simp] theorem State.modMe_slots (s : State) (f : Slot → Slot) : (s.modMe f).slots = Store.set s.slots s.cur (f s.me) := rfl
@[simp] theorem State.modMe_parked (s : State) (f : Slot → Slot) : (s.modMe f).parked = s.parked := rfl
@[simp] theorem State.modMe_agreed (s : State) (f : Slot → Slot) : (s.modMe f).agreed = s.agreed := rfl
@[simp] theorem State.modMe_cores (s : State) (f : Slot → Slot) : (s.modMe f).cores = s.cores := rfl
@[simp] theorem State.modMe_quads (s : State) (f : Slot → Slot) : (s.modMe f).quads = s.quads := rfl
@[simp] theorem State.modMe_dies (s : State) (f : Slot → Slot) : (s.modMe f).dies = s.dies := rfl
@[simp] theorem State.modMe_ctxs (s : State) (f : Slot → Slot) : (s.modMe f).ctxs = s.ctxs := rfl
@[simp] theorem State.modMe_units (s : State) (f : Slot → Slot) : (s.modMe f).units = s.units := rfl
@[simp] theorem State.modMe_ready (s : State) (f : Slot → Slot) : (s.modMe f).ready = s.ready := rfl
@[simp] theorem State.modMe_credits (s : State) (f : Slot → Slot) : (s.modMe f).credits = s.credits := rfl
@[simp] theorem State.modMe_engines (s : State) (f : Slot → Slot) : (s.modMe f).engines = s.engines := rfl
@[simp] theorem State.modMe_strands (s : State) (f : Slot → Slot) : (s.modMe f).strands = s.strands := rfl
@[simp] theorem State.modMe_regions (s : State) (f : Slot → Slot) : (s.modMe f).regions = s.regions := rfl
@[simp] theorem State.modMe_tlb (s : State) (f : Slot → Slot) : (s.modMe f).tlb = s.tlb := rfl
@[simp] theorem State.modMe_retain (s : State) (f : Slot → Slot) : (s.modMe f).retain = s.retain := rfl
@[simp] theorem State.modMe_fmts (s : State) (f : Slot → Slot) : (s.modMe f).fmts = s.fmts := rfl
@[simp] theorem State.modMe_host (s : State) (f : Slot → Slot) : (s.modMe f).host = s.host := rfl
@[simp] theorem State.modMe_trace (s : State) (f : Slot → Slot) : (s.modMe f).trace = s.trace := rfl
@[simp] theorem State.modMe_replay (s : State) (f : Slot → Slot) : (s.modMe f).replay = s.replay := rfl
@[simp] theorem State.modMe_grid (s : State) (f : Slot → Slot) : (s.modMe f).grid = s.grid := rfl
@[simp] theorem State.modMe_ras (s : State) (f : Slot → Slot) : (s.modMe f).ras = s.ras := rfl
@[simp] theorem State.modMe_agenda (s : State) (f : Slot → Slot) : (s.modMe f).agenda = s.agenda := rfl
@[simp] theorem State.modMe_ctr (s : State) (f : Slot → Slot) : (s.modMe f).ctr = s.ctr := rfl
@[simp] theorem State.modMe_nextUid (s : State) (f : Slot → Slot) : (s.modMe f).nextUid = s.nextUid := rfl

/-! `State.putG` -/

@[simp] theorem State.putG_cur (s : State) (r : Reg) (v : Word) : (s.putG r v).cur = s.cur := rfl
@[simp] theorem State.putG_mem (s : State) (r : Reg) (v : Word) : (s.putG r v).mem = s.mem := rfl
@[simp] theorem State.putG_poison (s : State) (r : Reg) (v : Word) : (s.putG r v).poison = s.poison := rfl
@[simp] theorem State.putG_time (s : State) (r : Reg) (v : Word) : (s.putG r v).time = s.time := rfl
@[simp] theorem State.putG_slots (s : State) (r : Reg) (v : Word) : (s.putG r v).slots = Store.set s.slots s.cur (s.me.writeG r v) := rfl
@[simp] theorem State.putG_parked (s : State) (r : Reg) (v : Word) : (s.putG r v).parked = s.parked := rfl
@[simp] theorem State.putG_agreed (s : State) (r : Reg) (v : Word) : (s.putG r v).agreed = s.agreed := rfl
@[simp] theorem State.putG_cores (s : State) (r : Reg) (v : Word) : (s.putG r v).cores = s.cores := rfl
@[simp] theorem State.putG_quads (s : State) (r : Reg) (v : Word) : (s.putG r v).quads = s.quads := rfl
@[simp] theorem State.putG_dies (s : State) (r : Reg) (v : Word) : (s.putG r v).dies = s.dies := rfl
@[simp] theorem State.putG_ctxs (s : State) (r : Reg) (v : Word) : (s.putG r v).ctxs = s.ctxs := rfl
@[simp] theorem State.putG_units (s : State) (r : Reg) (v : Word) : (s.putG r v).units = s.units := rfl
@[simp] theorem State.putG_ready (s : State) (r : Reg) (v : Word) : (s.putG r v).ready = s.ready := rfl
@[simp] theorem State.putG_credits (s : State) (r : Reg) (v : Word) : (s.putG r v).credits = s.credits := rfl
@[simp] theorem State.putG_engines (s : State) (r : Reg) (v : Word) : (s.putG r v).engines = s.engines := rfl
@[simp] theorem State.putG_strands (s : State) (r : Reg) (v : Word) : (s.putG r v).strands = s.strands := rfl
@[simp] theorem State.putG_regions (s : State) (r : Reg) (v : Word) : (s.putG r v).regions = s.regions := rfl
@[simp] theorem State.putG_tlb (s : State) (r : Reg) (v : Word) : (s.putG r v).tlb = s.tlb := rfl
@[simp] theorem State.putG_retain (s : State) (r : Reg) (v : Word) : (s.putG r v).retain = s.retain := rfl
@[simp] theorem State.putG_fmts (s : State) (r : Reg) (v : Word) : (s.putG r v).fmts = s.fmts := rfl
@[simp] theorem State.putG_host (s : State) (r : Reg) (v : Word) : (s.putG r v).host = s.host := rfl
@[simp] theorem State.putG_trace (s : State) (r : Reg) (v : Word) : (s.putG r v).trace = s.trace := rfl
@[simp] theorem State.putG_replay (s : State) (r : Reg) (v : Word) : (s.putG r v).replay = s.replay := rfl
@[simp] theorem State.putG_grid (s : State) (r : Reg) (v : Word) : (s.putG r v).grid = s.grid := rfl
@[simp] theorem State.putG_ras (s : State) (r : Reg) (v : Word) : (s.putG r v).ras = s.ras := rfl
@[simp] theorem State.putG_agenda (s : State) (r : Reg) (v : Word) : (s.putG r v).agenda = s.agenda := rfl
@[simp] theorem State.putG_ctr (s : State) (r : Reg) (v : Word) : (s.putG r v).ctr = s.ctr := rfl
@[simp] theorem State.putG_nextUid (s : State) (r : Reg) (v : Word) : (s.putG r v).nextUid = s.nextUid := rfl

/-! `State.setMem` -/

@[simp] theorem State.setMem_cur (s : State) (m : List Host.Cell) : (s.setMem m).cur = s.cur := rfl
@[simp] theorem State.setMem_mem (s : State) (m : List Host.Cell) : (s.setMem m).mem = m := rfl
@[simp] theorem State.setMem_poison (s : State) (m : List Host.Cell) : (s.setMem m).poison = s.poison := rfl
@[simp] theorem State.setMem_time (s : State) (m : List Host.Cell) : (s.setMem m).time = s.time := rfl
@[simp] theorem State.setMem_slots (s : State) (m : List Host.Cell) : (s.setMem m).slots = s.slots := rfl
@[simp] theorem State.setMem_parked (s : State) (m : List Host.Cell) : (s.setMem m).parked = s.parked := rfl
@[simp] theorem State.setMem_agreed (s : State) (m : List Host.Cell) : (s.setMem m).agreed = s.agreed := rfl
@[simp] theorem State.setMem_cores (s : State) (m : List Host.Cell) : (s.setMem m).cores = s.cores := rfl
@[simp] theorem State.setMem_quads (s : State) (m : List Host.Cell) : (s.setMem m).quads = s.quads := rfl
@[simp] theorem State.setMem_dies (s : State) (m : List Host.Cell) : (s.setMem m).dies = s.dies := rfl
@[simp] theorem State.setMem_ctxs (s : State) (m : List Host.Cell) : (s.setMem m).ctxs = s.ctxs := rfl
@[simp] theorem State.setMem_units (s : State) (m : List Host.Cell) : (s.setMem m).units = s.units := rfl
@[simp] theorem State.setMem_ready (s : State) (m : List Host.Cell) : (s.setMem m).ready = s.ready := rfl
@[simp] theorem State.setMem_credits (s : State) (m : List Host.Cell) : (s.setMem m).credits = s.credits := rfl
@[simp] theorem State.setMem_engines (s : State) (m : List Host.Cell) : (s.setMem m).engines = s.engines := rfl
@[simp] theorem State.setMem_strands (s : State) (m : List Host.Cell) : (s.setMem m).strands = s.strands := rfl
@[simp] theorem State.setMem_regions (s : State) (m : List Host.Cell) : (s.setMem m).regions = s.regions := rfl
@[simp] theorem State.setMem_tlb (s : State) (m : List Host.Cell) : (s.setMem m).tlb = s.tlb := rfl
@[simp] theorem State.setMem_retain (s : State) (m : List Host.Cell) : (s.setMem m).retain = s.retain := rfl
@[simp] theorem State.setMem_fmts (s : State) (m : List Host.Cell) : (s.setMem m).fmts = s.fmts := rfl
@[simp] theorem State.setMem_host (s : State) (m : List Host.Cell) : (s.setMem m).host = s.host := rfl
@[simp] theorem State.setMem_trace (s : State) (m : List Host.Cell) : (s.setMem m).trace = s.trace := rfl
@[simp] theorem State.setMem_replay (s : State) (m : List Host.Cell) : (s.setMem m).replay = s.replay := rfl
@[simp] theorem State.setMem_grid (s : State) (m : List Host.Cell) : (s.setMem m).grid = s.grid := rfl
@[simp] theorem State.setMem_ras (s : State) (m : List Host.Cell) : (s.setMem m).ras = s.ras := rfl
@[simp] theorem State.setMem_agenda (s : State) (m : List Host.Cell) : (s.setMem m).agenda = s.agenda := rfl
@[simp] theorem State.setMem_ctr (s : State) (m : List Host.Cell) : (s.setMem m).ctr = s.ctr := rfl
@[simp] theorem State.setMem_nextUid (s : State) (m : List Host.Cell) : (s.setMem m).nextUid = s.nextUid := rfl

/-! `State.modCore` -/

@[simp] theorem State.modCore_cur (s : State) (c : Nat) (f : CoreSt → CoreSt) : (s.modCore c f).cur = s.cur := rfl
@[simp] theorem State.modCore_mem (s : State) (c : Nat) (f : CoreSt → CoreSt) : (s.modCore c f).mem = s.mem := rfl
@[simp] theorem State.modCore_poison (s : State) (c : Nat) (f : CoreSt → CoreSt) : (s.modCore c f).poison = s.poison := rfl
@[simp] theorem State.modCore_time (s : State) (c : Nat) (f : CoreSt → CoreSt) : (s.modCore c f).time = s.time := rfl
@[simp] theorem State.modCore_slots (s : State) (c : Nat) (f : CoreSt → CoreSt) : (s.modCore c f).slots = s.slots := rfl
@[simp] theorem State.modCore_parked (s : State) (c : Nat) (f : CoreSt → CoreSt) : (s.modCore c f).parked = s.parked := rfl
@[simp] theorem State.modCore_agreed (s : State) (c : Nat) (f : CoreSt → CoreSt) : (s.modCore c f).agreed = s.agreed := rfl
@[simp] theorem State.modCore_cores (s : State) (c : Nat) (f : CoreSt → CoreSt) : (s.modCore c f).cores = Store.set s.cores c (f (s.core c)) := rfl
@[simp] theorem State.modCore_quads (s : State) (c : Nat) (f : CoreSt → CoreSt) : (s.modCore c f).quads = s.quads := rfl
@[simp] theorem State.modCore_dies (s : State) (c : Nat) (f : CoreSt → CoreSt) : (s.modCore c f).dies = s.dies := rfl
@[simp] theorem State.modCore_ctxs (s : State) (c : Nat) (f : CoreSt → CoreSt) : (s.modCore c f).ctxs = s.ctxs := rfl
@[simp] theorem State.modCore_units (s : State) (c : Nat) (f : CoreSt → CoreSt) : (s.modCore c f).units = s.units := rfl
@[simp] theorem State.modCore_ready (s : State) (c : Nat) (f : CoreSt → CoreSt) : (s.modCore c f).ready = s.ready := rfl
@[simp] theorem State.modCore_credits (s : State) (c : Nat) (f : CoreSt → CoreSt) : (s.modCore c f).credits = s.credits := rfl
@[simp] theorem State.modCore_engines (s : State) (c : Nat) (f : CoreSt → CoreSt) : (s.modCore c f).engines = s.engines := rfl
@[simp] theorem State.modCore_strands (s : State) (c : Nat) (f : CoreSt → CoreSt) : (s.modCore c f).strands = s.strands := rfl
@[simp] theorem State.modCore_regions (s : State) (c : Nat) (f : CoreSt → CoreSt) : (s.modCore c f).regions = s.regions := rfl
@[simp] theorem State.modCore_tlb (s : State) (c : Nat) (f : CoreSt → CoreSt) : (s.modCore c f).tlb = s.tlb := rfl
@[simp] theorem State.modCore_retain (s : State) (c : Nat) (f : CoreSt → CoreSt) : (s.modCore c f).retain = s.retain := rfl
@[simp] theorem State.modCore_fmts (s : State) (c : Nat) (f : CoreSt → CoreSt) : (s.modCore c f).fmts = s.fmts := rfl
@[simp] theorem State.modCore_host (s : State) (c : Nat) (f : CoreSt → CoreSt) : (s.modCore c f).host = s.host := rfl
@[simp] theorem State.modCore_trace (s : State) (c : Nat) (f : CoreSt → CoreSt) : (s.modCore c f).trace = s.trace := rfl
@[simp] theorem State.modCore_replay (s : State) (c : Nat) (f : CoreSt → CoreSt) : (s.modCore c f).replay = s.replay := rfl
@[simp] theorem State.modCore_grid (s : State) (c : Nat) (f : CoreSt → CoreSt) : (s.modCore c f).grid = s.grid := rfl
@[simp] theorem State.modCore_ras (s : State) (c : Nat) (f : CoreSt → CoreSt) : (s.modCore c f).ras = s.ras := rfl
@[simp] theorem State.modCore_agenda (s : State) (c : Nat) (f : CoreSt → CoreSt) : (s.modCore c f).agenda = s.agenda := rfl
@[simp] theorem State.modCore_ctr (s : State) (c : Nat) (f : CoreSt → CoreSt) : (s.modCore c f).ctr = s.ctr := rfl
@[simp] theorem State.modCore_nextUid (s : State) (c : Nat) (f : CoreSt → CoreSt) : (s.modCore c f).nextUid = s.nextUid := rfl

/-! `State.modQuad` -/

@[simp] theorem State.modQuad_cur (s : State) (q : Nat) (f : QuadSt → QuadSt) : (s.modQuad q f).cur = s.cur := rfl
@[simp] theorem State.modQuad_mem (s : State) (q : Nat) (f : QuadSt → QuadSt) : (s.modQuad q f).mem = s.mem := rfl
@[simp] theorem State.modQuad_poison (s : State) (q : Nat) (f : QuadSt → QuadSt) : (s.modQuad q f).poison = s.poison := rfl
@[simp] theorem State.modQuad_time (s : State) (q : Nat) (f : QuadSt → QuadSt) : (s.modQuad q f).time = s.time := rfl
@[simp] theorem State.modQuad_slots (s : State) (q : Nat) (f : QuadSt → QuadSt) : (s.modQuad q f).slots = s.slots := rfl
@[simp] theorem State.modQuad_parked (s : State) (q : Nat) (f : QuadSt → QuadSt) : (s.modQuad q f).parked = s.parked := rfl
@[simp] theorem State.modQuad_agreed (s : State) (q : Nat) (f : QuadSt → QuadSt) : (s.modQuad q f).agreed = s.agreed := rfl
@[simp] theorem State.modQuad_cores (s : State) (q : Nat) (f : QuadSt → QuadSt) : (s.modQuad q f).cores = s.cores := rfl
@[simp] theorem State.modQuad_quads (s : State) (q : Nat) (f : QuadSt → QuadSt) : (s.modQuad q f).quads = Store.set s.quads q (f (s.quad q)) := rfl
@[simp] theorem State.modQuad_dies (s : State) (q : Nat) (f : QuadSt → QuadSt) : (s.modQuad q f).dies = s.dies := rfl
@[simp] theorem State.modQuad_ctxs (s : State) (q : Nat) (f : QuadSt → QuadSt) : (s.modQuad q f).ctxs = s.ctxs := rfl
@[simp] theorem State.modQuad_units (s : State) (q : Nat) (f : QuadSt → QuadSt) : (s.modQuad q f).units = s.units := rfl
@[simp] theorem State.modQuad_ready (s : State) (q : Nat) (f : QuadSt → QuadSt) : (s.modQuad q f).ready = s.ready := rfl
@[simp] theorem State.modQuad_credits (s : State) (q : Nat) (f : QuadSt → QuadSt) : (s.modQuad q f).credits = s.credits := rfl
@[simp] theorem State.modQuad_engines (s : State) (q : Nat) (f : QuadSt → QuadSt) : (s.modQuad q f).engines = s.engines := rfl
@[simp] theorem State.modQuad_strands (s : State) (q : Nat) (f : QuadSt → QuadSt) : (s.modQuad q f).strands = s.strands := rfl
@[simp] theorem State.modQuad_regions (s : State) (q : Nat) (f : QuadSt → QuadSt) : (s.modQuad q f).regions = s.regions := rfl
@[simp] theorem State.modQuad_tlb (s : State) (q : Nat) (f : QuadSt → QuadSt) : (s.modQuad q f).tlb = s.tlb := rfl
@[simp] theorem State.modQuad_retain (s : State) (q : Nat) (f : QuadSt → QuadSt) : (s.modQuad q f).retain = s.retain := rfl
@[simp] theorem State.modQuad_fmts (s : State) (q : Nat) (f : QuadSt → QuadSt) : (s.modQuad q f).fmts = s.fmts := rfl
@[simp] theorem State.modQuad_host (s : State) (q : Nat) (f : QuadSt → QuadSt) : (s.modQuad q f).host = s.host := rfl
@[simp] theorem State.modQuad_trace (s : State) (q : Nat) (f : QuadSt → QuadSt) : (s.modQuad q f).trace = s.trace := rfl
@[simp] theorem State.modQuad_replay (s : State) (q : Nat) (f : QuadSt → QuadSt) : (s.modQuad q f).replay = s.replay := rfl
@[simp] theorem State.modQuad_grid (s : State) (q : Nat) (f : QuadSt → QuadSt) : (s.modQuad q f).grid = s.grid := rfl
@[simp] theorem State.modQuad_ras (s : State) (q : Nat) (f : QuadSt → QuadSt) : (s.modQuad q f).ras = s.ras := rfl
@[simp] theorem State.modQuad_agenda (s : State) (q : Nat) (f : QuadSt → QuadSt) : (s.modQuad q f).agenda = s.agenda := rfl
@[simp] theorem State.modQuad_ctr (s : State) (q : Nat) (f : QuadSt → QuadSt) : (s.modQuad q f).ctr = s.ctr := rfl
@[simp] theorem State.modQuad_nextUid (s : State) (q : Nat) (f : QuadSt → QuadSt) : (s.modQuad q f).nextUid = s.nextUid := rfl

/-! `State.modDie` -/

@[simp] theorem State.modDie_cur (s : State) (d : Nat) (f : DieSt → DieSt) : (s.modDie d f).cur = s.cur := rfl
@[simp] theorem State.modDie_mem (s : State) (d : Nat) (f : DieSt → DieSt) : (s.modDie d f).mem = s.mem := rfl
@[simp] theorem State.modDie_poison (s : State) (d : Nat) (f : DieSt → DieSt) : (s.modDie d f).poison = s.poison := rfl
@[simp] theorem State.modDie_time (s : State) (d : Nat) (f : DieSt → DieSt) : (s.modDie d f).time = s.time := rfl
@[simp] theorem State.modDie_slots (s : State) (d : Nat) (f : DieSt → DieSt) : (s.modDie d f).slots = s.slots := rfl
@[simp] theorem State.modDie_parked (s : State) (d : Nat) (f : DieSt → DieSt) : (s.modDie d f).parked = s.parked := rfl
@[simp] theorem State.modDie_agreed (s : State) (d : Nat) (f : DieSt → DieSt) : (s.modDie d f).agreed = s.agreed := rfl
@[simp] theorem State.modDie_cores (s : State) (d : Nat) (f : DieSt → DieSt) : (s.modDie d f).cores = s.cores := rfl
@[simp] theorem State.modDie_quads (s : State) (d : Nat) (f : DieSt → DieSt) : (s.modDie d f).quads = s.quads := rfl
@[simp] theorem State.modDie_dies (s : State) (d : Nat) (f : DieSt → DieSt) : (s.modDie d f).dies = Store.set s.dies d (f (s.die d)) := rfl
@[simp] theorem State.modDie_ctxs (s : State) (d : Nat) (f : DieSt → DieSt) : (s.modDie d f).ctxs = s.ctxs := rfl
@[simp] theorem State.modDie_units (s : State) (d : Nat) (f : DieSt → DieSt) : (s.modDie d f).units = s.units := rfl
@[simp] theorem State.modDie_ready (s : State) (d : Nat) (f : DieSt → DieSt) : (s.modDie d f).ready = s.ready := rfl
@[simp] theorem State.modDie_credits (s : State) (d : Nat) (f : DieSt → DieSt) : (s.modDie d f).credits = s.credits := rfl
@[simp] theorem State.modDie_engines (s : State) (d : Nat) (f : DieSt → DieSt) : (s.modDie d f).engines = s.engines := rfl
@[simp] theorem State.modDie_strands (s : State) (d : Nat) (f : DieSt → DieSt) : (s.modDie d f).strands = s.strands := rfl
@[simp] theorem State.modDie_regions (s : State) (d : Nat) (f : DieSt → DieSt) : (s.modDie d f).regions = s.regions := rfl
@[simp] theorem State.modDie_tlb (s : State) (d : Nat) (f : DieSt → DieSt) : (s.modDie d f).tlb = s.tlb := rfl
@[simp] theorem State.modDie_retain (s : State) (d : Nat) (f : DieSt → DieSt) : (s.modDie d f).retain = s.retain := rfl
@[simp] theorem State.modDie_fmts (s : State) (d : Nat) (f : DieSt → DieSt) : (s.modDie d f).fmts = s.fmts := rfl
@[simp] theorem State.modDie_host (s : State) (d : Nat) (f : DieSt → DieSt) : (s.modDie d f).host = s.host := rfl
@[simp] theorem State.modDie_trace (s : State) (d : Nat) (f : DieSt → DieSt) : (s.modDie d f).trace = s.trace := rfl
@[simp] theorem State.modDie_replay (s : State) (d : Nat) (f : DieSt → DieSt) : (s.modDie d f).replay = s.replay := rfl
@[simp] theorem State.modDie_grid (s : State) (d : Nat) (f : DieSt → DieSt) : (s.modDie d f).grid = s.grid := rfl
@[simp] theorem State.modDie_ras (s : State) (d : Nat) (f : DieSt → DieSt) : (s.modDie d f).ras = s.ras := rfl
@[simp] theorem State.modDie_agenda (s : State) (d : Nat) (f : DieSt → DieSt) : (s.modDie d f).agenda = s.agenda := rfl
@[simp] theorem State.modDie_ctr (s : State) (d : Nat) (f : DieSt → DieSt) : (s.modDie d f).ctr = s.ctr := rfl
@[simp] theorem State.modDie_nextUid (s : State) (d : Nat) (f : DieSt → DieSt) : (s.modDie d f).nextUid = s.nextUid := rfl

/-! `State.setCtx` -/

@[simp] theorem State.setCtx_cur (s : State) (n : Nat) (c : Option Ctx) : (s.setCtx n c).cur = s.cur := rfl
@[simp] theorem State.setCtx_mem (s : State) (n : Nat) (c : Option Ctx) : (s.setCtx n c).mem = s.mem := rfl
@[simp] theorem State.setCtx_poison (s : State) (n : Nat) (c : Option Ctx) : (s.setCtx n c).poison = s.poison := rfl
@[simp] theorem State.setCtx_time (s : State) (n : Nat) (c : Option Ctx) : (s.setCtx n c).time = s.time := rfl
@[simp] theorem State.setCtx_slots (s : State) (n : Nat) (c : Option Ctx) : (s.setCtx n c).slots = s.slots := rfl
@[simp] theorem State.setCtx_parked (s : State) (n : Nat) (c : Option Ctx) : (s.setCtx n c).parked = s.parked := rfl
@[simp] theorem State.setCtx_agreed (s : State) (n : Nat) (c : Option Ctx) : (s.setCtx n c).agreed = s.agreed := rfl
@[simp] theorem State.setCtx_cores (s : State) (n : Nat) (c : Option Ctx) : (s.setCtx n c).cores = s.cores := rfl
@[simp] theorem State.setCtx_quads (s : State) (n : Nat) (c : Option Ctx) : (s.setCtx n c).quads = s.quads := rfl
@[simp] theorem State.setCtx_dies (s : State) (n : Nat) (c : Option Ctx) : (s.setCtx n c).dies = s.dies := rfl
@[simp] theorem State.setCtx_ctxs (s : State) (n : Nat) (c : Option Ctx) : (s.setCtx n c).ctxs = Store.set s.ctxs n c := rfl
@[simp] theorem State.setCtx_units (s : State) (n : Nat) (c : Option Ctx) : (s.setCtx n c).units = s.units := rfl
@[simp] theorem State.setCtx_ready (s : State) (n : Nat) (c : Option Ctx) : (s.setCtx n c).ready = s.ready := rfl
@[simp] theorem State.setCtx_credits (s : State) (n : Nat) (c : Option Ctx) : (s.setCtx n c).credits = s.credits := rfl
@[simp] theorem State.setCtx_engines (s : State) (n : Nat) (c : Option Ctx) : (s.setCtx n c).engines = s.engines := rfl
@[simp] theorem State.setCtx_strands (s : State) (n : Nat) (c : Option Ctx) : (s.setCtx n c).strands = s.strands := rfl
@[simp] theorem State.setCtx_regions (s : State) (n : Nat) (c : Option Ctx) : (s.setCtx n c).regions = s.regions := rfl
@[simp] theorem State.setCtx_tlb (s : State) (n : Nat) (c : Option Ctx) : (s.setCtx n c).tlb = s.tlb := rfl
@[simp] theorem State.setCtx_retain (s : State) (n : Nat) (c : Option Ctx) : (s.setCtx n c).retain = s.retain := rfl
@[simp] theorem State.setCtx_fmts (s : State) (n : Nat) (c : Option Ctx) : (s.setCtx n c).fmts = s.fmts := rfl
@[simp] theorem State.setCtx_host (s : State) (n : Nat) (c : Option Ctx) : (s.setCtx n c).host = s.host := rfl
@[simp] theorem State.setCtx_trace (s : State) (n : Nat) (c : Option Ctx) : (s.setCtx n c).trace = s.trace := rfl
@[simp] theorem State.setCtx_replay (s : State) (n : Nat) (c : Option Ctx) : (s.setCtx n c).replay = s.replay := rfl
@[simp] theorem State.setCtx_grid (s : State) (n : Nat) (c : Option Ctx) : (s.setCtx n c).grid = s.grid := rfl
@[simp] theorem State.setCtx_ras (s : State) (n : Nat) (c : Option Ctx) : (s.setCtx n c).ras = s.ras := rfl
@[simp] theorem State.setCtx_agenda (s : State) (n : Nat) (c : Option Ctx) : (s.setCtx n c).agenda = s.agenda := rfl
@[simp] theorem State.setCtx_ctr (s : State) (n : Nat) (c : Option Ctx) : (s.setCtx n c).ctr = s.ctr := rfl
@[simp] theorem State.setCtx_nextUid (s : State) (n : Nat) (c : Option Ctx) : (s.setCtx n c).nextUid = s.nextUid := rfl

/-! `State.post` -/

@[simp] theorem State.post_cur (s : State) (i : Instr) : (s.post i).cur = s.cur := rfl
@[simp] theorem State.post_mem (s : State) (i : Instr) : (s.post i).mem = s.mem := rfl
@[simp] theorem State.post_poison (s : State) (i : Instr) : (s.post i).poison = s.poison := rfl
@[simp] theorem State.post_time (s : State) (i : Instr) : (s.post i).time = s.time := rfl
@[simp] theorem State.post_slots (s : State) (i : Instr) : (s.post i).slots = s.slots := rfl
@[simp] theorem State.post_parked (s : State) (i : Instr) : (s.post i).parked = s.parked := rfl
@[simp] theorem State.post_agreed (s : State) (i : Instr) : (s.post i).agreed = s.agreed := rfl
@[simp] theorem State.post_cores (s : State) (i : Instr) : (s.post i).cores = s.cores := rfl
@[simp] theorem State.post_quads (s : State) (i : Instr) : (s.post i).quads = s.quads := rfl
@[simp] theorem State.post_dies (s : State) (i : Instr) : (s.post i).dies = s.dies := rfl
@[simp] theorem State.post_ctxs (s : State) (i : Instr) : (s.post i).ctxs = s.ctxs := rfl
@[simp] theorem State.post_units (s : State) (i : Instr) : (s.post i).units = s.units := rfl
@[simp] theorem State.post_ready (s : State) (i : Instr) : (s.post i).ready = s.ready := rfl
@[simp] theorem State.post_credits (s : State) (i : Instr) : (s.post i).credits = s.credits := rfl
@[simp] theorem State.post_engines (s : State) (i : Instr) : (s.post i).engines = s.engines := rfl
@[simp] theorem State.post_strands (s : State) (i : Instr) : (s.post i).strands = s.strands := rfl
@[simp] theorem State.post_regions (s : State) (i : Instr) : (s.post i).regions = s.regions := rfl
@[simp] theorem State.post_tlb (s : State) (i : Instr) : (s.post i).tlb = s.tlb := rfl
@[simp] theorem State.post_retain (s : State) (i : Instr) : (s.post i).retain = s.retain := rfl
@[simp] theorem State.post_fmts (s : State) (i : Instr) : (s.post i).fmts = s.fmts := rfl
@[simp] theorem State.post_host (s : State) (i : Instr) : (s.post i).host = s.host := rfl
@[simp] theorem State.post_trace (s : State) (i : Instr) : (s.post i).trace = s.trace := rfl
@[simp] theorem State.post_replay (s : State) (i : Instr) : (s.post i).replay = s.replay := rfl
@[simp] theorem State.post_grid (s : State) (i : Instr) : (s.post i).grid = s.grid := rfl
@[simp] theorem State.post_ras (s : State) (i : Instr) : (s.post i).ras = s.ras := rfl
@[simp] theorem State.post_agenda (s : State) (i : Instr) : (s.post i).agenda = s.agenda ++ [i] := rfl
@[simp] theorem State.post_ctr (s : State) (i : Instr) : (s.post i).ctr = s.ctr := rfl
@[simp] theorem State.post_nextUid (s : State) (i : Instr) : (s.post i).nextUid = s.nextUid := rfl

/-! `State.report` -/

@[simp] theorem State.report_cur (s : State) (e : ErrReport) : (s.report e).cur = s.cur := rfl
@[simp] theorem State.report_mem (s : State) (e : ErrReport) : (s.report e).mem = s.mem := rfl
@[simp] theorem State.report_poison (s : State) (e : ErrReport) : (s.report e).poison = s.poison := rfl
@[simp] theorem State.report_time (s : State) (e : ErrReport) : (s.report e).time = s.time := rfl
@[simp] theorem State.report_slots (s : State) (e : ErrReport) : (s.report e).slots = s.slots := rfl
@[simp] theorem State.report_parked (s : State) (e : ErrReport) : (s.report e).parked = s.parked := rfl
@[simp] theorem State.report_agreed (s : State) (e : ErrReport) : (s.report e).agreed = s.agreed := rfl
@[simp] theorem State.report_cores (s : State) (e : ErrReport) : (s.report e).cores = s.cores := rfl
@[simp] theorem State.report_quads (s : State) (e : ErrReport) : (s.report e).quads = s.quads := rfl
@[simp] theorem State.report_dies (s : State) (e : ErrReport) : (s.report e).dies = s.dies := rfl
@[simp] theorem State.report_ctxs (s : State) (e : ErrReport) : (s.report e).ctxs = s.ctxs := rfl
@[simp] theorem State.report_units (s : State) (e : ErrReport) : (s.report e).units = s.units := rfl
@[simp] theorem State.report_ready (s : State) (e : ErrReport) : (s.report e).ready = s.ready := rfl
@[simp] theorem State.report_credits (s : State) (e : ErrReport) : (s.report e).credits = s.credits := rfl
@[simp] theorem State.report_engines (s : State) (e : ErrReport) : (s.report e).engines = s.engines := rfl
@[simp] theorem State.report_strands (s : State) (e : ErrReport) : (s.report e).strands = s.strands := rfl
@[simp] theorem State.report_regions (s : State) (e : ErrReport) : (s.report e).regions = s.regions := rfl
@[simp] theorem State.report_tlb (s : State) (e : ErrReport) : (s.report e).tlb = s.tlb := rfl
@[simp] theorem State.report_retain (s : State) (e : ErrReport) : (s.report e).retain = s.retain := rfl
@[simp] theorem State.report_fmts (s : State) (e : ErrReport) : (s.report e).fmts = s.fmts := rfl
@[simp] theorem State.report_host (s : State) (e : ErrReport) : (s.report e).host = s.host := rfl
@[simp] theorem State.report_trace (s : State) (e : ErrReport) : (s.report e).trace = s.trace := rfl
@[simp] theorem State.report_replay (s : State) (e : ErrReport) : (s.report e).replay = s.replay := rfl
@[simp] theorem State.report_grid (s : State) (e : ErrReport) : (s.report e).grid = s.grid := rfl
@[simp] theorem State.report_ras (s : State) (e : ErrReport) : (s.report e).ras = s.ras := rfl
@[simp] theorem State.report_agenda (s : State) (e : ErrReport) : (s.report e).agenda = s.agenda ++ [.errorDetected { e with mode := s.host.duty }] := rfl
@[simp] theorem State.report_ctr (s : State) (e : ErrReport) : (s.report e).ctr = s.ctr := rfl
@[simp] theorem State.report_nextUid (s : State) (e : ErrReport) : (s.report e).nextUid = s.nextUid := rfl

/-! `State.modTrace` -/

@[simp] theorem State.modTrace_cur (s : State) (f : TraceSt → TraceSt) : (s.modTrace f).cur = s.cur := rfl
@[simp] theorem State.modTrace_mem (s : State) (f : TraceSt → TraceSt) : (s.modTrace f).mem = s.mem := rfl
@[simp] theorem State.modTrace_poison (s : State) (f : TraceSt → TraceSt) : (s.modTrace f).poison = s.poison := rfl
@[simp] theorem State.modTrace_time (s : State) (f : TraceSt → TraceSt) : (s.modTrace f).time = s.time := rfl
@[simp] theorem State.modTrace_slots (s : State) (f : TraceSt → TraceSt) : (s.modTrace f).slots = s.slots := rfl
@[simp] theorem State.modTrace_parked (s : State) (f : TraceSt → TraceSt) : (s.modTrace f).parked = s.parked := rfl
@[simp] theorem State.modTrace_agreed (s : State) (f : TraceSt → TraceSt) : (s.modTrace f).agreed = s.agreed := rfl
@[simp] theorem State.modTrace_cores (s : State) (f : TraceSt → TraceSt) : (s.modTrace f).cores = s.cores := rfl
@[simp] theorem State.modTrace_quads (s : State) (f : TraceSt → TraceSt) : (s.modTrace f).quads = s.quads := rfl
@[simp] theorem State.modTrace_dies (s : State) (f : TraceSt → TraceSt) : (s.modTrace f).dies = s.dies := rfl
@[simp] theorem State.modTrace_ctxs (s : State) (f : TraceSt → TraceSt) : (s.modTrace f).ctxs = s.ctxs := rfl
@[simp] theorem State.modTrace_units (s : State) (f : TraceSt → TraceSt) : (s.modTrace f).units = s.units := rfl
@[simp] theorem State.modTrace_ready (s : State) (f : TraceSt → TraceSt) : (s.modTrace f).ready = s.ready := rfl
@[simp] theorem State.modTrace_credits (s : State) (f : TraceSt → TraceSt) : (s.modTrace f).credits = s.credits := rfl
@[simp] theorem State.modTrace_engines (s : State) (f : TraceSt → TraceSt) : (s.modTrace f).engines = s.engines := rfl
@[simp] theorem State.modTrace_strands (s : State) (f : TraceSt → TraceSt) : (s.modTrace f).strands = s.strands := rfl
@[simp] theorem State.modTrace_regions (s : State) (f : TraceSt → TraceSt) : (s.modTrace f).regions = s.regions := rfl
@[simp] theorem State.modTrace_tlb (s : State) (f : TraceSt → TraceSt) : (s.modTrace f).tlb = s.tlb := rfl
@[simp] theorem State.modTrace_retain (s : State) (f : TraceSt → TraceSt) : (s.modTrace f).retain = s.retain := rfl
@[simp] theorem State.modTrace_fmts (s : State) (f : TraceSt → TraceSt) : (s.modTrace f).fmts = s.fmts := rfl
@[simp] theorem State.modTrace_host (s : State) (f : TraceSt → TraceSt) : (s.modTrace f).host = s.host := rfl
@[simp] theorem State.modTrace_trace (s : State) (f : TraceSt → TraceSt) : (s.modTrace f).trace = f s.trace := rfl
@[simp] theorem State.modTrace_replay (s : State) (f : TraceSt → TraceSt) : (s.modTrace f).replay = s.replay := rfl
@[simp] theorem State.modTrace_grid (s : State) (f : TraceSt → TraceSt) : (s.modTrace f).grid = s.grid := rfl
@[simp] theorem State.modTrace_ras (s : State) (f : TraceSt → TraceSt) : (s.modTrace f).ras = s.ras := rfl
@[simp] theorem State.modTrace_agenda (s : State) (f : TraceSt → TraceSt) : (s.modTrace f).agenda = s.agenda := rfl
@[simp] theorem State.modTrace_ctr (s : State) (f : TraceSt → TraceSt) : (s.modTrace f).ctr = s.ctr := rfl
@[simp] theorem State.modTrace_nextUid (s : State) (f : TraceSt → TraceSt) : (s.modTrace f).nextUid = s.nextUid := rfl

/-! `State.modReplay` -/

@[simp] theorem State.modReplay_cur (s : State) (f : ReplaySt → ReplaySt) : (s.modReplay f).cur = s.cur := rfl
@[simp] theorem State.modReplay_mem (s : State) (f : ReplaySt → ReplaySt) : (s.modReplay f).mem = s.mem := rfl
@[simp] theorem State.modReplay_poison (s : State) (f : ReplaySt → ReplaySt) : (s.modReplay f).poison = s.poison := rfl
@[simp] theorem State.modReplay_time (s : State) (f : ReplaySt → ReplaySt) : (s.modReplay f).time = s.time := rfl
@[simp] theorem State.modReplay_slots (s : State) (f : ReplaySt → ReplaySt) : (s.modReplay f).slots = s.slots := rfl
@[simp] theorem State.modReplay_parked (s : State) (f : ReplaySt → ReplaySt) : (s.modReplay f).parked = s.parked := rfl
@[simp] theorem State.modReplay_agreed (s : State) (f : ReplaySt → ReplaySt) : (s.modReplay f).agreed = s.agreed := rfl
@[simp] theorem State.modReplay_cores (s : State) (f : ReplaySt → ReplaySt) : (s.modReplay f).cores = s.cores := rfl
@[simp] theorem State.modReplay_quads (s : State) (f : ReplaySt → ReplaySt) : (s.modReplay f).quads = s.quads := rfl
@[simp] theorem State.modReplay_dies (s : State) (f : ReplaySt → ReplaySt) : (s.modReplay f).dies = s.dies := rfl
@[simp] theorem State.modReplay_ctxs (s : State) (f : ReplaySt → ReplaySt) : (s.modReplay f).ctxs = s.ctxs := rfl
@[simp] theorem State.modReplay_units (s : State) (f : ReplaySt → ReplaySt) : (s.modReplay f).units = s.units := rfl
@[simp] theorem State.modReplay_ready (s : State) (f : ReplaySt → ReplaySt) : (s.modReplay f).ready = s.ready := rfl
@[simp] theorem State.modReplay_credits (s : State) (f : ReplaySt → ReplaySt) : (s.modReplay f).credits = s.credits := rfl
@[simp] theorem State.modReplay_engines (s : State) (f : ReplaySt → ReplaySt) : (s.modReplay f).engines = s.engines := rfl
@[simp] theorem State.modReplay_strands (s : State) (f : ReplaySt → ReplaySt) : (s.modReplay f).strands = s.strands := rfl
@[simp] theorem State.modReplay_regions (s : State) (f : ReplaySt → ReplaySt) : (s.modReplay f).regions = s.regions := rfl
@[simp] theorem State.modReplay_tlb (s : State) (f : ReplaySt → ReplaySt) : (s.modReplay f).tlb = s.tlb := rfl
@[simp] theorem State.modReplay_retain (s : State) (f : ReplaySt → ReplaySt) : (s.modReplay f).retain = s.retain := rfl
@[simp] theorem State.modReplay_fmts (s : State) (f : ReplaySt → ReplaySt) : (s.modReplay f).fmts = s.fmts := rfl
@[simp] theorem State.modReplay_host (s : State) (f : ReplaySt → ReplaySt) : (s.modReplay f).host = s.host := rfl
@[simp] theorem State.modReplay_trace (s : State) (f : ReplaySt → ReplaySt) : (s.modReplay f).trace = s.trace := rfl
@[simp] theorem State.modReplay_replay (s : State) (f : ReplaySt → ReplaySt) : (s.modReplay f).replay = f s.replay := rfl
@[simp] theorem State.modReplay_grid (s : State) (f : ReplaySt → ReplaySt) : (s.modReplay f).grid = s.grid := rfl
@[simp] theorem State.modReplay_ras (s : State) (f : ReplaySt → ReplaySt) : (s.modReplay f).ras = s.ras := rfl
@[simp] theorem State.modReplay_agenda (s : State) (f : ReplaySt → ReplaySt) : (s.modReplay f).agenda = s.agenda := rfl
@[simp] theorem State.modReplay_ctr (s : State) (f : ReplaySt → ReplaySt) : (s.modReplay f).ctr = s.ctr := rfl
@[simp] theorem State.modReplay_nextUid (s : State) (f : ReplaySt → ReplaySt) : (s.modReplay f).nextUid = s.nextUid := rfl

/-! `State.modRas` -/

@[simp] theorem State.modRas_cur (s : State) (f : RasSt → RasSt) : (s.modRas f).cur = s.cur := rfl
@[simp] theorem State.modRas_mem (s : State) (f : RasSt → RasSt) : (s.modRas f).mem = s.mem := rfl
@[simp] theorem State.modRas_poison (s : State) (f : RasSt → RasSt) : (s.modRas f).poison = s.poison := rfl
@[simp] theorem State.modRas_time (s : State) (f : RasSt → RasSt) : (s.modRas f).time = s.time := rfl
@[simp] theorem State.modRas_slots (s : State) (f : RasSt → RasSt) : (s.modRas f).slots = s.slots := rfl
@[simp] theorem State.modRas_parked (s : State) (f : RasSt → RasSt) : (s.modRas f).parked = s.parked := rfl
@[simp] theorem State.modRas_agreed (s : State) (f : RasSt → RasSt) : (s.modRas f).agreed = s.agreed := rfl
@[simp] theorem State.modRas_cores (s : State) (f : RasSt → RasSt) : (s.modRas f).cores = s.cores := rfl
@[simp] theorem State.modRas_quads (s : State) (f : RasSt → RasSt) : (s.modRas f).quads = s.quads := rfl
@[simp] theorem State.modRas_dies (s : State) (f : RasSt → RasSt) : (s.modRas f).dies = s.dies := rfl
@[simp] theorem State.modRas_ctxs (s : State) (f : RasSt → RasSt) : (s.modRas f).ctxs = s.ctxs := rfl
@[simp] theorem State.modRas_units (s : State) (f : RasSt → RasSt) : (s.modRas f).units = s.units := rfl
@[simp] theorem State.modRas_ready (s : State) (f : RasSt → RasSt) : (s.modRas f).ready = s.ready := rfl
@[simp] theorem State.modRas_credits (s : State) (f : RasSt → RasSt) : (s.modRas f).credits = s.credits := rfl
@[simp] theorem State.modRas_engines (s : State) (f : RasSt → RasSt) : (s.modRas f).engines = s.engines := rfl
@[simp] theorem State.modRas_strands (s : State) (f : RasSt → RasSt) : (s.modRas f).strands = s.strands := rfl
@[simp] theorem State.modRas_regions (s : State) (f : RasSt → RasSt) : (s.modRas f).regions = s.regions := rfl
@[simp] theorem State.modRas_tlb (s : State) (f : RasSt → RasSt) : (s.modRas f).tlb = s.tlb := rfl
@[simp] theorem State.modRas_retain (s : State) (f : RasSt → RasSt) : (s.modRas f).retain = s.retain := rfl
@[simp] theorem State.modRas_fmts (s : State) (f : RasSt → RasSt) : (s.modRas f).fmts = s.fmts := rfl
@[simp] theorem State.modRas_host (s : State) (f : RasSt → RasSt) : (s.modRas f).host = s.host := rfl
@[simp] theorem State.modRas_trace (s : State) (f : RasSt → RasSt) : (s.modRas f).trace = s.trace := rfl
@[simp] theorem State.modRas_replay (s : State) (f : RasSt → RasSt) : (s.modRas f).replay = s.replay := rfl
@[simp] theorem State.modRas_grid (s : State) (f : RasSt → RasSt) : (s.modRas f).grid = s.grid := rfl
@[simp] theorem State.modRas_ras (s : State) (f : RasSt → RasSt) : (s.modRas f).ras = f s.ras := rfl
@[simp] theorem State.modRas_agenda (s : State) (f : RasSt → RasSt) : (s.modRas f).agenda = s.agenda := rfl
@[simp] theorem State.modRas_ctr (s : State) (f : RasSt → RasSt) : (s.modRas f).ctr = s.ctr := rfl
@[simp] theorem State.modRas_nextUid (s : State) (f : RasSt → RasSt) : (s.modRas f).nextUid = s.nextUid := rfl

end Sys2Proof.Machine
end

