-- ==== Sys2Proof/Laws/Store.lean ====
section
/-! SUPPORT. Laws of the tables and of memory: a read after a write, and the canonical form of memory. -/

namespace Sys2Proof.Machine

/-! ## Tables -/

@[simp] theorem Store.get_set_same {α : Type} (dflt : α) (m : Store α) (k : Nat) (x : α) :
    Store.get dflt (Store.set m k x) k = x := by
  induction m with
  | nil => simp [Store.set, Store.get]
  | cons p rest ih =>
    obtain ⟨j, v⟩ := p
    by_cases h : j = k
    · simp [Store.set, Store.get, h]
    · by_cases h2 : k < j
      · simp [Store.set, Store.get, h, h2]
      · simp [Store.set, Store.get, h, h2, ih]

theorem Store.get_set_other {α : Type} (dflt : α) (m : Store α) {k j : Nat} (x : α) (h : j ≠ k) :
    Store.get dflt (Store.set m k x) j = Store.get dflt m j := by
  induction m with
  | nil => simp only [Store.set, Store.get]; split <;> first | omega | (split <;> rfl)
  | cons p rest ih =>
    obtain ⟨i, v⟩ := p
    simp only [Store.set]
    by_cases h1 : i = k
    · subst h1
      simp [Store.get, Ne.symm h]
    · by_cases h2 : k < i
      · simp only [h1, if_false, h2, if_true, Store.get]
        by_cases h3 : j < k
        · have : ¬ i = j := by omega
          have : j < i := by omega
          have : ¬ k = j := by omega
          simp [*]
        · have : ¬ k = j := by omega
          simp [this, h3]
      · simp only [h1, if_false, h2, Store.get, ih]

/-! ## Canonical tables -/

/-- Every key of a list is above a bound. -/
def Above {α : Type} (b : Nat) (m : List (Nat × α)) : Prop := ∀ p ∈ m, b < p.1

theorem Sparse.wf_cons {α : Type} [DecidableEq α] {dflt v : α} {j : Nat} {m : List (Nat × α)} :
    Sparse.wf dflt ((j, v) :: m) = true ↔ v ≠ dflt ∧ Above j m ∧ Sparse.wf dflt m = true := by
  induction m generalizing j v with
  | nil => simp [Sparse.wf, Above]
  | cons p rest ih =>
    obtain ⟨k, w⟩ := p
    simp only [Sparse.wf, Bool.and_eq_true, decide_eq_true_eq]
    constructor
    · rintro ⟨⟨h1, h2⟩, h3⟩
      refine ⟨h1, ?_, h3⟩
      obtain ⟨_, h5, _⟩ := ih.mp h3
      intro q hq
      rcases List.mem_cons.mp hq with rfl | hq
      · exact h2
      · have := h5 q hq; omega
    · rintro ⟨h1, h2, h3⟩
      exact ⟨⟨h1, h2 _ (List.mem_cons_self ..)⟩, h3⟩

theorem Store.above_set {α : Type} {b k : Nat} {x : α} {m : List (Nat × α)} (hb : b < k) (h : Above b m) :
    Above b (Store.set m k x) := by
  induction m with
  | nil => intro p hp; simp [Store.set] at hp; subst hp; exact hb
  | cons p rest ih =>
    obtain ⟨j, v⟩ := p
    have hr : Above b rest := fun q hq => h q (List.mem_cons_of_mem _ hq)
    have hj : b < j := h _ (List.mem_cons_self ..)
    intro q hq
    simp only [Store.set] at hq
    split at hq
    · rcases List.mem_cons.mp hq with rfl | hq
      · exact hb
      · exact hr q hq
    · split at hq
      · rcases List.mem_cons.mp hq with rfl | hq
        · exact hb
        · exact h q hq
      · rcases List.mem_cons.mp hq with rfl | hq
        · exact hj
        · exact ih hr q hq

theorem Sparse.above_erase {α : Type} {b k : Nat} {m : List (Nat × α)} (h : Above b m) : Above b (Sparse.erase m k) := by
  induction m with
  | nil => exact h
  | cons p rest ih =>
    obtain ⟨j, v⟩ := p
    have hr : Above b rest := fun q hq => h q (List.mem_cons_of_mem _ hq)
    simp only [Sparse.erase]
    split
    · exact hr
    · split
      · exact h
      · intro q hq
        rcases List.mem_cons.mp hq with rfl | hq
        · exact h _ (List.mem_cons_self ..)
        · exact ih hr q hq

theorem Sparse.wf_store {α : Type} [DecidableEq α] {dflt x : α} {k : Nat} {m : List (Nat × α)} (hx : x ≠ dflt)
    (h : Sparse.wf dflt m = true) : Sparse.wf dflt (Store.set m k x) = true := by
  induction m with
  | nil => simp [Store.set, Sparse.wf, hx]
  | cons p rest ih =>
    obtain ⟨j, v⟩ := p
    obtain ⟨h1, h2, h3⟩ := Sparse.wf_cons.mp h
    simp only [Store.set]
    split
    · next e => subst e; exact Sparse.wf_cons.mpr ⟨hx, h2, h3⟩
    · split
      · next hlt =>
        refine Sparse.wf_cons.mpr ⟨hx, ?_, h⟩
        intro q hq
        rcases List.mem_cons.mp hq with rfl | hq
        · exact hlt
        · exact Nat.lt_trans hlt (h2 q hq)
      · next hne hlt => exact Sparse.wf_cons.mpr ⟨h1, Store.above_set (by omega) h2, ih h3⟩

theorem Sparse.wf_erase {α : Type} [DecidableEq α] {dflt : α} {k : Nat} {m : List (Nat × α)} (h : Sparse.wf dflt m = true) :
    Sparse.wf dflt (Sparse.erase m k) = true := by
  induction m with
  | nil => exact h
  | cons p rest ih =>
    obtain ⟨j, v⟩ := p
    obtain ⟨h1, h2, h3⟩ := Sparse.wf_cons.mp h
    simp only [Sparse.erase]
    split
    · exact h3
    · split
      · exact h
      · exact Sparse.wf_cons.mpr ⟨h1, Sparse.above_erase h2, ih h3⟩

/-- A write keeps the canonical form. -/
theorem Sparse.wf_set {α : Type} [DecidableEq α] {dflt x : α} {k : Nat} {m : List (Nat × α)} (h : Sparse.wf dflt m = true) :
    Sparse.wf dflt (Sparse.set dflt m k x) = true := by
  unfold Sparse.set
  split
  · exact Sparse.wf_erase h
  · next hx => exact Sparse.wf_store hx h

theorem Store.get_above {α : Type} {dflt : α} {b k : Nat} {m : List (Nat × α)} (h : Above b m) (hk : k ≤ b) :
    Store.get dflt m k = dflt := by
  cases m with
  | nil => rfl
  | cons p rest =>
    obtain ⟨j, v⟩ := p
    have hj : b < j := h _ (List.mem_cons_self ..)
    have h1 : ¬ j = k := by omega
    have h2 : k < j := by omega
    simp [Store.get, h1, h2]

theorem Sparse.get_erase_same {α : Type} [DecidableEq α] {dflt : α} {k : Nat} {m : List (Nat × α)}
    (h : Sparse.wf dflt m = true) : Store.get dflt (Sparse.erase m k) k = dflt := by
  induction m with
  | nil => rfl
  | cons p rest ih =>
    obtain ⟨j, v⟩ := p
    obtain ⟨_, h2, h3⟩ := Sparse.wf_cons.mp h
    simp only [Sparse.erase]
    split
    · next e => subst e; exact Store.get_above h2 (Nat.le_refl _)
    · split
      · next h4 h5 => simp [Store.get, h4, h5]
      · next h4 h5 => simp [Store.get, h4, h5, ih h3]

theorem Sparse.get_erase_other {α : Type} [DecidableEq α] {dflt : α} {j k : Nat} {m : List (Nat × α)}
    (h : Sparse.wf dflt m = true) (hj : j ≠ k) : Store.get dflt (Sparse.erase m k) j = Store.get dflt m j := by
  induction m with
  | nil => rfl
  | cons p rest ih =>
    obtain ⟨i, v⟩ := p
    obtain ⟨_, h2, h3⟩ := Sparse.wf_cons.mp h
    simp only [Sparse.erase]
    split
    · next e =>
      subst e
      have h1 : ¬ i = j := fun e => hj e.symm
      simp only [Store.get, h1, if_false]
      split
      · next hlt => exact Store.get_above h2 (by omega)
      · rfl
    · split
      · rfl
      · simp only [Store.get, ih h3]

/-! ## Memory -/

@[simp] theorem Memory.wf_nil : Memory.wf [] = true := rfl

/-- A write of a byte keeps the canonical form. -/
theorem Memory.wf_set {m : List Host.Cell} {k : Nat} {b : Byte} (h : Memory.wf m = true) : Memory.wf (Memory.set m k b) = true :=
  Sparse.wf_set h

/-- A write of bytes keeps the canonical form. -/
theorem Memory.wf_write {m : List Host.Cell} {bs : List Byte} {k : Nat} (h : Memory.wf m = true) :
    Memory.wf (Memory.write m k bs) = true := by
  induction bs generalizing m k with
  | nil => exact h
  | cons b bs ih => exact ih (Memory.wf_set h)

/-- A byte just written reads back. -/
theorem Memory.get_set_same {m : List Host.Cell} {k : Nat} {b : Byte} (h : Memory.wf m = true) :
    Memory.get (Memory.set m k b) k = b := by
  unfold Memory.get Memory.set Sparse.get Sparse.set
  split
  · next e => rw [e]; exact Sparse.get_erase_same h
  · exact Store.get_set_same ..

/-- A write leaves every other byte alone. -/
theorem Memory.get_set_other {m : List Host.Cell} {k j : Nat} {b : Byte} (h : Memory.wf m = true) (hj : j ≠ k) :
    Memory.get (Memory.set m k b) j = Memory.get m j := by
  unfold Memory.get Memory.set Sparse.get Sparse.set
  split
  · exact Sparse.get_erase_other h hj
  · exact Store.get_set_other _ _ _ hj

/-- A write of bytes leaves every byte outside them alone. -/
theorem Memory.get_write_other {m : List Host.Cell} {bs : List Byte} {k j : Nat} (h : Memory.wf m = true)
    (hj : j < k ∨ k + bs.length ≤ j) : Memory.get (Memory.write m k bs) j = Memory.get m j := by
  induction bs generalizing m k with
  | nil => rfl
  | cons b bs ih =>
    simp only [List.length_cons] at hj
    rw [Memory.write, ih (Memory.wf_set h) (by omega), Memory.get_set_other h (by omega)]

/-- Bytes just written read back. -/
theorem Memory.read_write_same {m : List Host.Cell} {bs : List Byte} {k : Nat} (h : Memory.wf m = true) :
    Memory.read (Memory.write m k bs) k bs.length = bs := by
  induction bs generalizing m k with
  | nil => rfl
  | cons b bs ih =>
    simp only [List.length_cons, Memory.read, Memory.write]
    rw [ih (Memory.wf_set h), Memory.get_write_other (Memory.wf_set h) (by omega), Memory.get_set_same h]

/-- Memory right after reset is in its canonical form. -/
theorem State.reset_wf : Memory.wf State.reset.mem = true := rfl

/-! ## Slots, cores and the rest by their accessors -/

@[simp] theorem State.slot_setSlot (s : State) (ta : Nat) (x : Slot) : (s.setSlot ta x).slot ta = x := by
  simp [State.slot, State.setSlot]

theorem State.slot_setSlot_other (s : State) {ta tb : Nat} (x : Slot) (h : tb ≠ ta) :
    (s.setSlot ta x).slot tb = s.slot tb := Store.get_set_other _ _ _ h

@[simp] theorem State.slot_modSlot (s : State) (ta : Nat) (f : Slot → Slot) : (s.modSlot ta f).slot ta = f (s.slot ta) := by
  simp [State.modSlot]

theorem State.slot_modSlot_other (s : State) {ta tb : Nat} (f : Slot → Slot) (h : tb ≠ ta) :
    (s.modSlot ta f).slot tb = s.slot tb := Store.get_set_other _ _ _ h

@[simp] theorem State.me_modMe (s : State) (f : Slot → Slot) : (s.modMe f).me = f s.me := by
  simp [State.modMe, State.me, State.modSlot, State.setSlot, State.slot]

@[simp] theorem State.slot_post (s : State) (i : Instr) (ta : Nat) : (s.post i).slot ta = s.slot ta := rfl
@[simp] theorem State.me_post (s : State) (i : Instr) : (s.post i).me = s.me := rfl
@[simp] theorem State.slot_setMem (s : State) (m : List Host.Cell) (ta : Nat) : (s.setMem m).slot ta = s.slot ta := rfl
@[simp] theorem State.me_setMem (s : State) (m : List Host.Cell) : (s.setMem m).me = s.me := rfl
@[simp] theorem State.slot_modCore (s : State) (c : Nat) (f : CoreSt → CoreSt) (ta : Nat) :
    (s.modCore c f).slot ta = s.slot ta := rfl
@[simp] theorem State.me_modCore (s : State) (c : Nat) (f : CoreSt → CoreSt) : (s.modCore c f).me = s.me := rfl

@[simp] theorem State.core_modCore (s : State) (c : Nat) (f : CoreSt → CoreSt) : (s.modCore c f).core c = f (s.core c) := by
  simp [State.core, State.modCore]

@[simp] theorem State.die_modDie (s : State) (d : Nat) (f : DieSt → DieSt) : (s.modDie d f).die d = f (s.die d) := by
  simp [State.die, State.modDie]

@[simp] theorem State.ctx_setCtx (s : State) (n : Nat) (c : Option Ctx) : (s.setCtx n c).ctx n = c := by
  simp [State.ctx, State.setCtx]

/-! ## g registers -/

/-- A register read after a write of it; g0 reads 0 and FULL whatever is written (R21). -/
theorem Slot.greg_setG (sl : Slot) (r q : Reg) (x : GReg) :
    (sl.setG r x).greg q = if q = 0 then ⟨0, .full, false⟩ else if q = r then x else sl.greg q := by
  unfold Slot.greg
  by_cases h0 : q = 0
  · rw [if_pos h0, if_pos h0]
  · rw [if_neg h0, if_neg h0]
    unfold Slot.setG
    by_cases hr : r = 0
    · rw [if_pos hr, if_neg (by rw [hr]; exact h0), if_neg h0]
    · rw [if_neg hr]
      by_cases hq : q = r
      · subst hq
        rw [if_pos rfl]
        exact Vector.getElem_set_self _
      · have h : r.toNat ≠ q.toNat := fun e => hq (BitVec.eq_of_toNat_eq e.symm)
        rw [if_neg hq, if_neg h0]
        exact Vector.getElem_set_ne r.isLt q.isLt h

theorem Slot.greg_writeG (sl : Slot) (r q : Reg) (v : Word) :
    (sl.writeG r v).greg q = if q = 0 then ⟨0, .full, false⟩ else if q = r then ⟨v, .full, false⟩ else sl.greg q :=
  Slot.greg_setG sl r q _

@[simp] theorem Slot.greg_zero (sl : Slot) : sl.greg 0 = ⟨0, .full, false⟩ := rfl

end Sys2Proof.Machine
end

