-- ==== Sys2Proof/Laws/Issue.lean ====
section
/-! SUPPORT. Laws of issue: results, the examination of sources, counters, retirement and faults. -/

namespace Sys2Proof.Machine

/-! ## Results -/

@[simp] theorem Res.bind_ok {α β : Type} (s : State) (a : α) (f : State → α → Res β) : (Res.ok s a).bind f = f s a := rfl
@[simp] theorem Res.bind_wait {α β : Type} (s : State) (f : State → α → Res β) : (Res.wait s : Res α).bind f = .wait s := rfl
@[simp] theorem Res.bind_trap {α β : Type} (s : State) (c : Nat) (v : Word) (f : State → α → Res β) :
    (Res.trap s c v : Res α).bind f = .trap s c v := rfl

@[simp] theorem need_true (c : Nat) (v : Word) (s : State) : need true c v s = .ok s () := rfl
@[simp] theorem need_false (c : Nat) (v : Word) (s : State) : need false c v s = .trap s c v := rfl
@[simp] theorem await_true (s : State) : await true s = .ok s () := rfl
@[simp] theorem await_false (s : State) : await false s = .wait s := rfl

theorem need_ok {b : Bool} (h : b = true) (c : Nat) (v : Word) (s : State) : need b c v s = .ok s () := by rw [h]; rfl
theorem await_ok {b : Bool} (h : b = true) (s : State) : await b s = .ok s () := by rw [h]; rfl

/-! ## Sources and destinations -/

/-- With every source FULL the examination passes (R30). -/
theorem State.examine_ok {s : State} {l : List Src} (h : ∀ x ∈ l, (s.me.greg x.reg).pres = .full) :
    s.examine l = .ok s () := by
  have h1 : firstTrap s.me l = none := by
    unfold firstTrap
    rw [List.find?_eq_none]
    intro x hx
    rw [h x hx]
    simp
  have h2 : firstPois s.me l = none := by
    unfold firstPois
    rw [List.find?_eq_none]
    intro x hx
    rw [h x hx]
    simp
  have h3 : (l.any fun x => (s.me.greg x.reg).pres == .empty) = false := by
    rw [List.any_eq_false]
    intro x hx
    rw [h x hx]
    simp
  unfold State.examine
  rw [h1, h2, h3]
  rfl

/-- A register that is not pending may be written (R22). -/
theorem State.freeG_ok {s : State} {r : Reg} (h : (s.me.greg r).pend = false) : s.freeG r = .ok s () := by
  unfold State.freeG
  rw [h]
  rfl

/-- With no parked store and no discarded one, the wait for RPQ = 0 passes (R105). -/
theorem State.waitRpq_ok {s : State} (h1 : s.me.viewBad = none) (h2 : s.myRpq s.cur = []) : s.waitRpq = .ok s () := by
  unfold State.waitRpq
  rw [h1, h2]
  rfl

/-! ## Counters: nothing but the cores changes -/

@[simp] theorem State.count_cur (s : State) (ta ev n : Nat) : (s.count ta ev n).cur = s.cur := by
  unfold State.count; dsimp only; split <;> rfl
@[simp] theorem State.count_mem (s : State) (ta ev n : Nat) : (s.count ta ev n).mem = s.mem := by
  unfold State.count; dsimp only; split <;> rfl
@[simp] theorem State.count_poison (s : State) (ta ev n : Nat) : (s.count ta ev n).poison = s.poison := by
  unfold State.count; dsimp only; split <;> rfl
@[simp] theorem State.count_time (s : State) (ta ev n : Nat) : (s.count ta ev n).time = s.time := by
  unfold State.count; dsimp only; split <;> rfl
@[simp] theorem State.count_slots (s : State) (ta ev n : Nat) : (s.count ta ev n).slots = s.slots := by
  unfold State.count; dsimp only; split <;> rfl
@[simp] theorem State.count_parked (s : State) (ta ev n : Nat) : (s.count ta ev n).parked = s.parked := by
  unfold State.count; dsimp only; split <;> rfl
@[simp] theorem State.count_agreed (s : State) (ta ev n : Nat) : (s.count ta ev n).agreed = s.agreed := by
  unfold State.count; dsimp only; split <;> rfl
@[simp] theorem State.count_quads (s : State) (ta ev n : Nat) : (s.count ta ev n).quads = s.quads := by
  unfold State.count; dsimp only; split <;> rfl
@[simp] theorem State.count_dies (s : State) (ta ev n : Nat) : (s.count ta ev n).dies = s.dies := by
  unfold State.count; dsimp only; split <;> rfl
@[simp] theorem State.count_ctxs (s : State) (ta ev n : Nat) : (s.count ta ev n).ctxs = s.ctxs := by
  unfold State.count; dsimp only; split <;> rfl
@[simp] theorem State.count_units (s : State) (ta ev n : Nat) : (s.count ta ev n).units = s.units := by
  unfold State.count; dsimp only; split <;> rfl
@[simp] theorem State.count_ready (s : State) (ta ev n : Nat) : (s.count ta ev n).ready = s.ready := by
  unfold State.count; dsimp only; split <;> rfl
@[simp] theorem State.count_credits (s : State) (ta ev n : Nat) : (s.count ta ev n).credits = s.credits := by
  unfold State.count; dsimp only; split <;> rfl
@[simp] theorem State.count_engines (s : State) (ta ev n : Nat) : (s.count ta ev n).engines = s.engines := by
  unfold State.count; dsimp only; split <;> rfl
@[simp] theorem State.count_strands (s : State) (ta ev n : Nat) : (s.count ta ev n).strands = s.strands := by
  unfold State.count; dsimp only; split <;> rfl
@[simp] theorem State.count_regions (s : State) (ta ev n : Nat) : (s.count ta ev n).regions = s.regions := by
  unfold State.count; dsimp only; split <;> rfl
@[simp] theorem State.count_tlb (s : State) (ta ev n : Nat) : (s.count ta ev n).tlb = s.tlb := by
  unfold State.count; dsimp only; split <;> rfl
@[simp] theorem State.count_retain (s : State) (ta ev n : Nat) : (s.count ta ev n).retain = s.retain := by
  unfold State.count; dsimp only; split <;> rfl
@[simp] theorem State.count_fmts (s : State) (ta ev n : Nat) : (s.count ta ev n).fmts = s.fmts := by
  unfold State.count; dsimp only; split <;> rfl
@[simp] theorem State.count_host (s : State) (ta ev n : Nat) : (s.count ta ev n).host = s.host := by
  unfold State.count; dsimp only; split <;> rfl
@[simp] theorem State.count_trace (s : State) (ta ev n : Nat) : (s.count ta ev n).trace = s.trace := by
  unfold State.count; dsimp only; split <;> rfl
@[simp] theorem State.count_replay (s : State) (ta ev n : Nat) : (s.count ta ev n).replay = s.replay := by
  unfold State.count; dsimp only; split <;> rfl
@[simp] theorem State.count_grid (s : State) (ta ev n : Nat) : (s.count ta ev n).grid = s.grid := by
  unfold State.count; dsimp only; split <;> rfl
@[simp] theorem State.count_ras (s : State) (ta ev n : Nat) : (s.count ta ev n).ras = s.ras := by
  unfold State.count; dsimp only; split <;> rfl
@[simp] theorem State.count_agenda (s : State) (ta ev n : Nat) : (s.count ta ev n).agenda = s.agenda := by
  unfold State.count; dsimp only; split <;> rfl
@[simp] theorem State.count_ctr (s : State) (ta ev n : Nat) : (s.count ta ev n).ctr = s.ctr := by
  unfold State.count; dsimp only; split <;> rfl
@[simp] theorem State.count_nextUid (s : State) (ta ev n : Nat) : (s.count ta ev n).nextUid = s.nextUid := by
  unfold State.count; dsimp only; split <;> rfl

@[simp] theorem State.countMe_cur (s : State) (ev n : Nat) : (s.countMe ev n).cur = s.cur := State.count_cur ..
@[simp] theorem State.countMe_mem (s : State) (ev n : Nat) : (s.countMe ev n).mem = s.mem := State.count_mem ..
@[simp] theorem State.countMe_poison (s : State) (ev n : Nat) : (s.countMe ev n).poison = s.poison := State.count_poison ..
@[simp] theorem State.countMe_time (s : State) (ev n : Nat) : (s.countMe ev n).time = s.time := State.count_time ..
@[simp] theorem State.countMe_slots (s : State) (ev n : Nat) : (s.countMe ev n).slots = s.slots := State.count_slots ..
@[simp] theorem State.countMe_parked (s : State) (ev n : Nat) : (s.countMe ev n).parked = s.parked := State.count_parked ..
@[simp] theorem State.countMe_agreed (s : State) (ev n : Nat) : (s.countMe ev n).agreed = s.agreed := State.count_agreed ..
@[simp] theorem State.countMe_quads (s : State) (ev n : Nat) : (s.countMe ev n).quads = s.quads := State.count_quads ..
@[simp] theorem State.countMe_dies (s : State) (ev n : Nat) : (s.countMe ev n).dies = s.dies := State.count_dies ..
@[simp] theorem State.countMe_ctxs (s : State) (ev n : Nat) : (s.countMe ev n).ctxs = s.ctxs := State.count_ctxs ..
@[simp] theorem State.countMe_units (s : State) (ev n : Nat) : (s.countMe ev n).units = s.units := State.count_units ..
@[simp] theorem State.countMe_ready (s : State) (ev n : Nat) : (s.countMe ev n).ready = s.ready := State.count_ready ..
@[simp] theorem State.countMe_credits (s : State) (ev n : Nat) : (s.countMe ev n).credits = s.credits := State.count_credits ..
@[simp] theorem State.countMe_engines (s : State) (ev n : Nat) : (s.countMe ev n).engines = s.engines := State.count_engines ..
@[simp] theorem State.countMe_strands (s : State) (ev n : Nat) : (s.countMe ev n).strands = s.strands := State.count_strands ..
@[simp] theorem State.countMe_regions (s : State) (ev n : Nat) : (s.countMe ev n).regions = s.regions := State.count_regions ..
@[simp] theorem State.countMe_tlb (s : State) (ev n : Nat) : (s.countMe ev n).tlb = s.tlb := State.count_tlb ..
@[simp] theorem State.countMe_retain (s : State) (ev n : Nat) : (s.countMe ev n).retain = s.retain := State.count_retain ..
@[simp] theorem State.countMe_fmts (s : State) (ev n : Nat) : (s.countMe ev n).fmts = s.fmts := State.count_fmts ..
@[simp] theorem State.countMe_host (s : State) (ev n : Nat) : (s.countMe ev n).host = s.host := State.count_host ..
@[simp] theorem State.countMe_trace (s : State) (ev n : Nat) : (s.countMe ev n).trace = s.trace := State.count_trace ..
@[simp] theorem State.countMe_replay (s : State) (ev n : Nat) : (s.countMe ev n).replay = s.replay := State.count_replay ..
@[simp] theorem State.countMe_grid (s : State) (ev n : Nat) : (s.countMe ev n).grid = s.grid := State.count_grid ..
@[simp] theorem State.countMe_ras (s : State) (ev n : Nat) : (s.countMe ev n).ras = s.ras := State.count_ras ..
@[simp] theorem State.countMe_agenda (s : State) (ev n : Nat) : (s.countMe ev n).agenda = s.agenda := State.count_agenda ..
@[simp] theorem State.countMe_ctr (s : State) (ev n : Nat) : (s.countMe ev n).ctr = s.ctr := State.count_ctr ..
@[simp] theorem State.countMe_nextUid (s : State) (ev n : Nat) : (s.countMe ev n).nextUid = s.nextUid := State.count_nextUid ..

@[simp] theorem State.countAll_cur (s : State) (l : List (Nat × Nat)) : (s.countAll l).cur = s.cur := by
  induction l generalizing s with
  | nil => rfl
  | cons e es ih => exact (ih _).trans (State.countMe_cur ..)
@[simp] theorem State.countAll_mem (s : State) (l : List (Nat × Nat)) : (s.countAll l).mem = s.mem := by
  induction l generalizing s with
  | nil => rfl
  | cons e es ih => exact (ih _).trans (State.countMe_mem ..)
@[simp] theorem State.countAll_poison (s : State) (l : List (Nat × Nat)) : (s.countAll l).poison = s.poison := by
  induction l generalizing s with
  | nil => rfl
  | cons e es ih => exact (ih _).trans (State.countMe_poison ..)
@[simp] theorem State.countAll_time (s : State) (l : List (Nat × Nat)) : (s.countAll l).time = s.time := by
  induction l generalizing s with
  | nil => rfl
  | cons e es ih => exact (ih _).trans (State.countMe_time ..)
@[simp] theorem State.countAll_slots (s : State) (l : List (Nat × Nat)) : (s.countAll l).slots = s.slots := by
  induction l generalizing s with
  | nil => rfl
  | cons e es ih => exact (ih _).trans (State.countMe_slots ..)
@[simp] theorem State.countAll_parked (s : State) (l : List (Nat × Nat)) : (s.countAll l).parked = s.parked := by
  induction l generalizing s with
  | nil => rfl
  | cons e es ih => exact (ih _).trans (State.countMe_parked ..)
@[simp] theorem State.countAll_agreed (s : State) (l : List (Nat × Nat)) : (s.countAll l).agreed = s.agreed := by
  induction l generalizing s with
  | nil => rfl
  | cons e es ih => exact (ih _).trans (State.countMe_agreed ..)
@[simp] theorem State.countAll_quads (s : State) (l : List (Nat × Nat)) : (s.countAll l).quads = s.quads := by
  induction l generalizing s with
  | nil => rfl
  | cons e es ih => exact (ih _).trans (State.countMe_quads ..)
@[simp] theorem State.countAll_dies (s : State) (l : List (Nat × Nat)) : (s.countAll l).dies = s.dies := by
  induction l generalizing s with
  | nil => rfl
  | cons e es ih => exact (ih _).trans (State.countMe_dies ..)
@[simp] theorem State.countAll_ctxs (s : State) (l : List (Nat × Nat)) : (s.countAll l).ctxs = s.ctxs := by
  induction l generalizing s with
  | nil => rfl
  | cons e es ih => exact (ih _).trans (State.countMe_ctxs ..)
@[simp] theorem State.countAll_units (s : State) (l : List (Nat × Nat)) : (s.countAll l).units = s.units := by
  induction l generalizing s with
  | nil => rfl
  | cons e es ih => exact (ih _).trans (State.countMe_units ..)
@[simp] theorem State.countAll_ready (s : State) (l : List (Nat × Nat)) : (s.countAll l).ready = s.ready := by
  induction l generalizing s with
  | nil => rfl
  | cons e es ih => exact (ih _).trans (State.countMe_ready ..)
@[simp] theorem State.countAll_credits (s : State) (l : List (Nat × Nat)) : (s.countAll l).credits = s.credits := by
  induction l generalizing s with
  | nil => rfl
  | cons e es ih => exact (ih _).trans (State.countMe_credits ..)
@[simp] theorem State.countAll_engines (s : State) (l : List (Nat × Nat)) : (s.countAll l).engines = s.engines := by
  induction l generalizing s with
  | nil => rfl
  | cons e es ih => exact (ih _).trans (State.countMe_engines ..)
@[simp] theorem State.countAll_strands (s : State) (l : List (Nat × Nat)) : (s.countAll l).strands = s.strands := by
  induction l generalizing s with
  | nil => rfl
  | cons e es ih => exact (ih _).trans (State.countMe_strands ..)
@[simp] theorem State.countAll_regions (s : State) (l : List (Nat × Nat)) : (s.countAll l).regions = s.regions := by
  induction l generalizing s with
  | nil => rfl
  | cons e es ih => exact (ih _).trans (State.countMe_regions ..)
@[simp] theorem State.countAll_tlb (s : State) (l : List (Nat × Nat)) : (s.countAll l).tlb = s.tlb := by
  induction l generalizing s with
  | nil => rfl
  | cons e es ih => exact (ih _).trans (State.countMe_tlb ..)
@[simp] theorem State.countAll_retain (s : State) (l : List (Nat × Nat)) : (s.countAll l).retain = s.retain := by
  induction l generalizing s with
  | nil => rfl
  | cons e es ih => exact (ih _).trans (State.countMe_retain ..)
@[simp] theorem State.countAll_fmts (s : State) (l : List (Nat × Nat)) : (s.countAll l).fmts = s.fmts := by
  induction l generalizing s with
  | nil => rfl
  | cons e es ih => exact (ih _).trans (State.countMe_fmts ..)
@[simp] theorem State.countAll_host (s : State) (l : List (Nat × Nat)) : (s.countAll l).host = s.host := by
  induction l generalizing s with
  | nil => rfl
  | cons e es ih => exact (ih _).trans (State.countMe_host ..)
@[simp] theorem State.countAll_trace (s : State) (l : List (Nat × Nat)) : (s.countAll l).trace = s.trace := by
  induction l generalizing s with
  | nil => rfl
  | cons e es ih => exact (ih _).trans (State.countMe_trace ..)
@[simp] theorem State.countAll_replay (s : State) (l : List (Nat × Nat)) : (s.countAll l).replay = s.replay := by
  induction l generalizing s with
  | nil => rfl
  | cons e es ih => exact (ih _).trans (State.countMe_replay ..)
@[simp] theorem State.countAll_grid (s : State) (l : List (Nat × Nat)) : (s.countAll l).grid = s.grid := by
  induction l generalizing s with
  | nil => rfl
  | cons e es ih => exact (ih _).trans (State.countMe_grid ..)
@[simp] theorem State.countAll_ras (s : State) (l : List (Nat × Nat)) : (s.countAll l).ras = s.ras := by
  induction l generalizing s with
  | nil => rfl
  | cons e es ih => exact (ih _).trans (State.countMe_ras ..)
@[simp] theorem State.countAll_agenda (s : State) (l : List (Nat × Nat)) : (s.countAll l).agenda = s.agenda := by
  induction l generalizing s with
  | nil => rfl
  | cons e es ih => exact (ih _).trans (State.countMe_agenda ..)
@[simp] theorem State.countAll_ctr (s : State) (l : List (Nat × Nat)) : (s.countAll l).ctr = s.ctr := by
  induction l generalizing s with
  | nil => rfl
  | cons e es ih => exact (ih _).trans (State.countMe_ctr ..)
@[simp] theorem State.countAll_nextUid (s : State) (l : List (Nat × Nat)) : (s.countAll l).nextUid = s.nextUid := by
  induction l generalizing s with
  | nil => rfl
  | cons e es ih => exact (ih _).trans (State.countMe_nextUid ..)

@[simp] theorem State.countIssue_cur (s : State) (p : Pipe) : (s.countIssue p).cur = s.cur := by
  cases p <;> (unfold State.countIssue; dsimp only; split) <;> simp only [State.countMe_cur, State.countAll_cur]
@[simp] theorem State.countIssue_mem (s : State) (p : Pipe) : (s.countIssue p).mem = s.mem := by
  cases p <;> (unfold State.countIssue; dsimp only; split) <;> simp only [State.countMe_mem, State.countAll_mem]
@[simp] theorem State.countIssue_poison (s : State) (p : Pipe) : (s.countIssue p).poison = s.poison := by
  cases p <;> (unfold State.countIssue; dsimp only; split) <;> simp only [State.countMe_poison, State.countAll_poison]
@[simp] theorem State.countIssue_time (s : State) (p : Pipe) : (s.countIssue p).time = s.time := by
  cases p <;> (unfold State.countIssue; dsimp only; split) <;> simp only [State.countMe_time, State.countAll_time]
@[simp] theorem State.countIssue_slots (s : State) (p : Pipe) : (s.countIssue p).slots = s.slots := by
  cases p <;> (unfold State.countIssue; dsimp only; split) <;> simp only [State.countMe_slots, State.countAll_slots]
@[simp] theorem State.countIssue_parked (s : State) (p : Pipe) : (s.countIssue p).parked = s.parked := by
  cases p <;> (unfold State.countIssue; dsimp only; split) <;> simp only [State.countMe_parked, State.countAll_parked]
@[simp] theorem State.countIssue_agreed (s : State) (p : Pipe) : (s.countIssue p).agreed = s.agreed := by
  cases p <;> (unfold State.countIssue; dsimp only; split) <;> simp only [State.countMe_agreed, State.countAll_agreed]
@[simp] theorem State.countIssue_quads (s : State) (p : Pipe) : (s.countIssue p).quads = s.quads := by
  cases p <;> (unfold State.countIssue; dsimp only; split) <;> simp only [State.countMe_quads, State.countAll_quads]
@[simp] theorem State.countIssue_dies (s : State) (p : Pipe) : (s.countIssue p).dies = s.dies := by
  cases p <;> (unfold State.countIssue; dsimp only; split) <;> simp only [State.countMe_dies, State.countAll_dies]
@[simp] theorem State.countIssue_ctxs (s : State) (p : Pipe) : (s.countIssue p).ctxs = s.ctxs := by
  cases p <;> (unfold State.countIssue; dsimp only; split) <;> simp only [State.countMe_ctxs, State.countAll_ctxs]
@[simp] theorem State.countIssue_units (s : State) (p : Pipe) : (s.countIssue p).units = s.units := by
  cases p <;> (unfold State.countIssue; dsimp only; split) <;> simp only [State.countMe_units, State.countAll_units]
@[simp] theorem State.countIssue_ready (s : State) (p : Pipe) : (s.countIssue p).ready = s.ready := by
  cases p <;> (unfold State.countIssue; dsimp only; split) <;> simp only [State.countMe_ready, State.countAll_ready]
@[simp] theorem State.countIssue_credits (s : State) (p : Pipe) : (s.countIssue p).credits = s.credits := by
  cases p <;> (unfold State.countIssue; dsimp only; split) <;> simp only [State.countMe_credits, State.countAll_credits]
@[simp] theorem State.countIssue_engines (s : State) (p : Pipe) : (s.countIssue p).engines = s.engines := by
  cases p <;> (unfold State.countIssue; dsimp only; split) <;> simp only [State.countMe_engines, State.countAll_engines]
@[simp] theorem State.countIssue_strands (s : State) (p : Pipe) : (s.countIssue p).strands = s.strands := by
  cases p <;> (unfold State.countIssue; dsimp only; split) <;> simp only [State.countMe_strands, State.countAll_strands]
@[simp] theorem State.countIssue_regions (s : State) (p : Pipe) : (s.countIssue p).regions = s.regions := by
  cases p <;> (unfold State.countIssue; dsimp only; split) <;> simp only [State.countMe_regions, State.countAll_regions]
@[simp] theorem State.countIssue_tlb (s : State) (p : Pipe) : (s.countIssue p).tlb = s.tlb := by
  cases p <;> (unfold State.countIssue; dsimp only; split) <;> simp only [State.countMe_tlb, State.countAll_tlb]
@[simp] theorem State.countIssue_retain (s : State) (p : Pipe) : (s.countIssue p).retain = s.retain := by
  cases p <;> (unfold State.countIssue; dsimp only; split) <;> simp only [State.countMe_retain, State.countAll_retain]
@[simp] theorem State.countIssue_fmts (s : State) (p : Pipe) : (s.countIssue p).fmts = s.fmts := by
  cases p <;> (unfold State.countIssue; dsimp only; split) <;> simp only [State.countMe_fmts, State.countAll_fmts]
@[simp] theorem State.countIssue_host (s : State) (p : Pipe) : (s.countIssue p).host = s.host := by
  cases p <;> (unfold State.countIssue; dsimp only; split) <;> simp only [State.countMe_host, State.countAll_host]
@[simp] theorem State.countIssue_trace (s : State) (p : Pipe) : (s.countIssue p).trace = s.trace := by
  cases p <;> (unfold State.countIssue; dsimp only; split) <;> simp only [State.countMe_trace, State.countAll_trace]
@[simp] theorem State.countIssue_replay (s : State) (p : Pipe) : (s.countIssue p).replay = s.replay := by
  cases p <;> (unfold State.countIssue; dsimp only; split) <;> simp only [State.countMe_replay, State.countAll_replay]
@[simp] theorem State.countIssue_grid (s : State) (p : Pipe) : (s.countIssue p).grid = s.grid := by
  cases p <;> (unfold State.countIssue; dsimp only; split) <;> simp only [State.countMe_grid, State.countAll_grid]
@[simp] theorem State.countIssue_ras (s : State) (p : Pipe) : (s.countIssue p).ras = s.ras := by
  cases p <;> (unfold State.countIssue; dsimp only; split) <;> simp only [State.countMe_ras, State.countAll_ras]
@[simp] theorem State.countIssue_agenda (s : State) (p : Pipe) : (s.countIssue p).agenda = s.agenda := by
  cases p <;> (unfold State.countIssue; dsimp only; split) <;> simp only [State.countMe_agenda, State.countAll_agenda]
@[simp] theorem State.countIssue_ctr (s : State) (p : Pipe) : (s.countIssue p).ctr = s.ctr := by
  cases p <;> (unfold State.countIssue; dsimp only; split) <;> simp only [State.countMe_ctr, State.countAll_ctr]
@[simp] theorem State.countIssue_nextUid (s : State) (p : Pipe) : (s.countIssue p).nextUid = s.nextUid := by
  cases p <;> (unfold State.countIssue; dsimp only; split) <;> simp only [State.countMe_nextUid, State.countAll_nextUid]

@[simp] theorem State.uncount_cur (s s₀ : State) : (s.uncount s₀).cur = s.cur := rfl
@[simp] theorem State.uncount_mem (s s₀ : State) : (s.uncount s₀).mem = s.mem := rfl
@[simp] theorem State.uncount_poison (s s₀ : State) : (s.uncount s₀).poison = s.poison := rfl
@[simp] theorem State.uncount_time (s s₀ : State) : (s.uncount s₀).time = s.time := rfl
@[simp] theorem State.uncount_slots (s s₀ : State) : (s.uncount s₀).slots = s.slots := rfl
@[simp] theorem State.uncount_parked (s s₀ : State) : (s.uncount s₀).parked = s.parked := rfl
@[simp] theorem State.uncount_agreed (s s₀ : State) : (s.uncount s₀).agreed = s.agreed := rfl
@[simp] theorem State.uncount_quads (s s₀ : State) : (s.uncount s₀).quads = s.quads := rfl
@[simp] theorem State.uncount_dies (s s₀ : State) : (s.uncount s₀).dies = s.dies := rfl
@[simp] theorem State.uncount_ctxs (s s₀ : State) : (s.uncount s₀).ctxs = s.ctxs := rfl
@[simp] theorem State.uncount_units (s s₀ : State) : (s.uncount s₀).units = s.units := rfl
@[simp] theorem State.uncount_ready (s s₀ : State) : (s.uncount s₀).ready = s.ready := rfl
@[simp] theorem State.uncount_credits (s s₀ : State) : (s.uncount s₀).credits = s.credits := rfl
@[simp] theorem State.uncount_engines (s s₀ : State) : (s.uncount s₀).engines = s.engines := rfl
@[simp] theorem State.uncount_strands (s s₀ : State) : (s.uncount s₀).strands = s.strands := rfl
@[simp] theorem State.uncount_regions (s s₀ : State) : (s.uncount s₀).regions = s.regions := rfl
@[simp] theorem State.uncount_tlb (s s₀ : State) : (s.uncount s₀).tlb = s.tlb := rfl
@[simp] theorem State.uncount_retain (s s₀ : State) : (s.uncount s₀).retain = s.retain := rfl
@[simp] theorem State.uncount_fmts (s s₀ : State) : (s.uncount s₀).fmts = s.fmts := rfl
@[simp] theorem State.uncount_host (s s₀ : State) : (s.uncount s₀).host = s.host := rfl
@[simp] theorem State.uncount_trace (s s₀ : State) : (s.uncount s₀).trace = s.trace := rfl
@[simp] theorem State.uncount_replay (s s₀ : State) : (s.uncount s₀).replay = s.replay := rfl
@[simp] theorem State.uncount_grid (s s₀ : State) : (s.uncount s₀).grid = s.grid := rfl
@[simp] theorem State.uncount_ras (s s₀ : State) : (s.uncount s₀).ras = s.ras := rfl
@[simp] theorem State.uncount_agenda (s s₀ : State) : (s.uncount s₀).agenda = s.agenda := rfl
@[simp] theorem State.uncount_ctr (s s₀ : State) : (s.uncount s₀).ctr = s.ctr := rfl
@[simp] theorem State.uncount_nextUid (s s₀ : State) : (s.uncount s₀).nextUid = s.nextUid := rfl

@[simp] theorem State.retireTo_cur (s : State) (t : Word) : (s.retireTo t).cur = s.cur := rfl
@[simp] theorem State.retireTo_mem (s : State) (t : Word) : (s.retireTo t).mem = s.mem := rfl
@[simp] theorem State.retireTo_poison (s : State) (t : Word) : (s.retireTo t).poison = s.poison := rfl
@[simp] theorem State.retireTo_time (s : State) (t : Word) : (s.retireTo t).time = s.time := rfl
@[simp] theorem State.retireTo_parked (s : State) (t : Word) : (s.retireTo t).parked = s.parked := rfl
@[simp] theorem State.retireTo_agreed (s : State) (t : Word) : (s.retireTo t).agreed = s.agreed := rfl
@[simp] theorem State.retireTo_cores (s : State) (t : Word) : (s.retireTo t).cores = s.cores := rfl
@[simp] theorem State.retireTo_quads (s : State) (t : Word) : (s.retireTo t).quads = s.quads := rfl
@[simp] theorem State.retireTo_dies (s : State) (t : Word) : (s.retireTo t).dies = s.dies := rfl
@[simp] theorem State.retireTo_ctxs (s : State) (t : Word) : (s.retireTo t).ctxs = s.ctxs := rfl
@[simp] theorem State.retireTo_units (s : State) (t : Word) : (s.retireTo t).units = s.units := rfl
@[simp] theorem State.retireTo_ready (s : State) (t : Word) : (s.retireTo t).ready = s.ready := rfl
@[simp] theorem State.retireTo_credits (s : State) (t : Word) : (s.retireTo t).credits = s.credits := rfl
@[simp] theorem State.retireTo_engines (s : State) (t : Word) : (s.retireTo t).engines = s.engines := rfl
@[simp] theorem State.retireTo_strands (s : State) (t : Word) : (s.retireTo t).strands = s.strands := rfl
@[simp] theorem State.retireTo_regions (s : State) (t : Word) : (s.retireTo t).regions = s.regions := rfl
@[simp] theorem State.retireTo_tlb (s : State) (t : Word) : (s.retireTo t).tlb = s.tlb := rfl
@[simp] theorem State.retireTo_retain (s : State) (t : Word) : (s.retireTo t).retain = s.retain := rfl
@[simp] theorem State.retireTo_fmts (s : State) (t : Word) : (s.retireTo t).fmts = s.fmts := rfl
@[simp] theorem State.retireTo_host (s : State) (t : Word) : (s.retireTo t).host = s.host := rfl
@[simp] theorem State.retireTo_trace (s : State) (t : Word) : (s.retireTo t).trace = s.trace := rfl
@[simp] theorem State.retireTo_replay (s : State) (t : Word) : (s.retireTo t).replay = s.replay := rfl
@[simp] theorem State.retireTo_grid (s : State) (t : Word) : (s.retireTo t).grid = s.grid := rfl
@[simp] theorem State.retireTo_ras (s : State) (t : Word) : (s.retireTo t).ras = s.ras := rfl
@[simp] theorem State.retireTo_agenda (s : State) (t : Word) : (s.retireTo t).agenda = s.agenda := rfl
@[simp] theorem State.retireTo_ctr (s : State) (t : Word) : (s.retireTo t).ctr = s.ctr := rfl
@[simp] theorem State.retireTo_nextUid (s : State) (t : Word) : (s.retireTo t).nextUid = s.nextUid := rfl

@[simp] theorem State.slot_count (s : State) (ta ev n tb : Nat) : (s.count ta ev n).slot tb = s.slot tb := by
  unfold State.slot; rw [State.count_slots]
@[simp] theorem State.slot_countMe (s : State) (ev n tb : Nat) : (s.countMe ev n).slot tb = s.slot tb := State.slot_count ..
@[simp] theorem State.me_countMe (s : State) (ev n : Nat) : (s.countMe ev n).me = s.me := by
  unfold State.me; rw [State.countMe_cur, State.slot_countMe]
@[simp] theorem State.slot_countIssue (s : State) (p : Pipe) (tb : Nat) : (s.countIssue p).slot tb = s.slot tb := by
  unfold State.slot; rw [State.countIssue_slots]
@[simp] theorem State.me_countIssue (s : State) (p : Pipe) : (s.countIssue p).me = s.me := by
  unfold State.me; rw [State.countIssue_cur, State.slot_countIssue]

/-! ## Issue -/

/-- A slot that is no lashed pair has no exchange point. -/
theorem State.preIssue_single {s : State} (h : s.me.paired = false) (r : Reach) : s.preIssue r = s := by
  unfold State.preIssue
  dsimp only
  rw [h]
  rfl

/-- What an instruction whose body goes on leaves. -/
theorem issueTo_ok {p : Pipe} {r : Reach} {body : State → Res Word} {s t : State} {pc : Word}
    (h : body (s.preIssue r) = .ok t pc) : issueTo p r body s = .next ((t.countIssue p).retireTo pc) := by
  unfold issueTo
  rw [h]

theorem issue_ok {p : Pipe} {r : Reach} {body : State → Res Unit} {s t : State}
    (h : body (s.preIssue r) = .ok t ()) : issue p r body s = .next ((t.countIssue p).retireTo t.nextPc) :=
  issueTo_ok (by rw [h]; rfl)

theorem issueTo_wait {p : Pipe} {r : Reach} {body : State → Res Word} {s t : State}
    (h : body (s.preIssue r) = .wait t) : issueTo p r body s = .next t := by
  unfold issueTo
  rw [h]

theorem issueTo_trap {p : Pipe} {r : Reach} {body : State → Res Word} {s t : State} {c : Nat} {v : Word}
    (h : body (s.preIssue r) = .trap t c v) : issueTo p r body s = .next ((t.uncount s).raise s.cur c v) := by
  unfold issueTo
  rw [h]

/-- Whatever an instruction of a slot does, it answers a next state: it goes on, waits, or raises. -/
theorem issueTo_next (p : Pipe) (r : Reach) (body : State → Res Word) (s : State) : ∃ t, issueTo p r body s = .next t := by
  unfold issueTo
  split <;> exact ⟨_, rfl⟩

theorem issue_next (p : Pipe) (r : Reach) (body : State → Res Unit) (s : State) : ∃ t, issue p r body s = .next t :=
  issueTo_next ..

/-! ## Retirement -/

/-- The slot after retirement: PC moves on. -/
theorem State.me_retireTo (s : State) (t : Word) : (s.retireTo t).me =
    { s.me with pc := t, barSent := false, sptBad := none, sent := false, spl := false, words := []
                fbuf := if t = s.me.pc + BitVec.ofNat 64 s.me.ilen then s.me.fbuf.drop 1 else []
                retired := if s.me.paired then s.me.retired + 1 else s.me.retired } :=
  State.me_modMe ..

theorem State.slot_retireTo_other (s : State) (t : Word) {ta : Nat} (h : ta ≠ s.cur) : (s.retireTo t).slot ta = s.slot ta :=
  Store.get_set_other _ _ _ h

@[simp] theorem State.g_putG_same (s : State) {r : Reg} (v : Word) (h : r ≠ 0) : (s.putG r v).g r = v := by
  unfold State.putG State.g
  rw [State.me_modMe, Slot.greg_writeG, if_neg h, if_pos rfl]

end Sys2Proof.Machine
end

