-- ==== Sys2Proof/Laws/Int.lean ====
section
/-! SUPPORT. Laws of the integer forms: with their sources FULL and their destination not pending they end with the
result. -/

namespace Sys2Proof.Machine

/-- A native word with two sources ends with its result (R88). -/
theorem int3_ok (f : Word → Word → Word) {d a b : Reg} {s : State} (hp : s.me.paired = false)
    (ha : (s.me.greg a).pres = .full) (hb : (s.me.greg b).pres = .full) (hd : (s.me.greg d).pend = false) :
    int3 f d a b s = .next (((s.putG d (f (s.g a) (s.g b))).countIssue .s).retireTo (s.putG d (f (s.g a) (s.g b))).nextPc) := by
  refine issue_ok ?_
  rw [State.preIssue_single hp, State.examine_ok (by simp [blk, ha, hb]), Res.bind_ok, State.freeG_ok hd, Res.bind_ok]

/-- A native word with one source ends with its result (R95). -/
theorem int1_ok (f : Word → Word) {d a : Reg} {s : State} (hp : s.me.paired = false)
    (ha : (s.me.greg a).pres = .full) (hd : (s.me.greg d).pend = false) :
    int1 f d a s = .next (((s.putG d (f (s.g a))).countIssue .s).retireTo (s.putG d (f (s.g a))).nextPc) := by
  refine issue_ok ?_
  rw [State.preIssue_single hp, State.examine_ok (by simp [blk, ha]), Res.bind_ok, State.freeG_ok hd, Res.bind_ok]

/-- A word of XINT with a local destination ends with its result (R87). -/
theorem xint_ok {l : List Src} {d : Reg} (f : State → Word) {s : State} (hp : s.me.paired = false)
    (hl : ∀ x ∈ l, (s.me.greg x.reg).pres = .full) (hd : (s.me.greg d).pend = false) :
    xint l (.loc d) f s = .next (((s.putG d (f s)).countIssue .s).retireTo (s.putG d (f s)).nextPc) := by
  refine issue_ok ?_
  have h : (s.examine (l ++ (Dst.loc d).srcs)) = .ok s () := State.examine_ok (by simpa [Dst.srcs] using hl)
  rw [State.preIssue_single hp, h, Res.bind_ok]
  show (s.freeG d).bind _ = _
  rw [State.freeG_ok hd, Res.bind_ok]
  rfl

/-- A word of XINT with a remote destination sends its result to the register it names and ends, when the thread address
passes R19 and the message is taken (R20, R47). -/
theorem xint_remote {l : List Src} {n : BitVec 5} {e : Src} (f : State → Word) {s t : State} (hp : s.me.paired = false)
    (hl : ∀ x ∈ l, (s.me.greg x.reg).pres = .full) (he : (s.me.greg e.reg).pres = .full)
    (h : s.putDst (.rem n e) (f s) = .ok t ()) :
    xint l (.rem n e) f s = .next ((t.countIssue .s).retireTo t.nextPc) := by
  refine issue_ok ?_
  have h2 : (s.examine (l ++ (Dst.rem n e).srcs)) = .ok s () := State.examine_ok (by
    intro x hx
    rcases List.mem_append.1 hx with hx | hx
    · exact hl x hx
    · simp only [Dst.srcs, List.mem_singleton] at hx
      rw [hx]; exact he)
  rw [State.preIssue_single hp, h2, Res.bind_ok]
  show (Res.ok s ()).bind _ = _
  rw [Res.bind_ok, h]

/-! ## The results as R88, R89, R92 and R95 say them -/

theorem slice_low6 (y : Word) : slice y 0 6 = y.toNat % 64 := by simp [slice]

theorem aluRol_eq (x y : Word) : aluRol x y = x.rotateLeft (y.toNat % 64) := by
  unfold aluRol
  rw [slice_low6, BitVec.rotateLeft_def, Nat.mod_mod]

theorem aluRemu_eq (x y : Word) :
    aluRemu x y = if y = 0 then x else BitVec.ofNat 64 (x.toNat - x.toNat / y.toNat * y.toNat) := by
  unfold aluRemu
  split
  · rfl
  · rw [Nat.mod_eq_sub_div_mul]

theorem leadZeros_le (x : Word) : ∀ n, leadZeros x n ≤ n
  | 0 => Nat.le_refl 0
  | n + 1 => by
    unfold leadZeros
    have := leadZeros_le x n
    split <;> omega

theorem leadZeros_zeros (x : Word) : ∀ n i, n - leadZeros x n ≤ i → i < n → x.getLsbD i = false
  | 0, i, _, h => absurd h (Nat.not_lt_zero i)
  | n + 1, i, h1, h2 => by
    have hle := leadZeros_le x n
    unfold leadZeros at h1
    split at h1
    · omega
    · rename_i hb
      rcases Nat.lt_succ_iff_lt_or_eq.1 h2 with h3 | h3
      · exact leadZeros_zeros x n i (by omega) h3
      · subst h3; simpa [bit] using hb

theorem leadZeros_one (x : Word) : ∀ n, leadZeros x n < n → x.getLsbD (n - 1 - leadZeros x n) = true
  | 0, h => absurd h (Nat.not_lt_zero _)
  | n + 1, h => by
    unfold leadZeros at h ⊢
    split
    · rename_i hb; simpa [bit] using hb
    · rename_i hb
      rw [if_neg hb] at h
      have := leadZeros_one x n (by omega)
      rwa [show n + 1 - 1 - (1 + leadZeros x n) = n - 1 - leadZeros x n by omega]

theorem trailZeros_le (x : Word) : ∀ n i, trailZeros x n i ≤ n
  | 0, _ => Nat.le_refl 0
  | n + 1, i => by
    unfold trailZeros
    have := trailZeros_le x n (i + 1)
    split <;> omega

theorem trailZeros_zeros (x : Word) : ∀ n i j, i ≤ j → j < i + trailZeros x n i → x.getLsbD j = false
  | 0, i, j, h1, h2 => by unfold trailZeros at h2; omega
  | n + 1, i, j, h1, h2 => by
    unfold trailZeros at h2
    split at h2
    · omega
    · rename_i hb
      rcases Nat.lt_or_eq_of_le h1 with h3 | h3
      · exact trailZeros_zeros x n (i + 1) j h3 (by omega)
      · subst h3; simpa [bit] using hb

theorem trailZeros_one (x : Word) : ∀ n i, trailZeros x n i < n → x.getLsbD (i + trailZeros x n i) = true
  | 0, i, h => absurd h (Nat.not_lt_zero _)
  | n + 1, i, h => by
    unfold trailZeros at h ⊢
    split
    · rename_i hb; simpa [bit] using hb
    · rename_i hb
      rw [if_neg hb] at h
      have := trailZeros_one x n (i + 1) (by omega)
      rwa [show i + (1 + trailZeros x n (i + 1)) = i + 1 + trailZeros x n (i + 1) by omega]

theorem onesBelow_eq (x : Word) : ∀ n, onesBelow x n = ((List.range n).filter fun i => x.getLsbD i).length
  | 0 => rfl
  | n + 1 => by
    unfold onesBelow
    rw [onesBelow_eq x n, List.range_succ, List.filter_append, List.length_append]
    by_cases h : x.getLsbD n = true
    · simp [bit, h]; omega
    · simp only [Bool.not_eq_true] at h
      simp [bit, h]

theorem bitRev_getLsbD (x : Word) : ∀ n j, n ≤ 64 → j < 64 →
    (bitRev x n).getLsbD j = (decide (63 - j < n) && x.getLsbD (63 - j))
  | 0, j, _, hj => by simp [bitRev]
  | n + 1, j, hn, hj => by
    have ih := bitRev_getLsbD x n j (by omega) hj
    unfold bitRev
    rw [BitVec.getLsbD_or, BitVec.getLsbD_shiftLeft, ih]
    have h1 : ((if bit x n then (1 : Word) else 0)).getLsbD (j - (63 - n)) = (decide (j - (63 - n) = 0) && x.getLsbD n) := by
      by_cases hb : x.getLsbD n = true
      · simp [bit, hb]
      · simp only [Bool.not_eq_true] at hb
        simp [bit, hb]
    rw [h1]
    by_cases h2 : j = 63 - n
    · subst h2
      have h3 : 63 - (63 - n) = n := by omega
      simp [h3]
      omega
    · by_cases h3 : 63 - j < n
      · have h4 : j - (63 - n) ≠ 0 := by omega
        have h5 : 63 - j < n + 1 := by omega
        simp [h4, h3, h5]
      · have h4 : ¬ 63 - j < n + 1 := by omega
        have h5 : j < 63 - n := by omega
        simp [h5, h3, h4]

end Sys2Proof.Machine
end

