-- ==== Sys2Proof/Laws/Vector.lean ====
section
/-! SUPPORT. Laws of lanes: joining and reading them, and the run over the active lanes with its LFSR steps. -/

namespace Sys2Proof.Machine

theorem joinLanes_lt (w : Nat) : ∀ l : List Nat, joinLanes w l < 2 ^ (w * l.length)
  | [] => by simp [joinLanes]
  | x :: xs => by
    have h := joinLanes_lt w xs
    have hx : x % 2 ^ w < 2 ^ w := Nat.mod_lt _ (by positivity)
    simp only [joinLanes, List.length_cons, Nat.mul_add, Nat.mul_one, Nat.pow_add]
    calc x % 2 ^ w + 2 ^ w * joinLanes w xs < 2 ^ w + 2 ^ w * joinLanes w xs := by omega
      _ = 2 ^ w * (joinLanes w xs + 1) := by ring
      _ ≤ 2 ^ w * 2 ^ (w * xs.length) := Nat.mul_le_mul_left _ h
      _ = 2 ^ (w * xs.length) * 2 ^ w := by ring

/-- Lane i of joined lanes is the i-th of them. -/
theorem joinLanes_lane (w : Nat) : ∀ (l : List Nat) (i : Nat), joinLanes w l / 2 ^ (w * i) % 2 ^ w = l.getD i 0 % 2 ^ w
  | [], i => by simp [joinLanes]
  | x :: xs, 0 => by
    simp only [joinLanes, Nat.mul_zero, pow_zero, Nat.div_one, List.getD_cons_zero]
    rw [Nat.add_mul_mod_self_left, Nat.mod_mod]
  | x :: xs, i + 1 => by
    have h := joinLanes_lane w xs i
    have hx : x % 2 ^ w < 2 ^ w := Nat.mod_lt _ (by positivity)
    simp only [joinLanes, List.getD_cons_succ]
    rw [Nat.mul_add, Nat.mul_one, Nat.add_comm (w * i) w, Nat.pow_add, ← Nat.div_div_eq_div_mul,
      Nat.add_mul_div_left _ _ (by positivity), Nat.div_eq_of_lt hx, Nat.zero_add, h]

/-- Lane i of a register made of lanes that fit is the i-th of them. -/
theorem lane_ofLanes {w : Nat} {l : List Nat} {i : Nat} (hl : w * l.length ≤ 2048) :
    lane w (ofLanes w l) i = l.getD i 0 % 2 ^ w := by
  unfold lane ofLanes slice
  have h := joinLanes_lt w l
  rw [BitVec.toNat_ofNat, Nat.mod_eq_of_lt (lt_of_lt_of_le h (Nat.pow_le_pow_right (by norm_num) hl)),
    Nat.shiftRight_eq_div_pow, joinLanes_lane]

theorem lfsrSteps_succ (n : Nat) : ∀ l : W32, lfsrSteps (n + 1) l = lfsrStep (lfsrSteps n l) := by
  induction n with
  | zero => intro l; rfl
  | succ n ih => intro l; show lfsrSteps (n + 1) (lfsrStep l) = _; rw [ih]; rfl

/-- The active indices below j. -/
def below (act : Nat → Bool) (j : Nat) : Nat := ((List.range j).filter act).length

theorem below_succ (act : Nat → Bool) (j : Nat) : below act (j + 1) = below act j + if act j then 1 else 0 := by
  unfold below
  rw [List.range_succ, List.filter_append, List.length_append]
  by_cases h : act j = true <;> simp [h]

/-- The environment of lane j in a run that begins with the LFSR at l. -/
def drawEnv (env : FpEnv) (act : Nat → Bool) (l : W32) (j : Nat) : FpEnv :=
  { env with draw := if env.mode = .rsr then (lfsrSteps (below act j + 1) l).toNat else l.toNat }

/-- A run over the indices from a up: results, LFSR and flags. -/
theorem laneRun_range (env : FpEnv) (act : Nat → Bool) (op : FpEnv → Nat → FpRes) (l : W32) : ∀ n a : Nat,
    laneRun env act op (List.range' a n) (if env.mode = .rsr then lfsrSteps (below act a) l else l) =
      ((List.range' a n).map fun j => if act j then some (op (drawEnv env act l j) j).bits else none,
       if env.mode = .rsr then lfsrSteps (below act (a + n)) l else l,
       (((List.range' a n).filter act).map fun j => (op (drawEnv env act l j) j).flags).foldr FpFlags.or {})
  | 0, a => rfl
  | n + 1, a => by
    have ih := laneRun_range env act op l n (a + 1)
    rw [List.range'_succ]
    unfold laneRun
    by_cases h : act a = true
    · simp only [h, if_true, List.filter_cons_of_pos h, List.map_cons, List.foldr_cons]
      have h1 : (if env.mode = .rsr then lfsrStep (if env.mode = .rsr then lfsrSteps (below act a) l else l)
          else (if env.mode = .rsr then lfsrSteps (below act a) l else l)) =
          (if env.mode = .rsr then lfsrSteps (below act (a + 1)) l else l) := by
        rw [below_succ, h]
        split
        · rw [if_pos rfl, lfsrSteps_succ]
        · rfl
      rw [h1, ih]
      have h2 : ({ env with draw := (if env.mode = .rsr then lfsrSteps (below act (a + 1)) l else l).toNat } : FpEnv) =
          drawEnv env act l a := by
        unfold drawEnv
        rw [below_succ, h]
        congr 1
        split <;> simp
      rw [h2, Nat.add_right_comm a 1 n, Nat.add_assoc a n 1]
    · simp only [Bool.not_eq_true] at h
      have hf : (a :: List.range' (a + 1) n).filter act = (List.range' (a + 1) n).filter act := by
        rw [List.filter_cons_of_neg (by simp [h])]
      simp only [h, Bool.false_eq_true, if_false, hf, List.map_cons]
      have h1 : below act a = below act (a + 1) := by rw [below_succ, h]; simp
      rw [h1, ih, Nat.add_right_comm a 1 n, Nat.add_assoc a n 1]

end Sys2Proof.Machine
end

