-- ==== Sys2Proof/Tests/Slice0.lean ====
section
/-! SUPPORT. The model's own tests: an ill-formed term for every check of WellFormed, words of the spec's worked
encodings, small steps with results from the spec, and for every claim a state that meets its hypotheses. -/

set_option Elab.async false

namespace Sys2Proof.Tests

open Sys2Proof Sys2Proof.Machine Sys2Proof.Claims

/-! ## Well-formedness: what each check refuses (02_encoding.md R45 to R58 and the class chapters) -/

def t0 : Src := ⟨0, false⟩
def off : VMask := ⟨false, false, 0⟩
def zer : VMask := ⟨true, true, 1⟩

theorem test_wf_control : (Instr.dbnz 0 1).wf = false ∧ (Instr.beqX t0 t0 2).wf = false ∧ (Instr.bneX t0 t0 1).wf = false ∧
    (Instr.bltX t0 t0 3).wf = false ∧ (Instr.bltuX t0 t0 2).wf = false ∧ (Instr.bgeX t0 t0 2).wf = false ∧
    (Instr.bgeuX t0 t0 2).wf = false ∧ (Instr.bX 2).wf = false ∧ (Instr.callX 2).wf = false := by decide

theorem test_wf_fields : (Instr.bfx ⟨.loc 1, t0, 60, 4, false⟩).wf = false ∧ (Instr.bfi ⟨.loc 1, t0, t0, 60, 4⟩).wf = false ∧
    (Instr.li (.loc 1) (.reg t0)).wf = false := by decide

theorem test_wf_native_vectors : (Instr.vadd 1 2 3 .e4m3).wf = false ∧ (Instr.vsub 1 2 3 .e5m2).wf = false ∧
    (Instr.vmul 1 2 3 .e4m3).wf = false ∧ (Instr.vmin 1 2 3 .e4m3).wf = false ∧ (Instr.vmax 1 2 3 .e4m3).wf = false ∧
    (Instr.vand 1 2 3 .fp32).wf = false ∧ (Instr.vor 1 2 3 .fp32).wf = false ∧ (Instr.vxor 1 2 3 .fp32).wf = false := by decide

/-- A scope beside no ordering qualifier, and TASK, are refused (R103). -/
theorem test_wf_memory : (Instr.ldBX ⟨.loc 1, ⟨t0, t0, 0, 0⟩, false, .dev, .normal⟩).wf = false ∧
    (Instr.ldHX ⟨.loc 1, ⟨t0, t0, 0, 0⟩, true, .task, .normal⟩).wf = false ∧
    (Instr.ldWX ⟨.loc 1, ⟨t0, t0, 0, 0⟩, true, .task, .normal⟩).wf = false ∧
    (Instr.ldDX ⟨.loc 1, ⟨t0, t0, 0, 0⟩, true, .task, .normal⟩).wf = false ∧
    (Instr.ldsBX ⟨.loc 1, ⟨t0, t0, 0, 0⟩, true, .task, .normal⟩).wf = false ∧
    (Instr.ldsHX ⟨.loc 1, ⟨t0, t0, 0, 0⟩, true, .task, .normal⟩).wf = false ∧
    (Instr.ldsWX ⟨.loc 1, ⟨t0, t0, 0, 0⟩, true, .task, .normal⟩).wf = false ∧
    (Instr.stBX ⟨1, ⟨t0, t0, 0, 0⟩, false, .dev, .normal⟩).wf = false ∧
    (Instr.stHX ⟨1, ⟨t0, t0, 0, 0⟩, true, .task, .normal⟩).wf = false ∧
    (Instr.stWX ⟨1, ⟨t0, t0, 0, 0⟩, true, .task, .normal⟩).wf = false ∧
    (Instr.stDX ⟨1, ⟨t0, t0, 0, 0⟩, true, .task, .normal⟩).wf = false := by decide

/-- An integer type with a rounding mode, a type that does not compute, and a register named by a mask that is off. -/
theorem test_wf_varith : (Instr.vaddX ⟨1, 2, 3, .i32, .rtz, off⟩).wf = false ∧ (Instr.vsubX ⟨1, 2, 3, .e4m3, .rne, off⟩).wf = false ∧
    (Instr.vmulX ⟨1, 2, 3, .fp32, .rne, ⟨false, true, 0⟩⟩).wf = false ∧ (Instr.vminX ⟨1, 2, 3, .fp32, .rtz, off⟩).wf = false ∧
    (Instr.vmaxX ⟨1, 2, 3, .e4m3, .rne, off⟩).wf = false ∧ (Instr.vdiv ⟨1, 2, 3, .i32, .rne, off⟩).wf = false ∧
    (Instr.vshl ⟨1, 2, 3, .fp32, .rne, off⟩).wf = false ∧ (Instr.vshr ⟨1, 2, 3, .i32, .rup, off⟩).wf = false ∧
    (Instr.vsra ⟨1, 2, 3, .i32, .rne, ⟨false, false, 2⟩⟩).wf = false ∧ (Instr.vandX ⟨1, 2, 3, .fp64, .rne, off⟩).wf = false ∧
    (Instr.vorX ⟨1, 2, 3, .fp64, .rne, off⟩).wf = false ∧ (Instr.vxorX ⟨1, 2, 3, .fp64, .rne, off⟩).wf = false ∧
    (Instr.vmulh ⟨1, 2, 3, .fp64, .rne, off⟩).wf = false := by decide

theorem test_wf_varith1 : (Instr.vabs ⟨1, 2, .fp32, .rtz, off⟩).wf = false ∧ (Instr.vneg ⟨1, 2, .e4m3, .rne, off⟩).wf = false ∧
    (Instr.vsqrt ⟨1, 2, .i32, .rne, off⟩).wf = false ∧ (Instr.vrcp ⟨1, 2, .fp32, .rup, off⟩).wf = false ∧
    (Instr.vrsq ⟨1, 2, .i8, .rne, off⟩).wf = false ∧ (Instr.vexp2 ⟨1, 2, .fp64, .rne, off⟩).wf = false ∧
    (Instr.vlog2 ⟨1, 2, .fp64, .rne, off⟩).wf = false ∧ (Instr.vfma ⟨1, 2, 3, 4, .i32, .rne, off⟩).wf = false ∧
    (Instr.vfms ⟨1, 2, 3, 4, .i32, .rne, off⟩).wf = false ∧ (Instr.vfnma ⟨1, 2, 3, 4, .i32, .rne, off⟩).wf = false ∧
    (Instr.vsel ⟨1, 2, 3, 4, .fp32, ⟨false, false, 1⟩⟩).wf = false := by decide

theorem test_wf_vcmp : (Instr.vcmpEq ⟨1, 2, 3, .e4m3, off⟩).wf = false ∧ (Instr.vcmpNe ⟨1, 2, 3, .e4m3, off⟩).wf = false ∧
    (Instr.vcmpLt ⟨1, 2, 3, .e4m3, off⟩).wf = false ∧ (Instr.vcmpLe ⟨1, 2, 3, .e4m3, off⟩).wf = false ∧
    (Instr.vcmpGt ⟨1, 2, 3, .e4m3, off⟩).wf = false ∧ (Instr.vcmpGe ⟨1, 2, 3, .fp32, ⟨false, true, 0⟩⟩).wf = false ∧
    (Instr.vcmpUn ⟨1, 2, 3, .i32, off⟩).wf = false ∧ (Instr.vcmpLtu ⟨1, 2, 3, .fp32, off⟩).wf = false := by decide

/-- VCVT between one type, of a part that the ratio does not have, between integers with a rounding mode; VRED with zeroing. -/
theorem test_wf_vcvt_vred : (Instr.vcvt ⟨1, 2, .fp32, .fp32, false, .rne, 0, off⟩).wf = false ∧
    (Instr.vcvt ⟨1, 2, .bf16, .fp32, false, .rne, 2, off⟩).wf = false ∧ (Instr.vcvt ⟨1, 2, .i16, .i32, false, .rtz, 0, off⟩).wf = false ∧
    (Instr.vredAdd ⟨1, 2, .fp32, .rne, zer⟩).wf = false ∧ (Instr.vredMax ⟨1, 2, .fp32, .rtz, off⟩).wf = false ∧
    (Instr.vredMin ⟨1, 2, .e5m2, .rne, off⟩).wf = false ∧ (Instr.vredAnd ⟨1, 2, .fp32, .rne, off⟩).wf = false ∧
    (Instr.vredOr ⟨1, 2, .fp32, .rne, off⟩).wf = false := by decide

/-- VSLIDE beyond the lanes; a store that zeroes; index types that VGATH and VSCAT lack. -/
theorem test_wf_vperm_vmem : (Instr.vperm ⟨1, 2, 3, .i8, ⟨false, true, 0⟩⟩).wf = false ∧
    (Instr.vslide ⟨1, 2, 3, 33, .fp64, off⟩).wf = false ∧ (Instr.vbcast ⟨1, t0, .i8, ⟨false, false, 3⟩⟩).wf = false ∧
    (Instr.viota ⟨1, .fp32, off⟩).wf = false ∧ (Instr.vld ⟨1, t0, 0, .i8, .normal, ⟨false, true, 0⟩⟩).wf = false ∧
    (Instr.vldb ⟨1, t0, 0, .i8, .normal, ⟨false, true, 0⟩⟩).wf = false ∧ (Instr.vst ⟨1, t0, 0, .i8, .normal, zer⟩).wf = false ∧
    (Instr.vlds ⟨1, t0, t0, 0, .i8, .normal, ⟨false, true, 0⟩⟩).wf = false ∧ (Instr.vsts ⟨1, t0, t0, 0, .i8, .normal, zer⟩).wf = false ∧
    (Instr.vgath ⟨1, t0, 2, 0, .i8, .normal, off⟩).wf = false ∧ (Instr.vscat ⟨1, t0, 2, 0, .fp32, .normal, zer⟩).wf = false := by decide

/-- An MMA operand off its group, a QLM descriptor at g63, and a tile of more than 256 columns. -/
theorem test_wf_tile : (Instr.mma ⟨.bf16, 0, .reg 2, .reg 4, false⟩).wf = false ∧ (Instr.mma ⟨.fp64, 0, .reg 2, .reg 1, false⟩).wf = false ∧
    (Instr.mma ⟨.bf16, 0, .qlm ⟨63, false⟩, .reg 4, false⟩).wf = false ∧ (Instr.ggmask ⟨1, t0, t0, 9, 0, 0⟩).wf = false := by decide

theorem test_wf_system : (Instr.depdec t0 0).wf = false ∧ (Instr.epop 63 t0).wf = false ∧ (Instr.epop 0 t0).wf = false ∧
    (Instr.l2pin 1 t0 t0 0).wf = false ∧ (Instr.l2pin 1 t0 t0 13).wf = false ∧ (Instr.fence .task).wf = false ∧
    (Instr.cpset 7 t0).wf = false ∧ (Instr.sopen 8 t0 6 1).wf = false ∧ (Instr.sopen 8 t0 0 0).wf = false ∧
    (Instr.sopen 8 t0 0 11).wf = false ∧ (Instr.sopen 63 t0 0 1).wf = false ∧ (Instr.srecv 63 t0 .g).wf = false ∧
    (Instr.spoll 0 t0 .g).wf = false ∧ (Instr.sfscl 1 t0 ⟨2, false⟩ 3).wf = false ∧ (Instr.sfbias 1 t0 t0 true 2).wf = false ∧
    (Instr.splget 63 t0).wf = false ∧ (Instr.rdsr 1 22).wf = false ∧ (Instr.wrsr 63 t0).wf = false := by decide

/-- AMO: a type of the wrong kind, a rounding mode where nothing rounds, DYN, a scope without an ordering qualifier. -/
theorem test_wf_amo : (Instr.amoSwap ⟨.loc 1, t0, t0, 0, .fp32, .rne, false, false, .dflt, .normal⟩).wf = false ∧
    (Instr.amoAdd ⟨.loc 1, t0, t0, 0, .i64, .rtz, false, false, .dflt, .normal⟩).wf = false ∧
    (Instr.amoAnd ⟨.loc 1, t0, t0, 0, .i16, .rne, false, false, .dflt, .normal⟩).wf = false ∧
    (Instr.amoOr ⟨.loc 1, t0, t0, 0, .i64, .rne, false, false, .dev, .normal⟩).wf = false ∧
    (Instr.amoXor ⟨.loc 1, t0, t0, 0, .i64, .rne, true, false, .task, .normal⟩).wf = false ∧
    (Instr.amoMin ⟨.loc 1, t0, t0, 0, .i8, .rne, false, false, .dflt, .normal⟩).wf = false ∧
    (Instr.amoMax ⟨.loc 1, t0, t0, 0, .i8, .rne, false, false, .dflt, .normal⟩).wf = false ∧
    (Instr.amoMinu ⟨.loc 1, t0, t0, 0, .i8, .rne, false, false, .dflt, .normal⟩).wf = false ∧
    (Instr.amoMaxu ⟨.loc 1, t0, t0, 0, .i8, .rne, false, false, .dflt, .normal⟩).wf = false ∧
    (Instr.amoCas ⟨.loc 1, t0, t0, t0, 0, .fp64, false, false, .dflt, .normal⟩).wf = false ∧
    (Instr.amoFadd ⟨.loc 1, t0, t0, 0, .fp32, .dyn, false, false, .dflt, .normal⟩).wf = false ∧
    (Instr.amoFmin ⟨.loc 1, t0, t0, 0, .fp32, .rtz, false, false, .dflt, .normal⟩).wf = false ∧
    (Instr.amoFmax ⟨.loc 1, t0, t0, 0, .i32, .rne, false, false, .dflt, .normal⟩).wf = false := by decide

/-! ## Decoding: words of the spec's worked encodings -/

/-- 02_encoding.md, "Worked encodings". -/
theorem test_decode_listing : decodeWords [0x00E30A04] = .ok (.add 5 6 7) ∧ decodeWords [0xFFA4920C] = .ok (.addi 9 9 (-3)) ∧
    decodeWords [0xFFC010A4] = .ok (.dbnz 8 (-2)) ∧
    decodeWords [0x18E3180A, 0x00030000, 0x00000010] = .ok (.ldDX ⟨.loc 12, ⟨⟨6, false⟩, ⟨7, false⟩, 3, 16⟩, false, .dflt, .normal⟩) ∧
    decodeWords [0x00031815] = .ok (.spliceWord 5 12 6 0 0) ∧ decodeWords [0x000000A8] = .ok .endTask :=
  ⟨rfl, rfl, rfl, rfl, rfl, rfl⟩

/-- 04_scalar.md: MUL, SEL, BFX, MOV, TAKE, PSET and PUT as they are assembled there. -/
theorem test_decode_scalar : decodeWords [0x10030A06, 0x10000000, 0x000003E8] = .ok (.mulX ⟨.loc 5, ⟨6, false⟩, .imm 1000⟩) ∧
    decodeWords [0xD9240E06, 0x0000000A, 0x00000000] = .ok (.sel ⟨.loc 7, ⟨8, false⟩, .reg ⟨9, false⟩, ⟨10, false⟩⟩) ∧
    decodeWords [0xE0030A06, 0x00000000, 0x000012C8] = .ok (.bfx ⟨.loc 5, ⟨6, false⟩, 8, 11, true⟩) ∧
    decodeWords [0x00030A08] = .ok (.mov 5 6) ∧ decodeWords [0x60140A08] = .ok (.take 5 40) ∧
    decodeWords [0x0800500E, 0x00000000, 0x00000000] = .ok (.pset 40 .empty) ∧
    decodeWords [0x0002900E, 0x00000240, 0x00000000] = .ok (.put 8 ⟨5, false⟩ ⟨9, false⟩) :=
  ⟨rfl, rfl, rfl, rfl, rfl, rfl, rfl⟩

/-- 04_scalar.md and 16_prog_handoff.md: native loads and stores, ST.D.RL, JR, BEQ, ANDI; 17_prog_settle.md: B, BFI. -/
theorem test_decode_memory_control : decodeWords [0x02030E48] = .ok (.ldW 7 6 16) ∧ decodeWords [0xFF030E6C] = .ok (.stD 7 6 (-8)) ∧
    decodeWords [0x59030E0A, 0x40030000, 0x00000000] = .ok (.stDX ⟨7, ⟨⟨6, false⟩, ⟨8, false⟩, 3, 0⟩, true, .dflt, .normal⟩) ∧
    decodeWords [0x000482A0] = .ok (.jr 1 9) ∧ decodeWords [0x00C01A80] = .ok (.beq 13 0 6) ∧
    decodeWords [0x01E21A10] = .ok (.andi 13 4 15) ∧ decodeWords [0xFFFEE298] = .ok (.br (-143)) ∧
    decodeWords [0xEA292206, 0x00000000, 0x0000028A] = .ok (.bfi ⟨.loc 17, ⟨18, false⟩, ⟨17, false⟩, 10, 10⟩) :=
  ⟨rfl, rfl, rfl, rfl, rfl, rfl, rfl, rfl⟩

/-- 05_vector.md and 15_prog_softmax.md, 17_prog_settle.md: vector words. -/
theorem test_decode_vector : decodeWords [0x086102C0] = .ok (.vadd 1 2 3 .fp32) ∧
    decodeWords [0x48C28842, 0x50010007, 0x00000000] = .ok (.vfma ⟨4, 5, 6, 7, .fp32, .rne, ⟨true, false, 2⟩⟩) ∧
    decodeWords [0x1001104A, 0x00010000, 0x00000001] = .ok (.vcvt ⟨8, 2, .bf16, .fp32, false, .rne, 1, off⟩) ∧
    decodeWords [0x0802124E, 0x00010000, 0x00000000] = .ok (.vredMax ⟨9, 4, .fp32, .rne, off⟩) ∧
    decodeWords [0x10049E52, 0x00010000, 0x00000000] = .ok (.vextr ⟨15, 9, t0, 0, .fp32⟩) ∧
    decodeWords [0x30048656, 0x00000000, 0x00000000] = .ok (.vldb ⟨3, ⟨9, false⟩, 0, .fp64, .normal, off⟩) ∧
    decodeWords [0x2007025A, 0x00000000, 0x00000000] = .ok (.kset 1 ⟨14, false⟩ 0) ∧
    decodeWords [0x30008A42, 0x00000000, 0x00000000] = .ok (.vabs ⟨5, 1, .fp64, .rne, off⟩) ∧
    decodeWords [0x38820CD8] = .ok (.vor 6 4 4 .i32) :=
  ⟨rfl, rfl, rfl, rfl, rfl, rfl, rfl, rfl, rfl⟩

/-- 06_tile.md: MMA, ACLR, AMOV, and the three geometry lines. -/
theorem test_decode_tile : decodeWords [0x01400282, 0x10000000, 0x00000000] = .ok (.mma ⟨.bf16, 1, .reg 0, .qlm ⟨10, false⟩, false⟩) ∧
    decodeWords [0x00000486, 0x00000000, 0x00000000] = .ok (.aclr 2) ∧
    decodeWords [0x18009086, 0x00000000, 0x00000000] = .ok (.amov (.toV 8 1 0)) ∧
    decodeWords [0x0800108A, 0x00000000, 0x00000000] = .ok (.ggrng 8 t0 false) ∧
    decodeWords [0x0800128A, 0x00000000, 0x00000001] = .ok (.ggrng 9 t0 true) ∧
    decodeWords [0x1124028A, 0x00000000, 0x00000004] = .ok (.ggmask ⟨1, ⟨8, false⟩, ⟨9, false⟩, 4, 0, 0⟩) :=
  ⟨rfl, rfl, rfl, rfl, rfl, rfl⟩

/-- 07_tasks.md, 08_memory.md, 09_consistency.md: tasks, barriers, L2 control, atomics, fences and messages. -/
theorem test_decode_task_bar_l2 : decodeWords [0x000294C2, 0x00000000, 0x00000000] = .ok (.spawn 10 ⟨5, false⟩) ∧
    decodeWords [0x200380C2, 0x00000000, 0x00000001] = .ok (.depdec ⟨7, false⟩ 1) ∧
    decodeWords [0x292400C2, 0x00000000, 0x00000000] = .ok (.epush ⟨8, false⟩ ⟨9, false⟩) ∧
    decodeWords [0x180000C6, 0x08000000, 0x00000001] = .ok (.barsync 0 1 true) ∧
    decodeWords [0x200500C6, 0x00000000, 0x00000001] = .ok (.barack 1 ⟨10, false⟩) ∧
    decodeWords [0x00E30B02, 0x00000000, 0x00000001] = .ok (.l2pin 5 ⟨6, false⟩ ⟨7, false⟩ 1) ∧
    decodeWords [0x08028102, 0x00000000, 0x00000000] = .ok (.l2unpin 0 ⟨5, false⟩) ∧
    decodeWords [0x10029102, 0x00000000, 0x00000001] = .ok (.l2stat 8 ⟨5, false⟩ true) :=
  ⟨rfl, rfl, rfl, rfl, rfl, rfl, rfl, rfl⟩

theorem test_decode_amo_fence : decodeWords [0x10E30B42, 0x00060000, 0x00000000] =
      .ok (.amoAdd ⟨.loc 5, ⟨6, false⟩, ⟨7, false⟩, 0, .i64, .rne, false, false, .dflt, .normal⟩) ∧
    decodeWords [0x08E30B42, 0x20060008, 0x00000000] =
      .ok (.amoCas ⟨.loc 5, ⟨6, false⟩, ⟨7, false⟩, ⟨8, false⟩, 0, .i64, true, false, .dflt, .normal⟩) ∧
    decodeWords [0x00000146, 0x00000000, 0x00000000] = .ok (.fence .dflt) ∧
    decodeWords [0x00000146, 0x03800000, 0x00000000] = .ok (.fence .peer) ∧
    decodeWords [0x08000146, 0x00000000, 0x00000000] = .ok .ifence ∧ decodeWords [0x10000146, 0x00000000, 0x00000000] = .ok .drain ∧
    decodeWords [0x0144814A, 0x0000030B, 0x00000005] = .ok (.sendam ⟨9, false⟩ ⟨10, false⟩ ⟨11, false⟩ ⟨12, false⟩ 5) :=
  ⟨rfl, rfl, rfl, rfl, rfl, rfl, rfl⟩

/-- 10_copies.md: COPY, TAGS and COLL. -/
theorem test_decode_copies : decodeWords [0x00038182, 0x00000000, 0x00000005] = .ok (.cpset 5 ⟨7, false⟩) ∧
    decodeWords [0x08000B82, 0x00000000, 0x00000000] = .ok (.cpgo 5) ∧
    decodeWords [0x10029182, 0x00000000, 0x00000000] = .ok (.cpstat 8 ⟨5, false⟩) ∧
    decodeWords [0x18029182, 0x00000000, 0x00000000] = .ok (.cpabort 8 ⟨5, false⟩) ∧
    decodeWords [0x00051386, 0x08000000, 0x00000000] = .ok (.waitany 9 ⟨10, false⟩ true) ∧
    decodeWords [0x18050186, 0x00000000, 0x00000000] = .ok (.tagclr ⟨10, false⟩) ∧
    decodeWords [0x20001386, 0x00000000, 0x00000003] = .ok (.tagget 9 3) ∧
    decodeWords [0x08030B8A, 0x000B0000, 0x00000000] = .ok (.callred 5 ⟨6, false⟩) :=
  ⟨rfl, rfl, rfl, rfl, rfl, rfl, rfl, rfl⟩

/-- 11_strands.md and 16_prog_handoff.md. -/
theorem test_decode_strands : decodeWords [0x000491C2, 0x00000000, 0x00000030] = .ok (.sopen 8 ⟨9, false⟩ 0 6) ∧
    decodeWords [0x09650BC2, 0x00000000, 0x00000000] = .ok (.ssend 5 ⟨10, false⟩ (.g ⟨11, false⟩)) ∧
    decodeWords [0x08050BC2, 0x08000004, 0x00000000] = .ok (.ssend 5 ⟨10, false⟩ (.v 4)) ∧
    decodeWords [0x10060DC2, 0x00000000, 0x00000000] = .ok (.srecv 6 ⟨12, false⟩ .g) ∧
    decodeWords [0x21270BC2, 0x00000000, 0x00000000] = .ok (.spass 5 ⟨14, false⟩ ⟨9, false⟩) ∧
    decodeWords [0x28A395C2, 0x00000000, 0x00000000] = .ok (.saccept 10 ⟨7, false⟩ ⟨5, false⟩) ∧
    decodeWords [0x300381C2, 0x00000000, 0x00000000] = .ok (.sclose ⟨7, false⟩) :=
  ⟨rfl, rfl, rfl, rfl, rfl, rfl, rfl⟩

/-- 12_splices.md, 13_settle.md, 19_preemption.md and 20_measurement.md. -/
theorem test_decode_spl_sf : decodeWords [0x000281F2, 0x00000000, 0x00000000] = .ok (.splload ⟨5, false⟩) ∧
    decodeWords [0x080291F2, 0x00000000, 0x00000000] = .ok (.splget 8 ⟨5, false⟩) ∧
    decodeWords [0x20030BE2, 0x00000000, 0x00000000] = .ok (.sfrun 5 ⟨6, false⟩) ∧
    decodeWords [0x28030BE2, 0x08000000, 0x00000000] = .ok (.sfwait 5 ⟨6, false⟩ true) ∧
    decodeWords [0x31030FE2, 0x00010000, 0x00000000] = .ok (.sfsmp 7 ⟨6, false⟩ ⟨8, false⟩ true) ∧
    decodeWords [0x492301E2, 0x0000000A, 0x00000000] = .ok (.sfdln 0 ⟨6, false⟩ ⟨9, false⟩ ⟨10, false⟩) ∧
    decodeWords [0x0B6A8BE2, 0x00000000, 0x00000000] = .ok (.sfscl 5 ⟨21, false⟩ ⟨27, false⟩ 0) ∧
    decodeWords [0x13CA8BE2, 0x00000000, 0x00000000] = .ok (.sfbias 5 ⟨21, false⟩ ⟨30, false⟩ false 0) :=
  ⟨rfl, rfl, rfl, rfl, rfl, rfl, rfl, rfl⟩

theorem test_decode_system : decodeWords [0x000001F6, 0x00000000, 0x00000007] = .ok (.trap 7) ∧
    decodeWords [0x08001DF6, 0x00000000, 0x0000000D] = .ok (.rdsr 14 13) ∧
    decodeWords [0x100281F6, 0x00000000, 0x00000010] = .ok (.wrsr 16 ⟨5, false⟩) ∧
    decodeWords [0x18000BF6, 0x00000000, 0x00000000] = .ok (.pair 5) ∧ decodeWords [0x20000BF6, 0x00000000, 0x00000000] = .ok (.unpair 5) ∧
    decodeWords [0x00030BFA, 0x00000000, 0x00000002] = .ok (.pmcfg 5 2 ⟨6, false⟩) ∧
    decodeWords [0x08000FFA, 0x00000000, 0x00000002] = .ok (.pmrd 7 2) ∧
    decodeWords [0x100401FA, 0x00000000, 0x00000051] = .ok (.mark ⟨8, false⟩ 0x51) :=
  ⟨rfl, rfl, rfl, rfl, rfl, rfl, rfl, rfl⟩

/-- R56, R58: the all-zero word is no instruction; a word with a field that must be zero is none; a short one is none. -/
theorem test_decode_refused : decodeWords [0] = .error .reservedCode ∧ decodeWords [0x000001A8] ≠ .ok .endTask ∧
    decodeWords [0x10030A06, 0x10000000] = .error .short := ⟨rfl, by decide, rfl⟩

/-! ## For every claim, states that meet its hypotheses -/

/-- A task alone in slot 0, as `f` makes it. -/
def run (f : Slot → Slot) : State := { slots := [(0, f { st := .running, uid := 1 })] }

/-- A slot with the listed registers FULL. -/
def filled (l : List (Reg × Word)) (sl : Slot) : Slot := l.foldl (fun s p => s.setG p.1 ⟨p.2, .full, false⟩) sl

/-- A task alone in slot 0 with the listed registers FULL. -/
def regs (l : List (Reg × Word)) : State := run (filled l)

theorem fullAll_of (s : State) (l : List Src) (h : (l.all fun x => decide ((s.me.greg x.reg).pres = .full)) = true) : FullAll s l :=
  fun x hx => show (s.me.greg x.reg).pres = .full from of_decide_eq_true (List.all_eq_true.1 h x hx)

/-- Two FULL sources and a destination, g0 among them. -/
theorem test_witness_IntegerResults :
    (∃ (s : State) (d a b : Reg), Solo s ∧ Full s a ∧ Full s b ∧ Free s d) ∧
    (∃ (s : State) (a b : Reg), Solo s ∧ Full s a ∧ Full s b ∧ Free s 0) ∧
    (∃ (s : State) (d : Reg) (a : Src) (b : Src), Solo s ∧ FullAll s (a :: ySrcs (.reg b)) ∧ Free s d) ∧
    ∃ (s : State) (d : Reg) (a : Src), Solo s ∧ FullAll s (a :: ySrcs (.imm 0x800)) ∧ Free s d :=
  ⟨⟨regs [(5, 7), (6, 0)], 63, 5, 6, rfl, rfl, rfl, rfl⟩, ⟨regs [], 0, 0, rfl, rfl, rfl, rfl⟩,
    ⟨regs [(5, 7), (6, 0)], 5, ⟨5, true⟩, ⟨6, false⟩, rfl, fullAll_of _ _ rfl, rfl⟩,
    ⟨regs [(5, 7)], 0, ⟨5, true⟩, rfl, fullAll_of _ _ rfl, rfl⟩⟩

theorem test_witness_ImmediateResults : ∃ (s : State) (d a : Reg), Solo s ∧ Full s a ∧ Free s d :=
  ⟨regs [(63, 0xFFFFFFFFFFFFFFFF)], 63, 63, rfl, rfl, rfl⟩

theorem test_witness_OneSourceResults : ∃ (s : State) (d a : Reg), Solo s ∧ Full s a ∧ Free s d :=
  ⟨regs [(1, 0)], 0, 1, rfl, rfl, rfl⟩

/-- The widest and the narrowest field. -/
theorem test_witness_FieldResults : ∃ (s : State) (d : Reg) (a b c : Src) (y : YOp), Solo s ∧ Free s d ∧
    FullAll s ((a :: ySrcs y) ++ [c]) ∧ FullAll s [a] ∧ FullAll s [a, b] ∧ FullAll s (ySrcs y) ∧
    (0 : BitVec 6).toNat + (63 : BitVec 6).toNat + 1 ≤ 64 ∧ (63 : BitVec 6).toNat + (0 : BitVec 6).toNat + 1 ≤ 64 :=
  ⟨regs [(5, 7), (6, 0), (7, 1)], 8, ⟨5, true⟩, ⟨6, false⟩, ⟨7, false⟩, .reg ⟨6, false⟩, rfl, rfl, fullAll_of _ _ rfl,
    fullAll_of _ _ rfl, fullAll_of _ _ rfl, fullAll_of _ _ rfl, by decide, by decide⟩

/-- Both ways of a branch. -/
theorem test_witness_ConditionalBranches : (∃ (s : State) (a b : Reg), Solo s ∧ Full s a ∧ Full s b ∧
      (s.me.greg a).val = (s.me.greg b).val) ∧
    (∃ (s : State) (a b : Reg), Solo s ∧ Full s a ∧ Full s b ∧ (s.me.greg a).val.toInt < (s.me.greg b).val.toInt) ∧
    ∃ (s : State) (a b : Src), Solo s ∧ FullAll s [a, b] :=
  ⟨⟨regs [(5, 7)], 5, 5, rfl, rfl, rfl, rfl⟩, ⟨regs [(5, 0xFFFFFFFFFFFFFFFF)], 5, 0, rfl, rfl, rfl, by decide⟩,
    ⟨regs [(5, 7)], ⟨5, true⟩, ⟨0, false⟩, rfl, fullAll_of _ _ rfl⟩⟩

/-- DBNZ at its last turn and before it; a link in the register of the target. -/
theorem test_witness_JumpsAndCalls : (∃ s : State, Solo s ∧ Free s 1) ∧
    (∃ (s : State) (a : Reg), Solo s ∧ Full s a ∧ Free s a ∧ (s.me.greg a).val - 1 = 0) ∧
    ∃ (s : State) (a : Reg), Solo s ∧ Full s a ∧ Free s a ∧ (s.me.greg a).val - 1 ≠ 0 :=
  ⟨⟨regs [], rfl, rfl⟩, ⟨regs [(9, 1)], 9, rfl, rfl, rfl, rfl⟩, ⟨regs [(9, 0)], 9, rfl, rfl, rfl, by decide⟩⟩

theorem test_witness_PresenceResults :
    (∃ (s : State) (d a : Reg), Solo s ∧ a ≠ 0 ∧ d ≠ 0 ∧ a ≠ d ∧ (s.me.greg a).pres ≠ .empty ∧ (∀ p ∈ s.me.takes, p.1 ≠ a) ∧
      Free s d ∧ NoMail s a) ∧
    (∃ (s : State) (d a : Reg), Solo s ∧ 32 ≤ a.toNat ∧ d ≠ 0 ∧ (s.me.greg a).pres = .empty ∧ Free s a ∧
      (∀ p ∈ s.me.takes, p.1 ≠ a) ∧ Free s d ∧ NoMail s a) ∧
    ∃ (s : State) (d a : Reg), Solo s ∧ a ≠ 0 ∧ d ≠ 0 ∧ Free s a ∧ Free s d ∧ NoMail s a ∧ NoMail s d :=
  ⟨⟨regs [(5, 7)], 1, 5, rfl, by decide, by decide, by decide, by decide, by simp [regs, run, State.me, State.slot, filled, Store.get, Slot.setG],
    rfl, by simp [NoMail, regs, run, State.core, Store.get]⟩,
   ⟨run id, 31, 32, rfl, by decide, by decide, rfl, rfl, by simp [run, State.me, State.slot, Store.get], rfl,
    by simp [NoMail, run, State.core, Store.get]⟩,
   ⟨regs [(5, 7)], 63, 5, rfl, by decide, by decide, rfl, rfl, by simp [NoMail, regs, run, State.core, Store.get],
    by simp [NoMail, regs, run, State.core, Store.get]⟩⟩

/-- An EMPTY source in trap mode, a POISON one, and an EMPTY one in block mode behind a FULL one. -/
theorem test_witness_SourceExamination :
    (∃ (i : Instr) (l : List Src) (s : State), sourcesOf i = some l ∧ Solo s ∧ taHnd s.cur = false ∧
      ∃ pre x post, l = pre ++ x :: post ∧ (∀ y ∈ pre, y.trap = false ∨ (s.me.greg y.reg).pres ≠ .empty) ∧ x.trap = true ∧
        (s.me.greg x.reg).pres = .empty) ∧
    (∃ (i : Instr) (l : List Src) (s : State), sourcesOf i = some l ∧ Solo s ∧ taHnd s.cur = false ∧
      (∀ y ∈ l, y.trap = false ∨ (s.me.greg y.reg).pres ≠ .empty) ∧
      ∃ pre x post, l = pre ++ x :: post ∧ (∀ y ∈ pre, (s.me.greg y.reg).pres ≠ .poison) ∧ (s.me.greg x.reg).pres = .poison) ∧
    ∃ (i : Instr) (l : List Src) (s : State), sourcesOf i = some l ∧ Solo s ∧ taHnd s.cur = false ∧
      (∀ y ∈ l, y.trap = false ∨ (s.me.greg y.reg).pres ≠ .empty) ∧ (∀ y ∈ l, (s.me.greg y.reg).pres ≠ .poison) ∧
      ∃ y ∈ l, (s.me.greg y.reg).pres = .empty :=
  ⟨⟨.beqX ⟨5, false⟩ ⟨6, true⟩ 4, _, regs [(5, 7)], rfl, rfl, rfl, [⟨5, false⟩], ⟨6, true⟩, [], rfl, by simp, rfl, rfl⟩,
   ⟨.add 1 5 6, _, run fun sl => (filled [(5, 7)] sl).setG 6 ⟨0, .poison, false⟩, rfl, rfl, rfl, by simp,
    [⟨5, false⟩], ⟨6, false⟩, [], rfl, by decide, rfl⟩,
   ⟨.add 1 5 6, _, regs [(5, 7)], rfl, rfl, rfl, by simp, by decide, ⟨6, false⟩, by simp, rfl⟩⟩

/-- An addition that ends, and one that waits for its second source. -/
theorem test_witness_RegisterFrame :
    (∃ (i : Instr) (ds : Dests) (s t : State), writesOf i = some ds ∧ Solo s ∧ taHnd s.cur = false ∧ exec i s = .next t) ∧
    ∃ (i : Instr) (ds : Dests) (s : State), writesOf i = some ds ∧ Solo s ∧ taHnd s.cur = false ∧ exec i s = .next s :=
  ⟨⟨.add 1 5 5, _, regs [(5, 7)], _, rfl, rfl, rfl, rfl⟩, ⟨.add 1 5 6, _, regs [(5, 7)], rfl, rfl, rfl, rfl⟩⟩

/-- A thread of the sender's context on the next core, and the sender itself. -/
theorem test_witness_RemoteResults : ∃ (s : State) (n : BitVec 5) (e a c : Src) (y : YOp), Solo s ∧ taHnd s.cur = false ∧ Quiet s ∧
    NoAmo s ∧ Full s e.reg ∧ Named s (s.me.greg e.reg).val ∧ OpenBox s (s.me.greg e.reg).val n ∧ FullAll s (a :: ySrcs y) ∧
    FullAll s ((a :: ySrcs y) ++ [c]) ∧ Full s a.reg :=
  ⟨{ (regs [(5, 8), (6, 7)]) with slots := [(0, filled [(5, 8), (6, 7)] { st := .running, uid := 1 }), (8, { st := .running, uid := 2 })] },
    31, ⟨5, false⟩, ⟨6, false⟩, ⟨6, true⟩, .lit (-1), rfl, rfl, ⟨rfl, rfl⟩, rfl, rfl, ⟨rfl, by decide, by decide⟩,
    ⟨rfl, by decide, ⟨rfl, rfl⟩, rfl, ⟨rfl, rfl⟩⟩, fullAll_of _ _ rfl, fullAll_of _ _ rfl, rfl⟩

/-- A thread address with bit 32, and a handler's with slot bits. -/
theorem test_witness_RemoteTargetChecks :
    (∃ (s : State) (e a : Src) (y : YOp), Solo s ∧ taHnd s.cur = false ∧ Full s e.reg ∧ FullAll s (a :: ySrcs y) ∧ Full s a.reg ∧
      (s.me.greg e.reg).val.toNat / 2 ^ 32 ≠ 0) ∧
    ∃ (s : State) (e a : Src) (y : YOp), Solo s ∧ taHnd s.cur = false ∧ Full s e.reg ∧ FullAll s (a :: ySrcs y) ∧ Full s a.reg ∧
      ((s.me.greg e.reg).val.getLsbD 2 = true ∧ (s.me.greg e.reg).val.toNat % 4 ≠ 0) :=
  ⟨⟨regs [(5, 0x100000000), (6, 7)], ⟨5, false⟩, ⟨6, false⟩, .imm 0, rfl, rfl, rfl, fullAll_of _ _ rfl, rfl, by decide⟩,
   ⟨regs [(5, 5), (6, 7)], ⟨5, false⟩, ⟨6, false⟩, .imm 0, rfl, rfl, rfl, fullAll_of _ _ rfl, rfl, by decide⟩⟩

/-- A task in slot 0 with a share of 16 KiB at the bottom of its quad's QLM, and an address space whose first 512 MiB
are the first of HBM, readable, writable and executable. -/
def mapped (f : Slot → Slot) : State :=
  { slots := [(0, f { st := .running, uid := 1 })]
    mem := [(0x10000, 1), (0x10002, 2), (0x20000, 1), (0x20002, 3), (0x30000, 0x1F)]
    ctxs := [(0, some { desc := [0, 0, 1], descPA := 0 })]
    units := [{ ctx := 0, addr := 0, qlmLen := 16384, members := [⟨0, 0, 1, false⟩] }] }


/-- A task with an address in the share in g5, one in the page in g6, and 0 in g7. -/
def reader : State := mapped (filled [(5, 0x00FF000000003FF8), (6, 0x000000001FFFFFF8), (7, 0)])

theorem placed_share (va : Word) (h : va = 0x00FF000000003FF8) : Placed reader va 8 .r reader (qlmKey 0 0x3FF8) :=
  by subst h; exact ⟨rfl, .inl ⟨rfl, rfl, rfl⟩⟩
theorem placed_shareW (va : Word) (h : va = 0x00FF000000003FF8) : Placed reader va 8 .w reader (qlmKey 0 0x3FF8) :=
  by subst h; exact ⟨rfl, .inl ⟨rfl, rfl, rfl⟩⟩
theorem page_read : (reader.translate reader.myCtx (some 0) 0x000000001FFFFFF8 .r).2 =
    some ⟨0x1FFFFFF8, 0x1FFFFFF8, true, none, 0, 0⟩ := by decide +kernel
theorem page_write : (reader.translate reader.myCtx (some 0) 0x000000001FFFFFF8 .w).2 =
    some ⟨0x1FFFFFF8, 0x1FFFFFF8, true, none, 0, 0⟩ := by decide +kernel

theorem placed_page (va : Word) (h : va = 0x000000001FFFFFF8) :
    Placed reader va 8 .r (reader.translate reader.myCtx (some 0) 0x000000001FFFFFF8 .r).1 0x1FFFFFF8 :=
  by subst h; exact ⟨rfl, .inr ⟨rfl, rfl, ⟨0x1FFFFFF8, 0x1FFFFFF8, true, none, 0, 0⟩, Prod.ext rfl page_read, rfl, rfl, rfl⟩⟩
theorem placed_pageW (va : Word) (h : va = 0x000000001FFFFFF8) :
    Placed reader va 8 .w (reader.translate reader.myCtx (some 0) 0x000000001FFFFFF8 .w).1 0x1FFFFFF8 :=
  by subst h; exact ⟨rfl, .inr ⟨rfl, rfl, ⟨0x1FFFFFF8, 0x1FFFFFF8, true, none, 0, 0⟩, Prod.ext rfl page_write, rfl, rfl, rfl⟩⟩

/-- Pieces that all lie in the share. -/
def inShare (s : State) (k : Acc3) (ps : List (Word × Nat)) : Bool :=
  ps.all fun p => (inQlmBlock p.1 && !s.pageHeld s.cur (pageOf s.cur p.1)) && (match s.protect s.cur p.1 p.2 (k == .w) with | some (some _) => true | _ => false)

theorem lookAll_of (s : State) (ps : List (Word × Nat)) (k : Acc3) (h : inShare s k ps = true) :
    (∀ p ∈ ps, (inQlmBlock p.1 = true ∧ s.pageHeld s.cur (pageOf s.cur p.1) = false) ∧
      ∃ key, s.protect s.cur p.1 p.2 (k == .w) = some (some key)) ∧ ∃ l, s.lookAll s.myCtx k (k == .w) ps = (s, .ok l) ∧ ∀ x ∈ l, x.1.view = none ∧ s.lostAt x.1 = false := by
  have hp : ∀ p ∈ ps, (inQlmBlock p.1 = true ∧ s.pageHeld s.cur (pageOf s.cur p.1) = false) ∧ ∃ key, s.protect s.cur p.1 p.2 (k == .w) = some (some key) := by
    intro p hp
    have := List.all_eq_true.1 h p hp
    rw [Bool.and_eq_true, Bool.and_eq_true, Bool.not_eq_true'] at this
    refine ⟨this.1, ?_⟩
    cases hq : s.protect s.cur p.1 p.2 (k == .w) with
    | none => simp [hq] at this
    | some o => cases o with | none => simp [hq] at this | some key => exact ⟨key, rfl⟩
  refine ⟨hp, ?_⟩
  clear h
  induction ps with
  | nil => exact ⟨[], rfl, by simp⟩
  | cons p ps ih =>
    obtain ⟨key, hk⟩ := (hp p (by simp)).2
    obtain ⟨l, hl, hx⟩ := ih fun q hq => hp q (by simp [hq])
    refine ⟨(⟨key, 0, false, none, 0, 0⟩, true) :: l, by simp [State.lookAll, hk, hl], ?_⟩
    intro x hx'
    rcases List.mem_cons.1 hx' with rfl | hx'
    · exact ⟨rfl, rfl⟩
    · exact hx x hx'

theorem markAll_of (s : State) (c : Ctx) (ps : List (Word × Nat)) (h : ∀ p ∈ ps, inQlmBlock p.1 = true) : s.markAll c ps = s := by
  unfold State.markAll State.markAllOn
  induction ps with
  | nil => rfl
  | cons p ps ih => rw [List.foldl_cons, if_pos (h p (by simp)), ih fun q hq => h q (by simp [hq])]

theorem placedAll_of (s : State) (ps : List (Word × Nat)) (k : Acc3) (h : inShare s k ps = true) : ∃ keys, PlacedAll s ps k s keys := by
  obtain ⟨hp, l, hl, hx⟩ := lookAll_of s ps k h
  refine ⟨_, fun p hq => ⟨by obtain ⟨_, _, e⟩ := hp p hq; rw [e]; simp, (hp p hq).1.2⟩, l, ?_, hx, rfl⟩
  rw [State.placeAll, hl]
  dsimp only
  rw [markAll_of s _ ps fun p hq => (hp p hq).1.1, ite_self]

/-- Every size at the end of the share, a page at the end of its mapping, and both addressing forms. -/
theorem test_witness_LoadResults :
    (∀ n ∈ [1, 2, 4, 8], ∃ (s : State) (d a : Reg) (c : BitVec 11) (u : State) (key : Nat), Solo s ∧ NoAmo s ∧ Full s a ∧ Free s d ∧
      ((s.me.greg a).val + c.signExtend 64).toNat % n = 0 ∧ Placed s ((s.me.greg a).val + c.signExtend 64) n .r u key) ∧
    (∃ (s : State) (d a : Reg) (c : BitVec 11) (u : State) (key : Nat), Solo s ∧ NoAmo s ∧ Full s a ∧ Free s d ∧
      ((s.me.greg a).val + c.signExtend 64).toNat % 8 = 0 ∧ Placed s ((s.me.greg a).val + c.signExtend 64) 8 .r u key) ∧
    ∃ (s : State) (d : Reg) (m : XAddr) (u : State) (key : Nat), Solo s ∧ NoAmo s ∧ FullAll s [m.a, m.b] ∧ Free s d ∧
      (effective s m).toNat % 8 = 0 ∧ Placed s (effective s m) 8 .r u key := by
  refine ⟨?_, ⟨reader, 9, 6, 0, _, _, rfl, rfl, rfl, rfl, by decide +kernel, placed_page _ (by decide +kernel)⟩,
    ⟨reader, 9, ⟨⟨5, true⟩, ⟨7, false⟩, 3, 0⟩, _, _, rfl, rfl, fullAll_of _ _ rfl, rfl, by decide +kernel, placed_share _ (by decide +kernel)⟩⟩
  intro n hn
  have h : ∃ c : BitVec 11, (0x00FF000000003FF8 + c.signExtend 64 : Word).toNat % n = 0 ∧
      reader.protect 0 (0x00FF000000003FF8 + c.signExtend 64) n false =
        some (some (qlmKey 0 ((0x00FF000000003FF8 + c.signExtend 64 : Word).toNat % 2 ^ 20))) ∧
      inQlmBlock (0x00FF000000003FF8 + c.signExtend 64) = true ∧
      reader.pageHeld 0 (pageOf 0 (0x00FF000000003FF8 + c.signExtend 64)) = false := by
    simp only [List.mem_cons, List.not_mem_nil, or_false] at hn
    rcases hn with rfl | rfl | rfl | rfl
    · exact ⟨7, by decide +kernel⟩
    · exact ⟨6, by decide +kernel⟩
    · exact ⟨4, by decide +kernel⟩
    · exact ⟨0, by decide +kernel⟩
  obtain ⟨c, h1, h2, h3, h4⟩ := h
  exact ⟨reader, 9, 5, c, reader, _, rfl, rfl, rfl, rfl, h1, h4, .inl ⟨h3, h2, rfl⟩⟩

theorem test_witness_StoreResults :
    (∃ (s : State) (d a : Reg) (c : BitVec 11) (u : State) (key : Nat), Solo s ∧ NoAmo s ∧ Memory.wf s.mem = true ∧
      s.replay.busy = false ∧ Full s a ∧ Full s d ∧ ((s.me.greg a).val + c.signExtend 64).toNat % 8 = 0 ∧
      Placed s ((s.me.greg a).val + c.signExtend 64) 8 .w u key) ∧
    (∃ (s : State) (d a : Reg) (c : BitVec 11) (u : State) (key : Nat), Solo s ∧ NoAmo s ∧ Memory.wf s.mem = true ∧
      s.replay.busy = false ∧ Full s a ∧ Full s d ∧ ((s.me.greg a).val + c.signExtend 64).toNat % 1 = 0 ∧
      Placed s ((s.me.greg a).val + c.signExtend 64) 1 .w u key) ∧
    (∃ (s : State) (d a : Reg) (c : BitVec 11) (u : State) (key : Nat), Solo s ∧ NoAmo s ∧ Memory.wf s.mem = true ∧
      s.replay.busy = false ∧ Full s a ∧ Full s d ∧ ((s.me.greg a).val + c.signExtend 64).toNat % 8 = 0 ∧
      Placed s ((s.me.greg a).val + c.signExtend 64) 8 .w u key) ∧
    ∃ (s : State) (o : XStore) (u : State) (key : Nat), Solo s ∧ NoAmo s ∧ Memory.wf s.mem = true ∧ s.replay.busy = false ∧
      FullAll s [o.addr.a, o.addr.b] ∧ Full s o.d ∧ (effective s o.addr).toNat % 8 = 0 ∧ (o.rl = true → Released s o.sc) ∧
      o.rl = true ∧ o.sc = .dur ∧ Placed s (effective s o.addr) 8 .w u key :=
  ⟨⟨reader, 7, 5, 0, _, _, rfl, rfl, rfl, rfl, rfl, rfl, by decide +kernel, placed_shareW _ (by decide +kernel)⟩,
   ⟨reader, 7, 5, 7, reader, _, rfl, rfl, rfl, rfl, rfl, rfl, by decide +kernel,
    by decide +kernel, .inl ⟨by decide +kernel, (by decide +kernel : reader.protect 0 (0x00FF000000003FF8 + BitVec.signExtend 64 (7 : BitVec 11)) 1 true =
      some (some (qlmKey 0 0x3FFF))), rfl⟩⟩,
   ⟨reader, 7, 6, 0, _, _, rfl, rfl, rfl, rfl, rfl, rfl, by decide +kernel, placed_pageW _ (by decide +kernel)⟩,
   ⟨reader, ⟨7, ⟨⟨5, false⟩, ⟨7, true⟩, 0, 0⟩, true, .dur, .na⟩, _, _, rfl, rfl, rfl, rfl, fullAll_of _ _ rfl, rfl,
    by decide +kernel, fun _ => ⟨⟨rfl, rfl⟩, fun _ => rfl, fun _ => rfl⟩, rfl, rfl, placed_shareW _ (by decide +kernel)⟩⟩

/-- A misaligned address, one with bit 56, and one above the local window. -/
theorem test_witness_AccessChecks :
    (∃ (s : State) (d a : Reg) (c : BitVec 11), Solo s ∧ taHnd s.cur = false ∧ Full s a ∧ Full s d ∧ Free s d ∧
      ∀ n ∈ [2, 4, 8], ((s.me.greg a).val + c.signExtend 64).toNat % n ≠ 0) ∧
    (∃ (s : State) (d a : Reg) (c : BitVec 11), Solo s ∧ taHnd s.cur = false ∧ Full s a ∧ Full s d ∧ Free s d ∧
      (∀ n ∈ [1, 2, 4, 8], ((s.me.greg a).val + c.signExtend 64).toNat % n = 0) ∧
      ((s.me.greg a).val + c.signExtend 64).toNat / 2 ^ 56 ≠ 0) ∧
    ∃ (s : State) (d a : Reg) (c : BitVec 11), Solo s ∧ taHnd s.cur = false ∧ Full s a ∧ Full s d ∧ Free s d ∧
      (∀ n ∈ [1, 2, 4, 8], ((s.me.greg a).val + c.signExtend 64).toNat % n = 0) ∧
      inQlmBlock ((s.me.greg a).val + c.signExtend 64) = true ∧
      qlmWindow (taQuad s.cur) ((s.me.greg a).val + c.signExtend 64) = none :=
  ⟨⟨reader, 7, 5, 1, rfl, rfl, rfl, rfl, rfl, by decide +kernel⟩,
   ⟨regs [(5, 0x0100000000000000), (7, 0)], 7, 5, 0, rfl, rfl, rfl, rfl, rfl, by decide +kernel, by decide +kernel⟩,
   ⟨regs [(5, 0x00FF000000100000), (7, 0)], 7, 5, 0, rfl, rfl, rfl, rfl, rfl, by decide +kernel, by decide +kernel, by decide +kernel⟩⟩

theorem test_witness_AccessFrames : (∃ s : State, Memory.wf s.mem = true ∧ s.mem ≠ []) ∧
    (∃ (i : Instr) (gs : List Reg) (n : Nat) (addr : State → Word) (s t : State), accessOf i = some (gs, false, n, addr) ∧ Solo s ∧
      taHnd s.cur = false ∧ s.replay.busy = false ∧ Memory.wf s.mem = true ∧ exec i s = .next t) ∧
    ∃ (i : Instr) (gs : List Reg) (n : Nat) (addr : State → Word) (s t : State), accessOf i = some (gs, true, n, addr) ∧ Solo s ∧
      taHnd s.cur = false ∧ s.replay.busy = false ∧ Memory.wf s.mem = true ∧ exec i s = .next t ∧
      storedAt s (addr s) n = some (qlmKey 0 0x3FF8) :=
  ⟨⟨reader, rfl, by decide⟩, ⟨.ldD 9 5 0, _, _, _, reader, _, rfl, rfl, rfl, rfl, rfl, rfl⟩,
   ⟨.stD 7 5 0, _, _, _, reader, _, rfl, rfl, rfl, rfl, rfl, rfl, by decide +kernel⟩⟩

theorem test_witness_VectorArithmetic : ∃ s : State, Solo s := ⟨run id, rfl⟩

theorem test_witness_VectorMoves : ∃ (s : State) (o : VBcastOp), Solo s ∧ Full s o.a.reg :=
  ⟨regs [(5, 7)], ⟨31, ⟨5, true⟩, .fp64, off⟩, rfl, rfl⟩

/-- Lane 0 and the last lane; a clean register and a poisoned one. -/
theorem test_witness_MasksAndLanes :
    (∃ (s : State) (d : Reg) (a : Src), Solo s ∧ Full s a.reg ∧ Free s d) ∧
    (∃ (s : State) (o : VExtrOp), Solo s ∧ o.d ≠ 0 ∧ Full s o.b.reg ∧ Free s o.d ∧ s.vpois o.a = false ∧
      ((s.me.greg o.b.reg).val + o.idx.signExtend 64).toNat % (2048 / o.ty.width) = 0) ∧
    (∃ (s : State) (o : VExtrOp), Solo s ∧ o.d ≠ 0 ∧ Full s o.b.reg ∧ Free s o.d ∧ s.vpois o.a = true ∧
      ((s.me.greg o.b.reg).val + o.idx.signExtend 64).toNat % (2048 / o.ty.width) = 31) ∧
    ∃ (s : State) (o : VInsOp), Solo s ∧ Full s o.a.reg ∧ Full s o.b.reg :=
  ⟨⟨regs [(5, 256)], 9, ⟨5, false⟩, rfl, rfl, rfl⟩,
   ⟨regs [(5, 1)], ⟨9, 3, ⟨5, false⟩, 0xFFFFFFFF, .i64⟩, rfl, by decide, rfl, rfl, rfl, by decide +kernel⟩,
   ⟨run fun sl => { filled [(5, 32)] sl with vpois := 8 }, ⟨9, 3, ⟨5, false⟩, 0xFFFFFFFF, .i64⟩, rfl, by decide, rfl, rfl, rfl,
    by decide +kernel⟩,
   ⟨regs [(5, 7)], ⟨31, ⟨5, false⟩, ⟨0, true⟩, 255, .i8⟩, rfl, rfl, rfl⟩⟩

theorem test_witness_VectorCompares :
    (∃ (s : State) (o : VCmpOp), Solo s ∧ s.vpois o.a = false ∧ s.vpois o.b = false ∧ o.ty.isInt = false) ∧
    (∃ (s : State) (o : VCmpOp), Solo s ∧ s.vpois o.a = false ∧ s.vpois o.b = false ∧ o.ty.isInt = true) ∧
    ∃ (s : State) (o : VCmpOp), Solo s ∧ taHnd s.cur = false ∧ s.vpois o.a = true :=
  ⟨⟨run id, ⟨0, 1, 2, .fp32, off⟩, rfl, rfl, rfl, rfl⟩, ⟨run id, ⟨7, 1, 2, .i8, off⟩, rfl, rfl, rfl, rfl⟩,
   ⟨run fun sl => { sl with vpois := 0x80000000 }, ⟨0, 31, 2, .fp32, off⟩, rfl, rfl, rfl⟩⟩

/-- A widening conversion of the last part, a narrowing one into the last part, and one of equal widths. -/
theorem test_witness_VectorConversions :
    (∃ (s : State) (o : VCvtOp) (m p base : Nat), Solo s ∧ m = 2048 / Nat.max o.sty.width o.dty.width ∧ p = o.part.toNat * m ∧
      base = (if o.sty.width < o.dty.width then 0 else p) ∧ base + m ≤ 2048 / o.dty.width ∧ o.sty.width < o.dty.width ∧ p = 192) ∧
    (∃ (s : State) (o : VCvtOp) (m p base : Nat), Solo s ∧ m = 2048 / Nat.max o.sty.width o.dty.width ∧ p = o.part.toNat * m ∧
      base = (if o.sty.width < o.dty.width then 0 else p) ∧ base + m = 2048 / o.dty.width ∧ o.dty.width < o.sty.width) ∧
    ∃ (s : State) (o : VCvtOp) (m p base : Nat), Solo s ∧ m = 2048 / Nat.max o.sty.width o.dty.width ∧ p = o.part.toNat * m ∧
      base = (if o.sty.width < o.dty.width then 0 else p) ∧ base + m ≤ 2048 / o.dty.width ∧ o.sty.width = o.dty.width :=
  ⟨⟨run id, ⟨1, 2, .fp32, .e4m3, false, .rne, 3, off⟩, 64, 192, 0, rfl, rfl, rfl, rfl, by decide, by decide, rfl⟩,
   ⟨run id, ⟨1, 2, .e4m3, .fp32, true, .rsr, 3, off⟩, 64, 192, 192, rfl, rfl, rfl, rfl, by decide, by decide⟩,
   ⟨run id, ⟨1, 2, .i32, .fp32, false, .rtz, 0, off⟩, 64, 0, 0, rfl, rfl, rfl, rfl, by decide, by decide⟩⟩

/-- Every reduction folds with a function of v2Table, and every lane count is a power of 2. -/
theorem test_witness_VectorReductions : (∃ s : State, Solo s) ∧
    (∀ e ∈ redTable, ∃ f ∈ v2Table, ∀ o, f.1 o = e.2.1 o) ∧
    (∀ ty : Ty, ∃ k, 2 ^ k = 2048 / ty.width) := by
  refine ⟨⟨run id, rfl⟩, ?_, ?_⟩
  · intro e he
    simp only [redTable, List.mem_cons, List.not_mem_nil, or_false] at he
    rcases he with rfl | rfl | rfl | rfl | rfl <;> simp [v2Table]
  · intro ty
    cases ty
    case fp64 => exact ⟨5, rfl⟩
    case i64 => exact ⟨5, rfl⟩
    case fp32 => exact ⟨6, rfl⟩
    case i32 => exact ⟨6, rfl⟩
    case bf16 => exact ⟨7, rfl⟩
    case fp16 => exact ⟨7, rfl⟩
    case i16 => exact ⟨7, rfl⟩
    case e4m3 => exact ⟨8, rfl⟩
    case e5m2 => exact ⟨8, rfl⟩
    case i8 => exact ⟨8, rfl⟩

/-- The reader with lanes 0 and 31 active in k1, the stride 256 in g8, and an address 256 below the end of the share in g5. -/
def vreader : State := mapped fun sl =>
  { filled [(5, 0x00FF000000003F00), (8, 0x80)] sl with k := sl.k.set 1 0x80000001 }

/-- Lanes 0 and 31 of a masked access, and every lane of an unmasked one, in the share; a strided and an indexed one. -/
theorem test_witness_VectorMemory :
    (∃ (s : State) (o : VMem1) (u : State) (keys : List Nat), Solo s ∧ NoAmo s ∧ Full s o.a.reg ∧ s.replay.busy = false ∧ s.vpois o.d = false ∧
      o.m.en = true ∧
      (∀ j ∈ onLanes s o.m (2048 / o.ty.width), (unitOf s o.a o.off o.ty j).toNat % (o.ty.width / 8) = 0) ∧
      PlacedAll s ((onLanes s o.m (2048 / o.ty.width)).map fun j => (unitOf s o.a o.off o.ty j, o.ty.width / 8)) .r u keys) ∧
    (∃ (s : State) (o : VMem1) (u : State) (keys : List Nat), Solo s ∧ NoAmo s ∧ Full s o.a.reg ∧ s.replay.busy = false ∧ s.vpois o.d = false ∧
      o.m.en = false ∧
      (∀ j ∈ onLanes s o.m (2048 / o.ty.width), (unitOf s o.a o.off o.ty j).toNat % (o.ty.width / 8) = 0) ∧
      PlacedAll s ((onLanes s o.m (2048 / o.ty.width)).map fun j => (unitOf s o.a o.off o.ty j, o.ty.width / 8)) .w u keys) ∧
    (∃ (s : State) (o : VMem1) (u : State) (keys : List Nat), Solo s ∧ NoAmo s ∧ Full s o.a.reg ∧
      ((s.me.greg o.a.reg).val + o.off.signExtend 64).toNat % (o.ty.width / 8) = 0 ∧
      PlacedAll s (((onLanes s o.m (2048 / o.ty.width)).take 1).map fun _ =>
        ((s.me.greg o.a.reg).val + o.off.signExtend 64, o.ty.width / 8)) .r u keys) ∧
    (∃ (s : State) (o : VMem2) (u : State) (keys : List Nat), Solo s ∧ NoAmo s ∧ FullAll s [o.a, o.b] ∧
      (∀ j ∈ onLanes s o.m (2048 / o.ty.width), (stridedOf s o.a o.b o.off j).toNat % (o.ty.width / 8) = 0) ∧
      PlacedAll s ((onLanes s o.m (2048 / o.ty.width)).map fun j => (stridedOf s o.a o.b o.off j, o.ty.width / 8)) .w u keys) ∧
    ∃ (s : State) (o : VMemX) (u : State) (keys : List Nat), Solo s ∧ NoAmo s ∧ Full s o.a.reg ∧ s.vpois o.b = false ∧
      (∀ j ∈ onLanes s o.m (2048 / o.ty.width), (indexedOf s o.a o.b o.off o.ty j).toNat % (o.ty.width / 8) = 0) ∧
      PlacedAll s ((onLanes s o.m (2048 / o.ty.width)).map fun j => (indexedOf s o.a o.b o.off o.ty j, o.ty.width / 8)) .w u keys := by
  refine ⟨?_, ?_, ?_, ?_, ?_⟩
  · obtain ⟨keys, h⟩ := placedAll_of vreader ((onLanes vreader ⟨true, false, 1⟩ 32).map fun j =>
      (unitOf vreader ⟨5, false⟩ 0 .i64 j, 8)) .r (by decide +kernel)
    exact ⟨vreader, ⟨2, ⟨5, false⟩, 0, .i64, .normal, ⟨true, false, 1⟩⟩, vreader, keys, rfl, rfl, rfl, rfl, rfl, rfl, by decide +kernel, h⟩
  · obtain ⟨keys, h⟩ := placedAll_of vreader ((onLanes vreader off 32).map fun j =>
      (unitOf vreader ⟨5, false⟩ 0 .i64 j, 8)) .w (by decide +kernel)
    exact ⟨vreader, ⟨2, ⟨5, false⟩, 0, .i64, .normal, off⟩, vreader, keys, rfl, rfl, rfl, rfl, rfl, rfl, by decide +kernel, h⟩
  · obtain ⟨keys, h⟩ := placedAll_of vreader (((onLanes vreader off 128).take 1).map fun _ =>
      ((vreader.me.greg 5).val + (254 : W32).signExtend 64, 2)) .r (by decide +kernel)
    exact ⟨vreader, ⟨2, ⟨5, false⟩, 254, .bf16, .normal, off⟩, vreader, keys, rfl, rfl, rfl, by decide +kernel, h⟩
  · obtain ⟨keys, h⟩ := placedAll_of vreader ((onLanes vreader ⟨true, true, 1⟩ 64).map fun j =>
      (stridedOf vreader ⟨5, false⟩ ⟨8, false⟩ 0xFFFFF080 j, 4)) .w (by decide +kernel)
    exact ⟨vreader, ⟨2, ⟨5, false⟩, ⟨8, false⟩, 0xFFFFF080, .fp32, .normal, ⟨true, true, 1⟩⟩, vreader, keys, rfl, rfl,
      fullAll_of _ _ rfl, by decide +kernel, h⟩
  · obtain ⟨keys, h⟩ := placedAll_of vreader ((onLanes vreader off 256).map fun j =>
      (indexedOf vreader ⟨5, false⟩ 3 255 .i8 j, 1)) .w (by decide +kernel)
    exact ⟨vreader, ⟨2, ⟨5, false⟩, 3, 255, .i8, .normal, off⟩, vreader, keys, rfl, rfl, rfl, rfl, by decide +kernel, h⟩

theorem pois_clean (s : State) (h : s.poison = []) (k n : Nat) : s.pois k n = false := by
  simp [State.pois, State.gran, h, Sparse.get, Store.get]

/-- A descriptor of rows in the share, from its bottom. -/
def tiler : State := mapped (filled [(4, 0x00FF000000000000), (5, 64), (6, 0x00FF000000003C00), (7, 0x00FF000000003E00)])

def goodRow (s : State) (f : MmaFmt) (a : Word) : Bool :=
  (inQlmBlock a && !s.pageHeld s.cur (pageOf s.cur a)) && (match s.protect s.cur a (mmaRowLen f) false with
    | some (some key) => (List.range (mmaRowLen f)).all fun i => !s.gran (key + i)
    | _ => false)

theorem goodQlm (s : State) (f : MmaFmt) (n : Src) (h1 : Full s n.reg ∧ Full s (n.reg + 1))
    (h2 : (s.me.greg n.reg).val.toNat % mmaRowLen f = 0 ∧ slice (s.me.greg (n.reg + 1)).val 0 32 % mmaRowLen f = 0)
    (h3 : (s.mmaRowAddrs f n).all (goodRow s f) = true) : GoodOperand s f (.qlm n) := by
  refine ⟨h1.1, h1.2, h2.1, h2.2, fun a ha => ?_⟩
  have h := List.all_eq_true.1 h3 a ha
  rw [goodRow, Bool.and_eq_true, Bool.and_eq_true, Bool.not_eq_true'] at h
  refine ⟨h.1.1, h.1.2, ?_⟩
  cases hp : s.protect s.cur a (mmaRowLen f) false with
  | none => simp [hp] at h
  | some o =>
    cases o with
    | none => simp [hp] at h
    | some key =>
      refine ⟨key, rfl, fun i hi => ?_⟩
      simp only [hp, List.all_eq_true, List.mem_range, Bool.not_eq_true'] at h
      exact h.2 i hi

/-- Register operands, descriptors in the share, and the areas of an accumulator of either length. -/
theorem test_witness_TileResults :
    (∃ (s : State) (o : MmaOp), Solo s ∧ NoAmo s ∧ o.a = .reg 28 ∧ GoodOperand s o.f o.a ∧ GoodOperand s o.f o.b) ∧
    (∃ (s : State) (o : MmaOp) (n : Src), Solo s ∧ NoAmo s ∧ o.a = .qlm n ∧ GoodOperand s o.f o.a ∧ GoodOperand s o.f o.b) ∧
    (∃ (s : State) (a : VReg), Solo s ∧ s.vpois a = false) ∧
    (∃ (s : State) (o : AccMem) (va : Word) (n : Nat) (u : State) (keys : List Nat), Solo s ∧ NoAmo s ∧
      va = (s.me.greg o.a.reg).val + o.off.signExtend 64 ∧ n = (if o.ty = .fp64 then 512 else 1024) ∧ Full s o.a.reg ∧
      va.toNat % 64 = 0 ∧ n = 1024 ∧ PlacedAll s (accParts va n) .r u keys ∧ ∀ key ∈ keys, u.pois key 32 = false) ∧
    ∃ (s : State) (o : AccMem) (va : Word) (n : Nat) (u : State) (keys : List Nat), Solo s ∧ NoAmo s ∧
      va = (s.me.greg o.a.reg).val + o.off.signExtend 64 ∧ n = (if o.ty = .fp64 then 512 else 1024) ∧ Full s o.a.reg ∧
      va.toNat % 64 = 0 ∧ n = 512 ∧ s.replay.busy = false ∧ PlacedAll s ((List.range (n / 32)).map fun i =>
        (va + BitVec.ofNat 64 (32 * i), (toBytes 32 (slice (s.acc o.d) (256 * i) 256)).length)) .w u keys := by
  refine ⟨?_, ?_, ⟨run id, 31, rfl, rfl⟩, ?_, ?_⟩
  · exact ⟨run id, ⟨.bf16, 0, .reg 28, .reg 0, true⟩, rfl, rfl, rfl,
      fun i _ => (by simp : (0 : BitVec 32).getLsbD _ = false), fun i _ => (by simp : (0 : BitVec 32).getLsbD _ = false)⟩
  · exact ⟨tiler, ⟨.fp32, 0, .qlm ⟨4, false⟩, .qlm ⟨4, false⟩, true⟩, ⟨4, false⟩, rfl, rfl, rfl,
      goodQlm _ _ _ ⟨rfl, rfl⟩ ⟨rfl, rfl⟩ (by decide +kernel), goodQlm _ _ _ ⟨rfl, rfl⟩ ⟨rfl, rfl⟩ (by decide +kernel)⟩
  · obtain ⟨keys, h⟩ := placedAll_of tiler (accParts ((tiler.me.greg 6).val + (0 : W32).signExtend 64) 1024) .r (by decide +kernel)
    exact ⟨tiler, ⟨0, ⟨6, false⟩, .fp32, .normal, 0⟩, _, _, tiler, keys, rfl, rfl, rfl, rfl, rfl, by decide +kernel, rfl, h, fun _ _ => pois_clean _ rfl _ _⟩
  · obtain ⟨keys, h⟩ := placedAll_of tiler ((List.range (512 / 32)).map fun i => ((tiler.me.greg 7).val + (0 : W32).signExtend 64 + BitVec.ofNat 64 (32 * i),
      (toBytes 32 (slice (tiler.acc 3) (256 * i) 256)).length)) .w (by decide +kernel)
    exact ⟨tiler, ⟨3, ⟨7, false⟩, .fp64, .normal, 0⟩, _, _, tiler, keys, rfl, rfl, rfl, rfl, rfl, by decide +kernel, rfl, rfl, h⟩

theorem test_witness_GroupGeometry : ∃ (s : State) (d : Reg) (o : GgMaskOp), Solo s ∧ FullAll s [o.a, o.b] ∧ Full s o.a.reg ∧ Free s d :=
  ⟨regs [(5, 7), (6, 8)], 9, ⟨0, ⟨5, true⟩, ⟨6, false⟩, 8, 0, 255⟩, rfl, fullAll_of _ _ rfl, rfl, rfl⟩

theorem clear_of (s : State) (h : (!s.me.paired && decide (s.me.viewBad = none) && decide (s.myRpq s.cur = []) && !s.accessHeld) = true) :
    Clear s := by
  simp only [Bool.and_eq_true, Bool.not_eq_true', decide_eq_true_eq] at h
  exact ⟨h.1.1.1, ⟨h.1.1.2, h.1.2⟩, h.2⟩

theorem full_of (s : State) (r : Reg) (h : decide ((s.me.greg r).pres = .full) = true) : Full s r :=
  show (s.me.greg r).pres = .full from of_decide_eq_true h
theorem free_of (s : State) (r : Reg) (h : (!(s.me.greg r).pend) = true) : Free s r := by
  show (s.me.greg r).pend = false
  simpa using h

/-- The reader's memory with bytes at an offset of its share. -/
def holding (off : Nat) (bs : List Byte) (f : State → State) : State :=
  f { reader with mem := Memory.write reader.mem (qlmKey 0 off) bs }

/-- A record of n bytes at the bottom of the share, by address in g5, that a state u reads as bs. -/
def SpawnCase (s : State) (n : Nat) (P : State → List Byte → Prop) : Prop :=
  ∃ (a b : Src) (d : Reg) (u : State) (bs : List Byte), Clear s ∧ Full s a.reg ∧ Free s d ∧ (s.me.greg a.reg).val.toNat % n = 0 ∧
    (s.readRecord (s.me.greg a.reg).val n = .ok u bs ∧ Full s b.reg ∧ s.taOk s.myCtx ((s.me.greg b.reg).val &&& ~~~7) = true ∧
      s.devOf ((s.me.greg b.reg).val &&& ~~~7) = 0) ∧ P u bs

/-- The state and the bytes of a good read. -/
def readOf (s : State) (va : Word) (n : Nat) : State × List Byte :=
  match s.readRecord va n with
  | .ok u bs => (u, bs)
  | _ => (s, [])

/-- The record stands at the bottom of the share: g5 holds its address, g7 a thread address. -/
def recAt (bs : List Byte) (f : State → State) : State :=
  holding 0 bs fun s => f (s.modMe (filled [(5, 0x00FF000000000000), (7, 7)]))

theorem spawnCase_of (s : State) (n : Nat) (P : State → List Byte → Prop) (h : Clear s) (h5 : Full s 5) (h7 : Full s 7) (h9 : Free s 9)
    (hn : (s.me.greg 5).val.toNat % n = 0) (ht : s.taOk s.myCtx ((s.me.greg 7).val &&& ~~~7) = true)
    (hd : s.devOf ((s.me.greg 7).val &&& ~~~7) = 0)
    (hr : (match s.readRecord (s.me.greg 5).val n with | .ok _ _ => true | _ => false) = true)
    (hP : P (readOf s (s.me.greg 5).val n).1 (readOf s (s.me.greg 5).val n).2) : SpawnCase s n P := by
  cases he : s.readRecord (s.me.greg 5).val n with
  | ok u bs =>
    rw [readOf, he] at hP
    exact ⟨⟨5, false⟩, ⟨7, false⟩, 9, u, bs, h, h5, h9, hn, ⟨he, h7, ht, hd⟩, hP⟩
  | wait x => rw [he] at hr; cases hr
  | trap x c v => rw [he] at hr; cases hr

def gangBytes : List Byte := [2, 0, 0, 0, 1, 1, 1]
def waiter : Work := { ctx := 0, addr := 0x00FF000000000000, count := 2 }

/-- A malformed record, one whose address waits, one with a dependency, and one without; and the same of gangs. -/
theorem test_witness_TaskCreation :
    (∃ s, SpawnCase s 64 fun _ bs => badTask bs = true) ∧
    (∃ s, SpawnCase s 64 fun u bs => badTask bs = false ∧ ∃ w ∈ u.waiting, w.ctx = u.me.ctx ∧ w.addr = (s.me.greg 5).val) ∧
    (∃ s, SpawnCase s 64 fun u bs => badTask bs = false ∧ Fresh u (s.me.greg 5).val ∧ (parseTask bs).deps = 1) ∧
    (∃ s, SpawnCase s 64 fun u bs => badTask bs = false ∧ Fresh u (s.me.greg 5).val ∧ (parseTask bs).deps = 0) ∧
    (∃ s, SpawnCase s 128 fun _ bs => badGang bs = true) ∧
    (∃ s, SpawnCase s 128 fun u bs => badGang bs = false ∧ Fresh u (s.me.greg 5).val ∧ u.clustersUp (u.myCore / 2048) ≠ 0 ∧
      0 < (parseTask ((bs.drop 64).take 64)).deps) ∧
    (∃ s, SpawnCase s 128 fun u bs => badGang bs = false ∧ Fresh u (s.me.greg 5).val ∧ u.clustersUp (u.myCore / 2048) ≠ 0 ∧
      (parseTask ((bs.drop 64).take 64)).deps = 0) := by
  refine ⟨⟨recAt [1] id, spawnCase_of _ _ _ (clear_of _ (by decide +kernel)) (full_of _ _ (by decide +kernel)) (full_of _ _ (by decide +kernel)) (free_of _ _ (by decide +kernel)) (by decide +kernel) (by decide +kernel) (by decide +kernel) (by decide +kernel) ?_⟩,
    ⟨recAt [] fun s => { s with ready := [waiter] }, spawnCase_of _ _ _ (clear_of _ (by decide +kernel)) (full_of _ _ (by decide +kernel)) (full_of _ _ (by decide +kernel)) (free_of _ _ (by decide +kernel)) (by decide +kernel) (by decide +kernel)
      (by decide +kernel) (by decide +kernel) ⟨?_, ?_⟩⟩,
    ⟨recAt (List.replicate 0x24 0 ++ [1]) id, spawnCase_of _ _ _ (clear_of _ (by decide +kernel)) (full_of _ _ (by decide +kernel)) (full_of _ _ (by decide +kernel)) (free_of _ _ (by decide +kernel)) (by decide +kernel) (by decide +kernel)
      (by decide +kernel) (by decide +kernel) ⟨?_, ⟨?_, ?_⟩, ?_⟩⟩,
    ⟨recAt [] id, spawnCase_of _ _ _ (clear_of _ (by decide +kernel)) (full_of _ _ (by decide +kernel)) (full_of _ _ (by decide +kernel)) (free_of _ _ (by decide +kernel)) (by decide +kernel) (by decide +kernel) (by decide +kernel) (by decide +kernel)
      ⟨?_, ⟨?_, ?_⟩, ?_⟩⟩,
    ⟨recAt [3] id, spawnCase_of _ _ _ (clear_of _ (by decide +kernel)) (full_of _ _ (by decide +kernel)) (full_of _ _ (by decide +kernel)) (free_of _ _ (by decide +kernel)) (by decide +kernel) (by decide +kernel) (by decide +kernel) (by decide +kernel) ?_⟩,
    ⟨recAt (gangBytes ++ List.replicate (57 + 0x24) 0 ++ [1]) id, spawnCase_of _ _ _ (clear_of _ (by decide +kernel)) (full_of _ _ (by decide +kernel)) (full_of _ _ (by decide +kernel)) (free_of _ _ (by decide +kernel)) (by decide +kernel) (by decide +kernel)
      (by decide +kernel) (by decide +kernel) ⟨?_, ⟨?_, ?_⟩, ?_, ?_⟩⟩,
    ⟨recAt gangBytes id, spawnCase_of _ _ _ (clear_of _ (by decide +kernel)) (full_of _ _ (by decide +kernel)) (full_of _ _ (by decide +kernel)) (free_of _ _ (by decide +kernel)) (by decide +kernel) (by decide +kernel) (by decide +kernel) (by decide +kernel)
      ⟨?_, ⟨?_, ?_⟩, ?_, ?_⟩⟩⟩
  all_goals decide +kernel

/-- A record that waits with count 2, whose address is in g5; g8, g9 and g10 hold 1, 0 and -1. -/
def waits (f : State → State) : State :=
  f ({ reader with ready := [waiter] } |>.modMe (filled [(5, 0x00FF000000000000), (8, 1), (9, 0), (10, 0xFFFFFFFFFFFFFFFF)]))

theorem test_witness_Dependencies :
    (∃ (s : State) (a b : Src) (d : Reg) (va : Word), Clear s ∧ Full s a.reg ∧ va = (s.me.greg a.reg).val ∧ va.toNat % 64 = 0 ∧
      va.toNat / 2 ^ 56 = 0 ∧ Full s b.reg ∧ Free s d ∧ (∀ w ∈ s.ready, ¬ (w.ctx = s.me.ctx ∧ w.addr = va)) ∧
      ∀ c ∈ s.credits, ¬ (c.ctx = s.me.ctx ∧ c.addr = va)) ∧
    (∃ (s : State) (a b c e : Src) (d : Reg) (va : Word) (w : Work), Clear s ∧ Full s a.reg ∧ va = (s.me.greg a.reg).val ∧ va.toNat % 64 = 0 ∧
      va.toNat / 2 ^ 56 = 0 ∧ Full s b.reg ∧ Full s c.reg ∧ Full s e.reg ∧ Free s d ∧ Waits s va w ∧
      ((s.me.greg b.reg).val.setWidth 32).toInt = 1 ∧ ((s.me.greg c.reg).val.setWidth 32).toInt = 0 ∧
      ((s.me.greg e.reg).val.setWidth 32).toInt = -1 ∧ w.token = false ∧ w.gang = none ∧
      (((1 : BitVec 16).toNat : Int) < w.count) ∧ w.count ≤ (2 : BitVec 16).toNat) ∧
    ∃ (s : State) (a : Src) (va : Word) (d : Reg) (l : List Work) (w : Work), Clear s ∧ Full s a.reg ∧ va = (s.me.greg a.reg).val ∧
      va.toNat % 64 = 0 ∧ va.toNat / 2 ^ 56 = 0 ∧ Free s d ∧
      l = s.ready ++ ((s.cores.filter fun p => p.1 / 2048 == taDie s.cur).flatMap fun p => p.2.urgent ++ p.2.normal) ++
        (s.die (taDie s.cur)).placer ++ (s.die (taDie s.cur)).overflow ∧
      l.find? (fun w => w.ctx == s.me.ctx && w.addr == va) = some w :=
  ⟨⟨recAt [] id, ⟨5, false⟩, ⟨7, false⟩, 9, _, ⟨rfl, ⟨rfl, rfl⟩, rfl⟩, rfl, rfl, rfl, rfl, rfl, rfl, by decide +kernel, by decide +kernel⟩,
   ⟨waits id, ⟨5, true⟩, ⟨8, false⟩, ⟨9, false⟩, ⟨10, false⟩, 63, _, waiter, ⟨rfl, ⟨rfl, rfl⟩, rfl⟩, rfl, rfl, rfl, rfl, rfl, rfl, rfl, rfl,
    show List.find? _ _ = _ by decide +kernel, by decide +kernel, by decide +kernel, by decide +kernel, rfl, rfl, by decide +kernel, by decide +kernel⟩,
   ⟨waits id, ⟨5, true⟩, _, 63, _, waiter, ⟨rfl, ⟨rfl, rfl⟩, rfl⟩, rfl, rfl, rfl, rfl, rfl, rfl, by decide +kernel⟩⟩

/-- The 64 bytes of an edge header with a ring of 2 words at 0x1000 of the share (R175). -/
def edgeBytes (flags head tail free fill cons : Nat) : List Byte :=
  toBytes 4 2 ++ toBytes 4 flags ++ toBytes 4 head ++ toBytes 4 tail ++ toBytes 4 free ++ toBytes 4 fill ++ toBytes 8 cons ++
    toBytes 8 0x00FF000000001000

/-- The edge that those bytes hold. -/
def edgeOf (err run : Bool) (head tail free fill : Nat) (cons : Word) : Edge :=
  ⟨2, err, run, head, tail, free, fill, cons, 0x00FF000000001000⟩

/-- An edge header at the bottom of the share, by address in g5, and the place of an item. -/
def EdgeCase (n : Nat) (kind : Acc3) (P : Edge → Prop) : Prop :=
  ∃ (s : State) (a b : Src) (va : Word) (u x : State) (key item : Nat) (e : Edge), Clear s ∧ Full s a.reg ∧ va = (s.me.greg a.reg).val ∧
    va.toNat % 64 = 0 ∧ EdgeAt s va u key e ∧ u.replay.busy = false ∧ u.cur = s.cur ∧ Full s b.reg ∧
    ItemAt u s.me.ctx e n kind x item ∧ x.replay.busy = false ∧ P e

theorem edgePlace_share (s : State) (ta ctx : Nat) (va : Word) (n key : Nat) (h1 : slice va 56 8 = 0) (h2 : inQlmBlock va = true)
    {k : Acc3} (h3 : s.protect ta va n k.writes = some (some key)) : s.edgePlace (some ta) ctx va n k = (s, .ok key) := by
  rw [State.edgePlace, if_neg (by simp [h1]), if_pos h2, h3]

theorem edgeCase_of (n : Nat) {kind : Acc3} (P : Edge → Prop) (flags : Nat) (e : Edge) (s : State) (hc : Clear s) (h5 : Full s 5) (h7 : Full s 7)
    (hv : (s.me.greg 5).val = 0x00FF000000000000) (hcur : s.cur = 0) (hr : s.replay.busy = false)
    (hp : s.protect 0 0x00FF000000000000 64 true = some (some (qlmKey 0 0)))
    (he : (match s.edgeAt (qlmKey 0 0) with | .ok x => decide (x = e) | _ => false) = true)
    (hq : inQlmBlock (e.base + BitVec.ofNat 64 (8 * n)) = true ∧ slice (e.base + BitVec.ofNat 64 (8 * n)) 56 8 = 0)
    (hi : s.protect 0 (e.base + BitVec.ofNat 64 (8 * n)) 8 kind.writes = some (some (qlmKey 0 (0x1000 + 8 * n)))) (hP : P e) (_ : flags = flags) :
    EdgeCase n kind P := by
  refine ⟨s, ⟨5, false⟩, ⟨7, false⟩, _, s, s, qlmKey 0 0, qlmKey 0 (0x1000 + 8 * n), e, hc, h5, hv.symm, by decide, ⟨?_, ?_⟩, hr, rfl, h7, ?_, hr, hP⟩
  · rw [hcur]; exact edgePlace_share _ _ _ _ _ _ (by decide) (by decide) hp
  · cases h : s.edgeAt (qlmKey 0 0) with
    | error x => rw [h] at he; cases he
    | ok x => rw [h] at he; exact congrArg _ (of_decide_eq_true he)
  · unfold ItemAt; rw [hcur]; exact edgePlace_share _ _ _ _ _ _ hq.2 hq.1 hi

/-- An edge with ERR, a full one, one with an item, one that runs, an empty one with a consumer, and the place of the last word. -/
theorem test_witness_Edges :
    (EdgeCase 0 .w fun e => e.err = true ∧ e.fill = 0) ∧ (EdgeCase 0 .w fun e => e.err = false ∧ e.free = 0) ∧
    (EdgeCase 1 .w fun e => e.err = false ∧ e.free ≠ 0 ∧ e.fill ≠ 0 ∧ e.tail = 1) ∧
    (EdgeCase 0 .w fun e => e.err = false ∧ e.free ≠ 0 ∧ e.fill = 0 ∧ e.run = true ∧ e.tail = 0) ∧
    (EdgeCase 0 .w fun e => e.err = false ∧ e.free ≠ 0 ∧ e.fill = 0 ∧ e.cons = 0 ∧ e.tail = 0) ∧
    (EdgeCase 0 .w fun e => e.err = false ∧ e.free ≠ 0 ∧ e.fill = 0 ∧ e.run = false ∧ e.cons ≠ 0 ∧ e.tail = 0) ∧
    (EdgeCase 1 .r fun e => e.fill ≠ 0 ∧ e.head = 1) ∧
    ∃ (s : State) (d : Reg), Free s d ∧ Free s (d + 1) := by
  refine ⟨edgeCase_of _ _ 1 (edgeOf true false 0 0 2 0 0) (recAt (edgeBytes 1 0 0 2 0 0) id) (clear_of _ (by decide +kernel))
      (full_of _ _ (by decide +kernel)) (full_of _ _ (by decide +kernel)) (by decide +kernel) rfl rfl (by decide +kernel) (by decide +kernel)
      (by decide +kernel) (by decide +kernel) (by decide) rfl,
    edgeCase_of _ _ 2 (edgeOf false true 0 0 0 2 0) (recAt (edgeBytes 2 0 0 0 2 0) id) (clear_of _ (by decide +kernel))
      (full_of _ _ (by decide +kernel)) (full_of _ _ (by decide +kernel)) (by decide +kernel) rfl rfl (by decide +kernel) (by decide +kernel)
      (by decide +kernel) (by decide +kernel) (by decide) rfl,
    edgeCase_of _ _ 0 (edgeOf false false 0 1 1 1 0) (recAt (edgeBytes 0 0 1 1 1 0) id) (clear_of _ (by decide +kernel))
      (full_of _ _ (by decide +kernel)) (full_of _ _ (by decide +kernel)) (by decide +kernel) rfl rfl (by decide +kernel) (by decide +kernel)
      (by decide +kernel) (by decide +kernel) (by decide) rfl,
    edgeCase_of _ _ 2 (edgeOf false true 0 0 2 0 64) (recAt (edgeBytes 2 0 0 2 0 64) id) (clear_of _ (by decide +kernel))
      (full_of _ _ (by decide +kernel)) (full_of _ _ (by decide +kernel)) (by decide +kernel) rfl rfl (by decide +kernel) (by decide +kernel)
      (by decide +kernel) (by decide +kernel) (by decide) rfl,
    edgeCase_of _ _ 0 (edgeOf false false 0 0 2 0 0) (recAt (edgeBytes 0 0 0 2 0 0) id) (clear_of _ (by decide +kernel))
      (full_of _ _ (by decide +kernel)) (full_of _ _ (by decide +kernel)) (by decide +kernel) rfl rfl (by decide +kernel) (by decide +kernel)
      (by decide +kernel) (by decide +kernel) (by decide) rfl,
    edgeCase_of _ _ 0 (edgeOf false false 0 0 2 0 64) (recAt (edgeBytes 0 0 0 2 0 64) id) (clear_of _ (by decide +kernel))
      (full_of _ _ (by decide +kernel)) (full_of _ _ (by decide +kernel)) (by decide +kernel) rfl rfl (by decide +kernel) (by decide +kernel)
      (by decide +kernel) (by decide +kernel) (by decide) rfl,
    edgeCase_of _ _ 0 (edgeOf false false 1 0 1 1 0) (recAt (edgeBytes 0 1 0 1 1 0) id) (clear_of _ (by decide +kernel))
      (full_of _ _ (by decide +kernel)) (full_of _ _ (by decide +kernel)) (by decide +kernel) rfl rfl (by decide +kernel) (by decide +kernel)
      (by decide +kernel) (by decide +kernel) (by decide) rfl,
    ⟨run id, 62, rfl, rfl⟩⟩

theorem test_witness_EndEmptiesSlot : ∃ s : State, Clear s ∧ s.me.stq = 0 := ⟨run id, clear_of _ rfl, rfl⟩

/-- A task of a gang of two with one barrier slot. -/
def member (b : BarSlot) (f : Slot → Slot) : State :=
  { slots := [(0, f (filled [(5, 3), (6, 0)] { st := .running, uid := 1 })), (8, { st := .running, uid := 2, rank := 1 })]
    units := [{ ctx := 0, addr := 0, gang := some { s := 2, bars := 1 }, members := [⟨0, 0, 1, false⟩, ⟨1, 8, 2, false⟩], bars := [b] }] }

/-- At the task's phase and before it, poisoned and clean, with the arrival of BARSYNC sent and not sent; no slot for a task
without a gang. -/
theorem test_witness_Barriers :
    (∃ (s : State) (n : BitVec 3) (b : BarSlot) (x y : Src) (d : Reg), Clear s ∧ s.bar n = some b ∧ FullAll s [x, y] ∧ Free s d ∧ b.pois = false ∧
      b.ph = s.lph n ∧ s.me.barSent = false ∧ b.ackn < 65536 ∧ b.ackx < 65536 ∧ b.cause < 16) ∧
    (∃ (s : State) (n : BitVec 3) (b : BarSlot) (d : Reg), Clear s ∧ s.bar n = some b ∧ Free s d ∧ b.pois = false ∧
      b.ph ≠ s.lph n ∧ s.me.barSent = true ∧ b.ackn = 65535 ∧ b.ackx = 65535 ∧ b.cause = 15) ∧
    (∃ (s : State) (n : BitVec 3) (b : BarSlot) (d : Reg), Clear s ∧ s.bar n = some b ∧ Free s d ∧ b.pois = true ∧
      taHnd s.cur = false ∧ s.me.barSent = true) ∧
    ∃ (s : State) (n : BitVec 3), Solo s ∧ s.bar n = none ∧ taHnd s.cur = false :=
  ⟨⟨member {} id, 0, _, ⟨5, true⟩, ⟨6, false⟩, 9, clear_of _ rfl, rfl, fullAll_of _ _ rfl, rfl, rfl, rfl, rfl, by decide, by decide, by decide⟩,
   ⟨member { ackn := 65535, ackx := 65535, cause := 15 } fun sl => { sl with lph := 1, barSent := true }, 0, _, 0, clear_of _ rfl, rfl, rfl, rfl,
    by decide, rfl, rfl, rfl, rfl⟩,
   ⟨member { pois := true, cause := 3 } fun sl => { sl with barSent := true }, 0, _, 1, clear_of _ rfl, rfl, rfl, rfl, rfl, rfl⟩,
   ⟨run id, 7, rfl, rfl, rfl⟩⟩

/-- The least integer at a word of memory that reads 0. -/
def minReq : AmoReq := ⟨⟨0, 1⟩, 0, .loc 5, .min, .i32, .rne, 0x3FFC, 0x80000000, 0⟩
theorem min_case : (run id).replay.busy = false ∧ minReq.key < 2 ^ 64 ∧ (run id).pois minReq.key (minReq.ty.width / 8) = false ∧
    32 = minReq.ty.width ∧ (0 : BitVec 32) = BitVec.ofNat 32 (littleEndian (Memory.read (run id).mem minReq.key (32 / 8))) ∧
    newValue 32 minReq.fn 0 (minReq.x.setWidth 32) (minReq.y.setWidth 32) = some 0x80000000 ∧ minReq.x.toNat < 2 ^ 32 ∧
    minReq.y.toNat < 2 ^ 32 := by
  refine ⟨rfl, ?_, ?_, rfl, ?_, ?_, ?_, ?_⟩ <;> decide +kernel

/-- An atomic in the share with a remote destination and a release, and one in the page with none. -/
theorem test_witness_Atomics :
    (∃ (s : State) (o : AmoOp) (u : State) (key : Nat), Clear s ∧ FullAll s [o.a, o.b] ∧ Takes s o.dst ∧ o.rl = true ∧ Released s o.sc ∧
      ((s.me.greg o.a.reg).val + o.off.signExtend 64).toNat % (o.ty.width / 8) = 0 ∧
      AmoPlaced s ((s.me.greg o.a.reg).val + o.off.signExtend 64) (o.ty.width / 8) u key) ∧
    (∃ (s : State) (o : CasOp) (u : State) (key : Nat), Clear s ∧ FullAll s [o.a, o.b, o.c] ∧ Takes s o.dst ∧ o.rl = false ∧
      ((s.me.greg o.a.reg).val + o.off.signExtend 64).toNat % (o.ty.width / 8) = 0 ∧
      AmoPlaced s ((s.me.greg o.a.reg).val + o.off.signExtend 64) (o.ty.width / 8) u key) ∧
    (∃ (s : State) (r : AmoReq) (old new : BitVec 32), s.replay.busy = false ∧ r.key < 2 ^ 64 ∧ s.pois r.key (r.ty.width / 8) = false ∧
      32 = r.ty.width ∧ old = BitVec.ofNat 32 (littleEndian (Memory.read s.mem r.key (32 / 8))) ∧
      newValue 32 r.fn old (r.x.setWidth 32) (r.y.setWidth 32) = some new ∧ r.x.toNat < 2 ^ 32 ∧ r.y.toNat < 2 ^ 32) ∧
    (∃ (s : State) (r : AmoReq), s.replay.busy = false ∧ r.key < 2 ^ 64 ∧ s.pois r.key (r.ty.width / 8) = true) ∧
    (∃ (s : State) (r : AmoReq) (q off : Nat), s.replay.busy = false ∧ q < 2048 ∧ off < 2 ^ 20 ∧ r.key = 2 ^ 64 + q * 2 ^ 20 + off) ∧
    (∃ (s : State) (r : AmoReq), s.replay.busy = false ∧ (s.slot r.req.ta).uid = r.req.uid ∧ r.req.uid ≠ 0 ∧ (∀ p ∈ s.agreed, p.1 ≠ r.req.uid) ∧
      r.dest = .none) ∧
    (∃ (s : State) (r : AmoReq) (d : Reg), s.replay.busy = false ∧ (s.slot r.req.ta).uid = r.req.uid ∧ r.req.uid ≠ 0 ∧
      (∀ p ∈ s.agreed, p.1 ≠ r.req.uid) ∧ r.dest = .loc d) ∧
    ∃ (s : State) (r : AmoReq) (th : Nat) (n : BitVec 5), s.replay.busy = false ∧ (s.slot r.req.ta).uid = r.req.uid ∧ r.req.uid ≠ 0 ∧
      (∀ p ∈ s.agreed, p.1 ≠ r.req.uid) ∧ r.dest = .rem th n ∧ th < 2 ^ 16 ∧ (s.slot th).partner = none := by
  refine ⟨⟨reader, ⟨.rem 31 ⟨7, false⟩, ⟨5, false⟩, ⟨7, true⟩, 0, .i64, .rne, true, true, .dur, .normal⟩, reader, qlmKey 0 0x3FF8, clear_of _ rfl, fullAll_of _ _ rfl,
      ⟨rfl, rfl, by decide, by decide⟩, rfl, ⟨⟨rfl, rfl⟩, fun _ => rfl, fun _ => rfl⟩, by decide +kernel,
      .inl ⟨by decide +kernel, by decide +kernel, rfl⟩⟩,
    ⟨reader, ⟨.loc 0, ⟨6, false⟩, ⟨7, true⟩, ⟨7, false⟩, 4, .i32, false, false, .dflt, .ef⟩,
      (reader.translate reader.myCtx (some reader.cur) ((reader.me.greg 6).val + (4 : W32).signExtend 64) .a).1, 0x1FFFFFFC, clear_of _ rfl, fullAll_of _ _ rfl,
      rfl, rfl, by decide +kernel, .inr ⟨by decide +kernel, by decide +kernel, ⟨0x1FFFFFFC, 0x1FFFFFFC, true, none, 0, 0⟩,
        Prod.ext rfl (by decide +kernel), rfl, rfl, by decide⟩⟩,
    ⟨run id, minReq, 0, 0x80000000, min_case⟩,
    ⟨{ run id with poison := [(0x1FF, true)] }, ⟨⟨0, 1⟩, 0, .loc 5, .min, .i32, .rne, 0x3FFC, 0x80000000, 0⟩, rfl, by decide +kernel, by decide +kernel⟩,
    ⟨run id, ⟨⟨0, 1⟩, 0, .loc 5, .min, .i32, .rne, 2 ^ 64 + 2047 * 2 ^ 20 + (2 ^ 20 - 4), 0, 0⟩, 2047, 2 ^ 20 - 4, rfl, by decide +kernel, by decide +kernel, by decide +kernel⟩,
    ⟨run id, ⟨⟨0, 1⟩, 0, .none, .min, .i32, .rne, 0, 0, 0⟩, rfl, rfl, by decide +kernel, by decide +kernel, rfl⟩,
    ⟨run id, ⟨⟨0, 1⟩, 0, .loc 63, .min, .i32, .rne, 0, 0, 0⟩, 63, rfl, rfl, by decide +kernel, by decide +kernel, rfl⟩,
    ⟨run id, ⟨⟨0, 1⟩, 0, .rem 65535 31, .min, .i32, .rne, 0, 0, 0⟩, 65535, 31, rfl, rfl, by decide +kernel, by decide +kernel, rfl, by decide +kernel, rfl⟩⟩

/-- The pages of a pin: a range of 256 bytes from g5 on, as a state u finds them. -/
def PinCase (P : State → List (Nat × Nat) → Prop) : Prop :=
  ∃ (s : State) (d : Reg) (a b : Src) (u : State) (pages : List (Nat × Nat)), Solo s ∧ Settled s ∧ Free s d ∧ Full s a.reg ∧ Full s b.reg ∧
    (s.me.greg a.reg).val.toNat % 128 = 0 ∧ (s.me.greg b.reg).val.toNat % 128 = 0 ∧ (s.me.greg b.reg).val.toNat ≠ 0 ∧
    s.pinPages (some s.cur) s.myCtx (rangePages (s.me.greg a.reg).val.toNat (s.me.greg b.reg).val.toNat) = (u, .ok pages) ∧ P u pages

def pinOf (s : State) : State × Except Nat (List (Nat × Nat)) :=
  s.pinPages (some s.cur) s.myCtx (rangePages (s.me.greg 5).val.toNat (s.me.greg 7).val.toNat)

def okOf {α β : Type} : Except α β → Option β
  | .ok l => some l
  | .error _ => none

theorem ok_of {α β σ : Type} (x : σ × Except α β) (l : β) (h : okOf x.2 = some l) :
    x = (x.1, .ok l) := by
  obtain ⟨u, r⟩ := x
  cases r with
  | error e => cases h
  | ok y => cases h; rfl

theorem pinCase_of (s : State) (pages : List (Nat × Nat)) (P : State → List (Nat × Nat) → Prop)
    (h : (!s.me.paired && decide (s.me.viewBad = none) && decide (s.myRpq s.cur = []) && decide (s.me.stq = 0) && !s.dataOut s.me.uid) = true)
    (h9 : Free s 9) (h5 : Full s 5) (h7 : Full s 7) (a5 : (s.me.greg 5).val.toNat % 128 = 0) (a7 : (s.me.greg 7).val.toNat % 128 = 0)
    (n7 : (s.me.greg 7).val.toNat ≠ 0) (hp : okOf (pinOf s).2 = some pages)
    (hP : P (pinOf s).1 pages) : PinCase P := by
  simp only [Bool.and_eq_true, Bool.not_eq_true', decide_eq_true_eq] at h
  exact ⟨s, 9, ⟨5, false⟩, ⟨7, false⟩, _, pages, h.1.1.1.1, ⟨⟨h.1.1.1.2, h.1.1.2⟩, h.1.2, h.2⟩, h9, h5, h7, a5, a7, n7,
    ok_of (pinOf s) pages hp, hP⟩

/-- Whether no retention register meets a range. -/
def apart (u : State) (base len : Nat) : Bool :=
  u.retain.toList.all fun o => match o with | none => true | some r => !(decide (base < r.base + r.len) && decide (r.base < base + len))

theorem apart_of (u : State) (base len : Nat) (h : apart u base len = true) :
    ∀ i r, retained u i = some r → ¬ (base < r.base + r.len ∧ r.base < base + len) := by
  intro i r hr
  have hm : some r ∈ u.retain.toList := by
    rw [retained] at hr
    by_cases hi : i < u.retain.toList.length
    · have : u.retain.toList.getD i none = u.retain.toList[i] := List.getD_eq_getElem _ _ hi
      rw [this] at hr; exact hr ▸ List.getElem_mem hi
    · rw [List.getD_eq_default _ _ (by omega)] at hr; cases hr
  have := List.all_eq_true.1 h _ hm
  simp at this
  omega

/-- g5 holds the address and g7 the length of a range; `mem` adds to the page tables, `ret` to the retention registers. -/
def pinner (va : Word) (mem : List Host.Cell) (ret : Vector (Option Retention) 16) : State :=
  { mapped (filled [(5, va), (7, 256), (8, 15)]) with mem := mem, retain := ret }

def oneLeaf : List Host.Cell := [(0x10000, 1), (0x10002, 2), (0x20000, 1), (0x20002, 3), (0x30000, 0x1F)]
def hostLeaf : List Host.Cell := [(0x10000, 1), (0x10002, 2), (0x20000, 1), (0x20002, 3), (0x30000, 0x1F), (0x30001, 2)]
def twoLeaves : List Host.Cell :=
  [(0x10000, 1), (0x10002, 2), (0x20000, 1), (0x20002, 3), (0x30000, 1), (0x30002, 4), (0x40000, 0x1F), (0x40002, 5), (0x40008, 0x1F), (0x4000A, 5)]
def kept (base : Nat) (ways : List Nat) : Retention := { ctx := 0, vbase := 0, base := base, len := 128, ways := ways }

/-- A message of a task that waits for its activation. -/
def anyMsg : RxMsg := { kind := 2, sender := 0, ctx := 0, ta := 4 }

/-- A page of the host's memory, pages apart, a range that is retained, no register free, too few ways, and just enough; an index in
use and one that is not; a queue with room for just one message, and one without. -/
theorem test_witness_L2FencesMessages :
    (PinCase fun _ pages => ∃ p ∈ pages, p.2 ≠ 0) ∧
    (PinCase fun _ pages => (∀ p ∈ pages, p.2 = 0) ∧ contiguous pages = false) ∧
    (PinCase fun u pages => (∀ p ∈ pages, p.2 = 0) ∧ contiguous pages = true ∧ ∃ i r, retained u i = some r ∧
      (pages.map Prod.fst).headD 0 < r.base + r.len ∧ r.base < (pages.map Prod.fst).headD 0 + 256) ∧
    (PinCase fun u pages => (∀ p ∈ pages, p.2 = 0) ∧ contiguous pages = true ∧ (∀ i r, retained u i = some r →
      ¬ ((pages.map Prod.fst).headD 0 < r.base + r.len ∧ r.base < (pages.map Prod.fst).headD 0 + 256)) ∧ ∀ i, i < 16 → retained u i ≠ none) ∧
    (PinCase fun u pages => (∀ p ∈ pages, p.2 = 0) ∧ contiguous pages = true ∧ (∀ i r, retained u i = some r →
      ¬ ((pages.map Prod.fst).headD 0 < r.base + r.len ∧ r.base < (pages.map Prod.fst).headD 0 + 256)) ∧
      ∃ i, i < 16 ∧ retained u i = none ∧ (∀ j, j < i → retained u j ≠ none) ∧ u.reservedWays.length + (10 : BitVec 4).toNat = 13) ∧
    (PinCase fun u pages => (∀ p ∈ pages, p.2 = 0) ∧ contiguous pages = true ∧ (∀ i r, retained u i = some r →
      ¬ ((pages.map Prod.fst).headD 0 < r.base + r.len ∧ r.base < (pages.map Prod.fst).headD 0 + 256)) ∧
      ∃ i, i < 16 ∧ retained u i = none ∧ (∀ j, j < i → retained u j ≠ none) ∧ u.reservedWays.length + (9 : BitVec 4).toNat = 12) ∧
    (∃ (s : State) (d : Reg) (a : Src) (r : Retention), Solo s ∧ Settled s ∧ Free s d ∧ Full s a.reg ∧ (s.me.greg a.reg).val.toNat = 15 ∧
      retained s (s.me.greg a.reg).val.toNat = some r ∧ r.ctx = s.me.ctx ∧ r.hits < 2 ^ 32 ∧ r.miss < 2 ^ 32) ∧
    (∃ (s : State) (d : Reg) (a : Src), Solo s ∧ Settled s ∧ Free s d ∧ Full s a.reg ∧ taHnd s.cur = false ∧
      (s.me.greg a.reg).val.toNat = 256 ∧ retained s (s.me.greg a.reg).val.toNat = none) ∧
    (∃ (s : State), Solo s ∧ Quiet s ∧ s.dataOut s.me.uid = false ∧ s.me.stq = 0 ∧ s.mailOut s.cur = false ∧ s.me.copn = 0) ∧
    (∃ (s : State), Solo s ∧ Quiet s ∧ s.dataOut s.me.uid = false ∧ s.me.stq ≠ 0) ∧
    (∃ (s : State), Solo s ∧ Quiet s ∧ s.dataOut s.me.uid = true) ∧
    (∃ (s : State), Solo s ∧ Quiet s ∧ s.me.copn ≠ 0) ∧
    (∃ (s : State) (a : Src) (m : RxMsg), Clear s ∧ taHnd s.cur = false ∧ FullAll s [a, a, a, a] ∧ Named s (s.me.greg a.reg).val ∧
      (s.me.greg a.reg).val.getLsbD 2 = true ∧ s.agenda = [] ∧ s.me.sent = false ∧ s.me.sending = false ∧
      (s.core ((s.me.greg a.reg).val.toNat / 8)).held = [] ∧ m.more.length = 4 ∧ (s.core ((s.me.greg a.reg).val.toNat / 8)).rxFits m = true) ∧
    ∃ (s : State) (a : Src) (m : RxMsg), Clear s ∧ taHnd s.cur = false ∧ FullAll s [a, a, a, a] ∧ Named s (s.me.greg a.reg).val ∧
      (s.me.greg a.reg).val.getLsbD 2 = true ∧ s.agenda = [] ∧ s.me.sent = false ∧ s.me.sending = false ∧
      (s.core ((s.me.greg a.reg).val.toNat / 8)).held = [] ∧ m.more.length = 4 ∧ (s.core ((s.me.greg a.reg).val.toNat / 8)).rxFits m = false := by
  have free : ∀ s : State, (!(s.me.greg 9).pend) = true → Free s 9 := fun s h => free_of s 9 h
  refine ⟨pinCase_of (pinner 0x1000 hostLeaf (Vector.replicate 16 none)) [(0x1000, 2)] _ rfl rfl rfl rfl (by decide +kernel) (by decide +kernel)
      (by decide +kernel) (by decide +kernel) (by decide),
    pinCase_of (pinner 0xFF80 twoLeaves (Vector.replicate 16 none)) [(0x5FF80, 0), (0x50000, 0)] _ rfl rfl rfl rfl (by decide +kernel)
      (by decide +kernel) (by decide +kernel) (by decide +kernel) ⟨by decide, by decide⟩,
    pinCase_of (pinner 0x1000 oneLeaf (Vector.replicate 16 (some (kept 0x1080 [0])))) [(0x1000, 0)] _ rfl rfl rfl rfl (by decide +kernel)
      (by decide +kernel) (by decide +kernel) (by decide +kernel) ⟨by decide, by decide, 0, kept 0x1080 [0], by decide +kernel, by decide, by decide⟩,
    pinCase_of (pinner 0x1000 oneLeaf (Vector.replicate 16 (some (kept 0x1100 [])))) [(0x1000, 0)] _ rfl rfl rfl rfl (by decide +kernel)
      (by decide +kernel) (by decide +kernel) (by decide +kernel) ⟨by decide, by decide, apart_of _ _ _ (by decide +kernel), by decide +kernel⟩,
    pinCase_of (pinner 0x1000 oneLeaf ((Vector.replicate 16 none).set 0 (some (kept 0xF80 [0, 1, 2])))) [(0x1000, 0)] _ rfl rfl rfl rfl
      (by decide +kernel) (by decide +kernel) (by decide +kernel) (by decide +kernel) ⟨by decide, by decide, apart_of _ _ _ (by decide +kernel),
      1, by decide, by decide +kernel, by decide +kernel, by decide +kernel⟩,
    pinCase_of (pinner 0x1000 oneLeaf ((Vector.replicate 16 none).set 0 (some (kept 0xF80 [0, 1, 2])))) [(0x1000, 0)] _ rfl rfl rfl rfl
      (by decide +kernel) (by decide +kernel) (by decide +kernel) (by decide +kernel) ⟨by decide, by decide, apart_of _ _ _ (by decide +kernel),
      1, by decide, by decide +kernel, by decide +kernel, by decide +kernel⟩,
    ⟨pinner 0x1000 oneLeaf (Vector.replicate 16 (some (kept 0 []))), 9, ⟨8, false⟩, kept 0 [], rfl, ⟨⟨rfl, rfl⟩, rfl, rfl⟩, rfl, rfl, by decide +kernel,
      by decide +kernel, rfl, by decide, by decide⟩,
    ⟨pinner 0x1000 oneLeaf (Vector.replicate 16 (some (kept 0 []))), 9, ⟨7, false⟩, rfl, ⟨⟨rfl, rfl⟩, rfl, rfl⟩, rfl, rfl, rfl, by decide +kernel,
      by decide +kernel⟩,
    ⟨run id, rfl, ⟨rfl, rfl⟩, rfl, rfl, rfl, rfl⟩, ⟨run fun sl => { sl with stq := 1 }, rfl, ⟨rfl, rfl⟩, rfl, by decide⟩,
    ⟨{ run id with agenda := [.loadDataArrival ⟨0, 1⟩ 5 0 false] }, rfl, ⟨rfl, rfl⟩, rfl⟩,
    ⟨run fun sl => { sl with copn := 1 }, rfl, ⟨rfl, rfl⟩, by decide⟩,
    ⟨{ regs [(5, 12)] with cores := [(1, { rxq := List.replicate 62 anyMsg })] }, ⟨5, false⟩, { anyMsg with more := [0, 0, 0, 0] }, clear_of _ (by decide +kernel), rfl, fullAll_of _ _ rfl,
      ⟨rfl, by decide +kernel, by decide +kernel⟩, rfl, rfl, rfl, rfl, rfl, rfl, by decide +kernel⟩,
    ⟨{ regs [(5, 12)] with cores := [(1, { rxq := List.replicate 63 anyMsg })] }, ⟨5, false⟩, { anyMsg with more := [0, 0, 0, 0] }, clear_of _ (by decide +kernel), rfl, fullAll_of _ _ rfl,
      ⟨rfl, by decide +kernel, by decide +kernel⟩, rfl, rfl, rfl, rfl, rfl, rfl, by decide +kernel⟩⟩

/-- An operation of the task in slot 0, as it stands in its engine's queue. -/
def opOf (id : W32) (st : Nat) (coll : Option CollInfo) : EngOp :=
  { id := id, req := ⟨0, 1⟩, ctx := 0, graph := 0, unit := 0, taskid := 0, shadow := List.replicate 7 0, sink := 0, tag := 0, cdep := 0, trap := false,
    ack := none, st := st, coll := coll }

def someColl : CollInfo :=
  { fn := 0, grp := 0, op := 0, member := 0, root := 0, count := 1, sty := 6, dty := 6, point := 0, dst := 0, data := [], dpois := [], since := 0 }

/-- The task with operation 1 of engine 0, whose id is in g5, and 2 in g6. -/
def copier (ops : List EngOp) (sh : Word) : State :=
  { run fun sl => { filled [(5, 1), (6, 2)] sl with shadow := sl.shadow.set 2 sh } with engines := [(0, { seq := 2, ops := ops })] }

/-- The operation that CPGO launches there. -/
def launchOf (sh : Word) (id : W32) : EngOp := { opOf id 1 none with shadow := [0, 0, sh, 0, 0, 0, 0] }

theorem launched_of (ops : List EngOp) (sh : Word) (id : W32) : Launched (copier ops sh) (launchOf sh id) id :=
  ⟨rfl, ⟨rfl, rfl, rfl, rfl, rfl⟩, rfl, fun ctl cdep h1 h2 => by
    obtain rfl : (0 : Word) = ctl := Option.some.inj h1
    obtain rfl : (0 : Word) = cdep := Option.some.inj h2
    exact ⟨rfl, rfl, rfl, rfl, rfl⟩, ⟨rfl, rfl, rfl, rfl⟩, rfl, rfl⟩

/-- Both kinds of shadow index; a queue of 63 and of 64; a malformed copy and one of a byte; operations at each state, and none; tags
0 and 63, and masks that are empty, unset, set in part and set. -/
theorem test_witness_CopiesAndTags :
    (∃ (s : State) (i : BitVec 3) (a : Src), Solo s ∧ Full s a.reg ∧ i.toNat = 6) ∧
    (∃ (s : State) (i : BitVec 3) (a : Src), Solo s ∧ Full s a.reg ∧ i = 7 ∧ taHnd s.cur = false) ∧
    (∃ (s : State) (d : Reg) (id : W32) (o : EngOp), Clear s ∧ Free s d ∧ id = BitVec.ofNat 32 (copyEngine s.cur * 2 ^ 24 + (s.eng (copyEngine s.cur)).seq) ∧
      (((s.eng (copyEngine s.cur)).ops.filter fun o => o.st == 1).length = 63) ∧ Launched s o id ∧ o.malformed (barsOf s) = true) ∧
    (∃ (s : State) (d : Reg) (id : W32) (o : EngOp), Clear s ∧ Free s d ∧ id = BitVec.ofNat 32 (copyEngine s.cur * 2 ^ 24 + (s.eng (copyEngine s.cur)).seq) ∧
      ((s.eng (copyEngine s.cur)).ops.filter fun o => o.st == 1).length < 64 ∧ Launched s o id ∧ o.malformed (barsOf s) = false) ∧
    (∃ (s : State) (d : Reg), Clear s ∧ Free s d ∧ 64 ≤ ((s.eng (copyEngine s.cur)).ops.filter fun o => o.st == 1).length) ∧
    (∃ (s : State) (d : Reg) (a : Src), Solo s ∧ Full s a.reg ∧ Free s d ∧ s.myOp (s.me.greg a.reg).val = none) ∧
    (∃ (s : State) (d : Reg) (a : Src) (o : EngOp), Solo s ∧ Full s a.reg ∧ Free s d ∧ s.myOp (s.me.greg a.reg).val = some o ∧ o.coll = none ∧
      o.st = 1 ∧ o.written < 2 ^ 32 ∧ o.st < 2 ^ 32) ∧
    (∃ (s : State) (d : Reg) (a : Src) (o : EngOp), Solo s ∧ Full s a.reg ∧ Free s d ∧ s.myOp (s.me.greg a.reg).val = some o ∧ o.coll = none ∧ o.st = 2) ∧
    (∃ (s : State) (d : Reg) (a : Src) (o : EngOp) (c : CollInfo), Solo s ∧ Full s a.reg ∧ Free s d ∧ s.myOp (s.me.greg a.reg).val = some o ∧
      o.coll = some c ∧ o.st = 1) ∧
    (∃ (s : State) (d : Reg) (a : Src) (o : EngOp) (c : CollInfo), Solo s ∧ Full s a.reg ∧ Free s d ∧ s.myOp (s.me.greg a.reg).val = some o ∧
      o.coll = some c ∧ o.st = 2) ∧
    (∃ (s : State) (a : Src) (m : Word) (d : Reg), Solo s ∧ Full s a.reg ∧ m = (s.me.greg a.reg).val ∧ Free s d ∧ m = 0 ∧ s.me.tagrdy &&& m = 0) ∧
    (∃ (s : State) (a : Src) (m : Word) (d : Reg), Solo s ∧ Full s a.reg ∧ m = (s.me.greg a.reg).val ∧ Free s d ∧ m.getLsbD 63 = true ∧
      s.me.tagrdy.getLsbD 63 = true ∧ (∀ u, u < 63 → m.getLsbD u = false ∨ s.me.tagrdy.getLsbD u = false)) ∧
    (∃ (s : State) (a : Src) (m : Word) (d : Reg), Solo s ∧ Full s a.reg ∧ m = (s.me.greg a.reg).val ∧ Free s d ∧ m ≠ 0 ∧ s.me.tagrdy &&& m = 0) ∧
    (∃ (s : State) (a : Src) (m : Word) (d : Reg), Solo s ∧ Full s a.reg ∧ m = (s.me.greg a.reg).val ∧ Free s d ∧ m.getLsbD 0 = true ∧
      s.me.tagrdy.getLsbD 0 = true ∧ s.me.tagrdy &&& m = m) ∧
    ∃ (s : State) (a : Src) (m : Word) (d : Reg), Solo s ∧ Full s a.reg ∧ m = (s.me.greg a.reg).val ∧ Free s d ∧ s.me.tagrdy &&& m ≠ m ∧
      s.me.tagrdy &&& m ≠ 0 :=
  ⟨⟨run id, 6, ⟨0, false⟩, rfl, rfl, rfl⟩, ⟨run id, 7, ⟨0, false⟩, rfl, rfl, rfl, rfl⟩,
   ⟨copier (List.replicate 63 (opOf 9 1 none)) 0, 9, 2, launchOf 0 2, clear_of _ rfl, rfl, by decide +kernel, by decide +kernel, launched_of _ _ _,
    by decide +kernel⟩,
   ⟨copier [] 0x000100010001, 9, 2, launchOf 0x000100010001 2, clear_of _ rfl, rfl, by decide +kernel, by decide +kernel, launched_of _ _ _,
    by decide +kernel⟩,
   ⟨copier (List.replicate 64 (opOf 9 1 none)) 0, 9, clear_of _ rfl, rfl, by decide +kernel⟩,
   ⟨copier [opOf 1 1 none] 0, 9, ⟨6, false⟩, rfl, rfl, rfl, by decide +kernel⟩,
   ⟨copier [opOf 1 1 none] 0, 9, ⟨5, false⟩, opOf 1 1 none, rfl, rfl, rfl, by decide +kernel, rfl, rfl, by decide, by decide⟩,
   ⟨copier [opOf 1 2 none] 0, 9, ⟨5, false⟩, opOf 1 2 none, rfl, rfl, rfl, by decide +kernel, rfl, rfl⟩,
   ⟨copier [opOf 1 1 (some someColl)] 0, 9, ⟨5, false⟩, opOf 1 1 (some someColl), someColl, rfl, rfl, rfl, by decide +kernel, rfl, rfl⟩,
   ⟨copier [opOf 1 2 (some someColl)] 0, 9, ⟨5, false⟩, opOf 1 2 (some someColl), someColl, rfl, rfl, rfl, by decide +kernel, rfl, rfl⟩,
   ⟨run id, ⟨0, false⟩, _, 9, rfl, rfl, rfl, rfl, rfl, by decide +kernel⟩,
   ⟨run fun sl => { filled [(5, 0x8000000000000001)] sl with tagrdy := 0x8000000000000000 }, ⟨5, false⟩, _, 9, rfl, rfl, rfl, rfl, by decide +kernel,
    by decide +kernel, by decide +kernel⟩,
   ⟨run fun sl => { filled [(5, 1)] sl with tagrdy := 2 }, ⟨5, false⟩, _, 9, rfl, rfl, rfl, rfl, by decide +kernel, by decide +kernel⟩,
   ⟨run fun sl => { filled [(5, 1)] sl with tagrdy := 3 }, ⟨5, false⟩, _, 9, rfl, rfl, rfl, rfl, by decide +kernel, by decide +kernel, by decide +kernel⟩,
   ⟨run fun sl => { filled [(5, 3)] sl with tagrdy := 1 }, ⟨5, false⟩, _, 9, rfl, rfl, rfl, rfl, by decide +kernel, by decide +kernel⟩⟩

/-- A context with a table of collective groups at 0x8000 and two strand entries. -/
def grouped : Ctx := { desc := [0, 0, 1] ++ List.replicate 0x3D 0 ++ [2] ++ List.replicate 0x1F 0 ++ [0, 0x80], descPA := 0 }

/-- Group 0 of it: a member on this device's die 0 and one on its die 1. -/
def groupMem : List Host.Cell := [(0x8000, 2), (0x8009, 0x90), (0x9004, 1)]

/-- A descriptor of one 64-bit integer (R243). -/
def collBytes (src my count : Nat) : List Byte :=
  toBytes 8 src ++ toBytes 8 0 ++ toBytes 4 count ++ toBytes 2 my ++ toBytes 2 0 ++ [6, 6, 0, 0]

/-- The task with the descriptor at the bottom of its share, by address in g5. -/
def collector (bs : List Byte) (engs : Store EngSt) : State :=
  { recAt bs id with ctxs := [(0, some grouped)], mem := groupMem ++ Memory.write [] (qlmKey 0 0) bs, engines := engs }

/-- A COLL function: the descriptor as a state u reads it, and what the statement names. -/
def CollCase (P : State → List Byte → Nat → List (Nat × Nat) → Prop) : Prop :=
  ∃ (s : State) (d : Reg) (a : Src) (u : State) (bs : List Byte) (my e : Nat) (id : W32) (l : Option (List (Nat × Nat))), Clear s ∧
    Full s a.reg ∧ Free s d ∧ (s.me.greg a.reg).val.toNat % 64 = 0 ∧ s.readRecord (s.me.greg a.reg).val 64 = .ok u bs ∧ my = recField bs 0x14 2 ∧
    e = 128 + taDie u.cur * 4 + my / 1024 % 4 ∧ id = BitVec.ofNat 32 (2 ^ 31 + (e - 128) * 2 ^ 24 + (u.eng e).seq) ∧
    l = u.groupOf u.myCtx (my / 1024) ∧ P u bs my (l.getD [])

theorem collCase_of (s : State) (P : State → List Byte → Nat → List (Nat × Nat) → Prop) (h : Clear s) (h5 : Full s 5) (h9 : Free s 9)
    (hn : (s.me.greg 5).val.toNat % 64 = 0)
    (hr : (match s.readRecord (s.me.greg 5).val 64 with | .ok _ _ => true | _ => false) = true)
    (hP : ∀ u bs, (u, bs) = readOf s (s.me.greg 5).val 64 →
      P u bs (recField bs 0x14 2) ((u.groupOf u.myCtx (recField bs 0x14 2 / 1024)).getD [])) : CollCase P := by
  cases he : s.readRecord (s.me.greg 5).val 64 with
  | ok u bs => exact ⟨s, 9, ⟨5, false⟩, u, bs, _, _, _, _, h, h5, h9, hn, he, rfl, rfl, rfl, rfl, hP u bs (by rw [readOf, he])⟩
  | wait x => rw [he] at hr; cases hr
  | trap x c v => rw [he] at hr; cases hr

/-- The operation that reads its source. -/
def reading : EngOp := opOf 0x80000001 1 none

/-- A bad descriptor, a member with 16 operations under way, one of another die, and a source that is readable and one that is not. -/
theorem test_witness_Collectives :
    (CollCase fun _ bs _ l => badColl 0 bs (some l) = true) ∧
    (CollCase fun u bs my l => badColl 0 bs (some l) = false ∧ 16 ≤ u.collOut u.me.ctx (my / 1024) (my % 1024)) ∧
    (CollCase fun u bs my l => badColl 0 bs (some l) = false ∧ u.collOut u.me.ctx (my / 1024) (my % 1024) < 16 ∧ ¬ hereIn u l (my % 1024)) ∧
    (CollCase fun u bs my l => badColl 0 bs (some l) = false ∧ u.collOut u.me.ctx (my / 1024) (my % 1024) = 15 ∧ hereIn u l (my % 1024) ∧
      ∃ y c, u.collRead reading (collOf 0 bs u.time (Store.get 0 u.myCtx.collSeq my)) (BitVec.ofNat 64 (recField bs 0 8)) = (y, .ok c)) ∧
    (CollCase fun u bs my l => badColl 0 bs (some l) = false ∧ u.collOut u.me.ctx (my / 1024) (my % 1024) < 16 ∧ hereIn u l (my % 1024) ∧
      ∃ y st fva, u.collRead reading (collOf 0 bs u.time (Store.get 0 u.myCtx.collSeq my)) (BitVec.ofNat 64 (recField bs 0 8)) = (y, .error (st, fva))) := by
  have n : ∀ s : State, (∀ m l, (match (l : List (Nat × Nat))[m]? with
      | some p => decide ((p.1 = 0 ∨ p.1 = s.host.devNo) ∧ p.2 = taDie s.cur) | none => false) = true → hereIn s l m) := by
    intro s m l h
    cases hp : l[m]? with
    | none => rw [hp] at h; cases h
    | some p => rw [hp] at h; exact ⟨p, hp, (of_decide_eq_true h).1, (of_decide_eq_true h).2⟩
  have rd : ∀ (u : State) (o : EngOp) (c : CollInfo) (v : Word), (match (u.collRead o c v).2 with | .ok _ => true | _ => false) = true →
      ∃ y k, u.collRead o c v = (y, .ok k) := by
    intro u o c v h
    rcases hc : u.collRead o c v with ⟨y, r⟩
    rw [hc] at h
    cases r with | ok k => exact ⟨y, k, rfl⟩ | error e => cases h
  have er : ∀ (u : State) (o : EngOp) (c : CollInfo) (v : Word), (match (u.collRead o c v).2 with | .error _ => true | _ => false) = true →
      ∃ y st fva, u.collRead o c v = (y, .error (st, fva)) := by
    intro u o c v h
    rcases hc : u.collRead o c v with ⟨y, r⟩
    rw [hc] at h
    cases r with | ok k => cases h | error e => exact ⟨y, e.1, e.2, rfl⟩
  refine ⟨collCase_of (collector (collBytes 0x00FF000000000100 0 0) []) _ (clear_of _ (by decide +kernel)) (full_of _ _ (by decide +kernel))
      (free_of _ _ (by decide +kernel)) (by decide +kernel) (by decide +kernel) ?_,
    collCase_of (collector (collBytes 0x00FF000000000100 0 1) [(128, { ops := List.replicate 16 (opOf 0x80000009 1 (some someColl)) })]) _
      (clear_of _ (by decide +kernel)) (full_of _ _ (by decide +kernel)) (free_of _ _ (by decide +kernel)) (by decide +kernel) (by decide +kernel) ?_,
    collCase_of (collector (collBytes 0x00FF000000000100 1 1) []) _ (clear_of _ (by decide +kernel)) (full_of _ _ (by decide +kernel))
      (free_of _ _ (by decide +kernel)) (by decide +kernel) (by decide +kernel) ?_,
    collCase_of (collector (collBytes 0x00FF000000000100 0 1) [(128, { ops := List.replicate 15 (opOf 0x80000009 1 (some someColl)) })]) _
      (clear_of _ (by decide +kernel)) (full_of _ _ (by decide +kernel)) (free_of _ _ (by decide +kernel)) (by decide +kernel) (by decide +kernel) ?_,
    collCase_of (collector (collBytes 0x00FF0000000FFFF8 0 1) []) _ (clear_of _ (by decide +kernel)) (full_of _ _ (by decide +kernel))
      (free_of _ _ (by decide +kernel)) (by decide +kernel) (by decide +kernel) ?_⟩
  · intro u bs h; obtain ⟨rfl, rfl⟩ := Prod.ext_iff.1 h; decide +kernel
  · intro u bs h; obtain ⟨rfl, rfl⟩ := Prod.ext_iff.1 h; exact ⟨by decide +kernel, by decide +kernel⟩
  · intro u bs h; obtain ⟨rfl, rfl⟩ := Prod.ext_iff.1 h
    refine ⟨by decide +kernel, by decide +kernel, ?_⟩
    rintro ⟨p, hp, h1, h2⟩
    have : (some p : Option (Nat × Nat)) = some (0, 1) := hp.symm.trans (by decide +kernel)
    cases Option.some.inj this
    exact absurd h2 (by decide +kernel)
  · intro u bs h; obtain ⟨rfl, rfl⟩ := Prod.ext_iff.1 h
    exact ⟨by decide +kernel, by decide +kernel, n _ _ _ (by decide +kernel), rd _ _ _ _ (by decide +kernel)⟩
  · intro u bs h; obtain ⟨rfl, rfl⟩ := Prod.ext_iff.1 h
    exact ⟨by decide +kernel, by decide +kernel, n _ _ _ (by decide +kernel), er _ _ _ _ (by decide +kernel)⟩

/-- Strand n of the task's context, of items of 8 bytes and depth 2, in its share. -/
def strandOf (n credits : Nat) (src snk : StrandEnd) (f : Strand → Strand) : Strand :=
  f { ctx := 0, idx := n, reuse := 1, s := 0, l := 1, src := src, snk := snk, ringQuad := 0, ringOff := 0x100, credits := credits }

/-- The task with two strands: g5 and g6 hold the source and the sink handle of strand 0, g7 the sink handle of strand 1, and g8
the address of a ring. -/
def stranded (x : Strand) (ys : Store (Option Strand)) (f : Slot → Slot) : State :=
  { mapped (fun sl => f (filled [(5, 0x20000), (6, 0x30000), (7, 0x30001), (8, 0x00FF000000000100)] sl)) with
      ctxs := [(0, some grouped)], strands := (0, some x) :: ys }

def other : Store (Option Strand) := [(1, some (strandOf 1 2 {} {} id))]

theorem endAt_of (s : State) (h : Word) (x : Strand) (sink : Bool) (hk : h.getLsbD 16 = sink)
    (hh : (s.handleOk h && s.handleHome h) = true) (he : s.strand? (strandKey s.me.ctx (h.toNat % 2 ^ 16)) = some x)
    (hr : x.reuse = h.toNat / 2 ^ 17 % 2 ^ 15) (hb : (x.side sink).st = 0 ∧ (x.side sink).dev = 0 ∧ (x.side sink).quad = taQuad s.cur) :
    EndAt s h x sink := ⟨hk, by simpa using hh, ⟨he, hr⟩, hb⟩

/-- A strand and its handle, and what holds of them. -/
def EndCase (sink : Bool) (P : State → Strand → Prop) : Prop :=
  ∃ (s : State) (d : Reg) (a : Src) (h : Word) (x : Strand), Solo s ∧ Full s a.reg ∧ Free s d ∧ Free s (d + 1) ∧ h = (s.me.greg a.reg).val ∧
    EndAt s h x sink ∧ P s x

theorem srcCase (x : Strand) (ys : Store (Option Strand)) (f : Slot → Slot) (P : State → Strand → Prop)
    (h : ((stranded x ys f).handleOk 0x20000 && (stranded x ys f).handleHome 0x20000) = true)
    (he : (stranded x ys f).strand? (strandKey (stranded x ys f).me.ctx 0) = some x) (hr : x.reuse = 1) (hb : x.src.st = 0 ∧ x.src.dev = 0 ∧ x.src.quad = 0)
    (hs : Solo (stranded x ys f)) (h5 : Full (stranded x ys f) 5) (h9 : Free (stranded x ys f) 9) (h10 : Free (stranded x ys f) 10)
    (hv : ((stranded x ys f).me.greg 5).val = 0x20000) (hP : P (stranded x ys f) x) : EndCase false P :=
  ⟨stranded x ys f, 9, ⟨5, false⟩, 0x20000, x, hs, h5, h9, h10, hv.symm, endAt_of _ _ _ _ (by decide) h he hr ⟨hb.1, hb.2.1, hb.2.2.trans (by simp [taQuad, stranded, mapped])⟩, hP⟩

theorem snkCase (x : Strand) (ys : Store (Option Strand)) (f : Slot → Slot) (P : State → Strand → Prop)
    (h : ((stranded x ys f).handleOk 0x30000 && (stranded x ys f).handleHome 0x30000) = true)
    (he : (stranded x ys f).strand? (strandKey (stranded x ys f).me.ctx 0) = some x) (hr : x.reuse = 1) (hb : x.snk.st = 0 ∧ x.snk.dev = 0 ∧ x.snk.quad = 0)
    (hs : Solo (stranded x ys f)) (h6 : Full (stranded x ys f) 6) (h9 : Free (stranded x ys f) 9) (h10 : Free (stranded x ys f) 10)
    (hv : ((stranded x ys f).me.greg 6).val = 0x30000) (hP : P (stranded x ys f) x) : EndCase true P :=
  ⟨stranded x ys f, 9, ⟨6, false⟩, 0x30000, x, hs, h6, h9, h10, hv.symm, endAt_of _ _ _ _ (by decide) h he hr ⟨hb.1, hb.2.1, hb.2.2.trans (by simp [taQuad, stranded, mapped])⟩, hP⟩

/-- Every case of the strand instructions: opening with and without a free entry; a source whose peer is gone, without and with credits, and
an end to pass; a sink with and without items, drained, and with a claim; an end in transit; a live and a gone peer; delivered and not. -/
theorem test_witness_StrandInstructions :
    (∃ (s : State) (d : Reg) (a : Src) (off : Nat), Solo s ∧ Full s a.reg ∧ Free s d ∧ Free s (d + 1) ∧ taHnd s.cur = false ∧
      RingAt s (s.me.greg a.reg).val (8 * 2 ^ 0) (2 ^ 1) off ∧ s.freeEntry s.me.ctx s.myCtx.strn = none) ∧
    (∃ (s : State) (d : Reg) (a : Src) (off j : Nat), Solo s ∧ Full s a.reg ∧ Free s d ∧ Free s (d + 1) ∧ taHnd s.cur = false ∧
      RingAt s (s.me.greg a.reg).val (8 * 2 ^ 5) (2 ^ 1) off ∧ s.freeEntry s.me.ctx s.myCtx.strn = some j) ∧
    (EndCase false fun s x => Clear s ∧ x.s = 0 ∧ x.src.peer ≠ 0) ∧
    (EndCase false fun s x => Clear s ∧ x.s = 0 ∧ x.src.peer = 0 ∧ x.credits = 0) ∧
    (EndCase false fun s x => Clear s ∧ x.s = 0 ∧ x.src.peer = 0 ∧ x.credits = 1 ∧ x.snk.dev = 0 ∧ Full s 8 ∧ s.me.vpois.getLsbD 31 = false) ∧
    (EndCase false fun s x => Clear s ∧ taHnd s.cur = false ∧ x.src.peer = 0 ∧ x.credits = 1 ∧ x.snk.dev = 0 ∧ Full s 7 ∧
      ∃ y, EndAt s (s.me.greg 7).val y true ∧ x.key ≠ y.key ∧ y.claims = []) ∧
    (EndCase true fun s x => x.s = 0 ∧ s.me.sent = true) ∧
    (EndCase true fun s x => x.s = 0 ∧ s.me.sent = false ∧ s.me.sending = true) ∧
    (EndCase true fun s x => x.s = 0 ∧ s.me.sent = false ∧ s.me.sending = false ∧ x.claims = [] ∧ x.ntake < x.ndeliv) ∧
    (EndCase true fun _ x => x.s = 0 ∧ x.claims = [] ∧ x.ndeliv ≤ x.ntake ∧ x.nsend ≤ x.ntake ∧ x.snk.peer = 1) ∧
    (EndCase true fun _ x => x.s = 0 ∧ x.claims = [] ∧ x.ndeliv ≤ x.ntake ∧ x.nsend ≤ x.ntake ∧ x.snk.peer = 2) ∧
    (EndCase true fun _ x => x.s = 0 ∧ x.claims ≠ []) ∧
    (EndCase true fun _ x => x.s = 0 ∧ x.ndeliv ≤ x.ntake ∧ x.snk.peer = 0) ∧
    (∃ (s : State) (d : Reg) (a b : Src) (h : Word) (x : Strand) (off : Nat), Solo s ∧ Full s a.reg ∧ Free s d ∧ h = (s.me.greg a.reg).val ∧
      taHnd s.cur = false ∧ Full s b.reg ∧ h.getLsbD 16 = true ∧ s.handleOk h = true ∧ s.handleHome h = true ∧ s.strandOf s.me.ctx h = some x ∧
      (x.side true).st = 1 ∧ (x.side true).holder = s.me.uid ∧ RingAt s (s.me.greg b.reg).val (8 * 2 ^ x.s) (2 ^ x.l) off ∧
      ∃ m l, x.moves = m :: l ∧ m.sink = true ∧ m.accepted = false) ∧
    (∃ (s : State) (d : Reg) (a b : Src) (h : Word) (x : Strand), Solo s ∧ Full s a.reg ∧ Free s d ∧ h = (s.me.greg a.reg).val ∧
      taHnd s.cur = false ∧ Full s b.reg ∧ h.getLsbD 16 = false ∧ s.handleOk h = true ∧ s.handleHome h = true ∧ s.strandOf s.me.ctx h = some x ∧
      (x.side false).st = 1 ∧ (x.side false).holder = s.me.uid ∧ x.moves = []) ∧
    (EndCase false fun s x => taHnd s.cur = false ∧ (x.side false).peer = 0 ∧ x.snk.dev = 0 ∧ x.nsend ≤ x.ndeliv) ∧
    (EndCase false fun s x => taHnd s.cur = false ∧ (x.side false).peer ≠ 0 ∧ x.snk.dev = 0 ∧ x.ndeliv < x.nsend) ∧
    (∃ (s : State) (d : Reg) (a : Src) (h : Word), Solo s ∧ Full s a.reg ∧ Free s d ∧ h = (s.me.greg a.reg).val ∧
      s.handleOk h = true ∧ s.handleHome h = true ∧ s.strandOf s.me.ctx h = none) ∧
    ∃ (s : State) (d : Reg) (a : Src) (h : Word) (x : Strand), Solo s ∧ Full s a.reg ∧ Free s d ∧ h = (s.me.greg a.reg).val ∧
      s.handleOk h = true ∧ s.handleHome h = true ∧ s.strandOf s.me.ctx h = some x := by
  refine ⟨⟨stranded (strandOf 0 1 {} {} id) other id, 9, ⟨8, false⟩, 0x100, rfl, rfl, rfl, rfl, rfl, ⟨by decide +kernel, by decide +kernel, by decide +kernel, _,
      (by decide +kernel : _ = some (some (qlmKey 0 0x100)))⟩, by decide +kernel⟩,
    ⟨stranded (strandOf 0 1 {} {} id) [] id, 9, ⟨8, false⟩, 0x100, 1, rfl, rfl, rfl, rfl, rfl, ⟨by decide +kernel, by decide +kernel, by decide +kernel, _,
      (by decide +kernel : _ = some (some (qlmKey 0 0x100)))⟩, by decide +kernel⟩,
    srcCase (strandOf 0 1 { peer := 1 } {} id) [] id _ (by decide +kernel) (by decide +kernel) rfl ⟨rfl, rfl, rfl⟩ rfl rfl rfl rfl rfl
      ⟨clear_of _ rfl, rfl, by decide⟩,
    srcCase (strandOf 0 0 {} {} id) [] id _ (by decide +kernel) (by decide +kernel) rfl ⟨rfl, rfl, rfl⟩ rfl rfl rfl rfl rfl
      ⟨clear_of _ rfl, rfl, rfl, rfl⟩,
    srcCase (strandOf 0 1 {} {} id) [] id _ (by decide +kernel) (by decide +kernel) rfl ⟨rfl, rfl, rfl⟩ rfl rfl rfl rfl rfl
      ⟨clear_of _ rfl, rfl, rfl, rfl, rfl, rfl, rfl⟩,
    srcCase (strandOf 0 1 {} {} id) other id _ (by decide +kernel) (by decide +kernel) rfl ⟨rfl, rfl, rfl⟩ rfl rfl rfl rfl rfl
      ⟨clear_of _ rfl, rfl, rfl, rfl, rfl, rfl, strandOf 1 2 {} {} id, endAt_of _ _ _ _ (by decide +kernel) (by decide +kernel) (by decide +kernel)
        (by decide +kernel) ⟨rfl, rfl, rfl⟩, by decide, rfl⟩,
    snkCase (strandOf 0 1 {} {} id) [] (fun sl => { sl with sent := true }) _ (by decide +kernel) (by decide +kernel) rfl ⟨rfl, rfl, rfl⟩ rfl rfl rfl rfl rfl
      ⟨rfl, rfl⟩,
    snkCase (strandOf 0 1 {} {} id) [] (fun sl => { sl with sending := true }) _ (by decide +kernel) (by decide +kernel) rfl ⟨rfl, rfl, rfl⟩ rfl rfl rfl rfl rfl
      ⟨rfl, rfl, rfl⟩,
    snkCase (strandOf 0 1 {} {} fun x => { x with nsend := 1, ndeliv := 1 }) [] id _ (by decide +kernel) (by decide +kernel) rfl ⟨rfl, rfl, rfl⟩
      rfl rfl rfl rfl rfl ⟨rfl, rfl, rfl, rfl, by decide⟩,
    snkCase (strandOf 0 1 {} { peer := 1 } id) [] id _ (by decide +kernel) (by decide +kernel) rfl ⟨rfl, rfl, rfl⟩ rfl rfl rfl rfl rfl
      ⟨rfl, rfl, by decide, by decide, rfl⟩,
    snkCase (strandOf 0 1 {} { peer := 2 } id) [] id _ (by decide +kernel) (by decide +kernel) rfl ⟨rfl, rfl, rfl⟩ rfl rfl rfl rfl rfl
      ⟨rfl, rfl, by decide, by decide, rfl⟩,
    snkCase (strandOf 0 1 {} {} fun x => { x with claims := [⟨⟨0, 1⟩, 1, none, 0⟩] }) [] id _ (by decide +kernel) (by decide +kernel) rfl ⟨rfl, rfl, rfl⟩
      rfl rfl rfl rfl rfl ⟨rfl, by decide⟩,
    snkCase (strandOf 0 1 {} {} id) [] id _ (by decide +kernel) (by decide +kernel) rfl ⟨rfl, rfl, rfl⟩ rfl rfl rfl rfl rfl ⟨rfl, by decide, rfl⟩,
    ⟨stranded (strandOf 0 1 {} { st := 1, holder := 1 } fun x => { x with moves := [{ sink := true }] }) [] id, 9, ⟨6, false⟩, ⟨8, true⟩, _,
      strandOf 0 1 {} { st := 1, holder := 1 } fun x => { x with moves := [{ sink := true }] }, 0x100, rfl, rfl, rfl, rfl, rfl, rfl, by decide +kernel,
      by decide +kernel, by decide +kernel, by decide +kernel, rfl, rfl, ⟨by decide +kernel, by decide +kernel, by decide +kernel, _,
        (by decide +kernel : _ = some (some (qlmKey 0 0x100)))⟩, { sink := true }, [], rfl, rfl, rfl⟩,
    ⟨stranded (strandOf 0 1 { st := 1, holder := 1 } {} id) [] id, 9, ⟨5, false⟩, ⟨0, true⟩, _,
      strandOf 0 1 { st := 1, holder := 1 } {} id, rfl, rfl, rfl, rfl, rfl, rfl, by decide +kernel,
      by decide +kernel, by decide +kernel, by decide +kernel, rfl, rfl, rfl⟩,
    srcCase (strandOf 0 1 {} {} id) [] id _ (by decide +kernel) (by decide +kernel) rfl ⟨rfl, rfl, rfl⟩ rfl rfl rfl rfl rfl ⟨rfl, rfl, rfl, by decide⟩,
    srcCase (strandOf 0 1 { peer := 2 } {} fun x => { x with nsend := 1 }) [] id _ (by decide +kernel) (by decide +kernel) rfl ⟨rfl, rfl, rfl⟩
      rfl rfl rfl rfl rfl ⟨rfl, by decide, rfl, by decide⟩,
    ⟨stranded (strandOf 0 1 {} {} id) [] id, 9, ⟨7, false⟩, _, rfl, rfl, rfl, rfl, by decide +kernel, by decide +kernel, by decide +kernel⟩,
    ⟨stranded (strandOf 0 1 {} {} id) [] id, 9, ⟨6, false⟩, _, strandOf 0 1 {} {} id, rfl, rfl, rfl, rfl, by decide +kernel, by decide +kernel, by decide +kernel⟩⟩

/-- No strand, and one in each of the cases of its events. -/
theorem test_witness_StrandEvents :
    (∃ (s : State) (i : Instr), s.strand? (strandKey 0 0) = none ∧ ofStrand 0 0 i = true) ∧
    (∃ (s : State) (x : Strand), s.strand? (strandKey 0 0) = some x ∧ (x.side true).st < 2 ∧ (x.side false).st < 2 ∧ x.moves = []) ∧
    (∃ (s : State) (x : Strand) (m : StrandMove), s.strand? (strandKey 0 0) = some x ∧ x.moves = [m] ∧ m.sink = false ∧ m.stopped = false ∧
      x.stoppers = [false]) ∧
    ∃ (s : State) (x : Strand), s.strand? (strandKey 0 0) = some x ∧ x.src.st = 2 ∧ x.snk.st < 2 ∧ x.snk.peer = 0 ∧ x.key = strandKey 0 0 :=
  ⟨⟨run id, .strandFray 0 0, rfl, rfl⟩,
   ⟨stranded (strandOf 0 1 { st := 1 } {} id) [] id, _, rfl, by decide, by decide, rfl⟩,
   ⟨stranded (strandOf 0 1 {} {} fun x => { x with moves := [{ sink := false }], stoppers := [false] }) [] id, _, { sink := false }, rfl, rfl, rfl, rfl, rfl⟩,
   ⟨stranded (strandOf 0 1 { st := 2 } { st := 1 } id) [] id, _, rfl, rfl, by decide, rfl, rfl⟩⟩

/-- Each form's conditions where they are met: a barrier at its phase, with BARSYNC's arrival sent; an atomic in the share, and a request whose
granule is clean and one whose is poisoned; a pin, and a range that is retained; a slot with nothing under way; a message that fits; a copy
and an empty queue; a mask that is empty and one that is ready; a collective with 15 of its member under way; strands at every end. -/
theorem test_witness_SystemFormsComplete :
    (∃ (s : State) (n : BitVec 3) (b : BarSlot) (x y : Src) (d : Reg), Clear s ∧ s.bar n = some b ∧ FullAll s [x, y] ∧ Full s x.reg ∧ Free s d ∧
      b.waits = [] ∧ b.pois = false ∧ b.ph = s.lph n ∧ s.me.barSent = true ∧ b.ackx + (s.me.greg x.reg).val.toNat % 65536 = 65535) ∧
    (∃ (s : State) (o : AmoOp) (p : CasOp) (u v : State) (key l : Nat), Clear s ∧ FullAll s [o.a, o.b] ∧ Takes s o.dst ∧ o.rl = true ∧ Released s o.sc ∧
      ((s.me.greg o.a.reg).val + o.off.signExtend 64).toNat % (o.ty.width / 8) = 0 ∧
      AmoPlaced s ((s.me.greg o.a.reg).val + o.off.signExtend 64) (o.ty.width / 8) u key ∧ FullAll s [p.a, p.b, p.c] ∧ Takes s p.dst ∧
      ((s.me.greg p.a.reg).val + p.off.signExtend 64).toNat % (p.ty.width / 8) = 0 ∧
      AmoPlaced s ((s.me.greg p.a.reg).val + p.off.signExtend 64) (p.ty.width / 8) v l) ∧
    (∃ (s : State) (r : AmoReq), s.replay.busy = false ∧ r.key < 2 ^ 64 ∧ s.pois r.key (r.ty.width / 8) = false ∧
      (s.slot r.req.ta).uid = r.req.uid ∧ r.req.uid ≠ 0 ∧ (∀ p ∈ s.agreed, p.1 ≠ r.req.uid) ∧ r.dest = .loc 5) ∧
    (∃ (s : State) (r : AmoReq), s.replay.busy = false ∧ r.key < 2 ^ 64 ∧ s.pois r.key (r.ty.width / 8) = true) ∧ (PinCase fun _ _ => True) ∧
    (∃ (s : State) (d : Reg) (a b : Src) (r : Retention), Solo s ∧ Settled s ∧ s.me.pm = 0 ∧ s.mailOut s.cur = false ∧ s.me.copn = 0 ∧ Free s d ∧
      FullAll s [a, b] ∧ (s.me.greg a.reg).val.toNat < 16 ∧ retained s (s.me.greg a.reg).val.toNat = some r ∧ r.ctx = s.me.ctx) ∧
    (∃ (s : State) (a : Src) (m : RxMsg), Clear s ∧ taHnd s.cur = false ∧ FullAll s [a, a, a, a] ∧ Named s (s.me.greg a.reg).val ∧
      (s.me.greg a.reg).val.getLsbD 2 = true ∧ s.agenda = [] ∧ s.me.sent = false ∧ s.me.sending = false ∧
      (s.core ((s.me.greg a.reg).val.toNat / 8)).held = [] ∧ m.more.length = 4 ∧ (s.core ((s.me.greg a.reg).val.toNat / 8)).rxFits m = true) ∧
    (∃ (s : State) (d : Reg), Clear s ∧ Free s d ∧ ((s.eng (copyEngine s.cur)).ops.filter fun o => o.st == 1).length = 63) ∧
    (∃ (s : State) (d : Reg) (a : Src) (o : EngOp), Solo s ∧ Full s a.reg ∧ Free s d ∧ s.myOp (s.me.greg a.reg).val = some o) ∧
    (∃ (s : State) (d : Reg) (a : Src), Solo s ∧ Full s a.reg ∧ Free s d ∧ (s.me.greg a.reg).val ≠ 0 ∧ s.me.tagrdy &&& (s.me.greg a.reg).val ≠ 0 ∧
      s.me.tagrdy &&& (s.me.greg a.reg).val = (s.me.greg a.reg).val) ∧
    (CollCase fun u _ my _ => u.collOut u.me.ctx (my / 1024) (my % 1024) = 15) ∧
    (∃ (s : State) (d : Reg) (a : Src) (off : Nat), Solo s ∧ Full s a.reg ∧ Free s d ∧ Free s (d + 1) ∧ taHnd s.cur = false ∧
      RingAt s (s.me.greg a.reg).val (8 * 2 ^ 0) (2 ^ 1) off) ∧
    (EndCase false fun s x => Clear s ∧ taHnd s.cur = false ∧ x.src.peer = 0 ∧ x.credits ≠ 0 ∧ x.s = 0 ∧ x.snk.dev = 0 ∧ x.nsend ≤ x.ndeliv ∧ Full s 7 ∧
      s.me.vpois.getLsbD 31 = false ∧ ∃ y, EndAt s (s.me.greg 7).val y true ∧ x.key ≠ y.key ∧ y.claims = []) ∧
    (EndCase true fun s x => x.s = 0 ∧ s.me.sent = false ∧ s.me.sending = false ∧ x.claims = [] ∧ x.ntake < x.ndeliv ∧ s.ringHeld x = false ∧
      (((s.modMe fun sl => (sl.pendG 9).pendG 10).putStrand { x with claims := x.claims ++ [⟨⟨s.cur, s.me.uid⟩, 9, none, s.ctr⟩] }).serve x.key).me.sending =
        false) ∧
    (EndCase true fun _ x => x.claims ≠ []) ∧
    (∃ (s : State) (d : Reg) (a b : Src) (x : Strand) (m : StrandMove) (l : List StrandMove), Solo s ∧ Full s a.reg ∧ Free s d ∧ taHnd s.cur = false ∧
      Full s b.reg ∧ (s.me.greg a.reg).val.getLsbD 16 = false ∧ s.handleOk (s.me.greg a.reg).val = true ∧
      s.strandOf s.me.ctx (s.me.greg a.reg).val = some x ∧ x.idx < 65536 ∧ x.src.st = 1 ∧ x.src.holder = s.me.uid ∧ x.moves = m :: l ∧
      m.sink = false ∧ m.accepted = false) ∧
    ∃ (s : State) (x : Strand) (sink : Bool), s.strand? (strandKey 0 0) = some x ∧ x.src.dev = 0 ∧ x.snk.dev = 0 ∧ x.snk.st < 2 ∧ x.src.st < 2 ∧
      x.moves = [] ∧ (x.side sink).dev = 0 := by
  obtain ⟨-, -, -, -, -, -, -, -, -, -, -, -, ⟨s₁, a₁, m₁, h₁⟩, -⟩ := test_witness_L2FencesMessages
  obtain ⟨-, -, -, ⟨s₂, d₂, a₂, u₂, b₂, my₂, e₂, id₂, l₂, h₂⟩, -⟩ := test_witness_Collectives
  refine ⟨⟨member { ackx := 65532 } fun sl => { sl with barSent := true }, 0, _, ⟨5, true⟩, ⟨6, false⟩, 9, clear_of _ rfl, rfl, fullAll_of _ _ rfl, rfl, rfl, rfl,
      rfl, rfl, rfl, rfl⟩,
    ⟨reader, ⟨.rem 31 ⟨7, false⟩, ⟨5, false⟩, ⟨7, true⟩, 0, .i64, .rne, true, true, .dur, .normal⟩,
      ⟨.loc 0, ⟨6, false⟩, ⟨7, true⟩, ⟨7, false⟩, 4, .i32, false, false, .dflt, .ef⟩, reader,
      (reader.translate reader.myCtx (some reader.cur) ((reader.me.greg 6).val + (4 : W32).signExtend 64) .a).1, qlmKey 0 0x3FF8, 0x1FFFFFFC,
      clear_of _ rfl, fullAll_of _ _ rfl, ⟨rfl, rfl, by decide, by decide⟩, rfl, ⟨⟨rfl, rfl⟩, fun _ => rfl, fun _ => rfl⟩, by decide +kernel,
      .inl ⟨by decide +kernel, by decide +kernel, rfl⟩, fullAll_of _ _ rfl, rfl, by decide +kernel,
      .inr ⟨by decide +kernel, by decide +kernel, ⟨0x1FFFFFFC, 0x1FFFFFFC, true, none, 0, 0⟩, Prod.ext rfl (by decide +kernel), rfl, rfl, by decide⟩⟩,
    ⟨run id, minReq, rfl, min_case.2.1, min_case.2.2.1, rfl, by decide, by decide +kernel, rfl⟩,
    ⟨{ run id with poison := [(0x1FF, true)] }, minReq, rfl, by decide +kernel, by decide +kernel⟩,
    pinCase_of (pinner 0x1000 oneLeaf (Vector.replicate 16 (some (kept 0x1100 [])))) [(0x1000, 0)] _ rfl rfl rfl rfl (by decide +kernel)
      (by decide +kernel) (by decide +kernel) (by decide +kernel) trivial,
    ⟨pinner 0x1000 oneLeaf (Vector.replicate 16 (some (kept 0 []))), 9, ⟨8, false⟩, ⟨7, false⟩, kept 0 [], rfl, ⟨⟨rfl, rfl⟩, rfl, rfl⟩, rfl, rfl, rfl, rfl,
      fullAll_of _ _ rfl, by decide +kernel, by decide +kernel, rfl⟩,
    ⟨s₁, a₁, m₁, h₁⟩, ⟨copier (List.replicate 63 (opOf 9 1 none)) 0, 9, clear_of _ rfl, rfl, by decide +kernel⟩,
    ⟨copier [opOf 1 1 none] 0, 9, ⟨5, false⟩, opOf 1 1 none, rfl, rfl, rfl, by decide +kernel⟩,
    ⟨run fun sl => { filled [(5, 1)] sl with tagrdy := 3 }, 9, ⟨5, false⟩, rfl, rfl, rfl, by decide +kernel, by decide +kernel, by decide +kernel⟩,
    ⟨s₂, d₂, a₂, u₂, b₂, my₂, e₂, id₂, l₂, h₂.1, h₂.2.1, h₂.2.2.1, h₂.2.2.2.1, h₂.2.2.2.2.1, h₂.2.2.2.2.2.1, h₂.2.2.2.2.2.2.1, h₂.2.2.2.2.2.2.2.1,
      h₂.2.2.2.2.2.2.2.2.1, h₂.2.2.2.2.2.2.2.2.2.2.1⟩,
    ⟨stranded (strandOf 0 1 {} {} id) other id, 9, ⟨8, false⟩, 0x100, rfl, rfl, rfl, rfl, rfl, by decide +kernel, by decide +kernel, by decide +kernel, _,
      (by decide +kernel : _ = some (some (qlmKey 0 0x100)))⟩,
    srcCase (strandOf 0 1 {} {} id) other id _ (by decide +kernel) (by decide +kernel) rfl ⟨rfl, rfl, rfl⟩ rfl rfl rfl rfl rfl
      ⟨clear_of _ rfl, rfl, rfl, by decide, rfl, rfl, by decide, rfl, rfl, strandOf 1 2 {} {} id, endAt_of _ _ _ _ (by decide +kernel) (by decide +kernel)
        (by decide +kernel) (by decide +kernel) ⟨rfl, rfl, rfl⟩, by decide, rfl⟩,
    snkCase (strandOf 0 1 {} {} fun x => { x with nsend := 1, ndeliv := 1 }) [] id _ (by decide +kernel) (by decide +kernel) rfl ⟨rfl, rfl, rfl⟩
      rfl rfl rfl rfl rfl ⟨rfl, rfl, rfl, rfl, by decide, by decide +kernel, by decide +kernel⟩,
    snkCase (strandOf 0 1 {} {} fun x => { x with claims := [⟨⟨0, 1⟩, 1, none, 0⟩] }) [] id _ (by decide +kernel) (by decide +kernel) rfl ⟨rfl, rfl, rfl⟩
      rfl rfl rfl rfl rfl (by decide),
    ⟨stranded (strandOf 0 1 { st := 1, holder := 1 } {} fun x => { x with moves := [{ sink := false }] }) [] id, 9, ⟨5, false⟩, ⟨0, true⟩,
      strandOf 0 1 { st := 1, holder := 1 } {} fun x => { x with moves := [{ sink := false }] }, { sink := false }, [], rfl, rfl, rfl, rfl, rfl,
      by decide +kernel, by decide +kernel, by decide +kernel, by decide, rfl, rfl, rfl, rfl, rfl⟩,
    ⟨stranded (strandOf 0 1 {} {} id) [] id, _, false, rfl, rfl, rfl, by decide, by decide, rfl, rfl⟩⟩

/-- An image of one block whose integrator 0 is in use, with the given signature (R281, R282). -/
def image (sig : Word) : List Byte :=
  toBytes 8 sig.toNat ++ [1, 0, 0, 6] ++ List.replicate 52 0 ++ [0, 0, 1, 0] ++ List.replicate 636 0

/-- Its signature (R281). The case of a good image below checks it against the CRC. -/
def imageSig : Word := 17586265091921986775

/-- A region of 4 blocks with the image, in a state, claimed by the task with a number. -/
def regionAt (state uid : Nat) : Region :=
  { die := 0, first := 0, count := 4, state := state, image := image 0, claim := ⟨0, uid⟩, u := List.replicate 16 0, bias := List.replicate 16 0,
    exps := List.replicate 64 0 }

/-- The task with region 0 and bytes at the bottom of its share; g5 names the region, g7 the bytes, and g8 the end of the share. -/
def settler (r : Region) (bs : List Byte) : State :=
  { mapped (filled [(5, 0), (7, 0x00FF000000000000), (8, 0x00FF000000003F80)]) with
      regions := [(0, some r)], mem := Memory.write oneLeaf (qlmKey 0 0) bs }

/-- A region that the task names, with the places of an operand. `Q` holds of the state before the claim, of the region then, of the
state and the region once claimed, and of the places. -/
def SfCase (P : State → State → Region → Res (List (Place × Nat)))
    (Q : State → Region → State → Region → List (Place × Nat) → Prop) : Prop :=
  ∃ (s : State) (a : Src) (d : Reg) (k : Nat) (r : Region) (u : State) (ps : List (Place × Nat)) (r' : Region), Solo s ∧ SfReady s a d k r ∧
    FullAll s [⟨7, false⟩, ⟨8, false⟩] ∧ P s s r = .ok u ps ∧ u.me = s.me ∧ u.cur = s.cur ∧ Quiet u ∧ NoAmo u ∧ (u.sfClaim k).region? k = some r' ∧
    Q u r (u.sfClaim k) r' ps

/-- The bytes of an operand. -/
def operandOf (x : State) (ps : List (Place × Nat)) : List Byte := ((x.opReadAll .normal ps false).2).map Prod.fst

theorem reads_of (x : State) (ps : List (Place × Nat)) (h : decide (x.lowestPois ps = none) = true) :
    ReadsAs x ps (x.opReadAll .normal ps false).1 (operandOf x ps) := ⟨of_decide_eq_true h, _, rfl, rfl⟩

/-- A copy of the result of a place check. -/
def placesOf : Res (List (Place × Nat)) → Option (List (Place × Nat))
  | .ok _ ps => some ps
  | _ => none

/-- What every case shares of its state, to be computed. -/
def settled (s : State) (r : Region) : Bool :=
  !s.me.paired && !taHnd s.cur && decide ((s.me.greg 5).pres = .full) && decide ((s.me.greg 7).pres = .full) &&
    decide ((s.me.greg 8).pres = .full) && !(s.me.greg 9).pend && decide ((s.me.greg 5).val.toNat ≤ 15) &&
    decide (0 = regionKey s.me.ctx (s.me.greg 5).val.toNat) && decide (s.region? 0 = some r) && decide (s.me.viewBad = none) &&
    decide (s.myRpq s.cur = []) && !s.accessHeld

theorem sfCase_of (s : State) (r : Region) (P : State → State → Region → Res (List (Place × Nat)))
    (Q : State → Region → State → Region → List (Place × Nat) → Prop) (ps : List (Place × Nat)) (r' : Region) (hs : settled s r = true)
    (hP : placesOf (P s s r) = some ps) (hu : ∀ u ps, P s s r = .ok u ps → u = s)
    (hr : decide ((s.sfClaim 0).region? 0 = some r') = true) (hQ : Q s r (s.sfClaim 0) r' ps) : SfCase P Q := by
  simp only [settled, Bool.and_eq_true, Bool.not_eq_true', decide_eq_true_eq] at hs
  obtain ⟨⟨⟨⟨⟨⟨⟨⟨⟨⟨⟨h1, h2⟩, h3⟩, h4⟩, h5⟩, h6⟩, h7⟩, h8⟩, h9⟩, h10⟩, h11⟩, h12⟩ := hs
  cases he : P s s r with
  | ok u l =>
    have hl : l = ps := by rw [he] at hP; exact Option.some.inj hP
    have := hu u l he
    subst hl this
    have hf : FullAll u [⟨7, false⟩, ⟨8, false⟩] := fun x hx => by
      simp only [List.mem_cons, List.not_mem_nil, or_false] at hx
      rcases hx with rfl | rfl
      · exact h4
      · exact h5
    exact ⟨u, ⟨5, false⟩, 9, 0, r, u, l, r', h1, ⟨h2, h3, h6, ⟨h7, h8, h9⟩⟩, hf, he, rfl, rfl, ⟨h10, h11⟩, h12, of_decide_eq_true hr, hQ⟩
  | wait x => rw [he] at hP; cases hP
  | trap x c v => rw [he] at hP; cases hP

/-- No operand. -/
def noPlaces : State → State → Region → Res (List (Place × Nat)) := fun _ s _ => .ok s []

theorem sfCase_none (s : State) (r : Region) (Q : State → Region → State → Region → List (Place × Nat) → Prop) (r' : Region) (hs : settled s r = true)
    (hr : decide ((s.sfClaim 0).region? 0 = some r') = true) (hQ : Q s r (s.sfClaim 0) r' []) : SfCase noPlaces Q :=
  sfCase_of s r _ _ [] r' hs rfl (fun _ _ h => by cases h; rfl) hr hQ

theorem protAll_same {s u : State} {ps : List (Word × Nat)} {w : Bool} {x : Unit} (h : s.protAll ps w = .ok u x) : u = s := by
  unfold State.protAll at h; split at h
  · cases h
  · cases h; rfl

theorem alignAll_same {s u : State} {l : List Word} {n : Nat} {x : Unit} (h : alignAll l n s = .ok u x) : u = s := by
  unfold alignAll at h; split at h
  · cases h
  · cases h; rfl

/-- An operand in the share is found without a change of the state. -/
theorem sfPlaces_share (s u : State) (va : Word) (len align : Nat) (w : Bool) (ps : List (Place × Nat))
    (hs : inShare s (if w then .w else .r) (if len = 0 then [] else pageParts va len) = true) (h : s.sfPlaces va len align w = .ok u ps) : u = s := by
  obtain ⟨-, l, hl, -⟩ := lookAll_of s _ _ hs
  unfold State.sfPlaces at h
  dsimp only at h
  cases ha : alignAll [va] align s with
  | wait x => rw [ha] at h; cases h
  | trap x c v => rw [ha] at h; cases h
  | ok x y =>
    cases alignAll_same ha
    rw [ha, Res.bind] at h
    cases hq : s.protAll (if len = 0 then [] else pageParts va len) w with
    | wait x => rw [hq] at h; cases h
    | trap x c v => rw [hq] at h; cases h
    | ok x y =>
      cases protAll_same hq
      rw [hq, Res.bind] at h
      have hw : ((if w then Acc3.w else .r) == .w) = w := by cases w <;> rfl
      rw [hw] at hl
      rw [hl] at h
      dsimp only at h
      split at h
      · cases h
      · cases h; rfl
def imageP : State → State → Region → Res (List (Place × Nat)) := fun s x r => State.imagePlaces (s.me.greg 7).val x r
def seedP : State → State → Region → Res (List (Place × Nat)) := fun s x r => State.seedPlaces (s.me.greg 7).val x r

theorem imagePlaces_share (s u : State) (va : Word) (r : Region) (ps : List (Place × Nat)) (h1 : inShare s .r (pageParts va 64) = true)
    (h2 : inShare s .r (pageParts va (64 + 640 * 1)) = true) (hn : ∀ qs, s.sfPlaces va 64 64 false = .ok s qs →
      imgField ((s.opReadAll .normal qs false).2.map Prod.fst) 8 2 ≤ 1) (h : State.imagePlaces va s r = .ok u ps) : u = s := by
  unfold State.imagePlaces at h
  cases hq : s.sfPlaces va 64 64 false with
  | wait x => rw [hq] at h; cases h
  | trap x c v => rw [hq] at h; cases h
  | ok x qs =>
    have hx : x = s := sfPlaces_share s x va 64 64 false qs h1 hq
    subst hx
    rw [hq, Res.bind] at h
    dsimp only at h
    have hb := hn qs hq
    generalize hg : (if imgField ((x.opReadAll .normal qs false).2.map Prod.fst) 8 2 ≤ r.count then
      imgField ((x.opReadAll .normal qs false).2.map Prod.fst) 8 2 else 0) = n at h
    have hn' : n ≤ 1 := by rw [← hg]; split <;> omega
    refine sfPlaces_share x u va _ 64 false ps ?_ h
    have : n = 0 ∨ n = 1 := by omega
    rcases this with rfl | rfl
    · exact h1
    · exact h2

/-- One piece of the share. -/
def piece (off n : Nat) : List (Place × Nat) := [(⟨qlmKey 0 off, 0, false, none, 0, 0⟩, n)]

/-- A state whose region is configured by the image at the bottom of the share. -/
def imageState (r : Region) : State := settler r (image imageSig)

theorem image_places (s : State) (r : Region) (n : Nat) (hn : n ≤ 1)
    (h : (decide ((s.me.greg 7).val = 0x00FF000000000000) && inShare s .r (pageParts 0x00FF000000000000 64) && inShare s .r (pageParts 0x00FF000000000000 (64 + 640 * 1)) &&
      decide (placesOf (s.sfPlaces 0x00FF000000000000 64 64 false) = some (piece 0 64)) &&
      decide (imgField (operandOf s (piece 0 64)) 8 2 = n)) = true) :
    ∀ u ps, imageP s s r = .ok u ps → u = s := by
  simp only [Bool.and_eq_true, decide_eq_true_eq] at h
  intro u ps hp
  unfold imageP at hp
  rw [h.1.1.1.1] at hp
  refine imagePlaces_share s u _ r ps h.1.1.1.2 h.1.1.2 (fun qs hq => ?_) hp
  have e := h.1.2
  rw [hq] at e
  have : qs = piece 0 64 := Option.some.inj e
  subst this
  exact le_of_eq_of_le h.2 hn

theorem seedPlaces_share (s u : State) (va : Word) (r : Region) (ps : List (Place × Nat)) (k : Nat) (h1 : inShare s .r (pageParts va 16) = true)
    (h2 : inShare s .r (pageParts va (16 + 16 * k)) = true) (hn : ∀ qs, s.sfPlaces va 16 16 false = .ok s qs →
      (if imgField ((s.opReadAll .normal qs false).2.map Prod.fst) 0xC 4 = 0 then
        seedN ((s.opReadAll .normal qs false).2.map Prod.fst) else 0) = k) (h : State.seedPlaces va s r = .ok u ps) : u = s := by
  unfold State.seedPlaces at h
  cases hq : s.sfPlaces va 16 16 false with
  | wait x => rw [hq] at h; cases h
  | trap x c v => rw [hq] at h; cases h
  | ok x qs =>
    have hx : x = s := sfPlaces_share s x va 16 16 false qs h1 hq
    subst hx
    rw [hq, Res.bind] at h
    dsimp only at h
    rw [hn qs hq] at h
    refine sfPlaces_share x u va _ 16 false ps ?_ h
    rw [if_neg (show ¬ 16 + 16 * k = 0 by omega)]; exact h2

theorem seed_places (s : State) (r : Region) (k : Nat)
    (h : (decide ((s.me.greg 7).val = 0x00FF000000000000) && inShare s .r (pageParts 0x00FF000000000000 16) && inShare s .r (pageParts 0x00FF000000000000 (16 + 16 * k)) &&
      decide (placesOf (s.sfPlaces 0x00FF000000000000 16 16 false) = some (piece 0 16)) && 
      decide ((if imgField (operandOf s (piece 0 16)) 0xC 4 = 0 then seedN (operandOf s (piece 0 16)) else 0) = k)) = true) :
    ∀ u ps, seedP s s r = .ok u ps → u = s := by
  simp only [Bool.and_eq_true, decide_eq_true_eq] at h
  intro u ps hp
  unfold seedP at hp
  rw [h.1.1.1.1] at hp
  refine seedPlaces_share s u _ r ps k h.1.1.1.2 h.1.1.2 (fun qs hq => ?_) hp
  have e := h.1.2
  rw [hq] at e
  have : qs = piece 0 16 := Option.some.inj e
  subst this
  exact h.2

/-- An operand of n bytes a slot. -/
def operandP (b : Reg) (len : Region → Nat) (align : Nat) (w : Bool) : State → State → Region → Res (List (Place × Nat)) :=
  fun s x r => x.sfPlaces (s.me.greg b).val (len r) align w

theorem operand_case (s : State) (r : Region) (b : Reg) (len : Region → Nat) (align : Nat) (w : Bool)
    (Q : State → Region → State → Region → List (Place × Nat) → Prop) (ps : List (Place × Nat)) (r' : Region) (hs : settled s r = true)
    (hi : inShare s (if w then .w else .r) (if len r = 0 then [] else pageParts (s.me.greg b).val (len r)) = true)
    (hp : placesOf (s.sfPlaces (s.me.greg b).val (len r) align w) = some ps)
    (hr : decide ((s.sfClaim 0).region? 0 = some r') = true) (hQ : Q s r (s.sfClaim 0) r' ps) : SfCase (operandP b len align w) Q :=
  sfCase_of s r _ _ ps r' hs hp (fun _ _ h => sfPlaces_share s _ _ _ _ _ _ hi h) hr hQ

/-- The claim is another task's; or it is free, or this task's. -/
def heldBy (r : Region) : Prop := r.claim.uid ≠ 0 ∧ r.claim.uid ≠ 1
def claimable (s : State) (r : Region) : Prop := r.claim.uid = 0 ∨ r.claim.uid = s.me.uid

/-- SFCFG, SFSCL, SFBIAS and SFSEED of a region of another task, in a run, where nothing is configured, and with a good and a bad operand. -/
theorem test_witness_SettleConfiguration :
    (SfCase imageP fun _ r _ _ _ => heldBy r) ∧ (SfCase imageP fun s r _ _ _ => claimable s r ∧ r.state = 2) ∧
    (SfCase imageP fun s r x _ ps => claimable s r ∧ r.state = 0 ∧ ∃ y img r₂, ReadsAs x ps y img ∧ y.region? 0 = some r₂ ∧ badImage img r₂.count = true) ∧
    (SfCase imageP fun s r x _ ps => claimable s r ∧ r.state = 1 ∧ ∃ y img r₂, ReadsAs x ps y img ∧ y.region? 0 = some r₂ ∧ badImage img r₂.count = false ∧
      imgSig img = BitVec.ofNat 64 (imgField img 0 8)) ∧
    (SfCase noPlaces fun _ r _ _ _ => heldBy r) ∧ (SfCase noPlaces fun s r _ _ _ => claimable s r) ∧
    (SfCase (operandP 7 (fun r => 16 * r.count) 1 false) fun s r x _ ps => claimable s r ∧ ∃ y bs, ReadsAs x ps y bs) ∧
    (SfCase (operandP 7 (fun r => 2 * r.n) 2 false) fun s r _ _ _ => claimable s r ∧ r.state = 0) ∧
    (SfCase (operandP 7 (fun r => 2 * r.n) 2 false) fun s r _ _ _ => claimable s r ∧ r.state = 2) ∧
    (SfCase (operandP 7 (fun r => 8 * r.n) 8 false) fun s r x _ ps => claimable s r ∧ r.state = 1 ∧ ∃ y bs, ReadsAs x ps y bs) ∧
    (SfCase seedP fun s r _ _ _ => claimable s r ∧ r.state = 2) ∧ (SfCase seedP fun s r _ _ _ => claimable s r ∧ r.state = 0) ∧
    (SfCase seedP fun s r x _ ps => claimable s r ∧ r.state = 1 ∧ ∃ y bs, ReadsAs x ps y bs ∧ badSeed bs = true) ∧
    (SfCase seedP fun s r x _ ps => claimable s r ∧ r.state = 3 ∧ ∃ y bs, ReadsAs x ps y bs ∧ badSeed bs = false) := by
  refine ⟨sfCase_of (settler (regionAt 1 7) []) (regionAt 1 7) _ _ (piece 0 64) (regionAt 1 7) (by decide +kernel) (by decide +kernel)
      (image_places _ _ 0 (by omega) (by decide +kernel)) (by decide +kernel) ⟨by decide, by decide⟩,
    sfCase_of (settler (regionAt 2 1) []) (regionAt 2 1) _ _ (piece 0 64) (regionAt 2 1) (by decide +kernel) (by decide +kernel)
      (image_places _ _ 0 (by omega) (by decide +kernel)) (by decide +kernel) ⟨.inr (by decide +kernel), rfl⟩,
    sfCase_of (settler (regionAt 0 0) []) (regionAt 0 0) _ _ (piece 0 64) (regionAt 0 1) (by decide +kernel) (by decide +kernel)
      (image_places _ _ 0 (by omega) (by decide +kernel)) (by decide +kernel) ⟨.inl rfl, rfl, _, _, regionAt 0 1, reads_of _ _ (by decide +kernel), by decide +kernel,
        by decide +kernel⟩,
    sfCase_of (imageState (regionAt 1 0)) (regionAt 1 0) _ _ (piece 0 704) (regionAt 1 1) (by decide +kernel) (by decide +kernel)
      (image_places _ _ 1 (by omega) (by decide +kernel)) (by decide +kernel) ⟨.inl rfl, rfl, _, _, regionAt 1 1, reads_of _ _ (by decide +kernel), by decide +kernel,
        by decide +kernel, by decide +kernel⟩,
    sfCase_none (settler (regionAt 1 7) []) (regionAt 1 7) _ (regionAt 1 7) (by decide +kernel) (by decide +kernel) ⟨by decide, by decide⟩,
    sfCase_none (settler (regionAt 1 0) []) (regionAt 1 0) _ (regionAt 1 1) (by decide +kernel) (by decide +kernel) (.inl rfl),
    operand_case (settler (regionAt 1 0) []) (regionAt 1 0) _ _ _ _ _ (piece 0 64) (regionAt 1 1) (by decide +kernel) (by decide +kernel) (by decide +kernel) (by decide +kernel)
      ⟨.inl rfl, _, _, reads_of _ _ (by decide +kernel)⟩,
    operand_case (settler (regionAt 0 0) []) (regionAt 0 0) _ _ _ _ _ [] (regionAt 0 1) (by decide +kernel) (by decide +kernel) (by decide +kernel) (by decide +kernel)
      ⟨.inl rfl, rfl⟩,
    operand_case (settler (regionAt 2 0) []) (regionAt 2 0) _ _ _ _ _ (piece 0 32) (regionAt 2 1) (by decide +kernel) (by decide +kernel) (by decide +kernel) (by decide +kernel)
      ⟨.inl rfl, rfl⟩,
    operand_case (settler (regionAt 1 0) []) (regionAt 1 0) _ _ _ _ _ (piece 0 128) (regionAt 1 1) (by decide +kernel) (by decide +kernel) (by decide +kernel) (by decide +kernel)
      ⟨.inl rfl, rfl, _, _, reads_of _ _ (by decide +kernel)⟩,
    sfCase_of (settler (regionAt 2 1) []) (regionAt 2 1) _ _ (piece 0 16) (regionAt 2 1) (by decide +kernel) (by decide +kernel)
      (seed_places _ _ 0 (by decide +kernel)) (by decide +kernel) ⟨.inr (by decide +kernel), rfl⟩,
    sfCase_of (settler (regionAt 0 1) []) (regionAt 0 1) _ _ (piece 0 16) (regionAt 0 1) (by decide +kernel) (by decide +kernel)
      (seed_places _ _ 0 (by decide +kernel)) (by decide +kernel) ⟨.inr (by decide +kernel), rfl⟩,
    sfCase_of (settler (regionAt 1 1) []) (regionAt 1 1) _ _ (piece 0 16) (regionAt 1 1) (by decide +kernel) (by decide +kernel)
      (seed_places _ _ 0 (by decide +kernel)) (by decide +kernel) ⟨.inr (by decide +kernel), rfl, _, _, reads_of _ _ (by decide +kernel), by decide +kernel⟩,
    sfCase_of (settler (regionAt 3 1) [0, 0, 0, 0, 0, 0, 0, 0, 1]) (regionAt 3 1) _ _ (piece 0 32) (regionAt 3 1) (by decide +kernel) (by decide +kernel)
      (seed_places _ _ 1 (by decide +kernel)) (by decide +kernel) ⟨.inr (by decide +kernel), rfl, _, _, reads_of _ _ (by decide +kernel), by decide +kernel⟩⟩

/-- SFRUN, SFHALT, SFREL, SFDLN and SFSMP of a region of another task, in a run, where nothing is configured, and settled. -/
theorem test_witness_SettleRuns :
    (SfCase noPlaces fun s r _ _ _ => claimable s r ∧ r.state = 2) ∧ (SfCase noPlaces fun s r _ _ _ => claimable s r ∧ r.state = 0) ∧
    (SfCase noPlaces fun s r _ _ _ => claimable s r ∧ r.state = 3) ∧
    (SfCase (operandP 8 (fun r => 8 * r.n) 8 true) fun s r _ _ _ => claimable s r) ∧
    (SfCase (operandP 8 (fun r => 8 * r.n) 8 true) fun _ r _ _ _ => heldBy r) ∧
    (SfCase (operandP 7 (fun r => 4 * r.n) 4 true) fun s r _ _ _ => claimable s r ∧ r.state = 0) ∧
    (SfCase (operandP 7 (fun r => 4 * r.n) 4 true) fun s r _ _ _ => claimable s r ∧ r.state ≠ 0) ∧
    (SfCase noPlaces fun s r _ _ _ => heldBy r ∧ Quiet s ∧ NoAmo s ∧ s.sfOut s.me.uid = false) ∧
    (SfCase noPlaces fun s r _ _ _ => claimable s r ∧ s.sfOut s.me.uid = false ∧ r.state = 2) ∧
    (SfCase noPlaces fun s r _ _ _ => claimable s r ∧ s.sfOut s.me.uid = false ∧ r.state = 4) ∧
    (SfCase noPlaces fun s r _ _ _ => claimable s r ∧ s.sfOut s.me.uid = false ∧ r.state = 5) ∧
    (SfCase noPlaces fun s r _ _ _ => claimable s r ∧ s.sfOut s.me.uid = false ∧ r.state = 6) ∧
    (SfCase (operandP 7 (fun r => 8 * r.n) 8 false) fun s r _ _ _ => heldBy r ∧ s.sfOut s.me.uid = false) ∧
    (SfCase (operandP 7 (fun r => 8 * r.n) 8 false) fun s r _ _ _ => claimable s r ∧ s.sfOut s.me.uid = false ∧ r.state = 0) ∧
    (SfCase (operandP 7 (fun r => 8 * r.n) 8 false) fun s r _ _ ps => claimable s r ∧ s.sfOut s.me.uid = false ∧ r.state ≠ 0 ∧
      ∃ y bs, ReadsAs ((s.countMe 31 1).sfClaim 0) ps y bs) := by
  refine ⟨sfCase_none (settler (regionAt 2 0) []) (regionAt 2 0) _ (regionAt 2 1) (by decide +kernel) (by decide +kernel) ⟨.inl rfl, rfl⟩,
    sfCase_none (settler (regionAt 0 0) []) (regionAt 0 0) _ (regionAt 0 1) (by decide +kernel) (by decide +kernel) ⟨.inl rfl, rfl⟩,
    sfCase_none (settler (regionAt 3 1) []) (regionAt 3 1) _ (regionAt 3 1) (by decide +kernel) (by decide +kernel) ⟨.inr (by decide +kernel), rfl⟩,
    operand_case (settler (regionAt 1 0) []) (regionAt 1 0) _ _ _ _ _ (piece 0x3F80 128) (regionAt 1 1) (by decide +kernel) (by decide +kernel) (by decide +kernel)
      (by decide +kernel) (.inl rfl),
    operand_case (settler (regionAt 1 7) []) (regionAt 1 7) _ _ _ _ _ (piece 0x3F80 128) (regionAt 1 7) (by decide +kernel) (by decide +kernel) (by decide +kernel)
      (by decide +kernel) ⟨by decide, by decide⟩,
    operand_case (settler (regionAt 0 0) []) (regionAt 0 0) _ _ _ _ _ [] (regionAt 0 1) (by decide +kernel) (by decide +kernel) (by decide +kernel)
      (by decide +kernel) ⟨.inl rfl, rfl⟩,
    operand_case (settler (regionAt 2 0) []) (regionAt 2 0) _ _ _ _ _ (piece 0 64) (regionAt 2 1) (by decide +kernel) (by decide +kernel) (by decide +kernel)
      (by decide +kernel) ⟨.inl rfl, by decide⟩,
    sfCase_none (settler (regionAt 1 7) []) (regionAt 1 7) _ (regionAt 1 7) (by decide +kernel) (by decide +kernel)
      ⟨⟨by decide, by decide⟩, (clear_of _ (by decide +kernel)).2.1, (clear_of _ (by decide +kernel)).2.2, by decide +kernel⟩,
    sfCase_none (settler (regionAt 2 1) []) (regionAt 2 1) _ (regionAt 2 1) (by decide +kernel) (by decide +kernel) ⟨.inr (by decide +kernel), by decide +kernel, rfl⟩,
    sfCase_none (settler (regionAt 4 1) []) (regionAt 4 1) _ (regionAt 4 1) (by decide +kernel) (by decide +kernel) ⟨.inr (by decide +kernel), by decide +kernel, rfl⟩,
    sfCase_none (settler (regionAt 5 1) []) (regionAt 5 1) _ (regionAt 5 1) (by decide +kernel) (by decide +kernel) ⟨.inr (by decide +kernel), by decide +kernel, rfl⟩,
    sfCase_none (settler (regionAt 6 1) []) (regionAt 6 1) _ (regionAt 6 1) (by decide +kernel) (by decide +kernel) ⟨.inr (by decide +kernel), by decide +kernel, rfl⟩,
    operand_case (settler (regionAt 1 7) []) (regionAt 1 7) _ _ _ _ _ (piece 0 128) (regionAt 1 7) (by decide +kernel) (by decide +kernel) (by decide +kernel)
      (by decide +kernel) ⟨⟨by decide, by decide⟩, by decide +kernel⟩,
    operand_case (settler (regionAt 0 0) []) (regionAt 0 0) _ _ _ _ _ [] (regionAt 0 1) (by decide +kernel) (by decide +kernel) (by decide +kernel)
      (by decide +kernel) ⟨.inl rfl, by decide +kernel, rfl⟩,
    operand_case (settler (regionAt 3 0) []) (regionAt 3 0) _ _ _ _ _ (piece 0 128) (regionAt 3 1) (by decide +kernel) (by decide +kernel) (by decide +kernel)
      (by decide +kernel) ⟨.inl rfl, by decide +kernel, by decide, _, _, reads_of _ _ (by decide +kernel)⟩⟩

/-- A running region with states u, at a time. -/
def running (time : Nat) (r : Region) : State := { run id with regions := [(0, some r)], time := time }
def quick : Region := { regionAt 2 1 with image := [0, 0, 0, 0, 0, 0, 0, 0, 1, 0, 0, 6] ++ List.replicate 52 0 ++ [0, 0, 1, 0] }
def slotWith (f : Slot → Slot) : State := run f

/-- A reply to its task; a run that crosses its limit, that may be certified at the first moment, that times out, and one that is over; lost
memory; a deadline that is off, to come, due, and pending with and without a fallback. -/
theorem test_witness_SettleEvents :
    (∃ (s : State) (t : Target), (s.slot t.ta).uid = t.uid ∧ t.uid ≠ 0 ∧ ∀ x ∈ s.agreed, x.1 ≠ t.uid) ∧
    (∃ (s : State) (r : Region) (u : List Int) (b i : Nat), s.region? (regionKey 0 0) = some r ∧ r.state = 2 ∧ r.crossed u = some (b, i)) ∧
    (∃ (s : State) (r : Region) (u : List Int), s.region? (regionKey 0 0) = some r ∧ r.state = 2 ∧
      r.start + imgTau r.image * imgHold r.image = s.time ∧ s.time ≤ r.start + imgTau r.image * imgTmo r.image ∧ r.certifies u = true ∧ r.crossed u = none) ∧
    (∃ (s : State) (r : Region), s.region? (regionKey 0 0) = some r ∧ r.state ≠ 2) ∧
    (∃ (s : State) (r : Region), s.region? (regionKey 0 0) = some r ∧ r.state = 2 ∧ r.smps = []) ∧
    (∃ (s : State) (ta : Nat), ta < 65536 ∧ (s.slot ta).uid ≠ 0 ∧ (∀ x ∈ s.agreed, x.1 ≠ (s.slot ta).uid) ∧ (s.slot ta).dlb = false ∧ (s.slot ta).dline = 0) ∧
    (∃ (s : State) (ta : Nat), ta < 65536 ∧ (s.slot ta).uid ≠ 0 ∧ (∀ x ∈ s.agreed, x.1 ≠ (s.slot ta).uid) ∧ (s.slot ta).dlb = false ∧
      s.time + 1 = (s.slot ta).dline.toNat) ∧
    (∃ (s : State) (ta : Nat), ta < 65536 ∧ (s.slot ta).uid ≠ 0 ∧ (∀ x ∈ s.agreed, x.1 ≠ (s.slot ta).uid) ∧ (s.slot ta).dlb = false ∧
      (s.slot ta).dline ≠ 0 ∧ (s.slot ta).dline.toNat = s.time) ∧
    (∃ (s : State) (ta : Nat), (s.slot ta).dlpend = true ∧ (s.slot ta).dlfb ≠ 0) ∧
    ∃ (s : State) (ta : Nat), (s.slot ta).dlpend = true ∧ (s.slot ta).dlfb = 0 := by
  refine ⟨⟨run id, ⟨0, 1⟩, rfl, by decide, by decide⟩,
    ⟨running 0 quick, quick, [819201 + 1000000], 0, 0, rfl, rfl, by decide +kernel⟩,
    ⟨running 80 quick, quick, List.replicate 16 0, rfl, rfl, by decide +kernel, by decide +kernel, by decide +kernel, by decide +kernel⟩,
    ⟨running 0 (regionAt 3 1), regionAt 3 1, rfl, by decide⟩, ⟨running 0 quick, quick, rfl, rfl, rfl⟩,
    ⟨run id, 0, by decide, by decide, by decide, rfl, rfl⟩,
    ⟨{ run (fun sl => { sl with dline := 10 }) with time := 9 }, 0, by decide, by decide, by decide, rfl, rfl⟩,
    ⟨{ run (fun sl => { sl with dline := 10 }) with time := 10 }, 0, by decide, by decide, by decide, rfl, by decide, rfl⟩,
    ⟨run fun sl => { sl with dlpend := true, dlfb := 64 }, 0, rfl, by decide⟩, ⟨run fun sl => { sl with dlpend := true }, 0, rfl, rfl⟩⟩

/-- A splice word, its entry, and a table in the share. -/
def splicer (e : BitVec 128) (f : Slot → Slot) : State := run fun sl => f (filled [(5, 0)] { sl with splc := sl.splc.set 5 e, spt := 64 })

theorem test_witness_Splices :
    (∃ (s : State) (a : Src), Solo s ∧ taHnd s.cur = false ∧ Full s a.reg ∧ (s.me.greg a.reg).val = 0) ∧
    (∃ (s : State) (a : Src) (u : State) (bs : List Byte), Solo s ∧ taHnd s.cur = false ∧ Full s a.reg ∧ (s.me.greg a.reg).val ≠ 0 ∧
      s.readTable (s.me.greg a.reg).val = .ok u bs) ∧
    (∃ (s : State) (d : Reg) (a : Src), Solo s ∧ Full s a.reg ∧ Free s d ∧ Free s (d + 1)) ∧
    (∃ (s : State) (e : BitVec 128) (w0 w1 w2 : W32) (i : Instr), entryOf s 5 0x15 = some e ∧ e.toNat % 4 = 2 ∧
      expandSplice e 0 0 0 0 = some [w0, w1, w2] ∧ decodeExt w0 w1 w2 none = .ok i) ∧
    (∃ s : State, taHnd s.cur = false ∧ entryOf s 5 0x15 = none) ∧
    (∃ (s : State) (e : BitVec 128), taHnd s.cur = false ∧ entryOf s 5 0x15 = some e ∧ e.toNat % 4 ≠ 2) ∧
    ∃ (s : State) (e : BitVec 128), taHnd s.cur = false ∧ entryOf s 5 0x15 = some e ∧ e.toNat % 4 = 2 ∧ expandSplice e 0 0 0 0 = none := by
  have tb : ∀ (s : State) (va : Word), (match s.readTable va with | .ok _ _ => true | _ => false) = true → ∃ u bs, s.readTable va = .ok u bs := by
    intro s va h
    cases he : s.readTable va with
    | ok u bs => exact ⟨u, bs, rfl⟩
    | wait x => rw [he] at h; cases h
    | trap x c v => rw [he] at h; cases h
  obtain ⟨u, bs, hu⟩ := tb (mapped (filled [(5, 0x00FF000000000000)])) (((mapped (filled [(5, 0x00FF000000000000)])).me.greg 5).val) (by decide +kernel)
  exact ⟨⟨regs [(5, 0)], ⟨5, false⟩, rfl, rfl, rfl, rfl⟩, ⟨mapped (filled [(5, 0x00FF000000000000)]), ⟨5, false⟩, u, bs, rfl, rfl, rfl, by decide, hu⟩,
    ⟨regs [(5, 127)], 62, ⟨5, true⟩, rfl, rfl, rfl, rfl⟩,
    ⟨splicer 0x8000124000C29006 id, 0x8000124000C29006, 0x00C29006, 0x80001240, 0, .addX ⟨.rem 8 ⟨9, false⟩, ⟨5, true⟩, .reg ⟨6, false⟩⟩, by decide +kernel,
      by decide +kernel, by decide +kernel, rfl⟩,
    ⟨run id, rfl, by decide +kernel⟩, ⟨splicer 4 id, 4, rfl, by decide +kernel, by decide⟩,
    ⟨splicer 0xFF000000000000000000C29006 id, 0xFF000000000000000000C29006, rfl, by decide +kernel, by decide +kernel, by decide +kernel⟩⟩

/-- The first and the last special register, TIME into g1, FPCTL with the last mode and with the first value that is none, and the first index past
the table. -/
theorem test_witness_SpecialRegisters :
    (∃ s : State, Solo s ∧ taHnd s.cur = false) ∧
    (∃ (s : State) (d : Reg) (v w : Word), Solo s ∧ Free s d ∧ (readable s)[(0 : BitVec 6).toNat]? = some v ∧
      (readable s)[(21 : BitVec 6).toNat]? = some w) ∧
    (∃ (s : State) (d : Reg) (v : Word), Solo s ∧ Free s d ∧ (readable s)[(5 : BitVec 6).toNat]? = some v ∧ d ≠ 0) ∧
    (∃ (s : State) (a b : Src), Solo s ∧ taHnd s.cur = false ∧ Full s a.reg ∧ Full s b.reg ∧ (s.me.greg a.reg).val.toNat % 8 ≤ 5 ∧
      5 < (s.me.greg b.reg).val.toNat % 8 ∧ (21 : BitVec 6).toNat < 22 ∧ (21 : BitVec 6).toNat ∉ [7, 9, 10, 12, 15, 16]) ∧
    ∃ s : State, Solo s ∧ taHnd s.cur = false ∧ 22 ≤ (22 : BitVec 6).toNat :=
  ⟨⟨run id, rfl, rfl⟩, ⟨run id, 0, _, _, rfl, rfl, rfl, rfl⟩, ⟨run id, 1, _, rfl, rfl, rfl, by decide⟩,
    ⟨regs [(5, 5), (6, 6)], ⟨5, true⟩, ⟨6, false⟩, rfl, rfl, rfl, rfl, by decide, by decide, by decide, by decide⟩, ⟨run id, rfl, rfl, by decide⟩⟩

/-- Alone, with the partner slot taken, with it free on an even and on an odd core, and in a pair. -/
def oddTask : State := { cur := 8, slots := [(8, { st := .running, uid := 1 })] }
def pairedTask : State := { run (fun sl => { sl with pairst := 1 }) with agreed := [(1, { st := .running, uid := 1, pairst := 1 })] }

theorem test_witness_LashedPairs :
    (∃ (s : State) (d : Reg), taHnd s.cur = false ∧ Free s d ∧ Clear s ∧ s.me.stq = 0 ∧ s.idle (partnerOf s.cur) = false) ∧
    (∃ (s : State) (d : Reg), taHnd s.cur = false ∧ Free s d ∧ Clear s ∧ s.me.stq = 0 ∧ s.idle (partnerOf s.cur) = true ∧ taCore s.cur % 2 = 0) ∧
    (∃ (s : State) (d : Reg), taHnd s.cur = false ∧ Free s d ∧ Clear s ∧ s.me.stq = 0 ∧ s.idle (partnerOf s.cur) = true ∧ taCore s.cur % 2 = 1) ∧
    ∃ (s : State) (d : Reg) (u : State), taHnd s.cur = false ∧ Free s d ∧ s.me.paired = true ∧ u = s.exchange s.cur ∧ u.me.paired = true ∧ Free u d ∧
      Quiet u ∧ NoAmo u ∧ u.me.stq = 0 :=
  ⟨⟨{ run id with slots := [(0, { st := .running, uid := 1 }), (10, { st := .running, uid := 2 })] }, 0, rfl, rfl, ⟨rfl, ⟨rfl, rfl⟩, rfl⟩, rfl, rfl⟩,
    ⟨run id, 1, rfl, rfl, ⟨rfl, ⟨rfl, rfl⟩, rfl⟩, rfl, rfl, rfl⟩, ⟨oddTask, 1, rfl, rfl, ⟨rfl, ⟨rfl, rfl⟩, rfl⟩, rfl, rfl, rfl⟩,
    ⟨pairedTask, 1, _, rfl, rfl, rfl, rfl, rfl, rfl, ⟨rfl, rfl⟩, rfl, rfl⟩⟩

/-- A counter of another context. -/
def counting (k : PmCounter) (f : Slot → Slot) : State := (run f).modCore 0 fun q => q.modPmc 3 fun _ => k

theorem test_witness_CountersAndMarks :
    (∃ (s : State) (d : Reg) (a b c e : Src), Solo s ∧ Free s d ∧ Full s a.reg ∧ Full s b.reg ∧ Full s c.reg ∧ Full s e.reg ∧
      (s.me.greg a.reg).val.toNat / 2 ^ 10 ≠ 0 ∧ (s.me.greg b.reg).val.toNat / 2 ^ 6 % 4 ≠ 0 ∧ (s.me.greg c.reg).val.toNat / 2 ^ 10 = 0 ∧
      (s.me.greg c.reg).val.toNat / 2 ^ 6 % 4 = 0 ∧ (s.me.greg c.reg).val.toNat % 64 < 32 ∧ 32 ≤ (s.me.greg e.reg).val.toNat % 64) ∧
    (∃ (s : State) (a b : Src) (c : State) (k : PmCounter), Solo s ∧ Full s a.reg ∧ Full s b.reg ∧ c = s.countIssue .s ∧
      k = (c.core s.myCore).pmc.getD (3 : BitVec 2).toNat {} ∧ (s.me.greg a.reg).val.getLsbD 9 = true ∧ (s.me.greg b.reg).val.getLsbD 9 = false ∧
      k.cfg.getLsbD 9 = true ∧ k.ctx ≠ some s.me.ctx) ∧
    (∃ (s : State) (k : PmCounter), Solo s ∧ k = ((s.countIssue .s).core s.myCore).pmc.getD (3 : BitVec 2).toNat {} ∧ k.replay = true) ∧
    (∃ (s : State) (k : PmCounter), Solo s ∧ k = ((s.countIssue .s).core s.myCore).pmc.getD (3 : BitVec 2).toNat {} ∧ k.replay = false ∧
      k.cfg.getLsbD 9 = false) ∧
    (∃ (s : State) (d : Reg) (k : PmCounter), Solo s ∧ Free s d ∧ s.me.anyPending = false ∧ k = (s.core s.myCore).pmc.getD (3 : BitVec 2).toNat {} ∧
      k.cfg.getLsbD 9 = true ∧ k.replay = false ∧ k.ctx = some s.me.ctx) ∧
    (∃ (s : State) (d : Reg) (k : PmCounter), Solo s ∧ Free s d ∧ s.me.anyPending = false ∧ k = (s.core s.myCore).pmc.getD (3 : BitVec 2).toNat {} ∧
      k.cfg.getLsbD 9 = false) ∧
    (∃ (s : State) (a : Src), Solo s ∧ Full s a.reg ∧ s.trace.en = true ∧ s.trace.mask.getLsbD s.me.ctx = true) ∧
    (∃ (s : State) (a : Src), Solo s ∧ Full s a.reg ∧ s.trace.en = true ∧ s.trace.mask.getLsbD s.me.ctx = false) ∧
    ∃ (s : State) (a : Src), Solo s ∧ Full s a.reg ∧ s.trace.en = false :=
  ⟨⟨regs [(5, 0x400), (6, 0x40), (7, 0x21F), (8, 0x20)], 9, ⟨5, false⟩, ⟨6, false⟩, ⟨7, false⟩, ⟨8, false⟩, rfl, rfl, rfl, rfl, rfl, rfl, by decide, by decide, rfl,
      rfl, by decide, by decide⟩,
    ⟨counting { cfg := 0x200, ctx := some 1 } (filled [(5, 0x200), (6, 0)]), ⟨5, false⟩, ⟨6, false⟩, _, _, rfl, rfl, rfl, rfl, rfl, rfl, rfl, rfl, by decide⟩,
    ⟨counting { cfg := 0x200, ctx := some 0, replay := true } id, _, rfl, rfl, rfl⟩, ⟨run id, _, rfl, rfl, rfl, rfl⟩,
    ⟨counting { cfg := 0x200, ctx := some 0, count := 7 } id, 1, _, rfl, rfl, rfl, rfl, rfl, rfl, rfl⟩, ⟨run id, 1, _, rfl, rfl, rfl, rfl, rfl⟩,
    ⟨{ regs [(5, 1)] with trace := { en := true, mask := 1 } }, ⟨5, false⟩, rfl, rfl, rfl, rfl⟩,
    ⟨{ regs [(5, 1)] with trace := { en := true, mask := 2 } }, ⟨5, false⟩, rfl, rfl, rfl, rfl⟩, ⟨regs [(5, 1)], ⟨5, false⟩, rfl, rfl, rfl⟩⟩

/-! ## Events -/

theorem okOf_some {α β : Type} (x : Except α β) (b : β) (h : okOf x = some b) : x = .ok b := by
  cases x with
  | ok y => cases h; rfl
  | error e => cases h

def errOf {α β : Type} : Except α β → Option α
  | .ok _ => none
  | .error e => some e

theorem err_of {α β σ : Type} (x : σ × Except α β) (e : α) (h : errOf x.2 = some e) : x = (x.1, .error e) := by
  obtain ⟨u, r⟩ := x
  cases r with
  | ok y => cases h
  | error y => cases h; rfl

/-- A core whose queue holds messages. -/
def queued (k : CoreSt) (f : Slot → Slot) : State := { run f with cores := [(0, k)] }

def aWrite (pois : Bool) : RemWrite := ⟨8, 0, 0, 31, 7, pois⟩

/-- A parked store of a page at `va`. -/
def parkedAt (va : Word) : RpqEntry :=
  { no := 3, behind := true, ta := 0, uid := 1, ctx := 0, seq := 0, addr0 := va, fva := 0, lanes := [(va, [1, 2, 3, 4])] }

def parking (va : Word) : State := { reader with cores := [(0, { rpq := [parkedAt va] })] }

theorem next_parked (va : Word) : NextParked (parking va) 0 3 (parkedAt va) := by
  refine ⟨rfl, rfl, rfl, rfl, .inl rfl, fun x hx _ h2 => ?_⟩
  obtain rfl : x = parkedAt va := List.mem_singleton.1 hx
  exact absurd h2 (Nat.lt_irrefl _)

/-- An edge header at 0x1000 of memory, its ring at 0x2000 by a page of its own. -/
def edgeIn (err run : Bool) (free fill : Nat) (cons : Word) : State :=
  { reader with mem := Memory.write (oneLeaf ++ [(0x30008, 0x1F)]) 0x1000 (toBytes 4 2 ++ toBytes 4 ((if err then 1 else 0) + if run then 2 else 0) ++ toBytes 4 0 ++ toBytes 4 0 ++
      toBytes 4 free ++ toBytes 4 fill ++ toBytes 8 cons.toNat ++ toBytes 8 0x20002000) }

def aPush : EdgePush := ⟨0, 0x1000, 5, false, 0, 0⟩

def DeferCase (P : Edge → Prop) : Prop :=
  ∃ (s : State) (p : EdgePush) (u : State) (key : Nat) (e : Edge) (x : State) (item : Nat), p.edge.toNat % 64 = 0 ∧
    s.edgePlace none p.ctx p.edge 64 = (u, .ok key) ∧ u.edgeAt key = .ok e ∧ p.token = false ∧
    u.edgePlace none p.ctx (e.base + BitVec.ofNat 64 (8 * e.tail)) 8 = (x, .ok item) ∧ P e

def placedIn (s : State) (va : Word) (n : Nat) : State × Except Nat Nat := s.edgePlace none 0 va n

theorem deferCase_of (s : State) (e : Edge) (P : Edge → Prop) (h1 : okOf (placedIn s 0x1000 64).2 = some 0x1000)
    (h2 : okOf ((placedIn s 0x1000 64).1.edgeAt 0x1000) = some e)
    (h3 : okOf (placedIn (placedIn s 0x1000 64).1 (e.base + BitVec.ofNat 64 (8 * e.tail)) 8).2 = some 0x2000) (h4 : P e) : DeferCase P :=
  ⟨s, aPush, _, 0x1000, e, _, 0x2000, by decide, ok_of (placedIn s 0x1000 64) _ h1, okOf_some _ _ h2, rfl, ok_of (placedIn _ _ 8) _ h3, h4⟩

def edgeWith (err run : Bool) (free fill : Nat) (cons : Word) : Edge := ⟨2, err, run, 0, 0, free, fill, cons, 0x20002000⟩

def parkPlaces (va : Word) : State × Except Word (List (Place × Bool)) :=
  ({ parking va with cur := 0 } : State).placeAll { desc := [0, 0, 1], descPA := 0 } .w true [(va, 4)]

def viewless (l : List (Place × Bool)) : Bool := l.all fun p => p.1.view.isNone

/-- A target in its slot, one in a slot since reused, and every presence that a remote write can meet; a parked store whose page has no
translation and one whose page has; an edge with ERR, full, with a consumer asleep, running and none; a page that has a leaf. -/
theorem test_witness_Arrivals :
    (∃ (s : State) (t : Target), InSlot s t) ∧ (∃ (s : State) (t : Target), Gone s t) ∧
    (∃ (s : State) (w : RemWrite), (s.core (taCore w.ta)).held = [] ∧ (s.slot w.ta).st = .idle) ∧
    (∃ (s : State) (w v : RemWrite), (s.core (taCore w.ta)).held = [] ∧ (s.slot w.ta).st ≠ .idle ∧ (s.slot w.ta).ctx = w.ctx ∧ (s.slot w.ta).takes = [] ∧
      ((s.slot w.ta).greg (32 + w.reg.setWidth 6)).pres = .empty ∧ ((s.slot w.ta).greg (32 + w.reg.setWidth 6)).pend = false ∧ w.pois = false ∧
      v.pois = true ∧ v.ta = w.ta ∧ v.ctx = w.ctx ∧ v.reg = w.reg) ∧
    (∃ (s : State) (w : RemWrite), (s.core (taCore w.ta)).held = [] ∧ (s.slot w.ta).st ≠ .idle ∧ (s.slot w.ta).ctx = w.ctx ∧ (s.slot w.ta).takes = [] ∧
      ((s.slot w.ta).greg (32 + w.reg.setWidth 6)).pres ≠ .empty ∧ (s.core (taCore w.ta)).rxFits (msgOf w) = true) ∧
    (∃ (s : State) (core no : Nat) (e : RpqEntry) (c : Ctx) (u : State) (a : Word), NextParked s core no e ∧ s.ctx e.ctx = some c ∧
      ({ s with cur := e.ta } : State).placeAll c .w true (e.lanes.map fun l => (l.1, l.2.length)) = (u, .error a)) ∧
    (∃ (s : State) (core no : Nat) (e : RpqEntry) (c : Ctx) (u : State) (ps : List (Place × Bool)), NextParked s core no e ∧ s.ctx e.ctx = some c ∧
      ({ s with cur := e.ta } : State).placeAll c .w true (e.lanes.map fun l => (l.1, l.2.length)) = (u, .ok ps) ∧ (∀ p ∈ ps, p.1.view = none) ∧
      (∀ x ∈ (s.core core).rpq, x.no ≠ e.no → x.st ≠ .parked ∨ x.fva ≠ 0) ∧ u.core core = s.core core) ∧
    (DeferCase fun e => e.err = true) ∧ (DeferCase fun e => e.err = false ∧ e.free = 0) ∧
    (DeferCase fun e => e.err = false ∧ e.free ≠ 0 ∧ (e.fill ≠ 0 ∨ e.run = true ∨ e.cons = 0)) ∧
    (DeferCase fun e => e.err = false ∧ e.free ≠ 0 ∧ e.fill = 0 ∧ e.run = false ∧ e.cons ≠ 0) ∧
    ∃ (s : State) (ctx : Nat) (va : Word) (c : Ctx) (p : Word) (pa size : Nat) (seen : List Nat), s.ctx ctx = some c ∧
      (∀ e ∈ s.tlb, ¬ (e.asid = c.asid ∧ e.page ≤ va.toNat ∧ va.toNat < e.page + e.size)) ∧ s.walk c va.toNat = (.leaf p pa size, seen) := by
  refine ⟨⟨run id, ⟨0, 1⟩, rfl, by decide, by decide⟩, ⟨run id, ⟨0, 2⟩, by decide, by decide, by decide, by decide⟩,
    ⟨{}, aWrite false, rfl, rfl⟩, ⟨run id, aWrite false, aWrite true, rfl, by decide, rfl, rfl, rfl, rfl, rfl, rfl, rfl, rfl, rfl⟩,
    ⟨regs [(63, 1)], aWrite false, rfl, by decide, rfl, rfl, by decide, rfl⟩,
    ⟨parking 0x40000000, 0, 3, _, _, _, 0x40000000, next_parked _, rfl, err_of (parkPlaces 0x40000000) _ (by decide +kernel)⟩, ?_,
    deferCase_of (edgeIn true false 2 0 0) (edgeWith true false 2 0 0) _ (by decide +kernel) (by decide +kernel) (by decide +kernel) rfl,
    deferCase_of (edgeIn false false 0 2 0) (edgeWith false false 0 2 0) _ (by decide +kernel) (by decide +kernel) (by decide +kernel) (by decide),
    deferCase_of (edgeIn false true 2 0 64) (edgeWith false true 2 0 64) _ (by decide +kernel) (by decide +kernel) (by decide +kernel) (by decide),
    deferCase_of (edgeIn false false 2 0 64) (edgeWith false false 2 0 64) _ (by decide +kernel) (by decide +kernel) (by decide +kernel) (by decide),
    ⟨reader, 0, 0x1FFFFFFF, _, 0x1F, 0x30000, 0x20000000, [0x10000, 0x20000, 0x30000], rfl, by decide, by decide +kernel⟩⟩
  refine ⟨parking 0x100, 0, 3, _, _, _, [(⟨0x100, 0x100, true, none, 0, 0⟩, false)], next_parked _, rfl, ok_of (parkPlaces 0x100) _ (by decide +kernel),
    by decide, ?_, by decide +kernel⟩
  intro x hx hn
  obtain rfl : x = parkedAt 0x100 := List.mem_singleton.1 hx
  exact absurd rfl hn

/-- A message with an entry address, for an idle handler slot, a busy one and one that is frozen by an RXFULL packet. -/
def mail : RxMsg := { kind := 2, sender := 8, ctx := 0, ta := 4, more := [0x100] }
def post (k : CoreSt) (h : Slot) : State := { reader with cores := [(0, k)], slots := [(0, { st := .running, uid := 1 }), (4, h)] }

theorem test_witness_Activations :
    (∃ (s : State) (core : Nat) (m : RxMsg) (c : Ctx), (s.core core).rxq.find? (fun x => x.kind != 0) = some m ∧ m.pos < 64 ∧ m.amo = none ∧
      s.ctx m.ctx = some c ∧ (s.slot (hndOf core)).st = .idle ∧ (s.slot (hndOf core)).trigger = none ∧ (s.core core).rxfull = false) ∧
    (∃ (s : State) (core : Nat) (m : RxMsg) (c : Ctx), (s.core core).rxq.find? (fun x => x.kind != 0) = some m ∧ m.pos < 64 ∧ m.amo = none ∧
      s.ctx m.ctx = some c ∧ (s.slot (hndOf core)).st ≠ .idle) ∧
    (∃ (s : State) (core : Nat) (m : RxMsg) (c : Ctx), (s.core core).rxq.find? (fun x => x.kind != 0) = some m ∧ m.pos < 64 ∧ m.amo = none ∧
      s.ctx m.ctx = some c ∧ (s.core core).rxfull = true) ∧
    (∃ (s : State) (core : Nat) (u : State) (m : RxMsg) (c : Ctx), u = s.strandsSweep ∧ (u.slot (hndOf core)).trigger = some m ∧ m.amo = none ∧
      u.ctx m.ctx = some c ∧ (u.slot (hndOf core)).st = .idle) ∧
    (∃ (s : State) (core : Nat) (u : State) (m : RxMsg) (c : Ctx), u = s.strandsSweep ∧ (u.slot (hndOf core)).trigger = some m ∧ m.amo = none ∧
      u.ctx m.ctx = some c ∧ (u.slot (hndOf core)).st ≠ .idle) ∧
    (∃ (s : State) (core : Nat) (m : RxMsg) (w : Option Nat) (l : List (RxMsg × Option Nat)), (s.slot (hndOf core)).st = .idle ∧
      (s.core core).held = (m, w) :: l) ∧
    (∃ (s : State) (core : Nat), (s.slot (hndOf core)).st = .idle ∧ (s.core core).held = []) ∧
    ∃ (s : State) (core : Nat), (s.slot (hndOf core)).st ≠ .idle :=
  ⟨⟨post { rxq := [mail] } {}, 0, mail, _, rfl, by decide, rfl, rfl, rfl, rfl, rfl⟩,
    ⟨post { rxq := [mail] } { st := .running }, 0, mail, _, rfl, by decide, rfl, rfl, by decide⟩,
    ⟨post { rxq := [mail], rxfull := true } { st := .frozen }, 0, mail, _, rfl, by decide, rfl, rfl, rfl⟩,
    ⟨post { rxq := [mail] } { trigger := some mail }, 0, _, mail, _, rfl, by decide +kernel, rfl, rfl, rfl⟩,
    ⟨post { rxq := [mail] } { st := .running, trigger := some mail }, 0, _, mail, _, rfl, by decide +kernel, rfl, rfl, by decide +kernel⟩,
    ⟨post { held := [(mail, some 0)] } {}, 0, _, _, _, rfl, rfl⟩, ⟨post {} {}, 0, rfl, rfl⟩, ⟨post {} { st := .running }, 0, by decide⟩⟩

theorem ok_ex {α β σ : Type} (x : σ × Except α β) (h : (okOf x.2).isSome = true) : ∃ u l, x = (u, .ok l) := by
  obtain ⟨l, hl⟩ := Option.isSome_iff_exists.1 h
  exact ⟨x.1, l, ok_of x l hl⟩

theorem err_ex {α β σ : Type} (x : σ × Except α β) (h : (errOf x.2).isSome = true) : ∃ u e, x = (u, .error e) := by
  obtain ⟨e, he⟩ := Option.isSome_iff_exists.1 h
  exact ⟨x.1, e, err_of x e he⟩

/-- A copy of one row of 8 bytes. -/
def rowOp (src dst : Word) : EngOp := { opOf 1 1 none with shadow := [src, dst, 0x000100010008, 0, 0, 0, 0], sink := 2 }

/-- The reader with the operation in engine 0. -/
def engined (o : EngOp) : State := { reader with engines := [(0, { seq := 2, ops := [o] })] }

def QueuedCase (o : EngOp) (P : State → List Word → List Word → Prop) : Prop :=
  ∃ (s : State) (e : Nat) (src dst : List Word), (s.eng e).ops.find? (fun o => o.st == 1 && o.coll.isNone) = some o ∧
    src = (o.grid.map fun x => rowAddr (o.sh 0) (o.sh 3) x.1 x.2) ∧ dst = (o.grid.map fun x => rowAddr (o.sh 1) (o.sh 4) x.1 x.2) ∧ P s src dst

def doneOp (status sink : Nat) (trap : Bool) (ack : Option Nat) (acks : Nat) : EngOp :=
  { rowOp 0 0x100 with st := 2, status := status, sink := sink, trap := trap, ack := ack, acks := acks, plan := [(0x100, [(7, false)])] }

def DoneCase (P : State → EngOp → Prop) : Prop :=
  ∃ (s : State) (id : W32) (o : EngOp) (y : State), (s.eng (engOfId id)).ops.find? (fun x => x.id == id && decide (2 ≤ x.st)) = some o ∧ o.id = id ∧
    y = ((if o.status = 0 then o.plan.foldl (fun x run => x.writeRun o run) s else s).modEng (engOfId id) fun x =>
      { x with ops := x.ops.filter fun z => z.id != id }) ∧ P y o

theorem doneCase_of (o : EngOp) (P : EngOp → Prop) (h : (decide (2 ≤ o.st) && decide (o.id = 1)) = true)
    (hs : (let y := (if o.status = 0 then o.plan.foldl (fun x run => x.writeRun o run) (engined o) else engined o)
      decide ((y.slot 0).uid = 1 ∧ y.agreed = [])) = true) (ht : o.req = ⟨0, 1⟩) (hP : P o) : DoneCase fun y o => InSlot y o.req ∧ P o := by
  rw [Bool.and_eq_true, decide_eq_true_eq, decide_eq_true_eq] at h
  have hs := of_decide_eq_true hs
  refine ⟨engined o, 1, o, _, ?_, h.2, rfl, ⟨?_, by rw [ht]; decide, ?_⟩, hP⟩
  · have : (o.id == 1 && decide (2 ≤ o.st)) = true := by simp [h.1, h.2]
    show List.find? _ [o] = some o
    rw [List.find?_cons, this]
  · rw [ht]; exact hs.1
  · intro x hx
    rw [show (State.modEng _ _ _).agreed = [] from hs.2] at hx
    cases hx

/-- Group 0 with a member on die 0 of this device and one on device 5. -/
def outMem : List Host.Cell := [(0x8000, 2), (0x8009, 0x90), (0x9006, 5)] ++ oneLeaf

def commitOf (fn : Nat) (dst : Word) : CollInfo := { someColl with fn := fn, root := 1, dst := dst, data := [3] }
def commitOp (k : CollInfo) : EngOp := { opOf 0x80000001 1 (some k) with sink := 2 }
def committing (k : CollInfo) : State := { reader with mem := outMem, ctxs := [(0, some grouped)], engines := [(128, { seq := 2, ops := [commitOp k] })] }
def others : List CollPart := [⟨0, 0, 0, 1, [4], [], someColl.sty, 0⟩]

def CommitCase (P : State → CollInfo → EngOp → List (Byte × Bool) × W96S → Prop) : Prop :=
  ∃ (s : State) (ctx grp op : Nat) (c : Ctx) (outside : List CollPart) (ms : List (Nat × Nat)) (ps : List Contrib) (o : EngOp) (k : CollInfo)
    (bs : List (Byte × Bool) × W96S), s.ctx ctx = some c ∧ s.groupOf c grp = some ms ∧ s.collParts ctx grp op outside ms = some ps ∧
    s.collOps ctx grp op = [(o, k)] ∧ bs = collResult k ps ∧ P s k o bs

def theParts : List Contrib := [⟨[3], [], someColl.sty, someColl.point⟩, ⟨[4], [], someColl.sty, 0⟩]

theorem commitCase_of (k : CollInfo) (P : State → CollInfo → EngOp → List (Byte × Bool) × W96S → Prop)
    (h : (committing k).collParts 0 0 0 others [(0, 0), (5, 0)] = some theParts) (ho : (committing k).collOps 0 0 0 = [(commitOp k, k)])
    (hg : (committing k).groupOf grouped 0 = some [(0, 0), (5, 0)])
    (hP : P (committing k) k (commitOp k) (collResult k theParts)) : CommitCase P :=
  ⟨committing k, 0, 0, 0, grouped, others, _, _, _, _, _, rfl, hg, h, ho, rfl, hP⟩

/-- No copy, one whose source has no translation, one whose destination has none, and one that passes; completions with every sink and an
acknowledgement; failures with and without a trap; a trap; a group of which one member is missing, and complete; the watchdog before and at its time. -/
theorem test_witness_EngineEvents :
    (∃ (s : State) (e : Nat), (s.eng e).ops.find? (fun o => o.st == 1 && o.coll.isNone) = none) ∧
    (∃ o, QueuedCase o fun s src _ => ∃ u x, s.rowPlaces o false src = (u, .error x)) ∧
    (∃ o, QueuedCase o fun s src dst => ∃ u sp, s.rowPlaces o false src = (u, .ok sp) ∧ ∃ v x, u.destPlaces o dst = (v, .error x)) ∧
    (∃ o, QueuedCase o fun s src dst => ∃ u sp, s.rowPlaces o false src = (u, .ok sp) ∧ ∃ v dp, u.destPlaces o dst = (v, .ok dp)) ∧
    (DoneCase fun y o => InSlot y o.req ∧ o.status = 0 ∧ o.ack = none ∧ 2 ≤ o.sink) ∧
    (DoneCase fun y o => InSlot y o.req ∧ o.status = 0 ∧ o.ack = none ∧ o.sink = 0) ∧
    (DoneCase fun y o => InSlot y o.req ∧ o.status = 0 ∧ o.ack = none ∧ o.sink = 1) ∧
    (DoneCase fun y o => InSlot y o.req ∧ o.status = 0 ∧ o.ack = some 7 ∧ o.acks = 1 ∧ 2 ≤ o.sink) ∧
    (DoneCase fun y o => InSlot y o.req ∧ o.status ≠ 0 ∧ o.st = 2 ∧ o.ack = none ∧ 2 ≤ o.sink ∧ o.trap = false) ∧
    (DoneCase fun y o => InSlot y o.req ∧ o.status ≠ 0 ∧ o.st = 2 ∧ o.ack = none ∧ 2 ≤ o.sink ∧ o.trap = true) ∧
    (∃ (s : State) (ta : Nat) (id : W32) (l : List W32), (s.slot ta).copTrap = id :: l ∧ (s.slot ta).st = .running) ∧
    (∃ (s : State) (ctx grp op : Nat) (c : Ctx) (outside : List CollPart) (ms : List (Nat × Nat)), s.ctx ctx = some c ∧ s.groupOf c grp = some ms ∧
      s.collParts ctx grp op outside ms = none) ∧
    (CommitCase fun _ k _ _ => k.writes = false) ∧
    (CommitCase fun _ k _ bs => k.writes = true ∧ bs.1.length = 8 ∧ k.dplan = [(0x100, 8)]) ∧
    (∃ (s : State) (o : EngOp) (k : CollInfo), s.collOps 0 0 0 = [(o, k)] ∧ o.st = 1 ∧ k.since + 1000000 ≤ s.time) ∧
    ∃ (s : State) (o : EngOp) (k : CollInfo), s.collOps 0 0 0 = [(o, k)] ∧ o.st = 1 ∧ s.time < k.since + 1000000 := by
  refine ⟨⟨run id, 0, rfl⟩, ⟨rowOp 0x40000000 0x100, engined (rowOp 0x40000000 0x100), 0, _, _, rfl, rfl, rfl, err_ex _ (by decide +kernel)⟩, ?_, ?_,
    doneCase_of (doneOp 0 2 false none 0) _ rfl (by decide +kernel) rfl (by decide), doneCase_of (doneOp 0 0 false none 0) _ rfl (by decide +kernel) rfl (by decide),
    doneCase_of (doneOp 0 1 false none 0) _ rfl (by decide +kernel) rfl (by decide), doneCase_of (doneOp 0 2 false (some 7) 1) _ rfl (by decide +kernel) rfl (by decide),
    doneCase_of (doneOp 2 2 false none 0) _ rfl (by decide +kernel) rfl (by decide), doneCase_of (doneOp 2 2 true none 0) _ rfl (by decide +kernel) rfl (by decide),
    ⟨run fun sl => { sl with copTrap := [1] }, 0, 1, [], rfl, rfl⟩,
    ⟨committing (commitOf 0 0), 0, 0, 0, grouped, [], [(0, 0), (5, 0)], rfl, by decide +kernel, by decide +kernel⟩,
    commitCase_of (commitOf 0 0) _ (by decide +kernel) (by decide +kernel) (by decide +kernel) (by decide),
    commitCase_of { commitOf 1 0x100 with dplan := [(0x100, 8)] } _ (by decide +kernel) (by decide +kernel) (by decide +kernel)
      ⟨by decide, by decide +kernel, rfl⟩,
    ⟨{ committing (commitOf 0 0) with time := 1000000 }, commitOp (commitOf 0 0), commitOf 0 0, by decide +kernel, rfl, by decide⟩,
    ⟨{ committing (commitOf 0 0) with time := 999999 }, commitOp (commitOf 0 0), commitOf 0 0, by decide +kernel, rfl, by decide⟩⟩
  · obtain ⟨u, sp, h⟩ := ok_ex ((engined (rowOp 0x00FF000000000000 0x40000000)).rowPlaces (rowOp 0x00FF000000000000 0x40000000) false [0x00FF000000000000]) (by decide +kernel)
    have hu : u = (((engined (rowOp 0x00FF000000000000 0x40000000)).rowPlaces (rowOp 0x00FF000000000000 0x40000000) false [0x00FF000000000000])).1 := by rw [h]
    exact ⟨_, engined (rowOp 0x00FF000000000000 0x40000000), 0, _, _, rfl, rfl, rfl, u, sp, h, hu ▸ err_ex _ (by decide +kernel)⟩
  · obtain ⟨u, sp, h⟩ := ok_ex ((engined (rowOp 0x00FF000000000000 0x100)).rowPlaces (rowOp 0x00FF000000000000 0x100) false [0x00FF000000000000]) (by decide +kernel)
    have hu : u = (((engined (rowOp 0x00FF000000000000 0x100)).rowPlaces (rowOp 0x00FF000000000000 0x100) false [0x00FF000000000000])).1 := by rw [h]
    exact ⟨_, engined (rowOp 0x00FF000000000000 0x100), 0, _, _, rfl, rfl, rfl, u, sp, h, hu ▸ ok_ex _ (by decide +kernel)⟩

/-- A frozen slot with a packet. -/
def frozenBy (ta : Nat) (f : Slot → Slot) : State :=
  { reader with slots := [(ta, f { st := .frozen, uid := 1, pkt := { taddr := BitVec.ofNat 64 ta, fcode := 1, ilen := 4 } })] }

/-- A handler slot that RXFULL froze, with an operand. -/
def jammed (outarg : Word) : State :=
  { reader with slots := [(4, { st := .frozen, outarg := outarg, pkt := { taddr := 4, fcode := 0x0F } })], cores := [(0, { rxfull := true })] }

/-- Two parked stores of the task: the older on the same page or on another. -/
def parkedTwo (va : Word) : State :=
  { frozenBy 0 (fun sl => { sl with outarg := 3 }) with cores := [(0, { rpq := [{ parkedAt va with no := 2 }, { parkedAt 0x40000000 with seq := 1 }] })] }

theorem test_witness_Outcomes :
    (∃ (s : State) (ta q : Nat), s.pairOf (ta % 65536) = q ∧ s.isRxfull q = true ∧ (s.slot q).outarg.toNat % 128 ≠ 0) ∧
    (∃ (s : State) (ta q : Nat), s.pairOf (ta % 65536) = q ∧ s.isRxfull q = true ∧ hbmSize < (s.slot q).outarg.toNat + 131072 ∧
      (s.slot q).outarg.toNat % 128 = 0) ∧
    (∃ (s : State) (ta q : Nat), s.pairOf (ta % 65536) = q ∧ s.isRxfull q = true ∧ (s.slot q).outarg.toNat % 128 = 0 ∧
      (s.slot q).outarg.toNat + 131072 ≤ hbmSize ∧ (s.core (taCore q)).held = []) ∧
    (∃ (s : State) (ta q : Nat), s.pairOf (ta % 65536) = q ∧ s.isRxfull q = false ∧ (s.slot q).st ≠ .frozen) ∧
    (∃ (s : State) (ta q : Nat) (u : State), s.pairOf (ta % 65536) = q ∧ s.isRxfull q = false ∧ (s.slot q).st = .frozen ∧ u = s.outStat q 0 ∧
      (u.slot q).sptBad = none ∧ (u.slot q).pkt.ilen = 0 ∧ (u.slot q).fcont ≠ 0) ∧
    (∃ (s : State) (ta q : Nat) (u : State), s.pairOf (ta % 65536) = q ∧ s.isRxfull q = false ∧ (s.slot q).st = .frozen ∧ u = s.outStat q 0 ∧
      (u.slot q).pkt.ilen ≠ 0 ∧ (u.slot q).fcont = 0 ∧ taHnd q = false) ∧
    (∃ (s : State) (ta q : Nat), s.pairOf (ta % 65536) = q ∧ s.isRxfull q = false ∧ (s.slot q).st = .idle) ∧
    (∃ (s : State) (ta q : Nat), s.pairOf (ta % 65536) = q ∧ s.isRxfull q = false ∧ (s.slot q).st ≠ .idle ∧ s.outEntry q = none) ∧
    (∃ (s : State) (ta q : Nat) (e : RpqEntry) (u : State), s.pairOf (ta % 65536) = q ∧ s.isRxfull q = false ∧ (s.slot q).st ≠ .idle ∧
      s.outEntry q = some e ∧ u = s.outStat q 0 ∧ u.rpqBehind (taCore q) e = true) ∧
    ∃ (s : State) (ta q : Nat) (e : RpqEntry) (u : State), s.pairOf (ta % 65536) = q ∧ s.isRxfull q = false ∧ (s.slot q).st ≠ .idle ∧
      s.outEntry q = some e ∧ u = s.outStat q 0 ∧ u.rpqBehind (taCore q) e = false :=
  ⟨⟨jammed 1, 4, 4, rfl, rfl, by decide⟩, ⟨jammed 0xFFFFFFFFFFFFFF80, 4, 4, rfl, rfl, by decide, by decide⟩,
    ⟨jammed 0, 65540, 4, rfl, rfl, by decide, by decide, rfl⟩, ⟨run id, 0, 0, rfl, rfl, by decide⟩,
    ⟨frozenBy 0 (fun sl => { sl with fcont := 64, pkt := {} }), 0, 0, _, rfl, rfl, rfl, rfl, rfl, rfl, by decide⟩,
    ⟨frozenBy 0 id, 0, 0, _, rfl, rfl, rfl, rfl, by decide, rfl, rfl⟩, ⟨{}, 0, 0, rfl, rfl, rfl⟩, ⟨run id, 0, 0, rfl, rfl, by decide, rfl⟩,
    ⟨parkedTwo 0x40000008, 0, 0, { parkedAt 0x40000000 with seq := 1 }, _, rfl, rfl, by decide, by decide +kernel, rfl, by decide +kernel⟩,
    ⟨parkedTwo 0x50000000, 0, 0, { parkedAt 0x40000000 with seq := 1 }, _, rfl, rfl, by decide, by decide +kernel, rfl, by decide +kernel⟩⟩

/-- Context 0 with duties, a policy and a pool of frames at 0x100000. -/
def served (duty policy : Byte) : Ctx :=
  { desc := [0, 0, 1] ++ List.replicate 0x2D 0 ++ [duty, 0, 0, 0, policy, 0, 0, 0] ++ List.replicate 0x3A 0 ++ [0x10], descPA := 0 }

/-- The first page is a DEMAND entry, and the pool holds one frame. -/
def demandMem : List Host.Cell :=
  [(0x10000, 1), (0x10002, 2), (0x20000, 1), (0x20002, 3), (0x30000, 1), (0x30002, 4), (0x40001, 8), (0x100000, 1), (0x10000A, 0x20)]

def packetOf (ta : Nat) (code : Nat) (va : Word) (park : Bool) : Packet :=
  { taddr := BitVec.ofNat 64 ta, fcode := code, faddr := va, park := park, rpqe := 3 }

def faulting (duty policy : Byte) (p : Packet) : State :=
  { reader with mem := demandMem, ctxs := [(0, some (served duty policy))]
                slots := [(p.taddr.toNat, { st := .frozen, uid := 1, pkt := p })]
                cores := [(0, { rpq := [{ parkedAt p.faddr with fva := p.faddr }] })] }

def ServeCase (P : State → Packet → Nat → Ctx → Prop) : Prop :=
  ∃ (s : State) (p : Packet) (ta : Nat) (c : Ctx), p.taddr.toNat % 65536 = ta ∧ s.pairOf ta = ta ∧ s.ctx p.ctxn = some c ∧ P s p ta c

theorem serveCase_of (duty policy : Byte) (ta code : Nat) (va : Word) (park : Bool) (P : State → Packet → Nat → Ctx → Prop)
    (h : (packetOf ta code va park).taddr.toNat % 65536 = ta) (hq : (faulting duty policy (packetOf ta code va park)).pairOf ta = ta)
    (hP : P (faulting duty policy (packetOf ta code va park)) (packetOf ta code va park) ta (served duty policy)) : ServeCase P :=
  ⟨_, _, _, _, h, hq, rfl, hP⟩

/-- A packet that no longer stands; each duty and policy, for a task and a handler; pages that hardware may fill and may not. -/
theorem test_witness_FaultService :
    (∃ (s : State) (p : Packet) (ta : Nat) (c : Ctx), p.taddr.toNat % 65536 = ta ∧ s.pairOf ta = ta ∧ s.ctx p.ctxn = some c ∧ s.pktLive p = false) ∧
    (ServeCase fun s p _ c => s.pktLive p = true ∧ p.fcode ≠ 6 ∧ c.duty 0 = true) ∧
    (ServeCase fun s p _ c => s.pktLive p = true ∧ p.fcode ≠ 6 ∧ c.duty 0 = false ∧ p.fcode = 0x0F) ∧
    (ServeCase fun s p ta c => s.pktLive p = true ∧ p.fcode ≠ 6 ∧ c.duty 0 = false ∧ p.fcode ≠ 0x0F ∧ taHnd ta = true) ∧
    (ServeCase fun s p ta c => s.pktLive p = true ∧ p.fcode ≠ 6 ∧ c.duty 0 = false ∧ p.fcode ≠ 0x0F ∧ taHnd ta = false ∧ c.policy p.fcode = false) ∧
    (ServeCase fun s p ta c => s.pktLive p = true ∧ p.fcode ≠ 6 ∧ c.duty 0 = false ∧ p.fcode ≠ 0x0F ∧ taHnd ta = false ∧ c.policy p.fcode = true) ∧
    (ServeCase fun s p _ c => s.pktLive p = true ∧ p.fcode = 6 ∧ c.duty 1 = true) ∧
    (ServeCase fun s p _ c => s.pktLive p = true ∧ p.fcode = 6 ∧ c.duty 1 = false ∧ p.park = false ∧ ∃ u, s.pageFill c p.faddr = some u) ∧
    (ServeCase fun s p ta c => s.pktLive p = true ∧ p.fcode = 6 ∧ c.duty 1 = false ∧ p.park = true ∧
      (∃ e, (s.core (taCore ta)).rpq.find? (fun x => x.no == p.rpqe) = some e) ∧ ∃ u, s.pageFill c p.faddr = some u) ∧
    (ServeCase fun s p ta c => s.pktLive p = true ∧ p.fcode = 6 ∧ c.duty 1 = false ∧ p.park = true ∧
      (∃ e, (s.core (taCore ta)).rpq.find? (fun x => x.no == p.rpqe) = some e) ∧ s.pageFill c p.faddr = none) ∧
    (ServeCase fun s p ta c => s.pktLive p = true ∧ p.fcode = 6 ∧ c.duty 1 = false ∧ s.pageFill c p.faddr = none ∧ p.park = false ∧ c.duty 0 = false ∧
      (taHnd ta = true ∨ c.policy 6 = false)) ∧
    (ServeCase fun s p ta c => s.pktLive p = true ∧ p.fcode = 6 ∧ c.duty 1 = false ∧ s.pageFill c p.faddr = none ∧ p.park = false ∧ c.duty 0 = false ∧
      taHnd ta = false ∧ c.policy 6 = true) := by
  refine ⟨⟨reader, {}, 0, _, rfl, rfl, rfl, rfl⟩, serveCase_of 1 0 0 1 0 false _ rfl rfl ⟨by decide +kernel, by decide, by decide +kernel⟩,
    serveCase_of 0 0 4 0x0F 0 false _ rfl rfl ⟨by decide +kernel, by decide, by decide +kernel, rfl⟩,
    serveCase_of 0 0 4 1 0 false _ rfl rfl ⟨by decide +kernel, by decide, by decide +kernel, by decide, rfl⟩,
    serveCase_of 0 0 0 1 0 false _ rfl rfl ⟨by decide +kernel, by decide, by decide +kernel, by decide, rfl, by decide +kernel⟩,
    serveCase_of 0 2 0 1 0 false _ rfl rfl ⟨by decide +kernel, by decide, by decide +kernel, by decide, rfl, by decide +kernel⟩,
    serveCase_of 2 0 0 6 0 false _ rfl rfl ⟨by decide +kernel, rfl, by decide +kernel⟩,
    serveCase_of 0 0 0 6 0 false _ rfl rfl ⟨by decide +kernel, rfl, by decide +kernel, rfl, Option.isSome_iff_exists.1 (by decide +kernel)⟩,
    serveCase_of 0 0 0 6 0 true _ rfl rfl ⟨by decide +kernel, rfl, by decide +kernel, rfl, ⟨_, rfl⟩, Option.isSome_iff_exists.1 (by decide +kernel)⟩,
    serveCase_of 0 0 0 6 0x10000 true _ rfl rfl ⟨by decide +kernel, rfl, by decide +kernel, rfl, ⟨_, rfl⟩, Option.isNone_iff_eq_none.1 (by decide +kernel)⟩,
    serveCase_of 0 0 0 6 0x10000 false _ rfl rfl ⟨by decide +kernel, rfl, by decide +kernel, Option.isNone_iff_eq_none.1 (by decide +kernel), rfl, by decide +kernel,
      .inr (by decide +kernel)⟩,
    serveCase_of 0 0x40 0 6 0x10000 false _ rfl rfl ⟨by decide +kernel, rfl, by decide +kernel, Option.isNone_iff_eq_none.1 (by decide +kernel), rfl, by decide +kernel,
      rfl, by decide +kernel⟩⟩

def aTask : Work := { ctx := 0, addr := 64 }
def aGang : Work := { ctx := 0, addr := 64, gang := some { w := 4, h := 2, qlm := 0 } }

/-- The reader's context, with a task in every slot of a core when full, and a deque. -/
def sched (full : Bool) (frozen : List Nat) (lqlm : Byte) (k : CoreSt) : State :=
  { reader with ctxs := [(0, some { desc := [0, 0, 1] ++ List.replicate 0x29 0 ++ [0, (if lqlm = 0 then 0 else 0x10), lqlm, 0], descPA := 0, frozen := frozen })]
                slots := if full then (List.range 4).map fun i => (i, { st := .running, uid := 1 + i }) else [(0, { st := .running, uid := 1 })]
                cores := [(0, k)] }

def withDie (d : DieSt) (f : State → State) : State := f { reader with dies := [(0, d)] }

/-- Every cluster of die 0 without its first quad. -/
def noQuads : Store W32 := (List.range 64).map fun cl => ((cl / 4 * 2) * 16 + cl % 4 * 4, 0)

/-- Nothing to start; a record with no slot free, of a frozen graph, with no QLM free, and that starts; the same record on another core; a gang that
fits, of a frozen graph, and that does not fit; a request too young, one whose die is reserved, one with no rectangle, and one with some. -/
theorem test_witness_Scheduling :
    (∃ (s : State) (core : Nat), s.nextWork core = none) ∧
    (∃ (s : State) (core : Nat) (w : Work), s.nextWork core = some w ∧ s.looseSlot core w.task.lash = none) ∧
    (∃ (s : State) (core : Nat) (w : Work) (ta : Nat), s.nextWork core = some w ∧ s.looseSlot core w.task.lash = some ta ∧
      s.graphFrozen w.ctx w.task.graph = true) ∧
    (∃ (s : State) (core : Nat) (w : Work) (ta : Nat) (c : Ctx), s.nextWork core = some w ∧ s.looseSlot core w.task.lash = some ta ∧
      s.graphFrozen w.ctx w.task.graph = false ∧ s.ctx w.ctx = some c ∧ s.offsets [core / 4] c.lqlm false = []) ∧
    (∃ (s : State) (core : Nat) (w : Work) (ta : Nat) (c : Ctx), s.nextWork core = some w ∧ s.looseSlot core w.task.lash = some ta ∧
      s.graphFrozen w.ctx w.task.graph = false ∧ s.ctx w.ctx = some c ∧ s.offsets [core / 4] c.lqlm false ≠ [] ∧ w.task.lash = false ∧ w.task.spt = 0 ∧
      w.replay = false) ∧
    (∃ (s : State) (core victim : Nat) (w : Work) (ta : Nat), s.nextWork core = none ∧ victim ∈ s.victims core ∧ s.bottom victim = some w ∧
      w.replay = false ∧ s.looseSlot core w.task.lash = some ta) ∧
    (∃ (s : State) (core victim : Nat), victim ∉ s.victims core) ∧
    (∃ (s : State) (die : Nat) (w : Work) (g : GangRec), (s.die die).placer = [w] ∧ s.mayStart w.ctx = true ∧ w.gang = some g ∧
      (∃ x, s.findPlace die w.ctx w.addr g (g.lash || w.task.lash) false w.replay = some x) ∧ s.graphFrozen w.ctx w.task.graph = false) ∧
    (∃ (s : State) (die : Nat) (w : Work) (g : GangRec), (s.die die).placer = [w] ∧ s.mayStart w.ctx = true ∧ w.gang = some g ∧
      (∃ x, s.findPlace die w.ctx w.addr g (g.lash || w.task.lash) false w.replay = some x) ∧ s.graphFrozen w.ctx w.task.graph = true) ∧
    (∃ (s : State) (die : Nat) (w : Work) (g : GangRec), (s.die die).placer = [w] ∧ s.mayStart w.ctx = true ∧ w.gang = some g ∧
      s.findPlace die w.ctx w.addr g (g.lash || w.task.lash) false w.replay = none ∧ s.findPlace die w.ctx w.addr g (g.lash || w.task.lash) true w.replay = none) ∧
    (∃ (s : State) (die : Nat) (w : Work) (g : GangRec) (c : Ctx), (s.die die).placer = [w] ∧ w.gang = some g ∧ s.ctx w.ctx = some c ∧ s.mayStart w.ctx = true ∧
      (∀ u ∈ s.units, ¬ (u.stopped = true ∧ u.die = die ∧ u.gang.isSome = true)) ∧
      s.time = w.since + c.aging) ∧
    (∃ (s : State) (die : Nat) (w : Work) (g : GangRec) (c : Ctx), (s.die die).placer = [w] ∧ w.gang = some g ∧ s.ctx w.ctx = some c ∧ s.mayStart w.ctx = true ∧
      (∀ u ∈ s.units, ¬ (u.stopped = true ∧ u.die = die ∧ u.gang.isSome = true)) ∧
      w.since + c.aging < s.time ∧ (s.die die).reserved = none ∧ ∀ o, ¬ MayReserve s die g o) ∧
    (∃ (s : State) (die : Nat) (w : Work) (g : GangRec) (c : Ctx), (s.die die).placer = [w] ∧ w.gang = some g ∧ s.ctx w.ctx = some c ∧ s.mayStart w.ctx = true ∧
      (∀ u ∈ s.units, ¬ (u.stopped = true ∧ u.die = die ∧ u.gang.isSome = true)) ∧
      w.since + c.aging < s.time ∧ (s.die die).reserved = none ∧ ∃ o, MayReserve s die g o) := by
  refine ⟨⟨run id, 0, rfl⟩, ⟨sched true [] 0 { normal := [aTask] }, 0, aTask, by decide +kernel, by decide +kernel⟩,
    ⟨sched false [0] 0 { normal := [aTask] }, 0, aTask, 1, by decide +kernel, by decide +kernel, by decide +kernel⟩,
    ⟨sched false [] 0x0F { urgent := [aTask] }, 0, aTask, 1, _, by decide +kernel, by decide +kernel, by decide +kernel, rfl, by decide +kernel⟩,
    ⟨sched false [] 0 { urgent := [aTask] }, 0, aTask, 1, _, by decide +kernel, by decide +kernel, by decide +kernel, rfl, by decide +kernel, rfl, rfl, rfl⟩,
    ⟨sched false [] 0 { urgent := [aTask] }, 1, 0, aTask, 8, by decide +kernel, by decide +kernel, by decide +kernel, rfl, by decide +kernel⟩,
    ⟨sched false [] 0 { urgent := [aTask] }, 0, 1, by decide +kernel⟩,
    ⟨withDie { placer := [aGang] } id, 0, aGang, _, rfl, rfl, rfl, Option.isSome_iff_exists.1 (by decide +kernel), rfl⟩,
    ⟨{ sched false [0] 0 {} with dies := [(0, { placer := [aGang] })] }, 0, aGang, _, rfl, rfl, rfl, Option.isSome_iff_exists.1 (by decide +kernel), rfl⟩,
    ⟨withDie { placer := [aGang], vqt := noQuads } id, 0, aGang, _, rfl, rfl, rfl, by decide +kernel, by decide +kernel⟩,
    ⟨withDie { placer := [aGang] } fun s => { s with time := 50000 }, 0, aGang, _, _, rfl, rfl, rfl, rfl, by decide +kernel, by decide +kernel⟩,
    ⟨withDie { placer := [aGang], vqt := noQuads } fun s => { s with time := 50001 }, 0, aGang, _, _, rfl, rfl, rfl, rfl, by decide +kernel, by decide +kernel, rfl, ?_⟩,
    ⟨withDie { placer := [aGang] } fun s => { s with time := 50001 }, 0, aGang, _, _, rfl, rfl, rfl, rfl, by decide +kernel, by decide +kernel, rfl, 0, ?_, ?_⟩⟩
  · rintro o ⟨ho, hq⟩
    have h : ((origins 4 2).all fun o => !(rectQuads 0 o { w := 4, h := 2, qlm := 0 }).all fun q =>
        (withDie { placer := [aGang], vqt := noQuads } fun s => { s with time := 50001 }).present 0 (q % 512)) = true := by decide +kernel
    have h := List.all_eq_true.1 h o ho
    rw [Bool.not_eq_true', List.all_eq_false] at h
    obtain ⟨q, hm, hn⟩ := h
    exact hn (hq q hm)
  · decide +kernel
  · decide +kernel

/-- A unit of one task, or of two of which one is frozen. -/
def unitOfTwo (stop : Bool) (preempt : Option (Nat × Bool)) (st : SlotSt) : State :=
  { reader with ctxs := [(0, some { desc := [0, 0, 1], descPA := 0, stopped := stop })]
                slots := [(0, { st := .running, uid := 1 }), (1, { st := st, uid := 2 })]
                units := [{ ctx := 0, addr := 0, members := [⟨0, 0, 1, false⟩, ⟨1, 1, 2, false⟩], preempt := preempt }] }

def stoppedUnit (stop : Bool) : State :=
  { reader with ctxs := [(0, some { desc := [0, 0, 1], descPA := 0, stopped := stop })], slots := []
                units := [{ ctx := 0, addr := 64, members := [⟨0, 0, 1, false⟩], stopped := true }] }

theorem test_witness_StoppingAndResuming :
    (∃ (s : State) (ta : Nat), (s.slot ta).st ≠ .running) ∧
    (∃ (s : State) (ta : Nat), (s.slot ta).st = .running ∧ (s.slot ta).budget = 0 ∧ (s.slot ta).partner = none ∧ s.unitOf ta = none) ∧
    (∃ (s : State) (ta : Nat) (u : UnitSt), (s.slot ta).st = .running ∧ (s.slot ta).budget = 0 ∧ (s.slot ta).partner = none ∧ taHnd ta = false ∧
      s.unitOf ta = some u ∧ s.quiescing u.ctx = true) ∧
    (∃ (s : State) (ta : Nat) (u : UnitSt), (s.slot ta).st = .running ∧ (s.slot ta).budget = 0 ∧ (s.slot ta).partner = none ∧ taHnd ta = false ∧
      s.unitOf ta = some u ∧ s.quiescing u.ctx = false ∧ u.preempt ≠ none ∧ s.anyFrozen u = false) ∧
    (∃ (s : State) (ta : Nat) (u : UnitSt), (s.slot ta).st = .running ∧ (s.slot ta).budget = 0 ∧ (s.slot ta).partner = none ∧ taHnd ta = false ∧
      s.unitOf ta = some u ∧ s.quiescing u.ctx = false ∧ u.preempt ≠ none ∧ s.anyFrozen u = true) ∧
    (∃ (s : State) (ta : Nat) (u : UnitSt), (s.slot ta).st = .running ∧ (s.slot ta).budget = 0 ∧ (s.slot ta).partner = none ∧ taHnd ta = false ∧
      s.unitOf ta = some u ∧ s.quiescing u.ctx = false ∧ u.preempt = none) ∧
    (∃ (s : State) (ctx : Nat) (addr : Word) (u : UnitSt) (r : Room), s.units.find? (fun u => u.is ctx addr && u.stopped) = some u ∧
      s.resumeRoom u = some r ∧ s.rpqFits u r = true) ∧
    (∃ (s : State) (ctx : Nat) (addr : Word) (u : UnitSt), s.units.find? (fun u => u.is ctx addr && u.stopped) = some u ∧ s.resumeRoom u = none) ∧
    (∃ (s : State) (ta : Nat), (s.slot ta).paired = true ∧ (s.slot ta).st = .running ∧ (s.slot ta).partner = none ∧ (s.slot ta).pairst.toNat / 8 % 4 < 2) ∧
    ∃ (s : State) (ta : Nat), (s.slot ta).paired = true ∧ (s.slot ta).st = .running ∧ (s.slot ta).partner = none ∧ 2 ≤ (s.slot ta).pairst.toNat / 8 % 4 ∧
      taHnd ta = false :=
  ⟨⟨{}, 0, by decide⟩, ⟨run id, 0, rfl, rfl, rfl, rfl⟩, ⟨unitOfTwo true none .running, 0, _, rfl, rfl, rfl, rfl, rfl, rfl⟩,
    ⟨unitOfTwo false (some (0, false)) .running, 0, _, rfl, rfl, rfl, rfl, rfl, rfl, by decide, by decide +kernel⟩,
    ⟨unitOfTwo false (some (0, false)) .frozen, 0, _, rfl, rfl, rfl, rfl, rfl, rfl, by decide, by decide +kernel⟩,
    ⟨unitOfTwo false none .running, 0, _, rfl, rfl, rfl, rfl, rfl, rfl, rfl⟩,
    ⟨stoppedUnit false, 0, 64, _, ⟨0, 0, [(0, 0)]⟩, rfl, by decide +kernel, by decide +kernel⟩, ⟨stoppedUnit true, 0, 64, _, rfl, by decide +kernel⟩,
    ⟨run fun sl => { sl with pairst := 9 }, 0, rfl, rfl, rfl, by decide⟩, ⟨run fun sl => { sl with pairst := 17 }, 0, rfl, rfl, rfl, by decide, rfl⟩⟩

/-- An error of the class, the cause and the kind of unit, with its granule. -/
def anError (cls cause ukind : Nat) (granule : Option Nat) : ErrReport := ⟨cls, cause, ukind, 3, 0, 0, 0, 0, granule, 0⟩

/-- The unit has had so many corrected errors. -/
def worn (n : Nat) : State := { reader with ras := { hist := [(unitKey 0 0 1 3, (n, 0))] } }

def retiring (b : RetireBlk) : State := { reader with ras := { retire := [(0, b)] } }

/-- A known error and a new one; each class and unit kind, with a granule and without, with the host's duty and without; a unit at its limit and over
it; a retirement before its checks, after them, at its first line, past its last, and done. -/
theorem test_witness_ErrorsAndRetirement :
    (∃ (s : State) (e : ErrReport) (i : Nat), (List.range 256).find? (fun i => ((s.bank e.die).rec' i).same (s.recOf e)) = some i) ∧
    (∃ (s : State) (e : ErrReport) (i : Nat), (List.range 256).find? (fun i => ((s.bank e.die).rec' i).same (s.recOf e)) = none ∧
      (s.bank e.die).place = some i) ∧
    (∃ e : ErrReport, e.cause ≠ 4 ∧ e.cls = 1 ∧ (e.ukind = 0 ∨ 7 ≤ e.ukind) ∧ e.granule = none ∧ e.mode.getLsbD 1 = false) ∧
    (∃ e : ErrReport, e.cause ≠ 4 ∧ e.cls = 1 ∧ (e.ukind = 0 ∨ 7 ≤ e.ukind) ∧ e.granule = none ∧ e.mode.getLsbD 1 = true) ∧
    (∃ (e : ErrReport) (k : Nat), e.cause ≠ 4 ∧ e.cls = 1 ∧ (e.ukind = 0 ∨ 7 ≤ e.ukind) ∧ e.granule = some k ∧ e.cause ≠ 1 ∧
      e.mode.getLsbD 1 = false) ∧
    (∃ (s : State) (e : ErrReport) (x y : State), x = (s.record e).1 ∧ e.cause ≠ 4 ∧ e.cls = 0 ∧ 1 ≤ e.ukind ∧ e.ukind ≤ 6 ∧ e.granule = none ∧
      e.mode.getLsbD 1 = false ∧ y = x.histAdd (histOf x e) 1 0 ∧ y.overLimit (histOf x e) = false) ∧
    (∃ (s : State) (e : ErrReport) (x y : State), x = (s.record e).1 ∧ e.cause ≠ 4 ∧ e.cls = 0 ∧ 1 ≤ e.ukind ∧ e.ukind ≤ 6 ∧ e.granule = none ∧
      e.mode.getLsbD 1 = false ∧ y = x.histAdd (histOf x e) 1 0 ∧ y.overLimit (histOf x e) = true) ∧
    (∃ (s : State) (e : ErrReport) (x : State), x = (s.record e).1 ∧ e.cause ≠ 4 ∧ e.cls = 2 ∧ 7 ≤ e.ukind ∧ e.granule = none ∧
      e.mode.getLsbD 1 = false) ∧
    (∃ (s : State) (b : RetireBlk), b = s.retBlk 0 ∧ b.state = 0 ∧ b.src.toNat % 65536 ≠ 0) ∧
    (∃ (s : State) (b : RetireBlk), b = s.retBlk 0 ∧ b.state = 0 ∧ b.src.toNat % 65536 = 0 ∧ b.dst.toNat % 65536 = 0 ∧ inHbm b.src.toNat 65536 = true ∧
      inHbm b.dst.toNat 65536 = true ∧ b.remap ≠ 1024) ∧
    (∃ (s : State) (b : RetireBlk), b = s.retBlk 0 ∧ b.state = 1 ∧ b.wmark < 512) ∧ (∃ (s : State) (b : RetireBlk), b = s.retBlk 0 ∧ b.state = 1 ∧ 512 ≤ b.wmark) ∧
    (∃ (s : State) (b : RetireBlk), b = s.retBlk 0 ∧ b.state = 2) ∧ ∃ (s : State) (b : RetireBlk), b = s.retBlk 0 ∧ b.state ≠ 2 :=
  ⟨⟨(reader.record (anError 1 2 1 none)).1, anError 1 2 1 none, 0, by decide +kernel⟩, ⟨reader, anError 1 2 1 none, 0, by decide +kernel, by decide +kernel⟩,
    ⟨anError 1 2 7 none, by decide, rfl, by decide, rfl, rfl⟩, ⟨{ anError 1 2 0 none with mode := 2 }, by decide, rfl, by decide, rfl, rfl⟩,
    ⟨anError 1 2 8 (some 64), 64, by decide, rfl, by decide, rfl, by decide, rfl⟩,
    ⟨worn 63, anError 0 2 1 none, _, _, rfl, by decide, rfl, by decide, by decide, rfl, rfl, rfl, by decide +kernel⟩,
    ⟨worn 64, anError 0 2 1 none, _, _, rfl, by decide, rfl, by decide, by decide, rfl, rfl, rfl, by decide +kernel⟩,
    ⟨reader, anError 2 5 7 none, _, rfl, by decide, rfl, by decide, rfl, rfl⟩,
    ⟨retiring { src := 1 }, _, rfl, rfl, by decide⟩, ⟨retiring { src := 0x20000, dst := 0x40000 }, _, rfl, rfl, by decide, by decide, by decide, by decide, by decide⟩,
    ⟨retiring { state := 1, wmark := 511 }, _, rfl, rfl, by decide⟩, ⟨retiring { state := 1, wmark := 512 }, _, rfl, rfl, by decide⟩,
    ⟨retiring { state := 2 }, _, rfl, rfl⟩, ⟨retiring {}, _, rfl, by decide⟩⟩

def heated (f : RasSt → RasSt) : State := { reader with ras := f {} }

/-- Rows with and without an offset; quads gated, idle and at work; a heat that stands and one that does not; a move too soon, to a quad that may be a
target, to one that may not while another may, and where none may; ports. -/
theorem test_witness_PowerAndHeat :
    (∃ (s : State) (r : RailRow), r = s.row (rowKey 3 131) ∧ r.voff = 0) ∧ (∃ (s : State) (r : RailRow), r = s.row (rowKey 3 131) ∧ r.voff ≠ 0) ∧
    (∃ (s : State) (k : Nat) (r : RailRow), (k, r) ∈ s.ras.rows) ∧
    (∃ (s : State) (die pq : Nat), quadKey die pq ∉ s.ras.gated ∧ ∀ v, s.virtOf die pq = some v → s.quadIdle die v = true) ∧
    (∃ (s : State) (die pq v : Nat), s.virtOf die pq = some v ∧ s.quadIdle die v = false) ∧ (∃ (s : State) (die pq : Nat), quadKey die pq ∈ s.ras.gated ∧ s.host.duty.getLsbD 1 = false) ∧
    (∃ (s : State) (die pq : Nat), quadKey die pq ∈ s.ras.gated ∧ s.host.duty.getLsbD 1 = true) ∧
    (∃ s : State, s.ras.hot = false ∧ s.host.duty.getLsbD 3 = false) ∧ (∃ s : State, s.ras.hot = true) ∧
    (∃ (s : State) (die vq last : Nat), last = Store.get 0 s.ras.moved (die * 512 + vq) ∧ last ≠ 0 ∧ s.time + 1 < last + 1000000) ∧
    (∃ (s : State) (die vq target last : Nat), last = Store.get 0 s.ras.moved (die * 512 + vq) ∧ s.present die vq = true ∧ (last = 0 ∨ last + 1000000 ≤ s.time + 1) ∧
      s.moveTarget die target = true ∧ s.physOf die vq ≠ target) ∧
    (∃ (s : State) (die vq target last p : Nat), last = Store.get 0 s.ras.moved (die * 512 + vq) ∧ s.present die vq = true ∧
      (last = 0 ∨ last + 1000000 ≤ s.time + 1) ∧ s.moveTarget die target = false ∧ p ∈ physQuads ∧ s.moveTarget die p = true ∧ s.physOf die vq ≠ p) ∧
    (∃ (s : State) (die vq last : Nat) (r : RailRow), last = Store.get 0 s.ras.moved (die * 512 + vq) ∧ s.present die vq = true ∧
      (last = 0 ∨ last + 1000000 ≤ s.time + 1) ∧ (∀ p, s.moveTarget die p = false) ∧ r = s.row (rowKey die (rowOf (s.physOf die vq))) ∧ r.thcap < 48) ∧
    ∃ port : Nat, port < 16 := by
  refine ⟨⟨reader, _, rfl, rfl⟩, ⟨heated fun r => { r with rows := [(527, { voff := 3 })] }, _, rfl, by decide⟩,
    ⟨heated fun r => { r with rows := [(527, { voff := 3 })] }, 527, _, List.mem_singleton.2 rfl⟩, ⟨reader, 0, 1, by decide, ?_⟩,
    ⟨reader, 0, 0, 0, by decide +kernel, by decide +kernel⟩, ⟨heated fun r => { r with gated := [5] }, 0, 5, by decide, rfl⟩,
    ⟨{ (heated fun r => { r with gated := [1024] }) with host := { duty := 2 } }, 1, 0, by decide, rfl⟩, ⟨reader, rfl, rfl⟩,
    ⟨heated fun r => { r with hot := true }, rfl⟩, ⟨heated fun r => { r with moved := [(0, 1)] }, 0, 0, _, rfl, by decide, by decide⟩,
    ⟨reader, 0, 0, 527, _, rfl, rfl, .inl rfl, by decide +kernel, by decide +kernel⟩,
    ⟨reader, 0, 0, 528, _, 1, rfl, rfl, .inl rfl, by decide +kernel, by decide +kernel, by decide +kernel, by decide +kernel⟩,
    ⟨heated fun r => { r with quads := List.range 528 }, 0, 0, _, _, rfl, rfl, .inl rfl, ?_, rfl, by decide +kernel⟩, 15, by decide⟩
  · intro v hv
    have h : reader.virtOf 0 1 = some 1 := by decide +kernel
    rw [h] at hv
    cases hv
    decide +kernel
  · intro p
    by_cases h : p < 528
    · have hm : p ∈ List.range 528 := List.mem_range.2 h
      simp [State.moveTarget, quadKey, heated, h]
    · simp [State.moveTarget, h]

def traced (f : TraceSt → TraceSt) : State := { reader with trace := f { en := true } }

/-- A filter of one instruction at 0x100. -/
def filtered (w : Nat) : State := { traced (fun t => { t with flen := 1, fprog := 0x100 }) with mem := Memory.write [] 0x100 (toBytes 2 w) }

def FilterCase (v : Verdict) : Prop :=
  ∃ (s : State) (r : TraceRec) (time : Nat) (f : Machine.Filter), s.trace.en = true ∧ s.trace.flen ≠ 0 ∧
    s.filterRun (traceWords r time) 257 0 ⟨[], s.trace.var, s.trace.cnt⟩ = (f, v)

def aRecord : TraceRec := ⟨5, 0, 0, 7, 0, 9⟩

theorem filterCase_of (w : Nat) (v : Verdict)
    (h : ((filtered w).filterRun (traceWords aRecord 0) 257 0 ⟨[], (filtered w).trace.var, (filtered w).trace.cnt⟩).2 = v) : FilterCase v :=
  ⟨filtered w, aRecord, 0, _, rfl, by show (1 : Nat) ≠ 0; decide, Prod.ext rfl h⟩

/-- Off; a ring with room, full, and with a LOST record owed; each verdict of a filter; a tail write with nothing owed. -/
theorem test_witness_Tracing :
    (∃ s : State, s.trace.en = false) ∧
    (∃ s : State, s.trace.en = true ∧ s.trace.flen = 0 ∧ ringOpen s ∧ inHbm (s.trace.ring.toNat + 32 * (s.trace.head % 2 ^ s.trace.rsz)) 32 = true) ∧
    (∃ s : State, s.trace.en = true ∧ s.trace.flen = 0 ∧ s.trace.full = true) ∧
    (∃ s : State, s.trace.en = true ∧ s.trace.flen = 0 ∧ s.trace.full = false ∧ s.trace.owed ≠ 0 ∧ s.putLost.trace.full = false) ∧
    FilterCase .drop ∧ FilterCase .keep ∧ FilterCase .trig ∧ FilterCase .ferr ∧ (∃ s : State, s.trace.owed = 0 ∧ s.trace.en = true) :=
  ⟨⟨reader, rfl⟩, ⟨traced id, rfl, rfl, ⟨rfl, by decide +kernel⟩, by decide +kernel⟩, ⟨traced fun t => { t with head := 1 }, rfl, rfl, by decide +kernel⟩,
    ⟨traced fun t => { t with rsz := 1, owed := 1 }, rfl, rfl, by decide +kernel, by decide, by decide +kernel⟩,
    filterCase_of 0x800 _ (by decide +kernel), filterCase_of 0 _ (by decide +kernel), filterCase_of 0x1800 _ (by decide +kernel),
    filterCase_of 0x4000 _ (by decide +kernel), ⟨traced id, rfl, rfl⟩⟩

/-- Window 7. -/
def windowed (duty : Byte) (w : Window) : State := { reader with ctxs := [(0, some (served duty 0))], host := { wins := [(7, w)] } }

theorem pair_of {α β : Type} (x : α × β) (b : β) (h : x.2 = b) : ∃ a, x = (a, b) := ⟨x.1, Prod.ext rfl h⟩

def anItem (sent ok no : Bool) : LaunchItem := ⟨0, 0, 5, sent, ok, no⟩

/-- A window closed, with no credit, and open under both duties; items that wait for the host, that it refused, that are accepted and that are not; a
credit in range and out of range, with a ring and without. -/
theorem test_witness_LaunchAndService :
    (∃ (s : State) (w : Window), w = s.win 7 ∧ w.isOpen = false) ∧ (∃ (s : State) (w : Window), w = s.win 7 ∧ w.isOpen = true ∧ 2 ^ w.l ≤ w.queue.length) ∧
    (∃ (s : State) (w : Window) (c : Ctx), w = s.win 7 ∧ s.ctx w.ctx = some c ∧ w.isOpen = true ∧ w.queue.length < 2 ^ w.l ∧ c.duty 2 = false) ∧
    (∃ (s : State) (w : Window) (c : Ctx), w = s.win 7 ∧ s.ctx w.ctx = some c ∧ w.isOpen = true ∧ w.queue.length < 2 ^ w.l ∧ c.duty 2 = true) ∧
    (∃ (s : State) (w : Window) (a b : List LaunchItem) (it : LaunchItem), w = s.win 7 ∧ w.queue = a ++ it :: b ∧ (∀ x ∈ a, ¬ awaitsHost x) ∧ awaitsHost it) ∧
    (∃ (s : State) (w : Window), w = s.win 7 ∧ w.queue = []) ∧
    (∃ (s : State) (w : Window) (it : LaunchItem) (rest : List LaunchItem), w = s.win 7 ∧ w.queue = it :: rest ∧ s.mayStart w.ctx = true ∧ awaitsHost it) ∧
    (∃ (s : State) (w : Window) (it : LaunchItem) (rest : List LaunchItem), w = s.win 7 ∧ w.queue = it :: rest ∧ s.mayStart w.ctx = true ∧ it.no = true) ∧
    (∃ (s : State) (w : Window) (it : LaunchItem) (rest : List LaunchItem) (x y : State), w = s.win 7 ∧ w.queue = it :: rest ∧ s.mayStart w.ctx = true ∧
      x = s.modWin 7 (fun w => { w with queue := rest }) ∧ it.no = false ∧ it.sent = false ∧ x.acceptItem w it = (y, 0)) ∧
    (∃ (s : State) (w : Window) (it : LaunchItem) (rest : List LaunchItem) (x y : State), w = s.win 7 ∧ w.queue = it :: rest ∧ s.mayStart w.ctx = true ∧
      x = s.modWin 7 (fun w => { w with queue := rest }) ∧ it.no = false ∧ it.ok = true ∧ x.acceptItem w it = (y, 1)) ∧
    (∃ s : State, s.host.ring = none) ∧
    (∃ (s : State) (total : Word) (pa n : Nat), s.host.ring = some pa ∧ s.host.used ≤ s.host.sent ∧ n = (s.host.sent + 2 ^ 64 - total.toNat) % 2 ^ 64 ∧
      s.host.sent - s.host.used < n) ∧
    (∃ (s : State) (total : Word) (pa n : Nat), s.host.ring = some pa ∧ s.host.used ≤ s.host.sent ∧ n = (s.host.sent + 2 ^ 64 - total.toNat) % 2 ^ 64 ∧
      n ≤ s.host.sent - s.host.used) := by
  obtain ⟨y, hy⟩ := pair_of (((windowed 0 { queue := [anItem false false false] }).modWin 7 fun w => { w with queue := [] }).acceptItem
    { queue := [anItem false false false] } (anItem false false false)) 0 (by decide +kernel)
  obtain ⟨z, hz⟩ := pair_of (((windowed 4 { queue := [{ anItem true true false with rec_ := 1 }] }).modWin 7 fun w => { w with queue := [] }).acceptItem
    { queue := [{ anItem true true false with rec_ := 1 }] } { anItem true true false with rec_ := 1 }) 1 (by decide +kernel)
  refine ⟨⟨reader, _, rfl, rfl⟩, ⟨windowed 0 { isOpen := true, queue := [anItem false false false] }, _, rfl, rfl, by decide⟩,
    ⟨windowed 0 { isOpen := true, l := 1 }, _, _, rfl, rfl, rfl, by decide, by decide +kernel⟩,
    ⟨windowed 4 { isOpen := true, l := 1 }, _, _, rfl, rfl, rfl, by decide, by decide +kernel⟩,
    ⟨windowed 4 { queue := [anItem true true false, anItem true false false] }, _, [anItem true true false], [], anItem true false false, rfl, rfl, ?_, rfl, rfl, rfl⟩,
    ⟨reader, _, rfl, rfl⟩, ⟨windowed 4 { queue := [anItem true false false] }, _, _, [], rfl, rfl, rfl, rfl, rfl, rfl⟩,
    ⟨windowed 4 { queue := [anItem true false true] }, _, _, [], rfl, rfl, rfl, rfl⟩,
    ⟨windowed 0 { queue := [anItem false false false] }, { queue := [anItem false false false] }, anItem false false false, [],
      (windowed 0 { queue := [anItem false false false] }).modWin 7 fun w => { w with queue := [] }, y, rfl, rfl, rfl, rfl, rfl, rfl, hy⟩,
    ⟨windowed 4 { queue := [{ anItem true true false with rec_ := 1 }] }, { queue := [{ anItem true true false with rec_ := 1 }] },
      { anItem true true false with rec_ := 1 }, [],
      (windowed 4 { queue := [{ anItem true true false with rec_ := 1 }] }).modWin 7 fun w => { w with queue := [] }, z, rfl, rfl, rfl, rfl, rfl, rfl, hz⟩,
    ⟨reader, rfl⟩, ⟨{ reader with host := { ring := some 0, sent := 5, used := 3 } }, 2, 0, _, rfl, by decide, rfl, by decide⟩,
    ⟨{ reader with host := { ring := some 0, sent := 5, used := 3 } }, 3, 0, _, rfl, by decide, rfl, by decide⟩⟩
  · intro x hx
    obtain rfl : x = anItem true true false := List.mem_singleton.1 hx
    exact fun h => by cases h.2.1

/-- The last bytes of HBM and the first past it; a device that is lost and one that is not; registers in recovery and out of it. -/
theorem test_witness_OutsideAccesses :
    (inHbm (BitVec.ofNat 64 (hbmSize - 1)).toNat [7].length = true) ∧ (inHbm (BitVec.ofNat 64 hbmSize).toNat [7].length = false) ∧
    (∃ (s : State) (dev : Nat), dev ∈ s.host.lost) ∧ (∃ (s : State) (dev : Nat), dev ∉ s.host.lost ∧ ∀ p ∈ s.engines, ∀ o ∈ p.2.ops, o.coll = none) ∧
    (∃ (s : State) (a : Word), s.host.recovery = true ∧ a.toNat < 0x00FE000000000000) ∧
    (∃ s : State, s.host.recovery = false ∧ s.host.busy = true) ∧ (∃ s : State, s.host.recovery = false ∧ s.host.busy = false) ∧
    (∃ (s : State) (ta : Nat), s.host.recovery = false ∧ s.host.dbg = some ta) ∧ ∃ (s : State) (f : Nat) (r : FmtRegion), f < 8 ∧ r = s.fmtReg f :=
  ⟨by decide +kernel, by decide +kernel, ⟨{ reader with host := { lost := [3] } }, 3, by decide⟩, ⟨engined (rowOp 0 0), 3, by decide, by decide⟩,
    ⟨{ reader with host := { recovery := true } }, 0, rfl, by decide⟩, ⟨{ reader with host := { busy := true } }, rfl, rfl⟩, ⟨reader, rfl, rfl⟩,
    ⟨{ reader with host := { dbg := some 4 } }, 4, rfl, rfl⟩, ⟨reader, 7, _, by decide, rfl⟩⟩

def replaying (f : ReplaySt → ReplaySt) : State := { reader with replay := f { busy := true } }

/-- A run in progress; one of no context, one that is accepted and one that is refused; passes that end, with and without passes to come and with each
code; an enforced atomic that waits, and none; the link grid off and on. -/
theorem test_witness_ReplayRuns :
    (∃ s : State, s.replay.busy = true) ∧ (∃ s : State, s.replay.busy = false ∧ s.ctx (s.replay.cfg.toNat % 64) = none) ∧
    (∃ (s : State) (c : Ctx) (x y : State), s.replay.busy = false ∧ s.ctx (s.replay.cfg.toNat % 64) = some c ∧ x = freshPass s ∧
      (x.dropPages c).replayAccept = (y, 0)) ∧
    (∃ (s : State) (c : Ctx) (x y : State), s.replay.busy = false ∧ s.ctx (s.replay.cfg.toNat % 64) = some c ∧ x = freshPass s ∧
      (x.dropPages c).replayAccept = (y, 3)) ∧
    (∃ s : State, s.replay.busy = true ∧ s.replay.ended = none) ∧
    (∃ (s : State) (code : Nat), s.replay.busy = true ∧ s.replay.ended = some code ∧ s.replay.pass = 0 ∧ code ≠ 0) ∧
    (∃ (s : State) (code : Nat), s.replay.busy = true ∧ s.replay.ended = some code ∧ s.replay.pass = 0 ∧ code = 0 ∧ s.replay.npass ≠ 0) ∧
    (∃ (s : State) (code : Nat), s.replay.busy = true ∧ s.replay.ended = some code ∧ s.replay.pass ≠ 0 ∧ noneMissing s.replay ∧ s.replay.npass ≤ s.replay.pass) ∧
    (∃ (s : State) (code : Nat), s.replay.busy = true ∧ s.replay.ended = some code ∧ s.replay.pass ≠ 0 ∧ noneMissing s.replay ∧ code = 0 ∧
      s.replay.pass < s.replay.npass) ∧
    (∃ (s : State) (key : Nat) (p : Nat × Nat), s.replay.busy = true ∧ p ∈ s.replay.waits ∧ p.1 = key) ∧
    (∃ (s : State) (key : Nat), s.replay.busy = true ∧ ∀ p ∈ s.replay.waits, p.1 ≠ key) ∧
    (∃ s : State, s.grid.ivl ≠ 0 ∧ s.grid.nsnap = 0) ∧ ∃ s : State, s.grid.ivl ≠ 0 ∧ s.grid.nsnap ≠ 0 := by
  obtain ⟨y, hy⟩ := pair_of (((freshPass reader).dropPages { desc := [0, 0, 1], descPA := 0 }).replayAccept) 0
    (by decide +kernel)
  obtain ⟨z, hz⟩ := pair_of (((freshPass { reader with replay := { recA := 1 } }).dropPages { desc := [0, 0, 1], descPA := 0 }).replayAccept) 3
    (by decide +kernel)
  refine ⟨⟨replaying id, rfl⟩, ⟨{ reader with replay := { cfg := 1 } }, rfl, rfl⟩, ⟨reader, { desc := [0, 0, 1], descPA := 0 }, freshPass reader, y, rfl, rfl, rfl, hy⟩,
    ⟨{ reader with replay := { recA := 1 } }, { desc := [0, 0, 1], descPA := 0 },
      freshPass { reader with replay := { recA := 1 } }, z, rfl, rfl, rfl, hz⟩, ⟨replaying id, rfl, rfl⟩,
    ⟨replaying fun r => { r with ended := some 1 }, 1, rfl, rfl, rfl, by decide⟩,
    ⟨replaying fun r => { r with ended := some 0, cfg := 0x100 }, 0, rfl, rfl, rfl, rfl, by decide +kernel⟩,
    ⟨replaying fun r => { r with ended := some 0, cfg := 0x100, pass := 1 }, 0, rfl, rfl, by decide, .inr (by decide), by decide +kernel⟩,
    ⟨replaying fun r => { r with ended := some 0, cfg := 0x200, pass := 1 }, 0, rfl, rfl, by decide, .inr (by decide), rfl, by decide +kernel⟩,
    ⟨replaying fun r => { r with waits := [(64, 0)] }, 64, _, rfl, List.mem_singleton.2 rfl, rfl⟩, ⟨replaying id, 0, rfl, by decide⟩,
    ⟨{ reader with grid := { ivl := 1 } }, by decide, rfl⟩, ⟨{ reader with grid := { ivl := 1, nsnap := 1 } }, by decide, by decide⟩⟩

/-- The reader with a command's arguments. -/
def commanded (a : Vector Word 6) (f : State → State) : State := f { reader with host := { args := a } }

/-- A descriptor with budgets and one strand entry, of an address space. -/
def descOf (asid : Byte) (settab : Byte) : List Byte :=
  List.replicate 8 0 ++ [asid] ++ List.replicate 0x17 0 ++ [1, 0, 0, 0, 1] ++ List.replicate 0x1B 0 ++ [1] ++ List.replicate 0x18 0 ++ [settab] ++
    List.replicate 0x26 0

/-- Context 0 in use, and a good descriptor of address space 5 at 0x1000. -/
def creating (asid : Byte) (ctx : Word) (bad : Bool) : State :=
  commanded #v[if bad then 1 else 0x1000, ctx, 0, 0, 0, 0] fun s => { s with mem := Memory.write [] 0x1000 (descOf asid 0) }

/-- A context with two strand entries, and a strand in entry 1 whose ends are closed. -/
def wiring (a : Vector Word 6) : State :=
  commanded a fun s => { s with ctxs := [(0, some grouped)], strands := [(1, some (strandOf 1 2 { st := 3 } { st := 2 } id))] }

def fabricated : Ctx := { desc := [0, 0, 1] ++ List.replicate 0x66 0 ++ [0x50], descPA := 0 }

/-- Contexts, windows, rings, strands and devices as each code needs them. -/
theorem test_witness_HostCommands :
    (∃ s : State, s.ctx (argCtx s) ≠ none) ∧ (∃ s : State, s.ctx (argCtx s) = none ∧ (s.arg 0).toNat % 64 ≠ 0) ∧
    (∃ s : State, s.ctx (argCtx s) = none ∧ (s.arg 0).toNat % 64 = 0 ∧ inHbm (s.arg 0).toNat 128 = true ∧ asidUsed s (argDesc s).asid) ∧
    (∃ s : State, s.ctx (argCtx s) = none ∧ (s.arg 0).toNat % 64 = 0 ∧ inHbm (s.arg 0).toNat 128 = true ∧ ¬ asidUsed s (argDesc s).asid ∧
      s.badDesc (argDesc s) = true) ∧
    (∃ s : State, s.ctx (argCtx s) = none ∧ (s.arg 0).toNat % 64 = 0 ∧ inHbm (s.arg 0).toNat 128 = true ∧ ¬ asidUsed s (argDesc s).asid ∧
      s.badDesc (argDesc s) = false ∧ s.settab (argDesc s) = []) ∧
    (∃ (s : State) (c : Ctx), s.ctx (argCtx s) = some c ∧ holdsPlaces s (argCtx s)) ∧
    (∃ (s : State) (c : Ctx), s.ctx (argCtx s) = some c ∧ ¬ holdsPlaces s (argCtx s) ∧ s.arg 2 = 0) ∧
    (∃ (s : State) (c : Ctx), s.ctx (argCtx s) = some c ∧ ¬ holdsPlaces s (argCtx s) ∧ s.arg 2 ≠ 0) ∧
    (∃ (s : State) (c : Ctx), s.ctx (argCtx s) = some c ∧ s.freeWin = none) ∧
    (∃ (s : State) (c : Ctx) (i : Nat), s.ctx (argCtx s) = some c ∧ s.freeWin = some i ∧ (s.arg 3).toNat % 16 = 11) ∧
    (∃ (s : State) (c : Ctx) (i : Nat), s.ctx (argCtx s) = some c ∧ s.freeWin = some i ∧ (s.arg 3).toNat % 16 = 10) ∧
    (∃ (s : State) (c : Ctx), s.ctx (argCtx s) = some c ∧ c.strn ≤ (s.arg 2).toNat % 65536) ∧
    (∃ (s : State) (c : Ctx), s.ctx (argCtx s) = some c ∧ (s.arg 2).toNat % 65536 < c.strn ∧ s.strand? (argStrand s) = none ∧ s.wireEnd c (s.arg 3) = none) ∧
    (∃ (s : State) (c : Ctx) (a b : StrandEnd), s.ctx (argCtx s) = some c ∧ (s.arg 2).toNat % 65536 < c.strn ∧ s.strand? (argStrand s) = none ∧
      s.wireEnd c (s.arg 3) = some a ∧ s.wireEnd c (s.arg 4) = some b ∧ badRing (s.arg 5)) ∧
    (∃ (s : State) (c : Ctx) (a b : StrandEnd), s.ctx (argCtx s) = some c ∧ (s.arg 2).toNat % 65536 < c.strn ∧ s.strand? (argStrand s) = none ∧
      s.wireEnd c (s.arg 3) = some a ∧ s.wireEnd c (s.arg 4) = some b ∧ ¬ badRing (s.arg 5)) ∧
    (∃ (s : State) (c : Ctx) (x : Strand), s.ctx (argCtx s) = some c ∧ s.strand? (argStrand s) = some x ∧ (x.side false).live = false ∧
      (x.side true).live = false) ∧
    (∃ s : State, (s.arg 1).toNat < 256 ∧ (s.win (s.arg 1).toNat).isOpen = true) ∧ (∃ s : State, 256 ≤ (s.arg 1).toNat) ∧
    (∃ s : State, (s.arg 0).toNat % 64 ≠ 0) ∧ (∃ s : State, (s.arg 0).toNat % 64 = 0 ∧ (s.arg 2).toNat % 16 = 11) ∧
    (∃ s : State, (s.arg 0).toNat % 64 = 0 ∧ (s.arg 2).toNat % 16 = 1) ∧
    (∃ s : State, ∀ p ∈ s.ctxs, ∀ c, p.2 = some c → s.inFabric c ((s.arg 0).toNat % 65536) = false) ∧
    (∃ s : State, ∃ p ∈ s.ctxs, ∃ c, p.2 = some c ∧ s.inFabric c ((s.arg 0).toNat % 65536) = true) ∧
    (∃ s : State, (s.arg 0).toNat % 4096 = 0) ∧ (∃ s : State, (s.arg 0).toNat % 4096 = 4095 ∧ (s.arg 1).toNat % 64 ≠ 0) ∧
    (∃ s : State, (s.arg 0).toNat = 1 ∧ (s.arg 1).toNat % 64 = 0 ∧ inHbm (s.arg 1).toNat 8192 = true ∧ ∃ p ∈ s.ctxs, ∃ c, p.2 = some c ∧ c.fabgrp ≠ 0) ∧
    ∃ s : State, (s.arg 0).toNat = 1 ∧ (s.arg 1).toNat % 64 = 0 ∧ inHbm (s.arg 1).toNat 8192 = true ∧ ∀ p ∈ s.ctxs, ∀ c, p.2 = some c → c.fabgrp = 0 := by
  have one : ∀ (f : State → State) (a : Vector Word 6) (P : Ctx → Prop), (f { reader with host := { args := a } }).ctxs = reader.ctxs →
      P { desc := [0, 0, 1], descPA := 0 } → ∀ p ∈ (commanded a f).ctxs, ∀ c, p.2 = some c → P c := by
    intro f a P hf hP p hp c hc
    rw [show (commanded a f).ctxs = reader.ctxs from hf] at hp
    obtain rfl : p = (0, some { desc := [0, 0, 1], descPA := 0 }) := List.mem_singleton.1 hp
    cases hc
    exact hP
  have apart : ∀ (ctx : Word), ¬ asidUsed (creating 5 ctx false) 5 := by
    intro ctx ⟨p, hp, x, hx, ha⟩
    exact absurd ha (one _ _ (fun c => c.asid ≠ 5) rfl (by decide) p hp x hx)
  have quiet : ∀ a f, (commanded a f).engines = [] → (commanded a f).agenda = [.inval] ∨ (commanded a f).agenda = [] →
      (commanded a f).slots = reader.slots → (commanded a f).regions = [] → ¬ holdsPlaces (commanded a f) (argCtx (commanded a f)) := by
    rintro a f he ha hs hr (⟨p, hp, _⟩ | ⟨r, hp, _⟩ | ⟨p, hp, -, hn⟩ | ⟨p, hp, _⟩)
    · rw [he] at hp; cases hp
    · rcases ha with ha | ha <;> rw [ha] at hp <;> simp at hp
    · rw [hs] at hp
      cases List.mem_singleton.1 hp
      exact hn rfl
    · rw [hr] at hp; cases hp
  refine ⟨⟨commanded #v[0, 0, 0, 0, 0, 0] id, by decide⟩, ⟨commanded #v[1, 63, 0, 0, 0, 0] id, rfl, by decide⟩,
    ⟨creating 0 1 false, rfl, by decide, by decide +kernel, _, List.mem_singleton.2 rfl, _, rfl, by decide +kernel⟩,
    ⟨commanded #v[0x1000, 1, 0, 0, 0, 0] fun s => { s with mem := [(0x1008, 5)] }, rfl, by decide, by decide +kernel, ?_, by decide +kernel⟩,
    ⟨creating 5 1 false, rfl, by decide, by decide +kernel, ?_, by decide +kernel, by decide +kernel⟩,
    ⟨commanded #v[0, 0, 0, 0, 0, 0] fun s => { s with engines := [(0, { ops := [opOf 1 2 none] })] }, _, rfl, .inl ⟨_, List.mem_singleton.2 rfl, _,
      List.mem_singleton.2 rfl, rfl, by decide⟩⟩,
    ⟨commanded #v[0, 0, 0, 0, 0, 0] id, _, rfl, quiet _ _ rfl (.inr rfl) rfl rfl, rfl⟩, ⟨commanded #v[0, 0, 1, 0, 0, 0] id, _, rfl, quiet _ _ rfl (.inr rfl) rfl rfl, by decide⟩,
    ⟨commanded #v[0, 0, 0, 1, 0, 0] fun s => { s with host := { s.host with wins := (List.range 256).map fun i => (i, { isOpen := true }) } }, _, rfl, by decide +kernel⟩,
    ⟨commanded #v[0, 0, 0, 11, 0, 0] id, _, 0, rfl, by decide +kernel, by decide⟩, ⟨commanded #v[0, 0, 0, 10, 0, 0] id, _, 0, rfl, by decide +kernel, by decide⟩,
    ⟨wiring #v[0, 0, 2, 0, 0, 0], _, rfl, by decide +kernel⟩, ⟨wiring #v[0, 0, 0, 0x800000, 0, 0], _, rfl, by decide +kernel, by decide +kernel, by decide +kernel⟩,
    ⟨wiring #v[0, 0, 0, 0, 0, 0], _, { quad := 0, wired := true }, { quad := 0, wired := true }, rfl, by decide +kernel, by decide +kernel, by decide +kernel, by decide +kernel,
      .inr (.inr (.inl (by decide)))⟩,
    ⟨wiring #v[0, 0, 0, 0, 0, 0x800000], _, { quad := 0, wired := true }, { quad := 0, wired := true }, rfl, by decide +kernel, by decide +kernel, by decide +kernel,
      by decide +kernel, show ¬ (_ ∨ _) by decide⟩,
    ⟨wiring #v[0, 0, 1, 0, 0, 0], _, strandOf 1 2 { st := 3 } { st := 2 } id, rfl, by decide +kernel, rfl, rfl⟩,
    ⟨commanded #v[0, 7, 0, 0, 0, 0] fun s => { s with host := { s.host with wins := [(7, { isOpen := true })] } }, by decide, rfl⟩,
    ⟨commanded #v[0, 256, 0, 0, 0, 0] id, by decide⟩, ⟨commanded #v[63, 0, 0, 0, 0, 0] id, by decide⟩,
    ⟨commanded #v[0, 0, 11, 0, 0, 0] id, by decide, by decide⟩, ⟨commanded #v[0, 0, 1, 0, 0, 0] id, by decide, by decide⟩,
    ⟨commanded #v[3, 0, 0, 0, 0, 0] id, one _ _ (fun c => (commanded #v[3, 0, 0, 0, 0, 0] id).inFabric c 3 = false) rfl (by decide +kernel)⟩,
    ⟨commanded #v[3, 0, 0, 0, 0, 0] fun s => { s with ctxs := [(0, some fabricated)], mem := [(0x5000, 1), (0x5004, 3)] }, _, List.mem_singleton.2 rfl, _, rfl,
      by decide +kernel⟩,
    ⟨commanded #v[4096, 0, 0, 0, 0, 0] id, by decide⟩, ⟨commanded #v[0x1FFF, 1, 0, 0, 0, 0] id, by decide, by decide⟩,
    ⟨commanded #v[1, 0, 0, 0, 0, 0] fun s => { s with ctxs := [(0, some fabricated)] }, by decide, by decide, by decide +kernel, _, List.mem_singleton.2 rfl, _, rfl,
      by decide +kernel⟩,
    ⟨commanded #v[1, 0, 0, 0, 0, 0] id, by decide, by decide, by decide +kernel, one _ _ (fun c => c.fabgrp = 0) rfl (by decide +kernel)⟩⟩
  · rintro ⟨p, hp, x, hx, ha⟩
    exact absurd ha (one (fun s => { s with mem := [(0x1008, 5)] }) _ (fun c => ¬ c.asid = _) rfl (by decide +kernel) p hp x hx)
  · have h : (argDesc (creating 5 1 false)).asid = 5 := by decide +kernel
    rw [h]
    exact apart 1

def ctxWith (stopped quiesced : Bool) (frozen : List Nat) (aborted : List AbortedCopy) : Ctx :=
  { desc := descOf 5 0, descPA := 0x1000, stopped := stopped, quiesced := quiesced, frozen := frozen, aborted := aborted }

def imaged : Ctx := ctxWith true true [] []

/-- The arguments; at 0x1000 an image of 336 bytes (R349: sections 1, 2 and the CRC), at 0x3000 a descriptor whose settle table at 0x4000 has an entry
with bit 14 set. -/
def restoring (a : Vector Word 6) (used : Bool) : State :=
  { host := { args := a }, ctxs := if used then [(0, some imaged)] else []
    mem := [(4096, 1), (4098, 1), (4104, 32), (4112, 78), (4113, 82), (4114, 66), (4115, 73), (4128, 2), (4130, 1), (4136, 16), (4137, 1), (4152, 5),
      (4176, 1), (4180, 1), (4208, 1), (4400, 255), (4401, 255), (4402, 1), (4408, 32), (4416, 120), (4417, 141), (4418, 112), (4419, 11), (4420, 98),
      (4421, 89), (4422, 116), (4423, 87), (0x3008, 5), (0x3020, 1), (0x3024, 1), (0x3040, 1), (0x3059, 0x40), (0x4001, 0x40)] }

def RestoreCase (a : Vector Word 6) (used : Bool) (P : State → List (Nat × Nat × List Byte) → Ctx → Prop) : Prop :=
  ∃ (s : State) (l : List (Nat × Nat × List Byte)) (c : Ctx), s = restoring a used ∧ inHbm (s.arg 0).toNat (s.arg 1).toNat = true ∧
    imageParse (s.bytes (s.arg 0).toNat (s.arg 1).toNat) = some l ∧
    c = s.descAt (if s.arg 2 = 0 then (s.arg 0).toNat + ((l.find? fun x => x.1 == 2).map fun x => x.2.1).getD 0 else (s.arg 2).toNat) ∧ P s l c

/-! The image's bytes, in the pieces over which its CRC is taken. -/

def ctxSection : List Byte := descOf 5 0 ++ List.replicate 128 0
def imgHead : List Byte :=
  [1, 0, 1, 0, 0, 0, 0, 0, 32, 0, 0, 0, 0, 0, 0, 0, 0x4E, 0x52, 0x42, 0x49] ++ List.replicate 12 0 ++ [2, 0, 1, 0, 0, 0, 0, 0, 16, 1] ++ List.replicate 6 0
def imgTail : List Byte := [255, 255, 1, 0, 0, 0, 0, 0, 32] ++ List.replicate 7 0
def imgCrc : List Byte := [120, 141, 112, 11, 98, 89, 116, 87] ++ List.replicate 8 0
def imgBytes : List Byte := imgHead ++ (ctxSection ++ (imgTail ++ imgCrc))
def sections : List (Nat × Nat × List Byte) := [(1, 16, [0x4E, 0x52, 0x42, 0x49] ++ List.replicate 12 0), (2, 48, ctxSection)]

theorem crc64_append (c : Nat) (a b : List Byte) : crc64 c (a ++ b) = crc64 (crc64 c a) b := List.foldl_append ..

theorem img_crc : crc64 0 (imgHead ++ (ctxSection ++ imgTail)) = 6301760056231759224 := by
  rw [crc64_append, show crc64 0 imgHead = 4803370026813218363 by decide +kernel,
    show ctxSection ++ imgTail = ctxSection.take 64 ++ ((ctxSection.drop 64).take 64 ++ ((ctxSection.drop 128).take 64 ++ ((ctxSection.drop 192).take 64 ++ imgTail)))
      by decide +kernel,
    crc64_append, show crc64 4803370026813218363 (ctxSection.take 64) = 15366103764385994708 by decide +kernel, crc64_append,
    show crc64 15366103764385994708 ((ctxSection.drop 64).take 64) = 10517871744886341270 by decide +kernel, crc64_append,
    show crc64 10517871744886341270 ((ctxSection.drop 128).take 64) = 17021707027105578796 by decide +kernel, crc64_append,
    show crc64 17021707027105578796 ((ctxSection.drop 192).take 64) = 15760446840631097916 by decide +kernel]
  decide +kernel

theorem secs_step (f : Nat) (bs : List Byte) (off : Nat) (l : List (Nat × Nat × List Byte))
    (h : ¬ (bs.length < off + 16 ∨ recField bs (off + 2) 6 ≠ 1 ∨ recField bs (off + 8) 8 < 16 ∨ recField bs (off + 8) 8 % 16 ≠ 0 ∨
      bs.length < off + recField bs (off + 8) 8)) (ht : recField bs off 2 ≠ 0xFFFF) (hl : imgSecs f bs (off + recField bs (off + 8) 8) = some l) :
    imgSecs (f + 1) bs off = some ((recField bs off 2, off + 16, (bs.drop (off + 16)).take (recField bs (off + 8) 8 - 16)) :: l) := by
  rw [imgSecs]; dsimp only; rw [if_neg h, if_neg ht, hl]; rfl

theorem secs_end (f : Nat) (bs : List Byte) (off : Nat)
    (h : ¬ (bs.length < off + 16 ∨ recField bs (off + 2) 6 ≠ 1 ∨ recField bs (off + 8) 8 < 16 ∨ recField bs (off + 8) 8 % 16 ≠ 0 ∨
      bs.length < off + recField bs (off + 8) 8)) (ht : recField bs off 2 = 0xFFFF)
    (hl : 8 ≤ ((bs.drop (off + 16)).take (recField bs (off + 8) 8 - 16)).length)
    (hc : recField ((bs.drop (off + 16)).take (recField bs (off + 8) 8 - 16)) 0 8 = crc64 0 (bs.take (off + 16))) : imgSecs (f + 1) bs off = some [] := by
  rw [imgSecs]; dsimp only; rw [if_neg h, if_pos ht, if_pos ⟨hl, hc⟩]

theorem img_parses : imageParse imgBytes = some sections := by
  have e : imgSecs 20 imgBytes 304 = some [] := secs_end _ _ _ (by decide +kernel) (by decide +kernel) (by decide +kernel) (by
    rw [show imgBytes.take (304 + 16) = imgHead ++ (ctxSection ++ imgTail) by decide +kernel, img_crc]; decide +kernel)
  have s2 : imgSecs 21 imgBytes 32 = some [(2, 48, ctxSection)] := (secs_step 20 imgBytes 32 [] (by decide +kernel) (by decide +kernel)
    (by rw [show 32 + recField imgBytes (32 + 8) 8 = 304 by decide +kernel]; exact e)).trans (by decide +kernel)
  have s1 : imgSecs 22 imgBytes 0 = some sections := (secs_step 21 imgBytes 0 [(2, 48, ctxSection)] (by decide +kernel) (by decide +kernel)
    (by rw [show 0 + recField imgBytes (0 + 8) 8 = 32 by decide +kernel]; exact s2)).trans (by decide +kernel)
  rw [imageParse, show imgBytes.length / 16 + 1 = 22 by decide +kernel, s1]
  decide +kernel

theorem img_stands (a : Vector Word 6) (used : Bool) : (restoring a used).bytes 0x1000 336 = imgBytes := by
  show Memory.read (restoring #v[0, 0, 0, 0, 0, 0] false).mem 0x1000 336 = imgBytes
  decide +kernel

def descUsed (s : State) : Ctx := s.descAt (if s.arg 2 = 0 then (s.arg 0).toNat + 48 else (s.arg 2).toNat)

theorem restoreCase_of (a : Vector Word 6) (used : Bool) (P : State → List (Nat × Nat × List Byte) → Ctx → Prop)
    (h1 : ((restoring a used).arg 0).toNat = 0x1000) (h2 : ((restoring a used).arg 1).toNat = 336)
    (h3 : P (restoring a used) sections (descUsed (restoring a used))) : RestoreCase a used P := by
  refine ⟨_, sections, _, rfl, ?_, ?_, rfl, ?_⟩
  · rw [h1, h2]; decide +kernel
  · rw [h1, h2, img_stands, img_parses]
  · exact h3

def quiescing (c : Ctx) : State := { host := { args := #v[1, 0, 0, 0, 0, 0] }, ctxs := [(0, some c)] }

def aUnit (stopped : Bool) : UnitSt := { ctx := 0, addr := 64, stopped := stopped }
def unitsOf (ctxs : Store (Option Ctx)) (a : Vector Word 6) : State := { host := { args := a }, ctxs := ctxs, units := [aUnit true, aUnit false] }

theorem quiesced_of (s : State) (n : Nat) (h : (match s.ctx n with | some c => c.quiesced | none => false) = true) : Claims.isQuiesced s n := by
  cases hc : s.ctx n with
  | none => rw [hc] at h; cases h
  | some c => rw [hc] at h; exact ⟨c, hc, h⟩

theorem not_quiesced (s : State) (n : Nat) (h : (match s.ctx n with | some c => c.quiesced | none => false) = false) : ¬ Claims.isQuiesced s n := by
  rintro ⟨c, hc, hq⟩
  simp [hc, hq] at h

theorem ok_is {α β : Type} (x : Except α β) (h : (okOf x).isSome = true) : ∃ y, x = .ok y := by
  cases x with | ok y => exact ⟨y, rfl⟩ | error e => cases h
theorem err_is {α β : Type} (x : Except α β) (h : (errOf x).isSome = true) : ∃ e, x = .error e := by
  cases x with | ok y => cases h | error e => exact ⟨e, rfl⟩

/-- Bitmaps of contexts that are absent, live, quiet and quiesced; an image that is bad, that names what is in use, that fits, and that meets a bad settle
table; a unit that runs beside a stopped one; graphs thawed and not; slots that hold a task, an RXFULL packet and nothing; a bad thread address. -/
theorem test_witness_StateCommands :
    (∃ s : State, ∃ n ∈ bitmapOf (s.arg 0), s.ctx n = none) ∧
    (∃ (s : State) (n : Nat) (c : Ctx) (x : State) (c1 : Ctx), bitmapOf (s.arg 0) = [n] ∧ s.ctx n = some c ∧ c.quiesced = false ∧ x = s.quiesceStep n ∧
      x.ctx n = some c1 ∧ c1.quiesced = false ∧ x.quiet n = false) ∧
    (∃ (s : State) (n : Nat) (c : Ctx) (x : State) (c1 : Ctx), bitmapOf (s.arg 0) = [n] ∧ s.ctx n = some c ∧ c.quiesced = false ∧ x = s.quiesceStep n ∧
      x.ctx n = some c1 ∧ c1.quiesced = false ∧ x.quiet n = true) ∧
    (∃ s : State, ∃ n ∈ bitmapOf (s.arg 0), ¬ Claims.isQuiesced s n) ∧
    (∃ (s : State) (n : Nat) (c : Ctx), bitmapOf (s.arg 0) = [n] ∧ s.ctx n = some c ∧ c.quiesced = true ∧ c.aborted = []) ∧
    (∃ (s : State) (n : Nat) (c : Ctx) (a : AbortedCopy), bitmapOf (s.arg 0) = [n] ∧ s.ctx n = some c ∧ c.quiesced = true ∧ c.aborted = [a]) ∧
    (∃ s : State, ¬ Claims.isQuiesced s ((s.arg 2).toNat % 64)) ∧
    (∃ (s : State) (c : Ctx) (bs : List Byte), s.ctx ((s.arg 2).toNat % 64) = some c ∧ c.quiesced = true ∧ bs = s.imageBytes ((s.arg 2).toNat % 64) c ∧
      (s.arg 0).toNat % 64 ≠ 0) ∧
    (∃ (s : State) (c : Ctx) (bs : List Byte), s.ctx ((s.arg 2).toNat % 64) = some c ∧ c.quiesced = true ∧ bs = s.imageBytes ((s.arg 2).toNat % 64) c ∧
      (s.arg 0).toNat % 64 = 0 ∧ bs.length ≤ (s.arg 1).toNat ∧ inHbm (s.arg 0).toNat bs.length = true) ∧
    (∃ s : State, imageParse (s.bytes (s.arg 0).toNat (s.arg 1).toNat) = none) ∧
    (RestoreCase #v[0x1000, 336, 0, 0, 0, 0] true fun s _ c => s.nameUsed ((s.arg 3).toNat % 64) c.asid = true) ∧
    (RestoreCase #v[0x1000, 336, 0x4000, 0, 0, 0] false fun s _ c => s.nameUsed ((s.arg 3).toNat % 64) c.asid = false ∧ s.badBase c = true) ∧
    (RestoreCase #v[0x1000, 336, 0, 1, 0, 0] false fun s l c => s.nameUsed ((s.arg 3).toNat % 64) c.asid = false ∧ inHbm c.descPA 128 = true ∧
      s.badBase c = false ∧ ∃ t, s.restoreAll ((s.arg 3).toNat % 64) c (s.arg 2 == 0) l = .ok t) ∧
    (RestoreCase #v[0x1000, 336, 0x3000, 1, 0, 0] false fun s l c => s.nameUsed ((s.arg 3).toNat % 64) c.asid = false ∧ inHbm c.descPA 128 = true ∧
      s.badBase c = false ∧ ∃ code, s.restoreAll ((s.arg 3).toNat % 64) c (s.arg 2 == 0) l = .error code) ∧
    (∃ (s : State) (a b : List UnitSt) (u : UnitSt), s.units = a ++ u :: b ∧ (∀ y ∈ a, y.is (argCtx s) (s.arg 0) = false ∨ y.stopped = true) ∧
      u.is (argCtx s) (s.arg 0) = true ∧ u.stopped = false) ∧
    (∃ s : State, ∀ y ∈ s.units, y.is (argCtx s) (s.arg 0) = false ∨ y.stopped = true) ∧ (∃ s : State, s.ctx (argCtx s) = none) ∧
    (∃ (s : State) (c : Ctx), s.ctx (argCtx s) = some c ∧ (s.arg 2).toNat % 2 ^ 32 ∉ c.frozen) ∧
    (∃ (s : State) (c : Ctx), s.ctx (argCtx s) = some c ∧ (s.arg 2).toNat % 2 ^ 32 ∈ c.frozen) ∧
    (∃ (s : State) (c : Ctx) (w : Slot), w = s.windowSlot ((s.arg 0).toNat % 65536) ∧ s.ctx (argCtx s) = some c ∧ s.taOk c (s.arg 0) = true ∧
      s.devOf (s.arg 0) = 0 ∧ w.st ≠ .idle ∧ w.ctx = argCtx s) ∧
    (∃ (s : State) (c : Ctx) (w : Slot), w = s.windowSlot ((s.arg 0).toNat % 65536) ∧ s.ctx (argCtx s) = some c ∧ s.taOk c (s.arg 0) = true ∧
      s.devOf (s.arg 0) = 0 ∧ s.isRxfull ((s.arg 0).toNat % 65536) = true ∧ w.pkt.ctxn = argCtx s) ∧
    (∃ (s : State) (c : Ctx) (w : Slot), w = s.windowSlot ((s.arg 0).toNat % 65536) ∧ s.ctx (argCtx s) = some c ∧ s.taOk c (s.arg 0) = true ∧
      s.devOf (s.arg 0) = 0 ∧ w.st = .idle ∧ s.isRxfull ((s.arg 0).toNat % 65536) = false) ∧
    (∃ (s : State) (c : Ctx) (w : Slot), w = s.windowSlot ((s.arg 0).toNat % 65536) ∧ s.ctx (argCtx s) = some c ∧ s.taOk c (s.arg 0) = true ∧
      s.devOf (s.arg 0) = 0 ∧ w.st ≠ .idle ∧ w.ctx ≠ argCtx s ∧ s.isRxfull ((s.arg 0).toNat % 65536) = false) ∧
    ∃ (s : State) (c : Ctx), s.ctx (argCtx s) = some c ∧ s.taOk c (s.arg 0) = false := by
  refine ⟨⟨{ host := { args := #v[1, 0, 0, 0, 0, 0] } }, 0, by decide +kernel, rfl⟩,
    ⟨{ quiescing (ctxWith false false [] []) with slots := [(0, { st := .running, uid := 1 })] }, 0, ctxWith false false [] [], _, ctxWith true false [] [],
      by decide +kernel, rfl, rfl, rfl, by decide +kernel, rfl, by decide +kernel⟩,
    ⟨quiescing (ctxWith false false [] []), 0, ctxWith false false [] [], _, ctxWith true false [] [],
      by decide +kernel, rfl, rfl, rfl, by decide +kernel, rfl, by decide +kernel⟩,
    ⟨quiescing (ctxWith false false [] []), 0, by decide +kernel, not_quiesced _ _ rfl⟩, ⟨quiescing imaged, 0, imaged, by decide +kernel, rfl, rfl, rfl⟩,
    ⟨quiescing (ctxWith true true [] [⟨[], 0, 0, 0⟩]), 0, _, _, by decide +kernel, rfl, rfl, rfl⟩, ⟨{}, not_quiesced _ _ rfl⟩,
    ⟨{ host := { args := #v[1, 0, 0, 0, 0, 0] }, ctxs := [(0, some imaged)] }, imaged, _, rfl, rfl, rfl, by decide⟩,
    ⟨{ host := { args := #v[64, 4096, 0, 0, 0, 0] }, ctxs := [(0, some imaged)] }, imaged, _, rfl, rfl, rfl, by decide, by decide +kernel, by decide +kernel⟩,
    ⟨{}, by decide +kernel⟩, restoreCase_of _ _ _ rfl rfl (by decide +kernel),
    restoreCase_of _ _ _ rfl rfl ⟨by decide +kernel, by decide +kernel⟩,
    restoreCase_of _ _ _ rfl rfl ⟨by decide +kernel, by decide +kernel, by decide +kernel, ok_is _ (by decide +kernel)⟩,
    restoreCase_of _ _ _ rfl rfl ⟨by decide +kernel, by decide +kernel, by decide +kernel, err_is _ (by decide +kernel)⟩,
    ⟨unitsOf [(0, some imaged)] #v[64, 0, 0, 0, 0, 0], [aUnit true], [], aUnit false, rfl, by decide +kernel, by decide +kernel, rfl⟩,
    ⟨unitsOf [(0, some imaged)] #v[128, 0, 0, 0, 0, 0], by decide +kernel⟩, ⟨{}, rfl⟩,
    ⟨unitsOf [(0, some (ctxWith false false [3] []))] #v[0, 0, 4, 0, 0, 0], _, rfl, by decide +kernel⟩,
    ⟨unitsOf [(0, some (ctxWith false false [3] []))] #v[0, 0, 3, 0, 0, 0], _, rfl, by decide +kernel⟩,
    ⟨{ unitsOf [(0, some imaged)] #v[0, 0, 0, 0, 0, 0] with slots := [(0, { st := .running, uid := 1 })] }, _, _, rfl, rfl,
      by decide +kernel, by decide +kernel, by decide +kernel, by decide +kernel⟩,
    ⟨{ unitsOf [(0, some imaged)] #v[4, 0, 0, 0, 0, 0] with cores := [(0, { rxfull := true })] }, _, _, rfl, rfl,
      by decide +kernel, by decide +kernel, by decide +kernel, by decide +kernel⟩,
    ⟨{ unitsOf [(0, some imaged)] #v[4, 0, 0, 0, 0, 0] with slots := [], cores := [] }, _, _, rfl, rfl,
      by decide +kernel, by decide +kernel, by decide +kernel, by decide +kernel⟩,
    ⟨{ unitsOf [(0, some imaged)] #v[0, 0, 0, 0, 0, 0] with slots := [(0, { st := .running, uid := 1, ctx := 1 })] }, _, _, rfl, rfl,
      by decide +kernel, by decide +kernel, by decide +kernel, by decide +kernel, by decide +kernel⟩,
    ⟨unitsOf [(0, some imaged)] #v[5, 0, 0, 0, 0, 0], _, rfl, by decide +kernel⟩⟩

/-- A task at the bottom of its share, with a budget, whose first instruction is ADD g5, g6, g7. -/
def starting (f : Slot → Slot) : State :=
  { mapped (fun sl => f { sl with pc := 0x00FF000000000000, budget := 5 }) with mem := Memory.write [] (qlmKey 0 0) (toBytes 4 0x00E30A04) }

theorem holds_add (f : Slot → Slot) (hf : (f { st := .running, uid := 1, pc := 0x00FF000000000000, budget := 5 }).pc = 0x00FF000000000000)
    (h : ((starting f).protect 0 0x00FF000000000000 4 false) = some (some (qlmKey 0 0))) :
    HoldsWords (starting f) 0 ((starting f).slot 0).pc [0x00E30A04] := by
  have hp : ((starting f).slot 0).pc = 0x00FF000000000000 := hf
  rw [hp]
  refine ⟨by decide, ⟨_, _, rfl, by decide⟩, fun k w hw a ha => ?_⟩
  match k, hw with
  | 0, hw =>
    obtain rfl : (0x00E30A04 : W32) = w := Option.some.inj hw
    obtain rfl : a = 0x00FF000000000000 := ha
    exact ⟨by decide, by decide, _, h, rfl, by show BitVec.ofNat 32 (ofBytes (Memory.read (Memory.write [] (qlmKey 0 0) (toBytes 4 0x00E30A04)) _ 4)) = _; decide +kernel⟩

theorem nextOf {α : Type} (o : Host.Outcome α Fault Refusal) (h : (match o with | .next _ => true | _ => false) = true) : ∃ t, o = .next t := by
  cases o with | next t => exact ⟨t, rfl⟩ | fault _ => cases h | refused _ => cases h

/-- A task whose instruction stands at its PC and decodes; an event, an act and a boundary as the one move; none. -/
theorem test_witness_StepRunsDecoded :
    (∃ (s : State) (ta : Nat) (ws : List W32), s.moves = [.run ta] ∧ s.boundary ta = none ∧ (s.slot ta).sptBad = none ∧ (s.slot ta).fbuf = [] ∧
      HoldsWords s ta (s.slot ta).pc ws ∧ (s.slot ta).paired = false ∧
      ∃ t, exec (meantBy ws) { s with cur := ta, slots := Store.set s.slots ta (shows (s.slot ta) ta ws) } = .next t) ∧
    (∃ ws i, decodeWords ws = .ok i) ∧
    (∃ (s : State) (n : Nat) (i : Instr) (t : State), s.moves = [.event n] ∧ s.agenda[n]? = some i ∧
      exec i { s with agenda := s.agenda.eraseIdx n } = .next t) ∧
    (∃ (s : State) (i : Instr) (t : State), s.moves = [.act i] ∧ exec i s = .next t) ∧
    (∃ (s : State) (ta : Nat) (i : Instr) (t : State), s.moves = [.run ta] ∧ s.boundary ta = some i ∧
      exec i (({ s with cur := ta } : State).showNext ta) = .next t) ∧ ∃ s : State, s.moves = [] := by
  have hd : decodeWords [0x00E30A04] = .ok (.add 5 6 7) := rfl
  have hm : meantBy [0x00E30A04] = .add 5 6 7 := by rw [meantBy, hd]
  refine ⟨⟨starting id, 0, [0x00E30A04], rfl, rfl, rfl, rfl, holds_add id rfl (by decide +kernel), rfl, ?_⟩, ⟨_, _, hd⟩,
    ⟨{ agenda := [.storeAck ⟨0, 1⟩] }, 0, _, _, rfl, rfl, rfl⟩, ⟨{ ras := { gated := [5] } }, _, _, rfl, rfl⟩,
    ⟨starting fun sl => { sl with budget := 0 }, 0, _, _, rfl, rfl, rfl⟩, ⟨{}, rfl⟩⟩
  rw [hm]
  exact nextOf _ (by decide +kernel)

/-- A well-formed instruction and its word (02_encoding.md, "Worked encodings"). -/
theorem test_witness_EncodeDecodeAll : ∃ i ws, i.wf = true ∧ encode i = some ws ∧ ∃ us, decodeWords us = .ok i :=
  ⟨.add 5 6 7, [0x00E30A04], rfl, rfl, [0x00E30A04], rfl⟩

theorem test_witness_MemoryStaysCanonical : ∃ s t : State, Memory.wf s.mem = true ∧ step s = .next t := ⟨State.reset, _, rfl, rfl⟩

end Sys2Proof.Tests
end

section
/-! SUPPORT. The proofs about the machine as a whole: no step stops it (R7, R38), and the state after power-on reset
(R8, R13, R316, R330). -/

namespace Sys2Proof

/-- A splice word: the one instruction whose meaning is the meaning of another (R272). -/
def Instr.isSpliceWord : Instr → Bool
  | .spliceWord .. => true
  | _ => false

end Sys2Proof

namespace Sys2Proof.Machine

/-! ## The shared forms answer a next state

Every form that instructions share is `issue` or `issueTo` of its body, so that each has a next state by `issueTo_next`. -/

theorem int3_next (f : Word → Word → Word) (d a b : Reg) (s : State) : ∃ t, int3 f d a b s = .next t :=
  issue_next ..
theorem int1_next (f : Word → Word) (d a : Reg) (s : State) : ∃ t, int1 f d a s = .next t :=
  issue_next ..
theorem intI_next (f : Word → Word → Word) (d a : Reg) (i : BitVec 11) (s : State) : ∃ t, intI f d a i s = .next t :=
  int1_next ..
theorem xint_next (l : List Src) (d : Dst) (f : State → Word) (s : State) : ∃ t, xint l d f s = .next t :=
  issue_next ..
theorem xint2_next (f : Word → Word → Word) (o : XInt) (s : State) : ∃ t, xint2 f o s = .next t :=
  xint_next ..
theorem branchIf_next (f : Word → Word → Bool) (a b : Src) (g : State → Word) (s : State) :
    ∃ t, branchIf f a b g s = .next t :=
  issueTo_next ..
theorem jumpTo_next (g : State → Word) (s : State) : ∃ t, jumpTo g s = .next t :=
  issueTo_next ..
theorem callTo_next (g : State → Word) (s : State) : ∃ t, callTo g s = .next t :=
  issueTo_next ..
theorem loadTo_next (n : Nat) (x : Bool) (l : List Src) (d : Dst) (f : State → Word) (h : Hint) (aq : Bool) (s : State) :
    ∃ t, loadTo n x l d f h aq s = .next t :=
  issue_next ..
theorem nload_next (n : Nat) (x : Bool) (d a : Reg) (i : BitVec 11) (s : State) : ∃ t, nload n x d a i s = .next t :=
  loadTo_next ..
theorem xload_next (n : Nat) (x : Bool) (o : XLoad) (s : State) : ∃ t, xload n x o s = .next t :=
  loadTo_next ..
theorem storeFrom_next (n : Nat) (l : List Src) (d : Reg) (f : State → Word) (rl : Option Scope) (h : Hint) (s : State) :
    ∃ t, storeFrom n l d f rl h s = .next t :=
  issue_next ..
theorem nstore_next (n : Nat) (d a : Reg) (i : BitVec 11) (s : State) : ∃ t, nstore n d a i s = .next t :=
  storeFrom_next ..
theorem xstore_next (n : Nat) (o : XStore) (s : State) : ∃ t, xstore n o s = .next t :=
  storeFrom_next ..
theorem amoOp_next (fn : AmoFn) (ty : Ty) (rm : Rm) (l : List Src) (d : Dst) (a b : Reg) (c : Option Reg) (off : W32)
    (rl : Option Scope) (aq : Bool) (h : Hint) (s : State) : ∃ t, amoOp fn ty rm l d a b c off rl aq h s = .next t :=
  issue_next ..
theorem amo_next (fn : AmoFn) (o : AmoOp) (s : State) : ∃ t, amo fn o s = .next t :=
  amoOp_next ..
theorem vecOp_next (d : VReg) (ty : Ty) (rm : Rm) (m : VMask) (l : List VReg) (op : State → FpEnv → Nat → FpRes)
    (s : State) : ∃ t, vecOp d ty rm m l op s = .next t :=
  issue_next ..
theorem varith1_next (f : Nat) (o : V1) (s : State) : ∃ t, varith1 f o s = .next t :=
  vecOp_next ..
theorem varith2_next (f : Nat) (o : V2) (s : State) : ∃ t, varith2 f o s = .next t :=
  vecOp_next ..
theorem varith3_next (np nz : Bool) (o : V3) (s : State) : ∃ t, varith3 np nz o s = .next t :=
  vecOp_next ..
theorem vnative_next (f : Nat) (d a b : VReg) (ty : Ty) (s : State) : ∃ t, vnative f d a b ty s = .next t :=
  varith2_next ..
theorem vcmp_next (f : Nat) (o : VCmpOp) (s : State) : ∃ t, vcmp f o s = .next t :=
  issue_next ..
theorem vred_next (f : Nat) (o : V1) (s : State) : ∃ t, vred f o s = .next t :=
  issue_next ..
theorem vload_next (d : VReg) (ty : Ty) (h : Hint) (m : VMask) (l : List Src) (idx : List VReg) (f : State → Nat → Word)
    (one : Bool) (s : State) : ∃ t, vload d ty h m l idx f one s = .next t :=
  issue_next ..
theorem vstore_next (d : VReg) (ty : Ty) (h : Hint) (m : VMask) (l : List Src) (idx : List VReg) (f : State → Nat → Word)
    (s : State) : ∃ t, vstore d ty h m l idx f s = .next t :=
  issue_next ..
theorem kop_next (d : KReg) (f : State → KWord) (s : State) : ∃ t, kop d f s = .next t :=
  issue_next ..
theorem kread_next (d : Reg) (f : State → Word) (s : State) : ∃ t, kread d f s = .next t :=
  issue_next ..
theorem collOp_next (f : Nat) (d : Reg) (a : Src) (s : State) : ∃ t, collOp f d a s = .next t :=
  issue_next ..
theorem sf_next (l : List Src) (d a : Reg) (pl : State → Region → Res (List (Place × Nat))) (no : Region → Option Nat)
    (act : State → Nat → Region → List (Place × Nat) → State) (s : State) : ∃ t, sf l d a pl no act s = .next t :=
  issue_next ..

/-! ## The instructions with a form of their own -/

theorem execSfbias_next (d : Reg) (a b : Src) (i16 : Bool) (sc : BitVec 7) (s : State) :
    ∃ t, execSfbias d a b i16 sc s = .next t := by
  unfold execSfbias
  exact sf_next ..

theorem execSfsmp_next (d : Reg) (a b : Src) (fp32 : Bool) (s : State) : ∃ t, execSfsmp d a b fp32 s = .next t := by
  unfold execSfsmp
  exact sf_next ..

theorem execEndTask_next (s : State) : ∃ t, execEndTask s = .next t := by
  unfold execEndTask
  split <;> exact ⟨_, rfl⟩

theorem execPmcfg_next (d : Reg) (n : BitVec 2) (a : Src) (s : State) : ∃ t, execPmcfg d n a s = .next t := by
  unfold execPmcfg
  split <;> exact ⟨_, rfl⟩

theorem execAtomicAtHome_next (r : AmoReq) (s : State) : ∃ t, execAtomicAtHome r s = .next t := by
  unfold execAtomicAtHome
  split
  · exact ⟨_, rfl⟩
  · split <;> exact ⟨_, rfl⟩

/-! ## Every instruction and event -/

/-- The cases are grouped by the form that gives the instruction its meaning; an event's meaning is a next state
outright. -/
theorem exec_next_of_not_spliceWord (i : Instr) (hi : i.isSpliceWord = false) (s : State) : ∃ t, exec i s = .next t := by
  cases i with dsimp only [exec]
  | addX | subX | mulX | mulhX | mulhuX | divX | divuX | remX | remuX | andX | orX | xorX | andnX | shlX | shrX | sraX
  | rolX | minX | maxX | minuX | maxuX | cmpEqX | cmpNeX | cmpLtX | cmpLtuX | cmpGeX | cmpGeuX => exact xint2_next ..
  | sel | bfx | bfi | addpc | li => exact xint_next ..
  | ldBX | ldHX | ldWX | ldDX | ldsBX | ldsHX | ldsWX => exact xload_next ..
  | stBX | stHX | stWX | stDX => exact xstore_next ..
  | pref | put | pset | vcvt | vbcast | vextr | vins | kset | mma | aclr | ald | ast | amov | ggset | ggrng | ggmask
  | spawn | spawnr | gang | depset | depdec | epush | epop | cancel | barinit | bararv | barwait | barsync | barack
  | barpois | barstat | l2pin | l2unpin | l2stat | l2flush | fence | ifence | drain | sendam | cpset | cpgo | cpstat
  | cpabort | waitany | waitall | ffrdy | tagclr | tagget | sopen | ssend | srecv | spoll | spass | saccept | sclose
  | sstat | swatch | sflush | sfwait | sfstat | sfacpt | splload | splget | trap | rdsr | wrsr | pair | unpair | pmrd
  | mark | take | ptest | pempty => exact issue_next ..
  | beqX | bneX | bltX | bltuX | bgeX | bgeuX | beq | bne | blt | bltu | bge | bgeu => exact branchIf_next ..
  | bX | br => exact jumpTo_next ..
  | callX | call => exact callTo_next ..
  | vaddX | vsubX | vmulX | vdiv | vminX | vmaxX | vshl | vshr | vsra | vandX | vorX | vxorX | vmulh => exact varith2_next ..
  | vabs | vneg | vsqrt | vrcp | vrsq | vexp2 | vlog2 => exact varith1_next ..
  | vfma | vfms | vfnma => exact varith3_next ..
  | vsel | vperm | vslide | viota => exact vecOp_next ..
  | vcmpEq | vcmpNe | vcmpLt | vcmpLe | vcmpGt | vcmpGe | vcmpUn | vcmpLtu => exact vcmp_next ..
  | vredAdd | vredMax | vredMin | vredAnd | vredOr => exact vred_next ..
  | vld | vlds | vgath | vldb => exact vload_next ..
  | vst | vsts | vscat => exact vstore_next ..
  | kand | kor | kxor | knot => exact kop_next ..
  | kget | kpopc | kfirst => exact kread_next ..
  | amoSwap | amoAdd | amoAnd | amoOr | amoXor | amoMin | amoMax | amoMinu | amoMaxu | amoFadd | amoFmin
  | amoFmax => exact amo_next ..
  | amoCas => exact amoOp_next ..
  | creduce | callred | cbcast | cgather => exact collOp_next ..
  | sfcfg | sfscl | sfseed | sfrun | sfhalt | sfdln | sfrel => exact sf_next ..
  | add | sub | mul | mulh | mulhu | div | divu | rem | remu | and | or | xor | andn | shl | shr | sra | rol | min
  | max | minu | maxu | cmpEq | cmpNe | cmpLt | cmpLtu | cmpGe | cmpGeu => exact int3_next ..
  | mov | clz | ctz | popc | sextB | sextH | sextW | zextB | zextH | zextW | not | brev => exact int1_next ..
  | addi | andi | ori | xori | shli | shri | srai | cmpiEq | cmpiLt | cmpiLtu => exact intI_next ..
  | ldB | ldH | ldW | ldD | ldsB | ldsH | ldsW => exact nload_next ..
  | stB | stH | stW | stD => exact nstore_next ..
  | jr | dbnz => exact issueTo_next ..
  | vadd | vsub | vmul | vmin | vmax | vand | vor | vxor => exact vnative_next ..
  | sfbias => exact execSfbias_next ..
  | sfsmp => exact execSfsmp_next ..
  | endTask => exact execEndTask_next ..
  | pmcfg => exact execPmcfg_next ..
  | atomicAtHome => exact execAtomicAtHome_next ..
  | loadDataArrival | storeAck | parkedStoreRetranslate | remoteWriteArrival | atomicReturn | edgeDeferredPush
  | barrierArrival | barrierAck | copyExecute | copyCompletion | collectiveCommit | collectiveAbort | collectiveWatchdog
  | settleSaturation | settleCertify | settleTimeout | settleConfigError | strandItemArrival | strandCreditReturn
  | strandMoveRequest | strandStopperArrival | strandRouteSwitch | strandFray | launchItemSend | retireGo
  | thermalEmergency | thermalResume | quadWakeTest | controlInterval | railDroop | marginError | histogramDecay
  | deviceLostTimeout | hostMemAccess | spdmRequest | replayRunGo | replayEnforceTimeout | handlerActivationStart
  | taskStart | taskSteal | gangPlace | gangAgingReserve | unitResume | copyTrap | pageWalk | duty | unknownCommand
  | resume | skip | goto | fcont | killt | killg | killc | replay | abandon | grow | fbclr | traceEnable | traceClear
  | traceResume | railPowerWrite | formatRegionWrite | peerMemAccess | traceTailWrite | illegalWord
  | activationRedelivery | rxfull | sfReply | traceRecord | launchItemAccept | retireSwitch | faultService
  | errorDetected | lashedExchange | thermalMove | quadPowerGate | powerOnReset | linkGridSnapshot | replayPassComplete
  | svcCreditWrite | budgetExpiry | deadlineFire | deadlineDiversion | ctxCreate | ctxKill | inval | launchOpen
  | launchClose | svcRing | devLost | lyongSetup | strandWire | strandFree | quiesce | imageWrite | imageRestore
  | unquiesce | preempt | thaw | dbgMap | registerWrite | lyongPortTraining | launchItemApproval => exact ⟨_, rfl⟩
  | spliceWord => cases hi

/-- An expanded instruction has its own meaning, or is no extended form and raises ILLEGAL (R272, R58). -/
theorem execExtended_eq (i : Instr) (s : State) :
    execExtended i s = execIllegalWord s ∨ (i.isSpliceWord = false ∧ execExtended i s = exec i s) := by
  cases i <;> dsimp only [execExtended, exec, Instr.isSpliceWord] <;> simp only [and_self, true_or, or_true]

theorem execExtended_next (i : Instr) (s : State) : ∃ t, execExtended i s = .next t := by
  obtain h | ⟨hi, h⟩ := execExtended_eq i s
  · exact ⟨_, h⟩
  · rw [h]
    exact exec_next_of_not_spliceWord i hi s

/-- A splice word raises at each check that fails, and else does what its expanded instruction does (R52, R272). -/
theorem execSpliceWord_next (idx : BitVec 7) (ha hb hc : BitVec 6) (hd : BitVec 5) (s : State) :
    ∃ t, execSpliceWord idx ha hb hc hd s = .next t := by
  unfold execSpliceWord
  extract_lets sl w entry bad
  cases entry with
  | none => exact ⟨_, rfl⟩
  | some e =>
    dsimp only
    split
    · exact ⟨_, rfl⟩
    · split
      · exact ⟨_, rfl⟩
      · split
        · exact ⟨_, rfl⟩
        · exact execExtended_next ..

theorem exec_next (i : Instr) (s : State) : ∃ t, exec i s = .next t := by
  cases h : i.isSpliceWord with
  | false => exact exec_next_of_not_spliceWord i h s
  | true =>
    cases i with
    | spliceWord idx ha hb hc hd => exact execSpliceWord_next ..
    | _ => cases h

/-- With no move, or with none to execute, time passes; else the instruction or event of the move has a next state. -/
theorem step_next (s : State) : ∃ t, step s = .next t := by
  unfold step
  split
  case h_1 => exact ⟨_, rfl⟩
  case h_2 m _ =>
    split
    case h_1 => exact ⟨_, rfl⟩
    case h_2 u i _ =>
      obtain ⟨t, ht⟩ := exec_next i u
      rw [ht]
      exact ⟨_, rfl⟩

/-- Settles O58: every form that instructions share, and every event, answers a next state, and so does the step around
it. -/
theorem nothingStops : Obligations.NothingStops :=
  ⟨exec_next, step_next⟩

/-! ## The state after reset -/

/-- An entry of the virtual quad table after reset: in service, and the quad itself (log 2). -/
theorem State.reset_vqEntry (d v : Nat) : State.reset.vqEntry d v = BitVec.ofNat 32 (2 ^ 31 + v) := rfl

theorem State.reset_present (d : Nat) {v : Nat} (h : v < 512) : State.reset.present d v = true := by
  rw [State.present, State.reset_vqEntry, bit, BitVec.getLsbD_ofNat, Nat.testBit_two_pow_add_eq]
  simp [Nat.testBit_lt_two_pow (show v < 2 ^ 31 by omega)]

theorem State.reset_physOf (d : Nat) {v : Nat} (h : v < 512) : State.reset.physOf d v = v := by
  rw [State.physOf, State.reset_vqEntry, slice, BitVec.toNat_ofNat]
  omega

theorem State.reset_fmtReg (f b : Nat) : State.reset.fmtReg f b = {} := by
  show (Vector.replicate 64 ({} : FmtRegion)).toList.getD (8 * b + f) {} = {}
  rw [Vector.toList_replicate, List.getD_eq_getElem?_getD, List.getElem?_getD_replicate_default_eq]

theorem State.reset_arg (i : Nat) : State.reset.arg i = 0 := by
  show (Vector.replicate 6 (0 : Word)).toList.getD i 0 = 0
  rw [Vector.toList_replicate, List.getD_eq_getElem?_getD, List.getElem?_getD_replicate_default_eq]

/-- Settles O57: every table is empty after reset, so that a look in it gives the default, and the two register files
that are vectors hold one value throughout; the entries of the quad table are computed for each quad. -/
theorem resetState : Obligations.ResetState := by
  unfold Obligations.ResetState
  have hmem : ∀ k, Memory.get State.reset.mem k = 0 := fun _ => rfl
  have hctx : ∀ n, State.reset.ctx n = none := fun _ => rfl
  have hslot : ∀ ta, (State.reset.slot ta).st = .idle := fun _ => rfl
  have hwin : ∀ i, State.reset.win i = {} := fun _ => rfl
  have hbank : ∀ d i, ((State.reset.bank d).rec' i).valid = false := fun _ _ => rfl
  have hret : ∀ b, State.reset.retBlk b = {} := fun _ => rfl
  have hrow : ∀ r, State.reset.row r = {} := fun _ => rfl
  exact ⟨State.reset_wf, hmem, hctx, hslot, fun f b _ _ => State.reset_fmtReg f b, State.reset_arg, rfl, rfl, rfl, hwin,
    rfl, rfl, rfl, rfl, rfl, rfl, rfl, rfl, rfl, hbank, hret, fun r => by rw [hrow]; exact ⟨rfl, rfl, rfl, rfl⟩,
    fun d v hv => ⟨State.reset_present d hv, State.reset_physOf d hv⟩⟩

end Sys2Proof.Machine
end

section
/-! SUPPORT. What an instruction that examines its sources first does when one of them is EMPTY or POISON (R30, R43, R46),
and what the state is once a fault is taken (R335). -/

namespace Sys2Proof.Machine

open Sys2Proof.Claims

/-! ## Taking a fault -/

/-- A trace record adds itself to the agenda at most, and changes nothing else (R364). -/
theorem State.note_eq (s : State) (r : TraceRec) : ∃ l, l.length ≤ 1 ∧ s.note r = { s with agenda := s.agenda ++ l } := by
  unfold State.note
  split
  · exact ⟨[.traceRecord r s.time], Nat.le_refl 1, rfl⟩
  · exact ⟨[], Nat.zero_le 1, by rw [List.append_nil]⟩

/-- A task slot that takes a fault freezes with its packet, which goes to the supervisor, with a trace record at most
(R335, R365). -/
theorem State.raise_task {s : State} {ta : Nat} (h : taHnd ta = false) (c : Nat) (v : Word) :
    ∃ l, l.length ≤ 1 ∧ s.raise ta c v =
      { s.modSlot ta fun sl => { sl with st := .frozen, pkt := s.packetOf ta c v false false } with
        agenda := s.agenda ++ .faultService (s.packetOf ta c v false false) :: l } := by
  unfold State.raise State.raiseAs
  rw [h]
  obtain ⟨l, hl, hn⟩ := State.note_eq
    ((s.modSlot ta fun sl => { sl with st := .frozen, pkt := s.packetOf ta c v false false }).post
      (.faultService (s.packetOf ta c v false false))) ⟨6, (s.slot ta).ctx, c, v.setWidth 32, BitVec.ofNat 64 ta, (s.slot ta).pc⟩
  exact ⟨l, hl, hn.trans (by rw [State.post_agenda, State.modSlot_agenda, List.append_assoc]; rfl)⟩

/-- What an instruction of a task leaves when it raises a fault with nothing else done (R335, R353). -/
theorem State.faulted_raise {s : State} (h : taHnd s.cur = false) (c : Nat) (v : Word) :
    Faulted s ((s.uncount s).raise s.cur c v) c v := by
  obtain ⟨l, hl, ht⟩ := State.raise_task (s := s.uncount s) h c v
  rw [ht]
  exact
    { me := ⟨_, Store.get_set_same .., rfl, rfl, rfl, rfl, rfl, rfl, rfl, rfl, l, rfl, hl⟩
      cur := rfl, mem := rfl, poison := rfl
      others := fun ta hta => Store.get_set_other _ _ _ hta }

/-- An instruction of no lashed pair whose body raises where it stands takes the fault. -/
theorem issueTo_faulted {p : Pipe} {r : Reach} {body : State → Res Word} {s : State} {c : Nat} {v : Word}
    (hp : Solo s) (h : taHnd s.cur = false) (hb : body s = .trap s c v) :
    ∃ t, issueTo p r body s = .next t ∧ Faulted s t c v :=
  ⟨_, issueTo_trap (by rw [State.preIssue_single hp, hb]), State.faulted_raise h c v⟩

theorem issue_faulted {p : Pipe} {r : Reach} {body : State → Res Unit} {s : State} {c : Nat} {v : Word}
    (hp : Solo s) (h : taHnd s.cur = false) (hb : body s = .trap s c v) :
    ∃ t, issue p r body s = .next t ∧ Faulted s t c v :=
  issueTo_faulted hp h (by rw [hb]; rfl)

/-! ## The examination of the sources -/

/-- The first EMPTY source in trap mode raises PRESENCE (R46). -/
theorem State.examine_presence {s : State} {pre post : List Src} {x : Src}
    (hpre : ∀ y ∈ pre, y.trap = false ∨ (s.me.greg y.reg).pres ≠ .empty) (ht : x.trap = true)
    (hx : (s.me.greg x.reg).pres = .empty) : s.examine (pre ++ x :: post) = .trap s 0x03 (x.reg.setWidth 64) := by
  have hf : firstTrap s.me (pre ++ x :: post) = some x := by
    refine List.find?_eq_some_iff_append.2 ⟨by simp [ht, hx], pre, post, rfl, fun y hy => ?_⟩
    rcases hpre y hy with h | h <;> simp [h]
  unfold State.examine
  rw [hf]
  rfl

/-- No EMPTY source is in trap mode. -/
theorem firstTrap_none {sl : Slot} {l : List Src} (h : ∀ y ∈ l, y.trap = false ∨ (sl.greg y.reg).pres ≠ .empty) :
    firstTrap sl l = none := by
  refine List.find?_eq_none.2 fun y hy => ?_
  rcases h y hy with h | h <;> simp [h]

/-- With none of those, the first POISON source raises POISON (R30). -/
theorem State.examine_poison {s : State} {pre post : List Src} {x : Src}
    (ht : ∀ y ∈ pre ++ x :: post, y.trap = false ∨ (s.me.greg y.reg).pres ≠ .empty)
    (hpre : ∀ y ∈ pre, (s.me.greg y.reg).pres ≠ .poison) (hx : (s.me.greg x.reg).pres = .poison) :
    s.examine (pre ++ x :: post) = .trap s 0x04 (x.reg.setWidth 64) := by
  have hf : firstPois s.me (pre ++ x :: post) = some x :=
    List.find?_eq_some_iff_append.2 ⟨by simp [hx], pre, post, rfl, fun y hy => by simp [hpre y hy]⟩
  unfold State.examine
  rw [firstTrap_none ht, hf]
  rfl

/-- With neither, an EMPTY source holds the instruction back (R43). -/
theorem State.examine_wait {s : State} {l : List Src} (ht : ∀ y ∈ l, y.trap = false ∨ (s.me.greg y.reg).pres ≠ .empty)
    (hp : ∀ y ∈ l, (s.me.greg y.reg).pres ≠ .poison) (he : ∃ y ∈ l, (s.me.greg y.reg).pres = .empty) :
    s.examine l = .wait s := by
  have hf : firstPois s.me l = none := List.find?_eq_none.2 fun y hy => by simp [hp y hy]
  have ha : (l.any fun x => (s.me.greg x.reg).pres == .empty) = true := by simpa using he
  unfold State.examine
  rw [firstTrap_none ht, hf, ha]
  rfl

/-! ## The instructions that examine their sources first -/

theorem Res.bind_assoc {α β γ : Type} (x : Res α) (f : State → α → Res β) (g : State → β → Res γ) :
    (x.bind f).bind g = x.bind fun s a => (f s a).bind g := by
  cases x <;> rfl

/-- The meaning of an instruction begins with the examination of the sources l. -/
def ExaminesFirst (l : List Src) (run : State → Out) : Prop :=
  ∃ (p : Pipe) (r : Reach) (k : State → Unit → Res Word), run = issueTo p r fun s => (s.examine l).bind k

theorem issueTo_examinesFirst (p : Pipe) (r : Reach) (l : List Src) (k : State → Unit → Res Word) :
    ExaminesFirst l (issueTo p r fun s => (s.examine l).bind k) := ⟨p, r, k, rfl⟩

theorem issue_examinesFirst (p : Pipe) (r : Reach) (l : List Src) (k : State → Unit → Res Unit) :
    ExaminesFirst l (issue p r fun s => (s.examine l).bind k) :=
  ⟨p, r, fun s u => (k s u).bind fun s _ => .ok s s.nextPc, by
    funext s
    unfold issue
    simp only [Res.bind_assoc]⟩

theorem ySrcs_eq (y : YOp) : ySrcs y = y.srcs := by cases y <;> rfl

theorem xint2_examinesFirst (f : Word → Word → Word) (o : XInt) :
    ExaminesFirst (o.a :: ySrcs o.y ++ o.dst.srcs) (xint2 f o) := by
  rw [ySrcs_eq]
  exact issue_examinesFirst ..

/-- Every instruction of `sourcesOf` examines those sources first. -/
theorem exec_examinesFirst {i : Instr} {l : List Src} (h : sourcesOf i = some l) : ExaminesFirst l (exec i) := by
  cases i with
  | add | sub | mul | mulh | mulhu | div | divu | rem | remu | and | or | xor | andn | shl | shr | sra | rol | min | max
  | minu | maxu | cmpEq | cmpNe | cmpLt | cmpLtu | cmpGe | cmpGeu | stB | stH | stW | stD
  | mov | clz | ctz | popc | sextB | sextH | sextW | zextB | zextH | zextW | not | brev | addi | andi | ori | xori | shli
  | shri | srai | cmpiEq | cmpiLt | cmpiLtu | ldB | ldH | ldW | ldD | ldsB | ldsH | ldsW | put =>
    cases h; exact issue_examinesFirst ..
  | beq | bne | blt | bltu | bge | bgeu | beqX | bneX | bltX | bltuX | bgeX | bgeuX | jr | dbnz =>
    cases h; exact issueTo_examinesFirst ..
  | addX o | subX o | mulX o | mulhX o | mulhuX o | divX o | divuX o | remX o | remuX o | andX o | orX o | xorX o | andnX o
  | shlX o | shrX o | sraX o | rolX o | minX o | maxX o | minuX o | maxuX o | cmpEqX o | cmpNeX o | cmpLtX o | cmpLtuX o
  | cmpGeX o | cmpGeuX o =>
    obtain ⟨dst, a, y⟩ := o
    cases dst <;> cases h <;> exact xint2_examinesFirst ..
  | _ => cases h

/-- Settles O9: the instruction examines its sources first, so that it does what the examination answers. -/
theorem sourceExamination : Obligations.SourceExamination := by
  unfold Obligations.SourceExamination
  intro i l s hi hp hh
  obtain ⟨p, r, k, he⟩ := exec_examinesFirst hi
  rw [he]
  refine ⟨fun pre x post hl hpre ht hx => ?_, fun ht => ⟨fun pre x post hl hpre hx => ?_, fun hpo hem => ?_⟩⟩
  · subst hl
    exact issueTo_faulted hp hh (by rw [State.examine_presence hpre ht hx, Res.bind_trap])
  · subst hl
    exact issueTo_faulted hp hh (by rw [State.examine_poison ht hpre hx, Res.bind_trap])
  · exact issueTo_wait (by rw [State.preIssue_single hp, State.examine_wait ht hpo hem, Res.bind_wait])

end Sys2Proof.Machine
end

section
/-! SUPPORT. Results that leave their slot: the forms of XINT and PUT with a remote destination (R19, R20, R23, R47, R100). -/

namespace Sys2Proof.Machine

open Sys2Proof.Claims

/-! ## The functions of `int3Table` are those of the model (R88, R89) -/

theorem aluAdd_eq (x y : Word) : aluAdd x y = BitVec.ofNat 64 (x.toNat + y.toNat) := by
  rw [BitVec.ofNat_add, BitVec.ofNat_toNat, BitVec.ofNat_toNat, BitVec.setWidth_eq, BitVec.setWidth_eq]
  rfl

theorem aluSub_eq (x y : Word) : aluSub x y = BitVec.ofInt 64 (x.toInt - y.toInt) := by
  refine BitVec.eq_of_toInt_eq ?_
  rw [aluSub, BitVec.toInt_sub, BitVec.toInt_ofInt]

theorem aluMul_eq (x y : Word) : aluMul x y = BitVec.ofNat 64 (x.toNat * y.toNat) := by
  rw [BitVec.ofNat_mul, BitVec.ofNat_toNat, BitVec.ofNat_toNat, BitVec.setWidth_eq, BitVec.setWidth_eq]
  rfl

theorem aluMax_eq (x y : Word) : aluMax x y = if y.toInt ≤ x.toInt then x else y := by
  unfold aluMax
  rcases Int.lt_trichotomy x.toInt y.toInt with h | h | h
  · rw [if_pos h.le, if_neg (not_le.2 h)]
  · rw [if_pos h.le, if_pos h.ge, BitVec.eq_of_toInt_eq h]
  · rw [if_neg (not_le.2 h), if_pos h.le]

theorem aluMaxu_eq (x y : Word) : aluMaxu x y = if y.toNat ≤ x.toNat then x else y := by
  unfold aluMaxu
  rcases Nat.lt_trichotomy x.toNat y.toNat with h | h | h
  · rw [if_pos h.le, if_neg (not_le.2 h)]
  · rw [if_pos h.le, if_pos h.ge, BitVec.eq_of_toNat_eq h]
  · rw [if_neg (not_le.2 h), if_pos h.le]

theorem ofBool_decide (p : Prop) [Decidable p] : ofBool (decide p) = if p then 1 else 0 := by
  unfold ofBool
  split <;> simp_all

theorem aluCmpEq_eq (x y : Word) : aluCmpEq x y = if x = y then 1 else 0 := by
  rw [aluCmpEq, beq_eq_decide, ofBool_decide]

theorem aluCmpNe_eq (x y : Word) : aluCmpNe x y = if x = y then 0 else 1 := by
  rw [aluCmpNe, bne, beq_eq_decide, ← decide_not, ofBool_decide, ite_not]

/-- The rows of the table with the model's own functions. -/
theorem int3Table_eq : int3Table =
    [(.add, .addX, aluAdd), (.sub, .subX, aluSub), (.mul, .mulX, aluMul), (.mulh, .mulhX, aluMulh),
     (.mulhu, .mulhuX, aluMulhu), (.div, .divX, aluDiv), (.divu, .divuX, aluDivu), (.rem, .remX, aluRem),
     (.remu, .remuX, aluRemu), (.and, .andX, aluAnd), (.or, .orX, aluOr), (.xor, .xorX, aluXor),
     (.andn, .andnX, aluAndn), (.shl, .shlX, aluShl), (.shr, .shrX, aluShr), (.sra, .sraX, aluSra),
     (.rol, .rolX, aluRol), (.min, .minX, aluMin), (.max, .maxX, aluMax), (.minu, .minuX, aluMinu),
     (.maxu, .maxuX, aluMaxu), (.cmpEq, .cmpEqX, aluCmpEq), (.cmpNe, .cmpNeX, aluCmpNe),
     (.cmpLt, .cmpLtX, aluCmpLt), (.cmpLtu, .cmpLtuX, aluCmpLtu), (.cmpGe, .cmpGeX, aluCmpGe),
     (.cmpGeu, .cmpGeuX, aluCmpGeu)] := by
  have hshl : aluShl = fun x y : Word => x <<< (y.toNat % 64) := funext₂ fun x y => by rw [aluShl, slice_low6]
  have hshr : aluShr = fun x y : Word => x >>> (y.toNat % 64) := funext₂ fun x y => by rw [aluShr, slice_low6]
  have hsra : aluSra = fun x y : Word => x.sshiftRight (y.toNat % 64) := funext₂ fun x y => by rw [aluSra, slice_low6]
  rw [hshl, hshr, hsra, funext₂ aluAdd_eq, funext₂ aluSub_eq, funext₂ aluMul_eq, funext₂ aluRemu_eq,
    funext₂ aluRol_eq, funext₂ aluMax_eq, funext₂ aluMaxu_eq, funext₂ aluCmpEq_eq, funext₂ aluCmpNe_eq,
    show aluCmpLt = fun x y : Word => if x.toInt < y.toInt then 1 else 0 from funext₂ fun _ _ => ofBool_decide _,
    show aluCmpLtu = fun x y : Word => if x.toNat < y.toNat then 1 else 0 from funext₂ fun _ _ => ofBool_decide _,
    show aluCmpGe = fun x y : Word => if y.toInt ≤ x.toInt then 1 else 0 from funext₂ fun _ _ => ofBool_decide _,
    show aluCmpGeu = fun x y : Word => if y.toNat ≤ x.toNat then 1 else 0 from funext₂ fun _ _ => ofBool_decide _]
  rfl

/-- The extended form of every row is XINT with the row's function. -/
theorem exec_int3Table : ∀ e ∈ int3Table, ∀ o, exec (e.2.1 o) = xint2 e.2.2 o := by
  rw [int3Table_eq]
  simp only [List.forall_mem_cons, List.not_mem_nil, IsEmpty.forall_iff, implies_true, and_true]
  and_intros <;> exact fun _ => rfl

theorem State.y_eq (s : State) (y : YOp) : s.y y = yOf s y := by cases y <;> rfl

/-! ## Thread addresses (R19) -/

/-- A thread address with a bit of [63:32] set, or with slot bits in a handler's address, fails R19. -/
theorem State.taOk_false {s : State} (c : Ctx) {t : Word}
    (h : t.toNat / 2 ^ 32 ≠ 0 ∨ (t.getLsbD 2 = true ∧ t.toNat % 4 ≠ 0)) : s.taOk c t = false := by
  unfold State.taOk
  rcases h with h | ⟨h2, h0⟩
  · have h32 : (slice t 32 32 == 0) = false := by
      rw [beq_eq_false_iff_ne, slice, Nat.shiftRight_eq_div_pow]
      have := t.isLt
      omega
    rw [h32]
    rfl
  · have hs : (bit t 2 && slice t 0 2 != 0) = true := by
      have : slice t 0 2 = t.toNat % 4 := by simp [slice]
      rw [this, bit, h2]
      simpa using h0
    simp [hs]

/-- A thread address of this device, in the low 16 bits, names the device 0. -/
theorem State.devOf_local {s : State} {t : Word} (h : t.toNat / 2 ^ 16 = 0) : s.devOf t = 0 := by
  have h16 : slice t 16 16 = 0 := by rw [slice, Nat.shiftRight_eq_div_pow, h]; rfl
  unfold State.devOf
  rw [h16]
  exact ite_self 0

theorem State.taOk_of_named {s : State} (c : Ctx) {t : Word} (h : Named s t) : s.taOk c t = true := by
  obtain ⟨hlow, hslot, hq⟩ := h
  have hdev := State.devOf_local (s := s) hlow
  have hlt : t.toNat < 2 ^ 16 := by omega
  have h32 : slice t 32 32 = 0 := by rw [slice, Nat.shiftRight_eq_div_pow]; omega
  have hq' : s.present (slice t 14 2) (slice t 5 9) = true := by
    rw [slice, slice, Nat.shiftRight_eq_div_pow, Nat.shiftRight_eq_div_pow]
    exact hq
  have hs : (bit t 2 && slice t 0 2 != 0) = false := by
    rw [Bool.and_eq_false_imp]
    intro hb
    have : slice t 0 2 = t.toNat % 4 := by simp [slice]
    rw [this, hslot hb]
    rfl
  unfold State.taOk
  dsimp only
  rw [hdev, h32, hs, if_pos rfl, hq']
  rfl

/-! ## Sending (R23, R47, R341) -/

/-- With no atomic under way and nothing acquired outstanding, the wait for them passes (R211). -/
theorem State.waitAmo_ok {s : State} (h : NoAmo s) : s.waitAmo = .ok s () := by
  unfold State.waitAmo
  rw [show s.accessHeld = false from h]
  rfl

/-- A remote write lands in a register that is EMPTY and not pending (R23). -/
theorem Slot.mailReady_of_empty {sl : Slot} {n : BitVec 5} (hpres : (sl.greg (32 + n.setWidth 6)).pres = .empty)
    (hpend : (sl.greg (32 + n.setWidth 6)).pend = false) : sl.mailReady n = true := by
  unfold Slot.mailReady
  dsimp only
  rw [hpres, hpend]
  rfl

/-- The mailbox's message is taken at once (R23). -/
theorem State.rxOpen_of_openBox {s : State} {t : Word} {n : BitVec 5} (h : OpenBox s t n) (w : RemWrite)
    (hta : w.ta = t.toNat) (hctx : w.ctx = s.me.ctx) (hreg : w.reg = n) : s.rxOpen (taCore t.toNat) (msgOf w) = true := by
  obtain ⟨hlive, hc⟩ := h.live
  obtain ⟨hpres, hpend⟩ := h.empty
  have hbox : (s.slot t.toNat).mailReady n = true := Slot.mailReady_of_empty hpres hpend
  simp [State.rxOpen, h.held, msgOf, hta, hctx, hreg, hlive, hc, hbox]

/-- A message of a task that has not begun to send goes on its way to a core that takes it (R341). -/
theorem State.sendRx_ok {s : State} {core : Nat} {m : RxMsg} (i : Instr) (hh : taHnd s.cur = false)
    (hsent : s.me.sent = false) (hsending : s.me.sending = false) (hopen : s.rxOpen core m = true) :
    s.sendRx core m i = .ok (s.post i) () := by
  unfold State.sendRx State.send
  simp only [hsent, hsending, hopen, hh, Bool.or_true, Bool.false_eq_true, if_false, if_true]

/-- A remote write of a task to an open mailbox goes on its way (R20, R23, R47). -/
theorem State.putDst_remote {s : State} {n : BitVec 5} {e : Src} (v : Word) (hh : taHnd s.cur = false) (hq : Quiet s)
    (ha : NoAmo s) (hn : Named s (s.me.greg e.reg).val) (hb : OpenBox s (s.me.greg e.reg).val n) :
    s.putDst (.rem n e) v = .ok (s.post (mail s (s.me.greg e.reg).val n v)) () := by
  obtain ⟨hv, hr⟩ := hq
  obtain ⟨hsent, hsending⟩ := hb.fresh
  have hlow := hn.1
  have hdev : s.devOf (s.g e.reg) = 0 := State.devOf_local hlow
  have hpair : s.pairOf (slice (s.g e.reg) 0 16) = (s.me.greg e.reg).val.toNat := by
    have : slice (s.g e.reg) 0 16 = (s.me.greg e.reg).val.toNat := by
      show (s.me.greg e.reg).val.toNat >>> 0 % 2 ^ 16 = _
      rw [Nat.shiftRight_zero]
      omega
    rw [this, State.pairOf, hb.alone]
    rfl
  have hopen := State.rxOpen_of_openBox hb ⟨s.selfAddr, s.me.ctx, (s.me.greg e.reg).val.toNat, n, v, false⟩ rfl rfl rfl
  have htarget : s.target (s.g e.reg) = .ok s () := need_ok (State.taOk_of_named _ hn) ..
  show (s.target (s.g e.reg)).bind _ = _
  rw [htarget, Res.bind_ok, State.sendRemote, State.waitRpq_ok hv hr, Res.bind_ok, State.waitAmo_ok ha, Res.bind_ok,
    if_neg (not_not.2 hdev)]
  dsimp only
  rw [hpair]
  exact State.sendRx_ok _ hh hsent hsending hopen

/-- XINT sends its result to an open mailbox and ends (R20, R47). -/
theorem xint_sends {l : List Src} {n : BitVec 5} {e : Src} (f : State → Word) {s : State} (hp : Solo s)
    (hh : taHnd s.cur = false) (hq : Quiet s) (ha : NoAmo s) (he : Full s e.reg) (hn : Named s (s.me.greg e.reg).val)
    (hb : OpenBox s (s.me.greg e.reg).val n) (hl : FullAll s l) :
    xint l (.rem n e) f s = .next (ended .s (s.post (mail s (s.me.greg e.reg).val n (f s)))) :=
  xint_remote f hp hl he (State.putDst_remote _ hh hq ha hn hb)

/-- XINT whose thread address fails R19 raises PROTECT with it (R19, R47). -/
theorem xint_protect {l : List Src} {n : BitVec 5} {e : Src} (f : State → Word) {s : State} (hp : Solo s)
    (hh : taHnd s.cur = false) (he : Full s e.reg) (hl : FullAll s l)
    (ht : s.taOk s.myCtx (s.me.greg e.reg).val = false) :
    ∃ t, xint l (.rem n e) f s = .next t ∧ Faulted s t 0x07 (s.me.greg e.reg).val := by
  refine issue_faulted hp hh ?_
  have hsrc : s.examine (l ++ (Dst.rem n e).srcs) = .ok s () :=
    State.examine_ok (List.forall_mem_append.2 ⟨hl, List.forall_mem_singleton.2 he⟩)
  rw [hsrc, Res.bind_ok]
  show ((need (s.taOk s.myCtx (s.g e.reg)) 0x07 (s.g e.reg) s).bind _ : Res Unit) = _
  rw [show s.taOk s.myCtx (s.g e.reg) = false from ht]
  rfl

/-- Settles O11: each of the forms is XINT with a remote destination, whose result the open mailbox takes. -/
theorem remoteResults : Obligations.RemoteResults := by
  unfold Obligations.RemoteResults
  intro s n e hp hh hq ha he hn hb
  have send (l : List Src) (f : State → Word) (hl : FullAll s l) :
      xint l (.rem n e) f s = .next (ended .s (s.post (mail s (s.me.greg e.reg).val n (f s)))) :=
    xint_sends f hp hh hq ha he hn hb hl
  refine ⟨fun x hx a y hl => ?_, fun a y c hl => ?_, fun y hl => ?_, fun off => ?_, fun a hl => ?_⟩
  · unfold Sends
    rw [exec_int3Table x hx, ← State.y_eq]
    exact send (a :: y.srcs) _ (ySrcs_eq y ▸ hl)
  · unfold Sends
    rw [← State.y_eq]
    exact send (a :: y.srcs ++ [c]) _ (ySrcs_eq y ▸ hl)
  · unfold Sends
    rw [← State.y_eq]
    exact send y.srcs _ (ySrcs_eq y ▸ hl)
  · exact send [] _ (List.forall_mem_nil _)
  · exact send [a] _ (List.forall_mem_singleton.2 hl)

/-- Settles O12: with such a thread address the check of R19 fails in XINT and in PUT, which is XINT. -/
theorem remoteTargetChecks : Obligations.RemoteTargetChecks := by
  unfold Obligations.RemoteTargetChecks
  intro s n e hp hh he ht
  have hbad := State.taOk_false (s := s) s.myCtx ht
  refine ⟨fun x hx a y hl => ?_, fun a hl => ?_⟩
  · rw [exec_int3Table x hx]
    exact xint_protect (l := a :: y.srcs) _ hp hh he (ySrcs_eq y ▸ hl) hbad
  · exact xint_protect (l := [a]) _ hp hh he (List.forall_mem_singleton.2 hl) hbad

end Sys2Proof.Machine
end

section
/-! SUPPORT. What one step does with the move that it makes (R11, R36 to R38, R58): the fetch of an instruction that
stands in QLM, the state in which it executes, and the end of the move. -/

namespace Sys2Proof.Machine

open Sys2Proof.Claims

/-! ## Tables -/

/-- Of two writes at one key the second stays. -/
theorem Store.set_set_same {α : Type} (m : Store α) (k : Nat) (x y : α) :
    Store.set (Store.set m k x) k y = Store.set m k y := by
  induction m with
  | nil => simp [Store.set]
  | cons p rest ih =>
    obtain ⟨j, v⟩ := p
    simp only [Store.set]
    split
    · simp [Store.set]
    · split
      · simp [Store.set]
      · next h1 h2 => simp [Store.set, h1, h2, ih]

/-! ## The fetch of an instruction in QLM (R36, R39) -/

/-- A clean word stands at an address of QLM that the slot may read. -/
def HoldsWord (s : State) (ta : Nat) (a : Word) (w : W32) : Prop :=
  a.toNat / 2 ^ 56 = 0 ∧ inQlmBlock a = true ∧ ∃ key, s.protect ta a 4 false = some (some key) ∧
    s.pois key 4 = false ∧ BitVec.ofNat 32 (ofBytes (s.bytes key 4)) = w

/-- The place of such a word, from which it is fetched. -/
theorem State.fetch_holdsWord {s : State} {ta : Nat} {a : Word} {w : W32} (h : HoldsWord s ta a w) :
    ∃ p, s.fetchPlace ta a = (s, .ok p) ∧ s.fetchAt ta p = (s, w, false) := by
  obtain ⟨ha, hq, key, hprot, hpois, hw⟩ := h
  have h56 : ¬ slice a 56 8 ≠ 0 := by
    rw [slice, Nat.shiftRight_eq_div_pow, ha]
    simp
  refine ⟨(⟨key, 0, false, none, 0, 0⟩, true), ?_, ?_⟩
  · unfold State.fetchPlace
    rw [if_neg h56, if_pos hq, hprot]
  · unfold State.fetchAt
    rw [if_pos rfl, hpois, hw]

/-- Words that stand at addresses are fetched from their places, and nothing changes. -/
theorem State.fetchPlaces_holds {s : State} {ta : Nat} {as : List Word} {ws : List W32}
    (h : List.Forall₂ (HoldsWord s ta) as ws) :
    ∃ ps, s.fetchPlaces ta as = (s, .ok ps) ∧ s.fetchWords ta ps = (s, .ok ws) := by
  induction h with
  | nil => exact ⟨[], rfl, rfl⟩
  | @cons a w as ws hw _ ih =>
    obtain ⟨p, hp, hat⟩ := State.fetch_holdsWord hw
    obtain ⟨ps, hps, hws⟩ := ih
    refine ⟨(a, p) :: ps, ?_, ?_⟩
    · unfold State.fetchPlaces
      simp only [hp, hps]
    · unfold State.fetchWords
      simp only [hat, hws]

/-- The words of `HoldsWords` stand at the addresses at which a fetch reads them: the first at PC, the others after it. -/
theorem HoldsWord.of_holdsWords {s : State} {ta : Nat} {pc : Word} {w : W32} {ws : List W32}
    (h : HoldsWords s ta pc (w :: ws)) : HoldsWord s ta pc w ∧
      List.Forall₂ (HoldsWord s ta) ((List.range ws.length).map fun i => pc + BitVec.ofNat 64 (4 * (i + 1))) ws := by
  obtain ⟨_, _, hat⟩ := h
  refine ⟨hat 0 w rfl pc (by simp), List.forall₂_iff_get.2 ⟨by simp, fun i _ h2 => ?_⟩⟩
  rw [List.get_eq_getElem, List.getElem_map, List.getElem_range]
  exact hat (i + 1) ws[i] (by simp) _ rfl

/-- An instruction that stands in QLM is fetched without a fault, and nothing changes (R36, R39). -/
theorem State.fetchOne_holds {s : State} {ta : Nat} {pc : Word} {ws : List W32} (h : HoldsWords s ta pc ws) :
    s.fetchOne ta pc = (s, .ok ws, []) := by
  obtain ⟨hpc, ⟨w, rest, rfl, hlen⟩, _⟩ := id h
  obtain ⟨hhead, htail⟩ := HoldsWord.of_holdsWords h
  obtain ⟨p, hp, hat⟩ := State.fetch_holdsWord hhead
  obtain ⟨ps, hps, hws⟩ := State.fetchPlaces_holds htail
  have h4 : ¬ slice pc 0 2 ≠ 0 := by
    rw [slice, Nat.shiftRight_zero, not_not]
    exact hpc
  have hn : wordCount w - 1 = rest.length := by rw [← hlen]; rfl
  have hinstr : s.fetchInstr ta pc = (s, .ok (w :: rest)) := by
    unfold State.fetchInstr
    rw [if_neg h4]
    simp only [hp, hat, hn, hps, hws]
  unfold State.fetchOne
  rw [if_pos hhead.2.1, hinstr]

/-- With an empty fetch buffer the words at PC are fetched, and are all that the buffer then holds (R38). -/
theorem State.fetchPc_empty {s : State} {ta : Nat} {ws : List W32} (hf : (s.slot ta).fbuf = [])
    (h : s.fetchOne ta (s.slot ta).pc = (s, .ok ws, [])) : s.fetchPc ta =
      (s.modSlot ta fun sl => { sl with fbuf := [sl.bufEntry (taHnd ta) sl.pc ws []] }, .ok ws) := by
  have hbuf : (s.slot ta).buffered = none := by rw [Slot.buffered, hf]
  unfold State.fetchPc
  simp only [hbuf, h, hf, List.head?_nil, Option.map_none, reduceCtorEq, if_false]
  rfl

/-- A slot with an empty fetch buffer reaches the instruction at its PC, which it shows (R38, R58). -/
theorem State.reach_holds {s : State} {ta : Nat} {ws : List W32} (hb : (s.slot ta).sptBad = none)
    (hf : (s.slot ta).fbuf = []) (h : HoldsWords s ta (s.slot ta).pc ws) :
    s.reach ta = ({ s with cur := ta, slots := Store.set s.slots ta (shows (s.slot ta) ta ws) }, some (meantBy ws)) := by
  have hfresh : ({ s with cur := ta } : State).freshFifth ta = { s with cur := ta } :=
    if_neg (by rw [show (({ s with cur := ta } : State).slot ta).fbuf = [] from hf]; exact Nat.not_lt_zero 4)
  have hone : ({ s with cur := ta } : State).fetchOne ta (s.slot ta).pc = ({ s with cur := ta }, .ok ws, []) :=
    State.fetchOne_holds h
  have hshown : ((({ s with cur := ta } : State).modSlot ta fun sl =>
        { sl with fbuf := [sl.bufEntry (taHnd ta) sl.pc ws []] }).modSlot ta fun sl => sl.showWords ws ws.length) =
      { s with cur := ta, slots := Store.set s.slots ta (shows (s.slot ta) ta ws) } := by
    conv_lhs => rw [State.modSlot, State.slot_modSlot, State.modSlot, State.setSlot, State.setSlot, Store.set_set_same]
    rfl
  unfold State.reach
  rw [hfresh, State.fetchPc_empty (s := { s with cur := ta }) hf hone]
  dsimp only
  rw [hshown]
  have hbad : (({ s with cur := ta, slots := Store.set s.slots ta (shows (s.slot ta) ta ws) } : State).slot ta).sptBad = none := by
    rw [show ({ s with cur := ta, slots := Store.set s.slots ta (shows (s.slot ta) ta ws) } : State).slot ta =
      shows (s.slot ta) ta ws from Store.get_set_same ..]
    exact hb
  rw [hbad]
  rfl

/-! ## The step -/

theorem State.choose_one {s : State} {m : Move} (h : s.moves = [m]) : s.choose = some m := by
  unfold State.choose
  rw [h]

theorem State.choose_nil {s : State} (h : s.moves = []) : s.choose = none := by
  unfold State.choose
  rw [h]

/-- A step makes the one move: its instruction or event executes, and the move ends. -/
theorem step_move {s u t : State} {m : Move} {i : Instr} (h : s.moves = [m]) (hb : s.begin_ m = (u, some i))
    (he : exec i u = .next t) : step s = .next (s.finish t m) := by
  unfold step
  rw [State.choose_one h]
  simp only [hb, he]

theorem State.turn_boundary {s : State} {ta : Nat} {i : Instr} (h : s.boundary ta = some i) :
    s.turn ta = (({ s with cur := ta } : State).showNext ta, some i) := by
  unfold State.turn
  rw [h]

theorem State.turn_instr {s : State} {ta : Nat} (h : s.boundary ta = none) : s.turn ta = s.reach ta := by
  unfold State.turn
  rw [h]

/-- After the turn of a slot that is no lashed pair, it decodes ahead and time passes (R38). -/
theorem State.finish_run_single {s t : State} {ta : Nat} (h : (s.slot ta).paired = false) :
    s.finish t (.run ta) = (t.decodeAhead ta).elapse := by
  have hx : s.exchanged t ta = false := by
    unfold State.exchanged
    dsimp only
    rw [h]
    rfl
  show ((if s.exchanged t ta && !Config.freeFlag s.ctr 30 then s.rollback ta else t).decodeAhead ta).elapse = _
  rw [hx]
  rfl

/-- After an event that has moved no quad, time passes. -/
theorem State.finish_event_unmoved {s t : State} {n : Nat} (h : t.ras.moved = s.ras.moved) :
    s.finish t (.event n) = t.elapse := by
  have hq : s.movedQuads t (.event n) = [] := by
    show (t.ras.moved.filter fun p => !s.ras.moved.contains p).map Prod.fst = []
    rw [h, List.map_eq_nil_iff, List.filter_eq_nil_iff]
    intro p hp
    simpa using hp
  unfold State.finish
  rw [hq]
  rfl

/-- Settles O56: with one move the step is that move; an instruction that stands at PC is fetched and shown. -/
theorem stepRunsDecoded : Obligations.StepRunsDecoded := by
  unfold Obligations.StepRunsDecoded
  intro s
  refine ⟨fun ta ws hm hb hs hf hw x t hx he => ⟨?_, State.finish_run_single⟩, fun ws i hd => by rw [meantBy, hd],
    fun n i t hm hi he => ⟨?_, State.finish_event_unmoved⟩, fun i t hm he => ?_, fun ta i t hm hb he => ?_, fun hm => ?_⟩
  · exact step_move hm ((State.turn_instr hb).trans (State.reach_holds hs hf hw)) (hx ▸ he)
  · exact step_move hm (Prod.ext rfl hi) he
  · exact step_move hm rfl he
  · exact step_move hm (State.turn_boundary hb) he
  · unfold step
    rw [State.choose_nil hm]

end Sys2Proof.Machine
end

section
/-! SUPPORT. TRAP and the special registers (R25 to R27, R342). -/

namespace Sys2Proof.Machine

open Sys2Proof.Claims

/-- The registers that RDSR reads are those of `special`, by their indexes (R25). -/
theorem State.special_readable {s : State} {i : Nat} {v : Word} (h : (readable s)[i]? = some v) :
    i < 22 ∧ s.special s.me (s.rpqN s.cur) i = v := by
  have hi : i < 22 := (List.getElem?_eq_some_iff.1 h).1
  refine ⟨hi, ?_⟩
  interval_cases i <;> exact Option.some.inj h

section
variable {s : State} {n : Nat} {a : Src} {k : State → Unit → Res Unit}

/-- The part of WRSR after its checks: the index is one of the 22, and the source is examined. -/
theorem special_body (ha : Full s a.reg) (hn : n < 22) :
    (if 22 ≤ n then Res.trap s 0x01 s.me.pc else (s.examine [a]).bind k) = k s () := by
  rw [if_neg (Nat.not_le.2 hn), State.examine_ok (List.forall_mem_singleton.2 ha), Res.bind_ok]

theorem issue_special_ok {t : State} (hp : Solo s) (ha : Full s a.reg) (hn : n < 22) (hk : k s () = .ok t ()) :
    issue .s .inner (fun s => if 22 ≤ n then .trap s 0x01 s.me.pc else (s.examine [a]).bind k) s = .next (ended .s t) :=
  issue_ok (by rw [State.preIssue_single hp, special_body ha hn, hk])

theorem issue_special_faulted {c : Nat} {v : Word} (hp : Solo s) (hh : taHnd s.cur = false) (ha : Full s a.reg)
    (hn : n < 22) (hk : k s () = .trap s c v) : ∃ t,
      issue .s .inner (fun s => if 22 ≤ n then .trap s 0x01 s.me.pc else (s.examine [a]).bind k) s = .next t ∧
        Faulted s t c v :=
  issue_faulted hp hh (by rw [special_body ha hn, hk])

/-- An index from 22 up raises ILLEGAL (R25). -/
theorem issue_special_illegal {body : State → Res Unit} (hp : Solo s) (hh : taHnd s.cur = false) (hn : 22 ≤ n) :
    ∃ t, issue .s .inner (fun s => if 22 ≤ n then .trap s 0x01 s.me.pc else body s) s = .next t ∧
      Faulted s t 0x01 s.me.pc :=
  issue_faulted hp hh (if_pos hn)

end

/-- RDSR of a register other than TIME, or to g0, writes its value (R342). -/
theorem execRdsr_gives {s : State} {d : Reg} {i : BitVec 6} {v : Word} (hp : Solo s) (hd : Free s d)
    (hv : (readable s)[i.toNat]? = some v) (hi : i ≠ 5) : Gives (.rdsr d i) s d v := by
  obtain ⟨hlt, hs⟩ := State.special_readable hv
  show execRdsr _ _ s = _
  refine issue_ok ?_
  rw [State.preIssue_single hp, if_neg (Nat.not_le.2 hlt), State.freeG_ok hd, Res.bind_ok]
  dsimp only
  rw [if_neg fun h => hi h.1, hs]

/-- RDSR of TIME makes its destination pending until the value arrives (R22, R342). -/
theorem execRdsr_time {s : State} {d : Reg} {v : Word} (hp : Solo s) (hd : Free s d)
    (hv : (readable s)[(5 : BitVec 6).toNat]? = some v) (h0 : d ≠ 0) : exec (.rdsr d 5) s =
      .next (ended .s ((s.modMe fun sl => sl.pendG d).post (.loadDataArrival ⟨s.cur, s.me.uid⟩ d v false))) := by
  obtain ⟨hlt, hs⟩ := State.special_readable hv
  show execRdsr _ _ s = _
  refine issue_ok ?_
  rw [State.preIssue_single hp, if_neg (Nat.not_le.2 hlt), State.freeG_ok hd, Res.bind_ok]
  dsimp only
  rw [if_pos ⟨rfl, h0⟩, hs]
  rfl

/-- WRSR of a register that may not be written raises PROTECT (R25). -/
theorem execWrsr_protect {s : State} {i : BitVec 6} {a : Src} (hp : Solo s) (hh : taHnd s.cur = false)
    (ha : Full s a.reg) (hlt : i.toNat < 22) (hi : i.toNat ∉ [7, 9, 10, 12, 15, 16]) :
    ∃ t, exec (.wrsr i a) s = .next t ∧ Faulted s t 0x07 (i.setWidth 64) := by
  refine issue_special_faulted hp hh ha hlt ?_
  simp only [List.mem_cons, List.not_mem_nil, or_false, not_or] at hi
  obtain ⟨h7, h9, h10, h12, h15, h16⟩ := hi
  dsimp only
  split
  · exact absurd ‹_› h7
  · exact absurd ‹_› h9
  · exact absurd ‹_› h10
  · exact absurd ‹_› h12
  · exact absurd ‹_› h15
  · exact absurd ‹_› h16
  · rfl

theorem fpctlOk_iff (v : Word) : fpctlOk v = true ↔ v.toNat % 8 ≤ 5 := by
  rw [fpctlOk, decide_eq_true_iff, slice, Nat.shiftRight_zero]
  rfl

/-- TRAP raises its code with its constant (R342). -/
theorem execTrap_faulted {s : State} (hp : Solo s) (hh : taHnd s.cur = false) (imm : W32) :
    ∃ t, execTrap imm s = .next t ∧ Faulted s t 0x12 (imm.setWidth 64) :=
  issue_faulted hp hh rfl

theorem execRdsr_illegal {s : State} (hp : Solo s) (hh : taHnd s.cur = false) (d : Reg) {i : BitVec 6} (hi : 22 ≤ i.toNat) :
    ∃ t, execRdsr d i s = .next t ∧ Faulted s t 0x01 s.me.pc :=
  issue_special_illegal hp hh hi

theorem execWrsr_illegal {s : State} (hp : Solo s) (hh : taHnd s.cur = false) {i : BitVec 6} (a : Src) (hi : 22 ≤ i.toNat) :
    ∃ t, execWrsr i a s = .next t ∧ Faulted s t 0x01 s.me.pc :=
  issue_special_illegal hp hh hi

/-- Settles O40: TRAP raises at once; RDSR reads the register of its index; WRSR has a case for each register it may
write, and a bad FPCTL and an index from 22 up raise ILLEGAL. -/
theorem specialRegisters : Obligations.SpecialRegisters := by
  unfold Obligations.SpecialRegisters
  intro s hp
  refine ⟨fun hh imm => execTrap_faulted hp hh imm, fun d i v hd hv => ⟨execRdsr_gives hp hd hv, ?_⟩,
    fun i a v ha hv => ?_, fun hh d i a hi => ⟨execRdsr_illegal hp hh d hi, execWrsr_illegal hp hh a hi⟩⟩
  · rintro rfl h0
    exact execRdsr_time hp hd hv h0
  · subst hv
    refine ⟨?_, ?_, ?_, ?_, ?_, ?_, fun hh => execWrsr_protect hp hh ha, fun hh => ?_⟩
    · rintro rfl hm
      exact issue_special_ok hp ha (by decide) (if_pos ((fpctlOk_iff _).2 hm))
    · rintro rfl; exact issue_special_ok hp ha (by decide) rfl
    · rintro rfl; exact issue_special_ok hp ha (by decide) rfl
    · rintro rfl; exact issue_special_ok hp ha (by decide) rfl
    · rintro rfl; exact issue_special_ok hp ha (by decide) rfl
    · rintro rfl; exact issue_special_ok hp ha (by decide) rfl
    · rintro rfl hm
      exact issue_special_faulted hp hh ha (by decide) (if_neg fun h => absurd ((fpctlOk_iff _).1 h) (Nat.not_le.2 hm))

end Sys2Proof.Machine
end

section
/-! SUPPORT. PAIR and UNPAIR (R28, R343). -/

namespace Sys2Proof.Machine

open Sys2Proof.Claims

/-! ## What a run over a list keeps -/

/-- What every step of a run over a list keeps, the run keeps. -/
theorem foldl_keeps {α β γ : Type} (p : α → γ) {f : α → β → α} (h : ∀ a b, p (f a b) = p a) (l : List β) (a : α) :
    p (l.foldl f a) = p a := by
  induction l generalizing a with
  | nil => rfl
  | cons b bs ih => exact (ih _).trans (h a b)

@[simp] theorem State.copyBytes_cur (s : State) (src dst n : Nat) : (s.copyBytes src dst n).cur = s.cur :=
  foldl_keeps State.cur (f := fun (s : State) i => s.poisonAt (dst + 32 * i)) (fun _ _ => rfl) _ _

@[simp] theorem State.capture_cur (s : State) (rp : Bool) (key : Nat) : (s.capture rp key).cur = s.cur := by
  unfold State.capture
  dsimp only
  split
  · split
    · simp only [State.copyBytes_cur]
    · rfl
  · rfl

/-- An exchange leaves the issuing slot the issuing one (R379). -/
@[simp] theorem State.exchange_cur (s : State) (ta : Nat) : (s.exchange ta).cur = s.cur :=
  foldl_keeps State.cur
    (f := fun (s' : State) (h : HeldStore) => (s'.capture (s.slot ta).rp h.key).putBytes h.key h.bytes)
    (fun s' h => State.capture_cur s' _ h.key) _ _

/-! ## The two instructions -/

/-- An instruction that acts outside the slot is an exchange point of a lashed pair (R378). -/
theorem State.preIssue_outer_paired {s : State} (h : s.me.paired = true) : s.preIssue .outer = s.exchange s.cur := by
  unfold State.preIssue
  simp [h]

/-- The partner of a slot is on the other core of the pair. -/
theorem partnerOf_ne (ta : Nat) : partnerOf ta ≠ ta := by
  intro h
  have hcore : (taCore ta).xor 1 = taCore ta := by
    have hslot : (taSlot ta).xor 2 < 2 ^ 2 := Nat.xor_lt_two_pow (Nat.mod_lt _ (by norm_num)) (by norm_num)
    have h8 : ((taCore ta).xor 1 * 8 + (taSlot ta).xor 2) / 8 = ta / 8 := congrArg (· / 8) h
    show _ = ta / 8
    omega
  have h1 : (1 : Nat) = 0 := Nat.xor_right_injective (x := taCore ta) (hcore.trans (Nat.xor_zero _).symm)
  exact absurd h1 (by decide)

/-- PAIR of a task once its waits have passed: what it answers is decided in that state (R343). -/
theorem execPair_waited {s u t : State} {d : Reg} (hu : s.preIssue .outer = u) (hh : taHnd u.cur = false) (hd : Free u d)
    (hq : Quiet u) (ha : NoAmo u) (hs : u.me.stq = 0)
    (ht : (let other := partnerOf u.cur
      if u.me.paired then Res.ok (u.putG d 2) ()
      else if !u.idle other then .ok (u.putG d 1) ()
      else
        let main := pairMain u.cur
        let s := if main = u.cur then u else { u.moveTask u.cur main with cur := main }
        let s := (s.putG d 0).modMe fun sl => { sl with pairst := pairstOf main, retired := 0, heldSt := [] }
        let s := s.setSlot (partnerOf main) { st := .running, partner := some main }
        .ok { s with agreed := Store.set s.agreed s.me.uid { s.me with pc := s.nextPc } } ()) = .ok t ()) :
    exec (.pair d) s = .next (ended .s t) := by
  obtain ⟨hv, hr⟩ := hq
  show execPair d s = _
  refine issue_ok ?_
  rw [hu, hh]
  simp only [Bool.not_false, need_true, Res.bind_ok]
  rw [State.freeG_ok hd, Res.bind_ok, State.waitRpq_ok hv hr, Res.bind_ok, State.waitAmo_ok ha, Res.bind_ok,
    await_ok (by rw [hs]; rfl), Res.bind_ok]
  exact ht

/-- UNPAIR of a task whose destination is not pending (R343). -/
theorem execUnpair_free {s u t : State} {d : Reg} (hu : s.preIssue .outer = u) (hh : taHnd u.cur = false) (hd : Free u d)
    (ht : (if !u.me.paired then Res.ok (u.putG d 2) ()
      else
        let s := (u.setSlot (partnerOf u.cur) {}).putG d 0
        let s := s.modMe fun sl => { sl with pairst := 0, retired := 0 }
        .ok { s with agreed := s.agreed.filter fun p => p.1 != u.me.uid } ()) = .ok t ()) :
    exec (.unpair d) s = .next (ended .s t) := by
  show execUnpair d s = _
  refine issue_ok ?_
  rw [hu, hh]
  simp only [Bool.not_false, need_true, Res.bind_ok]
  rw [State.freeG_ok hd, Res.bind_ok]
  exact ht

/-- Settles O41: outside a pair nothing comes before PAIR and UNPAIR; in one, an exchange does. -/
theorem lashedPairs : Obligations.LashedPairs := by
  unfold Obligations.LashedPairs
  intro s d hh hd
  refine ⟨fun hp => ?_, fun ⟨hp, hq, ha⟩ hs => ⟨fun hi => ?_, fun hi hc x hx => ?_, fun hi hc u x hu hx => ?_⟩,
    fun hp u hu hpu hdu hq ha hs => ?_⟩
  · exact execUnpair_free (State.preIssue_single hp _) hh hd (if_pos (by rw [show s.me.paired = false from hp]; rfl))
  · refine execPair_waited (State.preIssue_single hp _) hh hd hq ha hs ?_
    dsimp only
    rw [if_neg (by rw [show s.me.paired = false from hp]; simp), if_pos (by rw [hi]; rfl)]
  · refine execPair_waited (State.preIssue_single hp _) hh hd hq ha hs ?_
    have hmain : pairMain s.cur = s.cur := if_pos hc
    dsimp only
    rw [if_neg (by rw [show s.me.paired = false from hp]; simp), if_neg (by rw [hi]; simp), hmain, if_pos rfl, hx]
  · refine execPair_waited (State.preIssue_single hp _) hh hd hq ha hs ?_
    have hmain : pairMain s.cur = partnerOf s.cur := if_neg (by rw [hc]; exact Nat.one_ne_zero)
    dsimp only
    rw [if_neg (by rw [show s.me.paired = false from hp]; simp), if_neg (by rw [hi]; simp), hmain,
      if_neg (partnerOf_ne _), hx, hu]
  · have hpre : s.preIssue .outer = u := (State.preIssue_outer_paired hp).trans hu.symm
    have hhu : taHnd u.cur = false := by rw [hu, State.exchange_cur]; exact hh
    refine ⟨execPair_waited hpre hhu hdu hq ha hs (if_pos hpu), execUnpair_free hpre hhu hdu ?_⟩
    rw [if_neg (by rw [hpu]; simp)]
    rfl

end Sys2Proof.Machine
end

section
/-! SUPPORT. How activations of a handler slot start, and RXFULL (R33, R219, R226, R341). -/

namespace Sys2Proof.Machine

open Sys2Proof.Claims

/-! ## The start of a slot (R31, R33) -/

theorem startG_greg {sl : Slot} {g2 g3 g4 : Word} (h : sl.g = startG g2 g3 g4) :
    sl.greg 2 = ⟨g2, .full, false⟩ ∧ sl.greg 3 = ⟨g3, .full, false⟩ ∧ sl.greg 4 = ⟨g4, .full, false⟩ := by
  have hg (r : Reg) (h0 : r ≠ 0) : sl.greg r = (startG g2 g3 g4)[r.toNat]'(r.isLt) := by
    rw [Slot.greg, if_neg h0]
    simp only [h]
  exact ⟨(hg 2 (by decide)).trans rfl, (hg 3 (by decide)).trans rfl, (hg 4 (by decide)).trans rfl⟩

/-- A trace record leaves every slot as it was. -/
@[simp] theorem State.slot_note (s : State) (r : TraceRec) (ta : Nat) : (s.note r).slot ta = s.slot ta := by
  obtain ⟨l, _, h⟩ := State.note_eq s r
  rw [h]
  rfl

@[simp] theorem State.note_nextUid (s : State) (r : TraceRec) : (s.note r).nextUid = s.nextUid := by
  obtain ⟨l, _, h⟩ := State.note_eq s r
  rw [h]

@[simp] theorem State.core_note (s : State) (r : TraceRec) (c : Nat) : (s.note r).core c = s.core c := by
  obtain ⟨l, _, h⟩ := State.note_eq s r
  rw [h]
  rfl

@[simp] theorem State.core_post (s : State) (i : Instr) (c : Nat) : (s.post i).core c = s.core c := rfl
@[simp] theorem State.core_modSlot (s : State) (ta : Nat) (f : Slot → Slot) (c : Nat) :
    (s.modSlot ta f).core c = s.core c := rfl

/-- A message of a live context that stands for no atomic starts its activation (R33). -/
theorem State.startActivation_activated {s : State} {core : Nat} {m : RxMsg} {c : Ctx} (hc : s.ctx m.ctx = some c)
    (ha : m.amo = none) : Activated s (s.startActivation core m) core m c := by
  unfold State.startActivation
  simp only [hc, ha]
  obtain ⟨h2, h3, h4⟩ := startG_greg
    (sl := { startSlot c m.ctx (hndOf core) s.nextUid c.hndbud (m.more.headD 0) (localAddr (rxOff core + 0x1000))
      (localAddr (rxOff core + 32 * m.pos)) m.sender (((s.core core).acts + 1).setWidth 64) with trigger := some m }) rfl
  rw [State.note_nextUid]
  exact ⟨_, Store.get_set_same .., rfl, rfl, rfl, rfl, rfl, rfl, rfl, rfl, rfl, h2, h3, h4⟩

/-! ## When an activation may start (R219, R341) -/

theorem rxfull_mem_iff (l : List Instr) (core : Nat) :
    (l.any fun i => match i with | .rxfull c => c == core | _ => false) = true ↔ .rxfull core ∈ l := by
  rw [List.any_eq_true]
  constructor
  · rintro ⟨i, hi, h⟩
    split at h
    · rwa [beq_iff_eq.1 h] at hi
    · cases h
  · exact fun h => ⟨_, h, beq_self_eq_true core⟩

theorem State.hndFree_iff (s : State) (core : Nat) : s.hndFree core = true ↔ (s.slot (hndOf core)).st = .idle ∧
    (s.slot (hndOf core)).trigger = none ∧ (s.core core).rxfull = false ∧ .rxfull core ∉ s.agenda := by
  rw [← rxfull_mem_iff]
  unfold State.hndFree
  simp only [Bool.and_eq_true, beq_iff_eq, Option.isNone_iff_eq_none, Bool.not_eq_true', Bool.not_eq_true, and_assoc] <;> rfl

/-- A held message freezes the idle handler slot, with a packet that names its sender and its context (R341). -/
theorem execRxfull_freezes {s : State} {core : Nat} {m : RxMsg} {w : Option Nat} {l : List (RxMsg × Option Nat)}
    (hi : (s.slot (hndOf core)).st = .idle) (hl : (s.core core).held = (m, w) :: l) : ∃ t p,
      execRxfull core s = .next t ∧ (t.slot (hndOf core)).st = .frozen ∧ (t.slot (hndOf core)).pkt = p ∧
      (t.core core).rxfull = true ∧ p.fcode = 0x0F ∧ p.faddr = m.sender ∧ p.ctxn = m.ctx ∧
      p.taddr = BitVec.ofNat 64 (hndOf core) := by
  refine ⟨_, { taddr := BitVec.ofNat 64 (hndOf core), faddr := m.sender, fcode := 0x0F, ctxn := m.ctx }, rfl, ?_⟩
  simp only [hi, hl, State.slot_note, State.slot_post, State.slot_modSlot, State.core_note, State.core_post,
    State.core_modSlot, State.core_modCore, and_self]

/-- Settles O44: an idle handler slot that may start takes the oldest message; a killed activation's message starts it
again once its slot is idle; RXFULL freezes the slot, or waits, or finds nothing held. -/
theorem activations : Obligations.Activations := by
  unfold Obligations.Activations
  intro s core
  refine ⟨fun m c hm hpos ha hc => ⟨fun hi ht hr hx => ?_, fun hno => ?_⟩, fun u m c hu ht ha hc => ⟨fun hi => ?_, fun hi => ?_⟩,
    fun m w l hi hl => ?_, fun hi hl => ?_, fun hi => ?_⟩
  · have hfree := (s.hndFree_iff core).2 ⟨hi, ht, hr, hx⟩
    refine ⟨s.startActivation core m, ?_, State.startActivation_activated hc ha⟩
    show execHandlerActivationStart core s = _
    unfold execHandlerActivationStart State.nextMsg
    simp [hm, hfree, hpos]
  · have hbusy : s.hndFree core = false := by
      rw [← Bool.not_eq_true, State.hndFree_iff]
      rintro ⟨hi, -, hr, hx⟩
      rcases hno with h | h | h
      · exact h hi
      · rw [hr] at h; cases h
      · exact hx h
    show execHandlerActivationStart core s = _
    unfold execHandlerActivationStart State.nextMsg
    simp [hm, hbusy]
  · refine ⟨u.startActivation core m, ?_, State.startActivation_activated hc ha⟩
    show execActivationRedelivery core s = _
    unfold execActivationRedelivery
    simp only [← hu, ht, hi, if_true]
  · show execActivationRedelivery core s = _
    unfold execActivationRedelivery
    simp only [← hu, ht, hi, if_false]
  · exact execRxfull_freezes hi hl
  · show execRxfull core s = _
    unfold execRxfull
    simp only [hi, hl]
  · show execRxfull core s = _
    unfold execRxfull
    dsimp only
    split
    · exact absurd ‹_› hi
    · exact absurd ‹_› hi
    · rfl

end Sys2Proof.Machine
end

section
/-! SUPPORT. The frame of a slot's instructions: what each update of registers leaves as it was, and what an instruction of
a task leaves whichever way it goes (R20 to R26). -/

namespace Sys2Proof.Machine

open Sys2Proof.Claims

/-! ## What a slot keeps -/

/-- What of a slot stays as it was but for the named destinations. -/
structure SlotKept (x y : Slot) (ds : Dests) : Prop where
  g : ∀ r, r ∉ ds.gs → y.greg r = x.greg r
  v : ∀ r : VReg, r ∉ ds.vs → y.v[r.toNat]'(r.isLt) = x.v[r.toNat]'(r.isLt) ∧ bit y.vpois r.toNat = bit x.vpois r.toNat
  k : ∀ r : KReg, r ∉ ds.ks → y.k[r.toNat]'(r.isLt) = x.k[r.toNat]'(r.isLt)
  a : ∀ r : AReg, r ∉ ds.as → y.a[r.toNat]'(r.isLt) = x.a[r.toNat]'(r.isLt)
  special : specials y = specials x
  fpctl : ds.fp = false → y.fpctl = x.fpctl ∧ y.lfsr = x.lfsr
  copies : y.shadow = x.shadow ∧ y.tags = x.tags ∧ y.copn = x.copn

namespace SlotKept

variable {x y z : Slot} {ds : Dests}

/-- A change of anything else but the registers keeps the slot. -/
theorem of_eq (hg : y.g = x.g) (hv : y.v = x.v) (hp : y.vpois = x.vpois) (hk : y.k = x.k) (ha : y.a = x.a)
    (hs : specials y = specials x) (hf : y.fpctl = x.fpctl) (hl : y.lfsr = x.lfsr)
    (hc : y.shadow = x.shadow ∧ y.tags = x.tags ∧ y.copn = x.copn) : SlotKept x y ds where
  g r _ := by unfold Slot.greg; rw [hg]
  v r _ := by simp only [hv, hp, and_self]
  k r _ := by simp only [hk]
  a r _ := by simp only [ha]
  special := hs
  fpctl _ := ⟨hf, hl⟩
  copies := hc

theorem refl (x : Slot) (ds : Dests) : SlotKept x x ds := of_eq rfl rfl rfl rfl rfl rfl rfl rfl ⟨rfl, rfl, rfl⟩

theorem trans (h : SlotKept x y ds) (h' : SlotKept y z ds) : SlotKept x z ds where
  g r hr := (h'.g r hr).trans (h.g r hr)
  v r hr := ⟨(h'.v r hr).1.trans (h.v r hr).1, (h'.v r hr).2.trans (h.v r hr).2⟩
  k r hr := (h'.k r hr).trans (h.k r hr)
  a r hr := (h'.a r hr).trans (h.a r hr)
  special := h'.special.trans h.special
  fpctl hf := ⟨(h'.fpctl hf).1.trans (h.fpctl hf).1, (h'.fpctl hf).2.trans (h.fpctl hf).2⟩
  copies := ⟨h'.copies.1.trans h.copies.1, h'.copies.2.1.trans h.copies.2.1, h'.copies.2.2.trans h.copies.2.2⟩

theorem setG (x : Slot) {r : Reg} (w : GReg) (hr : r ∈ ds.gs) : SlotKept x (x.setG r w) ds := by
  by_cases h0 : r = 0
  · rw [Slot.setG, if_pos h0]
    exact refl x ds
  · have hg (q : Reg) (hq : q ∉ ds.gs) : (x.setG r w).greg q = x.greg q := by
      rw [Slot.greg_setG, if_neg fun e : q = r => hq (e ▸ hr)]
      split
      · next hq0 => rw [hq0, Slot.greg_zero]
      · rfl
    rw [Slot.setG, if_neg h0] at hg ⊢
    exact { g := hg, v := fun _ _ => ⟨rfl, rfl⟩, k := fun _ _ => rfl, a := fun _ _ => rfl, special := rfl
            fpctl := fun _ => ⟨rfl, rfl⟩, copies := ⟨rfl, rfl, rfl⟩ }

theorem setK (x : Slot) {r : KReg} (w : KWord) (hr : r ∈ ds.ks) :
    SlotKept x { x with k := x.k.set r.toNat w r.isLt } ds where
  g _ _ := rfl
  v _ _ := ⟨rfl, rfl⟩
  k q hq := Vector.getElem_set_ne r.isLt q.isLt fun e => hq (BitVec.eq_of_toNat_eq e ▸ hr)
  a _ _ := rfl
  special := rfl
  fpctl _ := ⟨rfl, rfl⟩
  copies := ⟨rfl, rfl, rfl⟩

theorem setA (x : Slot) {r : AReg} (w : Acc) (hr : r ∈ ds.as) :
    SlotKept x { x with a := x.a.set r.toNat w r.isLt } ds where
  g _ _ := rfl
  v _ _ := ⟨rfl, rfl⟩
  k _ _ := rfl
  a q hq := Vector.getElem_set_ne r.isLt q.isLt fun e => hq (BitVec.eq_of_toNat_eq e ▸ hr)
  special := rfl
  fpctl _ := ⟨rfl, rfl⟩
  copies := ⟨rfl, rfl, rfl⟩

/-- A poison flag set or cleared leaves the others. -/
theorem bit_setFlag {p : BitVec 32} {r q : VReg} (b : Bool) (h : q ≠ r) :
    bit (if b then p ||| (1#32 <<< r.toNat) else p &&& ~~~(1#32 <<< r.toNat)) q.toNat = bit p q.toNat := by
  have hne : q.toNat ≠ r.toNat := fun e => h (BitVec.eq_of_toNat_eq e)
  have h1 : (1#32 <<< r.toNat).getLsbD q.toNat = false := by
    rw [BitVec.getLsbD_shiftLeft, BitVec.getLsbD_one]
    simp
    omega
  have hlt : q.toNat < 32 := q.isLt
  unfold bit
  split
  · rw [BitVec.getLsbD_or, h1, Bool.or_false]
  · rw [BitVec.getLsbD_and, BitVec.getLsbD_not, h1, decide_eq_true hlt]
    simp

theorem setV (x : Slot) {r : VReg} (w : VWord) (p : Bool) (hr : r ∈ ds.vs) :
    SlotKept x { x with v := x.v.set r.toNat w r.isLt
                        vpois := if p then x.vpois ||| (1#32 <<< r.toNat) else x.vpois &&& ~~~(1#32 <<< r.toNat) } ds where
  g _ _ := rfl
  v q hq := ⟨Vector.getElem_set_ne r.isLt q.isLt fun e => hq (BitVec.eq_of_toNat_eq e ▸ hr),
    bit_setFlag p fun e => hq (e ▸ hr)⟩
  k _ _ := rfl
  a _ _ := rfl
  special := rfl
  fpctl _ := ⟨rfl, rfl⟩
  copies := ⟨rfl, rfl, rfl⟩

/-- A function that may raise flags changes FPCTL and the LFSR alone. -/
theorem setFp (x : Slot) (w : Word) (l : W32) (hf : ds.fp = true) : SlotKept x { x with fpctl := w, lfsr := l } ds where
  g _ _ := rfl
  v _ _ := ⟨rfl, rfl⟩
  k _ _ := rfl
  a _ _ := rfl
  special := rfl
  fpctl h := absurd h (by rw [hf]; decide)
  copies := ⟨rfl, rfl, rfl⟩

end SlotKept

/-! ## What the state keeps -/

/-- The frame of `Kept`, with its destinations together. -/
def KeptBy (s t : State) (ds : Dests) : Prop := Kept s t ds.gs ds.vs ds.ks ds.as ds.fp

theorem KeptBy.intro {s t : State} {ds : Dests} (hcur : t.cur = s.cur)
    (hmem : ∀ k, Memory.get t.mem k = Memory.get s.mem k) (hpois : t.poison = s.poison)
    (ho : ∀ ta, ta ≠ s.cur → t.slot ta = s.slot ta) (hme : SlotKept s.me t.me ds) : KeptBy s t ds where
  cur := hcur
  mem := hmem
  poison := hpois
  others := ho
  g := hme.g
  v := hme.v
  k := hme.k
  a := hme.a
  special := hme.special
  fpctl := hme.fpctl
  copies := hme.copies

namespace KeptBy

variable {s t u : State} {ds : Dests}

theorem slotKept (h : KeptBy s t ds) : SlotKept s.me t.me ds :=
  ⟨h.g, h.v, h.k, h.a, h.special, h.fpctl, h.copies⟩

theorem refl (s : State) (ds : Dests) : KeptBy s s ds := intro rfl (fun _ => rfl) rfl (fun _ _ => rfl) (SlotKept.refl ..)

/-- A change of the issuing slot alone that keeps the slot. -/
theorem modMe (h : KeptBy s t ds) {f : Slot → Slot} (hf : SlotKept t.me (f t.me) ds) : KeptBy s (t.modMe f) ds :=
  intro h.cur h.mem h.poison
    (fun ta hta => (State.slot_modSlot_other t f (by rw [h.cur]; exact hta)).trans (h.others ta hta))
    (by rw [State.me_modMe]; exact h.slotKept.trans hf)

/-- A change of nothing but what lies outside slots and memory. -/
theorem outside (h : KeptBy s t ds) (hcur : u.cur = t.cur) (hslots : u.slots = t.slots) (hmem : u.mem = t.mem)
    (hpois : u.poison = t.poison) : KeptBy s u ds := by
  have hslot (ta : Nat) : u.slot ta = t.slot ta := by rw [State.slot, hslots]; rfl
  have hme : u.me = t.me := by rw [State.me, hcur, hslot]; rfl
  exact intro (hcur.trans h.cur) (fun k => by rw [hmem]; exact h.mem k) (hpois.trans h.poison)
    (fun ta hta => (hslot ta).trans (h.others ta hta)) (by rw [hme]; exact h.slotKept)

theorem countMe (h : KeptBy s t ds) (ev n : Nat) : KeptBy s (t.countMe ev n) ds :=
  h.outside (State.countMe_cur ..) (State.countMe_slots ..) (State.countMe_mem ..) (State.countMe_poison ..)

theorem countIssue (h : KeptBy s t ds) (p : Pipe) : KeptBy s (t.countIssue p) ds :=
  h.outside (State.countIssue_cur ..) (State.countIssue_slots ..) (State.countIssue_mem ..) (State.countIssue_poison ..)

theorem uncount (h : KeptBy s t ds) (s₀ : State) : KeptBy s (t.uncount s₀) ds := h.outside rfl rfl rfl rfl

theorem post (h : KeptBy s t ds) (i : Instr) : KeptBy s (t.post i) ds := h.outside rfl rfl rfl rfl

theorem retireTo (h : KeptBy s t ds) (pc : Word) : KeptBy s (t.retireTo pc) ds :=
  h.modMe (.of_eq rfl rfl rfl rfl rfl rfl rfl rfl ⟨rfl, rfl, rfl⟩)

theorem putG (h : KeptBy s t ds) {d : Reg} (v : Word) (hd : d ∈ ds.gs) : KeptBy s (t.putG d v) ds :=
  h.modMe (.setG _ _ hd)

theorem putV (h : KeptBy s t ds) {d : VReg} (v : VWord) (p : Bool) (hd : d ∈ ds.vs) : KeptBy s (t.putV d v p) ds :=
  h.modMe (.setV _ _ _ hd)

theorem putK (h : KeptBy s t ds) {d : KReg} (v : KWord) (hd : d ∈ ds.ks) : KeptBy s (t.putK d v) ds :=
  h.modMe (.setK _ _ hd)

theorem putAcc (h : KeptBy s t ds) {d : AReg} (v : Acc) (hd : d ∈ ds.as) : KeptBy s (t.putAcc d v) ds :=
  h.modMe (.setA _ _ hd)

theorem setFlags (h : KeptBy s t ds) (f : FpFlags) (hf : ds.fp = true) : KeptBy s (t.setFlags f) ds :=
  h.modMe (.setFp _ _ _ hf)

theorem putFp (h : KeptBy s t ds) (l : W32) (f : FpFlags) (hf : ds.fp = true) : KeptBy s (t.putFp l f) ds :=
  (h.modMe (f := fun sl => { sl with lfsr := l }) (.setFp _ _ _ hf)).setFlags f hf

theorem taken (h : KeptBy s t ds) (pc : Word) : KeptBy s (t.taken pc) ds :=
  (h.countMe 6 1).modMe (.of_eq rfl rfl rfl rfl rfl rfl rfl rfl ⟨rfl, rfl, rfl⟩)

/-- A fault of a task slot freezes it and changes no register (R335). -/
theorem raise (h : KeptBy s t ds) (hh : taHnd t.cur = false) (c : Nat) (v : Word) : KeptBy s (t.raise t.cur c v) ds := by
  obtain ⟨l, -, ht⟩ := State.raise_task (s := t) hh c v
  rw [ht]
  exact KeptBy.outside (h.modMe (f := fun sl => { sl with st := .frozen, pkt := t.packetOf t.cur c v false false })
    (.of_eq rfl rfl rfl rfl rfl rfl rfl rfl ⟨rfl, rfl, rfl⟩)) rfl rfl rfl rfl

end KeptBy

/-! ## What an instruction keeps -/

/-- Whichever way a meaning goes on, the state keeps all but the destinations. -/
def Res.Keeps {α : Type} (s : State) (ds : Dests) : Res α → Prop
  | .ok t _ => KeptBy s t ds
  | .wait t => KeptBy s t ds
  | .trap t _ _ => KeptBy s t ds

/-- A check: whichever way it goes on, the state is as it was. -/
def Res.Stays {α : Type} (s : State) : Res α → Prop
  | .ok t _ => t = s
  | .wait t => t = s
  | .trap t _ _ => t = s

namespace Res

variable {α β : Type} {s : State} {ds : Dests}

/-- A check, and then what keeps all but the destinations. -/
theorem Stays.bind {r : Res α} {f : State → α → Res β} (h : r.Stays s) (hf : ∀ a, (f s a).Keeps s ds) :
    (r.bind f).Keeps s ds := by
  cases r with
  | ok t a => obtain rfl : t = s := h; exact hf a
  | wait t => obtain rfl : t = s := h; exact KeptBy.refl ..
  | trap t c v => obtain rfl : t = s := h; exact KeptBy.refl ..

theorem need_stays (b : Bool) (c : Nat) (v : Word) (s : State) : (need b c v s).Stays s := by
  cases b <;> rfl

theorem await_stays (b : Bool) (s : State) : (await b s).Stays s := by
  cases b <;> rfl

theorem freeG_stays (s : State) (r : Reg) : (s.freeG r).Stays s := await_stays ..

theorem examine_stays (s : State) (l : List Src) : (s.examine l).Stays s := by
  unfold State.examine
  split
  · rfl
  · rfl
  · split <;> rfl

end Res

/-- An instruction of a task that is no lashed pair keeps what its body keeps. -/
theorem issueTo_keeps {p : Pipe} {r : Reach} {body : State → Res Word} {s t : State} {ds : Dests} (hp : Solo s)
    (hh : taHnd s.cur = false) (h : issueTo p r body s = .next t) (hb : (body s).Keeps s ds) : KeptBy s t ds := by
  unfold issueTo at h
  rw [State.preIssue_single hp] at h
  cases hr : body s with
  | ok u pc =>
    rw [hr] at h hb
    cases h
    exact (KeptBy.countIssue hb p).retireTo pc
  | wait u =>
    rw [hr] at h hb
    cases h
    exact hb
  | trap u c v =>
    rw [hr] at h hb
    cases h
    have hk : KeptBy s (u.uncount s) ds := KeptBy.uncount hb s
    have hcur : (u.uncount s).cur = s.cur := hk.cur
    rw [← hcur] at hh ⊢
    exact hk.raise hh c v

theorem issue_keeps {p : Pipe} {r : Reach} {body : State → Res Unit} {s t : State} {ds : Dests} (hp : Solo s)
    (hh : taHnd s.cur = false) (h : issue p r body s = .next t) (hb : (body s).Keeps s ds) : KeptBy s t ds := by
  refine issueTo_keeps hp hh h ?_
  cases hr : body s <;> rw [hr] at hb <;> exact hb

end Sys2Proof.Machine
end

section
/-! SUPPORT. The frame of the instructions that write only registers, form by form (R20 to R26, R87 to R155). -/

namespace Sys2Proof.Machine

open Sys2Proof.Claims

/-! ## Functions that raise no flag -/

/-- Where no lane draws from the LFSR or raises a flag, a run leaves both (R66, R119). -/
theorem laneRun_exact {env : FpEnv} (act : Nat → Bool) {op : FpEnv → Nat → FpRes} (he : env.mode ≠ .rsr)
    (hop : ∀ e i, (op e i).flags = {}) (l : W32) : ∀ is : List Nat, (laneRun env act op is l).2 = (l, {})
  | [] => rfl
  | i :: is => by
    have ih := laneRun_exact act he hop l is
    unfold laneRun
    split
    · simp only [ih, hop]
      rfl
    · simp only [ih]

theorem KeptBy.putFp_none {s t : State} {ds : Dests} (h : KeptBy s t ds) : KeptBy s (t.putFp s.me.lfsr {}) ds := by
  cases hf : ds.fp with
  | true => exact h.putFp _ _ hf
  | false =>
    have hl : t.me.lfsr = s.me.lfsr := (h.fpctl hf).2
    have h1 : KeptBy s (t.modMe fun sl => { sl with lfsr := s.me.lfsr }) ds :=
      h.modMe (.of_eq rfl rfl rfl rfl rfl rfl rfl hl.symm ⟨rfl, rfl, rfl⟩)
    exact h1.modMe (f := fun sl => { sl with fpctl := sl.fpctl ||| FpFlags.bits {} })
      (.of_eq rfl rfl rfl rfl rfl rfl BitVec.or_zero rfl ⟨rfl, rfl, rfl⟩)

theorem Res.cleanV_stays (s : State) (l : List VReg) : (s.cleanV l).Stays s := by
  unfold State.cleanV
  split <;> rfl

theorem Res.mmaAlign_keeps {s : State} {ds : Dests} (f : MmaFmt) (o : MOp) {k : State → Unit → Res Unit}
    (hk : (k s ()).Keeps s ds) : ((s.mmaAlign f o).bind k).Keeps s ds := by
  cases o with
  | reg v => exact hk
  | qlm n =>
    unfold State.mmaAlign
    rw [Res.bind_assoc]
    exact (Res.need_stays ..).bind fun _ => (Res.need_stays ..).bind fun _ => hk

/-! ## The forms -/

section
variable {s t : State} (hp : Solo s) (hh : taHnd s.cur = false)
include hp hh

theorem int3_keeps {f : Word → Word → Word} {d a b : Reg} (h : int3 f d a b s = .next t) : KeptBy s t { gs := [d] } :=
  issue_keeps hp hh h ((Res.examine_stays ..).bind fun _ => (Res.freeG_stays ..).bind fun _ =>
    (KeptBy.refl s _).putG _ (List.mem_singleton_self d))

theorem int1_keeps {f : Word → Word} {d a : Reg} (h : int1 f d a s = .next t) : KeptBy s t { gs := [d] } :=
  issue_keeps hp hh h ((Res.examine_stays ..).bind fun _ => (Res.freeG_stays ..).bind fun _ =>
    (KeptBy.refl s _).putG _ (List.mem_singleton_self d))

theorem intI_keeps {f : Word → Word → Word} {d a : Reg} {c : BitVec 11} (h : intI f d a c s = .next t) :
    KeptBy s t { gs := [d] } :=
  int1_keeps hp hh (f := fun x => f x (sextW c)) h

theorem xint_keeps {l : List Src} {dst : Dst} {ds : Dests} {f : State → Word} (hd : ofDst dst = some ds)
    (h : xint l dst f s = .next t) : KeptBy s t ds := by
  cases dst with
  | rem n e => cases hd
  | loc d =>
    cases hd
    exact issue_keeps hp hh h ((Res.examine_stays ..).bind fun _ => (Res.freeG_stays s d).bind fun _ =>
      (KeptBy.refl s _).putG _ (List.mem_singleton_self d))

theorem xint2_keeps {f : Word → Word → Word} {o : XInt} {ds : Dests} (hd : ofDst o.dst = some ds)
    (h : xint2 f o s = .next t) : KeptBy s t ds :=
  xint_keeps hp hh hd h

theorem branchIf_keeps {f : Word → Word → Bool} {a b : Src} {g : State → Word} (h : branchIf f a b g s = .next t) :
    KeptBy s t {} := by
  refine issueTo_keeps hp hh h ((Res.examine_stays ..).bind fun _ => ?_)
  have hk := (KeptBy.refl s {}).countMe 7 1
  dsimp only
  split
  · exact hk.taken _
  · exact hk

theorem jumpTo_keeps {g : State → Word} (h : jumpTo g s = .next t) : KeptBy s t {} :=
  issueTo_keeps hp hh h ((KeptBy.refl s _).taken _)

theorem callTo_keeps {g : State → Word} (h : callTo g s = .next t) : KeptBy s t { gs := [1] } :=
  issueTo_keeps hp hh h ((Res.freeG_stays ..).bind fun _ =>
    ((KeptBy.refl s _).putG _ (List.mem_singleton_self 1)).taken _)

theorem execJr_keeps {d a : Reg} (h : execJr d a s = .next t) : KeptBy s t { gs := [d] } :=
  issueTo_keeps hp hh h ((Res.examine_stays ..).bind fun _ => (Res.freeG_stays ..).bind fun _ =>
    ((KeptBy.refl s _).putG _ (List.mem_singleton_self d)).taken _)

theorem execDbnz_keeps {a : Reg} {off : BitVec 11} (h : execDbnz a off s = .next t) : KeptBy s t { gs := [a] } := by
  refine issueTo_keeps hp hh h ((Res.examine_stays ..).bind fun _ => (Res.freeG_stays ..).bind fun _ => ?_)
  have hk := ((KeptBy.refl s { gs := [a] }).putG (s.g a - 1) (List.mem_singleton_self a)).countMe 7 1
  dsimp only
  split
  · exact hk.taken _
  · exact hk

theorem execPtest_keeps {d a : Reg} (h : execPtest d a s = .next t) : KeptBy s t { gs := [d] } :=
  issue_keeps hp hh h ((Res.freeG_stays ..).bind fun _ => (KeptBy.refl s _).putG _ (List.mem_singleton_self d))

theorem execTagget_keeps {d : Reg} {n : BitVec 6} (h : execTagget d n s = .next t) : KeptBy s t { gs := [d] } :=
  issue_keeps hp hh h ((Res.freeG_stays ..).bind fun _ => (KeptBy.refl s _).putG _ (List.mem_singleton_self d))

theorem kread_keeps {d : Reg} {f : State → Word} (h : kread d f s = .next t) : KeptBy s t { gs := [d] } :=
  issue_keeps hp hh h ((Res.freeG_stays ..).bind fun _ => (KeptBy.refl s _).putG _ (List.mem_singleton_self d))

theorem execGgrng_keeps {d : Reg} {a : Src} {axis : Bool} (h : execGgrng d a axis s = .next t) :
    KeptBy s t { gs := [d] } :=
  issue_keeps hp hh h ((Res.examine_stays ..).bind fun _ => (Res.freeG_stays ..).bind fun _ =>
    (KeptBy.refl s _).putG _ (List.mem_singleton_self d))

theorem vecOp_keeps {d : VReg} {ty : Ty} {rm : Rm} {m : VMask} {l : List VReg} {op : State → FpEnv → Nat → FpRes}
    (h : vecOp d ty rm m l op s = .next t) : KeptBy s t { vs := [d], fp := true } :=
  issue_keeps hp hh h ((((KeptBy.refl s _).countMe _ _).putV _ _ (List.mem_singleton_self d)).putFp _ _ rfl)

theorem varith1_keeps {f : Nat} {o : V1} (h : varith1 f o s = .next t) : KeptBy s t { vs := [o.d], fp := true } :=
  vecOp_keeps hp hh h

theorem varith2_keeps {f : Nat} {o : V2} (h : varith2 f o s = .next t) : KeptBy s t { vs := [o.d], fp := true } :=
  vecOp_keeps hp hh h

theorem varith3_keeps {np nz : Bool} {o : V3} (h : varith3 np nz o s = .next t) :
    KeptBy s t { vs := [o.d], fp := true } :=
  vecOp_keeps hp hh h

theorem vnative_keeps {f : Nat} {d a b : VReg} {ty : Ty} (h : vnative f d a b ty s = .next t) :
    KeptBy s t { vs := [d], fp := true } :=
  varith2_keeps hp hh h

/-- A lane-wise function that only moves lanes raises no flag and draws nothing. -/
theorem vecOp_keeps_fp {d : VReg} {ty : Ty} {m : VMask} {l : List VReg} {op : State → FpEnv → Nat → FpRes}
    (hop : ∀ e i, (op s e i).flags = {}) (h : vecOp d ty .rne m l op s = .next t) : KeptBy s t { vs := [d] } := by
  refine issue_keeps hp hh h ?_
  have hrne : (s.fpEnv .rne).mode ≠ .rsr := fun e => by cases (show Rm.rne = Rm.rsr from e)
  have hrun := laneRun_exact (s.laneOn m) hrne hop s.me.lfsr (List.range (2048 / ty.width))
  dsimp only
  rw [show (laneRun (s.fpEnv .rne) (s.laneOn m) (op s) (List.range (2048 / ty.width)) s.me.lfsr).2.1 = s.me.lfsr from
      congrArg Prod.fst hrun,
    show (laneRun (s.fpEnv .rne) (s.laneOn m) (op s) (List.range (2048 / ty.width)) s.me.lfsr).2.2 = {} from
      congrArg Prod.snd hrun]
  exact (((KeptBy.refl s _).countMe _ _).putV _ _ (List.mem_singleton_self d)).putFp_none

theorem vcmp_keeps {f : Nat} {o : VCmpOp} (h : vcmp f o s = .next t) : KeptBy s t { ks := [o.d], fp := true } :=
  issue_keeps hp hh h ((Res.cleanV_stays ..).bind fun _ =>
    (((KeptBy.refl s _).countMe _ _).putK _ (List.mem_singleton_self o.d)).setFlags _ rfl)

theorem execVcvt_keeps {o : VCvtOp} (h : execVcvt o s = .next t) : KeptBy s t { vs := [o.d], fp := true } :=
  issue_keeps hp hh h ((((KeptBy.refl s _).countMe _ _).putV _ _ (List.mem_singleton_self o.d)).putFp _ _ rfl)

theorem vred_keeps {f : Nat} {o : V1} (h : vred f o s = .next t) : KeptBy s t { vs := [o.d], fp := true } :=
  issue_keeps hp hh h ((((KeptBy.refl s _).countMe _ _).putV _ _ (List.mem_singleton_self o.d)).putFp _ _ rfl)

theorem execVbcast_keeps {o : VBcastOp} (h : execVbcast o s = .next t) : KeptBy s t { vs := [o.d] } :=
  issue_keeps hp hh h ((Res.examine_stays ..).bind fun _ =>
    ((KeptBy.refl s _).countMe _ _).putV _ _ (List.mem_singleton_self o.d))

theorem execVextr_keeps {o : VExtrOp} (h : execVextr o s = .next t) : KeptBy s t { gs := [o.d] } :=
  issue_keeps hp hh h ((Res.examine_stays ..).bind fun _ => (Res.freeG_stays ..).bind fun _ =>
    ((KeptBy.refl s _).countMe _ _).modMe (.setG _ _ (List.mem_singleton_self o.d)))

theorem execVins_keeps {o : VInsOp} (h : execVins o s = .next t) : KeptBy s t { vs := [o.d] } :=
  issue_keeps hp hh h ((Res.examine_stays ..).bind fun _ =>
    ((KeptBy.refl s _).countMe _ _).putV _ _ (List.mem_singleton_self o.d))

theorem kop_keeps {d : KReg} {f : State → KWord} (h : kop d f s = .next t) : KeptBy s t { ks := [d] } :=
  issue_keeps hp hh h ((KeptBy.refl s _).putK _ (List.mem_singleton_self d))

theorem execKset_keeps {d : KReg} {a : Src} {n : W32} (h : execKset d a n s = .next t) : KeptBy s t { ks := [d] } :=
  issue_keeps hp hh h ((Res.examine_stays ..).bind fun _ => (KeptBy.refl s _).putK _ (List.mem_singleton_self d))

theorem execGgmask_keeps {o : GgMaskOp} (h : execGgmask o s = .next t) : KeptBy s t { ks := [o.d] } :=
  issue_keeps hp hh h ((Res.examine_stays ..).bind fun _ => (KeptBy.refl s _).putK _ (List.mem_singleton_self o.d))

theorem execMma_keeps {o : MmaOp} (h : execMma o s = .next t) : KeptBy s t { as := [o.d], fp := true } := by
  refine issue_keeps hp hh h ((Res.examine_stays ..).bind fun _ =>
    Res.mmaAlign_keeps _ _ (Res.mmaAlign_keeps _ _ ?_))
  split
  · exact KeptBy.refl ..
  · split
    · exact KeptBy.refl ..
    · split
      · exact KeptBy.refl ..
      · exact (Res.cleanV_stays ..).bind fun _ =>
          ((((KeptBy.refl s _).countMe _ _).countMe _ _).putAcc _ (List.mem_singleton_self o.d)).setFlags _ rfl

theorem execAclr_keeps {d : AReg} (h : execAclr d s = .next t) : KeptBy s t { as := [d] } :=
  issue_keeps hp hh h ((KeptBy.refl s _).putAcc _ (List.mem_singleton_self d))

theorem execAmov_keeps {o : AMovOp} {ds : Dests} (hd : writesOf (.amov o) = some ds) (h : execAmov o s = .next t) :
    KeptBy s t ds := by
  cases o with
  | toV d a p =>
    cases hd
    exact issue_keeps hp hh h ((KeptBy.refl s _).putV _ _ (List.mem_singleton_self d))
  | toA d a p =>
    cases hd
    exact issue_keeps hp hh h ((Res.cleanV_stays ..).bind fun _ =>
      (KeptBy.refl s _).putAcc _ (List.mem_singleton_self d))

end

/-- Every instruction that writes only registers keeps all but its destinations, by its form. -/
theorem exec_keeps {i : Instr} {ds : Dests} {s t : State} (hi : writesOf i = some ds) (hp : Solo s)
    (hh : taHnd s.cur = false) (h : exec i s = .next t) : KeptBy s t ds := by
  cases i with dsimp only [exec] at h
  | add | sub | mul | mulh | mulhu | div | divu | rem | remu | and | or | xor | andn | shl | shr | sra | rol | min | max
  | minu | maxu | cmpEq | cmpNe | cmpLt | cmpLtu | cmpGe | cmpGeu => cases hi; exact int3_keeps hp hh h
  | mov | clz | ctz | popc | sextB | sextH | sextW | zextB | zextH | zextW | not | brev =>
    cases hi; exact int1_keeps hp hh h
  | addi | andi | ori | xori | shli | shri | srai | cmpiEq | cmpiLt | cmpiLtu => cases hi; exact intI_keeps hp hh h
  | addX | subX | mulX | mulhX | mulhuX | divX | divuX | remX | remuX | andX | orX | xorX | andnX
  | shlX | shrX | sraX | rolX | minX | maxX | minuX | maxuX | cmpEqX | cmpNeX | cmpLtX | cmpLtuX
  | cmpGeX | cmpGeuX => exact xint2_keeps hp hh hi h
  | sel | bfx | bfi | addpc | li => exact xint_keeps hp hh hi h
  | beq | bne | blt | bltu | bge | bgeu | beqX | bneX | bltX | bltuX | bgeX | bgeuX =>
    cases hi; exact branchIf_keeps hp hh h
  | br | bX => cases hi; exact jumpTo_keeps hp hh h
  | call | callX => cases hi; exact callTo_keeps hp hh h
  | jr => cases hi; exact execJr_keeps hp hh h
  | dbnz => cases hi; exact execDbnz_keeps hp hh h
  | ptest => cases hi; exact execPtest_keeps hp hh h
  | tagget => cases hi; exact execTagget_keeps hp hh h
  | kget | kpopc | kfirst => cases hi; exact kread_keeps hp hh h
  | ggrng => cases hi; exact execGgrng_keeps hp hh h
  | vadd | vsub | vmul | vmin | vmax | vand | vor | vxor => cases hi; exact vnative_keeps hp hh h
  | vaddX | vsubX | vmulX | vdiv | vminX | vmaxX | vshl | vshr | vsra | vandX | vorX | vxorX | vmulh =>
    cases hi; exact varith2_keeps hp hh h
  | vabs | vneg | vsqrt | vrcp | vrsq | vexp2 | vlog2 => cases hi; exact varith1_keeps hp hh h
  | vfma | vfms | vfnma => cases hi; exact varith3_keeps hp hh h
  | vsel | vperm | vslide | viota => cases hi; exact vecOp_keeps_fp hp hh (fun _ _ => rfl) h
  | vredAdd | vredMax | vredMin | vredAnd | vredOr => cases hi; exact vred_keeps hp hh h
  | vcvt => cases hi; exact execVcvt_keeps hp hh h
  | vbcast => cases hi; exact execVbcast_keeps hp hh h
  | vins => cases hi; exact execVins_keeps hp hh h
  | vextr => cases hi; exact execVextr_keeps hp hh h
  | vcmpEq | vcmpNe | vcmpLt | vcmpLe | vcmpGt | vcmpGe | vcmpUn | vcmpLtu => cases hi; exact vcmp_keeps hp hh h
  | kand | kor | kxor | knot => cases hi; exact kop_keeps hp hh h
  | kset => cases hi; exact execKset_keeps hp hh h
  | ggmask => cases hi; exact execGgmask_keeps hp hh h
  | mma => cases hi; exact execMma_keeps hp hh h
  | aclr => cases hi; exact execAclr_keeps hp hh h
  | amov => exact execAmov_keeps hp hh hi h
  | _ => cases hi

/-- Settles O10, by the form that gives the instruction its meaning. -/
theorem registerFrame : Obligations.RegisterFrame := by
  unfold Obligations.RegisterFrame
  intro i ds s t hi hp hh h
  exact exec_keeps hi hp hh h

end Sys2Proof.Machine
end

section
/-! SUPPORT. What lookups and translations leave as it was, and the loads of a slot (R102 to R104, R108, R197, R322). -/

namespace Sys2Proof.Machine

open Sys2Proof.Claims

/-! ## Lookups change caches and counters alone -/

/-- At most the cores, the dies and the retention registers have changed: counters and caches. -/
def CachesOnly (s t : State) : Prop := ∃ c d r, t = { s with cores := c, dies := d, retain := r }

namespace CachesOnly

variable {s t u : State}

theorem refl (s : State) : CachesOnly s s := ⟨_, _, _, rfl⟩

theorem trans (h : CachesOnly s t) (h' : CachesOnly t u) : CachesOnly s u := by
  obtain ⟨_, _, _, rfl⟩ := h
  obtain ⟨c, d, r, rfl⟩ := h'
  exact ⟨c, d, r, rfl⟩

theorem count (h : CachesOnly s t) (ta ev n : Nat) : CachesOnly s (t.count ta ev n) := by
  refine h.trans ?_
  unfold State.count
  dsimp only
  split
  · exact ⟨_, _, _, rfl⟩
  · exact refl t

theorem countMe (h : CachesOnly s t) (ev n : Nat) : CachesOnly s (t.countMe ev n) := h.count ..

theorem modCore (h : CachesOnly s t) (c : Nat) (f : CoreSt → CoreSt) : CachesOnly s (t.modCore c f) :=
  h.trans ⟨_, _, _, rfl⟩

theorem modDie (h : CachesOnly s t) (d : Nat) (f : DieSt → DieSt) : CachesOnly s (t.modDie d f) :=
  h.trans ⟨_, _, _, rfl⟩

theorem countRet (h : CachesOnly s t) (pa : Nat) (hit : Bool) : CachesOnly s (t.countRet pa hit) := by
  refine h.trans ?_
  unfold State.countRet
  split
  · exact refl t
  · exact ⟨_, _, _, rfl⟩

theorem countRet_if (h : CachesOnly s t) (cnt : Bool) (pa : Nat) (hit : Bool) :
    CachesOnly s (if cnt then t.countRet pa hit else t) := by
  split
  · exact h.countRet ..
  · exact h

theorem lookL2 (h : CachesOnly s t) (hint : Hint) (line : Nat) (cnt : Bool) : CachesOnly s (t.lookL2 hint line cnt).1 := by
  unfold State.lookL2
  dsimp only
  split
  · dsimp only
    exact (h.countRet_if ..).modDie ..
  · split
    · exact h.countRet_if ..
    · dsimp only
      exact (h.countRet_if ..).modDie ..

theorem lookHome (h : CachesOnly s t) (who : Option Nat) (line : Nat) (hint : Hint) (cnt : Bool) :
    CachesOnly s (t.lookHome who line hint cnt).1 := by
  unfold State.lookHome
  dsimp only
  split
  · exact (h.lookL2 ..).count ..
  · exact h.lookL2 ..

theorem lookup (h : CachesOnly s t) (ta line : Nat) (hint : Hint) (store : Bool) :
    CachesOnly s (t.lookup ta line hint store).1 := by
  have hd : CachesOnly s (if store then t.dropL1 line (some (t.l1Core ta (line * 128))) else t) := by
    split
    · exact h.trans ⟨_, _, _, rfl⟩
    · exact h
  unfold State.lookup
  dsimp only
  split
  · dsimp only
    exact (hd.count ..).modCore ..
  · split
    · exact ((hd.count ..).lookL2 ..).count ..
    · dsimp only
      exact (((hd.count ..).lookL2 ..).count ..).modCore ..

theorem mem (h : CachesOnly s t) : t.mem = s.mem := by obtain ⟨_, _, _, rfl⟩ := h; rfl
theorem poison (h : CachesOnly s t) : t.poison = s.poison := by obtain ⟨_, _, _, rfl⟩ := h; rfl
theorem agenda (h : CachesOnly s t) : t.agenda = s.agenda := by obtain ⟨_, _, _, rfl⟩ := h; rfl
theorem keeps (h : CachesOnly s t) (ds : Dests) : KeptBy s t ds := by
  obtain ⟨_, _, _, rfl⟩ := h
  exact (KeptBy.refl s ds).outside rfl rfl rfl rfl

end CachesOnly

/-! ## Translations leave the slots -/

/-- The slots and the issuing one are the same. -/
structure SameSlots (s t : State) : Prop where
  cur : t.cur = s.cur
  slots : t.slots = s.slots

namespace SameSlots

variable {s t u : State}

theorem refl (s : State) : SameSlots s s := ⟨rfl, rfl⟩

theorem trans (h : SameSlots s t) (h' : SameSlots t u) : SameSlots s u := ⟨h'.cur.trans h.cur, h'.slots.trans h.slots⟩

theorem of_caches (h : CachesOnly s t) : SameSlots s t := by
  obtain ⟨_, _, _, rfl⟩ := h
  exact ⟨rfl, rfl⟩

theorem slot (h : SameSlots s t) (ta : Nat) : t.slot ta = s.slot ta := by rw [State.slot, h.slots]; rfl

theorem me (h : SameSlots s t) : t.me = s.me := by rw [State.me, h.cur, h.slot]; rfl

theorem nextPc (h : SameSlots s t) : t.nextPc = s.nextPc := by rw [State.nextPc, h.me]; rfl

theorem meT (h : SameSlots s t) : t.meT = s.meT := by rw [State.meT, h.me, h.cur]; rfl

theorem count (h : SameSlots s t) (ta ev n : Nat) : SameSlots s (t.count ta ev n) :=
  h.trans (of_caches ((CachesOnly.refl t).count ..))

theorem countIssue (h : SameSlots s t) (p : Pipe) : SameSlots s (t.countIssue p) :=
  h.trans ⟨State.countIssue_cur .., State.countIssue_slots ..⟩

theorem tlbGive (h : SameSlots s t) (who : Option Nat) (e : TlbEntry) : SameSlots s (t.tlbGive who e) := by
  cases who with
  | none => exact h
  | some ta => exact ⟨h.cur, h.slots⟩

theorem foldl {α : Type} {f : State → α → State} (h : SameSlots s t) (hf : ∀ x a, SameSlots x (f x a)) (l : List α) :
    SameSlots s (l.foldl f t) := by
  induction l generalizing t with
  | nil => exact h
  | cons a l ih => exact ih (h.trans (hf t a))

/-- A walk's outcome acts on nothing but page tables, the TLBs and the agenda. -/
theorem walked (h : SameSlots s t) (c : Ctx) (die : Nat) (who : Option Nat) (va : Nat) (r : Walk) :
    SameSlots s (match r with
      | .leaf p pa size =>
        let e : TlbEntry := ⟨c.asid, va / size * size, size, p ||| 0x40, pa, die⟩
        ((((t.orPte pa 0x40).tlbPut e).tlbGive who e, some e) : State × Option TlbEntry)
      | .bad => (t, none)
      | .pois pa =>
        (t.report ⟨1, 1, 7, 0, pa / 2 ^ 12 % 4, 0, BitVec.ofNat 64 pa, BitVec.ofNat 64 (who.getD 0), none, 0⟩, none)).1 := by
  cases r with
  | leaf p pa size =>
    have hm : SameSlots s ((t.orPte pa 0x40).tlbPut ⟨c.asid, va / size * size, size, p ||| 0x40, pa, die⟩) := ⟨h.cur, h.slots⟩
    exact hm.tlbGive who _
  | bad => exact h
  | pois pa => exact ⟨h.cur, h.slots⟩

theorem dieLoad (h : SameSlots s t) (c : Ctx) (die : Nat) (who : Option Nat) (va : Nat) :
    SameSlots s (t.dieLoad c die who va).1 := by
  have h0 : SameSlots s { t with tlb := t.tlb.filter fun e => !(e.unit == die && e.covers c.asid va) } := ⟨h.cur, h.slots⟩
  unfold State.dieLoad
  split
  · exact h.tlbGive ..
  · cases who with
    | some ta => exact walked ((h0.count ..).foldl (fun x a => of_caches ((CachesOnly.refl x).lookHome ..)) _) ..
    | none => exact walked (h0.foldl (fun x a => of_caches ((CachesOnly.refl x).lookHome ..)) _) ..

theorem tlbLoad (h : SameSlots s t) (c : Ctx) (who : Option Nat) (va : Nat) : SameSlots s (t.tlbLoad c who va).1 := by
  unfold State.tlbLoad State.tlbLoadOn
  cases who with
  | none => exact h.dieLoad ..
  | some ta =>
    dsimp only
    split
    · exact h
    · have h0 : SameSlots s { t with tlb := t.tlb.filter fun e => !(e.unit == quadTlb ta && e.covers c.asid va) } :=
        ⟨h.cur, h.slots⟩
      exact (h0.count ..).dieLoad ..

theorem look (h : SameSlots s t) (c : Ctx) (who : Option Nat) (va : Word) (k : Acc3) :
    SameSlots s (t.look c who va k).1 := by
  have hl := h.tlbLoad c who va.toNat
  unfold State.look State.lookOn
  unfold State.tlbLoad at hl
  split
  · next x he => rw [he] at hl; exact hl
  · next x e he => rw [he] at hl; exact hl

end SameSlots

/-- A read marks no page: its translation is the lookup (R322). -/
theorem State.translate_read (s : State) (c : Ctx) (who : Option Nat) (va : Word) :
    s.translate c who va .r = s.look c who va .r := by
  unfold State.translate
  rcases s.look c who va .r with ⟨t, _ | p⟩ <;> rfl

/-! ## Where a load finds its bytes (R104) -/

/-- An address with bits [63:56] 0 passes the first check of R104. -/
theorem slice_high_eq_zero {va : Word} (h : va.toNat / 2 ^ 56 = 0) : slice va 56 8 = 0 := by
  rw [slice, Nat.shiftRight_eq_div_pow, h]
  rfl

/-- Outside the QLM block such an address is to be translated (R185). -/
theorem State.protect_outside {s : State} {ta : Nat} {va : Word} {n : Nat} {w : Bool} (h : va.toNat / 2 ^ 56 = 0)
    (hq : inQlmBlock va = false) : s.protect ta va n w = some none := by
  unfold State.protect
  rw [slice_high_eq_zero h, hq]
  rfl

/-- The one piece of a load that is placed: its place has the key, no view and no lost device. -/
theorem State.placeAll_placed {s u : State} {va : Word} {n key : Nat} (h : Placed s va n .r u key) :
    ∃ (p : Place) (q : Bool), s.placeAll s.myCtx .r false [(va, n)] = (u, .ok [(p, q)]) ∧ p.key = key ∧ p.view = none ∧
      (q = true ∨ u.lostAt p = false) := by
  obtain ⟨-, ⟨-, hprot, rfl⟩ | ⟨hq, h56, p, htr, hkey, hview, hlost⟩⟩ := h
  · refine ⟨⟨key, 0, false, none, 0, 0⟩, true, ?_, rfl, rfl, .inl rfl⟩
    have hp : u.protect u.cur va n false = some (some key) := hprot
    unfold State.placeAll State.lookAll State.lookAll
    simp only [hp]
    rfl
  · refine ⟨p, false, ?_, hkey, hview, .inr hlost⟩
    rw [State.translate_read] at htr
    unfold State.placeAll State.lookAll State.lookAll
    simp only [State.protect_outside h56 hq, htr]
    rfl

/-- The check of R104 passes on it. -/
theorem State.protAll_placed {s u : State} {va : Word} {n key : Nat} (h : Placed s va n .r u key) :
    s.protAll [(va, n)] false = .ok s () := by
  have hp : (s.protect s.cur va n false).isNone = false := by
    obtain ⟨-, ⟨-, hprot, -⟩ | ⟨hq, h56, -⟩⟩ := h
    · rw [show s.protect s.cur va n false = some (some key) from hprot]
      rfl
    · rw [State.protect_outside h56 hq]
      rfl
  unfold State.protAll
  rw [List.find?_cons_of_neg (by rw [hp]; decide), List.find?_nil]

/-- The read of one such piece gives its bytes and their poison, and changes caches and counters alone (R201, R329). -/
theorem State.readAll_one {u : State} {p : Place} {q : Bool} (n : Nat) (h : Hint) (hview : p.view = none)
    (hlost : q = true ∨ u.lostAt p = false) : ∃ x, CachesOnly u x ∧
      u.readAll h [((p, q), n)] [] = (x, [(u.bytes p.key n, u.pois p.key n)]) := by
  cases q with
  | true => exact ⟨_, (CachesOnly.refl u).countMe 13 1, rfl⟩
  | false =>
    have hl : u.lostAt p = false := hlost.resolve_left (by decide)
    cases hd : p.dev with
    | false =>
      refine ⟨u, CachesOnly.refl u, ?_⟩
      unfold State.readAll
      simp only [hl, hd, Bool.false_eq_true, if_false]
      rfl
    | true =>
      have hc := (CachesOnly.refl u).lookup u.cur (p.pa / 128) h false
      refine ⟨_, hc, ?_⟩
      unfold State.readAll
      simp only [hl, hd, hview, List.find?_nil, Bool.false_eq_true, if_false, if_true, State.bytes, State.pois, State.gran, hc.mem,
        hc.poison]
      rfl

/-- The read of a load that is placed (R102 to R104). -/
theorem State.loadLanes_placed {s u : State} {va : Word} {n key : Nat} (h : Hint) (ha : NoAmo s)
    (hal : va.toNat % n = 0) (hp : Placed s va n .r u key) : ∃ x, CachesOnly u x ∧
      s.loadLanes [(va, n)] n h = .ok x [(u.bytes key n, u.pois key n)] := by
  obtain ⟨p, q, hplace, rfl, hview, hlost⟩ := State.placeAll_placed hp
  obtain ⟨x, hx, hread⟩ := State.readAll_one n h hview hlost
  refine ⟨_, hx.countMe 17 1, ?_⟩
  have halign : alignAll [va] n s = .ok s () := by
    unfold alignAll
    rw [List.find?_cons_of_neg (by simpa using hal), List.find?_nil]
  have hheld : (s.accessHeld || s.anyHeld s.cur [(va, n)]) = false := by
    rw [show s.accessHeld = false from ha, State.anyHeld, List.any_cons, hp.1]
    rfl
  unfold State.loadLanes State.readLanes
  simp only [List.map_cons, List.map_nil, halign, Res.bind_ok, State.protAll_placed hp, hheld, Bool.false_eq_true, if_false,
    hplace, List.zip_cons_cons, List.zip_nil_right, hread]

/-! ## The data of a load (R22, R102) -/

theorem littleEndian_eq (bs : List Byte) : littleEndian bs = ofBytes bs := by
  induction bs with
  | nil => rfl
  | cons b bs ih => rw [littleEndian, ofBytes, ih]

theorem Memory.length_read (m : List Host.Cell) : ∀ n k, (Memory.read m k n).length = n
  | 0, _ => rfl
  | n + 1, k => congrArg (· + 1) (Memory.length_read m n (k + 1))

/-- The value of a load is that of its bytes, zero- or sign-extended. -/
theorem extend_eq_loaded {n : Nat} {signed : Bool} {bs : List Byte} (hb : bs.length = n) (hn : 8 * n ≤ 64) :
    extend signed bs = loaded n signed bs := by
  unfold extend loaded
  rw [littleEndian_eq, hb]
  cases signed with
  | false => rfl
  | true =>
    show ((BitVec.ofNat 64 (ofBytes bs)).setWidth (8 * n)).signExtend 64 = _
    rw [BitVec.setWidth_ofNat_of_le hn, if_pos rfl]

/-- A destination of an access is EMPTY and pending until its value arrives (R22). -/
theorem Slot.greg_pendFor (sl : Slot) {d : Reg} (h : d ≠ 0) (aq : Bool) :
    (sl.pendFor d aq).greg d = ⟨(sl.greg d).val, .empty, true⟩ := by
  have hp : (sl.pendG d).greg d = ⟨(sl.greg d).val, .empty, true⟩ := by
    rw [Slot.pendG, Slot.greg_setG, if_neg h, if_pos rfl]
  unfold Slot.pendFor
  dsimp only
  split <;> exact hp

theorem SlotKept.pendFor (x : Slot) {ds : Dests} {d : Reg} (aq : Bool) (hd : d ∈ ds.gs) : SlotKept x (x.pendFor d aq) ds := by
  have hp : SlotKept x (x.pendG d) ds := by
    refine SlotKept.trans ?_ (.setG _ _ hd)
    exact .of_eq rfl rfl rfl rfl rfl rfl rfl rfl ⟨rfl, rfl, rfl⟩
  unfold Slot.pendFor
  dsimp only
  split
  · exact hp.trans (.of_eq rfl rfl rfl rfl rfl rfl rfl rfl ⟨rfl, rfl, rfl⟩)
  · exact hp

/-- A load to a local register, once its read has answered (R104). -/
theorem loadTo_read {s x : State} {n : Nat} {signed aq : Bool} {l : List Src} {d : Reg} {addr : State → Word} {h : Hint}
    {bs : List Byte} {p : Bool} (hp : Solo s) (hl : FullAll s l) (hd : Free s d) (hal : (addr s).toNat % n = 0)
    (hx : s.loadLanes [(addr s, n)] n h = .ok x [(bs, p)]) : loadTo n signed l (.loc d) addr h aq s =
      .next (ended .s (if d = 0 then x else
        (x.modMe fun sl => sl.pendFor d aq).post (.loadDataArrival x.meT d (extend signed bs) p))) := by
  have halign : alignAll [addr s] n s = .ok s () := by
    unfold alignAll
    rw [List.find?_cons_of_neg (by simpa using hal), List.find?_nil]
  have hsrc : s.examine (l ++ (Dst.loc d).srcs) = .ok s () := State.examine_ok (List.forall_mem_append.2 ⟨hl, List.forall_mem_nil _⟩)
  have hfree : s.freeDst (.loc d) = .ok s () := State.freeG_ok hd
  refine issue_ok ?_
  rw [State.preIssue_single hp, hsrc, Res.bind_ok, halign, Res.bind_ok, hfree, Res.bind_ok]
  show (s.loadLanes [(addr s, n)] n h).bind _ = _
  rw [hx, Res.bind_ok]
  show (if d = 0 then Res.ok x ()
    else .ok ((x.modMe fun sl => sl.pendFor d aq).post (.loadDataArrival x.meT d (extend signed bs) p)) ()) = _
  exact (apply_ite (Res.ok · ()) ..).symm

/-! ## Loads and PREF (R102 to R104, R108) -/

theorem ended_pc (p : Pipe) (s : State) : (ended p s).me.pc = s.nextPc := by
  rw [ended, State.me_retireTo]

theorem ended_greg (p : Pipe) (s : State) (r : Reg) : (ended p s).me.greg r = s.me.greg r := by
  rw [ended, State.me_retireTo]
  show (s.countIssue p).me.greg r = _
  rw [((SameSlots.refl s).countIssue p).me]

theorem ended_agenda (p : Pipe) (s : State) : (ended p s).agenda = s.agenda := by
  rw [ended, State.retireTo_agenda, State.countIssue_agenda]

theorem KeptBy.ended {s t : State} {ds : Dests} (h : KeptBy s t ds) (p : Pipe) : KeptBy s (ended p t) ds :=
  (h.countIssue p).retireTo _

/-- The next PC after a slot's registers alone have changed. -/
theorem State.nextPc_modMe (s : State) {f : Slot → Slot} (hpc : (f s.me).pc = s.me.pc) (hl : (f s.me).ilen = s.me.ilen) :
    (s.modMe f).nextPc = s.nextPc := by
  rw [State.nextPc, State.me_modMe, hpc, hl]
  rfl

theorem Slot.pendFor_pc (sl : Slot) (d : Reg) (aq : Bool) : (sl.pendFor d aq).pc = sl.pc := by
  unfold Slot.pendFor Slot.pendG Slot.setG
  dsimp only
  split <;> split <;> rfl

theorem Slot.pendFor_ilen (sl : Slot) (d : Reg) (aq : Bool) : (sl.pendFor d aq).ilen = sl.ilen := by
  unfold Slot.pendFor Slot.pendG Slot.setG
  dsimp only
  split <;> split <;> rfl

/-- The translation of a load leaves the slots. -/
theorem SameSlots.of_placed {s u : State} {va : Word} {n key : Nat} (h : Placed s va n .r u key) : SameSlots s u := by
  obtain ⟨-, ⟨-, -, rfl⟩ | ⟨-, -, p, htr, -⟩⟩ := h
  · exact refl u
  · have hl := (refl s).look s.myCtx (some s.cur) va .r
    rw [State.translate_read] at htr
    rwa [htr] at hl

/-- A load to a local register, of any size (R102 to R104, R22). -/
theorem loadTo_sends {s : State} {n : Nat} {signed aq : Bool} {l : List Src} {d : Reg} {addr : State → Word} {h : Hint}
    (hp : Solo s) (ha : NoAmo s) (hl : FullAll s l) (hd : Free s d) (hal : (addr s).toNat % n = 0) (hn : 8 * n ≤ 64)
    {u : State} {key : Nat} (hpl : Placed s (addr s) n .r u key) :
    ∃ t, loadTo n signed l (.loc d) addr h aq s = .next t ∧ t.me.pc = s.nextPc ∧ Kept u t [d] [] [] [] false ∧
      (d ≠ 0 → (t.me.greg d).pres = .empty ∧ (t.me.greg d).pend = true ∧ t.agenda = u.agenda ++
        [.loadDataArrival ⟨s.cur, s.me.uid⟩ d (loaded n signed (Memory.read u.mem key n)) (u.pois key n)]) := by
  obtain ⟨x, hx, hread⟩ := State.loadLanes_placed h ha hal hpl
  have hxs : SameSlots s x := (SameSlots.of_placed hpl).trans (.of_caches hx)
  have hk : KeptBy u x ⟨[d], [], [], [], false⟩ := hx.keeps _
  refine ⟨_, loadTo_read hp hl hd hal hread, ?_⟩
  by_cases h0 : d = 0
  · rw [if_pos h0]
    exact ⟨(ended_pc ..).trans hxs.nextPc, hk.ended .s, fun h => absurd h0 h⟩
  · rw [if_neg h0]
    have hg := (x.me).greg_pendFor h0 aq
    have hpc : (x.modMe fun sl => sl.pendFor d aq).nextPc = s.nextPc :=
      (State.nextPc_modMe x (f := fun sl => sl.pendFor d aq) (Slot.pendFor_pc ..) (Slot.pendFor_ilen ..)).trans hxs.nextPc
    refine ⟨(ended_pc ..).trans hpc, ((hk.modMe (.pendFor _ _ (List.mem_singleton.2 rfl))).post _).ended .s, fun _ => ?_⟩
    have hme : ((ended .s ((x.modMe fun sl => sl.pendFor d aq).post
        (.loadDataArrival x.meT d (extend signed (u.bytes key n)) (u.pois key n)))).me.greg d) = (x.me.pendFor d aq).greg d := by
      rw [ended_greg]
      show (x.modMe fun sl => sl.pendFor d aq).me.greg d = _
      rw [State.me_modMe]
    rw [hme, hg, ended_agenda, State.post_agenda, State.modMe_agenda, hx.agenda, hxs.meT,
      State.bytes, extend_eq_loaded (Memory.length_read ..) hn]
    exact ⟨rfl, rfl, rfl⟩

/-- What a load's meaning sends, stated of its instruction. -/
theorem loads_of {s : State} {i : Instr} {n : Nat} {signed aq : Bool} {l : List Src} {d : Reg} {addr : State → Word}
    {h : Hint} {va : Word} (hi : exec i s = loadTo n signed l (.loc d) addr h aq s) (hva : addr s = va) (hp : Solo s)
    (ha : NoAmo s) (hl : FullAll s l) (hd : Free s d) (hal : va.toNat % n = 0) (hn : 8 * n ≤ 64) :
    Loads i s d va n signed := by
  subst hva
  intro u key hpl
  rw [hi]
  exact loadTo_sends hp ha hl hd hal hn hpl

/-- Every row of the table is a load of its size and extension, in both forms. -/
theorem exec_loadTable : ∀ e ∈ loadTable, 8 * e.2.2.1 ≤ 64 ∧ (∀ (d a : Reg) (c : BitVec 11) (s : State),
      exec (e.1 d a c) s = loadTo e.2.2.1 e.2.2.2 [blk a] (.loc d) (fun s => s.naddr a c) .normal false s) ∧
    ∀ (o : XLoad) (s : State), exec (e.2.1 o) s =
      loadTo e.2.2.1 e.2.2.2 o.addr.srcs o.dst (fun s => s.xaddr o.addr) o.hint o.aq s := by
  unfold loadTable
  simp only [List.forall_mem_cons]
  refine ⟨?_, ?_, ?_, ?_, ?_, ?_, ?_, List.forall_mem_nil _⟩ <;> exact ⟨by decide, fun _ _ _ _ => rfl, fun _ _ => rfl⟩

theorem SameRegs.refl (x : Slot) : SameRegs x x := ⟨rfl, rfl, rfl, rfl, rfl, rfl, rfl, rfl, rfl, rfl, rfl⟩

/-- An instruction that ends and leaves the slots as they are. -/
theorem ended_sameSlots {s x : State} (h : SameSlots s x) (p : Pipe) : (ended p x).me.pc = s.nextPc ∧
    SameRegs s.me (ended p x).me ∧ ∀ ta, ta ≠ s.cur → (ended p x).slot ta = s.slot ta := by
  have hc : SameSlots s (x.countIssue p) := h.countIssue p
  refine ⟨(ended_pc ..).trans h.nextPc, ?_, fun ta hne => ?_⟩
  · rw [ended, State.me_retireTo, hc.me]
    exact SameRegs.refl s.me
  · rw [ended, State.slot_retireTo_other _ _ (by rwa [hc.cur]), hc.slot]

/-- A PREF looks up a line, or does nothing (R108). -/
theorem execPref_ends {s : State} (m : XAddr) (h : Hint) (hp : Solo s) (hl : FullAll s m.srcs) :
    ∃ x, SameSlots s x ∧ execPref m h s = .next (ended .s x) := by
  have hb : ∃ x, SameSlots s x ∧ (match s.protect s.cur (s.xaddr m) 1 false with
    | some none =>
      match s.translate s.myCtx (some s.cur) (s.xaddr m) .r with
      | (s, some p) => Res.ok (if p.dev then (s.lookup s.cur (p.pa / 128) h false).1 else s) ()
      | (s, none) => .ok s ()
    | _ => .ok s ()) = .ok x () := by
    split
    · have hk := (SameSlots.refl s).look s.myCtx (some s.cur) (s.xaddr m) .r
      rw [State.translate_read]
      split
      · next t p he =>
        rw [he] at hk
        refine ⟨_, ?_, rfl⟩
        split
        · exact hk.trans (.of_caches ((CachesOnly.refl t).lookup ..))
        · exact hk
      · next t he =>
        rw [he] at hk
        exact ⟨t, hk, rfl⟩
    · exact ⟨s, .refl s, rfl⟩
  obtain ⟨x, hx, hb⟩ := hb
  refine ⟨x, hx, issue_ok ?_⟩
  rw [State.preIssue_single hp, State.examine_ok hl, Res.bind_ok]
  exact hb

/-- Settles O13: a load's read succeeds at the place its address translates to, and leaves the slots; its data are sent. -/
theorem loadResults : Obligations.LoadResults := by
  unfold Obligations.LoadResults
  intro s hp ha
  refine ⟨fun e he => ?_, fun m h hl => ?_⟩
  · obtain ⟨hn, hnat, hx⟩ := exec_loadTable e he
    refine ⟨fun d a c hs hd hal => ?_, fun d m aq sc h hl hd hal => ?_⟩
    · exact loads_of (hnat d a c s) rfl hp ha (List.forall_mem_singleton.2 hs) hd hal hn
    · exact loads_of (hx _ s) rfl hp ha hl hd hal hn
  · obtain ⟨x, hx, he⟩ := execPref_ends m h hp hl
    exact ⟨_, he, ended_sameSlots hx .s⟩

end Sys2Proof.Machine
end

section
/-! SUPPORT. What arrives: data, acknowledgements, remote writes, parked stores, deferred pushes, barrier arrivals and walks
(R22, R34, R101, R104, R105, R175, R176, R181, R322). -/

namespace Sys2Proof.Machine

open Sys2Proof.Claims

/-! ## Arrivals at a task (R22, R34, R105) -/

theorem agreed_any_eq_false {s : State} {u : Nat} (h : ∀ x ∈ s.agreed, x.1 ≠ u) : (s.agreed.any fun p => p.1 == u) = false :=
  List.any_eq_false.2 fun x hx => by simpa using h x hx

/-- What reaches a task that is in its slot changes that slot alone. -/
theorem State.modTask_inSlot {s : State} {t : Target} (h : InSlot s t) (f : Slot → Slot) : s.modTask t f = s.modSlot t.ta f := by
  obtain ⟨huid, hne, ha⟩ := h
  have hfind : s.findUid t = some (.inl t.ta) := if_pos ⟨huid, hne⟩
  unfold State.modTask
  rw [agreed_any_eq_false ha]
  simp only [Bool.false_eq_true, if_false, hfind]

/-- What reaches a task that has ended is discarded. -/
theorem State.modTask_gone {s : State} {t : Target} (h : Gone s t) (f : Slot → Slot) : s.modTask t f = s := by
  obtain ⟨hslot, hslots, hparked, ha⟩ := h
  have hs : s.slots.find? (fun p => p.2.uid == t.uid) = none := List.find?_eq_none.2 fun x hx => by simpa using hslots x hx
  have hp : s.parked.find? (fun p => p.2.uid == t.uid) = none := List.find?_eq_none.2 fun x hx => by simpa using hparked x hx
  have hfind : s.findUid t = none := by
    unfold State.findUid
    rw [if_neg fun hc => hslot hc.1, hs, hp, ite_self]
  unfold State.modTask
  rw [agreed_any_eq_false ha]
  simp only [Bool.false_eq_true, if_false, hfind]

/-! ## Remote writes (R19, R23, R101) -/

theorem State.rxOpen_saved {s : State} {core : Nat} {m : RxMsg} (hh : (s.core core).held = []) (hk : m.kind = 0)
    (hg : (s.slot m.ta).st = .idle ∨ (s.slot m.ta).ctx ≠ m.ctx)
    (hs : ∀ u, s.savedMail m = some u → (Store.get {} s.parked u : Slot).mailReady m.reg = true) : s.rxOpen core m = true := by
  have hg' : ((s.slot m.ta).st == .idle || (s.slot m.ta).ctx != m.ctx) = true := by simpa using hg
  unfold State.rxOpen
  dsimp only
  rw [hh, hk, hg']
  cases hm : s.savedMail m with
  | none => simp
  | some u =>
    show (true && ((s.core core).rxFits m || (Store.get {} s.parked u : Slot).mailReady m.reg)) = true
    rw [hs u hm, Bool.or_true]
    rfl

/-- A remote write to a slot that holds no task of its context. -/
theorem State.rxArrive_saved {s : State} {core : Nat} {m : RxMsg} (hh : (s.core core).held = []) (hk : m.kind = 0)
    (hg : (s.slot m.ta).st = .idle ∨ (s.slot m.ta).ctx ≠ m.ctx)
    (hs : ∀ u, s.savedMail m = some u → (Store.get {} s.parked u : Slot).mailReady m.reg = true) :
    s.rxArrive core m none = s.rxSaved core m := by
  unfold State.rxArrive State.rxGive
  rw [if_pos (State.rxOpen_saved hh hk hg hs), if_pos hk]
  exact if_pos hg

/-- A remote write that can land lands. -/
theorem State.rxArrive_lands {s : State} {core : Nat} {m : RxMsg} (hh : (s.core core).held = []) (hk : m.kind = 0)
    (hi : (s.slot m.ta).st ≠ .idle) (hc : (s.slot m.ta).ctx = m.ctx) (hr : (s.slot m.ta).mailReady m.reg = true) :
    s.rxArrive core m none = s.modSlot m.ta fun sl => sl.landMail m.reg m.value m.pois := by
  have hopen : s.rxOpen core m = true := by
    unfold State.rxOpen
    dsimp only
    rw [hh, hk, hc, hr, beq_eq_false_iff_ne.2 hi]
    simp
  unfold State.rxArrive State.rxGive
  rw [if_pos hopen, if_pos hk]
  dsimp only
  rw [if_neg (by simp [hi, hc]), if_pos hr]

/-- A remote write whose register is not EMPTY takes its entries in the queue. -/
theorem State.rxArrive_waits {s : State} {core : Nat} {m : RxMsg} (hh : (s.core core).held = []) (hk : m.kind = 0)
    (hi : (s.slot m.ta).st ≠ .idle) (hc : (s.slot m.ta).ctx = m.ctx) (hr : (s.slot m.ta).mailReady m.reg = false)
    (hf : (s.core core).rxFits m = true) : s.rxArrive core m none = s.rxPut core { m with uid := (s.slot m.ta).uid } := by
  have hopen : s.rxOpen core m = true := by
    unfold State.rxOpen
    dsimp only
    rw [hh, hf]
    rfl
  unfold State.rxArrive State.rxGive
  rw [if_pos hopen, if_pos hk]
  dsimp only
  rw [if_neg (by simp [hi, hc]), hr]
  rfl

theorem Slot.mailReady_iff {sl : Slot} (n : BitVec 5) (ht : sl.takes = []) : sl.mailReady n = true ↔
    (sl.greg (32 + n.setWidth 6)).pres = .empty ∧ (sl.greg (32 + n.setWidth 6)).pend = false := by
  unfold Slot.mailReady
  simp [ht]

theorem Slot.landMail_of_noTakes {sl : Slot} (ht : sl.takes = []) (n : BitVec 5) (v : Word) (p : Bool) :
    sl.landMail n v p = sl.arriveG (32 + n.setWidth 6) v p := by
  unfold Slot.landMail
  rw [ht]
  rfl

/-- A change to a slot is what it makes of the slot as it is. -/
theorem State.modSlot_congr {s : State} {ta : Nat} {f g : Slot → Slot} (h : f (s.slot ta) = g (s.slot ta)) :
    s.modSlot ta f = s.modSlot ta g := by
  unfold State.modSlot
  rw [h]

/-! ## The queue of a core (R188) -/

theorem length_rxLay (start : Nat) (l : List RxMsg) : ∀ used ext, (rxLay start l used ext).length = l.length := by
  induction l with
  | nil => exact fun _ _ => rfl
  | cons m ms ih =>
    intro used ext
    unfold rxLay
    split <;> exact congrArg (· + 1) (ih ..)

/-- Giving messages places changes nothing else of them. -/
theorem unplaced_zip (l : List RxMsg) : ∀ ps : List Nat, ps.length = l.length →
    unplaced ((l.zip ps).map fun x => { x.1 with pos := x.2 }) = unplaced l := by
  induction l with
  | nil => exact fun _ _ => rfl
  | cons m ms ih =>
    intro ps hp
    cases ps with
    | nil => cases hp
    | cons p ps => exact congrArg (_ :: ·) (ih ps (Nat.succ.inj hp))

theorem unplaced_append (l l' : List RxMsg) : unplaced (l ++ l') = unplaced l ++ unplaced l' := List.map_append

/-- At most memory has changed. -/
def MemOnly (s t : State) : Prop := ∃ m, t = { s with mem := m }

theorem MemOnly.foldl {α : Type} {f : State → α → State} (hf : ∀ x a, MemOnly x (f x a)) (l : List α) :
    ∀ {s : State}, MemOnly s (l.foldl f s) := by
  induction l with
  | nil => exact fun {s} => ⟨s.mem, rfl⟩
  | cons a l ih =>
    intro s
    obtain ⟨m, hm⟩ := hf s a
    obtain ⟨m', hm'⟩ := ih (s := f s a)
    refine ⟨m', hm'.trans ?_⟩
    rw [hm]

theorem MemOnly.rxWrite (s : State) (core p : Nat) (m : RxMsg) : MemOnly s (s.rxWrite core p m) :=
  MemOnly.foldl (fun _ _ => ⟨_, rfl⟩) _

theorem MemOnly.cores {s t : State} (h : MemOnly s t) : t.cores = s.cores := by obtain ⟨_, rfl⟩ := h; rfl
theorem MemOnly.slots {s t : State} (h : MemOnly s t) : t.slots = s.slots := by obtain ⟨_, rfl⟩ := h; rfl

/-- Closing up a queue writes memory, and gives the messages other places. -/
theorem State.rxPack_eq (s : State) (core : Nat) : ∃ t ps, MemOnly s t ∧ ps.length = (s.core core).rxq.length ∧
    s.rxPack core = t.modCore core fun c => { c with rxq := (c.rxq.zip ps).map fun x => { x.1 with pos := x.2 } } := by
  refine ⟨_, _, ?_, length_rxLay (s.rxStart core) _ 0 0, rfl⟩
  refine MemOnly.foldl (fun x i => ?_) _
  split
  · split
    · exact ⟨x.mem, rfl⟩
    · exact .rxWrite ..
  · exact ⟨x.mem, rfl⟩

theorem State.rxPack_rxq (s : State) (core : Nat) :
    unplaced ((s.rxPack core).core core).rxq = unplaced (s.core core).rxq := by
  obtain ⟨t, ps, ht, hl, he⟩ := s.rxPack_eq core
  have hc : t.core core = s.core core := by rw [State.core, ht.cores]; rfl
  rw [he, State.core_modCore, hc]
  exact unplaced_zip _ _ hl

theorem State.rxPack_slot (s : State) (core ta : Nat) : (s.rxPack core).slot ta = s.slot ta := by
  obtain ⟨t, ps, ht, -, he⟩ := s.rxPack_eq core
  rw [he, State.slot, State.slot]
  exact congrArg (Store.get {} · ta) ht.slots

/-- Counting an event changes no queue and no slot. -/
theorem State.count_rxq (s : State) (ta ev n core : Nat) : ((s.count ta ev n).core core).rxq = (s.core core).rxq := by
  unfold State.count
  dsimp only
  split
  · by_cases h : core = taCore ta
    · rw [h, State.core_modCore]
    · exact congrArg CoreSt.rxq (Store.get_set_other _ _ _ h)
  · rfl

/-- A message that is put into a queue stands there behind the others, and no slot changes. -/
theorem State.rxPut_spec (s : State) (core : Nat) (m : RxMsg) : (∀ ta, (s.rxPut core m).slot ta = s.slot ta) ∧
    unplaced ((s.rxPut core m).core core).rxq = unplaced ((s.core core).rxq ++ [m]) := by
  unfold State.rxPut
  refine ⟨fun ta => ?_, ?_⟩
  · rw [(SameSlots.count (.refl _) ..).slot, State.rxPack_slot]
    rfl
  · rw [State.count_rxq, State.rxPack_rxq, State.core_modCore, unplaced_append, unplaced_append]
    rfl

/-! ## Parked stores (R105, R340) -/

section Parked

variable {s u : State} {core no : Nat} {e : RpqEntry} {c : Ctx}

/-- A parked store that is next is translated again. -/
theorem execParkedStoreRetranslate_next (h : NextParked s core no e) :
    execParkedStoreRetranslate core no s = .next (s.rpqRetry core e) := by
  obtain ⟨hfind, -, hst, hb, -, hnext⟩ := h
  have hfree : s.rpqBehind core e = false := by
    unfold State.rpqBehind
    refine List.any_eq_false.2 fun x hx hany => ?_
    simp only [Bool.and_eq_true, beq_iff_eq, decide_eq_true_eq, bne_iff_ne, List.any_eq_true, List.contains_iff_mem] at hany
    obtain ⟨⟨⟨huid, hseq⟩, hna⟩, p, hp, hpe⟩ := hany
    exact hnext x hx huid hseq hna p hp hpe
  unfold execParkedStoreRetranslate
  rw [hfind]
  dsimp only
  rw [if_pos ⟨hst, hb, hfree⟩]

/-- Its bytes are not of QLM that is saved with its task. -/
theorem lanes_present_of_nextParked (h : NextParked s core no e) :
    ((e.lanes.any fun l => inQlmBlock l.1) && (s.slot e.ta).uid != e.uid) = false := by
  obtain ⟨-, -, -, -, hq, -⟩ := h
  rcases hq with hq | hq
  · rw [hq, bne_self_eq_false, Bool.and_false]
  · rw [List.any_eq_false.2 fun l hl => by rw [hq l hl]; exact Bool.false_ne_true, Bool.false_and]

/-- Where its translation fails it stays parked with the failing address, and is reported. -/
theorem State.rpqRetry_error {a : Word} (h : NextParked s core no e) (hc : s.ctx e.ctx = some c)
    (hp : ({ s with cur := e.ta } : State).placeAll c .w true (e.lanes.map fun l => (l.1, l.2.length)) = (u, .error a)) :
    s.rpqRetry core e = ((({ u with cur := s.cur } : State).uncountNew s core e.at_).modCore core fun k =>
      { k with rpq := k.rpq.map fun x => if x.no = e.no then { e with fva := a, behind := false, st := .parked } else x }).post
        (.faultService (s.parkPacket e.ta { e with fva := a, behind := false, st := .parked })) := by
  unfold State.rpqRetry
  dsimp only
  rw [lanes_present_of_nextParked h, hc, Option.getD_some, hp]
  rfl

/-- No entry that is held behind another is left to be looked at. -/
theorem State.rpqWake_of_none (h : ∀ x ∈ (s.core core).rpq, x.st ≠ .parked ∨ x.behind = false) : s.rpqWake core = s := by
  have hfold : ∀ l : List RpqEntry, (∀ x ∈ l, x.st ≠ .parked ∨ x.behind = false) →
      l.foldl (fun s e => if e.st = .parked ∧ e.behind then s.post (.parkedStoreRetranslate core e.no) else s) s = s := by
    intro l
    induction l with
    | nil => exact fun _ => rfl
    | cons x l ih =>
      intro hl
      have hx : ¬ (x.st = .parked ∧ x.behind = true) := by
        rintro ⟨hst, hb⟩
        rcases hl x List.mem_cons_self with hx | hx
        · exact hx hst
        · rw [hx] at hb
          exact Bool.false_ne_true hb
      rw [List.foldl_cons, if_neg hx]
      exact ih fun y hy => hl y (List.mem_cons_of_mem _ hy)
  exact hfold _ h

/-- Where it succeeds, at no format view, its bytes are written, it leaves, and it is acknowledged. -/
theorem State.rpqRetry_ok {ps : List (Place × Bool)} (h : NextParked s core no e) (hc : s.ctx e.ctx = some c)
    (hp : ({ s with cur := e.ta } : State).placeAll c .w true (e.lanes.map fun l => (l.1, l.2.length)) = (u, .ok ps))
    (hv : ∀ p ∈ ps, p.1.view = none) (hw : ∀ x ∈ (u.core core).rpq, x.no ≠ e.no → x.st ≠ .parked ∨ x.behind = false) :
    s.rpqRetry core e = ((({ (u.modCore core fun k => { k with rpq := k.rpq.filter fun x => x.no != e.no }).writeAll e.hint
      (ps.zip (e.lanes.map Prod.snd)) with cur := s.cur } : State).uncountNew s core e.at_).post (.storeAck ⟨e.ta, e.uid⟩)) := by
  have hwake : (u.rpqDrop core e.no).rpqWake core = u.rpqDrop core e.no := by
    refine State.rpqWake_of_none fun x hx => ?_
    rw [State.rpqDrop, State.core_modCore] at hx
    obtain ⟨hx, hne⟩ := List.mem_filter.1 hx
    exact hw x hx (bne_iff_ne.1 hne)
  have hview : ((ps.zip (e.lanes.map fun l => (l.1, l.2.length))).find? fun x => x.1.1.view.isSome) = none := by
    refine List.find?_eq_none.2 fun x hx => ?_
    rw [hv x.1 (List.of_mem_zip hx).1]
    exact Bool.false_ne_true
  unfold State.rpqRetry
  dsimp only
  rw [lanes_present_of_nextParked h, hc, Option.getD_some, hp]
  dsimp only
  rw [hwake, hview]
  rfl

end Parked

/-! ## Deferred pushes (R175, R176) -/

section Push

variable {s u : State} {p : EdgePush} {key : Nat} {e : Edge}

/-- A deferred push whose edge can be reached, and which is no token, goes on as the edge's header says. -/
theorem execEdgeDeferredPush_eq (ha : p.edge.toNat % 64 = 0) (hp : s.edgePlace none p.ctx p.edge 64 = (u, .ok key))
    (he : u.edgeAt key = .ok e) (ht : p.token = false) : exec (.edgeDeferredPush p) s = .next (
      if e.err then u else if e.free = 0 then u.post (.edgeDeferredPush p)
      else match u.edgePlace none p.ctx (e.base + BitVec.ofNat 64 (8 * e.tail)) 8 .w with
        | (s, .error _) => s.drop p.ctx
        | (s, .ok item) => s.pushItem none p.ctx key item e p.item p.core) := by
  have hs : slice p.edge 0 6 = 0 := ha
  show execEdgeDeferredPush p s = _
  unfold execEdgeDeferredPush
  simp only [hs, hp, he, ht, ne_eq, not_true_eq_false, if_false, Bool.false_eq_true, false_and] <;> rfl

/-- The push itself: the item is stored, the header moves, and a consumer that waits is readied (R175). -/
theorem State.pushItem_moves (x : State) (who : Option Nat) (ctx item core : Nat) (v : Word) (e' : Edge)
    (h : e' = { e with tail := (e.tail + 1) % e.cap, free := e.free - 1, fill := e.fill + 1 }) :
    (e.fill ≠ 0 ∨ e.run = true ∨ e.cons = 0 → x.pushItem who ctx key item e v core =
      (x.putBytes item (toBytes 8 v.toNat)).putEdge key e') ∧
    (e.fill = 0 → e.run = false → e.cons ≠ 0 → x.pushItem who ctx key item e v core =
      ((x.putBytes item (toBytes 8 v.toNat)).putEdge key { e' with run := true }).readyCons who ctx e.cons core false) := by
  subst h
  unfold State.pushItem
  refine ⟨fun h => if_neg ?_, fun hf hr hc => if_pos ⟨by simp [hf], hr, hc⟩⟩
  rintro ⟨hf, hr, hc⟩
  rcases h with h | h | h
  · exact h (Nat.succ.inj hf)
  · exact Bool.false_ne_true (hr.symm.trans h)
  · exact hc h

end Push

/-! ## Barrier slots (R181) -/

theorem BarSlot.arrive_eq (b : BarSlot) (rank : Nat) (phase : Bool) : b.arrive rank phase = arrived b rank phase := by
  have hbad : (!bit b.memb rank || bit b.arr rank || phase != b.ph) = true ↔
      b.memb.getLsbD rank = false ∨ b.arr.getLsbD rank = true ∨ phase ≠ b.ph := by
    simp [bit, or_assoc]
  unfold BarSlot.arrive arrived
  by_cases hp : b.pois = true
  · rw [if_pos hp, if_pos hp]
  · rw [if_neg hp, if_neg hp]
    by_cases hb : b.memb.getLsbD rank = false ∨ b.arr.getLsbD rank = true ∨ phase ≠ b.ph
    · rw [if_pos (hbad.2 hb), if_pos hb]
      rfl
    · rw [if_neg (mt hbad.1 hb), if_neg hb]
      unfold BarSlot.check
      simp [hp]

theorem BarSlot.ack_eq (b : BarSlot) : b.ack = acked b := by
  have hpoisoned : ∀ b : BarSlot, b.pois = true → b.check = b := fun b h => by
    unfold BarSlot.check
    simp [h]
  unfold BarSlot.ack acked
  by_cases hp : b.pois = true
  · simp only [hp, if_true, hpoisoned b hp]
  · by_cases hn : b.ackn = 65535
    · dsimp only
      rw [if_neg hp, if_pos hn, if_neg hp, if_pos hn]
      exact hpoisoned (b.poison 1) rfl
    · simp only [hp, hn, if_false, Bool.false_eq_true]
      unfold BarSlot.check
      simp

/-! ## Walks (R320 to R322) -/

/-- A walk reads memory and its poison alone. -/
theorem State.walk_congr {s t : State} (hm : t.mem = s.mem) (hp : t.poison = s.poison) (c : Ctx) (va : Nat) :
    t.walk c va = s.walk c va := by
  have hleaf : ∀ (p : Word) (size : Nat), t.pteLeaf c p size = s.pteLeaf c p size := fun p size => by
    simp only [State.pteLeaf, State.inFabric, hm]
  have hfrom : ∀ (l : List (Nat × Nat × Option Nat)) (table : Nat), t.walkFrom c va l table = s.walkFrom c va l table := by
    intro l
    induction l with
    | nil => exact fun _ => rfl
    | cons x l ih =>
      intro table
      obtain ⟨sh, w, leaf⟩ := x
      unfold State.walkFrom
      simp only [State.bytes, State.gran, hleaf, hm, hp, ih] <;> rfl
  exact hfrom ..

/-- A walk that no TLB serves leaves what it found first in the TLB of its unit. -/
theorem State.dieLoad_head {s : State} {c : Ctx} {die va pa size : Nat} {p : Word} {seen : List Nat}
    (hmiss : s.tlbFind die c.asid va = none) (hw : s.walk c va = (.leaf p pa size, seen)) :
    (s.dieLoad c die none va).1.tlb.head? = some ⟨c.asid, va / size * size, size, p ||| 0x40, pa, die⟩ := by
  have hhit : s.tlbHit die c.asid va = none := by
    unfold State.tlbHit
    rw [hmiss]
    rfl
  have hw' : ({ s with tlb := s.tlb.filter fun e => !(e.unit == die && e.covers c.asid va) } : State).walk c va =
      (.leaf p pa size, seen) := (State.walk_congr rfl rfl ..).trans hw
  unfold State.dieLoad
  simp only [hhit, hw']
  rfl

/-! ## The arrivals -/

/-- A remote write that reaches a core where nothing is held (R19, R23, R188). -/
theorem execRemoteWriteArrival_spec {s : State} {w : RemWrite} (hh : (s.core (taCore w.ta)).held = []) {r : Reg} {x : GReg}
    (hr : r = 32 + w.reg.setWidth 6) (hx : x = (s.slot w.ta).greg r) :
    ((s.slot w.ta).st = .idle ∨ (s.slot w.ta).ctx ≠ w.ctx →
      (s.savedMail (msgOf w) = none → exec (.remoteWriteArrival w) s = .next (s.drop w.ctx)) ∧
      ∀ u (sl : Slot), s.savedMail (msgOf w) = some u → sl = Store.get {} s.parked u → sl.mailReady w.reg = true →
        exec (.remoteWriteArrival w) s = .next { s with parked := Store.set s.parked u (sl.landMail w.reg w.value w.pois) }) ∧
    ((s.slot w.ta).st ≠ .idle → (s.slot w.ta).ctx = w.ctx → (s.slot w.ta).takes = [] →
      (x.pres = .empty → x.pend = false → exec (.remoteWriteArrival w) s =
        .next (s.modSlot w.ta fun sl => sl.arriveG r w.value w.pois)) ∧
      (x.pres ≠ .empty ∨ x.pend = true → (s.core (taCore w.ta)).rxFits (msgOf w) = true →
        ∃ t, exec (.remoteWriteArrival w) s = .next t ∧ t.slot w.ta = s.slot w.ta ∧
          unplaced (t.core (taCore w.ta)).rxq =
            unplaced ((s.core (taCore w.ta)).rxq ++ [{ msgOf w with uid := (s.slot w.ta).uid }]))) := by
  subst hr hx
  have he : exec (.remoteWriteArrival w) s = .next (s.rxArrive (taCore w.ta) (msgOf w) none) := rfl
  refine ⟨fun hg => ⟨fun hs => ?_, fun u sl hs hsl hm => ?_⟩, fun hi hc ht => ⟨fun hp hq => ?_, fun hbusy hf => ?_⟩⟩
  · rw [he, State.rxArrive_saved hh rfl hg (fun u hu => by rw [hs] at hu; cases hu), State.rxSaved, hs]
    rfl
  · subst hsl
    rw [he, State.rxArrive_saved hh rfl hg (fun v hv => by rw [hs] at hv; cases hv; exact hm), State.rxSaved, hs]
    exact congrArg Host.Outcome.next (if_pos hm)
  · have hr : (s.slot w.ta).mailReady w.reg = true := (Slot.mailReady_iff _ ht).2 ⟨hp, hq⟩
    rw [he, State.rxArrive_lands (m := msgOf w) hh rfl hi hc hr, State.modSlot_congr (s := s) (ta := (msgOf w).ta)
      (f := fun sl => sl.landMail (msgOf w).reg (msgOf w).value (msgOf w).pois)
      (g := fun sl => sl.arriveG (32 + w.reg.setWidth 6) w.value w.pois) (Slot.landMail_of_noTakes ht w.reg w.value w.pois)]
    rfl
  · have hn : (s.slot (msgOf w).ta).mailReady (msgOf w).reg = false := by
      rw [Bool.eq_false_iff]
      intro hr
      obtain ⟨hp, hq⟩ := (Slot.mailReady_iff _ ht).1 hr
      rcases hbusy with hb | hb
      · exact hb hp
      · exact Bool.false_ne_true (hq.symm.trans hb)
    obtain ⟨hslot, hq⟩ := s.rxPut_spec (taCore w.ta) { msgOf w with uid := (s.slot w.ta).uid }
    rw [he, State.rxArrive_waits hh rfl hi hc hn hf]
    exact ⟨_, rfl, hslot _, hq⟩

/-- No entry of the TLB of die 0 covers the address. -/
theorem State.tlbFind_none {s : State} {asid va : Nat}
    (h : ∀ e ∈ s.tlb, ¬ (e.unit = 0 ∧ e.asid = asid ∧ e.page ≤ va ∧ va < e.page + e.size)) : s.tlbFind 0 asid va = none := by
  refine List.find?_eq_none.2 fun e he hc => h e he ?_
  simpa [TlbEntry.covers, and_assoc] using hc

/-- Settles O43: each arrival by what its operation does to the task, the queue, the edge, the barrier slot or the TLB. -/
theorem arrivals : Obligations.Arrivals := by
  unfold Obligations.Arrivals
  intro s
  refine ⟨fun t ht => ⟨fun d v => ?_, fun d v => ?_, ?_⟩, fun t ht => ⟨fun d v p => ?_, ?_⟩, fun w hh r x hr hx => ?_,
    fun core no e c hn hc => ⟨fun u a hp => ?_, fun u ps hp hv hw => ?_⟩,
    fun p u key e ha hp he ht => ⟨fun herr => ?_, fun herr hfree => ?_, fun x item e' herr hfree hitem he' => ?_⟩,
    fun ctx uid n rank phase => ?_, fun ctx uid n => ?_, fun ctx va c hc hmiss p pa size seen hw => ?_⟩
  · exact congrArg Host.Outcome.next (State.modTask_inSlot ht _)
  · exact congrArg Host.Outcome.next (State.modTask_inSlot ht _)
  · exact congrArg Host.Outcome.next (State.modTask_inSlot ht _)
  · exact congrArg Host.Outcome.next (State.modTask_gone ht _)
  · exact congrArg Host.Outcome.next (State.modTask_gone ht _)
  · obtain ⟨hgone, hthere⟩ := execRemoteWriteArrival_spec hh hr hx
    refine ⟨hgone, fun hi hc ht => ?_⟩
    obtain ⟨hland, hwait⟩ := hthere hi hc ht
    refine ⟨fun hp hq hw => ?_, fun hp hq hw => ?_, hwait⟩
    · rw [hland hp hq, hw]
      rfl
    · rw [hland hp hq, hw]
      rfl
  · refine ⟨_, (execParkedStoreRetranslate_next hn).trans (congrArg Host.Outcome.next (State.rpqRetry_error hn hc hp)), rfl, rfl⟩
  · exact (execParkedStoreRetranslate_next hn).trans (congrArg Host.Outcome.next (State.rpqRetry_ok hn hc hp hv hw))
  · rw [execEdgeDeferredPush_eq ha hp he ht, if_pos herr]
  · rw [execEdgeDeferredPush_eq ha hp he ht, herr, if_neg Bool.false_ne_true, if_pos hfree]
  · rw [execEdgeDeferredPush_eq ha hp he ht, herr, if_neg Bool.false_ne_true, if_neg hfree, hitem]
    obtain ⟨hquiet, hready⟩ := State.pushItem_moves (key := key) x none p.ctx item p.core p.item e' he'
    exact ⟨fun h => congrArg Host.Outcome.next (hquiet h), fun hf hr hcons => congrArg Host.Outcome.next (hready hf hr hcons)⟩
  · exact congrArg (fun f => Host.Outcome.next (s.modBar ctx uid n f)) (funext fun b => b.arrive_eq rank phase)
  · exact congrArg (fun f => Host.Outcome.next (s.modBar ctx uid n f)) (funext BarSlot.ack_eq)
  · have he : exec (.pageWalk ctx va) s = .next (s.dieLoad c 0 none va.toNat).1 := by
      show execPageWalk ctx va s = _
      unfold execPageWalk
      rw [hc]
      rfl
    exact ⟨_, he, State.dieLoad_head (State.tlbFind_none hmiss) hw⟩

end Sys2Proof.Machine
end

section
/-! SUPPORT. What the scheduler and the placers do, and how work stops and resumes (R31, R169 to R171, R178, R344 to R348,
R379). -/

namespace Sys2Proof.Machine

open Sys2Proof.Claims

/-! ## Loose tasks (R31, R169) -/

@[simp] theorem State.note_units (s : State) (r : TraceRec) : (s.note r).units = s.units := by
  obtain ⟨l, _, h⟩ := State.note_eq s r
  rw [h]

/-- A task without a table and without a partner is put into its slot. -/
theorem State.loadTask_plain (s : State) {sl : Slot} {ta : Nat} (hspt : sl.spt = 0) (hp : sl.paired = false) :
    s.loadTask sl ta = (s.setSlot ta sl).note ⟨1, sl.ctx, 0, 0, BitVec.ofNat 64 ta, sl.pc⟩ := by
  have hload : (s.setSlot ta sl).loadSpt ta = s.setSlot ta sl := by
    unfold State.loadSpt
    refine if_pos ?_
    rw [State.slot_setSlot, hspt]
  unfold State.loadTask
  simp only [hload, hp, Bool.false_eq_true, if_false]

/-- A unit outside a replay run leaves no mark of its place. -/
theorem State.replayPlaced_plain (s : State) {u : UnitSt} (h : u.replay = false) : s.replayPlaced u = s := by
  unfold State.replayPlaced
  rw [h]
  rfl

/-- The slot of a task that is alone in its unit (R31). -/
theorem State.taskSlot_loose {s : State} {u : UnitSt} {m : Member} {c : Ctx} (tc top : Word) (hg : u.gang = none)
    (hc : s.ctx u.ctx = some c) (hl : u.task.lash = false) : ∃ sl, s.taskSlot u m tc top = sl ∧ sl.st = .running ∧
      sl.uid = m.uid ∧ sl.ctx = u.ctx ∧ sl.unit = u.addr ∧ sl.pc = u.task.pc ∧ sl.taskid = u.addr ∧ sl.arg = u.task.arg ∧
      sl.fcont = u.task.fcont ∧ sl.graph = BitVec.ofNat 64 u.task.graph ∧ sl.tcoord = tc ∧ sl.self = BitVec.ofNat 64 m.ta ∧
      sl.budget = (if u.task.budget = 0 then c.defbud else u.task.budget) ∧ sl.fpctl = BitVec.ofNat 64 c.fpdef ∧
      sl.greg 2 = ⟨top, .full, false⟩ ∧ sl.greg 3 = ⟨u.task.arg, .full, false⟩ ∧ sl.greg 4 = ⟨tc, .full, false⟩ ∧
      sl.spt = u.task.spt ∧ sl.paired = false := by
  have hsl : (s.taskSlot u m tc top).g = startG top u.task.arg tc := rfl
  obtain ⟨h2, h3, h4⟩ := startG_greg hsl
  refine ⟨_, rfl, rfl, rfl, rfl, rfl, rfl, ?_, rfl, rfl, rfl, rfl, rfl, ?_, ?_, h2, h3, h4, rfl, ?_⟩
  · simp only [State.taskSlot, startSlot, hg]
  · simp only [State.taskSlot, startSlot, hc, Option.getD_some, TaskRec.cycles]
  · simp only [State.taskSlot, startSlot, hc, Option.getD_some]
  · simp only [State.taskSlot, Slot.paired, hg, hl, Bool.false_eq_true, if_false]
    rfl

theorem tcoordOf_loose (ty tx : Nat) : tcoordOf 1 0 ty tx = BitVec.ofNat 64 (2 ^ 48 + ty * 2 ^ 16 + tx) := by
  rw [tcoordOf, Nat.one_mul, Nat.zero_mul, Nat.add_zero]

/-- The unit of a loose task in a slot, with its share at an offset (R169, R186). -/
def looseUnit (w : Work) (c : Ctx) (uid ta off : Nat) : UnitSt :=
  { ctx := w.ctx, addr := w.addr, task := w.task, die := taDie ta, origin := taVq ta, qlmOff := off, qlmLen := c.lqlm
    members := [⟨0, ta, uid, false⟩], replay := w.replay }

/-- The state in which the task of a loose unit is put into its slot. -/
def State.withUnit (s : State) (u : UnitSt) : State := { s with units := s.units ++ [u], nextUid := s.nextUid + 1 }

theorem State.startLoose_eq {s : State} {w : Work} {c : Ctx} (ta off : Nat) (hc : s.ctx w.ctx = some c)
    (hlash : w.task.lash = false) (hrep : w.replay = false) : s.startLoose w ta off =
      (s.withUnit (looseUnit w c s.nextUid ta off)).loadTask ((s.withUnit (looseUnit w c s.nextUid ta off)).taskSlot
        (looseUnit w c s.nextUid ta off) ⟨0, ta, s.nextUid, false⟩ (tcoordOf 1 0 w.task.ty w.task.tx)
        (localAddr (off + c.lqlm))) ta := by
  unfold State.startLoose
  simp only [hlash, hc, Option.getD_some, Bool.false_eq_true, if_false]
  rw [State.replayPlaced_plain _ hrep]
  rfl

/-- A loose task without LASH, table and replay starts in its slot (R31). -/
theorem State.startLoose_started {s : State} {w : Work} {c : Ctx} (ta off : Nat) (hc : s.ctx w.ctx = some c)
    (hlash : w.task.lash = false) (hspt : w.task.spt = 0) (hrep : w.replay = false) :
    Started s ((s.unqueue w.ctx w.addr).startLoose w ta off) w c ta off := by
  rw [State.startLoose_eq (s := s.unqueue w.ctx w.addr) ta off hc hlash hrep]
  generalize hu : looseUnit w c (s.unqueue w.ctx w.addr).nextUid ta off = u
  obtain ⟨sl, he, hst, huid, hctx, hunit, hpc, htid, harg, hfc, hgr, htc, hself, hbud, hfp, h2, h3, h4, hs, hp⟩ :=
    State.taskSlot_loose (s := (s.unqueue w.ctx w.addr).withUnit u) (u := u) (m := ⟨0, ta, s.nextUid, false⟩) (c := c)
      (tcoordOf 1 0 w.task.ty w.task.tx) (localAddr (off + c.lqlm)) (by rw [← hu]; rfl) (by rw [← hu]; exact hc)
      (by rw [← hu]; exact hlash)
  subst hu
  rw [show (s.unqueue w.ctx w.addr).nextUid = s.nextUid from rfl] at he ⊢
  rw [he, State.loadTask_plain _ (hs.trans hspt) hp]
  exact ⟨sl, tcoordOf 1 0 w.task.ty w.task.tx, (State.slot_note ..).trans (State.slot_setSlot ..), tcoordOf_loose .., hst,
    huid, hctx, hunit, hpc, htid, harg, hfc, hgr, htc, hself, hbud, hfp, h2, h3, h4, _, State.note_units .., rfl, rfl, rfl,
    rfl, rfl, rfl⟩

/-! ## Starting and stealing (R169, R178) -/

/-- What starting a record on a core comes to, for any event that answers as starting it does. -/
theorem startsOn_of {i : Instr} {s : State} {core : Nat} {w : Work}
    (hi : exec i s = .next ((s.startOn core w).getD s)) : StartsOn i s core w := by
  refine ⟨fun hslot => ?_, fun ta hslot => ⟨fun hfr => ?_, fun hfr c hc => ⟨fun hoff => ?_, fun hoff hlash hspt hrep => ?_⟩⟩⟩
  · rw [hi, State.startOn, hslot]
    rfl
  · rw [hi, State.startOn, hslot]
    simp only [hfr, if_true, Option.getD_some]
  · rw [hi, State.startOn, hslot]
    simp only [hfr, hc, hoff, Bool.false_eq_true, if_false, Option.getD_some, Option.getD_none]
  · have hpos : 0 < (s.offsets [core / 4] c.lqlm false).length := List.length_pos_iff.2 hoff
    have hlt := Nat.mod_lt (Config.freeShare s.ctr) hpos
    refine ⟨_, (s.offsets [core / 4] c.lqlm false).getD (Config.freeShare s.ctr % (s.offsets [core / 4] c.lqlm false).length) 0,
      ?_, ?_, State.startLoose_started ta _ hc hlash hspt hrep⟩
    · rw [hi, State.startOn, hslot]
      simp only [hfr, hc, Bool.false_eq_true, if_false, Option.getD_some]
    · rw [← List.getElem_eq_getD (h := hlt)]
      exact List.getElem_mem hlt

theorem execTaskStart_none {s : State} {core : Nat} (h : s.nextWork core = none) : exec (.taskStart core) s = .next s := by
  show execTaskStart core s = _
  unfold execTaskStart
  rw [h]

theorem execTaskStart_some {s : State} {core : Nat} {w : Work} (h : s.nextWork core = some w) :
    exec (.taskStart core) s = .next ((s.startOn core w).getD s) := by
  show execTaskStart core s = _
  unfold execTaskStart
  rw [h]

theorem execTaskSteal_some {s : State} {core victim : Nat} {w : Work} (hn : s.nextWork core = none) (hv : victim ∈ s.victims core)
    (hb : s.bottom victim = some w) (hr : w.replay = false) :
    exec (.taskSteal core victim) s = .next ((s.startOn core w).getD s) := by
  have hc : ((s.nextWork core).isSome || !(s.victims core).contains victim) = false := by simp [hn, hv]
  show execTaskSteal core victim s = _
  unfold execTaskSteal
  rw [hc, hb]
  simp only [hr, Bool.false_eq_true, if_false]

/-- A core with work of its own, or a core that is no victim of it: nothing is stolen. -/
theorem execTaskSteal_none {s : State} {core victim : Nat} (h : s.nextWork core ≠ none ∨ victim ∉ s.victims core) :
    exec (.taskSteal core victim) s = .next s := by
  have hc : ((s.nextWork core).isSome || !(s.victims core).contains victim) = true := by
    simpa [Option.isSome_iff_ne_none] using h
  show execTaskSteal core victim s = _
  unfold execTaskSteal
  rw [hc]
  rfl

/-! ## Placing a gang (R170, R178) -/

section Place

variable {s : State} {die : Nat} {w : Work} {g : GangRec}

/-- A placer with one request looks whether it fits. -/
theorem execGangPlace_single (hp : (s.die die).placer = [w]) (hm : s.mayStart w.ctx = true) :
    exec (.gangPlace die) s = .next ((s.placeOne die w).getD s) := by
  show execGangPlace die s = _
  unfold execGangPlace
  rw [hp]
  simp only [List.findSome?_cons, List.findSome?_nil, hm, if_true]
  cases s.placeOne die w <;> rfl

theorem State.placeOne_fits (hg : w.gang = some g) {o off : Nat} {l : List (Nat × Nat × Nat × Nat)}
    (hf : s.findPlace die w.ctx w.addr g (g.lash || w.task.lash) false w.replay = some (o, l, off)) :
    s.placeOne die w = some (if s.graphFrozen w.ctx w.task.graph then
      (((s.unqueue w.ctx w.addr).replayEnd w.replay 2).cancelled w ((die * 512 + o) * 4)).act
        [.done w.ctx w.addr w.task true ((die * 512 + o) * 4)]
      else (s.unqueue w.ctx w.addr).startGang w g die o off l) := by
  unfold State.placeOne
  simp only [hg, hf]
  exact (apply_ite some ..).symm

theorem State.placeOne_full (hg : w.gang = some g)
    (hf : s.findPlace die w.ctx w.addr g (g.lash || w.task.lash) false w.replay = none)
    (hc : s.findPlace die w.ctx w.addr g (g.lash || w.task.lash) true w.replay = none) : s.placeOne die w = none := by
  unfold State.placeOne
  simp only [hg, hf, hc]

end Place

/-! ## Reserving for an aged request (R171) -/

/-- A fold that keeps the least of a list by a measure, the first of equals, finds one unless the list is empty. -/
theorem foldl_least {α : Type} {f : α → Nat} {step : Option (Nat × α) → α → Option (Nat × α)}
    (h0 : ∀ a, step none a = some (f a, a)) (hlt : ∀ v x a, f a < v → step (some (v, x)) a = some (f a, a))
    (hge : ∀ v x a, ¬ f a < v → step (some (v, x)) a = some (v, x)) :
    ∀ l : List α, l ≠ [] → ∃ a ∈ l, (∀ b ∈ l, f a ≤ f b) ∧ l.foldl step none = some (f a, a) := by
  have hsome : ∀ (l : List α) (a : α), ∃ b ∈ a :: l, (∀ c ∈ a :: l, f b ≤ f c) ∧ l.foldl step (some (f a, a)) = some (f b, b) := by
    intro l
    induction l with
    | nil => exact fun a => ⟨a, List.mem_cons_self, fun c hc => by rw [List.mem_singleton.1 hc], rfl⟩
    | cons x l ih =>
      intro a
      by_cases hx : f x < f a
      · obtain ⟨b, hb, hle, he⟩ := ih x
        refine ⟨b, List.mem_cons_of_mem _ hb, List.forall_mem_cons.2 ⟨?_, hle⟩, ?_⟩
        · exact (hle x List.mem_cons_self).trans hx.le
        · rw [List.foldl_cons, hlt _ _ _ hx, he]
      · obtain ⟨b, hb, hle, he⟩ := ih a
        obtain ⟨hba, hbl⟩ := List.forall_mem_cons.1 hle
        refine ⟨b, ?_, List.forall_mem_cons.2 ⟨hba, List.forall_mem_cons.2 ⟨hba.trans (not_lt.1 hx), hbl⟩⟩, ?_⟩
        · exact (List.mem_cons.1 hb).elim (fun h => h ▸ List.mem_cons_self)
            fun h => List.mem_cons_of_mem _ (List.mem_cons_of_mem _ h)
        · rw [List.foldl_cons, hge _ _ _ hx, he]
  intro l hl
  cases l with
  | nil => exact absurd rfl hl
  | cons a l =>
    obtain ⟨b, hb, hle, he⟩ := hsome l a
    exact ⟨b, hb, hle, by rw [List.foldl_cons, h0, he]⟩

section Age

variable {s : State} {die : Nat} {w : Work} {g : GangRec} {c : Ctx}

/-- With no stopped gang on the die, the one request of the placer is the aged one once its context's aging time is past. -/
theorem State.agedGang_single (hp : (s.die die).placer = [w]) (hg : w.gang = some g) (hc : s.ctx w.ctx = some c)
    (hm : s.mayStart w.ctx = true) (hu : ∀ u ∈ s.units, ¬ (u.stopped = true ∧ u.die = die ∧ u.gang.isSome = true)) :
    s.agedGang die = if w.since + c.aging < s.time then some (w.ctx, w.addr, g, none) else none := by
  have hstop : ∀ f : UnitSt → Bool, (s.units.filter fun u => u.stopped && u.die == die && u.gang.isSome && f u) = [] :=
    fun f => List.filter_eq_nil_iff.2 fun u hmem h => hu u hmem (by
      simp only [Bool.and_eq_true, beq_iff_eq] at h
      obtain ⟨⟨⟨hs, hd⟩, hgang⟩, -⟩ := h
      exact ⟨hs, hd, hgang⟩)
  unfold State.agedGang
  simp only [hstop, List.foldl_nil, hp, List.find?_cons, List.find?_nil, hc, hm, Bool.and_true]
  by_cases ht : w.since + c.aging < s.time
  · simp only [ht, decide_true, if_true, hg, Option.map_some]
  · simp only [ht, decide_false, if_false]

/-- An origin that a request without a stopped unit may reserve passes the event's test. -/
theorem mem_reservable (o : Nat) : (o ∈ (origins g.w g.h).filter fun o => originFits none o &&
    (rectQuads die o g).all fun q => s.present die (q % 512)) ↔ MayReserve s die g o := by
  simp only [List.mem_filter, originFits, Bool.true_and, List.all_eq_true, MayReserve]

/-- The origin with the least budget so far, once one more is looked at; the first of equals stays. -/
def cheaperOrigin (s : State) (die : Nat) (g : GangRec) (b : Option (Nat × Nat)) (o : Nat) : Option (Nat × Nat) :=
  match b with
  | some (v, _) => if s.rectBudget die o g < v then some (s.rectBudget die o g, o) else b
  | none => some (s.rectBudget die o g, o)

theorem execGangAgingReserve_eq (hr : (s.die die).reserved = none)
    (ha : s.agedGang die = some (w.ctx, w.addr, g, none)) : exec (.gangAgingReserve die) s =
      .next (match ((origins g.w g.h).filter fun o => originFits none o &&
          (rectQuads die o g).all fun q => s.present die (q % 512)).foldl (cheaperOrigin s die g) none with
        | some (_, o) => s.modDie die fun d => { d with reserved := some ⟨w.ctx, w.addr, o, g.w, g.h⟩ }
        | none => s) := by
  show execGangAgingReserve die s = _
  unfold execGangAgingReserve
  simp only [hr, ha] <;> rfl

/-- With nothing reserved, the aged request reserves an origin whose occupants have the least budget left, where there is one. -/
theorem execGangAgingReserve_aged (hr : (s.die die).reserved = none)
    (ha : s.agedGang die = some (w.ctx, w.addr, g, none)) :
    ((∀ o, ¬ MayReserve s die g o) → exec (.gangAgingReserve die) s = .next s) ∧
    ((∃ o, MayReserve s die g o) → ∃ o, MayReserve s die g o ∧
      (∀ p, MayReserve s die g p → s.rectBudget die o g ≤ s.rectBudget die p g) ∧
      exec (.gangAgingReserve die) s =
        .next (s.modDie die fun d => { d with reserved := some ⟨w.ctx, w.addr, o, g.w, g.h⟩ })) := by
  rw [execGangAgingReserve_eq hr ha]
  constructor
  · intro hno
    rw [List.eq_nil_iff_forall_not_mem.2 fun o ho => hno o ((mem_reservable o).1 ho)]
    rfl
  · rintro ⟨o, ho⟩
    obtain ⟨a, hmem, hle, hfold⟩ := foldl_least (f := fun o => s.rectBudget die o g) (step := cheaperOrigin s die g)
      (fun _ => rfl) (fun _ _ _ h => if_pos h) (fun _ _ _ h => if_neg h) _ (List.ne_nil_of_mem ((mem_reservable o).2 ho))
    refine ⟨a, (mem_reservable a).1 hmem, fun p hp => hle p ((mem_reservable p).2 hp), ?_⟩
    rw [hfold]

/-- Nothing is reserved before the aging time is past, or while another reservation stands. -/
theorem execGangAgingReserve_young (h : s.agedGang die = none ∨ (s.die die).reserved ≠ none) :
    exec (.gangAgingReserve die) s = .next s := by
  show execGangAgingReserve die s = _
  unfold execGangAgingReserve
  rcases h with h | h
  · rw [h]
    cases (s.die die).reserved <;> rfl
  · cases hr : (s.die die).reserved with
    | none => exact absurd hr h
    | some r => rfl

end Age

/-- The scheduler and the placers do what R31 and R169 to R171 say. -/
theorem scheduling : Scheduling := by
  unfold Scheduling
  intro s
  refine ⟨fun core hn => execTaskStart_none hn, fun core w hn => startsOn_of (execTaskStart_some hn),
    fun core victim w hn hv hb hr => startsOn_of (execTaskSteal_some hn hv hb hr), fun core victim h => execTaskSteal_none h,
    fun die w g hp hm hg => ⟨fun o l off hf => ⟨fun hfr => ?_, fun hfr => ?_⟩, fun hf hc => ?_⟩,
    fun die w g c hp hg hc hm hu => ⟨fun h => ?_, fun ht hr => ?_⟩⟩
  · rw [execGangPlace_single hp hm, State.placeOne_fits hg hf, hfr]
    rfl
  · rw [execGangPlace_single hp hm, State.placeOne_fits hg hf, hfr]
    rfl
  · rw [execGangPlace_single hp hm, State.placeOne_full hg hf hc]
    rfl
  · exact execGangAgingReserve_young (h.imp_left fun ht => by
      rw [State.agedGang_single hp hg hc hm hu, if_neg (Nat.not_lt.2 ht)])
  · exact execGangAgingReserve_aged hr (by rw [State.agedGang_single hp hg hc hm hu, if_pos ht])

/-! ## Stopping and resuming (R344 to R347) -/

section Budget

variable {s : State} {ta : Nat}

theorem execBudgetExpiry_none (h : (s.slot ta).st ≠ .running ∨ (s.slot ta).budget ≠ 0) :
    exec (.budgetExpiry ta) s = .next s := by
  show execBudgetExpiry ta s = _
  unfold execBudgetExpiry
  exact congrArg Host.Outcome.next (if_pos (h.imp_right Or.inl))

/-- A slot at BUDGET 0: its unit is stopped or waits, or it raises BUDGET. -/
theorem execBudgetExpiry_zero (hs : (s.slot ta).st = .running) (hb : (s.slot ta).budget = 0)
    (hp : (s.slot ta).partner = none) : exec (.budgetExpiry ta) s = .next (
      match (if taHnd ta then none else s.unitOf ta) with
      | some u =>
        if s.quiescing u.ctx then s.forceStop u
        else if u.preempt.isSome then (if s.anyFrozen u then s else s.forceStop u)
        else s.raise ta 0x09 (s.slot ta).pc
      | none => s.raise ta 0x09 (s.slot ta).pc) := by
  show execBudgetExpiry ta s = _
  unfold execBudgetExpiry
  exact congrArg Host.Outcome.next (if_neg (by simp [hs, hb, hp]))

end Budget

/-- A unit that can resume has a room that its parked stores fit. -/
theorem State.canResume_iff (s : State) (u : UnitSt) :
    s.canResume u = true ↔ ∃ r, s.resumeRoom u = some r ∧ s.rpqFits u r = true := by
  unfold State.canResume
  cases s.resumeRoom u with
  | none => simp
  | some r => simp

theorem execUnitResume_none {s : State} {ctx : Nat} {addr : Word} (h : ∀ u ∈ s.units, u.is ctx addr = true → u.stopped = true →
    ∀ r, s.resumeRoom u = some r → s.rpqFits u r = false) : exec (.unitResume ctx addr) s = .next s := by
  have hnone : (s.units.find? fun u => u.is ctx addr && u.stopped && s.canResume u) = none := by
    refine List.find?_eq_none.2 fun u hu hc => ?_
    simp only [Bool.and_eq_true] at hc
    obtain ⟨⟨his, hst⟩, hcan⟩ := hc
    obtain ⟨r, hr, hfit⟩ := (s.canResume_iff u).1 hcan
    exact Bool.false_ne_true ((h u hu his hst r hr).symm.trans hfit)
  show execUnitResume ctx addr s = _
  unfold execUnitResume
  rw [hnone]

theorem execUnitResume_some {s : State} {ctx : Nat} {addr : Word} {u : UnitSt} {r : Room}
    (h : s.units.find? (fun u => u.is ctx addr && u.stopped && s.canResume u) = some u) (hr : s.resumeRoom u = some r) :
    s.rpqFits u r = true ∧ exec (.unitResume ctx addr) s = .next (s.resumeIn u r) := by
  have hfit : s.rpqFits u r = true := by
    have hcan := List.find?_some h
    simp only [Bool.and_eq_true] at hcan
    obtain ⟨-, hcan⟩ := hcan
    obtain ⟨r', hr', hfit⟩ := (s.canResume_iff u).1 hcan
    rwa [Option.some.inj (hr.symm.trans hr')]
  refine ⟨hfit, ?_⟩
  show execUnitResume ctx addr s = _
  unfold execUnitResume
  rw [h]
  simp only [hr, hfit, if_true]

/-! ## Lashed pairs (R379) -/

section Rollback

variable {s : State} {ta : Nat}

theorem execLashedExchange_eq (hp : (s.slot ta).paired = true) (hs : (s.slot ta).st = .running)
    (hq : (s.slot ta).partner = none) : exec (.lashedExchange ta) s =
      .next (if Config.freeFlag s.ctr 30 then s.exchange ta else s.rollback ta) := by
  show execLashedExchange ta s = _
  unfold execLashedExchange
  simp only [hp, hs, hq]
  rfl

/-- The slot of a pair that returns to its rollback point for the n-th time (R379). -/
def rolledBack (sl old : Slot) (n : Nat) : Slot :=
  { old with st := .running, heldSt := [], retired := 0, fbuf := [], budget := sl.budget
             pairst := (old.pairst &&& 7) + BitVec.ofNat 64 (n * 8) }

/-- A disagreement returns the pair to its rollback point; the third time it raises LASHED there. -/
theorem State.rollback_eq (s : State) (ta : Nat) : s.rollback ta =
    if (s.slot ta).pairst.toNat / 8 % 4 < 2 then
      (s.setSlot ta (rolledBack (s.slot ta) (Store.get (s.slot ta) s.agreed (s.slot ta).uid)
        ((s.slot ta).pairst.toNat / 8 % 4 + 1))).reportPair ta 0 (Store.get (s.slot ta) s.agreed (s.slot ta).uid).pc
    else ((s.setSlot ta (rolledBack (s.slot ta) (Store.get (s.slot ta) s.agreed (s.slot ta).uid) 2)).reportPair ta 2
      (Store.get (s.slot ta) s.agreed (s.slot ta).uid).pc).raise ta 0x10 (Store.get (s.slot ta) s.agreed (s.slot ta).uid).pc := by
  have hs : slice (s.slot ta).pairst 3 2 = (s.slot ta).pairst.toNat / 8 % 4 := by
    rw [slice, Nat.shiftRight_eq_div_pow]
    rfl
  unfold State.rollback
  rw [← hs]
  rfl

end Rollback

/-- A report puts an error on the agenda and changes no slot and no memory. -/
theorem State.reportPair_slot (s : State) (ta cls : Nat) (pc : Word) (tb : Nat) : (s.reportPair ta cls pc).slot tb = s.slot tb :=
  rfl

/-- The slot of a task that takes a fault. -/
theorem State.slot_raise_task {s : State} {ta : Nat} (h : taHnd ta = false) (c : Nat) (v : Word) :
    (s.raise ta c v).slot ta = { s.slot ta with st := .frozen, pkt := s.packetOf ta c v false false } := by
  obtain ⟨l, -, he⟩ := State.raise_task (s := s) h c v
  rw [he]
  exact Store.get_set_same ..

/-- Work stops and resumes as R344 to R347 and R379 say. -/
theorem stoppingAndResuming : StoppingAndResuming := by
  unfold StoppingAndResuming
  intro s ta
  refine ⟨execBudgetExpiry_none, fun hs hb hp => ⟨fun h => ?_, fun u hh hu => ?_⟩,
    fun ctx addr h => execUnitResume_none h, fun ctx addr u r h hr => execUnitResume_some h hr, fun hp hs hq old n hold hn => ?_⟩
  · have hnone : (if taHnd ta then none else s.unitOf ta) = none := by
      rcases h with h | h <;> simp [h]
    rw [execBudgetExpiry_zero hs hb hp, hnone]
  · rw [execBudgetExpiry_zero hs hb hp, hh, if_neg Bool.false_ne_true, hu]
    refine ⟨fun hq => ?_, fun hq hr hf => ?_, fun hq hr hf => ?_, fun hq hr => ?_⟩
    · simp only [hq, if_true]
    · simp only [hq, Option.isSome_iff_ne_none.2 hr, hf, Bool.false_eq_true, if_false, if_true]
    · simp only [hq, Option.isSome_iff_ne_none.2 hr, hf, Bool.false_eq_true, if_false, if_true]
    · simp only [hq, hr, Option.isSome_none, Bool.false_eq_true, if_false]
  · rw [execLashedExchange_eq hp hs hq]
    split
    · rfl
    · rw [State.rollback_eq, ← hold, ← hn]
      refine ⟨fun h2 => ?_, fun h2 hh => ?_⟩
      · rw [if_pos h2]
        refine ⟨_, rfl, ?_⟩
        rw [State.reportPair_slot, State.slot_setSlot]
        exact ⟨rfl, rfl, rfl, rfl, rfl, rfl, rfl⟩
      · rw [if_neg (Nat.not_lt.2 h2)]
        refine ⟨_, ((s.setSlot ta (rolledBack (s.slot ta) old 2)).reportPair ta 2 old.pc).packetOf ta 0x10 old.pc false false,
          rfl, ?_⟩
        rw [State.slot_raise_task hh, State.packetOf, State.reportPair_slot, State.slot_setSlot]
        exact ⟨rfl, rfl, rfl, rfl, rfl, rfl⟩

/-- Settles O47: the scheduler's events by the record they pick and the room it has, the stopping of work by its unit's state. -/
theorem schedulingAndStopping : Obligations.SchedulingAndStopping := ⟨scheduling, stoppingAndResuming⟩

end Sys2Proof.Machine
end

section
/-! SUPPORT. The encoder and the decoder undo each other: every instruction's fields pick it again, the fields of a word are
the word, and the bytes of words are the words (R3, R36, R40 to R58). -/

namespace Sys2Proof.Laws.RoundTrip

/-- Every instruction that has an encoding is picked again by its fields: the lemmas of the family, in the order of the
constructors. -/
theorem all (i : Instr) : RoundTrip.Statement i :=
  i.casesOn
    addX subX mulX mulhX mulhuX divX divuX remX remuX andX orX xorX andnX shlX shrX sraX rolX minX maxX minuX maxuX
    cmpEqX cmpNeX cmpLtX cmpLtuX cmpGeX cmpGeuX sel bfx bfi addpc li ldBX ldHX ldWX ldDX ldsBX ldsHX ldsWX stBX stHX
    stWX stDX pref put pset beqX bneX bltX bltuX bgeX bgeuX bX callX vaddX vsubX vmulX vdiv vminX vmaxX vabs vneg
    vsqrt vfma vfms vfnma vrcp vrsq vexp2 vlog2 vsel vshl vshr vsra vandX vorX vxorX vmulh vcmpEq vcmpNe vcmpLt vcmpLe
    vcmpGt vcmpGe vcmpUn vcmpLtu vcvt vredAdd vredMax vredMin vredAnd vredOr vperm vbcast vextr vins vslide viota vld
    vst vlds vsts vgath vscat vldb kand kor kxor knot kset kget kpopc kfirst mma aclr ald ast amov ggset ggrng ggmask
    spawn spawnr gang depset depdec epush epop cancel barinit bararv barwait barsync barack barpois barstat l2pin
    l2unpin l2stat l2flush amoSwap amoCas amoAdd amoAnd amoOr amoXor amoMin amoMax amoMinu amoMaxu amoFadd amoFmin
    amoFmax fence ifence drain sendam cpset cpgo cpstat cpabort waitany waitall ffrdy tagclr tagget creduce callred
    cbcast cgather sopen ssend srecv spoll spass saccept sclose sstat swatch sflush sfcfg sfscl sfbias sfseed sfrun
    sfwait sfsmp sfhalt sfstat sfdln sfacpt sfrel splload splget trap rdsr wrsr pair unpair pmcfg pmrd mark
    loadDataArrival storeAck parkedStoreRetranslate remoteWriteArrival atomicAtHome atomicReturn activationRedelivery
    rxfull edgeDeferredPush barrierArrival barrierAck copyExecute copyCompletion collectiveCommit collectiveAbort
    collectiveWatchdog sfReply settleSaturation settleCertify settleTimeout settleConfigError strandItemArrival
    strandCreditReturn strandMoveRequest strandStopperArrival strandRouteSwitch strandFray traceRecord launchItemSend
    launchItemAccept retireGo retireSwitch faultService errorDetected lashedExchange thermalMove thermalEmergency
    thermalResume quadPowerGate quadWakeTest controlInterval railDroop marginError histogramDecay deviceLostTimeout
    hostMemAccess spdmRequest powerOnReset linkGridSnapshot replayRunGo replayPassComplete replayEnforceTimeout
    svcCreditWrite handlerActivationStart taskStart taskSteal gangPlace gangAgingReserve unitResume budgetExpiry
    deadlineFire deadlineDiversion copyTrap pageWalk ctxCreate ctxKill inval launchOpen launchClose svcRing duty
    devLost lyongSetup strandWire strandFree quiesce imageWrite imageRestore unquiesce preempt thaw dbgMap
    unknownCommand resume skip goto fcont killt killg killc replay abandon grow fbclr traceEnable traceClear
    traceResume railPowerWrite formatRegionWrite registerWrite peerMemAccess lyongPortTraining traceTailWrite
    launchItemApproval add sub mul mulh mulhu div divu rem remu and or xor andn shl shr sra rol min max minu maxu
    cmpEq cmpNe cmpLt cmpLtu cmpGe cmpGeu mov clz ctz popc sextB sextH sextW zextB zextH zextW not brev take ptest
    pempty addi andi ori xori shli shri srai cmpiEq cmpiLt cmpiLtu ldB ldH ldW ldD ldsB ldsH ldsW stB stH stW stD beq
    bne blt bltu bge bgeu br call jr dbnz endTask vadd vsub vmul vmin vmax vand vor vxor spliceWord illegalWord

end Sys2Proof.Laws.RoundTrip

namespace Sys2Proof

/-! ## What the decoder accepts (R50, R58) -/

/-- An instruction is accepted for a form when the form's fields pick it, it encodes to the form, and it is well formed. -/
theorem accept_eq_ok_iff {e : Enc} {o : Option Instr} {i : Instr} :
    accept e o = .ok i ↔ o = some i ∧ i.enc = some e ∧ i.wf = true := by
  cases o with
  | none => simp [accept]
  | some j =>
    rw [accept, Option.some.injEq]
    constructor
    · intro h
      split at h
      · next he =>
        split at h
        · next hw =>
          obtain rfl := Except.ok.inj h
          exact ⟨rfl, he, hw⟩
        · cases h
      · cases h
    · rintro ⟨rfl, he, hw⟩
      rw [if_pos he, if_pos hw]

/-- The form of a well-formed instruction is accepted as that instruction. -/
theorem accept_pick {i : Instr} {e : Enc} (hw : i.wf = true) (he : i.enc = some e) : accept e e.pick = .ok i :=
  accept_eq_ok_iff.2 ⟨Laws.RoundTrip.all i hw e he, he, hw⟩

/-- Every splice word is accepted: none of its fields is reserved (R51). -/
theorem accept_splice (s : SFields) :
    accept (.splice s) (Enc.pick (.splice s)) = .ok (.spliceWord s.idx s.ha s.hb s.hc s.hd) :=
  accept_pick rfl rfl

/-! ## The words of a form decode to what its fields pick (R36) -/

/-- A literal is its two words (R44). -/
theorem append_halves (l : Word) : l.extractLsb' 32 32 ++ l.setWidth 32 = l := by
  rw [BitVec.setWidth_eq_extractLsb' (by decide), BitVec.extractLsb'_append_extractLsb'_eq_extractLsb' (by rfl)]
  exact extract_all l

theorem decodeWords_words (e : Enc) (rest : List W32) : decodeWords (e.words ++ rest) = accept e e.pick := by
  cases e with
  | native n => simp [Enc.words, decodeWords, code_native, Enc.pick]
  | splice s => simp [Enc.words, decodeWords, code_splice, accept_splice]
  | ext x =>
    have hx := xfieldsOf_words x
    have hc := code_ext x
    cases hl : x.lit with
    | none =>
      rw [hl] at hx hc
      simp [Enc.words, decodeWords, decodeExt, Enc.pick, hl, hc, hx]
    | some l =>
      rw [hl] at hx hc
      simp [Enc.words, decodeWords, decodeExt, Enc.pick, hl, hc, hx, append_halves]

/-! ## The fields of words are the words (R40, R44, R51) -/

/-- A word is its fields and its length code. -/
theorem append_fields (w : W32) : w.extractLsb' 27 5 ++ w.extractLsb' 21 6 ++ w.extractLsb' 15 6 ++ w.extractLsb' 9 6 ++
    w.extractLsb' 2 7 ++ w.extractLsb' 0 2 = w := by
  repeat rw [BitVec.extractLsb'_append_extractLsb'_eq_extractLsb' (by rfl)]
  exact extract_all w

/-- Word 1 of an extended form is its fields. -/
theorem append_fields1 (w : W32) : w.extractLsb' 27 5 ++ w.extractLsb' 23 4 ++ w.extractLsb' 20 3 ++ w.extractLsb' 16 4 ++
    w.extractLsb' 12 4 ++ w.extractLsb' 6 6 ++ w.extractLsb' 0 6 = w := by
  repeat rw [BitVec.extractLsb'_append_extractLsb'_eq_extractLsb' (by rfl)]
  exact extract_all w

theorem words_nfieldsOf {w : W32} (h : w.extractLsb' 0 2 = 0) : (Enc.native (nfieldsOf w)).words = [w] := by
  conv_rhs => rw [← append_fields w, h]
  rfl

theorem words_sfieldsOf {w : W32} (h : w.extractLsb' 0 2 = 1) : (Enc.splice (sfieldsOf w)).words = [w] := by
  conv_rhs => rw [← append_fields w, h]
  rfl

theorem word0_xfieldsOf {w0 w1 w2 : W32} {lit : Option Word}
    (h : w0.extractLsb' 0 2 = if lit.isSome then 3 else 2) : (xfieldsOf w0 w1 w2 lit).word0 = w0 := by
  conv_rhs => rw [← append_fields w0, h]
  rfl

theorem word1_xfieldsOf (w0 w1 w2 : W32) (lit : Option Word) : (xfieldsOf w0 w1 w2 lit).word1 = w1 :=
  append_fields1 w1

/-- The words of the fields of words without a literal. -/
theorem words_xfieldsOf_none {w0 w1 w2 : W32} (h : w0.extractLsb' 0 2 = 2) :
    (Enc.ext (xfieldsOf w0 w1 w2 none)).words = [w0, w1, w2] := by
  show [_, _, _] = _
  rw [word0_xfieldsOf h, word1_xfieldsOf]
  rfl

/-- The words of the fields of words with a literal. -/
theorem words_xfieldsOf_some {w0 w1 w2 w3 w4 : W32} (h : w0.extractLsb' 0 2 = 3) :
    (Enc.ext (xfieldsOf w0 w1 w2 (some (w4 ++ w3)))).words = [w0, w1, w2, w3, w4] := by
  show [_, _, _, BitVec.setWidth 32 (w4 ++ w3), BitVec.extractLsb' 32 32 (w4 ++ w3)] = _
  rw [word0_xfieldsOf h, word1_xfieldsOf, BitVec.setWidth_eq_extractLsb' (by decide), part0,
    extract_high _ _ _ _ (Nat.le_refl 32), Nat.sub_self, extract_all]
  rfl

/-- Words that decode begin with the words of a form whose fields pick the instruction. -/
theorem decodeWords_eq_ok {ws : List W32} {i : Instr} (h : decodeWords ws = .ok i) :
    ∃ e rest, Enc.words e ++ rest = ws ∧ accept e e.pick = .ok i := by
  unfold decodeWords at h
  split at h
  · cases h
  · split at h
    · next hc => exact ⟨_, _, congrArg (· ++ _) (words_nfieldsOf (BitVec.eq_of_toNat_eq hc)), h⟩
    · next hc => exact ⟨_, _, congrArg (· ++ _) (words_sfieldsOf (BitVec.eq_of_toNat_eq hc)), (accept_splice _).trans h⟩
    · next hc => exact ⟨_, _, congrArg (· ++ _) (words_xfieldsOf_none (BitVec.eq_of_toNat_eq hc)), h⟩
    · next hc => exact ⟨_, _, congrArg (· ++ _) (words_xfieldsOf_some (BitVec.eq_of_toNat_eq hc)), h⟩
    · cases h

/-! ## Words and bytes (R3) -/

/-- The bytes of a word are its parts of eight bits, the least significant first. -/
theorem toBytes_toNat (w : W32) : toBytes 4 w.toNat =
    [w.extractLsb' 0 8, w.extractLsb' 8 8, w.extractLsb' 16 8, w.extractLsb' 24 8] := by
  simp [toBytes, BitVec.extractLsb', Nat.shiftRight_eq_div_pow, Nat.div_div_eq_div_mul]

/-- A word is its four bytes. -/
theorem append_bytes (w : W32) :
    w.extractLsb' 24 8 ++ w.extractLsb' 16 8 ++ w.extractLsb' 8 8 ++ w.extractLsb' 0 8 = w := by
  repeat rw [BitVec.extractLsb'_append_extractLsb'_eq_extractLsb' (by rfl)]
  exact extract_all w

theorem wordsOf_bytesOfWords (ws : List W32) : wordsOf (bytesOfWords ws) = ws := by
  induction ws with
  | nil => rfl
  | cons w ws ih =>
    rw [bytesOfWords, toBytes_toNat]
    exact congrArg₂ List.cons (append_bytes w) ih

theorem decodeBytes_bytesOfWords (ws : List W32) : decodeBytes (bytesOfWords ws) = decodeWords ws := by
  rw [decodeBytes, wordsOf_bytesOfWords]

/-! ## Encoding and decoding -/

/-- The words of a well-formed instruction decode to it, whatever follows them. -/
theorem decodeWords_encode {i : Instr} {ws : List W32} (hw : i.wf = true) (he : encode i = some ws) (rest : List W32) :
    decodeWords (ws ++ rest) = .ok i := by
  obtain ⟨e, henc, rfl⟩ := Option.map_eq_some_iff.1 he
  rw [decodeWords_words, accept_pick hw henc]

/-- What words decode to is well formed, and its encoding stands at their beginning. -/
theorem encode_of_decodeWords {ws : List W32} {i : Instr} (h : decodeWords ws = .ok i) :
    i.wf = true ∧ ∃ us rest, encode i = some us ∧ ws = us ++ rest := by
  obtain ⟨e, rest, hws, ha⟩ := decodeWords_eq_ok h
  obtain ⟨-, he, hw⟩ := accept_eq_ok_iff.1 ha
  exact ⟨hw, e.words, rest, Option.map_eq_some_iff.2 ⟨e, he, rfl⟩, hws.symm⟩

/-- Settles O55: the fields of an instruction's form pick it again, and the fields of words are the words. -/
theorem encodeDecodeAll : Obligations.EncodeDecodeAll := by
  unfold Obligations.EncodeDecodeAll
  refine ⟨fun i ws rest hw he => ⟨decodeWords_encode hw he rest, ?_⟩, fun ws i h => encode_of_decodeWords h⟩
  rw [decodeBytes_bytesOfWords]
  exact decodeWords_encode hw he rest

end Sys2Proof
end

section
/-! SUPPORT. Retirement: PC moves, and outside the slot only counters count (R36, R353). -/

namespace Sys2Proof.Claims.Local

open Sys2Proof.Machine

/-! ## What stays in the slot and the counters -/

variable {s t u : State}

theorem refl (s : State) : Local s s := ⟨rfl, fun _ => rfl⟩

theorem trans (h : Local s t) (h' : Local t u) : Local s u where
  rest := by
    have hu : { u with slots := s.slots, cores := s.cores } = { t with slots := s.slots, cores := s.cores } := by
      conv_rhs => rw [← h'.rest]
    exact hu.trans h.rest
  cores c := by
    have hu : { u.core c with pmc := (s.core c).pmc } = { t.core c with pmc := (s.core c).pmc } := by
      conv_rhs => rw [← h'.cores c]
    exact hu.trans (h.cores c)

/-- A change of the issuing slot is local. -/
theorem modMe (h : Local s t) (f : Slot → Slot) : Local s (t.modMe f) := h.trans ⟨rfl, fun _ => rfl⟩

theorem retireTo (h : Local s t) (pc : Word) : Local s (t.retireTo pc) := h.modMe _

theorem count (h : Local s t) (ta ev n : Nat) : Local s (t.count ta ev n) := by
  refine h.trans ?_
  unfold State.count
  dsimp only
  split
  · refine ⟨rfl, fun c => ?_⟩
    by_cases hc : c = taCore ta
    · rw [hc, State.core_modCore]
    · rw [State.core, State.modCore, Store.get_set_other _ _ _ hc]
      rfl
  · exact refl t

theorem countMe (h : Local s t) (ev n : Nat) : Local s (t.countMe ev n) := h.count ..

theorem countAll (h : Local s t) (l : List (Nat × Nat)) : Local s (t.countAll l) := by
  induction l generalizing t with
  | nil => exact h
  | cons e es ih => exact ih (h.countMe ..)

theorem countMe_if (h : Local s t) (b : Bool) (ev n : Nat) : Local s (if b then t.countMe ev n else t) := by
  split
  · exact h.countMe ..
  · exact h

/-- An instruction counts the events of its fetch, its issue, its pipe, and an expansion. -/
theorem countIssue (h : Local s t) (p : Pipe) : Local s (t.countIssue p) :=
  (((h.countAll ..).countMe ..).countMe ..).countMe_if ..

end Sys2Proof.Claims.Local

namespace Sys2Proof.Machine

open Sys2Proof.Claims

/-! ## The end of an instruction (R36) -/

theorem endedAt_me_pc (p : Pipe) (t : Word) (s : State) : (endedAt p t s).me.pc = t := by
  rw [endedAt, State.me_retireTo]

/-- Ending an instruction changes no register of its slot, no memory and no other slot. -/
theorem endedAt_kept (p : Pipe) (t : Word) (s : State) : Kept s (endedAt p t s) [] [] [] [] false :=
  KeptBy.retireTo (ds := {}) ((KeptBy.refl ..).countIssue p) t

theorem endedAt_local (p : Pipe) (t : Word) (s : State) : Local s (endedAt p t s) :=
  ((Local.refl s).countIssue p).retireTo t

/-- Settles O5: an instruction that ends is one that ends at a target, its next instruction; retirement moves PC in the slot,
and what it counts stands in the counters of the core. -/
theorem retirement : Obligations.Retirement := by
  unfold Obligations.Retirement
  intro p s t
  exact ⟨endedAt_me_pc p s.nextPc s, endedAt_me_pc p t s, endedAt_kept p s.nextPc s, endedAt_local p s.nextPc s,
    endedAt_kept p t s, endedAt_local p t s⟩

end Sys2Proof.Machine
end

section
/-! SUPPORT. Splice tables, splice words, and words that are no instruction (R58, R270 to R276). -/

namespace Sys2Proof.Machine

open Sys2Proof.Claims

/-! ## Taking a fault at an instruction (R335) -/

@[simp] theorem State.me_note (s : State) (r : TraceRec) : (s.note r).me = s.me := by
  obtain ⟨l, -, h⟩ := s.note_eq r
  rw [h]
  rfl

/-- A task slot that takes a fault of any kind freezes with its packet. -/
theorem State.me_raiseAs {s : State} (h : taHnd s.cur = false) (c : Nat) (v : Word) (i w : Bool) :
    (s.raiseAs s.cur c v i w).me = { s.me with st := .frozen, pkt := s.packetOf s.cur c v i w } := by
  unfold State.raiseAs
  rw [h]
  exact (State.me_note ..).trans (Store.get_set_same ..)

/-- A word that is no instruction raises ILLEGAL, with nothing else done (R58). -/
theorem execIllegalWord_faulted {s : State} (h : taHnd s.cur = false) :
    ∃ t, exec .illegalWord s = .next t ∧ Faulted s t 0x01 s.me.pc := by
  obtain ⟨l, hl, ht⟩ := State.raise_task h 0x01 s.me.pc
  refine ⟨s.raise s.cur 0x01 s.me.pc, rfl, ?_⟩
  rw [ht]
  exact
    { me := ⟨_, Store.get_set_same .., rfl, rfl, rfl, rfl, rfl, rfl, rfl, rfl, l, rfl, hl⟩
      cur := rfl, mem := rfl, poison := rfl
      others := fun ta hta => Store.get_set_other _ _ _ hta }

/-! ## SPLLOAD (R274, R276) -/

/-- An entry of a list whose entries behind the first are mapped with their numbers. -/
theorem getElem?_take_one_append_map {α : Type} {l : List α} {j : Nat} {x : α} (F : α × Nat → α) (h : l[j]? = some x) :
    (l.take 1 ++ (l.drop 1).zipIdx.map F)[j]? = some (if j = 0 then x else F (x, j - 1)) := by
  cases l with
  | nil => cases h
  | cons y l =>
    cases j with
    | zero => exact h
    | succ j =>
      rw [List.getElem?_cons_succ] at h
      show (l.zipIdx.map F)[j]? = some (F (x, j))
      rw [List.getElem?_map, List.getElem?_zipIdx, h, Nat.zero_add]
      rfl

/-- What a slot that takes a table has decoded: the instruction itself as it was, and each behind it as it was or again. -/
theorem Slot.newTable_redecoded (sl : Slot) (ctr : Nat) (t : Word) (copy : Vector (BitVec 128) 128) :
    Redecoded sl t copy (sl.newTable ctr t copy).fbuf := by
  constructor
  · simp only [Slot.newTable, List.length_append, List.length_map, List.length_zipIdx, List.length_take, List.length_drop]
    omega
  · intro j f hf
    refine ⟨_, getElem?_take_one_append_map _ hf, ?_⟩
    split
    · exact ⟨rfl, rfl, fun _ => rfl, .inl rfl⟩
    · next hj =>
      dsimp only
      split
      · exact ⟨rfl, rfl, fun h => absurd h hj, .inl rfl⟩
      · exact ⟨rfl, rfl, fun h => absurd h hj, .inr rfl⟩

/-- A slot that takes a table changes the table and what it has decoded, and nothing else. -/
theorem State.modMe_newTable (s : State) (ctr : Nat) (t : Word) (copy : Vector (BitVec 128) 128) :
    (s.modMe fun sl => sl.newTable ctr t copy) =
      s.modMe fun sl => { sl with splc := copy, spt := t, fbuf := (s.me.newTable ctr t copy).fbuf } :=
  State.modSlot_congr rfl

/-- SPLLOAD of a task with its source FULL: what it answers is decided in that state. -/
theorem execSplload_ok {s t : State} {a : Src} (hp : Solo s) (hh : taHnd s.cur = false) (ha : Full s a.reg)
    (ht : (if s.g a.reg = 0 then Res.ok (s.modMe fun sl => sl.newTable s.ctr 0 (Vector.replicate 128 0)) ()
      else (s.readTable (s.g a.reg)).bind fun u bs =>
        .ok (u.modMe fun sl => sl.newTable u.ctr (s.g a.reg) (splcOf bs)).useCopy ()) = .ok t ()) :
    exec (.splload a) s = .next (ended .s t) := by
  show execSplload a s = _
  refine issue_ok ?_
  rw [State.preIssue_single hp, State.examine_ok (List.forall_mem_singleton.2 ha), Res.bind_ok, hh]
  exact ht

/-! ## SPLGET (R275) -/

theorem execSplget_ok {s : State} {d : Reg} {a : Src} (hp : Solo s) (ha : Full s a.reg) (hd : Free s d) (hd1 : Free s (d + 1))
    {e : BitVec 128} (he : e = if s.me.spt = 0 then 0 else s.me.splice ((s.g a.reg).setWidth 7)) :
    exec (.splget d a) s = .next (ended .s ((s.putG d (e.setWidth 64)).putG (d + 1) (e.extractLsb' 64 64))) := by
  subst he
  show execSplget d a s = _
  refine issue_ok ?_
  rw [State.preIssue_single hp, State.examine_ok (List.forall_mem_singleton.2 ha), Res.bind_ok, State.freeG_ok hd,
    Res.bind_ok, State.freeG_ok hd1, Res.bind_ok]

/-! ## Splice words (R52, R271, R272) -/

/-- An instruction to which a splice word expands has its own meaning: the two tables of meanings agree on every instruction
with an extended form, and the others have no such form. -/
theorem execExtended_eq_exec {i : Instr} {x : XFields} (h : i.enc = some (.ext x)) (s : State) :
    execExtended i s = exec i s := by
  cases i <;> dsimp only [Instr.enc, execExtended, exec] at h ⊢ <;> cases h

/-- Words of an extended form decode to an instruction of that form. -/
theorem enc_of_decodeExt {w0 w1 w2 : W32} {lit : Option Word} {i : Instr} (h : decodeExt w0 w1 w2 lit = .ok i) :
    i.enc = some (.ext (xfieldsOf w0 w1 w2 lit)) := by
  obtain ⟨-, henc, -⟩ := accept_eq_ok_iff.1 h
  exact henc

section SpliceWord

variable {s : State} {idx : BitVec 7} {ha hb hc : BitVec 6} {hd : BitVec 5} {e : BitVec 128}

/-- A fault of a splice word: its packet shows the word and its entry (R335). -/
theorem raises_spliced (h : taHnd s.cur = false) (w : W32) (e : BitVec 128) (c : Nat) (v : Word) (i : Bool) {o : Out}
    (ho : o = .next ((s.modMe fun sl => sl.showSplice w e).raiseAs s.cur c v i true)) :
    ∃ t p, o = .next t ∧ t.me.st = .frozen ∧ t.me.pkt = p ∧ p.fcode = c ∧ p.faddr = v ∧ p.splw = true ∧ p.inspl = i := by
  have hme := State.me_raiseAs (s := s.modMe fun sl => sl.showSplice w e) h c v i true
  exact ⟨_, _, ho, congrArg Slot.st hme, congrArg Slot.pkt hme, rfl, rfl, rfl, rfl⟩

theorem execSpliceWord_noEntry (h : entryOf s idx (SFields.mk hd hc hb ha idx).word = none) :
    exec (.spliceWord idx ha hb hc hd) s =
      .next ((s.modMe fun sl => sl.showSplice (SFields.mk hd hc hb ha idx).word 0).raiseAs s.cur 0x02 (idx.setWidth 64)
        false true) := by
  show execSpliceWord idx ha hb hc hd s = _
  unfold execSpliceWord
  extract_lets sl w entry bad
  have hentry : entry = none := h
  rw [hentry]
  rfl

theorem execSpliceWord_badForm (h : entryOf s idx (SFields.mk hd hc hb ha idx).word = some e) (hf : e.toNat % 4 ≠ 2) :
    exec (.spliceWord idx ha hb hc hd) s =
      .next ((s.modMe fun sl => sl.showSplice (SFields.mk hd hc hb ha idx).word e).raiseAs s.cur 0x02 (idx.setWidth 64)
        false true) := by
  show execSpliceWord idx ha hb hc hd s = _
  unfold execSpliceWord
  extract_lets sl w entry bad
  have hentry : entry = some e := h
  rw [hentry]
  exact if_pos hf

theorem execSpliceWord_badHoles (h : entryOf s idx (SFields.mk hd hc hb ha idx).word = some e) (hf : e.toNat % 4 = 2)
    (hx : expandSplice e ha hb hc hd = none) : exec (.spliceWord idx ha hb hc hd) s =
      .next ((s.modMe fun sl => sl.showSplice (SFields.mk hd hc hb ha idx).word e).raiseAs s.cur 0x01 s.me.pc
        true true) := by
  show execSpliceWord idx ha hb hc hd s = _
  unfold execSpliceWord
  extract_lets sl w entry bad
  have hentry : entry = some e := h
  have hform : ¬ slice e 0 2 ≠ 2 := not_not.2 hf
  rw [hentry]
  dsimp only
  rw [if_neg hform, hx]

/-- A splice word that expands does what the expanded instruction does, in the state that shows its words (R272). -/
theorem execSpliceWord_expands {w0 w1 w2 : W32} {i : Instr}
    (h : entryOf s idx (SFields.mk hd hc hb ha idx).word = some e) (hf : e.toNat % 4 = 2)
    (hx : expandSplice e ha hb hc hd = some [w0, w1, w2]) (hi : decodeExt w0 w1 w2 none = .ok i) :
    exec (.spliceWord idx ha hb hc hd) s =
      exec i (s.useCopy.modMe fun sl => { sl with words := [w0, w1, w2], ilen := 4, spl := true }) := by
  have hdec : decodeExt ([w0, w1, w2].getD 0 0) ([w0, w1, w2].getD 1 0) ([w0, w1, w2].getD 2 0) none = .ok i := hi
  rw [← execExtended_eq_exec (enc_of_decodeExt hi)]
  show execSpliceWord idx ha hb hc hd s = _
  unfold execSpliceWord
  extract_lets sl w entry bad
  have hentry : entry = some e := h
  have hform : ¬ slice e 0 2 ≠ 2 := not_not.2 hf
  rw [hentry]
  dsimp only
  rw [if_neg hform, hx]
  dsimp only
  rw [hdec]

end SpliceWord

/-- Settles O39: SPLLOAD and SPLGET by what follows the examination of their sources, a splice word by its entry, the entry's
form, its holes and what they expand to. -/
theorem splices : Obligations.Splices := by
  unfold Obligations.Splices
  intro s
  refine ⟨fun hp a hh ha => ⟨fun h0 => ?_, fun u bs t ht h0 hr => ?_⟩, fun hp d a i e ha hd hd1 hi he => ?_,
    fun idx ha hb hc hd w hw => ?_, execIllegalWord_faulted⟩
  · refine ⟨_, Slot.newTable_redecoded s.me s.ctr .., ?_⟩
    rw [← State.modMe_newTable]
    exact execSplload_ok hp hh ha (if_pos h0)
  · subst ht
    refine ⟨_, Slot.newTable_redecoded u.me u.ctr .., ?_⟩
    rw [← State.modMe_newTable]
    exact execSplload_ok hp hh ha ((if_neg h0).trans (by rw [State.g, hr, Res.bind_ok]))
  · subst hi
    exact execSplget_ok hp ha hd hd1 he
  · subst hw
    refine ⟨fun e w0 w1 w2 i he hf hx hi => execSpliceWord_expands he hf hx hi, fun hh => ⟨fun he => ?_, fun e he hf => ?_,
      fun e he hf hx => ?_⟩⟩
    · exact raises_spliced hh _ _ _ _ _ (execSpliceWord_noEntry he)
    · exact raises_spliced hh _ _ _ _ _ (execSpliceWord_badForm he hf)
    · exact raises_spliced hh _ _ _ _ _ (execSpliceWord_badHoles he hf hx)

end Sys2Proof.Machine
end

section
/-! SUPPORT. Reductions: the levels of the tree are the nodes of R80, and VRED leaves the last of them (R128). -/

namespace Sys2Proof.Machine

open Sys2Proof.Claims

/-! ## The tree of a reduction (R80) -/

/-- The LFSR after c draws of an operation that began with l (R66). -/
def drawn (env : FpEnv) (l : W32) (c : Nat) : W32 := if env.mode = .rsr then lfsrSteps c l else l

theorem drawn_succ (env : FpEnv) (l : W32) (c : Nat) :
    (if env.mode = .rsr then lfsrStep (drawn env l c) else drawn env l c) = drawn env l (c + 1) := by
  unfold drawn
  split
  · exact (lfsrSteps_succ c l).symm
  · rfl

/-- One level over an even number of values, the first of them node 2a of the level below, after c draws. -/
theorem redLevel_range (env : FpEnv) (op : FpEnv → Nat → Nat → FpRes) (l : W32) (x : Nat → Nat) (c : Nat) : ∀ m a : Nat,
    ∃ fl, redLevel env op ((List.range' (2 * a) (2 * m)).map x) (drawn env l (c + a)) =
      ((List.range' a m).map fun i =>
        (op { env with draw := (drawn env l (c + i + 1)).toNat } (x (2 * i)) (x (2 * i + 1))).bits, drawn env l (c + a + m), fl)
  | 0, a => ⟨_, rfl⟩
  | m + 1, a => by
    obtain ⟨fl, ih⟩ := redLevel_range env op l x c m (a + 1)
    rw [Nat.mul_succ, List.range'_succ, List.range'_succ, List.range'_succ]
    simp only [List.map_cons]
    unfold redLevel
    simp only [drawn_succ]
    rw [show 2 * a + 1 + 1 = 2 * (a + 1) by ring, show c + a + 1 = c + (a + 1) by ring, ih,
      show c + (a + 1) + m = c + a + (m + 1) by ring]
    exact ⟨_, rfl⟩

theorem redTree_succ (env : FpEnv) (op : FpEnv → Nat → Nat → FpRes) (n : Nat) {xs ys : List Nat} {l l' : W32} {fl : FpFlags}
    (hx : xs.length ≠ 1) (h : redLevel env op xs l = (ys, l', fl)) : ∃ fl', redTree env op (n + 1) xs l =
      ((redTree env op n ys l').1, (redTree env op n ys l').2.1, fl') := by
  rw [redTree.eq_def]
  dsimp only
  split
  · exact absurd rfl hx
  · rw [h]
    exact ⟨_, rfl⟩

/-- From level k on, whose 2^j nodes are there, the tree answers its root and has drawn once for each node. -/
theorem redTree_nodes (env : FpEnv) (op : FpEnv → Nat → Nat → FpRes) (l : W32) (x : Nat → Nat) : ∀ j k n : Nat, j ≤ n →
    ∃ fl, redTree env op n ((List.range (2 ^ j)).map (redNode env op l (2 ^ (k + j)) x k)) (drawn env l (2 ^ (k + j) - 2 ^ j)) =
      (redNode env op l (2 ^ (k + j)) x (k + j) 0, drawn env l (2 ^ (k + j) - 1), fl)
  | 0, k, 0, _ => ⟨_, rfl⟩
  | 0, k, n + 1, _ => ⟨_, rfl⟩
  | j + 1, k, 0, h => absurd h (Nat.not_succ_le_zero j)
  | j + 1, k, n + 1, h => by
    have hle : 2 ^ (j + 1) ≤ 2 ^ (k + (j + 1)) := Nat.pow_le_pow_right (by norm_num) (Nat.le_add_left ..)
    have hdiv : 2 ^ (k + (j + 1)) / 2 ^ k = 2 ^ (j + 1) := by
      rw [pow_add, Nat.mul_div_cancel_left _ (by positivity)]
    have hpow : 2 ^ (j + 1) = 2 * 2 ^ j := by ring
    obtain ⟨fl, hl⟩ := redLevel_range env op l (redNode env op l (2 ^ (k + (j + 1))) x k) (2 ^ (k + (j + 1)) - 2 ^ (j + 1)) (2 ^ j) 0
    obtain ⟨fl', ht⟩ := redTree_nodes env op l x j (k + 1) n (Nat.le_of_succ_le_succ h)
    rw [Nat.mul_zero, ← hpow, ← List.range_eq_range', ← List.range_eq_range'] at hl
    obtain ⟨fl'', hs⟩ := redTree_succ env op n (by simp) hl
    have hnode : (fun i => (op { env with draw := (drawn env l (2 ^ (k + (j + 1)) - 2 ^ (j + 1) + i + 1)).toNat }
        (redNode env op l (2 ^ (k + (j + 1))) x k (2 * i)) (redNode env op l (2 ^ (k + (j + 1))) x k (2 * i + 1))).bits) =
        redNode env op l (2 ^ (k + (j + 1))) x (k + 1) := by
      funext i
      rw [redNode, hdiv, drawn, apply_ite BitVec.toNat]
    have hdraws : 2 ^ (k + (j + 1)) - 2 ^ (j + 1) + 0 + 2 ^ j = 2 ^ (k + (j + 1)) - 2 ^ j := by omega
    rw [show k + 1 + j = k + (j + 1) by ring] at ht
    refine ⟨fl'', ?_⟩
    rw [hnode, hdraws, ht] at hs
    exact hs

/-- The tree over 2^k lanes is its root, with a draw for each of its 2^k - 1 nodes. -/
theorem redTree_root (env : FpEnv) (op : FpEnv → Nat → Nat → FpRes) (l : W32) (x : Nat → Nat) {k n : Nat} (h : k ≤ n) :
    ∃ fl, redTree env op n ((List.range (2 ^ k)).map x) l =
      (redNode env op l (2 ^ k) x k 0, drawn env l (2 ^ k - 1), fl) := by
  have ht := redTree_nodes env op l x k 0 n h
  rw [Nat.zero_add, Nat.sub_self] at ht
  have hl : drawn env l 0 = l := ite_self l
  rwa [hl] at ht

/-- Folding with a function that raises no flag raises none. -/
theorem redLevel_flags {env : FpEnv} {op : FpEnv → Nat → Nat → FpRes} (h : ∀ e x y, (op e x y).flags = {}) :
    ∀ (xs : List Nat) (l : W32), (redLevel env op xs l).2.2 = {}
  | [], _ => rfl
  | [_], _ => rfl
  | x :: y :: rest, l => by
    unfold redLevel
    simp only [h, redLevel_flags h rest]
    rfl

theorem redTree_flags {env : FpEnv} {op : FpEnv → Nat → Nat → FpRes} (h : ∀ e x y, (op e x y).flags = {}) :
    ∀ (n : Nat) (xs : List Nat) (l : W32), (redTree env op n xs l).2.2 = {}
  | 0, _, _ => rfl
  | n + 1, xs, l => by
    unfold redTree
    split
    · rfl
    · simp only [redLevel_flags h, redTree_flags h n]
      rfl

/-- On a set of values that the function keeps, the tree is that of any function that agrees with it there. -/
theorem redNode_congr {P : Nat → Prop} {env : FpEnv} {op op' : FpEnv → Nat → Nat → FpRes} {l : W32} {n : Nat} {x : Nat → Nat}
    (hx : ∀ i, P (x i)) (h : ∀ e a b, P a → P b → op e a b = op' e a b ∧ P (op' e a b).bits) :
    ∀ k i, redNode env op l n x k i = redNode env op' l n x k i ∧ P (redNode env op' l n x k i)
  | 0, i => ⟨rfl, hx i⟩
  | k + 1, i => by
    obtain ⟨ha, hPa⟩ := redNode_congr (env := env) (l := l) (n := n) hx h k (2 * i)
    obtain ⟨hb, hPb⟩ := redNode_congr (env := env) (l := l) (n := n) hx h k (2 * i + 1)
    unfold redNode
    rw [ha, hb, (h _ _ _ hPa hPb).1]
    exact ⟨rfl, (h _ _ _ hPa hPb).2⟩

/-! ## The functions that VRED folds with (R128) -/

/-- A reduction's function is `op` on values among which the lanes and the identity are, and which it keeps. -/
def FoldsWith (f : Nat) (op : FpEnv → Nat → Nat → FpRes) (ty : Ty) : Prop :=
  ∃ P : Nat → Prop, (∀ x, x < 2 ^ ty.width → P x) ∧ P (redIdentity f ty) ∧
    ∀ env x y, P x → P y → arith2 f ty env x y = op env x y ∧ P (op env x y).bits

theorem foldsWith_of_eq {f : Nat} {op : FpEnv → Nat → Nat → FpRes} {ty : Ty} (h : ∀ env x y, arith2 f ty env x y = op env x y) :
    FoldsWith f op ty :=
  ⟨fun _ => True, fun _ _ => trivial, trivial, fun env x y _ _ => ⟨h env x y, trivial⟩⟩

theorem foldsWith_of_lt {f : Nat} {op : FpEnv → Nat → Nat → FpRes} {ty : Ty} (hi : redIdentity f ty < 2 ^ ty.width)
    (h : ∀ env x y, x < 2 ^ ty.width → y < 2 ^ ty.width → arith2 f ty env x y = op env x y ∧ (op env x y).bits < 2 ^ ty.width) :
    FoldsWith f op ty :=
  ⟨fun x => x < 2 ^ ty.width, fun _ hx => hx, hi, h⟩

theorem ofInt_add_asInt (w x y : Nat) : ofInt w (asInt w x + asInt w y) = (BitVec.ofNat w x + BitVec.ofNat w y).toNat := by
  rw [ofInt, asInt, asInt, BitVec.ofInt_add, BitVec.ofInt_toInt, BitVec.ofInt_toInt]

theorem ofInt_asInt {w x : Nat} (h : x < 2 ^ w) : ofInt w (asInt w x) = x := by
  rw [ofInt, asInt, BitVec.ofInt_toInt, BitVec.toNat_ofNat, Nat.mod_eq_of_lt h]

theorem foldsWith_add (ty : Ty) : FoldsWith 0 (v2Table[0].2.2 ty) ty := by
  refine foldsWith_of_eq fun env x y => ?_
  show (if ty.isInt then intRes ty.width (asInt ty.width x + asInt ty.width y) else (fmtOf ty).add env x y) =
    if ty.isInt then exactly (BitVec.ofNat ty.width x + BitVec.ofNat ty.width y) else (fmtOf ty).add env x y
  rw [intRes, ofInt_add_asInt]
  rfl

theorem half_lt (ty : Ty) : 2 ^ (ty.width - 1) < 2 ^ ty.width :=
  Nat.pow_lt_pow_right (by norm_num) (by cases ty <;> decide)

theorem foldsWith_min (ty : Ty) : FoldsWith 4 (v2Table[4].2.2 ty) ty := by
  cases hi : ty.isInt with
  | false =>
    refine foldsWith_of_eq fun env x y => ?_
    simp only [arith2, v2Table, hi, List.getElem_cons_succ, List.getElem_cons_zero, Bool.false_eq_true, if_false]
  | true =>
    refine foldsWith_of_lt ?_ fun env x y hx hy => ?_
    · simp only [redIdentity, hi, if_true]
      exact (Nat.sub_le ..).trans_lt (half_lt ty)
    · simp only [arith2, v2Table, hi, List.getElem_cons_succ, List.getElem_cons_zero, if_true, intRes, ← asInt.eq_def]
      rw [min_def]
      split
      · exact ⟨by rw [ofInt_asInt hx], hx⟩
      · exact ⟨by rw [ofInt_asInt hy], hy⟩

theorem foldsWith_max (ty : Ty) : FoldsWith 5 (v2Table[5].2.2 ty) ty := by
  cases hi : ty.isInt with
  | false =>
    refine foldsWith_of_eq fun env x y => ?_
    simp only [arith2, v2Table, hi, List.getElem_cons_succ, List.getElem_cons_zero, Bool.false_eq_true, if_false]
  | true =>
    refine foldsWith_of_lt ?_ fun env x y hx hy => ?_
    · simp only [redIdentity, hi, if_true]
      exact half_lt ty
    · simp only [arith2, v2Table, hi, List.getElem_cons_succ, List.getElem_cons_zero, if_true, intRes, ← asInt.eq_def]
      rw [max_comm, max_def]
      split
      · exact ⟨by rw [ofInt_asInt hx], hx⟩
      · exact ⟨by rw [ofInt_asInt hy], hy⟩

/-- A bitwise function of lanes that fit is that function of the numbers. -/
theorem foldsWith_and (ty : Ty) : FoldsWith 20 (v2Table[9].2.2 ty) ty := by
  refine foldsWith_of_lt (Nat.sub_lt (by positivity) one_pos) fun env x y hx hy => ?_
  have hb : x &&& y = (BitVec.ofNat ty.width x &&& BitVec.ofNat ty.width y).toNat := by
    rw [BitVec.toNat_and, BitVec.toNat_ofNat, BitVec.toNat_ofNat, Nat.mod_eq_of_lt hx, Nat.mod_eq_of_lt hy]
  exact ⟨congrArg (FpRes.mk · {}) hb, BitVec.isLt _⟩

theorem foldsWith_or (ty : Ty) : FoldsWith 21 (v2Table[10].2.2 ty) ty := by
  refine foldsWith_of_lt (by positivity) fun env x y hx hy => ?_
  have hb : x ||| y = (BitVec.ofNat ty.width x ||| BitVec.ofNat ty.width y).toNat := by
    rw [BitVec.toNat_or, BitVec.toNat_ofNat, BitVec.toNat_ofNat, Nat.mod_eq_of_lt hx, Nat.mod_eq_of_lt hy]
  exact ⟨congrArg (FpRes.mk · {}) hb, BitVec.isLt _⟩

/-- The rows of the table of two-source functions have different forms. -/
theorem v2Table_row_unique {f g : (V2 → Instr) × Option (VReg → VReg → VReg → Ty → Instr) × (Ty → FpEnv → Nat → Nat → FpRes)}
    (hf : f ∈ v2Table) (hg : g ∈ v2Table) (h : ∀ o, f.1 o = g.1 o) : f = g := by
  have hn : (v2Table.map fun r => r.1 default).Nodup := by simp [v2Table]
  exact List.inj_on_of_nodup_map hn hf hg (h default)

/-- Of an integer type the functions that VRED folds with raise no flag. -/
theorem arith2_flags {n : Nat} (hn : n ∈ [0, 4, 5, 20, 21]) {ty : Ty} (h : ty.isInt = true) (env : FpEnv) (x y : Nat) :
    (arith2 n ty env x y).flags = {} := by
  simp only [List.mem_cons, List.not_mem_nil, or_false] at hn
  obtain rfl | rfl | rfl | rfl | rfl := hn
  · rw [arith2, if_pos h]; rfl
  · rw [arith2, if_pos h]; rfl
  · rw [arith2, if_pos h]; rfl
  · rfl
  · rfl

/-- What the model folds with, for each row of the table of reductions: its own function, with the row's identity. -/
theorem redTable_spec : ∀ e ∈ redTable, ∃ n ∈ [0, 4, 5, 20, 21], (∀ o s, exec (e.1 o) s = vred n o s) ∧ e.2.2 = redIdentity n ∧
    ∀ f ∈ v2Table, (∀ o, f.1 o = e.2.1 o) → ∀ ty, FoldsWith n (f.2.2 ty) ty := by
  have row (i : Nat) (hi : i < v2Table.length) {n : Nat} (hw : ∀ ty, FoldsWith n (v2Table[i].2.2 ty) ty) :
      ∀ f ∈ v2Table, (∀ o, f.1 o = v2Table[i].1 o) → ∀ ty, FoldsWith n (f.2.2 ty) ty := by
    intro f hf h
    rwa [v2Table_row_unique hf (List.getElem_mem hi) h]
  unfold redTable
  simp only [List.forall_mem_cons]
  exact ⟨⟨0, by decide, fun _ _ => rfl, rfl, row 0 (by decide) foldsWith_add⟩,
    ⟨5, by decide, fun _ _ => rfl, rfl, row 5 (by decide) foldsWith_max⟩,
    ⟨4, by decide, fun _ _ => rfl, rfl, row 4 (by decide) foldsWith_min⟩,
    ⟨20, by decide, fun _ _ => rfl, rfl, row 9 (by decide) foldsWith_and⟩,
    ⟨21, by decide, fun _ _ => rfl, rfl, row 10 (by decide) foldsWith_or⟩, List.forall_mem_nil _⟩

/-! ## VRED (R80, R128) -/

theorem bit_setFlag_same (p : BitVec 32) (r : VReg) (b : Bool) :
    bit (if b then p ||| (1#32 <<< r.toNat) else p &&& ~~~(1#32 <<< r.toNat)) r.toNat = b := by
  have hr : r.toNat < 32 := r.isLt
  cases b <;> simp [bit, hr]

/-- A v register just written reads back, with its flag (R24). -/
@[simp] theorem State.vreg_putV_same (s : State) (d : VReg) (x : VWord) (p : Bool) : (s.putV d x p).vreg d = x := by
  unfold State.vreg State.putV
  simp only [State.me_modMe]
  exact Vector.getElem_set_self _

@[simp] theorem State.vpois_putV_same (s : State) (d : VReg) (x : VWord) (p : Bool) : (s.putV d x p).vpois d = p := by
  unfold State.vpois State.putV
  rw [State.me_modMe]
  exact bit_setFlag_same ..

/-- The end of an instruction leaves the registers as its meaning has them. -/
@[simp] theorem ended_vreg (p : Pipe) (s : State) (r : VReg) : (ended p s).vreg r = s.vreg r := by
  unfold State.vreg ended
  simp only [State.me_retireTo, State.me_countIssue]

@[simp] theorem ended_vpois (p : Pipe) (s : State) (r : VReg) : (ended p s).vpois r = s.vpois r := by
  unfold State.vpois ended
  rw [State.me_retireTo, State.me_countIssue]

@[simp] theorem ended_fpctl (p : Pipe) (s : State) : (ended p s).me.fpctl = s.me.fpctl := by
  rw [ended, State.me_retireTo, State.me_countIssue]

@[simp] theorem ended_lfsr (p : Pipe) (s : State) : (ended p s).me.lfsr = s.me.lfsr := by
  rw [ended, State.me_retireTo, State.me_countIssue]

/-- The lanes of a reduction: the active ones, and the identity in the others (R128). -/
def redLanes (n : Nat) (o : V1) (s : State) (i : Nat) : Nat :=
  if On s o.m i then lane o.ty.width (s.vreg o.a) i else redIdentity n o.ty

/-- The result of a reduction, the LFSR after it, and its flags. -/
def redResult (n : Nat) (o : V1) (s : State) : Nat × W32 × FpFlags :=
  redTree (s.fpEnv o.rm) (arith2 n o.ty) 8 ((List.range (2048 / o.ty.width)).map (redLanes n o s)) s.me.lfsr

/-- What VRED leaves before it ends. -/
def redState (n : Nat) (o : V1) (s : State) : State :=
  ((s.countLanes o.m (2048 / o.ty.width)).putV o.d (BitVec.ofNat 2048 (redResult n o s).1) (s.vpois o.a)).putFp
    (redResult n o s).2.1 (redResult n o s).2.2

theorem vred_ends (n : Nat) (o : V1) {s : State} (hp : Solo s) : vred n o s = .next (ended .v (redState n o s)) := by
  have hlanes : (fun i => if s.laneOn o.m i then lane o.ty.width (s.vreg o.a) i else redIdentity n o.ty) = redLanes n o s := rfl
  refine issue_ok ?_
  rw [State.preIssue_single hp]
  simp only [hlanes]
  rfl

theorem redState_kept (n : Nat) (o : V1) (s : State) : KeptBy s (redState n o s) { vs := [o.d], fp := true } :=
  (((KeptBy.refl s _).countMe _ _).putV _ _ (List.mem_singleton_self o.d)).putFp _ _ rfl

theorem redState_local (n : Nat) (o : V1) (s : State) : Local s (redState n o s) := by
  unfold redState State.putFp State.setFlags State.putV State.countLanes
  exact ((((Local.refl s).countMe ..).modMe _).modMe _).modMe _

theorem redState_vreg (n : Nat) (o : V1) (s : State) : (redState n o s).vreg o.d = BitVec.ofNat 2048 (redResult n o s).1 := by
  rw [← State.vreg_putV_same (s.countLanes o.m (2048 / o.ty.width)) o.d (BitVec.ofNat 2048 (redResult n o s).1) (s.vpois o.a)]
  unfold redState State.putFp State.setFlags State.vreg
  simp only [State.me_modMe]

theorem redState_vpois (n : Nat) (o : V1) (s : State) : (redState n o s).vpois o.d = s.vpois o.a := by
  rw [← State.vpois_putV_same (s.countLanes o.m (2048 / o.ty.width)) o.d (BitVec.ofNat 2048 (redResult n o s).1) (s.vpois o.a)]
  unfold redState State.putFp State.setFlags State.vpois
  simp only [State.me_modMe]

theorem redState_fpctl (n : Nat) (o : V1) (s : State) :
    (redState n o s).me.fpctl = s.me.fpctl ||| (redResult n o s).2.2.bits := by
  simp only [redState, State.putFp, State.setFlags, State.putV, State.countLanes, State.me_modMe, State.me_countMe]

theorem redState_lfsr (n : Nat) (o : V1) (s : State) : (redState n o s).me.lfsr = (redResult n o s).2.1 := by
  simp only [redState, State.putFp, State.setFlags, State.me_modMe]

theorem redState_nextPc (n : Nat) (o : V1) (s : State) : (redState n o s).nextPc = s.nextPc := by
  simp only [redState, State.putFp, State.setFlags, State.putV, State.countLanes, State.nextPc, State.me_modMe, State.me_countMe]

/-- A v register holds a power of 2 of lanes, at most 2^8 (R116). -/
theorem lanes_pow (ty : Ty) : ∃ k < 9, 2 ^ k = 2048 / ty.width := by
  cases ty <;> decide

/-- The result is the root of the tree of any function that the reduction folds with; each of its nodes draws once. -/
theorem redResult_root {n k : Nat} {op : FpEnv → Nat → Nat → FpRes} {o : V1} (hf : FoldsWith n op o.ty)
    (hk : 2 ^ k = 2048 / o.ty.width) (s : State) :
    (redResult n o s).1 = redNode (s.fpEnv o.rm) op s.me.lfsr (2048 / o.ty.width) (redLanes n o s) k 0 ∧
    (redResult n o s).2.1 = drawn (s.fpEnv o.rm) s.me.lfsr (2048 / o.ty.width - 1) := by
  obtain ⟨P, hlt, hid, hop⟩ := hf
  obtain ⟨j, hj, hpow⟩ := lanes_pow o.ty
  obtain rfl : k = j := Nat.pow_right_injective (le_refl 2) (hk.trans hpow.symm)
  have hlanes (i : Nat) : P (redLanes n o s i) := by
    unfold redLanes
    split
    · exact hlt _ (Nat.mod_lt _ (by positivity))
    · exact hid
  obtain ⟨fl, ht⟩ := redTree_root (s.fpEnv o.rm) (arith2 n o.ty) s.me.lfsr (redLanes n o s) (Nat.le_of_lt_succ hj)
  rw [hk] at ht
  rw [redResult, ht, (redNode_congr hlanes hop k 0).1]
  exact ⟨rfl, rfl⟩

/-- Settles O22: a reduction leaves the root of the tree of its function, whose nodes have drawn in their order. -/
theorem vectorReductions : Obligations.VectorReductions := by
  unfold Obligations.VectorReductions
  intro s hp e he f hf hform o
  obtain ⟨n, hn, hexec, hid, hfolds⟩ := redTable_spec e he
  have hw : FoldsWith n (f.2.2 o.ty) o.ty := hfolds f hf hform o.ty
  refine ⟨_, (hexec o s).trans (vred_ends n o hp), (ended_pc ..).trans (redState_nextPc ..), (redState_kept ..).ended _,
    ((redState_local ..).countIssue _).retireTo _, fun k hk => ?_, ?_, ⟨(redResult n o s).2.2, ?_, fun hi => ?_⟩, ?_⟩
  · rw [ended_vreg, redState_vreg, (redResult_root hw hk s).1, hid]
    rfl
  · rw [ended_vpois, redState_vpois]
  · rw [ended_fpctl, redState_fpctl]
  · exact redTree_flags (arith2_flags hn hi) ..
  · obtain ⟨k, -, hk⟩ := lanes_pow o.ty
    rw [ended_lfsr, redState_lfsr, (redResult_root hw hk s).2]
    rfl

end Sys2Proof.Machine
end

section
/-! SUPPORT. Accesses in pieces: what their lookups and translations leave, the bytes they read, and the bytes they write
(R104, R105, R132, R133, R204, R320 to R322). -/

namespace Sys2Proof.Machine

open Sys2Proof.Claims

/-! ## Translations change memory, TLBs, caches, counters and the agenda alone (R320 to R322) -/

/-- At most page tables, the TLBs, caches and counters have changed, and the agenda. -/
def WalksOnly (s t : State) : Prop :=
  ∃ m b c d r a, t = { s with mem := m, tlb := b, cores := c, dies := d, retain := r, agenda := a }

namespace WalksOnly

variable {s t u : State}

theorem refl (s : State) : WalksOnly s s := ⟨_, _, _, _, _, _, rfl⟩

theorem trans (h : WalksOnly s t) (h' : WalksOnly t u) : WalksOnly s u := by
  obtain ⟨_, _, _, _, _, _, rfl⟩ := h
  obtain ⟨m, b, c, d, r, a, rfl⟩ := h'
  exact ⟨m, b, c, d, r, a, rfl⟩

theorem of_caches (h : CachesOnly s t) : WalksOnly s t := by
  obtain ⟨_, _, _, rfl⟩ := h
  exact ⟨_, _, _, _, _, _, rfl⟩

theorem sameSlots (h : WalksOnly s t) : SameSlots s t := by
  obtain ⟨_, _, _, _, _, _, rfl⟩ := h
  exact ⟨rfl, rfl⟩

theorem replay (h : WalksOnly s t) : t.replay = s.replay := by obtain ⟨_, _, _, _, _, _, rfl⟩ := h; rfl

theorem foldl {α : Type} {f : State → α → State} (hf : ∀ x a, WalksOnly x (f x a)) (l : List α) (s : State) :
    WalksOnly s (l.foldl f s) := by
  induction l generalizing s with
  | nil => exact refl s
  | cons a l ih => exact (hf s a).trans (ih _)

theorem tlbGive (s : State) (who : Option Nat) (e : TlbEntry) : WalksOnly s (s.tlbGive who e) := by
  cases who with
  | none => exact refl s
  | some ta => exact ⟨_, _, _, _, _, _, rfl⟩

/-- A die's look in its TLB, and its walk. -/
theorem dieLoad (s : State) (c : Ctx) (die : Nat) (who : Option Nat) (va : Nat) : WalksOnly s (s.dieLoad c die who va).1 := by
  unfold State.dieLoad
  split
  · exact tlbGive ..
  · extract_lets s₁ s₂
    have h₂ : WalksOnly s s₂ := by
      have h₁ : WalksOnly s s₁ := ⟨_, _, _, _, _, _, rfl⟩
      cases who with
      | none => exact h₁
      | some ta => exact h₁.trans (of_caches ((CachesOnly.refl _).count ..))
    rcases s₂.walk c va with ⟨r, seen⟩
    dsimp only
    have h₃ := h₂.trans (foldl (fun (x : State) pa => of_caches ((CachesOnly.refl x).lookHome who (pa / 128) .normal true)) seen s₂)
    cases r with
    | leaf p pa size =>
      have h₄ (x : State) (e : TlbEntry) : WalksOnly x ((x.orPte pa 0x40).tlbPut e) := ⟨_, _, _, _, _, _, rfl⟩
      exact (h₃.trans (h₄ _ _)).trans (tlbGive ..)
    | bad => exact h₃
    | pois pa => exact h₃.trans ⟨_, _, _, _, _, _, rfl⟩

theorem tlbLoadOn (s : State) (c : Ctx) (die : Nat) (who : Option Nat) (va : Nat) : WalksOnly s (s.tlbLoadOn c die who va).1 := by
  unfold State.tlbLoadOn
  cases who with
  | none => exact dieLoad ..
  | some ta =>
    dsimp only
    split
    · exact refl s
    · have h (x : State) (b : List TlbEntry) : WalksOnly x ({ x with tlb := b }.count ta 20 1) :=
        trans ⟨_, _, _, _, _, _, rfl⟩ (of_caches ((CachesOnly.refl _).count ..))
      exact (h ..).trans (dieLoad ..)

theorem look (s : State) (c : Ctx) (who : Option Nat) (va : Word) (k : Acc3) : WalksOnly s (s.look c who va k).1 := by
  have h := tlbLoadOn s c (dieOf who) who va.toNat
  unfold State.look State.lookOn
  split
  · next x he => rw [he] at h; exact h
  · next x e he => rw [he] at h; exact h

theorem markDirtyOn (s : State) (c : Ctx) (unit : Nat) (va : Word) : WalksOnly s (s.markDirtyOn c unit va) := by
  unfold State.markDirtyOn
  split
  · split
    · exact ⟨_, _, _, _, _, _, rfl⟩
    · exact refl s
  · exact refl s

theorem markAll (s : State) (c : Ctx) (ps : List (Word × Nat)) : WalksOnly s (s.markAll c ps) := by
  refine foldl (fun x p => ?_) ps s
  split
  · exact refl x
  · exact markDirtyOn ..

theorem lookAll (c : Ctx) (k : Acc3) (w : Bool) : ∀ (ps : List (Word × Nat)) (s : State), WalksOnly s (s.lookAll c k w ps).1
  | [], s => refl s
  | (va, n) :: rest, s => by
    unfold State.lookAll
    split
    · have h := lookAll c k w rest s
      split <;> next he => rw [he] at h; exact h
    · have h := look s c (some s.cur) va k
      split
      · next he => rw [he] at h; exact h
      · next x p he =>
        rw [he] at h
        have h' := lookAll c k w rest x
        split <;> next he => rw [he] at h'; exact h.trans h'

theorem placeAll (s : State) (c : Ctx) (k : Acc3) (w : Bool) (ps : List (Word × Nat)) : WalksOnly s (s.placeAll c k w ps).1 := by
  have h := lookAll c k w ps s
  unfold State.placeAll
  split
  · next x l he =>
    rw [he] at h
    dsimp only
    split
    · exact h.trans (markAll ..)
    · exact h
  · next x a he => rw [he] at h; exact h

end WalksOnly

/-- Every piece that is found has its place. -/
theorem State.length_lookAll (c : Ctx) (k : Acc3) (w : Bool) : ∀ (ps : List (Word × Nat)) {s u : State} {l : List (Place × Bool)},
    s.lookAll c k w ps = (u, .ok l) → l.length = ps.length
  | [], _, _, _, h => by cases h; rfl
  | (va, n) :: rest, s, u, l, h => by
    unfold State.lookAll at h
    split at h
    · split at h
      · next he => cases h; rw [List.length_cons, length_lookAll c k w rest he]; rfl
      · cases h
    · split at h
      · cases h
      · split at h
        · next he => cases h; rw [List.length_cons, length_lookAll c k w rest he]; rfl
        · cases h

theorem State.length_placeAll {s u : State} {c : Ctx} {k : Acc3} {w : Bool} {ps : List (Word × Nat)} {l : List (Place × Bool)}
    (h : s.placeAll c k w ps = (u, .ok l)) : l.length = ps.length := by
  unfold State.placeAll at h
  split at h
  · next he =>
    cases h
    exact State.length_lookAll c k w ps he
  · cases h

/-! ## The checks of an access whose pieces are placed (R104, R132) -/

section
variable {s u : State} {ps : List (Word × Nat)} {k : Acc3} {keys : List Nat}

theorem WalksOnly.of_placedAll (h : PlacedAll s ps k u keys) : WalksOnly s u := by
  obtain ⟨-, l, hl, -⟩ := h
  have hw := WalksOnly.placeAll s s.myCtx k (k == .w) ps
  rwa [hl] at hw

theorem length_of_placedAll (h : PlacedAll s ps k u keys) : keys.length = ps.length := by
  obtain ⟨-, l, hl, -, rfl⟩ := h
  rw [List.length_map, State.length_placeAll hl]

theorem State.protAll_placedAll (h : PlacedAll s ps k u keys) : s.protAll ps (k == .w) = .ok s () := by
  have hn : (ps.find? fun p => (s.protect s.cur p.1 p.2 (k == .w)).isNone) = none := by
    rw [List.find?_eq_none]
    intro p hp
    rw [Option.isNone_iff_eq_none]
    exact (h.1 p hp).1
  unfold State.protAll
  rw [hn]

theorem State.anyHeld_placedAll (h : PlacedAll s ps k u keys) : s.anyHeld s.cur ps = false := by
  unfold State.anyHeld
  rw [List.any_eq_false]
  intro p hp
  rw [(h.1 p hp).2]
  decide

theorem alignAll_ok {l : List Word} {n : Nat} (h : ∀ a ∈ l, a.toNat % n = 0) (s : State) : alignAll l n s = .ok s () := by
  have hn : (l.find? fun a => decide (a.toNat % n ≠ 0)) = none := by
    rw [List.find?_eq_none]
    intro a ha
    simp [h a ha]
  unfold alignAll
  rw [hn]

end

/-! ## Reads (R104, R132) -/

/-- Bytes read do not change with caches and counters. -/
theorem CachesOnly.read {s t : State} (h : CachesOnly s t) (key n : Nat) :
    (t.bytes key n, t.pois key n) = (s.bytes key n, s.pois key n) := by
  obtain ⟨_, _, _, rfl⟩ := h
  rfl

theorem CachesOnly.lostAt {s t : State} (h : CachesOnly s t) (p : Place) : t.lostAt p = s.lostAt p := by
  obtain ⟨_, _, _, rfl⟩ := h
  rfl

/-- Pieces at no view and on no lost device give the bytes at their keys and their poison, whichever line holds them. -/
theorem State.readAll_placed {u : State} (h : Hint) : ∀ (l : List ((Place × Bool) × Nat)) (x : State) (seen : List (Nat × List Byte)),
    CachesOnly u x → (∀ p ∈ l, p.1.1.view = none ∧ u.lostAt p.1.1 = false) →
    ∃ y, CachesOnly u y ∧ x.readAll h l seen = (y, l.map fun p => (u.bytes p.1.1.key p.2, u.pois p.1.1.key p.2))
  | [], x, _, hx, _ => ⟨x, hx, rfl⟩
  | ((p, q), n) :: rest, x, seen, hx, hl => by
    obtain ⟨⟨hview, hlost⟩, hrest⟩ := List.forall_mem_cons.1 hl
    have ih (y : State) (seen : List (Nat × List Byte)) (hy : CachesOnly u y) := State.readAll_placed h rest y seen hy hrest
    have hx' : x.lostAt p = false := (hx.lostAt p).trans hlost
    dsimp only at hview
    unfold State.readAll
    cases q with
    | true =>
      obtain ⟨y, hy, he⟩ := ih _ seen (hx.countMe 13 1)
      exact ⟨y, hy, by simp only [if_true, he, hx.read, List.map_cons]⟩
    | false =>
      cases hd : p.dev with
      | false =>
        obtain ⟨y, hy, he⟩ := ih x seen hx
        exact ⟨y, hy, by simp only [hx', Bool.false_eq_true, if_false, he, hx.read, List.map_cons]⟩
      | true =>
        simp only [hx', hview, Bool.false_eq_true, if_false, if_true]
        cases seen.find? fun x => x.1 == p.pa / 128 with
        | some _ =>
          obtain ⟨y, hy, he⟩ := ih x seen hx
          exact ⟨y, hy, by simp only [he, hx.read, List.map_cons]⟩
        | none =>
          have hc := hx.lookup x.cur (p.pa / 128) h false
          obtain ⟨y, hy, he⟩ := ih _ ((p.pa / 128, (x.lookup x.cur (p.pa / 128) h false).2) :: seen) hc
          exact ⟨y, hy, by simp only [he, hc.read, List.map_cons]⟩

/-- A read whose pieces are aligned and placed (R102 to R104, R132). -/
theorem State.loadLanes_placedAll {s u : State} {ps : List (Word × Nat)} {keys : List Nat} {n : Nat} (h : Hint) (ha : NoAmo s)
    (hal : ∀ p ∈ ps, p.1.toNat % n = 0) (hp : PlacedAll s ps .r u keys) :
    ∃ x, CachesOnly u x ∧ s.loadLanes ps n h =
      .ok x ((keys.zip (ps.map Prod.snd)).map fun p => (u.bytes p.1 p.2, u.pois p.1 p.2)) := by
  have hprot := State.protAll_placedAll hp
  have hheld : (s.accessHeld || s.anyHeld s.cur ps) = false := by
    rw [State.anyHeld_placedAll hp, show s.accessHeld = false from ha]
    rfl
  obtain ⟨-, l, hplace, hl, rfl⟩ := hp
  rw [show (Acc3.r == Acc3.w) = false from rfl] at hprot hplace
  obtain ⟨y, hy, hread⟩ := State.readAll_placed h (l.zip (ps.map Prod.snd)) u [] (CachesOnly.refl u)
    fun p hm => hl p.1 (List.of_mem_zip hm).1
  refine ⟨_, hy.countMe 17 1, ?_⟩
  unfold State.loadLanes State.readLanes
  simp only [alignAll_ok (List.forall_mem_map.2 hal), Res.bind_ok, hprot, hheld, Bool.false_eq_true, if_false, hplace, hread]
  rw [List.zip_map_left, List.map_map]
  rfl

/-! ## Stores (R105, R133, R204) -/

theorem Memory.write_append (m : List Host.Cell) (k : Nat) (bs bs' : List Byte) :
    Memory.write m k (bs ++ bs') = Memory.write (Memory.write m k bs) (k + bs.length) bs' := by
  induction bs generalizing m k with
  | nil => rfl
  | cons b bs ih => rw [List.cons_append, Memory.write, ih, Memory.write, List.length_cons, Nat.add_assoc, Nat.add_comm 1]

/-- Memory after runs of bytes, each at its key, in order. -/
def Memory.writes (m : List Host.Cell) (ws : List (Nat × List Byte)) : List Host.Cell :=
  ws.foldl (fun m w => Memory.write m w.1 w.2) m

theorem Memory.writes_cons (m : List Host.Cell) (w : Nat × List Byte) (ws : List (Nat × List Byte)) :
    Memory.writes m (w :: ws) = Memory.writes (Memory.write m w.1 w.2) ws := rfl

/-- Pieces joined to runs write the same bytes in the same order (R204). -/
theorem Memory.writes_joinRuns : ∀ (ws : List (Nat × List Byte)) (m : List Host.Cell),
    Memory.writes m (joinRuns ws) = Memory.writes m ws
  | [], _ => rfl
  | (k, bs) :: rest, m => by
    have ih := Memory.writes_joinRuns rest (Memory.write m k bs)
    rw [Memory.writes_cons, ← ih, joinRuns]
    split
    · next k' bs' more hj =>
      rw [hj]
      split
      · next hk => rw [Memory.writes_cons, Memory.writes_cons, Memory.write_append, hk]
      · rfl
    · next hj => rw [hj]; rfl

/-- Outside a replay run nothing is captured (R360). -/
theorem State.capture_idle {s : State} (h : s.replay.busy = false) (rp : Bool) (key : Nat) : s.capture rp key = s := by
  unfold State.capture
  simp only [h, Bool.and_false, Bool.false_and, Bool.false_eq_true, if_false]

/-- The stores of a slot that is no lashed pair are in memory at once, outside a replay run. -/
theorem State.foldl_perform (ws : List (Nat × List Byte)) : ∀ {s : State}, Solo s → s.replay.busy = false →
    ∃ q, ws.foldl (fun (s : State) r => s.perform s.cur r.1 r.2) s = { s with mem := Memory.writes s.mem ws, poison := q } := by
  induction ws with
  | nil => exact fun _ _ => ⟨_, rfl⟩
  | cons w ws ih =>
    intro s hp hr
    have hw : s.perform s.cur w.1 w.2 = s.putBytes w.1 w.2 := by
      unfold State.perform
      simp only [show (s.slot s.cur).paired = false from hp, Bool.false_eq_true, if_false, State.capture_idle hr]
    obtain ⟨q, hq⟩ := ih (s := s.putBytes w.1 w.2) hp hr
    exact ⟨q, by rw [List.foldl_cons, hw, hq]; rfl⟩

theorem State.storeLooks_caches {u : State} (h : Hint) : ∀ (l : List ((Place × Bool) × List Byte)) (x : State) (seen : List Nat),
    CachesOnly u x → (∀ p ∈ l, u.lostAt p.1.1 = false) → CachesOnly u (x.storeLooks h l seen)
  | [], _, _, hx, _ => hx
  | ((p, q), bs) :: rest, x, seen, hx, hl => by
    obtain ⟨hlost, hrest⟩ := List.forall_mem_cons.1 hl
    have hx' : x.lostAt p = false := (hx.lostAt p).trans hlost
    unfold State.storeLooks
    split
    · exact storeLooks_caches h rest _ seen (hx.countMe 13 1) hrest
    · rw [hx', if_neg Bool.false_ne_true]
      split
      · exact storeLooks_caches h rest _ _ (hx.lookup ..) hrest
      · exact storeLooks_caches h rest _ _ hx hrest

/-- Runs of bytes have been written by the issuing slot, which awaits what persistent memory is to acknowledge (R209). -/
structure Wrote (u x : State) (ws : List (Nat × List Byte)) : Prop where
  mem : x.mem = Memory.writes u.mem ws
  cur : x.cur = u.cur
  me : ∃ n, x.me = { u.me with pm := n }
  others : ∀ ta, ta ≠ u.cur → x.slot ta = u.slot ta
  agenda : x.agenda = u.agenda

/-- The write of pieces on no lost device. -/
theorem State.writeAll_wrote {u : State} (h : Hint) {l : List ((Place × Bool) × List Byte)} (hp : Solo u)
    (hr : u.replay.busy = false) (hl : ∀ p ∈ l, u.lostAt p.1.1 = false) :
    Wrote u (u.writeAll h l) (l.map fun x => (x.1.1.key, x.2)) := by
  have hlive : (l.filter fun x => x.1.2 || !u.lostAt x.1.1) = l := by
    rw [List.filter_eq_self]
    intro p hm
    rw [hl p hm, Bool.not_false, Bool.or_true]
  have hc := State.storeLooks_caches h l u [] (CachesOnly.refl u) hl
  have hs := SameSlots.of_caches hc
  have hw : WalksOnly u (u.storeLooks h l []) := .of_caches hc
  obtain ⟨q, hq⟩ := State.foldl_perform (joinRuns (l.map fun x => (x.1.1.key, x.2))) (s := u.storeLooks h l [])
    (by unfold Solo; rw [hs.me]; exact hp) (by rw [hw.replay]; exact hr)
  have hx : Wrote u { u.storeLooks h l [] with
      mem := Memory.writes (u.storeLooks h l []).mem (joinRuns (l.map fun x => (x.1.1.key, x.2)))
      poison := q } (l.map fun x => (x.1.1.key, x.2)) :=
    { mem := by rw [← hc.mem]; exact Memory.writes_joinRuns ..
      cur := hs.cur
      me := ⟨u.me.pm, hs.me⟩
      others := fun ta _ => hs.slot ta
      agenda := hc.agenda }
  unfold State.writeAll
  simp only [hlive, hq]
  split
  · exact hx
  · obtain ⟨n, hme⟩ := hx.me
    exact
      { mem := hx.mem
        cur := hx.cur
        me := ⟨_, by rw [State.me_modMe, hme]⟩
        others := fun ta hta => (State.slot_modSlot_other _ _ (by rw [hx.cur]; exact hta)).trans (hx.others ta hta)
        agenda := hx.agenda }

/-- What a store in pieces leaves, begun in s and translated in u, before it ends. -/
structure StoredAll (s u x : State) (ws : List (Nat × List Byte)) : Prop where
  mem : x.mem = Memory.writes u.mem ws
  cur : x.cur = s.cur
  me : ∃ n, x.me = { s.me with pm := n, stq := s.me.stq + 1, seq := s.me.seq + 1 }
  others : ∀ ta, ta ≠ s.cur → x.slot ta = s.slot ta
  agenda : x.agenda = u.agenda ++ [.storeAck ⟨s.cur, s.me.uid⟩]

/-- A store that has been written counts in STQ, and its acknowledgement is on its way (R105). -/
def State.countStore (s : State) : State := s.modMe fun sl => { sl with stq := sl.stq + 1, seq := sl.seq + 1 }
def State.sendStoreAck (s : State) : State := s.countStore.post (.storeAck s.countStore.meT)

theorem StoredAll.of_wrote {s u v x : State} {ws : List (Nat × List Byte)} (hs : SameSlots s v) (hc : CachesOnly u v)
    (h : Wrote v x ws) : StoredAll s u x.sendStoreAck ws := by
  obtain ⟨n, hme⟩ := h.me
  rw [hs.me] at hme
  have hme' : x.countStore.me = { s.me with pm := n, stq := s.me.stq + 1, seq := s.me.seq + 1 } := by
    rw [State.countStore, State.me_modMe, hme]
  have hcur : x.cur = s.cur := h.cur.trans hs.cur
  have hmeT : x.countStore.meT = ⟨s.cur, s.me.uid⟩ := by
    rw [State.meT, hme', State.countStore, State.modMe_cur, hcur]
  have hslot (ta : Nat) (hta : ta ≠ s.cur) : x.countStore.slot ta = s.slot ta := by
    rw [State.countStore, State.modMe, State.slot_modSlot_other _ _ (hcur ▸ hta), h.others ta (hs.cur ▸ hta), hs.slot]
  exact
    { mem := by rw [← hc.mem]; exact h.mem
      cur := hcur
      me := ⟨n, hme'⟩
      others := hslot
      agenda := by rw [State.sendStoreAck, State.post_agenda, hmeT, State.countStore, State.modMe_agenda, h.agenda, hc.agenda] }

/-- A store whose pieces are aligned and placed (R105, R133). -/
theorem State.storeLanes_placedAll {s u : State} {ls : List (Word × List Byte)} {keys : List Nat} {n : Nat} (run : Bool) (h : Hint)
    (hp : Solo s) (ha : NoAmo s) (hr : s.replay.busy = false) (hal : ∀ l ∈ ls, l.1.toNat % n = 0)
    (hpl : PlacedAll s (ls.map fun l => (l.1, l.2.length)) .w u keys) :
    ∃ x, s.storeLanes ls n run h = .ok x () ∧ StoredAll s u x (keys.zip (ls.map Prod.snd)) := by
  have hprot := State.protAll_placedAll hpl
  have hheld := State.anyHeld_placedAll hpl
  have hw := WalksOnly.of_placedAll hpl
  obtain ⟨-, l, hplace, hl, rfl⟩ := hpl
  rw [show (Acc3.w == Acc3.w) = true from rfl] at hprot hplace
  have hc : CachesOnly u (u.countMe 18 1) := (CachesOnly.refl u).countMe 18 1
  have hv : WalksOnly s (u.countMe 18 1) := hw.trans (.of_caches hc)
  have hwr := State.writeAll_wrote h (l := l.zip (ls.map Prod.snd)) (u := u.countMe 18 1)
    (by unfold Solo; rw [hv.sameSlots.me]; exact hp) (by rw [hv.replay]; exact hr)
    fun p hm => (hc.lostAt _).trans (hl p.1 (List.of_mem_zip hm).1).2
  have hview : ((l.zip (ls.map fun l => (l.1, l.2.length))).find? fun x => x.1.1.view.isSome) = none := by
    rw [List.find?_eq_none]
    intro p hm
    rw [(hl p.1 (List.of_mem_zip hm).1).1]
    decide
  refine ⟨((u.countMe 18 1).writeAll h (l.zip (ls.map Prod.snd))).sendStoreAck, ?_, ?_⟩
  · have halign : alignAll ((ls.map fun l => (l.1, l.2.length)).map Prod.fst) n s = .ok s () :=
      alignAll_ok (by rw [List.map_map]; exact List.forall_mem_map.2 hal) s
    unfold State.storeLanes
    simp only [halign, Res.bind_ok, hprot, show s.accessHeld = false from ha, hheld, Bool.false_eq_true, if_false, hplace, hview]
    rfl
  · rw [List.zip_map_left]
    exact .of_wrote hv.sameSlots hc hwr

/-- The end of an instruction changes no register, nor STQ. -/
theorem ended_sameRegs {sl : Slot} {x : State} (h : SameRegs sl x.me) (p : Pipe) : SameRegs sl (ended p x).me := by
  rw [ended, State.me_retireTo, State.me_countIssue]
  exact h

theorem ended_stq (p : Pipe) (x : State) : (ended p x).me.stq = x.me.stq := by
  rw [ended, State.me_retireTo, State.me_countIssue]

/-- What an instruction leaves that is such a store: what `StoresAll` says. -/
theorem StoredAll.ended {s u x : State} {ws : List (Nat × List Byte)} (h : StoredAll s u x ws) (p : Pipe) :
    (ended p x).me.pc = s.nextPc ∧ (ended p x).mem = Memory.writes u.mem ws ∧ SameRegs s.me (ended p x).me ∧
    (ended p x).me.stq = s.me.stq + 1 ∧ (∀ ta, ta ≠ s.cur → (ended p x).slot ta = s.slot ta) ∧
    (ended p x).agenda = u.agenda ++ [.storeAck ⟨s.cur, s.me.uid⟩] := by
  obtain ⟨n, hme⟩ := h.me
  have hpc : x.nextPc = s.nextPc := by rw [State.nextPc, hme]; rfl
  have hregs : SameRegs s.me x.me := by
    rw [hme]
    exact ⟨rfl, rfl, rfl, rfl, rfl, rfl, rfl, rfl, rfl, rfl, rfl⟩
  refine ⟨(ended_pc ..).trans hpc, ?_, ended_sameRegs hregs p, ?_, fun ta hta => ?_, (ended_agenda ..).trans h.agenda⟩
  · rw [Claims.ended, State.retireTo_mem, State.countIssue_mem, h.mem]
  · rw [ended_stq, hme]
  · rw [Claims.ended, State.slot_retireTo_other _ _ (by rw [State.countIssue_cur, h.cur]; exact hta), State.slot_countIssue]
    exact h.others ta hta

end Sys2Proof.Machine
end

section
/-! SUPPORT. MMA and the moves of accumulators (R79, R136 to R150). -/

namespace Sys2Proof.Machine

open Sys2Proof.Claims

/-! ## Accumulators (R145) -/

/-- An accumulator just written reads back, and the end of an instruction leaves it. -/
@[simp] theorem State.acc_putAcc_same (s : State) (d : AReg) (x : Acc) : (s.putAcc d x).acc d = x := by
  unfold State.acc State.putAcc
  simp only [State.me_modMe]
  exact Vector.getElem_set_self _

@[simp] theorem ended_acc (p : Pipe) (s : State) (d : AReg) : (ended p s).acc d = s.acc d := by
  unfold State.acc ended
  simp only [State.me_retireTo, State.me_countIssue]

/-- A number with its low b bits replaced still fits. -/
theorem toNat_withLow {n b low : Nat} (x : BitVec n) (hb : b ≤ n) (hl : low < 2 ^ b) :
    (BitVec.ofNat n (x.toNat / 2 ^ b * 2 ^ b + low)).toNat = x.toNat / 2 ^ b * 2 ^ b + low := by
  rw [BitVec.toNat_ofNat, Nat.mod_eq_of_lt]
  have hq : x.toNat / 2 ^ b < 2 ^ (n - b) := by
    rw [Nat.div_lt_iff_lt_mul (by positivity), ← pow_add, Nat.sub_add_cancel hb]
    exact x.isLt
  calc x.toNat / 2 ^ b * 2 ^ b + low < (x.toNat / 2 ^ b + 1) * 2 ^ b := by rw [Nat.succ_mul]; omega
    _ ≤ 2 ^ (n - b) * 2 ^ b := Nat.mul_le_mul_right _ hq
    _ = 2 ^ n := by rw [← pow_add, Nat.sub_add_cancel hb]

/-- A slice of the low bits does not see the rest. -/
theorem slice_withLow {q b low c w : Nat} (h : c + w ≤ b) : (q * 2 ^ b + low) / 2 ^ c % 2 ^ w = low / 2 ^ c % 2 ^ w := by
  obtain ⟨e, rfl⟩ := Nat.exists_eq_add_of_le h
  rw [show q * 2 ^ (c + w + e) = 2 ^ c * (2 ^ w * (q * 2 ^ e)) by ring, Nat.mul_add_div (by positivity), Nat.mul_add_mod]

/-! ## The result of MMA (R79, R141) -/

/-- Rows of equal length one after the other. -/
theorem flatMap_rows {α : Type} (g : Nat → Nat → α) (n : Nat) : ∀ m, ((List.range m).flatMap fun i => (List.range n).map (g i)) =
    (List.range (m * n)).map fun k => g (k / n) (k % n)
  | 0 => by rw [Nat.zero_mul]; rfl
  | m + 1 => by
    rw [List.range_succ, List.flatMap_append, flatMap_rows g n m, Nat.succ_mul, List.range_add, List.map_append, List.map_map]
    simp only [List.flatMap_cons, List.flatMap_nil, List.append_nil]
    congr 1
    refine List.map_congr_left fun j hj => ?_
    have hj : j < n := List.mem_range.1 hj
    have hn : 0 < n := by omega
    simp only [Function.comp]
    rw [Nat.mul_comm m n, Nat.mul_add_div hn, Nat.mul_add_mod, Nat.div_eq_of_lt hj, Nat.mod_eq_of_lt hj, Nat.add_zero]

/-- Elements of an absent row are none. -/
theorem rowElems_getD (t : Ty) (l : List (List Byte)) (i : Nat) :
    (l.map (rowElems t)).getD i [] = rowElems t (l.getD i []) := by
  have h0 : rowElems t [] = [] := by
    unfold rowElems
    simp only [List.length_nil, Nat.zero_div, List.range_zero, List.map_nil]
  rw [List.getD_eq_getElem?_getD, List.getElem?_map, List.getD_eq_getElem?_getD]
  cases l[i]? with
  | none => exact h0.symm
  | some x => rfl

/-- The elements of an MMA's result stay within an accumulator. -/
theorem mmaBits_le (f : MmaFmt) : (mmaAcc f).width * mmaRows f * mmaRows f ≤ 8192 := by
  cases f <;> decide

section
variable (f : MmaFmt) (ftz clr : Bool) (acc : Acc) (a b : List (List Byte))

/-- Element (i, j) of the result, before it is cut to its width. -/
def mmaAt (i j : Nat) : FpRes :=
  mmaElem f ftz (if clr then 0 else slice acc ((mmaAcc f).width * (mmaRows f * i + j)) (mmaAcc f).width)
    (rowElems (mmaIn f) (a.getD i [])) (rowElems (mmaIn f) (b.getD j []))

/-- The result's elements, row by row, as one number. -/
def mmaLow : Nat :=
  joinLanes (mmaAcc f).width ((List.range (mmaRows f * mmaRows f)).map fun k =>
    (mmaAt f ftz clr acc a b (k / mmaRows f) (k % mmaRows f)).bits)

theorem mmaLow_lt : mmaLow f ftz clr acc a b < 2 ^ ((mmaAcc f).width * mmaRows f * mmaRows f) := by
  have h := joinLanes_lt (mmaAcc f).width ((List.range (mmaRows f * mmaRows f)).map fun k =>
    (mmaAt f ftz clr acc a b (k / mmaRows f) (k % mmaRows f)).bits)
  rwa [List.length_map, List.length_range, ← Nat.mul_assoc] at h

theorem toNat_mmaResult : (mmaResult f ftz clr acc a b).1.toNat =
    acc.toNat / 2 ^ ((mmaAcc f).width * mmaRows f * mmaRows f) * 2 ^ ((mmaAcc f).width * mmaRows f * mmaRows f) +
      mmaLow f ftz clr acc a b := by
  rw [← toNat_withLow acc (mmaBits_le f) (mmaLow_lt f ftz clr acc a b)]
  unfold mmaResult mmaLow mmaAt
  simp only [flatMap_rows, rowElems_getD, List.map_map]
  rfl

/-- Element (i, j) of the accumulator after an MMA (R79, R141). -/
theorem slice_mmaResult {i j : Nat} (hi : i < mmaRows f) (hj : j < mmaRows f) :
    slice (mmaResult f ftz clr acc a b).1 ((mmaAcc f).width * (mmaRows f * i + j)) (mmaAcc f).width =
      (mmaAt f ftz clr acc a b i j).bits % 2 ^ (mmaAcc f).width := by
  have hk : mmaRows f * i + j < mmaRows f * mmaRows f :=
    calc mmaRows f * i + j < mmaRows f * (i + 1) := by rw [Nat.mul_succ]; omega
      _ ≤ mmaRows f * mmaRows f := Nat.mul_le_mul_left _ hi
  have hfit : (mmaAcc f).width * (mmaRows f * i + j) + (mmaAcc f).width ≤ (mmaAcc f).width * mmaRows f * mmaRows f := by
    rw [← Nat.mul_succ, Nat.mul_assoc]
    exact Nat.mul_le_mul_left _ hk
  have hn : 0 < mmaRows f := by omega
  rw [slice, Nat.shiftRight_eq_div_pow, toNat_mmaResult, slice_withLow hfit, mmaLow, joinLanes_lane]
  simp only [List.getD_eq_getElem?_getD, List.getElem?_map, List.getElem?_range hk, Option.map_some, Option.getD_some]
  rw [Nat.mul_add_div hn, Nat.mul_add_mod, Nat.div_eq_of_lt hj, Nat.mod_eq_of_lt hj, Nat.add_zero]

/-- The bits above the elements stay. -/
theorem high_mmaResult : (mmaResult f ftz clr acc a b).1.toNat / 2 ^ ((mmaAcc f).width * mmaRows f * mmaRows f) =
    acc.toNat / 2 ^ ((mmaAcc f).width * mmaRows f * mmaRows f) := by
  rw [toNat_mmaResult, Nat.mul_comm, Nat.mul_add_div (by positivity), Nat.div_eq_of_lt (mmaLow_lt ..), Nat.add_zero]

end

/-! ## An operand of MMA that passes its checks (R137 to R139) -/

section
variable {s : State} {f : MmaFmt} {m : MOp} (h : GoodOperand s f m)
include h

theorem srcs_full_of_goodOperand : ∀ x ∈ MOpsrcs m, Full s x.reg := by
  cases m with
  | reg v => exact List.forall_mem_nil _
  | qlm n =>
    obtain ⟨h0, h1, -⟩ := h
    exact List.forall_mem_cons.2 ⟨h0, List.forall_mem_singleton.2 h1⟩

theorem State.mmaAlign_ok : s.mmaAlign f m = .ok s () := by
  cases m with
  | reg v => rfl
  | qlm n =>
    obtain ⟨-, -, hbase, hstride, -⟩ := h
    have hb : ((s.g n.reg).toNat % mmaRowLen f == 0) = true := beq_iff_eq.2 hbase
    have hs : (slice (s.g (n.reg + 1)) 0 32 % mmaRowLen f == 0) = true := beq_iff_eq.2 hstride
    simp only [State.mmaAlign, hb, hs, need_true, Res.bind_ok]

theorem State.mmaBad_nil : s.mmaBad f m = [] := by
  cases m with
  | reg v => rfl
  | qlm n =>
    obtain ⟨-, -, -, -, hrows⟩ := h
    unfold State.mmaBad
    rw [List.filter_eq_nil_iff]
    intro a ha
    obtain ⟨hin, -, key, hprot, -⟩ := hrows a ha
    rw [hin, hprot]
    exact Bool.false_ne_true

theorem State.mmaPois_nil : s.mmaPois f m = [] := by
  cases m with
  | reg v => rfl
  | qlm n =>
    obtain ⟨-, -, -, -, hrows⟩ := h
    unfold State.mmaPois
    rw [List.flatMap_eq_nil_iff]
    intro a ha
    obtain ⟨-, -, key, hprot, hgran⟩ := hrows a ha
    rw [hprot, List.map_eq_nil_iff, List.filter_eq_nil_iff]
    intro i hi
    rw [hgran i (List.mem_range.1 hi)]
    decide

theorem State.mmaPieces_free : s.anyHeld s.cur (s.mmaPieces f m) = false := by
  cases m with
  | reg v => rfl
  | qlm n =>
    obtain ⟨-, -, -, -, hrows⟩ := h
    unfold State.anyHeld State.mmaPieces
    rw [List.any_map, List.any_eq_false]
    intro a ha
    obtain ⟨-, hheld, -⟩ := hrows a ha
    simp only [Function.comp, hheld, Bool.false_eq_true, not_false_eq_true]

theorem mmaRegs_clean : ∀ r ∈ mmaRegs f m, s.vpois r = false := by
  cases m with
  | reg v => exact List.forall_mem_map.2 fun i hi => h i (List.mem_range.1 hi)
  | qlm n => exact List.forall_mem_nil _

end

/-- With no poisoned register of a list the check of it passes (R118). -/
theorem State.cleanV_ok {s : State} {l : List VReg} (h : ∀ r ∈ l, s.vpois r = false) : s.cleanV l = .ok s () := by
  have hn : (l.find? fun r => s.vpois r) = none := by
    rw [List.find?_eq_none]
    intro r hr
    rw [h r hr]
    decide
  unfold State.cleanV
  rw [hn]

/-! ## MMA (R141, R142) -/

/-- The accumulator that MMA leaves, and the flags it raises. -/
def mmaOut (o : MmaOp) (s : State) : Acc × FpFlags :=
  mmaResult o.f s.me.ftz o.clr (s.acc o.d) (s.mmaBytes o.f o.a) (s.mmaBytes o.f o.b)

/-- What MMA leaves before it ends: it counts, writes its accumulator and sets its flags. -/
def mmaState (rows : Nat) (o : MmaOp) (s : State) : State :=
  (((s.countMe 4 1).countMe 13 rows).putAcc o.d (mmaOut o s).1).setFlags (mmaOut o s).2

/-- MMA with operands that pass their checks (R141). -/
theorem execMma_ends {s : State} {o : MmaOp} (hp : Solo s) (ha : NoAmo s) (hA : GoodOperand s o.f o.a) (hB : GoodOperand s o.f o.b) :
    ∃ rows, execMma o s = .next (ended .v (mmaState rows o s)) := by
  have hsrc : s.examine (MOpsrcs o.a ++ MOpsrcs o.b) = .ok s () :=
    State.examine_ok (List.forall_mem_append.2 ⟨srcs_full_of_goodOperand hA, srcs_full_of_goodOperand hB⟩)
  have hheld : (s.accessHeld || s.anyHeld s.cur (s.mmaPieces o.f o.a ++ s.mmaPieces o.f o.b)) = false := by
    have hA' := State.mmaPieces_free hA
    have hB' := State.mmaPieces_free hB
    unfold State.anyHeld at hA' hB' ⊢
    rw [List.any_append, hA', hB', show s.accessHeld = false from ha]
    rfl
  have hclean : s.cleanV (mmaRegs o.f o.a ++ mmaRegs o.f o.b) = .ok s () :=
    State.cleanV_ok (List.forall_mem_append.2 ⟨mmaRegs_clean hA, mmaRegs_clean hB⟩)
  refine ⟨?rows, issue_ok (t := mmaState ?rows o s) ?body⟩
  case body =>
    rw [State.preIssue_single hp, hsrc, Res.bind_ok, State.mmaAlign_ok hA, Res.bind_ok, State.mmaAlign_ok hB, Res.bind_ok,
      State.mmaBad_nil hA, State.mmaBad_nil hB, State.mmaPois_nil hA, State.mmaPois_nil hB, hheld, hclean]
    rfl

theorem mmaState_kept (rows : Nat) (o : MmaOp) (s : State) : KeptBy s (mmaState rows o s) { as := [o.d], fp := true } :=
  ((((KeptBy.refl s _).countMe _ _).countMe _ _).putAcc _ (List.mem_singleton_self o.d)).setFlags _ rfl

theorem mmaState_me (rows : Nat) (o : MmaOp) (s : State) : (mmaState rows o s).me =
    { s.me with a := s.me.a.set o.d.toNat (mmaOut o s).1 o.d.isLt, fpctl := s.me.fpctl ||| (mmaOut o s).2.bits } := by
  simp only [mmaState, State.setFlags, State.putAcc, State.me_modMe, State.me_countMe]

theorem mmaState_acc (rows : Nat) (o : MmaOp) (s : State) : (mmaState rows o s).acc o.d = (mmaOut o s).1 := by
  simp only [State.acc, mmaState_me]
  exact Vector.getElem_set_self _

/-- MMA, as O24 says it (R79, R141, R142). -/
theorem mma_writes {s : State} {o : MmaOp} (hp : Solo s) (ha : NoAmo s) (hA : GoodOperand s o.f o.a) (hB : GoodOperand s o.f o.b) :
    WritesA (.mma o) s s o.d true fun acc sl => (∃ fl : FpFlags, sl.fpctl = s.me.fpctl ||| fl.bits) ∧
      sl.lfsr = s.me.lfsr ∧ ∀ w n, w = (mmaAcc o.f).width → n = mmaRows o.f →
      (∀ i j, i < n → j < n → slice acc (w * (n * i + j)) w =
        (mmaElem o.f s.me.ftz (if o.clr then 0 else slice (s.acc o.d) (w * (n * i + j)) w)
          (rowElems (mmaIn o.f) ((s.mmaBytes o.f o.a).getD i []))
          (rowElems (mmaIn o.f) ((s.mmaBytes o.f o.b).getD j []))).bits % 2 ^ w) ∧
      acc.toNat / 2 ^ (w * n * n) = (s.acc o.d).toNat / 2 ^ (w * n * n) := by
  obtain ⟨rows, hi⟩ := execMma_ends hp ha hA hB
  have hpc : (mmaState rows o s).nextPc = s.nextPc := by rw [State.nextPc, mmaState_me]; rfl
  refine ⟨_, hi, (ended_pc ..).trans hpc, (mmaState_kept rows o s).ended .v, ⟨(mmaOut o s).2, ?_⟩, ?_, ?_⟩
  · rw [ended_fpctl, mmaState_me]
  · rw [ended_lfsr, mmaState_me]
  · rintro w n rfl rfl
    rw [ended_acc, mmaState_acc]
    exact ⟨fun i j hi hj => slice_mmaResult o.f s.me.ftz o.clr (s.acc o.d) _ _ hi hj, high_mmaResult ..⟩

/-! ## ACLR and AMOV (R146, R150) -/

theorem ofNat_slice {n : Nat} (x : BitVec n) (lo len : Nat) : BitVec.ofNat len (slice x lo len) = x.extractLsb' lo len :=
  BitVec.eq_of_toNat_eq (Nat.mod_mod ..)

theorem aclr_writes {s : State} (hp : Solo s) (d : AReg) : WritesA (.aclr d) s s d false fun acc _ => acc = 0 := by
  have hi : execAclr d s = .next (ended .v (s.putAcc d 0)) := issue_ok (by rw [State.preIssue_single hp])
  refine ⟨_, hi, (ended_pc ..).trans (State.nextPc_modMe s rfl rfl), ?_, ?_⟩
  · exact ((KeptBy.refl s ⟨[], [], [], [d], false⟩).putAcc 0 (List.mem_singleton_self d)).ended .v
  · rw [ended_acc, State.acc_putAcc_same]

theorem amovToV_writes {s : State} (hp : Solo s) (d : VReg) (a : AReg) (p : BitVec 2) :
    ∃ t, exec (.amov (.toV d a p)) s = .next t ∧ t.me.pc = s.nextPc ∧ Kept s t [] [d] [] [] false ∧ t.vpois d = false ∧
      t.vreg d = (s.acc a).extractLsb' (2048 * p.toNat) 2048 := by
  have hi : execAmov (.toV d a p) s =
      .next (ended .v (s.putV d (BitVec.ofNat 2048 (slice (s.acc a) (2048 * p.toNat) 2048)) false)) :=
    issue_ok (by rw [State.preIssue_single hp])
  refine ⟨_, hi, (ended_pc ..).trans (State.nextPc_modMe s rfl rfl), ?_, ?_, ?_⟩
  · exact ((KeptBy.refl s ⟨[], [d], [], [], false⟩).putV _ false (List.mem_singleton_self d)).ended .v
  · rw [ended_vpois, State.vpois_putV_same]
  · rw [ended_vreg, State.vreg_putV_same, ofNat_slice]

/-- A number by its parts below, in and above a slice. -/
theorem toNat_slice_parts {n : Nat} (x : BitVec n) (lo len : Nat) :
    x.toNat = 2 ^ lo * (2 ^ len * (x.toNat / 2 ^ lo / 2 ^ len) + slice x lo len) + x.toNat % 2 ^ lo := by
  rw [slice, Nat.shiftRight_eq_div_pow, Nat.div_add_mod, Nat.div_add_mod]

/-- The bits of a number by its parts. -/
theorem testBit_parts {lo len low mid hi : Nat} (hl : low < 2 ^ lo) (hm : mid < 2 ^ len) (i : Nat) :
    (2 ^ lo * (2 ^ len * hi + mid) + low).testBit i =
      if i < lo then low.testBit i else if i < lo + len then mid.testBit (i - lo) else hi.testBit (i - lo - len) := by
  rw [Nat.testBit_two_pow_mul_add _ hl, Nat.testBit_two_pow_mul_add _ hm]
  split
  · rfl
  · exact if_congr (by omega) rfl rfl

/-- The bits of a number with a slice of it replaced. -/
theorem getLsbD_setSlice {n lo len : Nat} (x : BitVec n) (v : BitVec len) {i : Nat} (hi : i < n) :
    (setSlice x lo len v.toNat).getLsbD i = if lo ≤ i ∧ i < lo + len then v.getLsbD (i - lo) else x.getLsbD i := by
  have hs : slice x lo len < 2 ^ len := Nat.mod_lt _ (by positivity)
  have hlow : x.toNat % 2 ^ lo < 2 ^ lo := Nat.mod_lt _ (by positivity)
  have hset : x.toNat - slice x lo len * 2 ^ lo + v.toNat % 2 ^ len * 2 ^ lo =
      2 ^ lo * (2 ^ len * (x.toNat / 2 ^ lo / 2 ^ len) + v.toNat) + x.toNat % 2 ^ lo := by
    rw [Nat.mod_eq_of_lt v.isLt, Nat.mul_add, Nat.mul_comm v.toNat]
    have hx := toNat_slice_parts x lo len
    rw [Nat.mul_add, Nat.mul_comm _ (slice x lo len)] at hx
    omega
  rw [setSlice, BitVec.getLsbD_ofNat, decide_eq_true hi, Bool.true_and, hset, testBit_parts hlow v.isLt, ← BitVec.testBit_toNat,
    ← BitVec.testBit_toNat]
  conv_rhs => rw [toNat_slice_parts x lo len, testBit_parts hlow hs]
  by_cases h1 : i < lo
  · rw [if_pos h1, if_pos h1, if_neg (by omega)]
  · by_cases h2 : i < lo + len
    · rw [if_neg h1, if_pos h2, if_pos ⟨Nat.le_of_not_lt h1, h2⟩]
    · rw [if_neg h1, if_neg h1, if_neg h2, if_neg h2, if_neg (fun h => h2 h.2)]

theorem amovToA_writes {s : State} (hp : Solo s) (d : AReg) {a : VReg} (p : BitVec 2) (hv : s.vpois a = false) :
    WritesA (.amov (.toA d a p)) s s d false fun acc _ =>
      ∀ i, i < 8192 → acc.getLsbD i = if 2048 * p.toNat ≤ i ∧ i < 2048 * p.toNat + 2048
        then (s.vreg a).getLsbD (i - 2048 * p.toNat) else (s.acc d).getLsbD i := by
  have hi : execAmov (.toA d a p) s =
      .next (ended .v (s.putAcc d (setSlice (s.acc d) (2048 * p.toNat) 2048 (s.vreg a).toNat))) :=
    issue_ok (by
      rw [State.preIssue_single hp]
      dsimp only
      rw [State.cleanV_ok (List.forall_mem_singleton.2 hv), Res.bind_ok])
  refine ⟨_, hi, (ended_pc ..).trans (State.nextPc_modMe s rfl rfl), ?_, fun i hi => ?_⟩
  · exact ((KeptBy.refl s ⟨[], [], [], [d], false⟩).putAcc _ (List.mem_singleton_self d)).ended .v
  · rw [ended_acc, State.acc_putAcc_same]
    exact getLsbD_setSlice _ _ hi

/-! ## ALD and AST (R148, R149) -/

theorem ofBytes_lt : ∀ bs : List Byte, ofBytes bs < 2 ^ (8 * bs.length)
  | [] => by decide
  | b :: bs => by
    have hb : b.toNat < 256 := b.isLt
    have h := ofBytes_lt bs
    rw [ofBytes, List.length_cons, Nat.mul_succ, pow_add]
    omega

/-- A read whose pieces are of one length. -/
theorem State.loadLanes_uniform {s u : State} {ps : List (Word × Nat)} {keys : List Nat} {n : Nat} (h : Hint) (ha : NoAmo s)
    (hal : ∀ p ∈ ps, p.1.toNat % n = 0) (hn : ∀ p ∈ ps, p.2 = n) (hp : PlacedAll s ps .r u keys) :
    ∃ x, CachesOnly u x ∧ s.loadLanes ps n h = .ok x (keys.map fun key => (u.bytes key n, u.pois key n)) := by
  obtain ⟨x, hx, he⟩ := State.loadLanes_placedAll h ha hal hp
  have hl : ps.map Prod.snd = keys.map fun _ => n := by
    rw [List.map_const', List.eq_replicate_iff, List.length_map, length_of_placedAll hp]
    exact ⟨rfl, List.forall_mem_map.2 hn⟩
  refine ⟨x, hx, he.trans ?_⟩
  rw [hl, ← List.map_prod_left_eq_zip, List.map_map]
  rfl

theorem accLen_eq (ty : AccTy) : accLen ty = if ty = .fp64 then 512 else 1024 := by
  cases ty <;> rfl

/-- The address of granule i of an area. -/
theorem toNat_granule {va : Word} (h : va.toNat % 64 = 0) (i : Nat) : (va + BitVec.ofNat 64 (32 * i)).toNat % 32 = 0 := by
  rw [BitVec.toNat_add, BitVec.toNat_ofNat]
  omega

/-- The pieces of an area of n bytes are aligned granules. -/
theorem accParts_granules {va : Word} (h : va.toNat % 64 = 0) (n : Nat) : ∀ p ∈ accParts va n, p.1.toNat % 32 = 0 ∧ p.2 = 32 :=
  List.forall_mem_map.2 fun i _ => ⟨toNat_granule h i, rfl⟩

/-- The bytes of the granules at some keys. -/
def granuleBytes (u : State) (keys : List Nat) : List Byte := keys.flatMap fun key => u.bytes key 32

theorem length_granuleBytes (u : State) (keys : List Nat) : (granuleBytes u keys).length = 32 * keys.length := by
  induction keys with
  | nil => rfl
  | cons key keys ih =>
    rw [granuleBytes, List.flatMap_cons, List.length_append, ← granuleBytes, ih, State.bytes, Memory.length_read, List.length_cons]
    ring

/-- The granules of a type's area in memory are its bytes. -/
theorem length_granules_placed {s u : State} {va : Word} {ty : AccTy} {k : Acc3} {keys : List Nat}
    (h : PlacedAll s (accParts va (accLen ty)) k u keys) : (granuleBytes u keys).length = accLen ty := by
  rw [length_granuleBytes, length_of_placedAll h, accParts, List.length_map, List.length_range]
  cases ty <;> rfl

/-- An accumulator with its low bytes replaced. -/
def Acc.withBytes (acc : Acc) (bs : List Byte) : Acc :=
  BitVec.ofNat 8192 (acc.toNat / 2 ^ (8 * bs.length) * 2 ^ (8 * bs.length) + ofBytes bs)

/-- ALD of an area whose granules are placed and unpoisoned writes their bytes and ends (R148). -/
theorem execAld_ends {s u : State} {o : AccMem} {keys : List Nat} (hp : Solo s) (ha : NoAmo s) (hs : Full s o.a.reg)
    (hal : (s.accAddr o).toNat % 64 = 0) (hpl : PlacedAll s (accParts (s.accAddr o) (accLen o.ty)) .r u keys)
    (hk : ∀ key ∈ keys, u.pois key 32 = false) :
    ∃ x, CachesOnly u x ∧ execAld o s = .next (ended .v (x.putAcc o.d (Acc.withBytes (s.acc o.d) (granuleBytes u keys)))) := by
  have hparts := accParts_granules hal (accLen o.ty)
  obtain ⟨x, hx, hread⟩ := State.loadLanes_uniform o.hint ha (fun p h => (hparts p h).1) (fun p h => (hparts p h).2) hpl
  have hacc : x.acc o.d = s.acc o.d := by
    simp only [State.acc, ((WalksOnly.of_placedAll hpl).sameSlots.trans (.of_caches hx)).me]
  have hlen := length_granules_placed hpl
  have hclean : ((List.range (keys.map fun key => (u.bytes key 32, u.pois key 32)).length).find? fun i =>
      (((keys.map fun key => (u.bytes key 32, u.pois key 32))[i]?).map Prod.snd).getD false) = none := by
    rw [List.find?_eq_none]
    intro i _
    rw [List.getElem?_map, Option.map_map]
    cases hi : keys[i]? with
    | none => exact Bool.false_ne_true
    | some key => simp [hk key (List.mem_of_getElem? hi)]
  refine ⟨x, hx, issue_ok ?_⟩
  rw [State.preIssue_single hp, State.examine_ok (List.forall_mem_singleton.2 hs), Res.bind_ok]
  dsimp only
  rw [alignAll_ok (List.forall_mem_singleton.2 hal), Res.bind_ok, hread, Res.bind_ok, hclean]
  dsimp only
  rw [hacc, List.flatMap_map, Acc.withBytes, hlen]
  rfl

/-- ALD, as O24 says it. -/
theorem ald_writes {s u : State} {o : AccMem} {keys : List Nat} (hp : Solo s) (ha : NoAmo s) (hs : Full s o.a.reg)
    (hal : (s.accAddr o).toNat % 64 = 0) (hpl : PlacedAll s (accParts (s.accAddr o) (accLen o.ty)) .r u keys)
    (hk : ∀ key ∈ keys, u.pois key 32 = false) :
    WritesA (.ald o) s u o.d false fun acc _ =>
      acc.toNat = (s.acc o.d).toNat / 2 ^ (8 * accLen o.ty) * 2 ^ (8 * accLen o.ty) +
        littleEndian (keys.flatMap fun key => Memory.read u.mem key 32) := by
  obtain ⟨x, hx, hi⟩ := execAld_ends hp ha hs hal hpl hk
  have hsx := (WalksOnly.of_placedAll hpl).sameSlots.trans (.of_caches hx)
  have hlen := length_granules_placed hpl
  have hfit : 8 * accLen o.ty ≤ 8192 := by cases o.ty <;> decide
  have hlow : ofBytes (granuleBytes u keys) < 2 ^ (8 * accLen o.ty) := hlen ▸ ofBytes_lt (granuleBytes u keys)
  refine ⟨_, hi, (ended_pc ..).trans ((State.nextPc_modMe x rfl rfl).trans hsx.nextPc),
    ((hx.keeps ⟨[], [], [], [o.d], false⟩).putAcc _ (List.mem_singleton_self o.d)).ended .v, ?_⟩
  dsimp only
  rw [ended_acc, State.acc_putAcc_same, Acc.withBytes, hlen, toNat_withLow _ hfit hlow, littleEndian_eq]
  rfl

/-- The data of AST, granule by granule (R149). -/
def accWrites (s : State) (d : AReg) (va : Word) (n : Nat) : List (Word × List Byte) :=
  (List.range (n / 32)).map fun i => (va + BitVec.ofNat 64 (32 * i), toBytes 32 (slice (s.acc d) (256 * i) 256))

/-- AST of an area whose granules are placed (R149). -/
theorem ast_stores {s : State} {o : AccMem} (hp : Solo s) (ha : NoAmo s) (hr : s.replay.busy = false) (hs : Full s o.a.reg)
    (hal : (s.accAddr o).toNat % 64 = 0) : StoresAll (.ast o) s (accWrites s o.d (s.accAddr o) (accLen o.ty)) := by
  intro u keys hpl
  have hgran : ∀ l ∈ accWrites s o.d (s.accAddr o) (accLen o.ty), l.1.toNat % 32 = 0 :=
    List.forall_mem_map.2 fun i _ => toNat_granule hal i
  obtain ⟨x, hx, hst⟩ := State.storeLanes_placedAll true o.hint hp ha hr hgran hpl
  have hws : ((accParts (s.accAddr o) (accLen o.ty)).map fun p =>
      (p.1, toBytes 32 (slice (s.acc o.d) (8 * (p.1 - s.accAddr o).toNat) 256))) =
      accWrites s o.d (s.accAddr o) (accLen o.ty) := by
    unfold accParts accWrites
    rw [List.map_map]
    refine List.map_congr_left fun i hi => ?_
    have hi : i < 32 := (List.mem_range.1 hi).trans_le (by cases o.ty <;> decide)
    have hoff : (s.accAddr o + BitVec.ofNat 64 (32 * i) - s.accAddr o).toNat = 32 * i := by
      rw [add_sub_cancel_left, BitVec.toNat_ofNat]
      omega
    simp only [Function.comp, hoff]
    rw [← Nat.mul_assoc]
  have hi : execAst o s = .next (ended .v x) := by
    refine issue_ok ?_
    rw [State.preIssue_single hp, State.examine_ok (List.forall_mem_singleton.2 hs), Res.bind_ok]
    dsimp only
    rw [alignAll_ok (List.forall_mem_singleton.2 hal), Res.bind_ok, hws, hx]
  exact ⟨_, hi, hst.ended .v⟩

/-- Settles O24: MMA by the slices of the number that its elements make, ACLR and AMOV by the register they write, ALD and AST
by the granules of their area. -/
theorem tileResults : Obligations.TileResults := by
  unfold Obligations.TileResults
  intro s hp
  refine ⟨fun ha o hA hB => mma_writes hp ha hA hB, aclr_writes hp, amovToV_writes hp, fun d a p hv => amovToA_writes hp d p hv,
    fun ha o va n hva hn hs hal => ?_⟩
  obtain rfl : n = accLen o.ty := hn.trans (accLen_eq o.ty).symm
  obtain rfl : va = s.accAddr o := hva
  exact ⟨fun u keys hpl hk => ald_writes hp ha hs hal hpl hk, fun hr => ast_stores hp ha hr hs hal⟩

end Sys2Proof.Machine
end

section
/-! SUPPORT. The integer instructions with a local destination: their results, and the end of the instruction (R87 to R95). -/

namespace Sys2Proof.Machine

open Sys2Proof.Claims

/-! ## The tables name the functions of the model (R88 to R90, R95) -/

/-- The native word of every row of INT3 is that of the row's function (R88). -/
theorem exec_int3Table_native : ∀ e ∈ int3Table, ∀ d a b, exec (e.1 d a b) = int3 e.2.2 d a b := by
  rw [int3Table_eq]
  simp only [List.forall_mem_cons, List.not_mem_nil, IsEmpty.forall_iff, implies_true, and_true]
  and_intros <;> exact fun _ _ _ => rfl

theorem aluShl_eq (x y : Word) : aluShl x y = x <<< (y.toNat % 64) := by rw [aluShl, slice_low6]
theorem aluShr_eq (x y : Word) : aluShr x y = x >>> (y.toNat % 64) := by rw [aluShr, slice_low6]
theorem aluSra_eq (x y : Word) : aluSra x y = x.sshiftRight (y.toNat % 64) := by rw [aluSra, slice_low6]

/-- The rows of the immediate forms with the model's own functions (R90). -/
theorem immTable_eq : immTable =
    [(.addi, aluAdd), (.andi, aluAnd), (.ori, aluOr), (.xori, aluXor), (.shli, aluShl), (.shri, aluShr), (.srai, aluSra),
     (.cmpiEq, aluCmpEq), (.cmpiLt, aluCmpLt), (.cmpiLtu, aluCmpLtu)] := by
  rw [funext₂ aluShl_eq, funext₂ aluShr_eq, funext₂ aluSra_eq, funext₂ aluCmpEq_eq,
    show aluCmpLt = fun x y : Word => if x.toInt < y.toInt then 1 else 0 from funext₂ fun _ _ => ofBool_decide _,
    show aluCmpLtu = fun x y : Word => if x.toNat < y.toNat then 1 else 0 from funext₂ fun _ _ => ofBool_decide _]
  rfl

theorem exec_immTable : ∀ e ∈ immTable, ∀ d a c, exec (e.1 d a c) = intI e.2 d a c := by
  rw [immTable_eq]
  simp only [List.forall_mem_cons, List.not_mem_nil, IsEmpty.forall_iff, implies_true, and_true]
  and_intros <;> exact fun _ _ _ => rfl

/-- A count of bits of a word stands in a word as it is. -/
theorem toNat_ofNat_count {n : Nat} (h : n ≤ 64) : (BitVec.ofNat 64 n : Word).toNat = n := by
  rw [BitVec.toNat_ofNat, Nat.mod_eq_of_lt (by omega)]

theorem clz_leadingZeros (x : Word) : LeadingZeros x (BitVec.ofNat 64 (leadZeros x 64) : Word).toNat := by
  rw [toNat_ofNat_count (leadZeros_le x 64)]
  exact ⟨leadZeros_le x 64, leadZeros_zeros x 64, leadZeros_one x 64⟩

theorem ctz_trailingZeros (x : Word) : TrailingZeros x (BitVec.ofNat 64 (trailZeros x 64 0) : Word).toNat := by
  rw [toNat_ofNat_count (trailZeros_le x 64 0)]
  refine ⟨trailZeros_le x 64 0, fun i hi => trailZeros_zeros x 64 0 i (Nat.zero_le i) (by omega), fun h => ?_⟩
  rw [← Nat.zero_add (trailZeros x 64 0)]
  exact trailZeros_one x 64 0 h

theorem popc_count (x : Word) :
    (BitVec.ofNat 64 (onesBelow x 64) : Word).toNat = ((List.range 64).filter fun i => x.getLsbD i).length := by
  have hle : ((List.range 64).filter fun i => x.getLsbD i).length ≤ 64 :=
    (List.length_filter_le ..).trans (List.length_range ..).le
  rw [onesBelow_eq, toNat_ofNat_count hle]

theorem brev_bits (x : Word) (i : Nat) (hi : i < 64) : (bitRev x 64).getLsbD (63 - i) = x.getLsbD i := by
  rw [bitRev_getLsbD x 64 (63 - i) (Nat.le_refl 64) (by omega), show 63 - (63 - i) = i by omega, decide_eq_true hi,
    Bool.true_and]

/-- Every row of INT1 is a one-source word whose function gives what the row says (R95). -/
theorem exec_int1Table : ∀ e ∈ int1Table, ∃ f, (∀ x, e.2 x (f x)) ∧ ∀ d a, exec (e.1 d a) = int1 f d a := by
  unfold int1Table
  simp only [List.forall_mem_cons, List.not_mem_nil, IsEmpty.forall_iff, implies_true, and_true]
  refine ⟨?mov, ?clz, ?ctz, ?popc, ?sextB, ?sextH, ?sextW, ?zextB, ?zextH, ?zextW, ?not, ?brev⟩
  case clz => exact ⟨_, clz_leadingZeros, fun _ _ => rfl⟩
  case ctz => exact ⟨_, ctz_trailingZeros, fun _ _ => rfl⟩
  case popc => exact ⟨_, popc_count, fun _ _ => rfl⟩
  case brev => exact ⟨_, brev_bits, fun _ _ => rfl⟩
  all_goals exact ⟨_, fun _ => rfl, fun _ _ => rfl⟩

/-! ## What the forms give -/

section
variable {s : State} {d : Reg} (hp : Solo s) (hd : Free s d)
include hp hd

/-- A form of XINT with a local destination, stated of its instruction (R87). -/
theorem gives_of_xint {i : Instr} {l : List Src} {f : State → Word} {v : Word} (hi : exec i s = xint l (.loc d) f s)
    (hl : FullAll s l) (hv : f s = v) : Gives i s d v := by
  subst hv
  exact hi.trans (xint_ok f hp hl hd)

/-- A one-source word, stated of its instruction (R90, R95). -/
theorem gives_of_int1 {i : Instr} {a : Reg} {f : Word → Word} (hi : exec i = int1 f d a) (ha : Full s a) :
    Gives i s d (f (s.me.greg a).val) := by
  unfold Gives
  rw [hi]
  exact int1_ok f hp ha hd

/-- A two-source word, stated of its instruction (R88). -/
theorem gives_of_int3 {i : Instr} {a b : Reg} {f : Word → Word → Word} (hi : exec i = int3 f d a b) (ha : Full s a)
    (hb : Full s b) : Gives i s d (f (s.me.greg a).val (s.me.greg b).val) := by
  unfold Gives
  rw [hi]
  exact int3_ok f hp ha hb hd

end

/-- Settles O1: the native words are INT3, the extended forms XINT, with the functions of the table's rows. -/
theorem integerResults : Obligations.IntegerResults := by
  unfold Obligations.IntegerResults
  intro e he s hp
  refine ⟨fun d a b ha hb hd => gives_of_int3 hp hd (exec_int3Table_native e he d a b) ha hb, fun d a y hl hd => ?_⟩
  exact gives_of_xint hp hd (l := a :: y.srcs) (by rw [exec_int3Table e he]; rfl) (ySrcs_eq y ▸ hl) (by rw [State.y_eq]; rfl)

/-- Settles O2: an immediate form is a one-source word with its constant sign-extended. -/
theorem immediateResults : Obligations.ImmediateResults := by
  unfold Obligations.ImmediateResults
  intro e he s d a c hp ha hd
  exact gives_of_int1 hp hd (f := fun x => e.2 x (sextW c)) (exec_immTable e he d a c) ha

/-- Settles O3, by the function of each row. -/
theorem oneSourceResults : Obligations.OneSourceResults := by
  unfold Obligations.OneSourceResults
  intro e he s d a hp ha hd
  obtain ⟨f, hf, hi⟩ := exec_int1Table e he
  exact ⟨f (s.me.greg a).val, hf _, gives_of_int1 hp hd (hi d a) ha⟩

/-! ## Fields (R92) -/

/-- A word moved down by p and cut to n bits is its field of n bits from p up. -/
theorem setWidth_shiftRight (x : Word) (p n : Nat) : (x >>> p).setWidth n = x.extractLsb' p n := by
  refine BitVec.eq_of_toNat_eq ?_
  rw [BitVec.toNat_setWidth, BitVec.toNat_ushiftRight, BitVec.extractLsb'_toNat]

/-- The mask of BFI has its ones in the field (R92). -/
theorem getLsbD_fieldMask (p w : BitVec 6) {i : Nat} (hi : i < 64) :
    (fieldMask p w).getLsbD i = decide (p.toNat ≤ i ∧ i ≤ p.toNat + w.toNat) := by
  unfold fieldMask fieldWidth
  rw [BitVec.getLsbD_shiftLeft, BitVec.getLsbD_ofNat, Nat.testBit_two_pow_sub_one, Bool.eq_iff_iff]
  simp only [Bool.and_eq_true, Bool.not_eq_true', decide_eq_true_eq, decide_eq_false_iff_not]
  omega

/-- The result of BFI bit by bit: the field from x, the rest from y (R92). -/
theorem getLsbD_insertField (x y : Word) (p w : BitVec 6) {i : Nat} (hi : i < 64) :
    ((y &&& ~~~fieldMask p w) ||| ((x <<< p.toNat) &&& fieldMask p w)).getLsbD i =
      if p.toNat ≤ i ∧ i ≤ p.toNat + w.toNat then x.getLsbD (i - p.toNat) else y.getLsbD i := by
  rw [BitVec.getLsbD_or, BitVec.getLsbD_and, BitVec.getLsbD_and, BitVec.getLsbD_not, getLsbD_fieldMask p w hi,
    BitVec.getLsbD_shiftLeft, decide_eq_true hi]
  split
  · next h =>
    have hlt : ¬ i < p.toNat := by omega
    simp [h, hlt]
  · next h => simp [h]

/-- Settles O4: each is XINT with a local destination; BFX cuts the field out of the word moved down, and BFI is read bit by
bit. -/
theorem fieldResults : Obligations.FieldResults := by
  unfold Obligations.FieldResults
  intro s d hp hd
  refine ⟨fun a y c hl => ?sel, fun a p w hl _ => ⟨?zext, ?sext⟩, fun a b p w hl _ => ?bfi, fun off => ?addpc, fun y hl => ?li⟩
  case sel => exact gives_of_xint hp hd (l := a :: y.srcs ++ [c]) rfl (ySrcs_eq y ▸ hl) (by rw [State.y_eq]; rfl)
  case zext => exact gives_of_xint hp hd (l := [a]) rfl hl (congrArg (BitVec.setWidth 64) (setWidth_shiftRight ..))
  case sext => exact gives_of_xint hp hd (l := [a]) rfl hl (congrArg (BitVec.signExtend 64) (setWidth_shiftRight ..))
  case bfi => exact ⟨_, gives_of_xint hp hd (l := [a, b]) rfl hl rfl, fun i hi => getLsbD_insertField _ _ p w hi⟩
  case addpc => exact gives_of_xint hp hd (l := []) rfl (List.forall_mem_nil _) rfl
  case li => exact gives_of_xint hp hd (l := y.srcs) rfl (ySrcs_eq y ▸ hl) (State.y_eq s y)

end Sys2Proof.Machine
end

section
/-! SUPPORT. Branches, calls and jumps: where they go, and what they leave (R109 to R112). -/

namespace Sys2Proof.Machine

open Sys2Proof.Claims

/-! ## The slot where PC and the length of the instruction are read -/

@[simp] theorem Slot.setG_pc (sl : Slot) (r : Reg) (x : GReg) : (sl.setG r x).pc = sl.pc := by
  unfold Slot.setG
  split <;> rfl

@[simp] theorem Slot.setG_ilen (sl : Slot) (r : Reg) (x : GReg) : (sl.setG r x).ilen = sl.ilen := by
  unfold Slot.setG
  split <;> rfl

@[simp] theorem State.putG_pc (s : State) (r : Reg) (v : Word) : (s.putG r v).me.pc = s.me.pc := by
  rw [State.putG, State.me_modMe]
  exact Slot.setG_pc ..

@[simp] theorem State.putG_nextPc (s : State) (r : Reg) (v : Word) : (s.putG r v).nextPc = s.nextPc :=
  State.nextPc_modMe s (f := fun sl => sl.writeG r v) (Slot.setG_pc ..) (Slot.setG_ilen ..)

@[simp] theorem State.countMe_nextPc (s : State) (ev n : Nat) : (s.countMe ev n).nextPc = s.nextPc := by
  rw [State.nextPc, State.me_countMe]
  rfl

@[simp] theorem State.countMe_target4 {n : Nat} (s : State) (ev k : Nat) (off : BitVec n) :
    (s.countMe ev k).target4 off = s.target4 off := by
  rw [State.target4, State.me_countMe]
  rfl

@[simp] theorem State.putG_target4 {n : Nat} (s : State) (r : Reg) (v : Word) (off : BitVec n) :
    (s.putG r v).target4 off = s.target4 off := by
  rw [State.target4, State.putG_pc]
  rfl

@[simp] theorem State.countMe_g (s : State) (ev n : Nat) (r : Reg) : (s.countMe ev n).g r = s.g r := by
  rw [State.g, State.me_countMe]
  rfl

/-- A native source that is FULL passes the examination (R30, R43). -/
theorem State.examine_blk {s : State} {a : Reg} (ha : Full s a) : s.examine [blk a] = .ok s () :=
  State.examine_ok (List.forall_mem_singleton.2 ha)

/-- A register just written holds the value (R20). -/
theorem State.greg_putG_same (s : State) {r : Reg} (v : Word) (h : r ≠ 0) : (s.putG r v).me.greg r = ⟨v, .full, false⟩ := by
  rw [State.putG, State.me_modMe, Slot.greg_writeG, if_neg h, if_pos rfl]

/-! ## A taken branch -/

/-- A taken branch changes its slot's fingerprint alone. -/
theorem State.greg_taken (s : State) (t : Word) (r : Reg) : (s.taken t).me.greg r = s.me.greg r := by
  rw [State.taken, State.me_modMe, State.me_countMe]
  rfl

theorem local_taken {s t : State} (h : Local s t) (pc : Word) : Local s (t.taken pc) := (h.countMe 6 1).modMe _

/-! ## An instruction that ends at a target -/

theorem endedAt_greg (p : Pipe) (t : Word) (s : State) (r : Reg) : (endedAt p t s).me.greg r = s.me.greg r := by
  rw [endedAt, State.me_retireTo, State.me_countIssue]
  rfl

/-- What an instruction does that ends at a target with the registers of `gs` written. -/
theorem goesTo_of_endedAt {i : Instr} {s u : State} {pc : Word} {gs : List (Reg × Word)}
    (hi : exec i s = .next (endedAt .s pc u)) (hk : KeptBy s u { gs := gs.map Prod.fst }) (hl : Local s u)
    (hg : ∀ x ∈ gs, x.1 ≠ 0 → u.me.greg x.1 = ⟨x.2, .full, false⟩) : GoesTo i s pc gs :=
  ⟨_, hi, endedAt_me_pc .s pc u, fun x hx h0 => (endedAt_greg .s pc u x.1).trans (hg x hx h0),
    (hk.countIssue .s).retireTo pc, (hl.countIssue .s).retireTo pc⟩

/-- An instruction that changes registers and then branches to a target when a condition holds, else goes on. -/
theorem goesTo_of_branch {i : Instr} {s u : State} {body : State → Res Word} {c : Prop} [Decidable c] {pc : Word}
    {gs : List (Reg × Word)} (hi : exec i s = issueTo .s .inner body s)
    (hb : body (s.preIssue .inner) = if c then .ok (u.taken pc) pc else .ok u s.nextPc)
    (hk : KeptBy s u { gs := gs.map Prod.fst }) (hl : Local s u)
    (hg : ∀ x ∈ gs, x.1 ≠ 0 → u.me.greg x.1 = ⟨x.2, .full, false⟩) : GoesTo i s (if c then pc else s.nextPc) gs := by
  split
  · next hc =>
    refine goesTo_of_endedAt (hi.trans (issueTo_ok (hb.trans (if_pos hc)))) (hk.taken pc) (local_taken hl pc) fun x hx h0 => ?_
    rw [State.greg_taken, hg x hx h0]
  · next hc => exact goesTo_of_endedAt (hi.trans (issueTo_ok (hb.trans (if_neg hc)))) hk hl hg

/-! ## Conditional branches (R109) -/

/-- A conditional branch whose sources are FULL goes to its target when its condition holds. -/
theorem branchIf_goesTo {i : Instr} {s : State} {f : Word → Word → Bool} {a b : Src} {t : State → Word} (hp : Solo s)
    (hi : exec i s = branchIf f a b t s) (ht : t (s.countMe 7 1) = t s) (hl : FullAll s [a, b]) :
    GoesTo i s (if f (s.me.greg a.reg).val (s.me.greg b.reg).val then t s else s.nextPc) [] := by
  refine goesTo_of_branch hi ?_ ((KeptBy.refl s {}).countMe 7 1) ((Local.refl s).countMe 7 1) (List.forall_mem_nil _)
  rw [State.preIssue_single hp, State.examine_ok hl, Res.bind_ok]
  dsimp only
  rw [State.countMe_g, State.countMe_g, ht, State.countMe_nextPc]
  rfl

/-- Every row of the table is a conditional branch with the row's condition, in both forms. -/
theorem exec_condTable : ∀ e ∈ condTable,
    (∀ a b off, exec (e.1 a b off) = branchIf e.2.2 (blk a) (blk b) fun s => s.target4 off) ∧
    ∀ a b off, exec (e.2.1 a b off) = branchIf e.2.2 a b fun s => s.me.pc + sextW off := by
  have hbeq : condBeq = fun x y : Word => decide (x = y) := funext₂ fun x y => beq_eq_decide x y
  have hbne : condBne = fun x y : Word => decide (x ≠ y) := funext₂ fun x y => by
    rw [condBne, bne, beq_eq_decide, decide_not]
  unfold condTable
  rw [← hbeq, ← hbne]
  simp only [List.forall_mem_cons, List.not_mem_nil, IsEmpty.forall_iff, implies_true, and_true]
  and_intros <;> exact fun _ _ _ => rfl

/-- Settles O6: both forms are conditional branches, whose target is read at the instruction's own PC. -/
theorem conditionalBranches : Obligations.ConditionalBranches := by
  unfold Obligations.ConditionalBranches
  intro e he s hp
  obtain ⟨hnat, hx⟩ := exec_condTable e he
  refine ⟨fun a b off ha hb => ?_, fun a b off hl => ?_⟩
  · exact branchIf_goesTo hp (a := blk a) (b := blk b) (congrFun (hnat a b off) s) (State.countMe_target4 ..)
      (List.forall_mem_cons.2 ⟨ha, List.forall_mem_singleton.2 hb⟩)
  · exact branchIf_goesTo hp (t := fun s => s.me.pc + sextW off) (congrFun (hx a b off) s) (by rw [State.me_countMe]) hl

/-! ## Jumps, calls, JR and DBNZ (R110 to R112) -/

/-- An instruction that links and then moves: it writes one register. -/
theorem link_goesTo {i : Instr} {s : State} {pc v : Word} {d : Reg}
    (hi : exec i s = .next (endedAt .s pc ((s.putG d v).taken pc))) : GoesTo i s pc [(d, v)] := by
  refine goesTo_of_endedAt hi (((KeptBy.refl s _).putG v (List.mem_singleton_self d)).taken _)
    (local_taken ((Local.refl s).modMe _) _) (List.forall_mem_singleton.2 fun h0 => ?_)
  rw [State.greg_taken, State.greg_putG_same s v h0]

section
variable {i : Instr} {s : State} (hp : Solo s)
include hp

theorem jumpTo_goesTo {t : State → Word} (hi : exec i s = jumpTo t s) : GoesTo i s (t s) [] := by
  rw [jumpTo, issueTo_ok (by rw [State.preIssue_single hp])] at hi
  exact goesTo_of_endedAt hi ((KeptBy.refl s _).taken _) (local_taken (.refl s) _) (List.forall_mem_nil _)

theorem callTo_goesTo {t : State → Word} (hd : Free s 1) (hi : exec i s = callTo t s) : GoesTo i s (t s) [(1, s.nextPc)] := by
  refine link_goesTo (hi.trans (issueTo_ok ?_))
  rw [State.preIssue_single hp, State.freeG_ok hd, Res.bind_ok]

theorem execJr_goesTo {d a : Reg} (ha : Full s a) (hd : Free s d) :
    GoesTo (.jr d a) s (s.me.greg a).val [(d, s.me.pc + 4)] := by
  have hi : exec (.jr d a) s = execJr d a s := rfl
  refine link_goesTo (hi.trans (issueTo_ok ?_))
  rw [State.preIssue_single hp, State.examine_blk ha, Res.bind_ok, State.freeG_ok hd, Res.bind_ok]
  rfl

theorem execDbnz_goesTo {a : Reg} {off : BitVec 11} (ha : Full s a) (hd : Free s a) :
    GoesTo (.dbnz a off) s (if (s.me.greg a).val - 1 ≠ 0 then s.me.pc + off.signExtend 64 * 4 else s.nextPc)
      [(a, (s.me.greg a).val - 1)] := by
  have hi : exec (.dbnz a off) s = execDbnz a off s := rfl
  refine goesTo_of_branch (u := (s.putG a ((s.me.greg a).val - 1)).countMe 7 1) hi ?_
    (((KeptBy.refl s { gs := [a] }).putG _ (List.mem_singleton_self a)).countMe 7 1) (((Local.refl s).modMe _).countMe 7 1)
    (List.forall_mem_singleton.2 fun h0 => ?_)
  · rw [State.preIssue_single hp, State.examine_blk ha, Res.bind_ok, State.freeG_ok hd, Res.bind_ok]
    dsimp only
    rw [State.countMe_target4, State.putG_target4, State.countMe_nextPc, State.putG_nextPc]
    rfl
  · rw [State.me_countMe, State.greg_putG_same s _ h0]

end

/-- Settles O7: B and CALL by the jump and the call that both of their forms are, JR and DBNZ by themselves. -/
theorem jumpsAndCalls : Obligations.JumpsAndCalls := by
  unfold Obligations.JumpsAndCalls
  intro s hp
  exact ⟨fun off => jumpTo_goesTo hp (t := fun s => s.target4 off) rfl,
    fun off => jumpTo_goesTo hp (t := fun s => s.me.pc + sextW off) rfl,
    fun hd off => callTo_goesTo hp (t := fun s => s.target4 off) hd rfl,
    fun hd off => callTo_goesTo hp (t := fun s => s.me.pc + sextW off) hd rfl,
    fun _ _ ha hd => execJr_goesTo hp ha hd, fun _ _ ha hd => execDbnz_goesTo hp ha hd⟩

end Sys2Proof.Machine
end

section
/-! SUPPORT. The instructions that move presence, where no remote write waits (R96 to R99). -/

namespace Sys2Proof.Machine

open Sys2Proof.Claims

/-! ## Registers that an update of one register leaves -/

@[simp] theorem Slot.setG_uid (sl : Slot) (r : Reg) (x : GReg) : (sl.setG r x).uid = sl.uid := by
  unfold Slot.setG
  split <;> rfl

theorem Slot.greg_setG_same (sl : Slot) {r : Reg} (x : GReg) (h : r ≠ 0) : (sl.setG r x).greg r = x := by
  rw [Slot.greg_setG, if_neg h, if_pos rfl]

theorem Slot.greg_setG_other (sl : Slot) {r q : Reg} (x : GReg) (h : q ≠ r) : (sl.setG r x).greg q = sl.greg q := by
  rw [Slot.greg_setG, if_neg h]
  split
  · next h0 => rw [h0, Slot.greg_zero]
  · rfl

/-! ## No remote write waits (R23) -/

theorem takeFirst_none {α : Type} {p : α → Bool} {l : List α} (h : ∀ x ∈ l, p x = false) : takeFirst p l = none := by
  induction l with
  | nil => rfl
  | cons x xs ih =>
    obtain ⟨hx, hxs⟩ := List.forall_mem_cons.1 h
    rw [takeFirst, hx, ih hxs]
    rfl

/-- A change of the slot's registers brings no mail. -/
theorem noMail_modMe {s : State} {r : Reg} (h : NoMail s r) {f : Slot → Slot} (hu : (f s.me).uid = s.me.uid) :
    NoMail (s.modMe f) r := by
  intro m hm hk hta hme
  rw [State.me_modMe, hu] at hme
  exact h m hm hk hta hme

/-- With no mail nothing lands in a register that has been emptied. -/
theorem State.landNext_noMail {s : State} {r : Reg} (h : NoMail s r) : s.landNext s.cur r = s := by
  unfold State.landNext
  split
  · rfl
  · next hr =>
    have hnone : takeFirst (fun m => m.kind == 0 && m.ta == s.cur && m.reg == (r - 32).setWidth 5 && m.uid == (s.slot s.cur).uid)
        (s.core (taCore s.cur)).rxq = none := by
      refine takeFirst_none fun m hm => ?_
      rw [Bool.eq_false_iff]
      simp only [ne_eq, Bool.and_eq_true, beq_iff_eq]
      rintro ⟨⟨⟨hk, hta⟩, hreg⟩, hu⟩
      refine h m hm hk hta hu ?_
      rw [hreg]
      bv_omega
    dsimp only
    rw [hnone]
    exact ite_self s

/-- PTEST's look at the queue finds nothing (R97). -/
theorem queued_eq_false {s : State} {r : Reg} (h : NoMail s r) : ((s.core s.myCore).rxq.any fun m =>
    m.kind == 0 && m.ta == s.cur && m.uid == s.me.uid && (32 + m.reg.toNat == r.toNat)) = false := by
  rw [List.any_eq_false]
  intro m hm
  simp only [Bool.and_eq_true, beq_iff_eq]
  rintro ⟨⟨⟨hk, hta⟩, hu⟩, hr⟩
  exact h m hm hk hta hu hr

/-! ## An instruction that ends with its slot changed -/

/-- What an instruction leaves that changes its slot and ends, when the change keeps PC and all registers but those of
`gs`. -/
theorem leaves_of_ended {i : Instr} {s : State} {f : Slot → Slot} {gs : List Reg} {P : Slot → Prop}
    (hi : exec i s = .next (ended .s (s.modMe f))) (hk : SlotKept s.me (f s.me) { gs := gs }) (hpc : (f s.me).pc = s.me.pc)
    (hl : (f s.me).ilen = s.me.ilen) (hP : P (ended .s (s.modMe f)).me) : Leaves i s gs P :=
  ⟨_, hi, (ended_pc ..).trans (State.nextPc_modMe s hpc hl), hP, ((KeptBy.refl s _).modMe hk).ended .s,
    (((Local.refl s).modMe f).countIssue .s).retireTo _⟩

theorem ended_modMe_greg (s : State) (f : Slot → Slot) (r : Reg) : (ended .s (s.modMe f)).me.greg r = (f s.me).greg r := by
  rw [ended_greg, State.me_modMe]

theorem ended_modMe_takes (s : State) (f : Slot → Slot) : (ended .s (s.modMe f)).me.takes = (f s.me).takes := by
  rw [ended, State.me_retireTo, State.me_countIssue, State.me_modMe]

/-! ## TAKE (R96) -/

/-- A slot whose TAKE of a into d has found a value, or poison. -/
def Slot.taken (sl : Slot) (d a : Reg) : Slot := (sl.emptyG a).arriveG d (sl.greg a).val ((sl.greg a).pres == .poison)

/-- A slot whose TAKE of a into d waits for mail. -/
def Slot.awaits (sl : Slot) (d a : Reg) : Slot := { sl.pendG d with takes := sl.takes ++ [(a, d)] }

section
variable {s : State} {d a : Reg}

/-- A TAKE moves neither PC nor the task. -/
theorem Slot.taken_same (sl : Slot) (d a : Reg) :
    (sl.taken d a).pc = sl.pc ∧ (sl.taken d a).ilen = sl.ilen ∧ (sl.taken d a).uid = sl.uid := by
  simp only [Slot.taken, Slot.arriveG, Slot.emptyG, Slot.setG_pc, Slot.setG_ilen, Slot.setG_uid, and_self]

theorem Slot.greg_taken_src (sl : Slot) (ha : a ≠ 0) (had : a ≠ d) :
    (sl.taken d a).greg a = ⟨(sl.greg a).val, .empty, false⟩ := by
  rw [Slot.taken, Slot.arriveG, Slot.greg_setG_other _ _ had, Slot.emptyG, Slot.greg_setG_same _ _ ha]

theorem Slot.greg_taken_dst (sl : Slot) (hd : d ≠ 0) (hv : (sl.greg a).pres ≠ .empty) :
    ((sl.taken d a).greg d).pres = (sl.greg a).pres ∧
      ((sl.greg a).pres = .full → ((sl.taken d a).greg d).val = (sl.greg a).val) := by
  rw [Slot.taken, Slot.arriveG, Slot.greg_setG_same _ _ hd]
  cases h : (sl.greg a).pres with
  | empty => exact absurd h hv
  | full => exact ⟨rfl, fun _ => rfl⟩
  | poison => exact ⟨rfl, fun h => by cases h⟩

theorem SlotKept.taken (x : Slot) (d a : Reg) : SlotKept x (x.taken d a) { gs := [d, a] } :=
  (SlotKept.setG x _ (List.mem_cons_of_mem d (List.mem_singleton_self a))).trans (.setG _ _ List.mem_cons_self)

theorem SlotKept.awaits (x : Slot) (d a : Reg) : SlotKept x (x.awaits d a) { gs := [d] } :=
  (SlotKept.pendFor x false (List.mem_singleton_self d)).trans (.of_eq rfl rfl rfl rfl rfl rfl rfl rfl ⟨rfl, rfl, rfl⟩)

theorem takes_any_eq_false (h : ∀ p ∈ s.me.takes, p.1 ≠ a) : (s.me.takes.any fun t => t.1 == a) = false :=
  List.any_eq_false.2 fun p hp => by simpa using h p hp

/-- TAKE of a register that holds a value or poison moves it (R96). -/
theorem execTake_moves (hp : Solo s) (had : a ≠ d) (hv : (s.me.greg a).pres ≠ .empty) (ht : ∀ p ∈ s.me.takes, p.1 ≠ a)
    (hd : Free s d) (hm : NoMail s a) : exec (.take d a) s = .next (ended .s (s.modMe fun sl => sl.taken d a)) := by
  have hland : (s.modMe fun sl => sl.taken d a).landNext s.cur a = s.modMe fun sl => sl.taken d a :=
    State.landNext_noMail (noMail_modMe hm (f := fun sl => sl.taken d a) (s.me.taken_same d a).2.2)
  show execTake d a s = _
  refine issue_ok ?_
  rw [State.preIssue_single hp]
  dsimp only
  rw [takes_any_eq_false ht, if_neg Bool.false_ne_true, if_neg fun h => hv h.1, if_neg hv, if_neg had.symm, State.freeG_ok hd,
    Res.bind_ok]
  exact congrArg (Res.ok · ()) hland

/-- TAKE of an EMPTY mailbox leaves a TAKE that waits for it (R96). -/
theorem execTake_awaits (hp : Solo s) (ha : 32 ≤ a.toNat) (he : (s.me.greg a).pres = .empty) (hf : Free s a)
    (ht : ∀ p ∈ s.me.takes, p.1 ≠ a) (hd : Free s d) (hm : NoMail s a) :
    exec (.take d a) s = .next (ended .s (s.modMe fun sl => sl.awaits d a)) := by
  have hland : (s.modMe fun sl => sl.awaits d a).landNext s.cur a = s.modMe fun sl => sl.awaits d a :=
    State.landNext_noMail (noMail_modMe hm (f := fun sl => sl.awaits d a) (Slot.setG_uid ..))
  show execTake d a s = _
  refine issue_ok ?_
  rw [State.preIssue_single hp]
  dsimp only
  rw [takes_any_eq_false ht, if_neg Bool.false_ne_true, if_pos ⟨he, ha, hf⟩, State.freeG_ok hd, Res.bind_ok]
  exact congrArg (Res.ok · ()) hland

end

/-! ## PTEST, PEMPTY and PSET (R97 to R99) -/

theorem execPtest_gives {s : State} {d a : Reg} (hp : Solo s) (hd : Free s d) (hm : NoMail s a) :
    Gives (.ptest d a) s d (BitVec.ofNat 64
      ((match (s.me.greg a).pres with | .empty => 0 | .full => 1 | .poison => 2) + if (s.me.greg a).pend then 4 else 0)) := by
  show execPtest d a s = _
  refine issue_ok ?_
  rw [State.preIssue_single hp, State.freeG_ok hd, Res.bind_ok]
  refine congrArg (Res.ok · ()) (congrArg (s.putG d) (congrArg (BitVec.ofNat 64) ?_))
  exact (congrArg (_ + ·) (if_neg (Bool.eq_false_iff.1 (queued_eq_false hm)))).trans (Nat.add_zero _)

theorem execPempty_empties {s : State} {a : Reg} (hp : Solo s) (ha : Free s a) (hm : NoMail s a) :
    exec (.pempty a) s = .next (ended .s (s.modMe fun sl => sl.emptyG a)) := by
  have hland : (s.modMe fun sl => sl.emptyG a).landNext s.cur a = s.modMe fun sl => sl.emptyG a :=
    State.landNext_noMail (noMail_modMe hm (f := fun sl => sl.emptyG a) (Slot.setG_uid ..))
  show execPempty a s = _
  refine issue_ok ?_
  rw [State.preIssue_single hp, State.freeG_ok ha, Res.bind_ok]
  exact congrArg (Res.ok · ()) hland

theorem execPset_sets {s : State} {d : Reg} (p : Presence) (hp : Solo s) (hd : Free s d) (hm : NoMail s d) :
    exec (.pset d p) s = .next (ended .s (s.modMe fun sl => sl.setG d ⟨(sl.greg d).val, p, false⟩)) := by
  have hland : (s.modMe fun sl => sl.setG d ⟨(sl.greg d).val, p, false⟩).landNext s.cur d =
      s.modMe fun sl => sl.setG d ⟨(sl.greg d).val, p, false⟩ :=
    State.landNext_noMail (noMail_modMe hm (f := fun sl => sl.setG d ⟨(sl.greg d).val, p, false⟩) (Slot.setG_uid ..))
  show execPset d p s = _
  refine issue_ok ?_
  rw [State.preIssue_single hp, State.freeG_ok hd, Res.bind_ok]
  dsimp only
  rw [State.modMe_cur, hland, ite_self]

/-- Settles O8: with no mail nothing lands, so that each instruction leaves its slot as it has changed it. -/
theorem presenceResults : Obligations.PresenceResults := by
  unfold Obligations.PresenceResults
  intro s hp
  refine ⟨fun d a ha h0 had hv ht hd hm => ?moves, fun d a ha h0 he hf ht hd hm => ?awaits,
    fun d a hd hm => execPtest_gives hp hd hm, fun a h0 ha hm => ?empties, fun d p h0 hd hm => ?sets⟩
  case moves =>
    obtain ⟨hpc, hlen, -⟩ := s.me.taken_same d a
    refine leaves_of_ended (execTake_moves hp had hv ht hd hm) (.taken ..) hpc hlen ?_
    rw [ended_modMe_greg, ended_modMe_greg, Slot.greg_taken_src _ ha had]
    exact ⟨rfl, rfl, Slot.greg_taken_dst _ h0 hv⟩
  case awaits =>
    refine leaves_of_ended (execTake_awaits hp ha he hf ht hd hm) (.awaits ..) (Slot.pendFor_pc _ d false)
      (Slot.pendFor_ilen _ d false) ?_
    have hg : (s.me.awaits d a).greg d = ⟨(s.me.greg d).val, .empty, true⟩ := s.me.greg_pendFor h0 false
    rw [ended_modMe_greg, ended_modMe_takes, hg]
    exact ⟨rfl, rfl, List.mem_append_right _ (List.mem_singleton_self _)⟩
  case empties =>
    refine leaves_of_ended (execPempty_empties hp ha hm) (.setG _ _ (List.mem_singleton_self a)) (Slot.setG_pc ..)
      (Slot.setG_ilen ..) ?_
    rw [ended_modMe_greg]
    exact Slot.greg_setG_same _ _ h0
  case sets =>
    refine leaves_of_ended (execPset_sets p hp hd hm) (.setG _ _ (List.mem_singleton_self d)) (Slot.setG_pc ..)
      (Slot.setG_ilen ..) ?_
    rw [ended_modMe_greg]
    exact Slot.greg_setG_same _ _ h0

end Sys2Proof.Machine
end

section
/-! SUPPORT. The stores of a slot, and the checks that come before any access (R102 to R107, R185). -/

namespace Sys2Proof.Machine

open Sys2Proof.Claims

/-! ## A translation keeps memory in its canonical form (R322) -/

section
variable {s : State}

@[simp] theorem State.tlbGive_mem (s : State) (who : Option Nat) (e : TlbEntry) : (s.tlbGive who e).mem = s.mem := by
  cases who <;> rfl

@[simp] theorem State.tlbPut_mem (s : State) (e : TlbEntry) : (s.tlbPut e).mem = s.mem := rfl

theorem State.dieLoad_wf (c : Ctx) (die : Nat) (who : Option Nat) (va : Nat) (h : Memory.wf s.mem = true) :
    Memory.wf (s.dieLoad c die who va).1.mem = true := by
  unfold State.dieLoad
  split
  · rwa [State.tlbGive_mem]
  · extract_lets s₁ s₂
    have hm : s₂.mem = s.mem := by
      cases who with
      | none => rfl
      | some ta => exact State.count_mem ..
    rcases s₂.walk c va with ⟨r, seen⟩
    dsimp only
    have hseen : (seen.foldl (fun (x : State) pa => (x.lookHome who (pa / 128) .normal).1) s₂).mem = s₂.mem :=
      foldl_keeps State.mem (fun x pa => ((CachesOnly.refl x).lookHome who (pa / 128) .normal true).mem) ..
    rw [← hm, ← hseen] at h
    cases r with
    | leaf p pa size =>
      dsimp only
      rw [State.tlbGive_mem, State.tlbPut_mem]
      exact Memory.wf_write h
    | bad => exact h
    | pois pa => exact h

theorem State.look_wf (c : Ctx) (who : Option Nat) (va : Word) (k : Acc3) (h : Memory.wf s.mem = true) :
    Memory.wf (s.look c who va k).1.mem = true := by
  have hl : Memory.wf (s.tlbLoadOn c (dieOf who) who va.toNat).1.mem = true := by
    unfold State.tlbLoadOn
    cases who with
    | none => exact State.dieLoad_wf _ _ _ _ h
    | some ta =>
      dsimp only
      split
      · exact h
      · refine State.dieLoad_wf _ _ _ _ ?_
        rwa [State.count_mem]
  unfold State.look State.lookOn
  split <;> next he => rw [he] at hl; exact hl

theorem State.markDirtyOn_wf (c : Ctx) (unit : Nat) (va : Word) (h : Memory.wf s.mem = true) :
    Memory.wf (s.markDirtyOn c unit va).mem = true := by
  unfold State.markDirtyOn
  split
  · split
    · exact Memory.wf_write h
    · exact h
  · exact h

theorem State.translate_wf (c : Ctx) (who : Option Nat) (va : Word) (k : Acc3) (h : Memory.wf s.mem = true) :
    Memory.wf (s.translate c who va k).1.mem = true := by
  have hl := State.look_wf c who va k h
  unfold State.translate
  split
  · next he => rw [he] at hl; exact hl
  · next he =>
    rw [he] at hl
    dsimp only
    split
    · exact State.markDirtyOn_wf _ _ _ hl
    · exact hl

end

/-! ## Where a store puts its bytes (R104, R105) -/

section
variable {s u : State} {va : Word} {n key : Nat}

theorem Placed.wf {k : Acc3} (h : Placed s va n k u key) (hm : Memory.wf s.mem = true) : Memory.wf u.mem = true := by
  obtain ⟨-, ⟨-, -, rfl⟩ | ⟨-, -, p, htr, -⟩⟩ := h
  · exact hm
  · have ht := State.translate_wf (s := s) s.myCtx (some s.cur) va k hm
    rwa [htr] at ht

/-- The look and the mark of a store are its translation (R322). -/
theorem State.placeAll_of_translate {p : Place} (h56 : va.toNat / 2 ^ 56 = 0) (hq : inQlmBlock va = false)
    (htr : s.translate s.myCtx (some s.cur) va .w = (u, some p)) :
    s.placeAll s.myCtx .w true [(va, n)] = (u, .ok [(p, false)]) := by
  have hcur := (WalksOnly.look s s.myCtx (some s.cur) va .w).sameSlots.cur
  unfold State.translate at htr
  unfold State.placeAll State.lookAll State.lookAll
  rw [State.protect_outside h56 hq]
  rcases hl : s.look s.myCtx (some s.cur) va .w with ⟨x, _ | y⟩
  · rw [hl] at htr
    cases htr
  · rw [hl] at htr hcur
    have hmark : x.markAll s.myCtx [(va, n)] = x.markDirty s.myCtx (some s.cur) va := by
      show (if inQlmBlock va then x else x.markDirtyOn s.myCtx (quadTlb x.cur) va) = _
      rw [hq, hcur]
      rfl
    have hu : x.markDirty s.myCtx (some s.cur) va = u := congrArg Prod.fst htr
    have hy : y = p := Option.some.inj (congrArg Prod.snd htr)
    dsimp only
    rw [hmark, hu, hy]
    rfl

/-- A store that is placed is an access of one piece. -/
theorem placedAll_of_placed (h : Placed s va n .w u key) : PlacedAll s [(va, n)] .w u [key] := by
  obtain ⟨hheld, ⟨hq, hprot, rfl⟩ | ⟨hq, h56, p, htr, rfl, hview, hlost⟩⟩ := h
  · refine ⟨List.forall_mem_singleton.2 ⟨by rw [hprot]; exact Option.some_ne_none _, hheld⟩,
      [(⟨key, 0, false, none, 0, 0⟩, true)], ?_, List.forall_mem_singleton.2 ⟨rfl, rfl⟩, rfl⟩
    have hp : u.protect u.cur va n true = some (some key) := hprot
    have hmark : u.markAll u.myCtx [(va, n)] = u := if_pos hq
    show u.placeAll u.myCtx .w true [(va, n)] = _
    unfold State.placeAll State.lookAll State.lookAll
    rw [hp]
    exact Prod.ext hmark rfl
  · exact ⟨List.forall_mem_singleton.2 ⟨by rw [State.protect_outside h56 hq]; exact Option.some_ne_none _, hheld⟩,
      [(p, false)], State.placeAll_of_translate h56 hq htr, List.forall_mem_singleton.2 ⟨hview, hlost⟩, rfl⟩

end

/-! ## The bytes of a store (R3, R102) -/

theorem length_toBytes : ∀ n v, (toBytes n v).length = n
  | 0, _ => rfl
  | n + 1, v => congrArg (· + 1) (length_toBytes n (v / 256))

/-- Bytes just written read back, the lowest first. -/
theorem Memory.get_write_toBytes {m : List Host.Cell} (h : Memory.wf m = true) (n : Nat) : ∀ (k v j : Nat), j < n →
    Memory.get (Memory.write m k (toBytes n v)) (k + j) = BitVec.ofNat 8 (v / 256 ^ j) := by
  induction n generalizing m with
  | zero => exact fun _ _ j hj => absurd hj (Nat.not_lt_zero j)
  | succ n ih =>
    intro k v j hj
    have hset : Memory.wf (Memory.set m k (BitVec.ofNat 8 v)) = true := Memory.wf_set h
    rw [toBytes, Memory.write]
    cases j with
    | zero =>
      show Memory.get _ k = _
      rw [Memory.get_write_other hset (Or.inl (show k < k + 1 by omega)), Memory.get_set_same h, pow_zero, Nat.div_one]
    | succ j =>
      rw [show k + (j + 1) = k + 1 + j by omega, ih hset (k + 1) (v / 256) j (by omega), Nat.div_div_eq_div_mul, pow_succ']

/-- A write of n bytes leaves every byte at no one of their keys. -/
theorem Memory.get_write_toBytes_other {m : List Host.Cell} {n k i : Nat} (h : Memory.wf m = true) (v : Nat)
    (hi : ∀ j, j < n → i ≠ k + j) : Memory.get (Memory.write m k (toBytes n v)) i = Memory.get m i := by
  refine Memory.get_write_other h ?_
  rw [length_toBytes]
  by_contra hin
  exact hi (i - k) (by omega) (by omega)

/-! ## The sources of a load and of a store (R30) -/

theorem State.examine_load {s : State} {l : List Src} {d : Reg} (hl : FullAll s l) :
    s.examine (l ++ (Dst.loc d).srcs) = .ok s () :=
  State.examine_ok (List.forall_mem_append.2 ⟨hl, List.forall_mem_nil _⟩)

theorem State.examine_store {s : State} {l : List Src} {d : Reg} (hl : FullAll s l) (hd : Full s d) :
    s.examine (l ++ [blk d]) = .ok s () :=
  State.examine_ok (List.forall_mem_append.2 ⟨hl, List.forall_mem_singleton.2 hd⟩)

/-! ## A store-release and its waits (R106, R209) -/

/-- Where the waits of a release pass, they leave the state. -/
theorem State.release_ok {s : State} {sc : Scope} (h : Released s sc) : s.release sc = .ok s () := by
  obtain ⟨⟨hv, hr⟩, hstq, hpm⟩ := h
  have hawait (hs : s.me.stq = 0) : await (s.me.stq == 0) s = .ok s () := await_ok (by rw [hs]; rfl) s
  unfold State.release
  rw [State.waitRpq_ok hv hr, Res.bind_ok]
  cases sc with
  | dur =>
    dsimp only
    rw [hawait (hstq (by decide)), Res.bind_ok]
    exact if_pos (hpm rfl)
  | peer | fab | host | sys => exact hawait (hstq (by decide))
  | _ => rfl

/-- A store whose further wait passes does as one that has none. -/
theorem State.storeLanes_of_pre {s : State} {pre : State → Res Unit} (ls : List (Word × List Byte)) (n : Nat) (run : Bool)
    (h : Hint) (hpre : pre s = .ok s ()) : s.storeLanes ls n run h pre = s.storeLanes ls n run h := by
  unfold State.storeLanes alignAll State.protAll
  dsimp only
  split
  · rfl
  · simp only [Res.bind_ok]
    split
    · rfl
    · simp only [Res.bind_ok, hpre]

/-! ## Stores -/

/-- A store of the low n bytes of g(d), once its waits have passed (R102, R105). -/
theorem storeFrom_stores {i : Instr} {s : State} {n : Nat} {l : List Src} {d : Reg} {addr : State → Word} {rl : Option Scope}
    {h : Hint} {va : Word} (hi : exec i s = storeFrom n l d addr rl h s) (hva : addr s = va) (hp : Solo s) (ha : NoAmo s)
    (hm : Memory.wf s.mem = true) (hr : s.replay.busy = false) (hl : FullAll s l) (hd : Full s d) (hal : va.toNat % n = 0)
    (hrl : ∀ sc, rl = some sc → Released s sc) : Stores i s va n (s.me.greg d).val := by
  subst hva
  intro u key hpl
  have hwf := Placed.wf hpl hm
  have hplaced : PlacedAll s ([(addr s, toBytes n (s.me.greg d).val.toNat)].map fun l => (l.1, l.2.length)) .w u [key] := by
    rw [List.map_singleton, length_toBytes]
    exact placedAll_of_placed hpl
  obtain ⟨x, hx, hst⟩ := State.storeLanes_placedAll false h hp ha hr (n := n) (List.forall_mem_singleton.2 hal) hplaced
  obtain ⟨hpc, hmem, hregs, hstq, hothers, hagenda⟩ := hst.ended .s
  have hmem' : (ended .s x).mem = Memory.write u.mem key (toBytes n (s.me.greg d).val.toNat) := hmem
  refine ⟨ended .s x, hi.trans (issue_ok ?_), hpc, fun j hj => ?_, fun k hk => ?_, hregs, hstq, hothers, hagenda⟩
  · rw [State.preIssue_single hp, State.examine_store hl hd, Res.bind_ok]
    cases rl with
    | none => exact hx
    | some sc => exact (State.storeLanes_of_pre _ n false h (State.release_ok (hrl sc rfl))).trans hx
  · rw [hmem', Memory.get_write_toBytes hwf n key _ j hj]
  · rw [hmem', Memory.get_write_toBytes_other hwf _ hk]

/-- Every row of the table is a store of its size, in both forms. -/
theorem exec_storeTable : ∀ e ∈ storeTable,
    (∀ (d a : Reg) (c : BitVec 11), exec (e.1 d a c) = storeFrom e.2.2 [blk a] d (fun s => s.naddr a c) none .normal) ∧
    ∀ o : XStore, exec (e.2.1 o) =
      storeFrom e.2.2 o.addr.srcs o.d (fun s => s.xaddr o.addr) (if o.rl then some o.sc else none) o.hint := by
  unfold storeTable
  simp only [List.forall_mem_cons, List.not_mem_nil, IsEmpty.forall_iff, implies_true, and_true]
  refine ⟨?_, ?_, ?_, ?_⟩ <;> exact ⟨fun _ _ _ => rfl, fun _ => rfl⟩

/-- Settles O14: a store that is placed is one piece, written where its address translates. -/
theorem storeResults : Obligations.StoreResults := by
  unfold Obligations.StoreResults
  intro s hp ha hm hr e he
  obtain ⟨hnat, hx⟩ := exec_storeTable e he
  refine ⟨fun d a c hs hd hal => ?_, fun o hl hd hal hrl => ?_⟩
  · exact storeFrom_stores (congrFun (hnat d a c) s) rfl hp ha hm hr (List.forall_mem_singleton.2 hs) hd hal
      fun sc h => by cases h
  · refine storeFrom_stores (congrFun (hx o) s) rfl hp ha hm hr hl hd hal fun sc h => ?_
    cases hb : o.rl with
    | false => rw [hb] at h; cases h
    | true =>
      rw [hb] at h
      cases h
      exact hrl hb

/-! ## The checks of an access (R104, R107, R185) -/

/-- The address of an access that is not a multiple of its size raises ALIGN. -/
theorem alignAll_misaligned {va : Word} {n : Nat} (h : va.toNat % n ≠ 0) (s : State) : alignAll [va] n s = .trap s 0x05 va := by
  unfold alignAll
  rw [List.find?_cons_of_pos (p := fun a : Word => decide (a.toNat % n ≠ 0)) (decide_eq_true h)]

/-- An address beyond the machine's reach, or in the QLM block but in no window, is at no place (R104, R185). -/
theorem State.protect_none {s : State} {ta : Nat} {va : Word} (n : Nat) (w : Bool)
    (h : va.toNat / 2 ^ 56 ≠ 0 ∨ (inQlmBlock va = true ∧ qlmWindow (taQuad ta) va = none)) : s.protect ta va n w = none := by
  unfold State.protect
  by_cases h56 : slice va 56 8 ≠ 0
  · exact if_pos h56
  · rw [if_neg h56]
    rcases h with h | ⟨hq, hw⟩
    · refine absurd ?_ h56
      have hlt : va.toNat / 2 ^ 56 < 2 ^ 8 := by have := va.isLt; omega
      rwa [slice, Nat.shiftRight_eq_div_pow, Nat.mod_eq_of_lt hlt]
    · rw [hq, hw]
      rfl

/-- Such an access raises PROTECT. -/
theorem State.protAll_unreachable {s : State} {va : Word} {n : Nat} {w : Bool} (h : s.protect s.cur va n w = none) :
    s.protAll [(va, n)] w = .trap s 0x07 va := by
  unfold State.protAll
  rw [List.find?_cons_of_pos (by rw [h]; rfl)]

/-- A store of one piece raises ALIGN of its address. -/
theorem State.storeLanes_misaligned {s : State} {va : Word} {n : Nat} (bs : List Byte) (run : Bool) (h : Hint)
    (pre : State → Res Unit) (hal : va.toNat % n ≠ 0) : s.storeLanes [(va, bs)] n run h pre = .trap s 0x05 va := by
  unfold State.storeLanes
  simp only [List.map_cons, List.map_nil, alignAll_misaligned hal, Res.bind_trap]

/-- An aligned store of one piece raises PROTECT of its address. -/
theorem State.storeLanes_unreachable {s : State} {va : Word} {n : Nat} {bs : List Byte} (run : Bool) (h : Hint)
    (pre : State → Res Unit) (hal : va.toNat % n = 0) (hpr : s.protect s.cur va bs.length true = none) :
    s.storeLanes [(va, bs)] n run h pre = .trap s 0x07 va := by
  unfold State.storeLanes
  simp only [List.map_cons, List.map_nil, alignAll_ok (List.forall_mem_singleton.2 hal), Res.bind_ok,
    State.protAll_unreachable hpr, Res.bind_trap]

/-- So does an aligned load of one piece. -/
theorem State.loadLanes_unreachable {s : State} {va : Word} {n : Nat} (h : Hint) (pre : State → Res Unit)
    (hal : va.toNat % n = 0) (hpr : s.protect s.cur va n false = none) :
    s.loadLanes [(va, n)] n h pre = .trap s 0x07 va := by
  unfold State.loadLanes State.readLanes
  simp only [List.map_cons, List.map_nil, alignAll_ok (List.forall_mem_singleton.2 hal), Res.bind_ok,
    State.protAll_unreachable hpr, Res.bind_trap]

section
variable {i : Instr} {s : State} {n : Nat} {l : List Src} {d : Reg} {addr : State → Word} {h : Hint} (hp : Solo s)
  (hh : taHnd s.cur = false) (hl : FullAll s l)
include hp hh hl

theorem load_misaligned {signed aq : Bool} (hi : exec i s = loadTo n signed l (.loc d) addr h aq s)
    (hal : (addr s).toNat % n ≠ 0) : ∃ t, exec i s = .next t ∧ Faulted s t 0x05 (addr s) := by
  rw [hi]
  refine issue_faulted hp hh ?_
  rw [State.examine_load hl, Res.bind_ok, alignAll_misaligned hal, Res.bind_trap]

theorem load_unreachable {signed aq : Bool} (hi : exec i s = loadTo n signed l (.loc d) addr h aq s) (hd : Free s d)
    (hal : (addr s).toNat % n = 0) (hpr : s.protect s.cur (addr s) n false = none) :
    ∃ t, exec i s = .next t ∧ Faulted s t 0x07 (addr s) := by
  have halign : alignAll [addr s] n s = .ok s () := alignAll_ok (List.forall_mem_singleton.2 hal) s
  rw [hi]
  refine issue_faulted hp hh ?_
  rw [State.examine_load hl, Res.bind_ok, halign, Res.bind_ok]
  show ((s.freeG d).bind fun s _ => (Res.ok s ()).bind _) = _
  rw [State.freeG_ok hd, Res.bind_ok, Res.bind_ok]
  exact congrArg (Res.bind · _) (State.loadLanes_unreachable h _ hal hpr)

theorem store_misaligned (hi : exec i s = storeFrom n l d addr none h s) (hd : Full s d) (hal : (addr s).toNat % n ≠ 0) :
    ∃ t, exec i s = .next t ∧ Faulted s t 0x05 (addr s) := by
  rw [hi]
  refine issue_faulted hp hh ?_
  rw [State.examine_store hl hd, Res.bind_ok]
  exact State.storeLanes_misaligned _ false h _ hal

theorem store_unreachable (hi : exec i s = storeFrom n l d addr none h s) (hd : Full s d) (hal : (addr s).toNat % n = 0)
    (hpr : s.protect s.cur (addr s) n true = none) : ∃ t, exec i s = .next t ∧ Faulted s t 0x07 (addr s) := by
  rw [hi]
  refine issue_faulted hp hh ?_
  rw [State.examine_store hl hd, Res.bind_ok]
  exact State.storeLanes_unreachable false h _ hal (by rw [length_toBytes]; exact hpr)

end

/-- Settles O15: ALIGN comes first, then PROTECT, for loads and stores alike. -/
theorem accessChecks : Obligations.AccessChecks := by
  unfold Obligations.AccessChecks
  intro s d a c hp hh ha hd hf
  have hl : FullAll s [blk a] := List.forall_mem_singleton.2 ha
  have hload (e) (he : e ∈ loadTable) := (exec_loadTable e he).2.1 d a c s
  have hstore (e) (he : e ∈ storeTable) := congrFun ((exec_storeTable e he).1 d a c) s
  exact ⟨fun e he hal => load_misaligned hp hh hl (hload e he) hal,
    fun e he hal => store_misaligned hp hh hl (hstore e he) hd hal,
    fun e he hal h => load_unreachable hp hh hl (hload e he) hf hal (State.protect_none _ _ h),
    fun e he hal h => store_unreachable hp hh hl (hstore e he) hd hal (State.protect_none _ _ h)⟩

end Sys2Proof.Machine
end

section
/-! SUPPORT. END: what acts once a slot has been emptied leaves it empty (R34, R113, R176, R226, R341). -/

namespace Sys2Proof.Machine

open Sys2Proof.Claims

/-- A slot that holds no task and no activation (R34). -/
def Vacant (ta : Nat) (s : State) : Prop := (s.slot ta).st = .idle ∧ (s.slot ta).uid = 0

namespace Vacant

variable {ta : Nat} {s t : State}

/-! ## Changes elsewhere -/

theorem of_slot (h : Vacant ta s) (hs : t.slot ta = s.slot ta) : Vacant ta t := by
  unfold Vacant
  rw [hs]
  exact h

/-- A change of nothing in the slots. -/
theorem of_slots (h : Vacant ta s) (hs : t.slots = s.slots) : Vacant ta t := h.of_slot (congrArg (Store.get ({} : Slot) · ta) hs)

theorem setSlot_self (s : State) (ta : Nat) : Vacant ta (s.setSlot ta {}) := by
  unfold Vacant
  rw [State.slot_setSlot]
  exact ⟨rfl, rfl⟩

/-- What reaches only slots that are not idle passes the empty one by. -/
theorem modSlot_busy (h : Vacant ta s) {tb : Nat} (f : Slot → Slot) (hb : (s.slot tb).st ≠ .idle) : Vacant ta (s.modSlot tb f) :=
  h.of_slot (State.slot_modSlot_other s f fun e => hb (e ▸ h.1))

theorem modSlot_same (h : Vacant ta s) (tb : Nat) {f : Slot → Slot} (hf : ∀ sl, (f sl).st = sl.st ∧ (f sl).uid = sl.uid) :
    Vacant ta (s.modSlot tb f) := by
  by_cases e : ta = tb
  · subst e
    unfold Vacant
    rw [State.slot_modSlot, (hf _).1, (hf _).2]
    exact h
  · exact h.of_slot (State.slot_modSlot_other s f e)

/-- What reaches a task and changes neither its state nor its number. -/
theorem modTask (h : Vacant ta s) (tg : Target) {f : Slot → Slot} (hf : ∀ sl, (f sl).st = sl.st ∧ (f sl).uid = sl.uid) :
    Vacant ta (s.modTask tg f) := by
  unfold State.modTask
  extract_lets x
  have hx : Vacant ta x := by
    refine h.of_slots ?_
    unfold x
    split <;> rfl
  split
  · exact hx.modSlot_same _ hf
  · exact hx.of_slots rfl
  · exact hx

theorem foldl {α : Type} {f : State → α → State} (h : Vacant ta s) (hf : ∀ x a, Vacant ta x → Vacant ta (f x a)) (l : List α) :
    Vacant ta (l.foldl f s) := by
  induction l generalizing s with
  | nil => exact h
  | cons a l ih => exact ih (hf s a h)

/-! ## Messages (R19, R23, R341) -/

theorem drop (h : Vacant ta s) (ctx : Nat) : Vacant ta (s.drop ctx) := by
  unfold State.drop
  split
  · exact h
  · exact h.of_slots rfl

theorem rxPut (h : Vacant ta s) (core : Nat) (m : RxMsg) : Vacant ta (s.rxPut core m) := h.of_slot ((s.rxPut_spec core m).1 ta)

theorem rxSaved (h : Vacant ta s) (core : Nat) (m : RxMsg) : Vacant ta (s.rxSaved core m) := by
  unfold State.rxSaved
  split
  · exact h.drop _
  · split
    · exact h.of_slots rfl
    · exact h.rxPut ..

/-- A message that its core takes lands in no idle slot. -/
theorem rxGive (h : Vacant ta s) (core : Nat) (m : RxMsg) : Vacant ta (s.rxGive core m) := by
  unfold State.rxGive
  split
  · dsimp only
    split
    · exact h.rxSaved ..
    · next hb =>
      split
      · exact h.modSlot_busy _ fun hi => hb (Or.inl hi)
      · exact h.rxPut ..
  · exact h.rxPut ..

theorem rxArrive (h : Vacant ta s) (core : Nat) (m : RxMsg) (who : Option Nat) : Vacant ta (s.rxArrive core m who) := by
  unfold State.rxArrive
  split
  · exact h.rxGive ..
  · unfold State.rxHold
    dsimp only
    split <;> exact h.of_slots rfl

theorem rxRelease (core : Nat) (l : List (RxMsg × Option Nat)) (h : Vacant ta s) : Vacant ta (s.rxRelease core l) := by
  induction l generalizing s with
  | nil => exact h.of_slots rfl
  | cons p rest ih =>
    obtain ⟨m, b⟩ := p
    unfold State.rxRelease
    dsimp only
    split
    · have hg := (h.of_slots (t := s.modCore core fun c => { c with held := [] }) rfl).rxGive core m
      cases b with
      | none => exact ih hg
      | some u => exact ih (hg.modTask ⟨0, u⟩ fun _ => ⟨rfl, rfl⟩)
    · exact h.of_slots rfl

theorem rxLeft (h : Vacant ta s) (core : Nat) : Vacant ta (s.rxLeft core) :=
  (rxRelease core _ (h.of_slot (s.rxPack_slot core ta))).of_slots rfl

theorem flushMail (h : Vacant ta s) (sender : Word) (tb : Nat) : Vacant ta (s.flushMail sender tb) := by
  refine foldl (h.of_slots (t := { s with agenda := s.agenda.filter fun i => !isMail sender tb i }) rfl) (fun x i hx => ?_) _
  split
  · exact hx.rxArrive ..
  · exact hx

/-- The messages of an activation that has ended go out (R226). -/
theorem release1 (h : Vacant ta s) (o : Outgoing) : Vacant ta (s.release1 o) := by
  cases o with
  | event i => exact h.of_slots rfl
  | am core m => exact (h.flushMail ..).rxArrive ..

/-! ## The completion of a unit (R172, R176) -/

theorem note (h : Vacant ta s) (r : TraceRec) : Vacant ta (s.note r) := h.of_slot (s.slot_note r ta)

theorem replayEnd (h : Vacant ta s) (rp : Bool) (code : Nat) : Vacant ta (s.replayEnd rp code) := by
  unfold State.replayEnd
  split
  · exact h.of_slots rfl
  · exact h

theorem pushDeque (h : Vacant ta s) (core : Nat) (w : Work) : Vacant ta (s.pushDeque core w) := by
  refine h.of_slots ?_
  unfold State.pushDeque
  dsimp only
  split <;> split <;> rfl

/-- A completion tag goes to a live task only (R176). -/
theorem doneTag (h : Vacant ta s) (ctx : Nat) (t : Word) (tag : Nat) (token : Bool) : Vacant ta (s.doneTag ctx t tag token) := by
  unfold State.doneTag
  dsimp only
  split
  · exact h.drop _
  · split
    · exact h
    · split
      · exact h.drop _
      · next hb => exact h.modSlot_busy _ fun hi => hb (Or.inl hi)

theorem job (h : Vacant ta s) (j : Job) : Vacant ta (s.job j).1 := by
  cases j with
  | ready w core =>
    unfold State.job
    dsimp only
    split
    · exact (h.replayEnd ..).note _
    · split
      · exact h.of_slots rfl
      · exact h.pushDeque ..
  | dec ctx addr n mark core =>
    refine h.of_slots ?_
    unfold State.job
    dsimp only
    split
    · split <;> rfl
    · split <;> rfl
  | done ctx addr t token core =>
    unfold State.job
    dsimp only
    split
    · exact h
    · exact h.doneTag ..
    · exact h.of_slots rfl
    · exact h

theorem jobs (n : Nat) (js : List Job) (h : Vacant ta s) : Vacant ta (State.jobs n js s) := by
  induction n generalizing js s with
  | zero => exact h
  | succ n ih =>
    cases js with
    | nil => exact h
    | cons j js => exact ih _ (h.job j)

theorem finishUnit (h : Vacant ta s) (u : UnitSt) (core : Nat) : Vacant ta (s.finishUnit u core) := by
  unfold State.finishUnit
  extract_lets bad x y z
  have hx : Vacant ta x := h.of_slots rfl
  have hy : Vacant ta y := by
    unfold y
    split
    · split
      · exact hx.of_slots rfl
      · exact hx
    · exact hx
  exact jobs _ _ (hy.replayEnd ..)

/-! ## The end of a task or an activation (R113, R226) -/

theorem freeSlot (s : State) (ta : Nat) : Vacant ta (s.freeSlot ta) := (setSlot_self ..).rxLeft _

theorem endTask (s : State) (ta : Nat) (killed : Bool) : Vacant ta (s.endTask ta killed) := by
  unfold State.endTask
  dsimp only
  split
  · split
    · exact (freeSlot ..).finishUnit ..
    · exact freeSlot ..
  · exact freeSlot ..

theorem endActivation (s : State) (ta : Nat) : Vacant ta (s.endActivation ta) :=
  ((setSlot_self ..).foldl (fun _ o h => h.release1 o) _).rxLeft _

end Vacant

/-- Once its waits have passed END ends the task, or the activation, of its slot (R113). -/
theorem execEndTask_ends {s : State} (hc : Clear s) (hs : s.me.stq = 0) : exec .endTask s =
    .next (if taHnd s.cur then (s.countIssue .s).endActivation s.cur else (s.countIssue .s).endTask s.cur false) := by
  obtain ⟨hp, ⟨hv, hr⟩, ha⟩ := hc
  show execEndTask s = _
  unfold execEndTask
  rw [State.preIssue_single hp, State.waitRpq_ok hv hr, Res.bind_ok, State.waitAmo_ok ha, Res.bind_ok,
    await_ok (by rw [hs]; rfl)]
  dsimp only
  rw [State.countIssue_cur]

/-- Settles O29: END empties the slot, and what then acts on messages and on the unit passes an idle slot by. -/
theorem endEmptiesSlot : Obligations.EndEmptiesSlot := by
  unfold Obligations.EndEmptiesSlot
  intro s hc hs
  refine ⟨_, execEndTask_ends hc hs, ?_⟩
  split
  · exact Vacant.endActivation ..
  · exact Vacant.endTask ..

end Sys2Proof.Machine
end

section
/-! SUPPORT. Lane-wise instructions: the lanes that a destination gets, its poison, the flags and the LFSR (R116 to R123), and
the moves of lanes (R122, R129, R130). -/

namespace Sys2Proof.Machine

open Sys2Proof.Claims

/-! ## What a slot's updates leave -/

theorem State.me_putFp (s : State) (l : W32) (f : FpFlags) :
    (s.putFp l f).me = { s.me with lfsr := l, fpctl := s.me.fpctl ||| f.bits } := by
  rw [State.putFp, State.setFlags, State.me_modMe, State.me_modMe]

@[simp] theorem State.vreg_putFp (s : State) (l : W32) (f : FpFlags) (r : VReg) : (s.putFp l f).vreg r = s.vreg r := by
  simp only [State.vreg, State.me_putFp]

@[simp] theorem State.vpois_putFp (s : State) (l : W32) (f : FpFlags) (r : VReg) : (s.putFp l f).vpois r = s.vpois r := by
  simp only [State.vpois, State.me_putFp]

@[simp] theorem State.nextPc_putFp (s : State) (l : W32) (f : FpFlags) : (s.putFp l f).nextPc = s.nextPc := by
  rw [State.nextPc, State.me_putFp]
  rfl

@[simp] theorem State.nextPc_putV (s : State) (d : VReg) (x : VWord) (p : Bool) : (s.putV d x p).nextPc = s.nextPc :=
  State.nextPc_modMe s rfl rfl

theorem State.me_putV (s : State) (d : VReg) (x : VWord) (p : Bool) : (s.putV d x p).me =
    { s.me with
      v := s.me.v.set d.toNat x d.isLt
      vpois := if p then s.me.vpois ||| (1#32 <<< d.toNat) else s.me.vpois &&& ~~~(1#32 <<< d.toNat) } := State.me_modMe ..

theorem local_setFlags {s t : State} (h : Local s t) (f : FpFlags) : Local s (t.setFlags f) := h.modMe _

theorem local_putFp {s t : State} (h : Local s t) (l : W32) (f : FpFlags) : Local s (t.putFp l f) :=
  local_setFlags (t := t.modMe fun sl => { sl with lfsr := l }) (h.modMe _) f

theorem local_putV {s t : State} (h : Local s t) (d : VReg) (x : VWord) (p : Bool) : Local s (t.putV d x p) := h.modMe _

theorem local_countLanes (s : State) (m : VMask) (n : Nat) : Local s (s.countLanes m n) := (Local.refl s).countMe ..

/-- The next PC depends on the slot alone. -/
theorem State.nextPc_of_me {s x : State} (h : x.me = s.me) : x.nextPc = s.nextPc := by
  rw [State.nextPc, h]
  rfl

@[simp] theorem State.me_countLanes (s : State) (m : VMask) (n : Nat) : (s.countLanes m n).me = s.me := State.me_countMe ..

/-! ## The lanes of a destination (R116 to R118) -/

theorem lane_lt (w : Nat) (x : VWord) (j : Nat) : lane w x j < 2 ^ w := Nat.mod_lt _ (by positivity)

/-- The lanes of a register that was made of them. -/
theorem lane_ofLanes_range (w : Nat) (g : Nat → Nat) {j : Nat} (hj : j < 2048 / w) :
    lane w (ofLanes w ((List.range (2048 / w)).map g)) j = g j % 2 ^ w := by
  have hlen : w * ((List.range (2048 / w)).map g).length ≤ 2048 := by
    rw [List.length_map, List.length_range]
    exact Nat.mul_div_le ..
  rw [lane_ofLanes hlen, List.getD_eq_getElem _ _ (by simpa using hj), List.getElem_map, List.getElem_range]

/-- Lane j of a destination: the result where it is active, else 0 or the old lane (R117). -/
def mergedLane (s : State) (d : VReg) (w : Nat) (m : VMask) (g : Nat → Nat) (j : Nat) : Nat :=
  if On s m j then g j else if m.z then 0 else lane w (s.vreg d) j

/-- A destination written lane by lane, and its poison (R117, R118). -/
def mergedReg (s : State) (d : VReg) (w : Nat) (m : VMask) (g : Nat → Nat) : VWord :=
  ofLanes w ((List.range (2048 / w)).map (mergedLane s d w m g))
def mergedPois (s : State) (d : VReg) (n : Nat) (m : VMask) (p : Bool) : Bool := p || (s.survives m n && s.vpois d)

theorem lane_mergedReg (s : State) (d : VReg) (w : Nat) (m : VMask) (g : Nat → Nat) {j : Nat} (hj : j < 2048 / w) :
    lane w (mergedReg s d w m g) j = if On s m j then g j % 2 ^ w else if m.z then 0 else lane w (s.vreg d) j := by
  rw [mergedReg, lane_ofLanes_range w _ hj, mergedLane, apply_ite (· % 2 ^ w), apply_ite (· % 2 ^ w), Nat.zero_mod,
    Nat.mod_eq_of_lt (lane_lt ..)]

/-- Old lanes survive when the mask merges and leaves a lane inactive (R118). -/
theorem State.survives_iff (s : State) (m : VMask) (n : Nat) :
    s.survives m n = true ↔ m.en = true ∧ m.z = false ∧ ∃ j, j < n ∧ On s m j = false := by
  simp [State.survives, State.laneOn, On, bit, and_assoc]

theorem mergedPois_iff (s : State) (d : VReg) (n : Nat) (m : VMask) (p : Bool) : mergedPois s d n m p = true ↔
    p = true ∨ (m.en = true ∧ m.z = false ∧ (∃ j, j < n ∧ On s m j = false) ∧ s.vpois d = true) := by
  rw [mergedPois, Bool.or_eq_true, Bool.and_eq_true, State.survives_iff, and_assoc, and_assoc]

/-- The result of a lane, in a list of the results of the active lanes. -/
theorem getD_lanes (s : State) (m : VMask) (g : Nat → Nat) {n i : Nat} (hi : i < n) :
    ((List.range n).map fun j => if On s m j then some (g j) else none).getD i none = if On s m i then some (g i) else none := by
  rw [List.getD_eq_getElem _ _ (by simpa using hi), List.getElem_map, List.getElem_range]

/-- The results of the active lanes are written over the old lanes; what has happened outside the slot does not matter. -/
theorem State.putLanes_eq {s y : State} (h : y.me = s.me) (d : VReg) (w : Nat) (m : VMask) (g : Nat → Nat) (p : Bool) :
    y.putLanes d w m ((List.range (2048 / w)).map fun j => if On s m j then some (g j) else none) p =
      y.putV d (mergedReg s d w m g) (mergedPois s d (2048 / w) m p) := by
  have hv : y.vreg d = s.vreg d := by simp only [State.vreg, h]
  have hp : y.vpois d = s.vpois d := by simp only [State.vpois, h]
  have hs : y.survives m (2048 / w) = s.survives m (2048 / w) := by
    simp only [State.survives, State.laneOn, State.kreg, h]
  unfold State.putLanes
  dsimp only
  rw [hv, hp, hs]
  refine congrArg (fun l => y.putV d (ofLanes w l) _) (List.map_congr_left fun i hi => ?_)
  rw [getD_lanes s m g (List.mem_range.1 hi), mergedLane]
  cases On s m i <;> rfl

/-! ## A run over the lanes (R66, R119) -/

/-- The LFSR after an instruction with k active lanes (R66). -/
def lfsrAfter (s : State) (rm : Rm) (k : Nat) : W32 := if s.me.mode rm = .rsr then lfsrSteps k s.me.lfsr else s.me.lfsr

/-- The flags that the active lanes raise. -/
def laneFlags (s : State) (rm : Rm) (m : VMask) (n : Nat) (f : FpEnv → Nat → FpRes) : FpFlags :=
  allFlags ((onLanes s m n).map fun j => (f (laneEnv s rm m j) j).flags)

theorem laneRun_lanes (s : State) (rm : Rm) (m : VMask) (n : Nat) (f : FpEnv → Nat → FpRes) :
    laneRun (s.fpEnv rm) (s.laneOn m) f (List.range n) s.me.lfsr =
      ((List.range n).map fun j => if On s m j then some (f (laneEnv s rm m j) j).bits else none,
        lfsrAfter s rm (onLanes s m n).length, laneFlags s rm m n f) := by
  have h := laneRun_range (s.fpEnv rm) (s.laneOn m) f s.me.lfsr n 0
  have hl : (if (s.fpEnv rm).mode = .rsr then lfsrSteps (below (s.laneOn m) 0) s.me.lfsr else s.me.lfsr) = s.me.lfsr :=
    ite_self _
  rw [hl, Nat.zero_add, ← List.range_eq_range'] at h
  exact h

/-! ## Lane-wise instructions (R122) -/

/-- An instruction that ends in x is lane-wise when x has the lanes, the poison, the flags and the LFSR of one. -/
theorem laneWise_of_ended {i : Instr} {s x : State} {d : VReg} {ty : Ty} {rm : Rm} {m : VMask} {srcs : List VReg}
    {f : FpEnv → Nat → FpRes} (hi : exec i s = .next (ended .v x)) (hk : KeptBy s x { vs := [d], fp := true })
    (hloc : Local s x) (hpc : x.nextPc = s.nextPc)
    (hv : ∀ j, j < 2048 / ty.width → lane ty.width (x.vreg d) j =
      if On s m j then (f (laneEnv s rm m j) j).bits % 2 ^ ty.width else if m.z then 0 else lane ty.width (s.vreg d) j)
    (hp : x.vpois d = mergedPois s d (2048 / ty.width) m (srcs.any fun r => s.vpois r))
    (hf : x.me.fpctl = s.me.fpctl ||| (laneFlags s rm m (2048 / ty.width) f).bits)
    (hl : x.me.lfsr = lfsrAfter s rm (onLanes s m (2048 / ty.width)).length) : LaneWise i s d ty rm m srcs f := by
  refine ⟨_, hi, (ended_pc ..).trans hpc, hk.ended .v, (hloc.countIssue .v).retireTo _, fun j hj => ?_, ?_, ?_, ?_⟩
  · rw [ended_vreg, hv j hj]
  · rw [ended_vpois, hp, mergedPois_iff, List.any_eq_true]
  · rw [ended_fpctl, hf]
    rfl
  · rw [ended_lfsr, hl]
    rfl

/-- What a lane-wise function leaves before it ends. -/
def vecState (s : State) (d : VReg) (ty : Ty) (rm : Rm) (m : VMask) (srcs : List VReg) (f : FpEnv → Nat → FpRes) : State :=
  ((s.countLanes m (2048 / ty.width)).putV d (mergedReg s d ty.width m fun j => (f (laneEnv s rm m j) j).bits)
    (mergedPois s d (2048 / ty.width) m (srcs.any fun r => s.vpois r))).putFp
    (lfsrAfter s rm (onLanes s m (2048 / ty.width)).length) (laneFlags s rm m (2048 / ty.width) f)

theorem vecOp_ends {s : State} (hp : Solo s) (d : VReg) (ty : Ty) (rm : Rm) (m : VMask) (srcs : List VReg)
    (op : State → FpEnv → Nat → FpRes) :
    vecOp d ty rm m srcs op s = .next (ended .v (vecState s d ty rm m srcs (op s))) := by
  refine issue_ok ?_
  rw [State.preIssue_single hp]
  dsimp only
  rw [laneRun_lanes, State.putLanes_eq (State.me_countLanes ..)]
  rfl

/-- A lane-wise function of the model computes what its lanes are said to hold. -/
theorem laneWise_of_vecOp {i : Instr} {s : State} {d : VReg} {ty : Ty} {rm : Rm} {m : VMask} {srcs : List VReg}
    {op : State → FpEnv → Nat → FpRes} {f : FpEnv → Nat → FpRes} (hp : Solo s)
    (hi : ∀ s, exec i s = vecOp d ty rm m srcs op s) (hop : ∀ env j, op s env j = f env j) :
    LaneWise i s d ty rm m srcs f := by
  obtain rfl : op s = f := funext fun env => funext (hop env)
  refine laneWise_of_ended ((hi s).trans (vecOp_ends hp ..))
    ((((KeptBy.refl s _).countMe _ _).putV _ _ (List.mem_singleton_self d)).putFp _ _ rfl)
    (local_putFp (local_putV (local_countLanes ..) ..) ..) ?_ (fun j hj => ?_) ?_ ?_ ?_
  · rw [vecState, State.nextPc_putFp, State.nextPc_putV, State.nextPc_of_me (State.me_countLanes ..)]
  · rw [vecState, State.vreg_putFp, State.vreg_putV_same, lane_mergedReg _ _ _ _ _ hj]
  · rw [vecState, State.vpois_putFp, State.vpois_putV_same]
  · rw [vecState, State.me_putFp, State.me_putV, State.me_countLanes]
  · rw [vecState, State.me_putFp]

/-! ## The functions of VARITH (R122, R123) -/

theorem intRes_eq {w : Nat} {i : Int} {x : BitVec w} (h : BitVec.ofInt w i = x) : intRes w i = exactly x := by
  rw [intRes, ofInt, h]
  rfl

theorem intRes_asInt {w x : Nat} (h : x < 2 ^ w) : intRes w (asInt w x) = ⟨x, {}⟩ := by
  rw [intRes, ofInt_asInt h]

/-- A pattern that fits its lane is the number that it stands for. -/
theorem toNat_ofNat_lane {w x : Nat} (h : x < 2 ^ w) : (BitVec.ofNat w x).toNat = x := by
  rw [BitVec.toNat_ofNat, Nat.mod_eq_of_lt h]

/-- Function n of the model is that of a row of the table: by the row's XV form, by its native word if it has one, and on
lanes of the type's width. -/
def RowOf (n : Nat) (e : (V2 → Instr) × Option (VReg → VReg → VReg → Ty → Instr) × (Ty → FpEnv → Nat → Nat → FpRes)) : Prop :=
  (∀ o s, exec (e.1 o) s = varith2 n o s) ∧
  (∀ i ∈ e.2.1, ∀ d a b ty s, exec (i d a b ty) s = vnative n d a b ty s) ∧
  ∀ ty env x y, x < 2 ^ ty.width → y < 2 ^ ty.width → arith2 n ty env x y = e.2.2 ty env x y

/-- A row whose value is that of the model, with a native word. -/
theorem rowOf_native {n : Nat} {e : V2 → Instr} {i : VReg → VReg → VReg → Ty → Instr} {f : Ty → FpEnv → Nat → Nat → FpRes}
    (he : ∀ o s, exec (e o) s = varith2 n o s) (hi : ∀ d a b ty s, exec (i d a b ty) s = vnative n d a b ty s)
    (hf : ∀ ty env x y, x < 2 ^ ty.width → y < 2 ^ ty.width → arith2 n ty env x y = f ty env x y) : RowOf n (e, some i, f) :=
  ⟨he, fun _ h => Option.some.inj h ▸ hi, hf⟩

/-- A row with no native word. -/
theorem rowOf_extended {n : Nat} {e : V2 → Instr} {f : Ty → FpEnv → Nat → Nat → FpRes}
    (he : ∀ o s, exec (e o) s = varith2 n o s)
    (hf : ∀ ty env x y, x < 2 ^ ty.width → y < 2 ^ ty.width → arith2 n ty env x y = f ty env x y) : RowOf n (e, none, f) :=
  ⟨he, fun _ h => absurd h (Option.not_mem_none _), hf⟩

theorem intRes_add (w x y : Nat) : intRes w (asInt w x + asInt w y) = exactly (BitVec.ofNat w x + BitVec.ofNat w y) :=
  intRes_eq (by rw [asInt, asInt, BitVec.ofInt_add, BitVec.ofInt_toInt, BitVec.ofInt_toInt])

theorem intRes_mul (w x y : Nat) : intRes w (asInt w x * asInt w y) = exactly (BitVec.ofNat w x * BitVec.ofNat w y) :=
  intRes_eq (by rw [asInt, asInt, BitVec.ofInt_mul, BitVec.ofInt_toInt, BitVec.ofInt_toInt])

theorem intRes_neg (w x : Nat) : intRes w (-asInt w x) = exactly (-BitVec.ofNat w x) :=
  intRes_eq (by rw [asInt, BitVec.ofInt_neg, BitVec.ofInt_toInt])

theorem intRes_sub (w x y : Nat) : intRes w (asInt w x - asInt w y) = exactly (BitVec.ofNat w x - BitVec.ofNat w y) :=
  intRes_eq (by rw [asInt, asInt, sub_eq_add_neg, BitVec.ofInt_add, BitVec.ofInt_neg, BitVec.ofInt_toInt, BitVec.ofInt_toInt,
    BitVec.sub_eq_add_neg])

theorem intRes_min {w x y : Nat} (hx : x < 2 ^ w) (hy : y < 2 ^ w) : intRes w (min (asInt w x) (asInt w y)) =
    if (BitVec.ofNat w x).toInt ≤ (BitVec.ofNat w y).toInt then ⟨x, {}⟩ else ⟨y, {}⟩ := by
  rw [min_def, apply_ite (intRes w), intRes_asInt hx, intRes_asInt hy]
  rfl

theorem intRes_max {w x y : Nat} (hx : x < 2 ^ w) (hy : y < 2 ^ w) : intRes w (max (asInt w x) (asInt w y)) =
    if (BitVec.ofNat w y).toInt ≤ (BitVec.ofNat w x).toInt then ⟨x, {}⟩ else ⟨y, {}⟩ := by
  rw [max_comm, max_def, apply_ite (intRes w), intRes_asInt hx, intRes_asInt hy]
  rfl

/-- The rows of the table of two-source functions are functions of the model. -/
theorem v2Table_rows : ∀ e ∈ v2Table, ∃ n, RowOf n e := by
  have exact_of_toNat {w n : Nat} {x : BitVec w} (h : x.toNat = n) : (⟨n, {}⟩ : FpRes) = exactly x := by rw [exactly, h]
  unfold v2Table
  simp only [List.forall_mem_cons]
  refine ⟨⟨0, rowOf_native (fun _ _ => rfl) (fun _ _ _ _ _ => rfl) fun ty env x y _ _ => ?add⟩,
    ⟨1, rowOf_native (fun _ _ => rfl) (fun _ _ _ _ _ => rfl) fun ty env x y _ _ => ?sub⟩,
    ⟨2, rowOf_native (fun _ _ => rfl) (fun _ _ _ _ _ => rfl) fun ty env x y _ _ => ?mul⟩,
    ⟨3, rowOf_extended (fun _ _ => rfl) fun _ _ _ _ _ _ => rfl⟩,
    ⟨4, rowOf_native (fun _ _ => rfl) (fun _ _ _ _ _ => rfl) fun ty env x y hx hy => ?min⟩,
    ⟨5, rowOf_native (fun _ _ => rfl) (fun _ _ _ _ _ => rfl) fun ty env x y hx hy => ?max⟩,
    ⟨17, rowOf_extended (fun _ _ => rfl) fun ty _ x y hx _ => ?shl⟩,
    ⟨18, rowOf_extended (fun _ _ => rfl) fun ty _ x y hx _ => ?shr⟩,
    ⟨19, rowOf_extended (fun _ _ => rfl) fun ty _ x y _ _ => ?sra⟩,
    ⟨20, rowOf_native (fun _ _ => rfl) (fun _ _ _ _ _ => rfl) fun ty _ x y hx hy => ?and⟩,
    ⟨21, rowOf_native (fun _ _ => rfl) (fun _ _ _ _ _ => rfl) fun ty _ x y hx hy => ?or⟩,
    ⟨22, rowOf_native (fun _ _ => rfl) (fun _ _ _ _ _ => rfl) fun ty _ x y hx hy => ?xor⟩,
    ⟨23, rowOf_extended (fun _ _ => rfl) fun _ _ _ _ _ _ => rfl⟩, List.forall_mem_nil _⟩
  case add => exact congrArg (ite _ · _) (intRes_add ..)
  case sub => exact congrArg (ite _ · _) (intRes_sub ..)
  case mul => exact congrArg (ite _ · _) (intRes_mul ..)
  case min => exact congrArg (ite _ · _) (intRes_min hx hy)
  case max => exact congrArg (ite _ · _) (intRes_max hx hy)
  case shl => exact exact_of_toNat (by rw [BitVec.toNat_shiftLeft, toNat_ofNat_lane hx, Nat.shiftLeft_eq])
  case shr => exact exact_of_toNat (by rw [BitVec.toNat_ushiftRight, toNat_ofNat_lane hx, Nat.shiftRight_eq_div_pow])
  case sra =>
    refine intRes_eq ?_
    rw [asInt, BitVec.sshiftRight, Int.shiftRight_eq_div_pow]
    norm_cast
  case and => exact exact_of_toNat (by rw [BitVec.toNat_and, toNat_ofNat_lane hx, toNat_ofNat_lane hy])
  case or => exact exact_of_toNat (by rw [BitVec.toNat_or, toNat_ofNat_lane hx, toNat_ofNat_lane hy])
  case xor => exact exact_of_toNat (by rw [BitVec.toNat_xor, toNat_ofNat_lane hx, toNat_ofNat_lane hy])

theorem intRes_abs (w x : Nat) : intRes w (asInt w x).natAbs =
    if (BitVec.ofNat w x).toInt < 0 then exactly (-BitVec.ofNat w x) else exactly (BitVec.ofNat w x) := by
  rw [← asInt]
  split
  · next h => rw [Int.ofNat_natAbs_of_nonpos (Int.le_of_lt h), intRes_neg]
  · next h =>
    rw [Int.natAbs_of_nonneg (Int.not_lt.1 h)]
    exact intRes_eq (BitVec.ofInt_toInt)

/-- The rows of the table of one-source functions are functions of the model. -/
theorem v1Table_rows : ∀ e ∈ v1Table, ∃ n, (∀ o s, exec (e.1 o) s = varith1 n o s) ∧
    ∀ ty env x, arith1 n ty env x = e.2 ty env x := by
  unfold v1Table
  simp only [List.forall_mem_cons]
  exact ⟨⟨6, fun _ _ => rfl, fun ty _ x => congrArg (ite _ · _) (intRes_abs ty.width x)⟩,
    ⟨7, fun _ _ => rfl, fun ty _ x => congrArg (ite _ · _) (intRes_neg ty.width x)⟩,
    ⟨8, fun _ _ => rfl, fun _ _ _ => rfl⟩, ⟨12, fun _ _ => rfl, fun _ _ _ => rfl⟩, ⟨13, fun _ _ => rfl, fun _ _ _ => rfl⟩,
    ⟨14, fun _ _ => rfl, fun _ _ _ => rfl⟩, ⟨15, fun _ _ => rfl, fun _ _ _ => rfl⟩, List.forall_mem_nil _⟩

theorem laneWise_varith2 {i : Instr} {s : State} {n : Nat} {o : V2} {f : Ty → FpEnv → Nat → Nat → FpRes} (hp : Solo s)
    (hi : ∀ s, exec i s = varith2 n o s)
    (hf : ∀ ty env x y, x < 2 ^ ty.width → y < 2 ^ ty.width → arith2 n ty env x y = f ty env x y) :
    LaneWise i s o.d o.ty o.rm o.m [o.a, o.b] fun env j =>
      f o.ty env (lane o.ty.width (s.vreg o.a) j) (lane o.ty.width (s.vreg o.b) j) :=
  laneWise_of_vecOp hp hi fun _ _ => hf _ _ _ _ (lane_lt ..) (lane_lt ..)

/-- Settles O17: the rows of the tables are the functions of the model, which are lane-wise. -/
theorem vectorArithmetic : Obligations.VectorArithmetic := by
  unfold Obligations.VectorArithmetic
  intro s hp
  refine ⟨fun e he => ?_, fun e he o => ?_, ?_⟩
  · obtain ⟨n, hx, hnat, hf⟩ := v2Table_rows e he
    exact ⟨fun o => laneWise_varith2 hp (hx o) hf, fun i hi d a b ty => laneWise_varith2 hp (hnat i hi d a b ty) hf⟩
  · obtain ⟨n, hx, hf⟩ := v1Table_rows e he
    exact laneWise_of_vecOp hp (hx o) fun _ _ => hf ..
  · simp only [List.forall_mem_cons]
    have hfma (o s) : exec (.vfma o) s = varith3 false false o s := rfl
    have hfms (o s) : exec (.vfms o) s = varith3 false true o s := rfl
    have hfnma (o s) : exec (.vfnma o) s = varith3 true false o s := rfl
    exact ⟨fun o => laneWise_of_vecOp hp (hfma o) fun _ _ => rfl, fun o => laneWise_of_vecOp hp (hfms o) fun _ _ => rfl,
      fun o => laneWise_of_vecOp hp (hfnma o) fun _ _ => rfl, List.forall_mem_nil _⟩

/-! ## Moves of lanes (R122, R129, R130) -/

/-- Lanes that raise no flag raise none together. -/
theorem laneFlags_none (s : State) (rm : Rm) (m : VMask) (n : Nat) {f : FpEnv → Nat → FpRes} (h : ∀ env j, (f env j).flags = {}) :
    laneFlags s rm m n f = {} := by
  unfold laneFlags allFlags
  simp only [h]
  induction onLanes s m n with
  | nil => rfl
  | cons j l ih =>
    rw [List.map_cons, List.foldr_cons, ih]
    rfl

theorem mode_rne_ne_rsr (s : State) : s.me.mode .rne ≠ .rsr := fun h => Rm.noConfusion h

/-- VBCAST writes the low bits of g(a) into the active lanes (R130). -/
theorem laneWise_vbcast {s : State} {o : VBcastOp} (hp : Solo s) (hs : Full s o.a.reg) :
    LaneWise (.vbcast o) s o.d o.ty .rne o.m [] fun _ _ => ⟨(s.me.greg o.a.reg).val.toNat, {}⟩ := by
  have hi : execVbcast o s = .next (ended .v ((s.countLanes o.m (2048 / o.ty.width)).putV o.d
      (mergedReg s o.d o.ty.width o.m fun _ => (s.g o.a.reg).toNat % 2 ^ o.ty.width)
      (mergedPois s o.d (2048 / o.ty.width) o.m false))) := by
    refine issue_ok ?_
    rw [State.preIssue_single hp, State.examine_ok (List.forall_mem_singleton.2 hs), Res.bind_ok]
    exact congrArg (Res.ok · ()) (State.putLanes_eq (State.me_countLanes ..) ..)
  refine laneWise_of_ended hi (((KeptBy.refl s _).countMe _ _).putV _ _ (List.mem_singleton_self o.d))
    (local_putV (local_countLanes ..) ..) ?_ (fun j hj => ?_) (State.vpois_putV_same ..) ?_ ?_
  · rw [State.nextPc_putV, State.nextPc_of_me (State.me_countLanes ..)]
  · rw [State.vreg_putV_same, lane_mergedReg _ _ _ _ _ hj, Nat.mod_mod]
    rfl
  · rw [State.me_putV, State.me_countLanes, laneFlags_none _ _ _ _ fun _ _ => rfl]
    exact BitVec.or_zero.symm
  · rw [State.me_putV, State.me_countLanes, lfsrAfter, if_neg (mode_rne_ne_rsr s)]

/-- Settles O18: VSEL, VPERM, VSLIDE and VIOTA are lane-wise functions of the model. -/
theorem vectorMoves : Obligations.VectorMoves := by
  unfold Obligations.VectorMoves
  intro s hp
  have hsel (o s) : exec (.vsel o) s = execVsel o s := rfl
  have hperm (o s) : exec (.vperm o) s = execVperm o s := rfl
  have hslide (o s) : exec (.vslide o) s = execVslide o s := rfl
  have hiota (o s) : exec (.viota o) s = execViota o s := rfl
  refine ⟨fun o => laneWise_of_vecOp hp (hsel o) fun _ j => ?_, fun o => laneWise_of_vecOp hp (hperm o) fun _ _ => rfl,
    fun o => laneWise_of_vecOp hp (hslide o) fun _ _ => rfl, fun o => laneWise_of_vecOp hp (hiota o) fun _ _ => rfl,
    fun _ hs => laneWise_vbcast hp hs⟩
  show FpRes.mk (lane _ (s.vreg (if (s.kreg o.c).getLsbD j then o.a else o.b)) j) {} = _
  rw [apply_ite s.vreg, apply_ite (lane o.ty.width · j)]

end Sys2Proof.Machine
end

section
/-! SUPPORT. Vector compares (R124, R125). -/

namespace Sys2Proof.Machine

open Sys2Proof.Claims

/-! ## k registers (R117, R135) -/

theorem State.me_putK (s : State) (d : KReg) (x : KWord) :
    (s.putK d x).me = { s.me with k := s.me.k.set d.toNat x d.isLt } := State.me_modMe ..

@[simp] theorem State.kreg_putK_same (s : State) (d : KReg) (x : KWord) : (s.putK d x).kreg d = x := by
  simp only [State.kreg, State.me_putK]
  exact Vector.getElem_set_self _

@[simp] theorem State.nextPc_putK (s : State) (d : KReg) (x : KWord) : (s.putK d x).nextPc = s.nextPc :=
  State.nextPc_modMe s rfl rfl

theorem local_putK {s t : State} (h : Local s t) (d : KReg) (x : KWord) : Local s (t.putK d x) := h.modMe _

@[simp] theorem ended_kreg (p : Pipe) (s : State) (r : KReg) : (ended p s).kreg r = s.kreg r := by
  unfold State.kreg ended
  simp only [State.me_retireTo, State.me_countIssue]

/-- Bit j of a k register is the j-th of its bits. -/
theorem getLsbD_ofBits (l : List Bool) {j : Nat} (hj : j < 256) : (ofBits l).getLsbD j = l.getD j false := by
  have h := joinLanes_lane 1 (l.map Bool.toNat) j
  rw [Nat.one_mul, pow_one, show (0 : Nat) = Bool.toNat false from rfl, List.getD_map] at h
  rw [ofBits, BitVec.getLsbD_ofNat, decide_eq_true hj, Bool.true_and, Nat.testBit_eq_decide_div_mod_eq, h]
  cases l.getD j false <;> rfl

/-! ## The comparisons of the model (R124, R125) -/

/-- A row of the table of comparisons: its form, its answers, and whether it orders. -/
abbrev CmpRow := (VCmpOp → Instr) × (Int → Int → Nat → Nat → Bool) × (Option Ordering → Bool) × Bool

/-- What a row answers of two lanes of a type. -/
def CmpRow.answer (e : CmpRow) (ty : Ty) (ftz : Bool) (x y : Nat) : Bool :=
  if ty.isInt then e.2.1 (BitVec.ofNat ty.width x).toInt (BitVec.ofNat ty.width y).toInt x y
  else e.2.2.1 ((fmtOf ty).cmp ftz x y)

/-- Whether it sets NV (R125). -/
def CmpRow.invalid (e : CmpRow) (ty : Ty) (ftz : Bool) (x y : Nat) : Bool :=
  !ty.isInt && (((fmtOf ty).cmp ftz x y).isNone && (e.2.2.2 || ((fmtOf ty).num ftz x).isSig || ((fmtOf ty).num ftz y).isSig))

/-- Comparison f of the model is that of a row, on lanes of a type. -/
def ComparesAs (f : Nat) (ty : Ty) (e : CmpRow) : Prop :=
  (∀ o s, exec (e.1 o) s = vcmp f o s) ∧ ∀ ftz x y, cmpRes f ty ftz x y = (e.answer ty ftz x y, e.invalid ty ftz x y)

/-- Two integers are compared as they are, and NV is never set. -/
theorem cmpRes_int {f : Nat} {ty : Ty} {e : CmpRow} (hi : ty.isInt = true) {ftz : Bool} {x y : Nat}
    (h : (cmpRes f ty ftz x y).1 = e.2.1 (asInt ty.width x) (asInt ty.width y) x y) :
    cmpRes f ty ftz x y = (e.answer ty ftz x y, e.invalid ty ftz x y) := by
  refine Prod.ext ?_ ?_
  · rw [h, CmpRow.answer, if_pos hi]
    rfl
  · rw [cmpRes, CmpRow.invalid, hi]
    rfl

/-- Two floats are unordered, where every ordering and a signalling NaN sets NV, or in one of three orders. -/
theorem cmpRes_float {f : Nat} {ty : Ty} {e : CmpRow} {ftz : Bool} {x y : Nat} (hi : ty.isInt = false)
    (hn : (f == 1 || f == 6) = e.2.2.1 none) (ho : (2 ≤ f ∧ f ≤ 5) ↔ e.2.2.2 = true)
    (hs : ∀ c, (fmtOf ty).cmp ftz x y = some c → (cmpRes f ty ftz x y).1 = e.2.2.1 (some c)) :
    cmpRes f ty ftz x y = (e.answer ty ftz x y, e.invalid ty ftz x y) := by
  have hans : e.answer ty ftz x y = e.2.2.1 ((fmtOf ty).cmp ftz x y) := if_neg (by rw [hi]; decide)
  rw [hans, CmpRow.invalid, hi]
  cases hc : (fmtOf ty).cmp ftz x y with
  | none =>
    simp only [cmpRes, hi, hc, hn, ho]
    cases e.2.2.2 <;> rfl
  | some c =>
    refine Prod.ext (hs c hc) ?_
    simp only [cmpRes, hi, hc]
    rfl

theorem comparesAs_of {f : Nat} {ty : Ty} {e : CmpRow} (hx : ∀ o s, exec (e.1 o) s = vcmp f o s)
    (hint : ty.isInt = true → ∀ ftz x y, (cmpRes f ty ftz x y).1 = e.2.1 (asInt ty.width x) (asInt ty.width y) x y)
    (hn : (f == 1 || f == 6) = e.2.2.1 none) (ho : (2 ≤ f ∧ f ≤ 5) ↔ e.2.2.2 = true)
    (hs : ty.isInt = false → ∀ ftz x y c, (fmtOf ty).cmp ftz x y = some c → (cmpRes f ty ftz x y).1 = e.2.2.1 (some c)) :
    ComparesAs f ty e := by
  refine ⟨hx, fun ftz x y => ?_⟩
  cases hi : ty.isInt with
  | true => exact cmpRes_int hi (hint hi ftz x y)
  | false => exact cmpRes_float hi hn ho (hs hi ftz x y)

/-- The rows of the table, VCMP.UN of floats and VCMP.LTU of integers are comparisons of the model. -/
theorem cmpRows (ty : Ty) (e : CmpRow) (he : e ∈ cmpTable ∨
    (ty.isInt = false ∧ e = (.vcmpUn, fun _ _ _ _ => false, fun c => c == none, false)) ∨
    (ty.isInt = true ∧ e = (.vcmpLtu, fun _ _ x y => decide (x < y), fun _ => false, false))) : ∃ f, ComparesAs f ty e := by
  obtain he | ⟨hf, rfl⟩ | ⟨hi, rfl⟩ := he
  · revert e
    unfold cmpTable
    simp only [List.forall_mem_cons]
    refine ⟨⟨0, comparesAs_of (fun _ _ => rfl) (fun hi _ _ _ => congrArg Prod.fst (if_pos hi)) rfl (by decide)
        fun hi _ _ _ c hc => ?_⟩,
      ⟨1, comparesAs_of (fun _ _ => rfl) (fun hi _ _ _ => (congrArg Prod.fst (if_pos hi)).trans decide_not.symm) rfl (by decide)
        fun hi _ _ _ c hc => ?_⟩,
      ⟨2, comparesAs_of (fun _ _ => rfl) (fun hi _ _ _ => congrArg Prod.fst (if_pos hi)) rfl (by decide)
        fun hi _ _ _ c hc => ?_⟩,
      ⟨3, comparesAs_of (fun _ _ => rfl) (fun hi _ _ _ => congrArg Prod.fst (if_pos hi)) rfl (by decide)
        fun hi _ _ _ c hc => ?_⟩,
      ⟨4, comparesAs_of (fun _ _ => rfl) (fun hi _ _ _ => congrArg Prod.fst (if_pos hi)) rfl (by decide)
        fun hi _ _ _ c hc => ?_⟩,
      ⟨5, comparesAs_of (fun _ _ => rfl) (fun hi _ _ _ => congrArg Prod.fst (if_pos hi)) rfl (by decide)
        fun hi _ _ _ c hc => ?_⟩, List.forall_mem_nil _⟩
    all_goals
      simp only [cmpRes, hi, hc]
      cases c <;> rfl
  · refine ⟨6, comparesAs_of (fun _ _ => rfl) (fun hi => absurd hi (by rw [hf]; decide)) rfl (by decide) fun hi _ _ _ c hc => ?_⟩
    simp only [cmpRes, hi, hc]
    rfl
  · exact ⟨7, comparesAs_of (fun _ _ => rfl) (fun hi _ _ _ => congrArg Prod.fst (if_pos hi)) rfl (by decide)
      fun hf => absurd hf (by rw [hi]; decide)⟩

/-! ## VCMP (R118, R124, R125) -/

/-- What VCMP makes of lane i: the bit of k(d), and whether it sets NV. -/
def cmpLane (f : Nat) (o : VCmpOp) (s : State) (i : Nat) : Bool × Bool :=
  if On s o.m i then cmpRes f o.ty s.me.ftz (lane o.ty.width (s.vreg o.a) i) (lane o.ty.width (s.vreg o.b) i)
  else (!o.m.z && (s.kreg o.d).getLsbD i, false)

/-- What VCMP leaves before it ends. -/
def cmpState (f : Nat) (o : VCmpOp) (s : State) : State :=
  ((s.countLanes o.m (2048 / o.ty.width)).putK o.d
    (ofBits (((List.range (2048 / o.ty.width)).map (cmpLane f o s)).map Prod.fst))).setFlags
      { nv := ((List.range (2048 / o.ty.width)).map (cmpLane f o s)).any Prod.snd }

theorem vcmp_ends {s : State} (hp : Solo s) (f : Nat) {o : VCmpOp} (ha : s.vpois o.a = false) (hb : s.vpois o.b = false) :
    vcmp f o s = .next (ended .v (cmpState f o s)) := by
  have hc : s.cleanV [o.a, o.b] = .ok s () :=
    State.cleanV_ok (List.forall_mem_cons.2 ⟨ha, List.forall_mem_singleton.2 hb⟩)
  refine issue_ok ?_
  rw [State.preIssue_single hp, hc, Res.bind_ok]
  rfl

theorem cmpState_kept (f : Nat) (o : VCmpOp) (s : State) : KeptBy s (cmpState f o s) { ks := [o.d], fp := true } :=
  (((KeptBy.refl s _).countMe _ _).putK _ (List.mem_singleton_self o.d)).setFlags _ rfl

theorem cmpState_me (f : Nat) (o : VCmpOp) (s : State) : (cmpState f o s).me =
    { s.me with
      k := s.me.k.set o.d.toNat (ofBits (((List.range (2048 / o.ty.width)).map (cmpLane f o s)).map Prod.fst)) o.d.isLt
      fpctl := s.me.fpctl |||
        FpFlags.bits { nv := ((List.range (2048 / o.ty.width)).map (cmpLane f o s)).any Prod.snd } } := by
  rw [cmpState, State.setFlags, State.me_modMe, State.me_putK, State.me_countLanes]

theorem cmpState_kreg (f : Nat) (o : VCmpOp) (s : State) {j : Nat} (hj : j < 256) : ((cmpState f o s).kreg o.d).getLsbD j =
    if 2048 / o.ty.width ≤ j then false else (cmpLane f o s j).1 := by
  have hk : (cmpState f o s).kreg o.d = ofBits (((List.range (2048 / o.ty.width)).map (cmpLane f o s)).map Prod.fst) := by
    simp only [State.kreg, cmpState_me]
    exact Vector.getElem_set_self _
  rw [hk, getLsbD_ofBits _ hj, List.map_map]
  split
  · next h => exact List.getD_eq_default _ _ (by simpa using h)
  · next h =>
    rw [List.getD_eq_getElem _ _ (by simpa using h), List.getElem_map, List.getElem_range]
    rfl

/-- NV is set when an active lane's comparison sets it (R125). -/
theorem cmpLane_nv {f : Nat} {o : VCmpOp} {e : CmpRow} (h : ComparesAs f o.ty e) (s : State) :
    ((List.range (2048 / o.ty.width)).map (cmpLane f o s)).any Prod.snd = cmpNv s o e.2.2.2 := by
  have hlane (j : Nat) : (cmpLane f o s j).2 = (On s o.m j &&
      e.invalid o.ty s.me.ftz (lane o.ty.width (s.vreg o.a) j) (lane o.ty.width (s.vreg o.b) j)) := by
    unfold cmpLane
    rw [h.2]
    cases On s o.m j <;> rfl
  rw [List.any_map, cmpNv, onLanes, List.any_filter]
  simp only [Function.comp_def, hlane, CmpRow.invalid]
  cases o.ty.isInt with
  | true => simp
  | false => rfl

/-- Settles O19: the rows are comparisons of the model, whose lanes make the bits and NV; a poisoned source is found first. -/
theorem vectorCompares : Obligations.VectorCompares := by
  unfold Obligations.VectorCompares
  intro s o hp e he
  obtain ⟨f, hf⟩ := cmpRows o.ty e he
  refine ⟨fun ha hb => ⟨_, (hf.1 o s).trans (vcmp_ends hp f ha hb), ?_, (cmpState_kept f o s).ended .v,
    ((local_setFlags (local_putK (local_countLanes ..) ..) _).countIssue .v).retireTo _, ?_, ?_, fun j hj => ?_⟩,
    fun hh ha => ?_⟩
  · rw [ended_pc, State.nextPc, cmpState_me]
    rfl
  · rw [ended_lfsr, cmpState_me]
  · rw [ended_fpctl, cmpState_me, cmpLane_nv hf s]
  · rw [ended_kreg, cmpState_kreg f o s hj, cmpLane, hf.2, apply_ite Prod.fst]
    rfl
  · have hfind : s.cleanV [o.a, o.b] = .trap s 0x04 (zextW o.a) := by
      rw [State.cleanV, List.find?_cons_of_pos (p := fun r => s.vpois r) ha]
    rw [hf.1]
    exact issue_faulted hp hh (by rw [hfind]; rfl)

end Sys2Proof.Machine
end

section
/-! SUPPORT. The k instructions, VEXTR and VINS (R118, R130, R135). -/

namespace Sys2Proof.Machine

open Sys2Proof.Claims

/-! ## The k instructions (R135) -/

theorem writesK_of_ended {i : Instr} {s : State} {d : KReg} {x : KWord} (hi : exec i s = .next (ended .v (s.putK d x))) :
    WritesK i s d x :=
  ⟨_, hi, (ended_pc ..).trans (State.nextPc_putK ..), (ended_kreg ..).trans (State.kreg_putK_same ..),
    ((KeptBy.refl s { ks := [d] }).putK x (List.mem_singleton_self d)).ended .v,
    ((local_putK (Local.refl s) d x).countIssue .v).retireTo _⟩

theorem kop_ends {s : State} (hp : Solo s) (d : KReg) (f : State → KWord) : kop d f s = .next (ended .v (s.putK d (f s))) :=
  issue_ok (by rw [State.preIssue_single hp])

theorem kread_ends {s : State} {d : Reg} (hp : Solo s) (hd : Free s d) (f : State → Word) :
    kread d f s = .next (ended .v (s.putG d (f s))) :=
  issue_ok (by rw [State.preIssue_single hp, State.freeG_ok hd, Res.bind_ok])

/-- KSET sets the bits below the clamped sum. -/
theorem execKset_ends {s : State} {d : KReg} {a : Src} (hp : Solo s) (ha : Full s a.reg) (c : W32) :
    execKset d a c s = .next (ended .v (s.putK d (BitVec.ofNat 256 (2 ^ ksetCount (s.g a.reg) c - 1)))) :=
  issue_ok (by rw [State.preIssue_single hp, State.examine_ok (List.forall_mem_singleton.2 ha), Res.bind_ok])

theorem getLsbD_ksetCount (g : Word) (c : W32) {j : Nat} (hj : j < 256) :
    (BitVec.ofNat 256 (2 ^ ksetCount g c - 1)).getLsbD j = decide ((j : Int) < g.toInt + c.toNat) := by
  rw [BitVec.getLsbD_ofNat, decide_eq_true hj, Bool.true_and, Nat.testBit_two_pow_sub_one, decide_eq_decide]
  show j < min (g.toInt + c.toNat).toNat 256 ↔ _
  omega

/-- The number that KFIRST gives is the first set bit, or 256 (R135). -/
theorem find_first (p : Nat → Bool) (n : Nat) : ((List.range n).find? p).getD n ≤ n ∧
    (∀ i, i < ((List.range n).find? p).getD n → p i = false) ∧
    (((List.range n).find? p).getD n < n → p (((List.range n).find? p).getD n) = true) := by
  cases h : (List.range n).find? p with
  | none =>
    rw [List.find?_range_eq_none] at h
    exact ⟨Nat.le_refl n, fun i hi => by simpa using h i hi, fun hn => absurd hn (Nat.lt_irrefl n)⟩
  | some k =>
    rw [List.find?_range_eq_some] at h
    obtain ⟨hk, hm, hlow⟩ := h
    exact ⟨Nat.le_of_lt (List.mem_range.1 hm), fun i hi => by simpa using hlow i hi, fun _ => hk⟩

/-- The k instructions, as O20 says them. -/
theorem maskInstructions : Sys2Proof.Claims.MaskInstructions := by
  unfold Sys2Proof.Claims.MaskInstructions
  intro s hp
  refine ⟨fun d a b => ⟨writesK_of_ended (kop_ends hp d fun s => s.kreg a &&& s.kreg b),
      writesK_of_ended (kop_ends hp d fun s => s.kreg a ||| s.kreg b),
      writesK_of_ended (kop_ends hp d fun s => s.kreg a ^^^ s.kreg b),
      writesK_of_ended (kop_ends hp d fun s => ~~~ s.kreg a)⟩,
    fun d a c ha => ⟨_, writesK_of_ended (execKset_ends hp ha c), fun j hj => getLsbD_ksetCount _ c hj⟩,
    fun d a hd => ⟨fun j => ⟨_, kread_ends hp hd _, fun i hi => ?_⟩, kread_ends hp hd _, _, kread_ends hp hd _,
      find_first (fun i => bit (s.kreg a) i) 256⟩⟩
  rw [ofNat_slice, BitVec.getLsbD_extractLsb', decide_eq_true hi, Bool.true_and]

/-! ## VEXTR and VINS (R118, R130) -/

/-- VEXTR reads the lane that the index names (R130). -/
def extrValue (s : State) (o : VExtrOp) : Word :=
  let x := lane o.ty.width (s.vreg o.a) (s.laneIdx o.b.reg o.idx (2048 / o.ty.width))
  if o.ty.isInt then BitVec.ofInt 64 (asInt o.ty.width x) else BitVec.ofNat 64 x

theorem execVextr_ends {s : State} {o : VExtrOp} (hp : Solo s) (hb : Full s o.b.reg) (hd : Free s o.d) : execVextr o s =
    .next (ended .v ((s.countMe 27 1).modMe fun sl => sl.arriveG o.d (extrValue s o) (s.vpois o.a))) := by
  refine issue_ok ?_
  rw [State.preIssue_single hp, State.examine_ok (List.forall_mem_singleton.2 hb), Res.bind_ok, State.freeG_ok hd, Res.bind_ok]
  rfl

/-- VINS puts g(a) into the lane that the index names (R130). -/
def insLane (s : State) (o : VInsOp) (i : Nat) : Nat :=
  if i = s.laneIdx o.b.reg o.idx (2048 / o.ty.width) then (s.g o.a.reg).toNat else lane o.ty.width (s.vreg o.d) i

theorem execVins_ends {s : State} {o : VInsOp} (hp : Solo s) (ha : Full s o.a.reg) (hb : Full s o.b.reg) : execVins o s =
    .next (ended .v ((s.countMe 27 1).putV o.d
      (ofLanes o.ty.width ((List.range (2048 / o.ty.width)).map (insLane s o))) (s.vpois o.d))) := by
  have hsrc : s.examine [o.a, o.b] = .ok s () :=
    State.examine_ok (List.forall_mem_cons.2 ⟨ha, List.forall_mem_singleton.2 hb⟩)
  refine issue_ok ?_
  rw [State.preIssue_single hp, hsrc, Res.bind_ok]
  rfl

/-- VEXTR and VINS, as O20 says them. -/
theorem laneExtractInsert : Sys2Proof.Claims.LaneExtractInsert := by
  unfold Sys2Proof.Claims.LaneExtractInsert
  intro s hp
  refine ⟨fun o h0 hb hd => ⟨_, execVextr_ends hp hb hd, ?_,
      (((KeptBy.refl s { gs := [o.d] }).countMe _ _).modMe (.setG _ _ (List.mem_singleton_self o.d))).ended .v,
      ((((Local.refl s).countMe ..).modMe _).countIssue .v).retireTo _, ?_⟩,
    fun o ha hb => ⟨_, execVins_ends hp ha hb, ?_,
      (((KeptBy.refl s { vs := [o.d] }).countMe _ _).putV _ _ (List.mem_singleton_self o.d)).ended .v,
      ((local_putV ((Local.refl s).countMe ..) ..).countIssue .v).retireTo _, ?_, fun j hj => ?_⟩⟩
  · rw [ended_pc, State.nextPc_modMe _ (Slot.setG_pc ..) (Slot.setG_ilen ..), State.countMe_nextPc]
  · rintro x rfl
    rw [ended_greg, State.me_modMe, Slot.arriveG, Slot.greg_setG_same _ _ h0]
    exact ⟨fun h => by rw [h]; exact ⟨rfl, rfl⟩, fun h => by rw [h]; rfl⟩
  · rw [ended_pc, State.nextPc_putV, State.countMe_nextPc]
  · rw [ended_vpois, State.vpois_putV_same]
  · rw [ended_vreg, State.vreg_putV_same, lane_ofLanes_range _ _ hj, insLane, apply_ite (· % 2 ^ o.ty.width),
      Nat.mod_eq_of_lt (lane_lt ..)]
    rfl

/-- Settles O20: the k instructions by the register they write, VEXTR and VINS by the lane that the index names. -/
theorem masksAndLanes : Obligations.MasksAndLanes := ⟨maskInstructions, laneExtractInsert⟩

end Sys2Proof.Machine
end

section
/-! SUPPORT. Vector conversions (R126, R127). -/

namespace Sys2Proof.Machine

open Sys2Proof.Claims

/-! ## VCVT: the lanes it converts, and where they go (R126) -/

/-- The number of lanes of a conversion: as many as the wider type has. -/
def cvtCount (o : VCvtOp) : Nat := 2048 / Nat.max o.sty.width o.dty.width

/-- The first lane of v(d) that a conversion writes. -/
def cvtBase (o : VCvtOp) : Nat := if o.sty.width < o.dty.width then 0 else o.part.toNat * cvtCount o

/-- The conversion of lane j: of part p of v(a) when it widens. -/
def cvtFn (s : State) (o : VCvtOp) (env : FpEnv) (j : Nat) : FpRes :=
  cvtRes o.sty o.dty env o.sat
    (lane o.sty.width (s.vreg o.a) (if o.sty.width < o.dty.width then o.part.toNat * cvtCount o + j else j))

/-- Lane i of v(d) after a conversion. -/
def cvtLane (s : State) (o : VCvtOp) (i : Nat) : Nat :=
  if cvtBase o ≤ i ∧ i < cvtBase o + cvtCount o then
    if On s o.m (i - cvtBase o) then (cvtFn s o (laneEnv s o.rm o.m (i - cvtBase o)) (i - cvtBase o)).bits
    else if o.m.z then 0 else lane o.dty.width (s.vreg o.d) i
  else lane o.dty.width (s.vreg o.d) i

/-- What VCVT leaves before it ends. -/
def cvtState (s : State) (o : VCvtOp) : State :=
  ((s.countLanes o.m (cvtCount o)).putV o.d (ofLanes o.dty.width ((List.range (2048 / o.dty.width)).map (cvtLane s o)))
    (s.vpois o.a || ((s.survives o.m (cvtCount o) || decide (o.dty.width < o.sty.width)) && s.vpois o.d))).putFp
    (lfsrAfter s o.rm (onLanes s o.m (cvtCount o)).length) (laneFlags s o.rm o.m (cvtCount o) (cvtFn s o))

theorem execVcvt_ends {s : State} (hp : Solo s) (o : VCvtOp) : execVcvt o s = .next (ended .v (cvtState s o)) := by
  have hcount : 2048 / Nat.max o.sty.width o.dty.width = cvtCount o := rfl
  have hbase : (if o.sty.width < o.dty.width then 0 else o.part.toNat * cvtCount o) = cvtBase o := rfl
  have hsrc : (fun env j => cvtRes o.sty o.dty env o.sat (if o.sty.width < o.dty.width
      then lane o.sty.width (s.vreg o.a) (o.part.toNat * cvtCount o + j) else lane o.sty.width (s.vreg o.a) j)) = cvtFn s o := by
    funext env j
    rw [cvtFn, apply_ite (lane o.sty.width (s.vreg o.a))]
  refine issue_ok ?_
  rw [State.preIssue_single hp]
  dsimp only
  rw [hcount, hbase, hsrc, laneRun_lanes]
  refine congrArg (fun l => Res.ok ((State.putV _ _ (ofLanes _ l) _).putFp _ _) ()) (List.map_congr_left fun i _ => ?_)
  rw [cvtLane]
  by_cases h : cvtBase o ≤ i ∧ i < cvtBase o + cvtCount o
  · rw [if_pos h, if_neg (by omega), getD_lanes _ _ _ (by omega)]
    cases On s o.m (i - cvtBase o) <;> rfl
  · rw [if_neg h, if_pos (by omega)]

theorem cvtState_kept (s : State) (o : VCvtOp) : KeptBy s (cvtState s o) { vs := [o.d], fp := true } :=
  (((KeptBy.refl s _).countMe _ _).putV _ _ (List.mem_singleton_self o.d)).putFp _ _ rfl

theorem lane_cvtLane (s : State) (o : VCvtOp) {i : Nat} (hi : i < 2048 / o.dty.width) :
    lane o.dty.width (ofLanes o.dty.width ((List.range (2048 / o.dty.width)).map (cvtLane s o))) i =
      if cvtBase o ≤ i ∧ i < cvtBase o + cvtCount o then
        if On s o.m (i - cvtBase o) then
          (cvtFn s o (laneEnv s o.rm o.m (i - cvtBase o)) (i - cvtBase o)).bits % 2 ^ o.dty.width
        else if o.m.z then 0 else lane o.dty.width (s.vreg o.d) i
      else lane o.dty.width (s.vreg o.d) i := by
  rw [lane_ofLanes_range _ _ hi, cvtLane]
  simp only [apply_ite (· % 2 ^ o.dty.width), Nat.zero_mod, Nat.mod_eq_of_lt (lane_lt ..)]

/-- Settles O21: VCVT leaves the converted lanes in their part of v(d). -/
theorem vectorConversions : Obligations.VectorConversions := by
  unfold Obligations.VectorConversions
  rintro s o hp m p base rfl rfl hbase - f rfl
  obtain rfl : base = cvtBase o := hbase
  refine ⟨_, execVcvt_ends hp o, ?_, ?_, ?_, fun i hi => ?_, ?_, ?_, ?_⟩
  · rw [ended_pc, cvtState, State.nextPc_putFp, State.nextPc_putV, State.nextPc_of_me (State.me_countLanes ..)]
  · exact (cvtState_kept s o).ended .v
  · exact ((local_putFp (local_putV (local_countLanes ..) ..) ..).countIssue .v).retireTo _
  · rw [ended_vreg, cvtState, State.vreg_putFp, State.vreg_putV_same]
    exact lane_cvtLane s o hi
  · rw [ended_vpois, cvtState, State.vpois_putFp, State.vpois_putV_same, Bool.or_eq_true, Bool.and_eq_true, Bool.or_eq_true,
      State.survives_iff, decide_eq_true_iff, and_comm (b := s.vpois o.d = true), or_comm (b := o.dty.width < o.sty.width)]
    rfl
  · rw [ended_fpctl, cvtState, State.me_putFp, State.me_putV, State.me_countLanes]
    rfl
  · rw [ended_lfsr, cvtState, State.me_putFp]
    rfl

end Sys2Proof.Machine
end

section
/-! SUPPORT. Vector loads and stores (R118, R131 to R134). -/

namespace Sys2Proof.Machine

open Sys2Proof.Claims

/-! ## The pieces of a vector access (R131, R132) -/

/-- An active lane's place among the active ones is the number of those below it. -/
theorem findIdx_onLanes {s : State} {m : VMask} {n i : Nat} (hi : i < n) (ho : On s m i = true) :
    (onLanes s m n).findIdx (fun j => j == i) = (onLanes s m i).length := by
  obtain ⟨k, rfl⟩ := Nat.exists_eq_add_of_lt hi
  have hsplit : onLanes s m (i + k + 1) = onLanes s m i ++ i :: ((List.range k).map fun j => i + (j + 1)).filter (On s m) := by
    unfold onLanes
    rw [Nat.add_assoc, List.range_add, List.filter_append, List.range_succ_eq_map, List.map_cons, List.map_map, Nat.add_zero]
    exact congrArg _ (List.filter_cons_of_pos ho)
  have hlow : i ∉ onLanes s m i := fun h => Nat.lt_irrefl i (List.mem_range.1 (List.mem_filter.1 h).1)
  show (onLanes s m (i + k + 1)).idxOf i = _
  rw [hsplit, List.idxOf_append_of_notMem hlow, List.idxOf_cons_self, Nat.add_zero]

theorem mem_onLanes {s : State} {m : VMask} {n i : Nat} : i ∈ onLanes s m n ↔ i < n ∧ On s m i = true := by
  rw [onLanes, List.mem_filter, List.mem_range]
  rfl

theorem length_onLanes_le (s : State) (m : VMask) (n : Nat) : (onLanes s m n).length ≤ n :=
  (List.length_filter_le ..).trans_eq List.length_range

/-- The lanes whose addresses a load reads: all the active ones, or the first of them. -/
def readLanesOf (s : State) (m : VMask) (ty : Ty) (one : Bool) : List Nat :=
  (onLanes s m (2048 / ty.width)).take (if one then 1 else 2048)

theorem readLanesOf_eq (s : State) (m : VMask) (ty : Ty) (one : Bool) : readLanesOf s m ty one =
    if one then (onLanes s m (2048 / ty.width)).take 1 else onLanes s m (2048 / ty.width) := by
  cases one with
  | true => rfl
  | false => exact List.take_of_length_le ((length_onLanes_le ..).trans (Nat.div_le_self ..))

/-- The piece that an active lane gets. -/
def pieceOf (s : State) (m : VMask) (one : Bool) (i : Nat) : Nat := if one then 0 else (onLanes s m i).length

/-- An active lane's piece is among those read. -/
theorem pieceOf_lt {s : State} {m : VMask} {ty : Ty} {one : Bool} {i : Nat} (hi : i < 2048 / ty.width) (ho : On s m i = true) :
    pieceOf s m one i < (readLanesOf s m ty one).length := by
  have hm : i ∈ onLanes s m (2048 / ty.width) := mem_onLanes.2 ⟨hi, ho⟩
  rw [readLanesOf_eq]
  cases one with
  | true =>
    have := List.length_pos_of_mem hm
    simp [pieceOf]
    omega
  | false =>
    show (onLanes s m i).length < (onLanes s m (2048 / ty.width)).length
    rw [← findIdx_onLanes hi ho]
    exact List.findIdx_lt_length_of_exists ⟨i, hm, beq_self_eq_true i⟩

/-! ## Vector loads (R132) -/

/-- The data of lane i of a load whose pieces are at some keys. -/
def loadedLane (s u : State) (m : VMask) (ty : Ty) (one : Bool) (keys : List Nat) (i : Nat) : Nat :=
  ofBytes (u.bytes (keys.getD (pieceOf s m one i) 0) (ty.width / 8))

/-- A vector load whose pieces are aligned and placed writes their bytes into the active lanes and ends. -/
theorem vload_ends {s u : State} {d : VReg} {ty : Ty} {h : Hint} {m : VMask} {srcs : List Src} {idx : List VReg}
    {addr : State → Nat → Word} {one : Bool} {keys : List Nat} (hp : Solo s) (ha : NoAmo s) (hsrc : FullAll s srcs)
    (hidx : ∀ r ∈ idx, s.vpois r = false) (hal : ∀ j ∈ readLanesOf s m ty one, (addr s j).toNat % (ty.width / 8) = 0)
    (hpl : PlacedAll s ((readLanesOf s m ty one).map fun j => (addr s j, ty.width / 8)) .r u keys) :
    ∃ x, CachesOnly u x ∧ vload d ty h m srcs idx addr one s = .next (ended .v ((x.countLanes m (2048 / ty.width)).putV d
      (mergedReg s d ty.width m (loadedLane s u m ty one keys))
      (mergedPois s d (2048 / ty.width) m (keys.any fun key => u.pois key (ty.width / 8))))) := by
  have hal' : ∀ p ∈ (readLanesOf s m ty one).map fun j => (addr s j, ty.width / 8), p.1.toNat % (ty.width / 8) = 0 :=
    List.forall_mem_map.2 hal
  obtain ⟨x, hx, hread⟩ := State.loadLanes_uniform h ha hal' (List.forall_mem_map.2 fun _ _ => rfl) hpl
  have hme : x.me = s.me := ((WalksOnly.of_placedAll hpl).sameSlots.trans (.of_caches hx)).me
  have hon (i : Nat) : x.laneOn m i = On s m i := by
    rw [State.laneOn, State.kreg, hme]
    rfl
  have hlen : keys.length = (readLanesOf s m ty one).length := by rw [length_of_placedAll hpl, List.length_map]
  have hclean : (idx.any fun r => s.vpois r) = false := by
    rw [List.any_eq_false]
    exact fun r hr => by rw [hidx r hr]; decide
  have hact : (if one then (s.actives m (2048 / ty.width)).take 1 else s.actives m (2048 / ty.width)) = readLanesOf s m ty one :=
    (readLanesOf_eq ..).symm
  refine ⟨x, hx, issue_ok ?_⟩
  rw [State.preIssue_single hp, State.examine_ok hsrc, Res.bind_ok, ← State.putLanes_eq ((State.me_countLanes ..).trans hme)]
  dsimp only
  rw [hclean, if_neg Bool.false_ne_true, hact, hread, Res.bind_ok]
  refine congrArg₂ (fun l p => Res.ok (State.putLanes _ _ _ _ l p) ()) (List.map_congr_left fun i hi => ?_) ?_
  · rw [hon]
    cases ho : On s m i with
    | false => rfl
    | true =>
      have hi : i < 2048 / ty.width := List.mem_range.1 hi
      have hk : pieceOf s m one i < keys.length := hlen ▸ pieceOf_lt hi ho
      have hpiece : (if one then 0 else (s.actives m (2048 / ty.width)).findIdx fun j => j == i) = pieceOf s m one i := by
        rw [pieceOf, ← findIdx_onLanes hi ho]
        rfl
      rw [if_pos rfl, if_pos rfl, hpiece, List.getElem?_map, List.getElem?_eq_getElem hk, loadedLane,
        List.getD_eq_getElem _ _ hk]
      rfl
  · rw [List.any_map]
    rfl

/-- A load as O23 says it (R131, R132). -/
theorem vLoads_of_vload {i : Instr} {s : State} {d : VReg} {ty : Ty} {h : Hint} {m : VMask} {srcs : List Src} {idx : List VReg}
    {addr : State → Nat → Word} {one : Bool} (hp : Solo s) (ha : NoAmo s)
    (hi : ∀ s, exec i s = vload d ty h m srcs idx addr one s) (hsrc : FullAll s srcs) (hidx : ∀ r ∈ idx, s.vpois r = false) :
    VLoads i s d ty m one (addr s) := by
  rintro _ rfl hal u keys hpl
  obtain ⟨x, hx, he⟩ := vload_ends (h := h) (d := d) hp ha hsrc hidx hal hpl
  have hsx : SameSlots s x := (WalksOnly.of_placedAll hpl).sameSlots.trans (.of_caches hx)
  refine ⟨_, (hi s).trans he, ?_,
    (((hx.keeps { vs := [d] }).countMe _ _).putV _ _ (List.mem_singleton_self d)).ended .v, fun j hj => ?_, ?_⟩
  · rw [ended_pc, State.nextPc_putV, State.nextPc_of_me ((State.me_countLanes ..).trans hsx.me)]
  · have hfit : loadedLane s u m ty one keys j < 2 ^ ty.width := by
      refine (ofBytes_lt _).trans_eq (congrArg _ ?_)
      rw [State.bytes, Memory.length_read]
      cases ty <;> rfl
    rw [ended_vreg, State.vreg_putV_same, lane_mergedReg _ _ _ _ _ hj, Nat.mod_eq_of_lt hfit, littleEndian_eq]
    rfl
  · rw [ended_vpois, State.vpois_putV_same, mergedPois_iff, List.any_eq_true]

/-! ## Vector stores (R133) -/

theorem StoredAll.countMe {s u x : State} {ws : List (Nat × List Byte)} (h : StoredAll s u x ws) (ev n : Nat) :
    StoredAll s u (x.countMe ev n) ws where
  mem := (State.countMe_mem ..).trans h.mem
  cur := (State.countMe_cur ..).trans h.cur
  me := (State.me_countMe x ev n).symm ▸ h.me
  others ta hta := (State.slot_countMe ..).trans (h.others ta hta)
  agenda := (State.countMe_agenda ..).trans h.agenda

/-- The data of a vector store, the lowest active lane first. -/
def laneWrites (s : State) (d : VReg) (ty : Ty) (m : VMask) (addr : Nat → Word) : List (Word × List Byte) :=
  (onLanes s m (2048 / ty.width)).map fun j => (addr j, toBytes (ty.width / 8) (lane ty.width (s.vreg d) j))

/-- A store as O23 says it (R131, R133). -/
theorem vStores_of_vstore {i : Instr} {s : State} {d : VReg} {ty : Ty} {h : Hint} {m : VMask} {srcs : List Src} {idx : List VReg}
    {addr : State → Nat → Word} (hp : Solo s) (ha : NoAmo s) (hr : s.replay.busy = false)
    (hi : ∀ s, exec i s = vstore d ty h m srcs idx addr s) (hsrc : FullAll s srcs) (hidx : ∀ r ∈ idx, s.vpois r = false) :
    VStores i s d ty m (addr s) := by
  intro hd hal u keys hpl
  have halign : ∀ l ∈ laneWrites s d ty m (addr s), l.1.toNat % (ty.width / 8) = 0 := List.forall_mem_map.2 hal
  have hpl : PlacedAll s ((laneWrites s d ty m (addr s)).map fun l => (l.1, l.2.length)) .w u keys := hpl
  obtain ⟨x, hx, hst⟩ := State.storeLanes_placedAll false h hp ha hr halign hpl
  have hprot := State.protAll_placedAll hpl
  rw [show (Acc3.w == Acc3.w) = true from rfl] at hprot
  have hlen : ((laneWrites s d ty m (addr s)).map fun l => (l.1, ty.width / 8)) =
      (laneWrites s d ty m (addr s)).map fun l => (l.1, l.2.length) := by
    simp only [laneWrites, List.map_map, Function.comp_def, length_toBytes]
  have hclean : s.cleanV (idx ++ [d]) = .ok s () :=
    State.cleanV_ok (List.forall_mem_append.2 ⟨hidx, List.forall_mem_singleton.2 hd⟩)
  have hws : ((s.actives m (2048 / ty.width)).map fun i => (addr s i, toBytes (ty.width / 8) (lane ty.width (s.vreg d) i))) =
      laneWrites s d ty m (addr s) := rfl
  have he : vstore d ty h m srcs idx addr s = .next (ended .v (x.countLanes m (2048 / ty.width))) := by
    refine issue_ok ?_
    rw [State.preIssue_single hp, State.examine_ok hsrc, Res.bind_ok]
    dsimp only
    rw [hws, alignAll_ok (List.forall_mem_map.2 halign), Res.bind_ok, hlen, hprot, Res.bind_ok, hclean, Res.bind_ok, hx,
      Res.bind_ok]
  exact ⟨_, (hi s).trans he, (hst.countMe ..).ended .v⟩

/-- Settles O23: every form is a load or a store in pieces, at the addresses of its lanes. That they act at one moment is the
model's choice (log 5; R134 promises no such thing). -/
theorem vectorMemory : Obligations.VectorMemory := by
  unfold Obligations.VectorMemory
  intro s hp ha
  have none_poisoned : ∀ r ∈ ([] : List VReg), s.vpois r = false := List.forall_mem_nil _
  have hvld (o s) : exec (.vld o) s = execVld o s := rfl
  have hvldb (o s) : exec (.vldb o) s = execVldb o s := rfl
  have hvlds (o s) : exec (.vlds o) s = execVlds o s := rfl
  have hvgath (o s) : exec (.vgath o) s = execVgath o s := rfl
  have hvst (o s) : exec (.vst o) s = execVst o s := rfl
  have hvsts (o s) : exec (.vsts o) s = execVsts o s := rfl
  have hvscat (o s) : exec (.vscat o) s = execVscat o s := rfl
  exact ⟨fun o hs => ⟨vLoads_of_vload hp ha (hvld o) (List.forall_mem_singleton.2 hs) none_poisoned,
      vLoads_of_vload hp ha (hvldb o) (List.forall_mem_singleton.2 hs) none_poisoned⟩,
    fun o hs => vLoads_of_vload hp ha (hvlds o) hs none_poisoned,
    fun o hs hv => vLoads_of_vload hp ha (hvgath o) (List.forall_mem_singleton.2 hs) (List.forall_mem_singleton.2 hv),
    fun hr => ⟨fun o hs => vStores_of_vstore hp ha hr (hvst o) (List.forall_mem_singleton.2 hs) none_poisoned,
      fun o hs => vStores_of_vstore hp ha hr (hvsts o) hs none_poisoned,
      fun o hs hv => vStores_of_vstore hp ha hr (hvscat o) (List.forall_mem_singleton.2 hs) (List.forall_mem_singleton.2 hv)⟩⟩

end Sys2Proof.Machine
end

section
/-! SUPPORT. The group geometry: GGSET, GGRNG and GGMASK (R151 to R155). -/

namespace Sys2Proof.Machine

open Sys2Proof.Claims

/-! ## Fields of a word (R2) -/

/-- The bits of a word with a slice of it replaced by the low bits of another, the rest of which are discarded. -/
theorem getLsbD_setSlice_low (x v : Word) (lo len : Nat) {i : Nat} (hi : i < 64) :
    (setSlice x lo len v.toNat).getLsbD i = if lo ≤ i ∧ i < lo + len then v.getLsbD (i - lo) else x.getLsbD i := by
  have hcut : setSlice x lo len v.toNat = setSlice x lo len (v.setWidth len).toNat := by
    rw [setSlice, setSlice, BitVec.toNat_setWidth, Nat.mod_mod]
  rw [hcut, getLsbD_setSlice x _ hi]
  refine ite_congr rfl (fun h => ?_) fun _ => rfl
  rw [BitVec.getLsbD_setWidth, decide_eq_true (by omega), Bool.true_and]

/-- A field of the low word of a pair of words. -/
theorem getLsbD_append_setSlice (y x v : Word) {lo len : Nat} (h : lo + len ≤ 64) (i : Nat) :
    (y ++ setSlice x lo len v.toNat).getLsbD i =
      if lo ≤ i ∧ i < lo + len then v.getLsbD (i - lo) else (y ++ x).getLsbD i := by
  rw [BitVec.getLsbD_append, BitVec.getLsbD_append]
  by_cases hi : i < 64
  · rw [if_pos hi, if_pos hi, getLsbD_setSlice_low x v lo len hi]
  · rw [if_neg hi, if_neg hi, if_neg (by omega)]

/-- A field of the high word of a pair of words. -/
theorem getLsbD_setSlice_append (y x v : Word) {pos lo : Nat} (len : Nat) (hpos : pos = 64 + lo) {i : Nat} (hi : i < 128) :
    (setSlice y lo len v.toNat ++ x).getLsbD i =
      if pos ≤ i ∧ i < pos + len then v.getLsbD (i - pos) else (y ++ x).getLsbD i := by
  subst hpos
  rw [BitVec.getLsbD_append, BitVec.getLsbD_append]
  by_cases hlow : i < 64
  · rw [if_pos hlow, if_pos hlow, if_neg (by omega)]
  · rw [if_neg hlow, if_neg hlow, getLsbD_setSlice_low y v lo len (by omega), Nat.sub_sub]
    exact if_congr (by omega) rfl rfl

/-! ## GGSET (R151, R153) -/

/-- The slot with the field of a code written in its group geometry (R153). -/
def Slot.setGeometry (code v : Nat) (sl : Slot) : Slot :=
  match code with
  | 0 => { sl with ggeo0 := setSlice sl.ggeo0 0 32 v }
  | 1 => { sl with ggeo0 := setSlice sl.ggeo0 32 32 v }
  | 2 => { sl with ggeo1 := setSlice sl.ggeo1 0 16 v }
  | 3 => { sl with ggeo1 := setSlice sl.ggeo1 16 16 v }
  | 4 => { sl with ggeo1 := setSlice sl.ggeo1 32 8 v }
  | 5 => { sl with ggeo1 := setSlice sl.ggeo1 40 8 v }
  | 6 => { sl with ggeo1 := setSlice sl.ggeo1 48 8 v }
  | _ => { sl with ggeo1 := setSlice sl.ggeo1 56 8 v }

/-- The fields of the group geometry: code, lowest bit and length, in GGEO1 above GGEO0 (R151, R153). -/
def geometryFields : List (Nat × Nat × Nat) :=
  [(0, 0, 32), (1, 32, 32), (2, 64, 16), (3, 80, 16), (4, 96, 8), (5, 104, 8), (6, 112, 8), (7, 120, 8)]

theorem Slot.setGeometry_only (code v : Nat) (sl : Slot) :
    ∃ x₀ x₁, sl.setGeometry code v = { sl with ggeo0 := x₀, ggeo1 := x₁ } := by
  unfold Slot.setGeometry
  split <;> exact ⟨_, _, rfl⟩

/-- The field of the code takes the low bits of the word; the rest of the geometry stays. -/
theorem Slot.getLsbD_setGeometry (v : Word) (sl : Slot) {i : Nat} (hi : i < 128) : ∀ p ∈ geometryFields,
    ((sl.setGeometry p.1 v.toNat).ggeo1 ++ (sl.setGeometry p.1 v.toNat).ggeo0).getLsbD i =
      if p.2.1 ≤ i ∧ i < p.2.1 + p.2.2 then v.getLsbD (i - p.2.1) else (sl.ggeo1 ++ sl.ggeo0).getLsbD i := by
  have low {lo len : Nat} (h : lo + len ≤ 64) := getLsbD_append_setSlice sl.ggeo1 sl.ggeo0 v h i
  have high {pos lo : Nat} (len : Nat) (h : pos = 64 + lo) := getLsbD_setSlice_append sl.ggeo1 sl.ggeo0 v len h hi
  unfold geometryFields
  simp only [List.forall_mem_cons, List.not_mem_nil, IsEmpty.forall_iff, implies_true, and_true, Slot.setGeometry]
  exact ⟨low (lo := 0) (by omega), low (lo := 32) (by omega), high 16 rfl, high 16 rfl, high 8 rfl, high 8 rfl, high 8 rfl, high 8 rfl⟩

theorem execGgset_ends {s : State} {a : Src} (hp : Solo s) (ha : Full s a.reg) (field : BitVec 3) :
    execGgset a field s = .next (ended .s (s.modMe (Slot.setGeometry field.toNat (s.g a.reg).toNat))) :=
  issue_ok (by
    rw [State.preIssue_single hp, State.examine_ok (List.forall_mem_singleton.2 ha), Res.bind_ok]
    rfl)

theorem ended_modMe_mem (p : Pipe) (s : State) (f : Slot → Slot) : (ended p (s.modMe f)).mem = s.mem := by
  rw [ended, State.retireTo_mem, State.countIssue_mem, State.modMe_mem]

theorem ended_modMe_others (p : Pipe) (s : State) (f : Slot → Slot) {ta : Nat} (h : ta ≠ s.cur) :
    (ended p (s.modMe f)).slot ta = s.slot ta := by
  rw [ended, State.slot_retireTo_other _ _ (by rw [State.countIssue_cur]; exact h), State.slot_countIssue]
  exact State.slot_modSlot_other _ _ h

theorem ended_ggeo (p : Pipe) (s : State) : (ended p s).me.ggeo0 = s.me.ggeo0 ∧ (ended p s).me.ggeo1 = s.me.ggeo1 := by
  rw [ended, State.me_retireTo, State.me_countIssue]
  exact ⟨rfl, rfl⟩

/-- GGSET leaves every register of its slot but the group geometry. -/
theorem ended_setGeometry_sameRegs (p : Pipe) (s : State) (code v : Nat) :
    SameRegs s.me { (ended p (s.modMe (Slot.setGeometry code v))).me with ggeo0 := s.me.ggeo0, ggeo1 := s.me.ggeo1 } := by
  obtain ⟨x₀, x₁, h⟩ := s.me.setGeometry_only code v
  rw [ended, State.me_retireTo, State.me_countIssue, State.me_modMe, h]
  exact SameRegs.refl s.me

/-! ## GGRNG (R154) -/

theorem ggRange_eq_blockOf (t o n b e k : Nat) : ggRange t o n b e k = blockOf t o n b e k := by
  unfold ggRange blockOf
  dsimp only
  generalize (t - o + k * n) * b = start
  by_cases h : n = 0 ∨ b = 0 ∨ t < o ∨ n ≤ t - o
  · rw [if_pos h, if_neg (by omega)]
  · rw [if_neg h]
    by_cases he : e ≤ start
    · rw [if_pos he, if_neg (by omega)]
    · rw [if_neg he, if_pos (by omega)]

/-- Start and length of block k of an axis of the slot's space, Y or X (R154). -/
def Slot.axisBlock (sl : Slot) (axis : Bool) (k : Nat) : Nat × Nat :=
  if axis then
    blockOf (slice sl.tcoord 16 16) (slice sl.ggeo1 56 8) (slice sl.ggeo1 40 8) (slice sl.ggeo1 16 16) (slice sl.ggeo0 32 32) k
  else
    blockOf (slice sl.tcoord 0 16) (slice sl.ggeo1 48 8) (slice sl.ggeo1 32 8) (slice sl.ggeo1 0 16) (slice sl.ggeo0 0 32) k

theorem execGgrng_gives {s : State} {d : Reg} {a : Src} (hp : Solo s) (ha : Full s a.reg) (hd : Free s d) (axis : Bool) :
    Gives (.ggrng d a axis) s d (BitVec.ofNat 64 ((s.me.axisBlock axis (s.g a.reg).toNat).2 * 2 ^ 32 +
      (s.me.axisBlock axis (s.g a.reg).toNat).1)) := by
  unfold Slot.axisBlock
  rw [← ggRange_eq_blockOf, ← ggRange_eq_blockOf]
  show execGgrng d a axis s = _
  refine issue_ok ?_
  rw [State.preIssue_single hp, State.examine_ok (List.forall_mem_singleton.2 ha), Res.bind_ok, State.freeG_ok hd, Res.bind_ok]

/-! ## GGMASK (R155) -/

/-- Lane i of a tile lies inside both lengths: its column in that of g(a), its row in that of g(b). -/
def insideTile (s : State) (o : GgMaskOp) (i : Nat) : Bool :=
  decide (o.col0.toNat + i % 2 ^ o.cl.toNat < slice (s.g o.a.reg) 32 32) &&
    decide (o.row0.toNat + i / 2 ^ o.cl.toNat < slice (s.g o.b.reg) 32 32)

theorem execGgmask_ends {s : State} {o : GgMaskOp} (hp : Solo s) (h : FullAll s [o.a, o.b]) :
    execGgmask o s = .next (ended .s (s.putK o.d (ofBits ((List.range 256).map (insideTile s o))))) :=
  issue_ok (by
    rw [State.preIssue_single hp, State.examine_ok h, Res.bind_ok]
    rfl)

theorem getLsbD_ofBits_range (f : Nat → Bool) {i : Nat} (hi : i < 256) : (ofBits ((List.range 256).map f)).getLsbD i = f i := by
  rw [getLsbD_ofBits _ hi, List.getD_eq_getElem _ _ (by simpa using hi), List.getElem_map, List.getElem_range]

/-- Settles O25: GGSET by the field of its code, GGRNG by the block of its axis, GGMASK lane by lane. -/
theorem groupGeometry : Obligations.GroupGeometry := by
  unfold Obligations.GroupGeometry
  intro s hp
  refine ⟨fun a f ha => ⟨_, execGgset_ends hp ha f, ?pc, fun _ => ended_modMe_others .s s _, ended_modMe_mem ..,
      ended_setGeometry_sameRegs .s s _ _, ?bits⟩,
    fun d a ha hd axis => execGgrng_gives hp ha hd axis,
    fun o h => ⟨_, execGgmask_ends hp h, fun i hi => (getLsbD_ofBits_range _ hi).trans (Bool.decide_and ..).symm⟩⟩
  case pc =>
    obtain ⟨x₀, x₁, h⟩ := s.me.setGeometry_only f.toNat (s.g a.reg).toNat
    exact (ended_pc ..).trans (State.nextPc_modMe s (by rw [h]) (by rw [h]))
  case bits =>
    rintro x rfl p hmem hcode i hi
    obtain ⟨h₀, h₁⟩ := ended_ggeo .s (s.modMe (Slot.setGeometry f.toNat (s.g a.reg).toNat))
    rw [h₀, h₁, State.me_modMe, ← hcode]
    exact Slot.getLsbD_setGeometry (s.g a.reg) s.me hi p hmem

end Sys2Proof.Machine
end

section
/-! SUPPORT. The TASK instructions: their common beginning, the acceptance of records, dependencies, CANCEL and edges (R164 to
R166, R172 to R175, R179). -/

namespace Sys2Proof.Machine

open Sys2Proof.Claims

/-! ## An instruction of a slot that is no lashed pair -/

/-- Its body goes on: the instruction ends. -/
theorem issue_ends {p : Pipe} {r : Reach} {body : State → Res Unit} {s t : State} (hp : Solo s) (h : body s = .ok t ()) :
    issue p r body s = .next (ended p t) :=
  issue_ok (by rw [State.preIssue_single hp, h])

/-- Its body waits: PC stays at it. -/
theorem issue_waits {p : Pipe} {r : Reach} {body : State → Res Unit} {s t : State} (hp : Solo s) (h : body s = .wait t) :
    issue p r body s = .next t :=
  issueTo_wait (by rw [State.preIssue_single hp, h]; rfl)

/-- Its body raises: the fault is taken. -/
theorem issue_traps {p : Pipe} {r : Reach} {body : State → Res Unit} {s t : State} {c : Nat} {v : Word} (hp : Solo s)
    (h : body s = .trap t c v) : issue p r body s = .next ((t.uncount s).raise s.cur c v) :=
  issueTo_trap (by rw [State.preIssue_single hp, h]; rfl)

/-- Instructions whose bodies do the same do the same. -/
theorem issue_congr {p : Pipe} {r : Reach} {body body' : State → Res Unit} {s : State} (hp : Solo s) (h : body s = body' s) :
    issue p r body s = issue p r body' s := by
  simp only [issue, issueTo, State.preIssue_single hp, h]

/-- The state in which an instruction ends, said in another way. -/
theorem ends_congr {i : Instr} {s t u : State} {p : Pipe} (h : exec i s = .next (ended p t)) (e : t = u) :
    exec i s = .next (ended p u) := e ▸ h

/-! ## The beginning of a TASK instruction (R164) -/

theorem fullAll_one {s : State} {a : Src} (h : Full s a.reg) : FullAll s [a] := List.forall_mem_singleton.2 h

theorem fullAll_two {s : State} {a b : Src} (ha : Full s a.reg) (hb : Full s b.reg) : FullAll s [a, b] :=
  List.forall_mem_cons.2 ⟨ha, fullAll_one hb⟩

/-- Destinations that are not pending hold nothing back (R22). -/
theorem freeAll_ok {s : State} {ds : List Reg} (h : ∀ d ∈ ds, Free s d) :
    ds.foldl (fun (r : Res Unit) d => r.bind fun s _ => s.freeG d) (.ok s ()) = .ok s () := by
  induction ds with
  | nil => rfl
  | cons d ds ih =>
    obtain ⟨hd, hds⟩ := List.forall_mem_cons.1 h
    rw [List.foldl_cons, Res.bind_ok, State.freeG_ok hd]
    exact ih hds

theorem taskFirst_ok {s : State} {l : List Src} {ds : List Reg} (hc : Clear s) (hl : FullAll s l) (hd : ∀ d ∈ ds, Free s d) :
    taskFirst l ds s = .ok s () := by
  obtain ⟨-, ⟨hv, hr⟩, ha⟩ := hc
  unfold taskFirst
  rw [State.examine_ok hl, Res.bind_ok, freeAll_ok hd, Res.bind_ok, State.waitRpq_ok hv hr, Res.bind_ok, State.waitAmo_ok ha]

theorem alignOne_ok {va : Word} {n : Nat} (h : va.toNat % n = 0) (s : State) : alignAll [va] n s = .ok s () :=
  alignAll_ok (List.forall_mem_singleton.2 h) s

/-- The address of a record is good as a name (R164). -/
theorem nameOk_ok {va : Word} (h64 : va.toNat % 64 = 0) (h56 : va.toNat / 2 ^ 56 = 0) (s : State) : nameOk va s = .ok s () := by
  unfold nameOk
  rw [alignOne_ok h64, Res.bind_ok, slice_high_eq_zero h56]
  rfl

/-! ## The scheduler's acts (R172, R176) -/

@[simp] theorem State.jobs_nil (n : Nat) (s : State) : State.jobs n [] s = s := by cases n <;> rfl

theorem State.jobs_cons (n : Nat) (j : Job) (js : List Job) (s : State) :
    State.jobs (n + 1) (j :: js) s = State.jobs n ((s.job j).2 ++ js) (s.job j).1 := rfl

/-- An act that calls for no other. -/
theorem State.act_one {s t : State} {j : Job} (h : s.job j = (t, [])) : s.act [j] = t := by
  unfold State.act
  rw [State.jobs_cons, h]
  exact State.jobs_nil ..

/-- An act that calls for one other. -/
theorem State.act_two {s t u : State} {j k : Job} (h : s.job j = (t, [k])) (h' : t.job k = (u, [])) : s.act [j] = u := by
  unfold State.act
  rw [State.jobs_cons, h, List.append_nil, State.jobs_cons, h']
  exact State.jobs_nil ..

/-- A loose record without an error token is ready: it goes onto a deque (R169, R172). -/
theorem State.job_ready_loose (s : State) {w : Work} (core : Nat) (ht : w.token = false) (hg : w.gang = none) :
    s.job (.ready w core) = (s.pushDeque (if w.fixed then w.home else core) w, []) := by
  simp only [State.job, ht, hg, Bool.false_eq_true, if_false]

/-- A gang request without an error token is ready: it goes to the placer of its die (R170, R172). -/
theorem State.job_ready_gang (s : State) {w : Work} (core : Nat) (ht : w.token = false) (hg : w.gang ≠ none) :
    s.job (.ready w core) =
      (s.modDie w.home fun d => { d with placer := d.placer ++ [{ w with since := s.time }] }, []) := by
  obtain ⟨g, hg⟩ := Option.ne_none_iff_exists'.1 hg
  simp only [State.job, ht, hg, Bool.false_eq_true, if_false]

/-! ## Acceptance (R165, R166, R172) -/

theorem named_iff (c c' : Nat) (a a' : Word) : (c == c' && a == a') = true ↔ c = c' ∧ a = a' := by simp

theorem named_eq_decide (c c' : Nat) (a a' : Word) : (c == c' && a == a') = decide (c = c' ∧ a = a') := by
  rw [Bool.decide_and]
  rfl

theorem State.accept_waiting {s : State} {va : Word} (g : Option GangRec) (t : TaskRec) (core : Nat) (fixed : Bool)
    (h : ∃ w ∈ s.waiting, w.ctx = s.me.ctx ∧ w.addr = va) :
    s.accept s.me.ctx va g t core fixed false = (s, 3) := by
  have hany : (s.waiting.any fun w => w.ctx == s.me.ctx && w.addr == va) = true := by simpa using h
  unfold State.accept
  rw [hany]
  rfl

/-- A fresh record is accepted: with dependencies it waits, without any it is ready. -/
theorem State.accept_fresh {s : State} {va : Word} {g : Option GangRec} {core : Nat} (t : TaskRec) (fixed : Bool)
    (h : Fresh s va) (hg : g.isSome = true → s.clustersUp (core / 2048) ≠ 0) :
    s.accept s.me.ctx va g t core fixed false =
      (if t.deps = 0 then s.act [.ready (workOf s va g t core fixed) core]
        else { s with ready := s.ready ++ [workOf s va g t core fixed] }, 0) := by
  obtain ⟨hwait, hcred⟩ := h
  have hany : (s.waiting.any fun w => w.ctx == s.me.ctx && w.addr == va) = false :=
    List.any_eq_false.2 fun w hw => mt (named_iff ..).1 (hwait w hw)
  have hup : (g.isSome && s.clustersUp (core / 2048) == 0) = false :=
    Bool.and_eq_false_imp.2 fun h => beq_eq_false_iff_ne.2 (hg h)
  have hnone : takeFirst (fun c => c.ctx == s.me.ctx && c.addr == va) s.credits = none :=
    takeFirst_none fun c hc => Bool.eq_false_iff.2 (mt (named_iff ..).1 (hcred c hc))
  have hcount : ((t.deps : Int) - ((0 : Nat) : Int) ≤ 0) = (t.deps = 0) := propext (by omega)
  have hw : ({ ctx := s.me.ctx, addr := va, gang := g, task := t, count := (t.deps : Int) - ((0 : Nat) : Int)
               token := false || ([] : List Nat).contains t.graph, home := if g.isSome then core / 2048 else core
               fixed := fixed } : Work) = workOf s va g t core fixed := by
    unfold workOf
    rw [Int.ofNat_zero, Int.sub_zero]
    rfl
  unfold State.accept
  simp only [hany, hup, hnone, hw, hcount, Bool.false_eq_true, if_false]
  split <;> rfl

/-- What SPAWN, SPAWNR and GANG do with a record that they have read. -/
def acceptRecord (d : Reg) (va : Word) (bad : Bool) (g : Option GangRec) (t : TaskRec) (core : Nat) (fixed : Bool) (u : State) :
    State :=
  if bad then u.putG d 1
  else (u.accept u.me.ctx va g t core fixed false).1.putG d (BitVec.ofNat 64 (u.accept u.me.ctx va g t core fixed false).2)

/-- An instruction that ends with its record offered to the scheduler accepts it. -/
theorem accepts_of_ends {i : Instr} {s u : State} {d : Reg} {va : Word} {bad : Bool} {g : Option GangRec} {t : TaskRec}
    {core : Nat} {fixed : Bool} (h : exec i s = .next (ended .s (acceptRecord d va bad g t core fixed u))) :
    Accepts i s u d va bad g t core fixed := by
  refine ⟨fun hb => ?_, fun hb hw => ?_, fun hb hf hg => ?_⟩
  · rw [h, acceptRecord, if_pos hb]
  · rw [h, acceptRecord, if_neg (by rw [hb]; decide), State.accept_waiting g t core fixed hw]
    rfl
  · have ha : acceptRecord d va bad g t core fixed u = (if t.deps = 0 then u.act [.ready (workOf u va g t core fixed) core]
        else { u with ready := u.ready ++ [workOf u va g t core fixed] }).putG d 0 := by
      rw [acceptRecord, if_neg (by rw [hb]; decide), State.accept_fresh t fixed hf hg]
      rfl
    refine ⟨fun hd => ?_, fun hd hl => ?_, fun hd hl => ?_⟩
    · rw [h, ha, if_neg hd.ne']
    · subst hl
      have hcore : (if (workOf u va none t core fixed).fixed then (workOf u va none t core fixed).home else core) = core :=
        ite_self core
      rw [h, ha, if_pos hd, State.act_one (State.job_ready_loose (w := workOf u va none t core fixed) u core rfl rfl), hcore]
    · have hdie : (workOf u va g t core fixed).home = core / 2048 := if_pos (Option.isSome_iff_ne_none.2 hl)
      rw [h, ha, if_pos hd, State.act_one (State.job_ready_gang (w := workOf u va g t core fixed) u core rfl hl), ← hdie]

/-- The record of a task is read and offered (R165). -/
theorem spawnOn_ok {s u : State} {a : Src} {bs : List Byte} (d : Reg) (core : Nat) (fixed : Bool)
    (hal : (s.g a.reg).toNat % 64 = 0) (hr : s.readRecord (s.g a.reg) 64 = .ok u bs) :
    spawnOn d a core fixed s = .ok (acceptRecord d (s.g a.reg) (badTask bs) none (parseTask bs) core fixed u) () := by
  unfold spawnOn acceptRecord
  dsimp only
  rw [alignOne_ok hal, Res.bind_ok, hr, Res.bind_ok]
  split <;> rfl

section
variable {s u : State} {d : Reg} {a : Src} {bs : List Byte} (hc : Clear s) (ha : Full s a.reg) (hd : Free s d)
include hc ha hd

theorem execSpawn_accepts (hal : (s.g a.reg).toNat % 64 = 0) (hr : s.readRecord (s.g a.reg) 64 = .ok u bs) :
    Accepts (.spawn d a) s u d (s.g a.reg) (badTask bs) none (parseTask bs) s.myCore false := by
  refine accepts_of_ends ?_
  show execSpawn d a s = _
  refine issue_ends hc.1 ?_
  rw [taskFirst_ok hc (fullAll_one ha) (List.forall_mem_singleton.2 hd), Res.bind_ok]
  exact spawnOn_ok d s.myCore false hal hr

theorem execSpawnr_accepts {b : Src} (hb : Full s b.reg) (hal : (s.g a.reg).toNat % 64 = 0)
    (hr : s.readRecord (s.g a.reg) 64 = .ok u bs) (hta : s.taOk s.myCtx (s.g b.reg &&& ~~~7) = true)
    (hdev : s.devOf (s.g b.reg &&& ~~~7) = 0) :
    Accepts (.spawnr d a b) s u d (s.g a.reg) (badTask bs) none (parseTask bs) (slice (s.g b.reg &&& ~~~7) 3 13) true := by
  refine accepts_of_ends ?_
  show execSpawnr d a b s = _
  refine issue_ends hc.1 ?_
  have hneed : (s.taOk s.myCtx (s.g b.reg &&& ~~~7) && s.devOf (s.g b.reg &&& ~~~7) == 0) = true := by
    rw [hta, hdev]
    rfl
  rw [taskFirst_ok hc (fullAll_two ha hb) (List.forall_mem_singleton.2 hd), Res.bind_ok]
  dsimp only
  rw [alignOne_ok hal, Res.bind_ok, need_ok hneed, Res.bind_ok]
  exact spawnOn_ok d _ true hal hr

theorem execGang_accepts (hal : (s.g a.reg).toNat % 128 = 0) (hr : s.readRecord (s.g a.reg) 128 = .ok u bs) :
    Accepts (.gang d a) s u d (s.g a.reg) (badGang bs) (some (parseGang bs)) (parseTask ((bs.drop 64).take 64))
      u.myCore false := by
  refine accepts_of_ends ?_
  show execGang d a s = _
  refine issue_ends hc.1 ?_
  rw [taskFirst_ok hc (fullAll_one ha) (List.forall_mem_singleton.2 hd), Res.bind_ok]
  dsimp only
  rw [alignOne_ok hal, Res.bind_ok, hr, Res.bind_ok]
  unfold acceptRecord
  split <;> rfl

end

/-- Settles O26: each form reads its record and offers it to the scheduler, which answers by what waits under its address. -/
theorem taskCreation : Obligations.TaskCreation := by
  unfold Obligations.TaskCreation
  rintro s d a va u bs hc ha hd rfl
  exact ⟨fun hal hr => ⟨execSpawn_accepts hc ha hd hal hr, fun b hb hta hdev => execSpawnr_accepts hc ha hd hb hal hr hta hdev⟩,
    fun hal hr => execGang_accepts hc ha hd hal hr⟩

/-! ## Dependencies (R172 to R174) -/

theorem find_named_none {l : List Work} {c : Nat} {va : Word} (h : ∀ w ∈ l, ¬ (w.ctx = c ∧ w.addr = va)) :
    (l.find? fun w => w.ctx == c && w.addr == va) = none :=
  List.find?_eq_none.2 fun w hw => mt (named_iff ..).1 (h w hw)

/-- The ready table with the records of an address replaced, as the model writes it. -/
theorem readyWith_eq (s : State) (va : Word) (w : Work) :
    (s.ready.map fun x => if x.ctx == s.me.ctx && x.addr == va then w else x) = readyWith s va w := by
  unfold readyWith
  simp only [named_iff]

theorem readyWithout_eq (s : State) (va : Word) :
    (s.ready.filter fun x => !(x.ctx == s.me.ctx && x.addr == va)) = readyWithout s va := by
  unfold readyWithout
  simp only [named_eq_decide]

/-- A loose record without an error token, once ready, is on a deque and nothing else happens. -/
theorem State.act_ready_loose (s : State) {w : Work} (core : Nat) (ht : w.token = false) (hg : w.gang = none) :
    s.act [.ready w core] = s.pushDeque (if w.fixed then w.home else core) w :=
  State.act_one (State.job_ready_loose s core ht hg)

section
variable {s : State} {a : Src} (hc : Clear s) (ha : Full s a.reg) (h64 : (s.g a.reg).toNat % 64 = 0)
  (h56 : (s.g a.reg).toNat / 2 ^ 56 = 0)
include hc ha h64 h56

theorem execDepset_none {d : Reg} {b : Src} (hb : Full s b.reg) (hd : Free s d)
    (h : ∀ w ∈ s.ready, ¬ (w.ctx = s.me.ctx ∧ w.addr = s.g a.reg)) : Gives (.depset d a b) s d 0 := by
  show execDepset d a b s = _
  refine issue_ends hc.1 ?_
  rw [taskFirst_ok hc (fullAll_two ha hb) (List.forall_mem_singleton.2 hd), Res.bind_ok]
  dsimp only
  rw [nameOk_ok h64 h56, Res.bind_ok, find_named_none h]

/-- The count of a waiting record is set; at 0 or below the record is ready (R173). -/
theorem execDepset_waits {d : Reg} {b : Src} {w : Work} (hb : Full s b.reg) (hd : Free s d) (hw : Waits s (s.g a.reg) w) :
    exec (.depset d a b) s = .next (ended .s (
      if (sextLow (s.g b.reg) 32).toInt ≤ 0 then
        ({ s.putG d 1 with ready := readyWithout s (s.g a.reg) } : State).act
          [.ready { w with count := (sextLow (s.g b.reg) 32).toInt } s.myCore]
      else { s.putG d 1 with ready := readyWith s (s.g a.reg) { w with count := (sextLow (s.g b.reg) 32).toInt } })) := by
  show execDepset d a b s = _
  refine issue_ends hc.1 ?_
  rw [taskFirst_ok hc (fullAll_two ha hb) (List.forall_mem_singleton.2 hd), Res.bind_ok]
  dsimp only
  rw [nameOk_ok h64 h56, Res.bind_ok, hw, ← readyWith_eq, ← readyWithout_eq]
  dsimp only
  split <;> rfl

theorem execDepdec_ends (n : BitVec 16) : exec (.depdec a n) s =
    .next (ended .s (s.decrement s.me.ctx (s.g a.reg) n.toNat none s.myCore)) := by
  show execDepdec a n s = _
  refine issue_ends hc.1 ?_
  rw [taskFirst_ok hc (fullAll_one ha) (List.forall_mem_nil _), Res.bind_ok]
  dsimp only
  rw [nameOk_ok h64 h56, Res.bind_ok]

end

/-- A decrement of a record that has not come, and of which none has come before, is kept for it (R172). -/
theorem State.decrement_ahead {s : State} {va : Word} (n core : Nat)
    (hw : ∀ w ∈ s.ready, ¬ (w.ctx = s.me.ctx ∧ w.addr = va)) (hcr : ∀ c ∈ s.credits, ¬ (c.ctx = s.me.ctx ∧ c.addr = va)) :
    s.decrement s.me.ctx va n none core = { s with credits := s.credits ++ [⟨s.me.ctx, va, n, []⟩] } := by
  have hany : (s.credits.any fun c => c.ctx == s.me.ctx && c.addr == va) = false :=
    List.any_eq_false.2 fun c hc => mt (named_iff ..).1 (hcr c hc)
  refine State.act_one ?_
  unfold State.job
  simp only [find_named_none hw, hany, Bool.false_eq_true, if_false]
  rfl

/-- A decrement takes n off a waiting record's count. -/
theorem State.job_dec {s : State} {va : Word} {w : Work} (n core : Nat) (hw : Waits s va w) :
    s.job (.dec s.me.ctx va n none core) =
      if w.count - n ≤ 0 then
        ({ s with ready := readyWithout s va }, [.ready { w with count := w.count - n } core])
      else ({ s with ready := readyWith s va { w with count := w.count - n } }, []) := by
  have hfind : s.ready.find? (fun x => x.ctx == s.me.ctx && x.addr == va) = some w := hw
  have htok : (w.token || (none : Option Nat) == some w.task.graph) = w.token := Bool.or_false _
  rw [← readyWith_eq, ← readyWithout_eq]
  unfold State.job
  simp only [hfind, htok]

theorem State.decrement_waits {s : State} {va : Word} {w : Work} {n : Nat} (core : Nat) (hw : Waits s va w)
    (h : (n : Int) < w.count) :
    s.decrement s.me.ctx va n none core = { s with ready := readyWith s va { w with count := w.count - n } } :=
  State.act_one ((State.job_dec n core hw).trans (if_neg (by omega)))

theorem State.decrement_readies {s : State} {va : Word} {w : Work} {n : Nat} (core : Nat) (hw : Waits s va w)
    (h : w.count ≤ n) (ht : w.token = false) (hg : w.gang = none) :
    s.decrement s.me.ctx va n none core = ({ s with ready := readyWithout s va } : State).pushDeque
      (if w.fixed then w.home else core) { w with count := w.count - n } :=
  State.act_two ((State.job_dec n core hw).trans (if_pos (by omega)))
    (State.job_ready_loose (w := { w with count := w.count - n }) _ core ht hg)

/-! ## CANCEL (R179) -/

/-- The records that CANCEL looks through: waiting, queued on the issuing die, or at any placer. -/
def State.cancelable (s : State) : List Work :=
  s.ready ++ ((s.cores.filter fun p => p.1 / 2048 == taDie s.cur).flatMap fun p => p.2.urgent ++ p.2.normal) ++
    (s.dies.flatMap fun p => p.2.placer) ++ (s.die (taDie s.cur)).overflow

section
variable {s : State} {d : Reg} {a : Src} (hc : Clear s) (ha : Full s a.reg) (h64 : (s.g a.reg).toNat % 64 = 0)
  (h56 : (s.g a.reg).toNat / 2 ^ 56 = 0) (hd : Free s d)
include hc ha h64 h56 hd

theorem execCancel_none (prop : Bool) (h : ∀ w ∈ s.cancelable, ¬ (w.ctx = s.me.ctx ∧ w.addr = s.g a.reg)) :
    Gives (.cancel d a prop) s d 0 := by
  have hfind := find_named_none h
  unfold State.cancelable at hfind
  show execCancel d a prop s = _
  refine issue_ends hc.1 ?_
  rw [taskFirst_ok hc (fullAll_one ha) (List.forall_mem_singleton.2 hd), Res.bind_ok]
  dsimp only
  rw [nameOk_ok h64 h56, Res.bind_ok, hfind]

theorem execCancel_some (prop : Bool) {w : Work}
    (h : (s.cancelable.find? fun w => w.ctx == s.me.ctx && w.addr == s.g a.reg) = some w) :
    exec (.cancel d a prop) s = .next (ended .s (((((s.unqueue w.ctx w.addr).replayEnd w.replay 2).cancelled w s.myCore).putG d
      1).act [.done w.ctx w.addr w.task prop s.myCore])) := by
  unfold State.cancelable at h
  show execCancel d a prop s = _
  refine issue_ends hc.1 ?_
  rw [taskFirst_ok hc (fullAll_one ha) (List.forall_mem_singleton.2 hd), Res.bind_ok]
  dsimp only
  rw [nameOk_ok h64 h56, Res.bind_ok, h]

end

/-- A count read from the low 32 bits of a register (R173). -/
theorem toInt_sextLow_32 (x : Word) : (sextLow x 32).toInt = (x.setWidth 32).toInt :=
  BitVec.toInt_signExtend_of_le (by decide)

/-- Settles O27: DEPSET and CANCEL by the record that stands under the address, DEPDEC by the decrement that it is. -/
theorem dependencies : Obligations.Dependencies := by
  unfold Obligations.Dependencies
  rintro s a va hc ha rfl h64 h56
  refine ⟨?depset, ?depdec, ?cancel⟩
  case depset =>
    rintro d b n hb hd rfl
    refine ⟨execDepset_none hc ha h64 h56 hb hd, fun w hw => ?_⟩
    have h := execDepset_waits hc ha h64 h56 hb hd hw
    rw [toInt_sextLow_32] at h
    refine ⟨fun hn => ?_, fun hn ht hg => ?_⟩
    · exact ends_congr h (if_neg (not_le.2 hn))
    · exact ends_congr h ((if_pos hn).trans (State.act_ready_loose (w := { w with count := _ }) _ _ ht hg))
  case depdec =>
    intro n
    have h := execDepdec_ends hc ha h64 h56 n
    refine ⟨fun hw hcr => ?_, fun w hw => ⟨fun hn => ?_, fun hn ht hg => ?_⟩⟩
    · exact ends_congr h (State.decrement_ahead _ _ hw hcr)
    · exact ends_congr h (State.decrement_waits _ hw hn)
    · exact ends_congr h (State.decrement_readies _ hw hn ht hg)
  case cancel =>
    rintro d prop l hd rfl
    exact ⟨execCancel_none hc ha h64 h56 hd prop, fun w hw => execCancel_some hc ha h64 h56 hd prop hw⟩

/-! ## Edges (R175) -/

section
variable {s u x : State} {a : Src} {key item : Nat} {e : Edge} (hc : Clear s) (ha : Full s a.reg)
  (h64 : (s.g a.reg).toNat % 64 = 0) (he : EdgeAt s (s.g a.reg) u key e)
include hc ha h64 he

theorem execEpush_err {b : Src} (hb : Full s b.reg) (herr : e.err = true) : exec (.epush a b) s = .next (ended .s u) := by
  obtain ⟨hplace, hedge⟩ := he
  show execEpush a b s = _
  refine issue_ends hc.1 ?_
  rw [taskFirst_ok hc (fullAll_two ha hb) (List.forall_mem_nil _), Res.bind_ok]
  dsimp only
  rw [alignOne_ok h64, Res.bind_ok, hplace]
  dsimp only
  rw [hedge]
  exact if_pos herr

theorem execEpush_full {b : Src} (hb : Full s b.reg) (herr : e.err = false) (hfree : e.free = 0) :
    exec (.epush a b) s = .next u := by
  obtain ⟨hplace, hedge⟩ := he
  show execEpush a b s = _
  refine issue_waits hc.1 ?_
  rw [taskFirst_ok hc (fullAll_two ha hb) (List.forall_mem_nil _), Res.bind_ok]
  dsimp only
  rw [alignOne_ok h64, Res.bind_ok, hplace]
  dsimp only
  rw [hedge]
  exact (if_neg (by rw [herr]; decide)).trans (if_pos hfree)

/-- With room, and outside a replay run, the item is pushed. -/
theorem execEpush_pushes {b : Src} (hb : Full s b.reg) (herr : e.err = false) (hfree : e.free ≠ 0)
    (hitem : ItemAt u s.me.ctx e e.tail .w x item) (hr : x.replay.busy = false) : exec (.epush a b) s =
      .next (ended .s (x.pushItem (some x.cur) s.me.ctx key item e (x.g b.reg) x.myCore)) := by
  obtain ⟨hplace, hedge⟩ := he
  unfold ItemAt at hitem
  show execEpush a b s = _
  refine issue_ends hc.1 ?_
  rw [taskFirst_ok hc (fullAll_two ha hb) (List.forall_mem_nil _), Res.bind_ok]
  dsimp only
  rw [alignOne_ok h64, Res.bind_ok, hplace]
  dsimp only
  rw [hedge]
  simp only [herr, hfree, hitem, State.capture_idle hr, Bool.false_eq_true, if_false]

theorem execEpop_empty {d : Reg} (hd : Free s d) (hd1 : Free s (d + 1)) (hr : u.replay.busy = false) (hfill : e.fill = 0) :
    exec (.epop d a) s = .next (ended .s
      (((u.putEdge key { e with run := false }).putG (d + 1) 0).putG d (if e.err then 2 else 1))) := by
  obtain ⟨hplace, hedge⟩ := he
  show execEpop d a s = _
  refine issue_ends hc.1 ?_
  rw [taskFirst_ok hc (fullAll_one ha) (List.forall_mem_cons.2 ⟨hd, List.forall_mem_singleton.2 hd1⟩), Res.bind_ok]
  dsimp only
  rw [alignOne_ok h64, Res.bind_ok, hplace]
  dsimp only
  rw [hedge]
  dsimp only
  rw [if_pos hfill, State.capture_idle hr]

theorem execEpop_pops {d : Reg} (hd : Free s d) (hd1 : Free s (d + 1)) (hfill : e.fill ≠ 0)
    (hitem : ItemAt u s.me.ctx e e.head .r x item) (hr : x.replay.busy = false) : exec (.epop d a) s = .next (ended .s
      (((x.putEdge key { e with head := (e.head + 1) % e.cap, fill := e.fill - 1, free := e.free + 1 }).modMe
        fun sl => sl.arriveG (d + 1) (BitVec.ofNat 64 (ofBytes (x.bytes item 8))) (x.pois item 8)).putG d 0)) := by
  obtain ⟨hplace, hedge⟩ := he
  unfold ItemAt at hitem
  show execEpop d a s = _
  refine issue_ends hc.1 ?_
  rw [taskFirst_ok hc (fullAll_one ha) (List.forall_mem_cons.2 ⟨hd, List.forall_mem_singleton.2 hd1⟩), Res.bind_ok]
  dsimp only
  rw [alignOne_ok h64, Res.bind_ok, hplace]
  dsimp only
  rw [hedge]
  dsimp only
  rw [if_neg hfill, hitem]
  dsimp only
  rw [State.capture_idle hr]

end

/-- Settles O28: EPUSH and EPOP by what the edge's header holds once it is found. -/
theorem edges : Obligations.Edges := by
  unfold Obligations.Edges
  rintro s a va u key e hc ha rfl h64 he hu -
  refine ⟨fun b hb => ⟨execEpush_err hc ha h64 he hb, execEpush_full hc ha h64 he hb, ?push⟩,
    fun d hd hd1 => ⟨execEpop_empty hc ha h64 he hd hd1 hu,
      fun x item hfill hi hx => execEpop_pops hc ha h64 he hd hd1 hfill hi hx⟩⟩
  case push =>
    rintro x item v e' herr hfree hi hx rfl he'
    have h := execEpush_pushes hc ha h64 he hb herr hfree hi hx
    obtain ⟨hmoves, hreadies⟩ := x.pushItem_moves (key := key) (some x.cur) s.me.ctx item x.myCore (x.g b.reg) e' he'
    exact ⟨fun hs => ends_congr h (hmoves hs), fun hf hrun hcons => ends_congr h (hreadies hf hrun hcons)⟩

end Sys2Proof.Machine
end

section
/-! SUPPORT. The BAR instructions (R180 to R182). -/

namespace Sys2Proof.Machine

open Sys2Proof.Claims

/-! ## The slot of a gang (R180) -/

theorem State.needBar_ok {s : State} {n : BitVec 3} {b : BarSlot} (h : s.bar n = some b) : s.needBar n = .ok s b := by
  unfold State.needBar
  rw [h]

theorem State.needBar_trap {s : State} {n : BitVec 3} (h : s.bar n = none) : s.needBar n = .trap s 0x0D (zextW n) := by
  unfold State.needBar
  rw [h]

/-! ## The wait of BARWAIT and BARSYNC (R182) -/

theorem BarSlot.waiting_eq (b : BarSlot) (rank : Nat) : b.waiting rank = (standing b rank).isSome := by
  unfold BarSlot.waiting standing
  rw [Bool.eq_iff_iff, List.any_eq_true, List.find?_isSome]

/-- A rank that has not been released, or does not wait, leaves by what the slot shows. -/
theorem BarSlot.status_unreleased {b : BarSlot} {rank : Nat} (lph : Bool)
    (h : standing b rank = none ∨ standing b rank = some (rank, none)) :
    b.status rank lph = if b.pois then some b.cause else if b.ph = lph then some 0 else none := by
  unfold BarSlot.status
  unfold standing at h
  rcases h with h | h <;> rw [h]

theorem BarSlot.status_released {b : BarSlot} {rank c : Nat} (lph : Bool) (h : standing b rank = some (rank, some c)) :
    b.status rank lph = some c := by
  unfold BarSlot.status
  unfold standing at h
  rw [h]

/-- The state in which a rank that stands in a slot has left it. -/
def State.leftBar (s : State) (n : BitVec 3) (b : BarSlot) : State :=
  if b.waiting s.me.rank then s.modMyBar n (BarSlot.unwait s.me.rank) else s

section
variable {s : State} {n : BitVec 3} {b : BarSlot}

theorem State.leftBar_none (h : standing b s.me.rank = none) : s.leftBar n b = s :=
  if_neg (by rw [BarSlot.waiting_eq, h]; decide)

theorem State.leftBar_some {w : Nat × Option Nat} (h : standing b s.me.rank = some w) :
    s.leftBar n b = s.modMyBar n (BarSlot.unwait s.me.rank) :=
  if_pos (by rw [BarSlot.waiting_eq, h]; rfl)

variable (hb : s.bar n = some b) (d : Reg) (t : Bool)
include hb

theorem State.barWait_waits (h : b.status s.me.rank (s.lph n) = none) : s.barWait d n t =
    .wait (if b.waiting s.me.rank then s else s.modMyBar n fun b => { b with waits := b.waits ++ [(s.me.rank, none)] }) := by
  unfold State.barWait
  rw [State.needBar_ok hb, Res.bind_ok]
  dsimp only
  rw [h]

theorem State.barWait_passes (h : b.status s.me.rank (s.lph n) = some 0) :
    s.barWait d n t = .ok ((s.leftBar n b).putG d 0) () := by
  unfold State.barWait
  rw [State.needBar_ok hb, Res.bind_ok]
  dsimp only
  rw [h]
  rfl

/-- A status other than 0 is the result, or a BARRIER fault (R182). -/
theorem State.barWait_status {c : Nat} (hc : c ≠ 0) (h : b.status s.me.rank (s.lph n) = some c) : s.barWait d n t =
    if t then .trap ((s.leftBar n b).putLph n b.ph) 0x0D (zextW n)
    else .ok (((s.leftBar n b).putLph n b.ph).putG d (BitVec.ofNat 64 c)) () := by
  unfold State.barWait
  rw [State.needBar_ok hb, Res.bind_ok]
  dsimp only
  rw [h]
  exact if_neg hc

end

/-- The slot after a fault of its task: frozen, with the fault's code and address in its packet (R335). -/
theorem State.frozen_raise {s : State} (h : taHnd s.cur = false) (c : Nat) (v : Word) :
    (s.raise s.cur c v).me.st = .frozen ∧ (s.raise s.cur c v).me.pkt.fcode = c ∧ (s.raise s.cur c v).me.pkt.faddr = v := by
  obtain ⟨l, -, hr⟩ := State.raise_task h c v
  have hme : (s.raise s.cur c v).me = { s.me with st := .frozen, pkt := s.packetOf s.cur c v false false } := by
    rw [hr]
    exact Store.get_set_same ..
  rw [hme]
  exact ⟨rfl, rfl, rfl⟩

/-- What waits at a barrier slot does as BARWAIT does (R181, R182). -/
theorem waitsAt_of {i : Instr} {s : State} {d : Reg} {n : BitVec 3} {t : Bool} {b : BarSlot}
    (hp : Solo s) (hb : s.bar n = some b) (hi : exec i s = issue .s .outer (fun s => s.barWait d n t) s) :
    WaitsAt i s d n t b := by
  have ends {x : State} (h : s.barWait d n t = .ok x ()) : exec i s = .next (ended .s x) :=
    hi.trans (issue_ends hp h)
  have waits {x : State} (h : s.barWait d n t = .wait x) : exec i s = .next x := hi.trans (issue_waits hp h)
  refine ⟨fun hn => ?newcomer, fun hw hpois hph => ?waiting, fun c hr => ?released⟩
  case newcomer =>
    have hstat := BarSlot.status_unreleased (s.lph n) (.inl hn)
    have hleft := State.leftBar_none (n := n) hn
    have hcause (hpois : b.pois = true) : b.status s.me.rank (s.lph n) = some b.cause := hstat.trans (if_pos hpois)
    refine ⟨fun hpois hph => ?_, fun hpois hph => ?_, fun hpois hc ht => ?_, fun hpois hc ht hh => ?_⟩
    · exact ends_congr (ends (State.barWait_passes hb d t (by rw [hstat, hpois, hph]; simp))) (by rw [hleft])
    · refine (waits (State.barWait_waits hb d t (by rw [hstat, hpois]; simp [hph]))).trans ?_
      rw [BarSlot.waiting_eq, hn]
      rfl
    · refine ends_congr (ends ((State.barWait_status hb d t hc (hcause hpois)).trans (if_neg (by rw [ht]; decide)))) ?_
      rw [hleft]
    · have htrap := (State.barWait_status hb d t hc (hcause hpois)).trans (if_pos ht)
      rw [hleft] at htrap
      exact ⟨_, hi.trans (issue_traps hp htrap), State.frozen_raise (s := (s.putLph n b.ph).uncount s) hh _ _⟩
  case waiting =>
    have hstat := BarSlot.status_unreleased (s.lph n) (.inr hw)
    refine (waits (State.barWait_waits hb d t (by rw [hstat, hpois]; simp [hph]))).trans ?_
    rw [BarSlot.waiting_eq, hw]
    rfl
  case released =>
    have hstat := BarSlot.status_released (s.lph n) hr
    have hleft := State.leftBar_some (n := n) hr
    refine ⟨fun hc => ?_, fun hc ht => ?_⟩
    · subst hc
      exact ends_congr (ends (State.barWait_passes hb d t hstat)) (by rw [hleft])
    · refine ends_congr (ends ((State.barWait_status hb d t hc hstat).trans (if_neg (by rw [ht]; decide)))) ?_
      rw [hleft]

/-! ## The instructions -/

/-- BARINIT's members that stand: the ranks of the gang that have not ended (R182). -/
def State.liveRanks (s : State) : BitVec 128 :=
  match s.unitOf s.cur with
  | some u => u.members.foldl (fun w m => if m.ended then w else w ||| (1#128 <<< m.rank)) 0
  | none => 0

/-- A slot as BARINIT sets it up (R182). -/
def BarSlot.init (memb : BitVec 128) (b : BarSlot) : BarSlot :=
  if b.arr = 0 then { b with memb := memb, pois := false, cause := 0, ackx := 0, ackn := 0 } else b.poison 1

/-- A slot with k more acknowledgements to come (R182). -/
def BarSlot.expect (k : Nat) (b : BarSlot) : BarSlot :=
  if 65535 < b.ackx + k then b.poison 1 else { b with ackx := b.ackx + k }

theorem toNat_append_add {m n : Nat} (x : BitVec m) (y : BitVec n) : (x ++ y).toNat = x.toNat * 2 ^ n + y.toNat := by
  rw [BitVec.toNat_append, ← Nat.shiftLeft_add_eq_or_of_lt y.isLt, Nat.shiftLeft_eq]

/-- The two words of a bitmap of ranks, the first the lower. -/
theorem ofNat_pair (x y : Word) : BitVec.ofNat 128 (x.toNat + y.toNat * 2 ^ 64) = y ++ x := by
  refine BitVec.eq_of_toNat_eq ?_
  rw [toNat_append_add, BitVec.toNat_ofNat]
  omega

theorem countBits_le (w : BitVec 128) : countBits w ≤ 128 :=
  (List.length_filter_le ..).trans (List.length_range (n := 128)).le

/-- The word of BARSTAT (R182). -/
def State.barWord (s : State) (n : BitVec 3) (b : BarSlot) : Nat :=
  b.ackn * 2 ^ 48 + b.ackx * 2 ^ 32 + countBits b.arr * 2 ^ 24 + countBits b.memb * 2 ^ 16 + b.cause * 2 ^ 4 + b.pois.toNat * 8 +
    (s.lph n).toNat * 2 + b.ph.toNat

theorem State.barWord_fields {s : State} {n : BitVec 3} {b : BarSlot} (hx : b.ackx < 65536)
    (hc : b.cause < 16) : BitVec.ofNat 64 (s.barWord n b) =
      (BitVec.ofNat 16 b.ackn ++ BitVec.ofNat 16 b.ackx ++ BitVec.ofNat 8 (countBits b.arr) ++
        BitVec.ofNat 8 (countBits b.memb) ++ BitVec.ofNat 12 b.cause ++ BitVec.ofBool b.pois ++ 0#1 ++
        BitVec.ofBool (s.lph n) ++ BitVec.ofBool b.ph : Word) := by
  have harr := countBits_le b.arr
  have hmemb := countBits_le b.memb
  refine BitVec.eq_of_toNat_eq ?_
  simp only [toNat_append_add, BitVec.toNat_ofNat, BitVec.toNat_ofBool, State.barWord]
  generalize countBits b.arr = arr at *
  generalize countBits b.memb = memb at *
  have hp := b.pois.toNat_le
  have hl := (s.lph n).toNat_le
  have hph := b.ph.toNat_le
  omega

section
variable {s : State} {n : BitVec 3} {b : BarSlot} (hp : Solo s) (hb : s.bar n = some b)
include hp hb

theorem execBarinit_ends {x y : Src} (h : FullAll s [x, y]) : exec (.barinit n x y) s =
    .next (ended .s (s.modMyBar n (BarSlot.init (((s.g y.reg) ++ (s.g x.reg)) &&& s.liveRanks)))) := by
  show execBarinit n x y s = _
  refine issue_ends hp ?_
  rw [State.examine_ok h, Res.bind_ok, State.needBar_ok hb, Res.bind_ok]
  dsimp only
  rw [ofNat_pair]
  rfl

theorem execBararv_ends (hc : Clear s) : exec (.bararv n) s = .next (ended .s (s.sendArrival n)) := by
  obtain ⟨-, ⟨hv, hr⟩, ha⟩ := hc
  show execBararv n s = _
  refine issue_ends hp ?_
  rw [State.needBar_ok hb, Res.bind_ok, State.waitRpq_ok hv hr, Res.bind_ok, State.waitAmo_ok ha, Res.bind_ok]

theorem execBarwait_waitsAt {d : Reg} (hd : Free s d) (t : Bool) : WaitsAt (.barwait d n t) s d n t b := by
  refine waitsAt_of hp hb ?_
  show execBarwait d n t s = _
  refine issue_congr hp ?_
  rw [State.freeG_ok hd, Res.bind_ok]

theorem execBarsync_waitsAt {d : Reg} (hd : Free s d) (t : Bool) (hs : s.me.barSent = true) :
    WaitsAt (.barsync d n t) s d n t b := by
  refine waitsAt_of hp hb ?_
  show execBarsync d n t s = _
  refine issue_congr hp ?_
  rw [State.freeG_ok hd, Res.bind_ok]
  exact if_pos hs

theorem execBarsync_sends {d : Reg} (hd : Free s d) (t : Bool) (hs : s.me.barSent = false) (hc : Clear s) :
    exec (.barsync d n t) s = .next (((s.sendArrival n).modMyBar n fun b =>
      { b.unwait s.me.rank with waits := (b.unwait s.me.rank).waits ++ [(s.me.rank, none)] }).modMe fun sl =>
        { sl with barSent := true }) := by
  obtain ⟨-, ⟨hv, hr⟩, ha⟩ := hc
  show execBarsync d n t s = _
  refine issue_waits hp ?_
  rw [State.freeG_ok hd, Res.bind_ok, if_neg (by rw [hs]; decide), State.needBar_ok hb, Res.bind_ok, State.waitRpq_ok hv hr,
    Res.bind_ok, State.waitAmo_ok ha, Res.bind_ok]

theorem execBarack_ends {a : Src} (ha : Full s a.reg) : exec (.barack n a) s =
    .next (ended .s (s.modMyBar n (BarSlot.expect (slice (s.g a.reg) 0 16)))) := by
  show execBarack n a s = _
  refine issue_ends hp ?_
  rw [State.examine_ok (fullAll_one ha), Res.bind_ok, State.needBar_ok hb, Res.bind_ok]
  rfl

theorem execBarpois_ends : exec (.barpois n) s = .next (ended .s (s.modMyBar n fun b => b.poison 3)) := by
  show execBarpois n s = _
  refine issue_ends hp ?_
  rw [State.needBar_ok hb, Res.bind_ok]

theorem execBarstat_ends {d : Reg} (hd : Free s d) : exec (.barstat d n) s = .next (ended .s
    ((if b.pois then s.putLph n b.ph else s).putG d (BitVec.ofNat 64 (s.barWord n b)))) := by
  show execBarstat d n s = _
  refine issue_ends hp ?_
  rw [State.freeG_ok hd, Res.bind_ok, State.needBar_ok hb, Res.bind_ok]
  rfl

end

/-- Settles O30: each instruction acts on the slot that it finds; without one BARPOIS raises. -/
theorem barriers : Obligations.Barriers := by
  unfold Obligations.Barriers
  intro s n hp
  refine ⟨fun b hb => ⟨fun x y h => execBarinit_ends hp hb h, execBararv_ends hp hb, fun d t hd =>
      ⟨execBarwait_waitsAt hp hb hd t, execBarsync_waitsAt hp hb hd t, execBarsync_sends hp hb hd t⟩,
      fun a ha => ⟨_, rfl, execBarack_ends hp hb ha⟩, execBarpois_ends hp hb, fun d hd _ hx hc => ?stat⟩, fun hb hh => ?fault⟩
  case stat => exact ends_congr (execBarstat_ends hp hb hd) (by rw [State.barWord_fields hx hc])
  case fault =>
    show ∃ t, execBarpois n s = .next t ∧ _
    exact issue_faulted hp hh (by rw [State.needBar_trap hb]; rfl)

end Sys2Proof.Machine
end

section
/-! SUPPORT. Atomics: where they are issued, at their home, and their return (R215 to R218). -/

namespace Sys2Proof.Machine

open Sys2Proof.Claims

/-! ## The issue of an atomic (R216, R217) -/

/-- Entries dropped from the L1 caches. -/
theorem CachesOnly.dropL1 {s t : State} (h : CachesOnly s t) (line : Nat) (but : Option Nat) : CachesOnly s (t.dropL1 line but) :=
  h.trans ⟨_, _, _, rfl⟩

/-- A translation that succeeds loads an entry that allows the access, and marks its page if it writes (R321, R322). -/
theorem State.translate_some {s u : State} {c : Ctx} {who : Option Nat} {va : Word} {k : Acc3} {p : Place}
    (h : s.translate c who va k = (u, some p)) : ∃ x e, s.tlbLoad c who va.toNat = (x, some e) ∧ pteAllows e.pte k = true ∧
      p = Place.ofEntry e va.toNat ∧ u = if k.writes then x.markDirty c who va else x := by
  unfold State.translate State.look State.lookOn at h
  unfold State.tlbLoad
  generalize s.tlbLoadOn c (dieOf who) who va.toNat = l at h ⊢
  obtain ⟨x, _ | e⟩ := l
  · cases h
  · by_cases ha : pteAllows e.pte k = true
    · simp only [ha, if_true, Prod.mk.injEq, Option.some.injEq] at h
      exact ⟨x, e, rfl, ha, h.2.symm, h.1.symm⟩
    · simp [ha] at h

section
variable {s u : State} {va : Word} {n key : Nat}

theorem State.protAll_amoPlaced (h : AmoPlaced s va n u key) : s.protAll [(va, n)] true = .ok s () := by
  have hp : (s.protect s.cur va n true).isNone = false := by
    obtain ⟨-, hprot, -⟩ | ⟨hq, h56, -⟩ := h
    · rw [hprot]
      rfl
    · rw [State.protect_outside h56 hq]
      rfl
  unfold State.protAll
  rw [List.find?_cons_of_neg (by rw [hp]; decide), List.find?_nil]

/-- An atomic whose location takes it has its place there. -/
theorem State.amoPlace_ok (h : AmoPlaced s va n u key) : ∃ p q, s.amoPlace va n = .ok u (p, q) ∧ p.key = key := by
  obtain ⟨-, hprot, rfl⟩ | ⟨hq, h56, p, htr, hkey, hview, hmt⟩ := h
  · refine ⟨⟨key, 0, false, none, 0, 0⟩, true, ?_, rfl⟩
    unfold State.amoPlace
    rw [hprot]
  · obtain ⟨x, e, hload, hallow, rfl, rfl⟩ := State.translate_some htr
    have hok : ((Place.ofEntry e va.toNat).view.isSome || (Place.ofEntry e va.toNat).mt == 4) = false := by
      rw [hview, beq_eq_false_iff_ne.2 hmt]
      rfl
    refine ⟨_, false, ?_, hkey⟩
    unfold State.amoPlace
    rw [State.protect_outside h56 hq]
    simp only [hload, hok, hallow, Bool.false_eq_true, if_false, if_true]
    rfl

theorem WalksOnly.of_amoPlaced (h : AmoPlaced s va n u key) : WalksOnly s u := by
  obtain ⟨-, -, rfl⟩ | ⟨-, -, p, htr, -⟩ := h
  · exact WalksOnly.refl u
  · obtain ⟨x, e, hload, -, -, rfl⟩ := State.translate_some htr
    have hw := WalksOnly.tlbLoadOn s s.myCtx (dieOf (some s.cur)) (some s.cur) va.toNat
    unfold State.tlbLoad at hload
    rw [hload] at hw
    exact hw.trans (WalksOnly.markDirtyOn ..)

end

section
variable {s : State} {dst : Dst}

theorem fullAll_dst (h : Takes s dst) : FullAll s dst.srcs := by
  cases dst with
  | loc d => exact List.forall_mem_nil _
  | rem n e => exact fullAll_one h.1

theorem State.freeDst_ok (h : Takes s dst) : s.freeDst dst = .ok s () := by
  cases dst with
  | loc d => exact State.freeG_ok h
  | rem n e => rfl

theorem State.remTarget_ok (h : Takes s dst) : s.remTarget dst = .ok s () := by
  cases dst with
  | loc d => rfl
  | rem n e => exact need_ok (State.taOk_of_named _ h.2) ..

end

/-- What an atomic does with its place before it is sent: it counts, and brings a location of the device's memory into the
last-level cache (R217). -/
def amoLook (u : State) (p : Place) (q : Bool) (h : Hint) : State :=
  let s := u.countMe 15 1
  let s := if q then (s.countMe 16 1).countMe 13 1 else s
  if p.dev then ((s.dropL1 (p.pa / 128) none).lookHome (some s.cur) (p.pa / 128) h).1 else s

theorem CachesOnly.amoLook (u : State) (p : Place) (q : Bool) (h : Hint) : CachesOnly u (amoLook u p q h) := by
  have hcount : CachesOnly u (u.countMe 15 1) := (CachesOnly.refl u).countMe 15 1
  have hqlm : CachesOnly u (if q then ((u.countMe 15 1).countMe 16 1).countMe 13 1 else u.countMe 15 1) := by
    cases q
    · exact hcount
    · exact (hcount.countMe 16 1).countMe 13 1
  unfold Machine.amoLook
  dsimp only
  split
  · exact (hqlm.dropL1 _ _).lookHome ..
  · exact hqlm

/-- With its sources FULL, its destination ready, its waits passed and its location placed, an atomic is sent (R216): its
lookups change caches and counters alone. -/
theorem amoOp_sends {s u : State} {fn : AmoFn} {ty : Ty} {rm : Rm} {l : List Src} {dst : Dst} {a b : Reg} {c : Option Reg}
    {off : W32} {rl : Option Scope} {key : Nat} (aq : Bool) (h : Hint) (hc : Clear s) (hl : FullAll s l) (hd : Takes s dst)
    (hrl : ∀ sc, rl = some sc → Released s sc) (hal : (s.g a + sextW off).toNat % (ty.width / 8) = 0)
    (hpl : AmoPlaced s (s.g a + sextW off) (ty.width / 8) u key) :
    ∃ (x : State) (p : Place) (y : Word), CachesOnly u x ∧ p.key = key ∧ ∀ t,
      x.sendAmo fn ty rm p dst (x.g b) y aq = .ok t () →
      amoOp fn ty rm l dst a b c off rl aq h s = .next (ended .s t) := by
  obtain ⟨hp, ⟨hv, hr⟩, ha⟩ := hc
  obtain ⟨p, q, hplace, hkey⟩ := State.amoPlace_ok hpl
  have hwait : (match rl with | some sc => s.release sc | none => s.waitRpq) = .ok s () := by
    cases rl with
    | none => exact State.waitRpq_ok hv hr
    | some sc => exact State.release_ok (hrl sc rfl)
  have hsrc : FullAll s (l ++ dst.srcs) := List.forall_mem_append.2 ⟨hl, fullAll_dst hd⟩
  refine ⟨amoLook u p q h, p, c.elim 0 fun r => (amoLook u p q h).g r, CachesOnly.amoLook u p q h, hkey,
    fun t ht => issue_ends hp ?_⟩
  dsimp only
  rw [State.examine_ok hsrc, Res.bind_ok, State.freeDst_ok hd, Res.bind_ok]
  refine (congrArg (Res.bind · _) hwait).trans ?_
  rw [Res.bind_ok, State.waitAmo_ok ha, Res.bind_ok, alignOne_ok hal, Res.bind_ok, State.remTarget_ok hd, Res.bind_ok,
    State.protAll_amoPlaced hpl, Res.bind_ok, hplace, Res.bind_ok]
  cases c <;> exact ht

/-- An atomic's request is put on its way; only the destination or STQ of its slot changes. -/
theorem State.sendAmo_posts (s : State) (fn : AmoFn) (ty : Ty) (rm : Rm) (p : Place) (dst : Dst) (x y : Word) (aq : Bool) :
    ∃ (t : State) (r : AmoReq), s.sendAmo fn ty rm p dst x y aq = .ok t () ∧ t.nextPc = s.nextPc ∧
      t.agenda = s.agenda ++ [.atomicAtHome r] ∧ r.fn = fn ∧ r.key = p.key := by
  cases dst with
  | loc d =>
    by_cases h0 : d = 0
    · exact ⟨_, _, if_pos h0, State.nextPc_modMe s (f := fun sl => { sl with stq := sl.stq + 1 }) rfl rfl, rfl, rfl, rfl⟩
    · exact ⟨_, _, if_neg h0, State.nextPc_modMe s (f := fun sl => sl.pendFor d aq)
        (Slot.pendFor_pc ..) (Slot.pendFor_ilen ..), rfl, rfl, rfl⟩
  | rem n e => exact ⟨_, _, rfl, rfl, rfl, rfl, rfl⟩

/-- An atomic ends with a request for its function at its location under way. -/
def AmoGoes (i : Instr) (s u : State) (fn : AmoFn) (key : Nat) : Prop :=
  ∃ t r, exec i s = .next t ∧ t.me.pc = s.nextPc ∧ t.agenda = u.agenda ++ [.atomicAtHome r] ∧ r.fn = fn ∧ r.key = key

theorem amoGoes_of {i : Instr} {s u : State} {fn : AmoFn} {ty : Ty} {rm : Rm} {l : List Src} {dst : Dst} {a b : Reg}
    {c : Option Reg} {off : W32} {rl : Bool} {sc : Scope} {aq : Bool} {h : Hint} {key : Nat} (hc : Clear s)
    (hl : FullAll s l) (hd : Takes s dst) (hrl : rl = true → Released s sc)
    (hal : (s.g a + sextW off).toNat % (ty.width / 8) = 0) (hpl : AmoPlaced s (s.g a + sextW off) (ty.width / 8) u key)
    (hi : exec i s = amoOp fn ty rm l dst a b c off (if rl then some sc else none) aq h s) : AmoGoes i s u fn key := by
  have hrl' : ∀ sc', (if rl then some sc else none) = some sc' → Released s sc' := by
    intro sc' he
    cases rl with
    | false => cases he
    | true => cases he; exact hrl rfl
  obtain ⟨x, p, y, hx, rfl, hsends⟩ := amoOp_sends (fn := fn) (rm := rm) (b := b) (c := c) aq h hc hl hd hrl' hal hpl
  obtain ⟨t, r, hok, hpc, hag, hfn, hkey⟩ := x.sendAmo_posts fn ty rm p dst (x.g b) y aq
  refine ⟨_, r, hi.trans (hsends t hok), (ended_pc ..).trans ?_, ?_, hfn, hkey⟩
  · rw [hpc, ((WalksOnly.of_amoPlaced hpl).trans (.of_caches hx)).sameSlots.nextPc]
  · rw [ended_agenda, hag, hx.agenda]

theorem exec_of_amoTable : ∀ e ∈ amoTable, ∀ (o : AmoOp) (s : State), exec (e.1 o) s = amo e.2 o s := by
  simp only [amoTable, List.forall_mem_cons]
  exact ⟨fun _ _ => rfl, fun _ _ => rfl, fun _ _ => rfl, fun _ _ => rfl, fun _ _ => rfl, fun _ _ => rfl, fun _ _ => rfl,
    fun _ _ => rfl, fun _ _ => rfl, fun _ _ => rfl, fun _ _ => rfl, fun _ _ => rfl, List.forall_mem_nil _⟩

section
variable {s u : State} {key : Nat} (hc : Clear s)
include hc

theorem execAmo_goes {e : (AmoOp → Instr) × AmoFn} (he : e ∈ amoTable) {o : AmoOp} (hl : FullAll s [o.a, o.b])
    (hd : Takes s o.dst) (hrl : o.rl = true → Released s o.sc)
    (hal : (s.g o.a.reg + sextW o.off).toNat % (o.ty.width / 8) = 0)
    (hpl : AmoPlaced s (s.g o.a.reg + sextW o.off) (o.ty.width / 8) u key) : AmoGoes (e.1 o) s u e.2 key :=
  amoGoes_of (rm := o.rm) (b := o.b.reg) (c := none) (aq := o.aq) (h := o.hint) hc hl hd hrl hal hpl
    (exec_of_amoTable e he o s)

theorem execAmoCas_goes {o : CasOp} (hl : FullAll s [o.a, o.b, o.c]) (hd : Takes s o.dst) (hrl : o.rl = true → Released s o.sc)
    (hal : (s.g o.a.reg + sextW o.off).toNat % (o.ty.width / 8) = 0)
    (hpl : AmoPlaced s (s.g o.a.reg + sextW o.off) (o.ty.width / 8) u key) : AmoGoes (.amoCas o) s u .cas key := by
  have hi : exec (.amoCas o) s = execAmoCas o s := rfl
  exact amoGoes_of (rm := .rne) (b := o.b.reg) (c := some o.c.reg) (aq := o.aq) (h := o.hint) hc hl hd hrl hal hpl hi

end

/-! ## The home, and the return (R216 to R218) -/

section
variable {s : State} {r : AmoReq} (hi : s.replay.busy = false) (hk : r.key < 2 ^ 64)
include hi hk

/-- Outside a replay run a location of the device's memory performs its atomic. -/
theorem execAtomicAtHome_device : exec (.atomicAtHome r) s = .next (s.doAmo r) := by
  have hholds : s.replayHolds r = false := by
    unfold State.replayHolds
    simp [hi]
  have hkey : ¬ (2 ^ 64 ≤ r.key ∧ r.key < 2 * 2 ^ 64) := by omega
  show execAtomicAtHome r s = _
  unfold execAtomicAtHome
  rw [if_neg (by rw [hholds]; decide), if_neg hkey]

theorem State.doAmo_device : s.doAmo r =
    if s.pois r.key (r.ty.width / 8) then
      (s.report ⟨1, 6, 0, 0, 0, 0, BitVec.ofNat 64 (r.key % 2 ^ 64), BitVec.ofNat 64 r.req.ta, none, 0⟩).post
        (.atomicReturn r 0 true)
    else
      (s.putBytes r.key (toBytes (r.ty.width / 8)
          (amoNew r.fn r.ty r.rm (ofBytes (s.bytes r.key (r.ty.width / 8))) r.x.toNat r.y.toNat))).post
        (.atomicReturn r (amoOld r.fn r.ty (ofBytes (s.bytes r.key (r.ty.width / 8)))) false) := by
  have hreplay : s.replayAmo r = s := by
    unfold State.replayAmo
    simp [hi]
  have hkey : ¬ (3 * 2 ^ 64 ≤ r.key ∧ s.host.lost.contains (r.key / 2 ^ 64 - 3) = true) := by omega
  unfold State.doAmo
  simp only [hreplay]
  rw [if_neg hkey]
  simp only [State.capture_idle hi]

theorem execAtomicAtHome_clean (hp : s.pois r.key (r.ty.width / 8) = false) : ∃ new old, exec (.atomicAtHome r) s =
    .next ((s.putBytes r.key (toBytes (r.ty.width / 8) new)).post (.atomicReturn r old false)) :=
  ⟨_, _, by rw [execAtomicAtHome_device hi hk, State.doAmo_device hi hk, if_neg (by rw [hp]; decide)]⟩

theorem execAtomicAtHome_poison (hp : s.pois r.key (r.ty.width / 8) = true) : ∃ t, exec (.atomicAtHome r) s = .next t ∧
    t.mem = s.mem ∧ .atomicReturn r 0 true ∈ t.agenda := by
  refine ⟨_, execAtomicAtHome_device hi hk, ?_⟩
  rw [State.doAmo_device hi hk, if_pos hp]
  exact ⟨rfl, List.mem_concat_self⟩

end

section
variable {s : State} {r : AmoReq} (h : InSlot s r.req) (old : Word)
include h

theorem execAtomicReturn_none (hd : r.dest = .none) : exec (.atomicReturn r old false) s =
    .next (s.modSlot r.req.ta fun sl => { sl with stq := sl.stq - 1 }) := by
  show execAtomicReturn r old false s = _
  unfold execAtomicReturn
  rw [hd]
  exact congrArg _ (State.modTask_inSlot h _)

theorem execAtomicReturn_loc {d : Reg} (hd : r.dest = .loc d) : exec (.atomicReturn r old false) s =
    .next (s.modSlot r.req.ta fun sl => sl.setG d ⟨old, .full, false⟩) := by
  show execAtomicReturn r old false s = _
  unfold execAtomicReturn
  rw [hd]
  exact congrArg _ (State.modTask_inSlot h _)

end

end Sys2Proof.Machine
end

section
/-! SUPPORT. L2 control, fences and messages: where they complete (R193 to R199, R209, R220 to R226). -/

namespace Sys2Proof.Machine

open Sys2Proof.Claims

/-! ## L2 control (R195 to R199) -/

/-- The state after L2PIN: a register is taken where the status is 0 (R195). -/
def State.pinned (s : State) (va : Word) (pages : List (Nat × Nat)) (len w : Nat) : State :=
  if (s.pinStatus pages len w).1 = 0 then
    s.setRetain (s.pinStatus pages len w).2.1 (some { ctx := s.me.ctx, vbase := va, base := (pages.map Prod.fst).headD 0
                                                      len := len, ways := (s.pinStatus pages len w).2.2 })
  else s

theorem State.pinned_eq (s : State) (va : Word) (pages : List (Nat × Nat)) (len w : Nat) :
    s.pinned va pages len w = s ∨ ∃ i r, s.pinned va pages len w = s.setRetain i r := by
  unfold State.pinned
  split
  · exact .inr ⟨_, _, rfl⟩
  · exact .inl rfl

section
variable {s : State} {d : Reg} {a : Src} (hp : Solo s) (hset : Settled s) (hd : Free s d)

include hset hd in
/-- What an L2 instruction does first lets it go on (R199). -/
theorem l2First_ok {l : List Src} (hl : FullAll s l) : l2First l [d] s = .ok s () := by
  obtain ⟨⟨hv, hr⟩, hstq, hout⟩ := hset
  have hidle : (s.me.stq == 0 && !s.dataOut s.me.uid) = true := by
    rw [hstq, hout]
    rfl
  unfold l2First
  rw [State.examine_ok hl, Res.bind_ok, freeAll_ok (List.forall_mem_singleton.2 hd), Res.bind_ok, State.waitRpq_ok hv hr,
    Res.bind_ok, await_ok hidle]

/-- A register that an index names is the context's (R196). -/
theorem State.needRetain_ok {v : Word} {r : Retention} (hlt : v.toNat < 16) (hr : retained s v.toNat = some r)
    (hctx : r.ctx = s.me.ctx) : s.needRetain v = .ok s (v.toNat, r) := by
  unfold State.needRetain
  rw [show s.retain.toList.getD v.toNat none = some r from hr]
  exact if_pos ⟨hctx, hlt⟩

include hp hset hd

theorem execL2pin_ends {b : Src} (hl : FullAll s [a, b]) (w : BitVec 4) {len : Nat} {u : State} {pages : List (Nat × Nat)}
    (hlen : len = (s.g b.reg).toNat) (hva : (s.g a.reg).toNat % 128 = 0) (h128 : len % 128 = 0) (h0 : len ≠ 0)
    (hpin : s.pinPages (some s.cur) s.myCtx (rangePages (s.g a.reg).toNat len) = (u, .ok pages)) :
    ∃ (v : Word) (y : State), exec (.l2pin d a b w) s = .next (ended .s (y.putG d v)) ∧
      (y = u ∨ ∃ i r, y = u.setRetain i r) := by
  subst hlen
  refine ⟨BitVec.ofNat 64 ((u.pinStatus pages (s.g b.reg).toNat w.toNat).1 * 2 ^ 8 +
    (u.pinStatus pages (s.g b.reg).toNat w.toNat).2.1), u.pinned (s.g a.reg) pages (s.g b.reg).toNat w.toNat, ?_,
    u.pinned_eq _ _ _ _⟩
  show execL2pin d a b w s = _
  refine issue_ends hp ?_
  rw [l2First_ok hset hd hl, Res.bind_ok]
  dsimp only
  rw [if_neg (by omega), hpin]
  rfl

theorem execL2unpin_ends {r : Retention} (ha : Full s a.reg) (hlt : (s.g a.reg).toNat < 16)
    (hr : retained s (s.g a.reg).toNat = some r) (hctx : r.ctx = s.me.ctx) :
    exec (.l2unpin d a) s = .next (ended .s ((s.setRetain (s.g a.reg).toNat none).putG d 0)) := by
  show execL2unpin d a s = _
  refine issue_ends hp ?_
  rw [l2First_ok hset hd (fullAll_one ha), Res.bind_ok, State.needRetain_ok hlt hr hctx, Res.bind_ok]

theorem execL2stat_ends {r : Retention} (ha : Full s a.reg) (hlt : (s.g a.reg).toNat < 16)
    (hr : retained s (s.g a.reg).toNat = some r) (hctx : r.ctx = s.me.ctx) (c : Bool) :
    exec (.l2stat d a c) s = .next (ended .s
      ((if c then s.setRetain (s.g a.reg).toNat (some { r with hits := 0, miss := 0 }) else s).putG d
        (BitVec.ofNat 64 (r.miss * 2 ^ 32 + r.hits)))) := by
  show execL2stat d a c s = _
  refine issue_ends hp ?_
  rw [l2First_ok hset hd (fullAll_one ha), Res.bind_ok, State.needRetain_ok hlt hr hctx, Res.bind_ok]

theorem execL2flush_ends {b : Src} (hl : FullAll s [a, b]) :
    ∃ (u : State) (n : Nat), exec (.l2flush d a b) s = .next (ended .s (u.putG d (BitVec.ofNat 64 n))) ∧
      (u, n) = s.flushPages s.myCtx ((s.g a.reg).toNat + (s.g b.reg).toNat - 1)
        (rangePages (s.g a.reg).toNat (s.g b.reg).toNat) := by
  refine ⟨_, _, ?_, rfl⟩
  show execL2flush d a b s = _
  refine issue_ends hp ?_
  rw [l2First_ok hset hd hl, Res.bind_ok]

end

/-! ## Fences and messages (R220 to R226) -/

/-- The state after IFENCE: what was fetched beyond it is discarded (R222). -/
def State.refetching (s : State) : State :=
  ((s.modQuad (taQuad s.cur) fun q => { q with icache := [] }).modMe fun sl => { sl with fbuf := sl.fbuf.take 1 }).countMe 30 1

theorem State.refetching_nextPc (s : State) : s.refetching.nextPc = s.nextPc :=
  (State.countMe_nextPc ..).trans (State.nextPc_modMe (s.modQuad (taQuad s.cur) fun q => { q with icache := [] })
    (f := fun sl => { sl with fbuf := sl.fbuf.take 1 }) rfl rfl)

theorem State.refetching_icache (s : State) : (s.refetching.quad (taQuad s.cur)).icache = [] := by
  rw [State.quad, State.refetching, State.countMe_quads]
  exact congrArg _ (Store.get_set_same ..)

theorem ended_quads (p : Pipe) (s : State) : (ended p s).quads = s.quads := by
  rw [ended, State.retireTo_quads, State.countIssue_quads]

section
variable {s : State} (hp : Solo s)
include hp

theorem execFence_ends (sc : Scope) (hset : Settled s) (hpm : s.me.pm = 0) : exec (.fence sc) s = .next (ended .s s) := by
  obtain ⟨⟨hv, hr⟩, hstq, hout⟩ := hset
  have hquiet : (!s.dataOut s.me.uid) = true := by rw [hout]; rfl
  show execFence sc s = _
  refine issue_ends hp ?_
  rw [State.waitRpq_ok hv hr, Res.bind_ok, await_ok hquiet, Res.bind_ok,
    State.release_ok ⟨⟨hv, hr⟩, fun _ => hstq, fun _ => hpm⟩]

theorem execIfence_ends : exec .ifence s = .next (ended .s s.refetching) := by
  show execIfence s = _
  exact issue_ends hp rfl

theorem execDrain_ends (hset : Settled s) (hm : s.mailOut s.cur = false) (hc : s.me.copn = 0) :
    exec .drain s = .next (ended .s s) := by
  obtain ⟨⟨hv, hr⟩, hstq, hout⟩ := hset
  have hidle : (s.me.stq == 0 && !s.dataOut s.me.uid && !s.mailOut s.cur && s.me.copn == 0) = true := by
    rw [hstq, hout, hm, hc]
    rfl
  show execDrain s = _
  refine issue_ends hp ?_
  rw [State.waitRpq_ok hv hr, Res.bind_ok, await_ok hidle]

end

/-- Where none of a sender's remote writes to a thread is on its way, nothing lands. -/
theorem State.flushMail_none {s : State} {sender : Word} {ta : Nat} (h : ∀ i ∈ s.agenda, isMail sender ta i = false) :
    s.flushMail sender ta = s := by
  have hnone : s.agenda.filter (isMail sender ta) = [] :=
    List.filter_eq_nil_iff.2 fun i hi => by rw [h i hi]; decide
  have hall : (s.agenda.filter fun i => !isMail sender ta i) = s.agenda :=
    List.filter_eq_self.2 fun i hi => by rw [h i hi]; rfl
  unfold State.flushMail
  rw [hnone, hall]
  rfl

/-- The message of SENDAM (R225). -/
def State.amMsg (s : State) (b c e : Src) (imm : W32) (core : Nat) : RxMsg :=
  { kind := 2, sender := s.selfAddr, ctx := s.me.ctx, ta := hndOf core, value := s.g c.reg
    w2h := imm, w3 := s.g e.reg, more := [s.g b.reg, BitVec.ofNat 64 s.me.ctx, 0, 0] }

theorem execSendam_ends {s : State} {a b c e : Src} {imm : W32} {core : Nat} (hc : Clear s) (hh : taHnd s.cur = false)
    (hl : FullAll s [a, b, c, e]) (hn : Named s (s.g a.reg)) (hbit : (s.g a.reg).getLsbD 2 = true)
    (hcore : core = (s.g a.reg).toNat / 8) (hmail : ∀ i ∈ s.agenda, isMail (BitVec.ofNat 64 s.cur) (8 * core + 4) i = false)
    (hsent : s.me.sent = false) (hsending : s.me.sending = false) (hheld : (s.core core).held = [])
    (hfits : (s.core core).rxFits (s.amMsg b c e imm core) = true) :
    exec (.sendam a b c e imm) s = .next (ended .s (s.rxPut core (s.amMsg b c e imm core))) := by
  obtain ⟨hp, ⟨hv, hr⟩, ha⟩ := hc
  have hlow := hn.1
  have hslice : slice (s.g a.reg) 3 13 = core := by
    rw [slice, Nat.shiftRight_eq_div_pow]
    omega
  have hneed : (bit (s.g a.reg) 2 && s.taOk s.myCtx (s.g a.reg)) = true := by
    rw [State.taOk_of_named _ hn, bit, hbit]
    rfl
  have hflush : s.flushMail s.selfAddr (hndOf core) = s := by
    rw [hndOf, Nat.mul_comm]
    exact State.flushMail_none hmail
  have hopen : s.rxOpen core (s.amMsg b c e imm core) = true := by
    unfold State.rxOpen
    dsimp only
    rw [hheld, hfits]
    rfl
  have hgive : s.rxGive core (s.amMsg b c e imm core) = s.rxPut core (s.amMsg b c e imm core) := if_neg (by decide : ¬ (2 = 0))
  show execSendam a b c e imm s = _
  refine issue_ends hp ?_
  rw [State.examine_ok hl, Res.bind_ok]
  dsimp only
  rw [need_ok hneed, Res.bind_ok, State.waitRpq_ok hv hr, Res.bind_ok, State.waitAmo_ok ha, Res.bind_ok,
    if_neg (not_not.2 (State.devOf_local hlow)), hslice, if_neg (by rw [hsent]; decide), if_neg (by rw [hsending]; decide),
    if_neg (by rw [hh]; decide), hflush]
  exact (if_pos hopen).trans (by rw [← hgive]; rfl)

end Sys2Proof.Machine
end

section
/-! SUPPORT. Copies, tags and collectives: where they complete (R233 to R239, R243). -/

namespace Sys2Proof.Machine

open Sys2Proof.Claims

/-! ## Copies (R233 to R236) -/

theorem slice_zero_eq_mod {n : Nat} (x : BitVec n) (len : Nat) : slice x 0 len = x.toNat % 2 ^ len := rfl

theorem slice_eq_div_mod {n : Nat} (x : BitVec n) (lo len : Nat) : slice x lo len = x.toNat / 2 ^ lo % 2 ^ len := by
  rw [slice, Nat.shiftRight_eq_div_pow]

theorem Slot.shadowAt_of_toList {sl : Slot} {i : Nat} {w : Word} (h : sl.shadow.toList[i]? = some w) : sl.shadowAt i = w := by
  unfold Slot.shadowAt
  simp_all

/-- The operation that CPGO launches is the one its shadow registers ask for (R233). -/
theorem State.newCopy_launched (s : State) : Launched s s.newCopy s.newCopy.id := by
  unfold State.newCopy
  extract_lets sl ctl e o
  have h : Launched s o o.id :=
    { id := rfl
      req := ⟨rfl, rfl, rfl, rfl, rfl⟩
      shape := rfl
      control := fun w cdep h5 h6 => by
        have hctl : ctl = w := Slot.shadowAt_of_toList h5
        refine ⟨?_, ?_, congrArg (bit · 31) hctl, Slot.shadowAt_of_toList h6, ?_⟩
        · rw [← hctl]
          exact slice_zero_eq_mod ctl 2
        · rw [← hctl]
          exact slice_eq_div_mod ctl 2 6
        · rw [← hctl]
          exact congrArg (fun n => if bit ctl 30 then some n else none) (slice_eq_div_mod ctl 24 6)
      plain := ⟨rfl, rfl, rfl, rfl⟩
      reach := ⟨rfl, rfl⟩ }
  have hboth (b : Bool) : Launched s (if b then { o with st := 2, status := 1 } else o)
      (if b then { o with st := 2, status := 1 } else o).id := by
    cases b
    · exact h
    · exact ⟨rfl, h.req, h.shape, h.control, h.plain, h.reach⟩
  exact hboth _

/-- The state after CPGO, but for its result (R230, R233). -/
def State.launchCopy (s : State) : State :=
  let t := ((s.modEng (copyEngine s.cur) fun x => { x with seq := nextSeq x.seq, ops := x.ops ++ [s.newCopy] }).modMe
    fun sl => { sl with copn := sl.copn + 1 }).countMe 22 1
  if s.newCopy.st = 2 then t.complete s.newCopy else t.post (.copyExecute (copyEngine s.cur))

/-- The state after CPABORT of an operation, but for its result (R236, R245). -/
def State.aborting (s : State) (o : EngOp) : State :=
  match o.coll with
  | none => if o.st = 3 then s else s.abortOp o 5
  | some c => if o.st = 1 then (s.abortOp o 5).post (.collectiveAbort o.ctx c.grp c.op) else s

/-- The word of CPSTAT (R235). -/
def opWord : Option EngOp → Nat
  | some o => Nat.min o.written 0xFFFFFFFF * 2 ^ 32 + o.st
  | none => 0

section
variable {s : State} (hp : Solo s)

include hp in
theorem execCpset_ends {i : BitVec 3} {a : Src} (h : i.toNat < 7) (ha : Full s a.reg) : exec (.cpset i a) s =
    .next (ended .v (s.modMe fun sl => { sl with shadow := sl.shadow.set i.toNat (s.g a.reg) h })) := by
  show execCpset i a s = _
  refine issue_ends hp ?_
  rw [State.examine_ok (fullAll_one ha), Res.bind_ok, dif_pos h]

theorem execCpgo_ends {d : Reg} (hc : Clear s) (hd : Free s d)
    (hroom : ((s.eng (copyEngine s.cur)).ops.filter fun o => o.st == 1).length < 64) :
    exec (.cpgo d) s = .next (ended .v (s.launchCopy.putG d (s.newCopy.id.setWidth 64))) := by
  obtain ⟨hp, ⟨hv, hr⟩, ha⟩ := hc
  show execCpgo d s = _
  refine issue_ends hp ?_
  rw [State.freeG_ok hd, Res.bind_ok, State.waitRpq_ok hv hr, Res.bind_ok, State.waitAmo_ok ha, Res.bind_ok]
  exact if_neg (by omega)

variable {d : Reg} {a : Src} (ha : Full s a.reg) (hd : Free s d)
include hp ha hd

theorem execCpstat_ends : exec (.cpstat d a) s =
    .next (ended .v (s.putG d (BitVec.ofNat 64 (opWord (s.myOp (s.g a.reg)))))) := by
  show execCpstat d a s = _
  refine issue_ends hp ?_
  rw [State.examine_ok (fullAll_one ha), Res.bind_ok, State.freeG_ok hd, Res.bind_ok]
  cases s.myOp (s.g a.reg) <;> rfl

theorem execCpabort_none (h : s.myOp (s.g a.reg) = none) : exec (.cpabort d a) s = .next (ended .v (s.putG d 0)) := by
  show execCpabort d a s = _
  refine issue_ends hp ?_
  rw [State.examine_ok (fullAll_one ha), Res.bind_ok, State.freeG_ok hd, Res.bind_ok, h]

theorem execCpabort_some {o : EngOp} (h : s.myOp (s.g a.reg) = some o) :
    exec (.cpabort d a) s = .next (ended .v ((s.aborting o).putG d 1)) := by
  show execCpabort d a s = _
  refine issue_ends hp ?_
  rw [State.examine_ok (fullAll_one ha), Res.bind_ok, State.freeG_ok hd, Res.bind_ok, h]
  unfold State.aborting
  dsimp only
  cases o.coll <;> rfl

/-! ## Tags (R239) -/

omit hp ha hd in
theorem lowBit_le (w : Word) : lowBit w ≤ 64 := by
  unfold lowBit
  cases h : (List.range 64).find? fun i => bit w i with
  | none => exact le_rfl
  | some i => exact (List.mem_range.1 (List.mem_of_find?_eq_some h)).le

omit hp ha hd in
theorem toNat_ofNat_lowBit_le (w : Word) : (BitVec.ofNat 64 (lowBit w)).toNat ≤ 64 := by
  rw [BitVec.toNat_ofNat]
  exact (Nat.mod_le ..).trans (lowBit_le w)

/-- WAITANY of no tag answers 64, of tags that are ready the lowest of them. -/
theorem execWaitany_none (c : Bool) (h : s.g a.reg = 0) : exec (.waitany d a c) s = .next (ended .s (s.putG d 64)) := by
  show execWaitany d a c s = _
  refine issue_ends hp ?_
  rw [State.examine_ok (fullAll_one ha), Res.bind_ok, State.freeG_ok hd, Res.bind_ok]
  exact if_pos h

theorem execWaitany_hit (c : Bool) (h0 : s.g a.reg ≠ 0) (h : s.me.tagrdy &&& s.g a.reg ≠ 0) :
    exec (.waitany d a c) s = .next (ended .s
      ((if c then s.modMe fun sl => sl.clearTags (1#64 <<< lowBit (s.me.tagrdy &&& s.g a.reg)) else s).putG d
        (BitVec.ofNat 64 (lowBit (s.me.tagrdy &&& s.g a.reg))))) := by
  show execWaitany d a c s = _
  refine issue_ends hp ?_
  rw [State.examine_ok (fullAll_one ha), Res.bind_ok, State.freeG_ok hd, Res.bind_ok]
  exact (if_neg h0).trans (if_neg h)

/-- The tags of a mask that hold a status (R239). -/
def State.failedTags (s : State) (m : Word) : Word :=
  ((List.range 64).filter fun t => bit m t && slice (s.me.tag (BitVec.ofNat 6 t)) 0 8 != 0).foldl
    (fun w t => w ||| (1#64 <<< t)) 0

omit hp ha hd in
theorem shiftLeft_and_of_bit {m : Word} {t : Nat} (h : bit m t = true) : (1#64 <<< t) &&& m = 1#64 <<< t := by
  refine BitVec.eq_of_getLsbD_eq fun i _ => ?_
  rw [BitVec.getLsbD_and, ← BitVec.twoPow_eq, BitVec.getLsbD_twoPow]
  by_cases hti : t = i
  · subst hti
    rw [show m.getLsbD t = true from h, Bool.and_true]
  · simp [hti]

omit hp ha hd in
/-- Bits of a mask make a part of the mask. -/
theorem foldl_or_and {m : Word} {l : List Nat} (h : ∀ t ∈ l, bit m t = true) {w : Word} (hw : w &&& m = w) :
    l.foldl (fun w t => w ||| (1#64 <<< t)) w &&& m = l.foldl (fun w t => w ||| (1#64 <<< t)) w := by
  induction l generalizing w with
  | nil => exact hw
  | cons t l ih =>
    obtain ⟨ht, hl⟩ := List.forall_mem_cons.1 h
    refine ih hl ?_
    rw [BitVec.and_or_distrib_right, hw, shiftLeft_and_of_bit ht]

omit hp ha hd in
theorem State.failedTags_and (s : State) (m : Word) : s.failedTags m &&& m = s.failedTags m :=
  foldl_or_and (fun _ ht => (Bool.and_eq_true_iff.1 (List.mem_filter.1 ht).2).1) BitVec.zero_and

theorem execWaitall_ends (c : Bool) (h : s.me.tagrdy &&& s.g a.reg = s.g a.reg) : exec (.waitall d a c) s = .next (ended .s
    ((if c then s.modMe fun sl => sl.clearTags (s.g a.reg) else s).putG d (s.failedTags (s.g a.reg)))) := by
  show execWaitall d a c s = _
  refine issue_ends hp ?_
  rw [State.examine_ok (fullAll_one ha), Res.bind_ok, State.freeG_ok hd, Res.bind_ok]
  exact if_neg (not_not.2 h)

theorem execFfrdy_gives : Gives (.ffrdy d a) s d (BitVec.ofNat 64 (lowBit (s.me.tagrdy &&& s.g a.reg))) := by
  show execFfrdy d a s = _
  refine issue_ends hp ?_
  rw [State.examine_ok (fullAll_one ha), Res.bind_ok, State.freeG_ok hd, Res.bind_ok]

omit hd in
theorem execTagclr_ends : exec (.tagclr a) s = .next (ended .s (s.modMe fun sl => sl.clearTags (s.g a.reg))) := by
  show execTagclr a s = _
  refine issue_ends hp ?_
  rw [State.examine_ok (fullAll_one ha), Res.bind_ok]

omit ha in
theorem execTagget_gives (t : BitVec 6) : Gives (.tagget d t) s d (zextW (s.me.tag t)) := by
  show execTagget d t s = _
  refine issue_ends hp ?_
  rw [State.freeG_ok hd, Res.bind_ok]

end

end Sys2Proof.Machine
end

section
/-! SUPPORT. Collectives: where they are issued (R243). -/

namespace Sys2Proof.Machine

open Sys2Proof.Claims

/-! ## The lookups of an engine change page tables, TLBs, caches and counters alone (R234) -/

namespace WalksOnly

theorem lookOn (s : State) (c : Ctx) (die : Nat) (who : Option Nat) (va : Word) (k : Acc3) :
    WalksOnly s (s.lookOn c die who va k).1 := by
  have h := tlbLoadOn s c die who va.toNat
  unfold State.lookOn
  split <;> next he => rw [he] at h; exact h

theorem opPlace (s : State) (o : EngOp) (va : Word) (n : Nat) (w : Bool) : WalksOnly s (s.opPlace o va n w).1 := by
  unfold State.opPlace
  split
  · exact refl s
  split
  · split <;> exact refl s
  split
  · exact refl s
  next c _ =>
  have h := lookOn s c (taDie o.req.ta) none va (if w then .w else .r)
  split <;> next he => rw [he] at h; exact h

theorem opPlaces (o : EngOp) (w : Bool) : ∀ (ps : List (Word × Nat)) (s : State), WalksOnly s (s.opPlaces o w ps).1
  | [], s => refl s
  | (va, n) :: rest, s => by
    have h := opPlace s o va n w
    unfold State.opPlaces
    split
    · next he => rw [he] at h; exact h
    · next x p he =>
      rw [he] at h
      have h' := opPlaces o w rest x
      split <;> next he' => rw [he'] at h'; exact h.trans h'

theorem opLookups (s : State) (p : Place) (n : Nat) (h : Hint) (cnt : Bool) : WalksOnly s (s.opLookups p n h cnt).1 := by
  have hfold (l : List Nat) : ∀ acc : State × List (List Byte), WalksOnly acc.1
      (l.foldl (fun (acc : State × List (List Byte)) i =>
      ((acc.1.lookHome none (p.pa / 128 + i) h cnt).1, acc.2 ++ [(acc.1.lookHome none (p.pa / 128 + i) h cnt).2])) acc).1 := by
    induction l with
    | nil => exact fun acc => refl acc.1
    | cons i l ih =>
      intro acc
      rw [List.foldl_cons]
      exact (of_caches ((CachesOnly.refl acc.1).lookHome none (p.pa / 128 + i) h cnt)).trans (ih _)
  unfold State.opLookups
  split
  · exact hfold _ (s, [])
  · exact refl s

theorem opRead (s : State) (p : Place) (n : Nat) (h : Hint) (cnt : Bool) : WalksOnly s (s.opRead p n h cnt).1 := by
  have hl := opLookups s p n h cnt
  unfold State.opRead
  dsimp only
  split
  · exact hl
  · split <;> exact hl

theorem opReadAll (h : Hint) (cnt : Bool) : ∀ (ps : List (Place × Nat)) (s : State), WalksOnly s (s.opReadAll h ps cnt).1
  | [], s => refl s
  | (p, n) :: rest, s => (opRead s p n h cnt).trans (opReadAll h cnt rest _)

theorem collDest (s : State) (o : EngOp) (c : CollInfo) (n : Nat) : WalksOnly s (s.collDest o c n).1 := by
  have h := opPlaces o true (pageParts c.dst (c.dlen n)) s
  unfold State.collDest
  split
  · exact refl s
  · split <;> next he => rw [he] at h; exact h

theorem collRead (s : State) (o : EngOp) (c : CollInfo) (src : Word) : WalksOnly s (s.collRead o c src).1 := by
  unfold State.collRead
  split
  · exact refl s
  · dsimp only
    have h := opPlaces o false (pageParts src (collSize c.sty * c.count)) s
    split
    · next he => rw [he] at h; exact h
    · next x pl he =>
      rw [he] at h
      exact h.trans (opReadAll .normal false pl x)

end WalksOnly

/-! ## The issue of a collective (R243) -/

/-- What the checks of a collective leave of the state, and the operation that its engine takes: a collective whose descriptor,
place, source or destination is bad has its status at once (R243, R244). -/
def State.collCheck (s : State) (bad here : Bool) (o : EngOp) (c : CollInfo) (n : Nat) (src : Word) : State × EngOp :=
  if bad then (s, { o with st := 2, status := 1, coll := none })
  else if !here then (s, { o with st := 2, status := 3 })
  else
    match s.collDest o c n with
    | (s, .error x) => (s, { o with st := 2, status := x.1, fail := x.2 })
    | (s, .ok c) =>
      match s.collRead o c src with
      | (s, .error x) => (s, { o with st := 2, status := x.1, fail := x.2 })
      | (s, .ok c) => (s, { o with coll := some c })

theorem WalksOnly.collCheck (s : State) (bad here : Bool) (o : EngOp) (c : CollInfo) (n : Nat) (src : Word) :
    WalksOnly s (s.collCheck bad here o c n src).1 := by
  unfold State.collCheck
  split
  · exact refl s
  split
  · exact refl s
  have hd := WalksOnly.collDest s o c n
  split
  · next he => rw [he] at hd; exact hd
  · next x c' he =>
    rw [he] at hd
    have hr := WalksOnly.collRead x o c' src
    split <;> next he' => rw [he'] at hr; exact hd.trans hr

/-- The operation enters its engine e; `skip` tells that it takes no number of its group's sequence (R243, R244). -/
def State.collEnter (s : State) (o : EngOp) (skip : Bool) (my op e : Nat) (id : W32) : State :=
  let s := if skip then s else s.modCtx s.me.ctx fun k => { k with collSeq := Store.set k.collSeq my (op + 1) }
  let s := s.modEng e fun x => { x with seq := nextSeq x.seq, ops := x.ops ++ [o] }
  let s := (s.modMe fun sl => { sl with copn := sl.copn + 1 }).countMe 22 1
  if o.st = 2 then s.post (.copyCompletion id) else s

/-- The issuing slot has one more operation. -/
theorem State.collEnter_copn {s u : State} (h : SameSlots u s) (o : EngOp) (skip : Bool) (my op e : Nat) (id : W32) :
    (s.collEnter o skip my op e id).me.copn = u.me.copn + 1 := by
  have hctx : (if skip then s else s.modCtx s.me.ctx fun k => { k with collSeq := Store.set k.collSeq my (op + 1) }).me = u.me := by
    split
    · exact h.me
    · unfold State.modCtx
      split <;> exact h.me
  have hpost (t : State) : (if o.st = 2 then t.post (.copyCompletion id) else t).me = t.me := by split <;> rfl
  unfold State.collEnter
  dsimp only
  rw [hpost, State.me_countMe, State.me_modMe, ← hctx]
  rfl

/-- The engine of a collective, by its descriptor's member (R232). -/
def State.collEngine (s : State) (bs : List Byte) : Nat := 128 + taDie s.cur * 4 + recField bs 0x14 2 / 1024 % 4

/-- The members of the descriptor's group. -/
def State.collGroup (s : State) (bs : List Byte) : Option (List (Nat × Nat)) := s.groupOf s.myCtx (recField bs 0x14 2 / 1024)

/-- Whether the descriptor's member is on the issuing die of this device. -/
def State.collHere (s : State) (bs : List Byte) : Bool :=
  match ((s.collGroup bs).getD [])[recField bs 0x14 2 % 1024]? with
  | some (dev, die) => (dev == 0 || dev == s.host.devNo) && die == taDie s.cur
  | none => false

/-- The number of the member's next operation. -/
def State.collNext (s : State) (bs : List Byte) : Nat := Store.get 0 s.myCtx.collSeq (recField bs 0x14 2)

/-- The operation that a COLL instruction asks for, before its checks (R243). -/
def State.newColl (s : State) (f : Nat) (bs : List Byte) : EngOp :=
  { id := BitVec.ofNat 32 (2 ^ 31 + (s.collEngine bs - 128) * 2 ^ 24 + (s.eng (s.collEngine bs)).seq), req := s.meT
    ctx := s.me.ctx, graph := s.me.graph.setWidth 32, unit := s.me.unit, taskid := s.me.taskid, shadow := []
    sink := recField bs 0x1B 1 % 4, tag := recField bs 0x1B 1 / 4, cdep := BitVec.ofNat 64 (recField bs 0x20 8)
    trap := false, ack := none, coll := some (collOf f bs s.time (s.collNext bs)), rp := s.me.rp
    share := ((s.unitOf s.cur).map UnitSt.share).getD ([], 0, 0) }

/-- The state after a COLL instruction, but for its result (R243, R244). -/
def State.launchColl (s : State) (f : Nat) (bs : List Byte) : State :=
  let bad := badColl f bs (s.collGroup bs)
  let x := s.collCheck bad (s.collHere bs) (s.newColl f bs) (collOf f bs s.time (s.collNext bs))
    ((s.collGroup bs).getD []).length (BitVec.ofNat 64 (recField bs 0 8))
  x.1.collEnter x.2 (bad || !s.collHere bs) (recField bs 0x14 2) (s.collNext bs) (s.collEngine bs) (s.newColl f bs).id

theorem State.launchColl_copn (s : State) (f : Nat) (bs : List Byte) : (s.launchColl f bs).me.copn = s.me.copn + 1 :=
  State.collEnter_copn (WalksOnly.collCheck ..).sameSlots ..

theorem collOp_ends {s u : State} {d : Reg} {a : Src} {bs : List Byte} (f : Nat) (hc : Clear s) (ha : Full s a.reg)
    (hd : Free s d) (hal : (s.g a.reg).toNat % 64 = 0) (hr : s.readRecord (s.g a.reg) 64 = .ok u bs)
    (hroom : u.collOut u.me.ctx (recField bs 0x14 2 / 1024) (recField bs 0x14 2 % 1024) < 16) :
    collOp f d a s = .next (ended .v ((u.launchColl f bs).putG d ((u.newColl f bs).id.setWidth 64))) := by
  have hgo : ¬ (!badColl f bs (u.collGroup bs) &&
      decide (16 ≤ u.collOut u.me.ctx (recField bs 0x14 2 / 1024) (recField bs 0x14 2 % 1024))) = true := by
    rw [decide_eq_false (by omega), Bool.and_false]
    decide
  refine issue_ends hc.1 ?_
  rw [taskFirst_ok hc (fullAll_one ha) (List.forall_mem_singleton.2 hd), Res.bind_ok]
  dsimp only
  rw [alignOne_ok hal, Res.bind_ok, hr, Res.bind_ok]
  exact (if_neg hgo).trans rfl

theorem exec_of_collTable : ∀ x ∈ collTable, ∀ (d : Reg) (a : Src) (s : State), exec (x.1 d a) s = collOp x.2 d a s := by
  simp only [collTable, List.forall_mem_cons]
  exact ⟨fun _ _ _ => rfl, fun _ _ _ => rfl, fun _ _ _ => rfl, fun _ _ _ => rfl, List.forall_mem_nil _⟩

end Sys2Proof.Machine
end

section
/-! SUPPORT. Strands: where their instructions complete, and their events (R250 to R266). -/

namespace Sys2Proof.Machine

open Sys2Proof.Claims

/-! ## Ends and rings (R249 to R253) -/

section
variable {s : State} {h : Word}

/-- The end that a handle names is found. -/
theorem State.findEnd_ok {x : Strand} (hk : s.handleOk h = true) (hx : s.strandOf s.me.ctx h = some x) : s.findEnd h = .ok s x := by
  unfold State.findEnd
  rw [if_pos hk, hx]

theorem State.strandOf_endAt {x : Strand} {sink : Bool} (he : EndAt s h x sink) : s.strandOf s.me.ctx h = some x := by
  obtain ⟨hentry, hreuse⟩ := he.entry
  have hhome : s.homeOf h = 0 := beq_iff_eq.1 he.ok.2
  have hidx : s.homeOf h * 65536 + slice h 0 16 = h.toNat % 2 ^ 16 := by
    rw [hhome, Nat.zero_mul, Nat.zero_add, slice_zero_eq_mod]
  unfold State.strandOf
  rw [hidx, hentry]
  exact if_pos (by rw [hreuse, slice_eq_div_mod])

/-- An end bound to the issuing slot's quad serves a function of its kind (R250). -/
theorem State.useEnd_ok {x : Strand} {sink : Bool} (he : EndAt s h x sink) {kind : Option Bool} (hkind : kind.getD sink = sink) :
    s.useEnd h kind = .ok s x := by
  obtain ⟨hst, hdev, hquad⟩ := he.bound
  have hsink : handleSink h = sink := he.kind
  unfold State.useEnd
  rw [State.findEnd_ok he.ok.1 (State.strandOf_endAt he), Res.bind_ok]
  dsimp only
  rw [hsink, hst, hdev, hquad, hkind]
  simp

theorem State.taskOnly_ok (hh : taHnd s.cur = false) : s.taskOnly h = .ok s () := need_ok (by rw [hh]; rfl) ..

theorem State.checkRing_ok {va : Word} {size depth off : Nat} (hr : RingAt s va size depth off) :
    s.checkRing va size depth = .ok s off := by
  obtain ⟨hal, hwin, rfl, key, hprot⟩ := hr
  have hslice : slice va 20 44 = 0x00FF0000000 := by
    rw [slice_eq_div_mod, hwin, Nat.mod_eq_of_lt (by decide)]
  unfold State.checkRing
  rw [need_ok (by rw [hal]; rfl), Res.bind_ok, if_neg (not_not.2 hslice), hprot]
  rfl

end

/-! ## Opening and sending (R253, R254, R257) -/

/-- A send with a credit to an open peer goes (R254). -/
theorem State.sendItem_ok (s : State) {x : Strand} (d : Reg) (item : VWord) (carried : Option Word) (hpeer : x.src.peer = 0)
    (hcr : x.credits ≠ 0) : s.sendItem x d item carried =
      .ok (sentItem s x d item (carried.elim [] fun h => [(x.nsend, h)])) true := by
  unfold State.sendItem
  rw [if_neg (not_not.2 hpeer), if_neg hcr]
  cases carried <;> rfl

/-- The state after SOPEN of a ring, but for its handles, and these: 0 where no entry is free (R253). -/
def State.opened (s : State) (sz l off : Nat) : State × Word × Word :=
  match s.freeEntry s.me.ctx s.myCtx.strn with
  | none => (s, 0, 0)
  | some j =>
    let e : StrandEnd := { quad := taQuad s.cur, owner := s.me.uid, ownerId := s.me.taskid }
    let x := freshStrand s.me.ctx j (s.freeReuse s.me.ctx j) sz l e e off
    (s.putStrand x, x.handle s.myCtx.asid false, x.handle s.myCtx.asid true)

section
variable {s : State} {d : Reg} {a : Src} (hp : Solo s) (ha : Full s a.reg) (hd : Free s d)
include hp ha hd

theorem execSopen_ends {sz : BitVec 3} {l : BitVec 4} {off : Nat} (hd1 : Free s (d + 1)) (hh : taHnd s.cur = false)
    (hr : RingAt s (s.g a.reg) (8 * 2 ^ sz.toNat) (2 ^ l.toNat) off) : exec (.sopen d a sz l) s = .next (ended .v
      (((s.opened sz.toNat l.toNat off).1.putG d (s.opened sz.toNat l.toNat off).2.1).putG (d + 1)
        (s.opened sz.toNat l.toNat off).2.2)) := by
  show execSopen d a sz l s = _
  refine issue_ends hp ?_
  rw [State.examine_ok (fullAll_one ha), Res.bind_ok, State.freeG_ok hd, Res.bind_ok, State.freeG_ok hd1, Res.bind_ok,
    State.checkRing_ok hr, Res.bind_ok, State.taskOnly_ok hh, Res.bind_ok]
  unfold State.opened
  cases s.freeEntry s.me.ctx s.myCtx.strn <;> rfl

section
variable {x : Strand} (he : EndAt s (s.g a.reg) x false) (hc : Clear s) (hpeer : x.src.peer = 0) (hcr : x.credits ≠ 0)
include he hc hpeer hcr

omit ha in
/-- Whatever item an open end with a credit is given, it sends it (R254). -/
theorem execSsend_ends {item : SendItem} {v : VWord} (hl : FullAll s (a :: sendSrcs item)) (hfit : ∀ b, item = .g b → x.s = 0)
    (hval : s.sendValue x item = .ok s v) : exec (.ssend d a item) s = .next (ended .v (sentItem s x d v [])) := by
  obtain ⟨-, ⟨hv, hr⟩, hamo⟩ := hc
  show execSsend d a item s = _
  refine issue_ends hp ?_
  rw [State.examine_ok hl, Res.bind_ok, State.freeG_ok hd, Res.bind_ok, State.waitRpq_ok hv hr, Res.bind_ok,
    State.waitAmo_ok hamo, Res.bind_ok, State.useEnd_ok he rfl, Res.bind_ok, need_ok, Res.bind_ok, hval, Res.bind_ok,
    State.sendItem_ok s d v none hpeer hcr]
  · rfl
  · cases item with
    | g b => exact beq_iff_eq.2 (hfit b rfl)
    | v c => rfl

theorem execSsend_g {b : Src} (hb : Full s b.reg) (hx : x.s = 0) :
    exec (.ssend d a (.g b)) s = .next (ended .v (sentItem s x d ((s.g b.reg).setWidth 2048) [])) :=
  execSsend_ends hp hd he hc hpeer hcr (item := .g b) (fullAll_two ha hb) (fun _ _ => hx) rfl

theorem execSsend_v {v : VReg} (hpois : s.me.vpois.getLsbD v.toNat = false) : exec (.ssend d a (.v v)) s = .next (ended .v
    (sentItem s x d (BitVec.ofNat 2048 ((s.me.v[v.toNat]'(v.isLt)).toNat % 2 ^ (8 * x.size))) [])) :=
  execSsend_ends hp hd he hc hpeer hcr (item := .v v) (fullAll_one ha) (fun _ h => by cases h)
    (if_neg (by rw [bit, hpois]; decide))

theorem execSpass_ends {b : Src} {y : Strand} {sink : Bool} (hh : taHnd s.cur = false) (hb : Full s b.reg)
    (hy : EndAt s (s.g b.reg) y sink) (hkey : x.key ≠ y.key) (hclaims : sink = true → y.claims = []) :
    exec (.spass d a b) s = .next (ended .v ((sentItem s x d ((s.g b.reg).setWidth 2048) [(x.nsend, s.g b.reg)]).depart y sink
      x.snk.dev)) := by
  obtain ⟨-, ⟨hv, hr⟩, hamo⟩ := hc
  have hsink : handleSink (s.g b.reg) = sink := hy.kind
  have hne : (x.key != y.key) = true := bne_iff_ne.2 hkey
  have hidle : (!sink || y.claims.isEmpty) = true := by
    cases sink with
    | false => rfl
    | true => rw [hclaims rfl]; rfl
  show execSpass d a b s = _
  refine issue_ends hp ?_
  rw [State.examine_ok (fullAll_two ha hb), Res.bind_ok, State.freeG_ok hd, Res.bind_ok, State.waitRpq_ok hv hr, Res.bind_ok,
    State.waitAmo_ok hamo, Res.bind_ok]
  dsimp only
  rw [State.taskOnly_ok hh, Res.bind_ok, State.useEnd_ok he rfl, Res.bind_ok, State.useEnd_ok hy rfl, Res.bind_ok, need_ok hne,
    Res.bind_ok, hsink, await_ok hidle, Res.bind_ok, State.sendItem_ok s d _ (some (s.g b.reg)) hpeer hcr, Res.bind_ok]
  rfl

end

/-! ## Receiving (R255) -/

/-- The claim of a receive to g(d) (R255). -/
def State.claimG (s : State) (d : Reg) : Claim := ⟨⟨s.cur, s.me.uid⟩, d, none, s.ctr⟩

omit hp ha in
theorem State.freeRecv_g (hd1 : Free s (d + 1)) : s.freeRecv d .g = .ok s () := by
  unfold State.freeRecv
  rw [State.freeG_ok hd, Res.bind_ok, State.freeG_ok hd1]

omit hp ha hd in
theorem recvFits_g {x : Strand} (hx : x.s = 0) : recvFits x .g = true := beq_iff_eq.2 hx

section
variable {x : Strand} (he : EndAt s (s.g a.reg) x true) (hx : x.s = 0) (hd1 : Free s (d + 1))
include he hx hd1

/-- The state in which a claim of SRECV to g(d) stands, before it is served (R255). -/
def State.claiming (s : State) (x : Strand) (d : Reg) : State :=
  (s.modMe fun sl => (sl.pendG d).pendG (d + 1)).putStrand { x with claims := x.claims ++ [s.claimG d] }

theorem execSrecv_ends (hsent : s.me.sent = false) (hsending : s.me.sending = false)
    (hserved : ((s.claiming x d).serve x.key).me.sending = false) :
    exec (.srecv d a .g) s = .next (ended .v ((s.claiming x d).serve x.key)) := by
  have hmeT : (s.modMe fun sl => (sl.pendG d).pendG (d + 1)).meT = ⟨s.cur, s.me.uid⟩ := by
    rw [State.meT, State.me_modMe, Slot.pendG, Slot.setG_uid]
    exact congrArg (Target.mk s.cur) (Slot.setG_uid ..)
  show execSrecv d a .g s = _
  refine issue_ends hp ?_
  rw [if_neg (by rw [hsent]; decide), if_neg (by rw [hsending]; decide), State.examine_ok (fullAll_one ha), Res.bind_ok,
    State.freeRecv_g hd hd1, Res.bind_ok, State.useEnd_ok he rfl, Res.bind_ok, need_ok (recvFits_g hx), Res.bind_ok]
  dsimp only
  rw [hmeT]
  exact if_neg (by rw [Bool.not_eq_true]; exact hserved)

theorem execSpoll_blocked (hclaims : x.claims ≠ []) :
    exec (.spoll d a .g) s = .next (ended .v ((s.putG d 1).putG (d + 1) 0)) := by
  have hempty : x.claims.isEmpty = false := List.isEmpty_eq_false_iff.2 hclaims
  show execSpoll d a .g s = _
  refine issue_ends hp ?_
  rw [State.examine_ok (fullAll_one ha), Res.bind_ok, State.freeRecv_g hd hd1, Res.bind_ok, State.useEnd_ok he rfl, Res.bind_ok,
    need_ok (recvFits_g hx),
    Res.bind_ok, hempty]
  rfl

theorem execSpoll_takes (hclaims : x.claims = []) (hitem : x.ntake < x.ndeliv) (hheld : s.ringHeld x = false) :
    exec (.spoll d a .g) s = .next (ended .v
      (((s.takeOne x (s.claimG d)).1.putStrand (s.takeOne x (s.claimG d)).2).serve (s.takeOne x (s.claimG d)).2.key)) := by
  have hready : (x.claims.isEmpty && decide (x.ntake < x.ndeliv) && !s.ringHeld x) = true := by
    rw [hclaims, hheld, decide_eq_true hitem]
    rfl
  show execSpoll d a .g s = _
  refine issue_ends hp ?_
  rw [State.examine_ok (fullAll_one ha), Res.bind_ok, State.freeRecv_g hd hd1, Res.bind_ok, State.useEnd_ok he rfl, Res.bind_ok,
    need_ok (recvFits_g hx),
    Res.bind_ok]
  exact if_pos hready

end

/-! ## Moves and states of ends (R258 to R266) -/

/-- The anchor grants a source its move (R258). -/
theorem execSaccept_ends {b : Src} {x : Strand} {m : StrandMove} {l : List StrandMove} (hh : taHnd s.cur = false)
    (hb : Full s b.reg) (hsrc : (s.g a.reg).getLsbD 16 = false) (hk : s.handleOk (s.g a.reg) = true)
    (hx : s.strandOf s.me.ctx (s.g a.reg) = some x) (hidx : x.idx < 65536) (hst : x.src.st = 1) (hhold : x.src.holder = s.me.uid)
    (hmoves : x.moves = m :: l) (hsink : m.sink = false) (hacc : m.accepted = false) :
    exec (.saccept d a b) s = .next (ended .v ((s.bindEnd x false 0).putG d (peerStatus x.src.peer))) := by
  have hside : handleSink (s.g a.reg) = false := hsrc
  have hneed : ((x.side false).st == 1 && (x.side false).holder == s.me.uid) = true := by
    rw [Strand.side, if_neg (by decide), hst, hhold]
    simp
  show execSaccept d a b s = _
  refine issue_ends hp ?_
  rw [State.examine_ok (fullAll_two ha hb), Res.bind_ok, State.freeG_ok hd, Res.bind_ok]
  dsimp only
  rw [State.findEnd_ok hk hx, Res.bind_ok, hside, if_neg (by decide), Res.bind_ok, State.taskOnly_ok hh, Res.bind_ok,
    need_ok hneed, Res.bind_ok, await_ok, Res.bind_ok]
  · rfl
  · rw [decide_eq_true hidx, hmoves]
    simp [hsink, hacc]

omit hd in
theorem execSclose_ends {x : Strand} {sink : Bool} (he : EndAt s (s.g a.reg) x sink) (hh : taHnd s.cur = false) :
    exec (.sclose a) s = .next (ended .v (s.closeEnd x sink)) := by
  have hsink : handleSink (s.g a.reg) = sink := he.kind
  show execSclose a s = _
  refine issue_ends hp ?_
  rw [State.examine_ok (fullAll_one ha), Res.bind_ok, State.taskOnly_ok hh, Res.bind_ok, State.useEnd_ok he rfl, Res.bind_ok,
    hsink]

/-- The state after SWATCH: the watch fires at once where the peer is gone (R264). -/
def State.watched (s : State) (x : Strand) (sink : Bool) (t : BitVec 6) : State :=
  let e : StrandEnd := { x.side sink with watch := some (s.meT, t) }
  if e.peer ≠ 0 then (s.putStrand (x.setSide sink { e with watch := none })).fireWatch e else s.putStrand (x.setSide sink e)

omit hd in
theorem execSwatch_ends {x : Strand} {sink : Bool} (he : EndAt s (s.g a.reg) x sink) (t : BitVec 6) :
    exec (.swatch a t) s = .next (ended .v (s.watched x sink t)) := by
  have hsink : handleSink (s.g a.reg) = sink := he.kind
  show execSwatch a t s = _
  refine issue_ends hp ?_
  rw [State.examine_ok (fullAll_one ha), Res.bind_ok, State.useEnd_ok he rfl, Res.bind_ok, hsink]
  unfold State.watched
  dsimp only
  split <;> rfl

theorem execSflush_ends {x : Strand} (he : EndAt s (s.g a.reg) x false) (hdev : x.snk.dev = 0) (hall : x.nsend ≤ x.ndeliv) :
    exec (.sflush d a) s = .next (ended .v (s.putG d (peerStatus x.src.peer))) := by
  have hdone : (if x.snk.dev = 0 then decide (x.nsend ≤ x.ndeliv) else Config.freeFlag s.ctr 40) = true := by
    rw [if_pos hdev, decide_eq_true hall]
  show execSflush d a s = _
  refine issue_ends hp ?_
  rw [State.examine_ok (fullAll_one ha), Res.bind_ok, State.freeG_ok hd, Res.bind_ok, State.useEnd_ok he rfl, Res.bind_ok,
    await_ok hdone, Res.bind_ok]
  rfl

/-- The word of SSTAT (R265). -/
def State.statWord (s : State) (h : Word) : Word :=
  match s.strandOf s.me.ctx h with
  | some x => x.stat (handleSink h) (taQuad s.cur)
  | none => if s.handleHome h then 3 else remoteStat (Config.freeRemote s.ctr)

theorem execSstat_ends (hk : s.handleOk (s.g a.reg) = true) :
    exec (.sstat d a) s = .next (ended .v (s.putG d (s.statWord (s.g a.reg)))) := by
  show execSstat d a s = _
  refine issue_ends hp ?_
  rw [State.examine_ok (fullAll_one ha), Res.bind_ok, State.freeG_ok hd, Res.bind_ok]
  dsimp only
  rw [need_ok hk, Res.bind_ok]
  unfold State.statWord
  cases s.strandOf s.me.ctx (s.g a.reg) <;> rfl

end

/-! ## Events (R254, R255, R257, R259, R260, R262) -/

section
variable {s : State} {ctx idx : Nat} {x : Strand} (hx : s.strand? (strandKey ctx idx) = some x)
include hx

theorem execStrandItemArrival_here (it : StrandItem) (hsrc : x.src.dev = 0) (hsnk : x.snk.dev = 0) (hlive : x.snk.st < 2) :
    exec (.strandItemArrival ctx idx it) s = .next ((s.putStrand { x with arrived := x.arrived ++ [it] }).serve x.key) := by
  have hl : x.snk.live = true := decide_eq_true hlive
  show execStrandItemArrival ctx idx it s = _
  unfold execStrandItemArrival
  rw [hx]
  dsimp only
  rw [hsrc]
  simp [hsnk, hl]

theorem execStrandCreditReturn_here (hsnk : x.snk.dev = 0) : exec (.strandCreditReturn ctx idx) s =
    .next (s.putStrand { x with credits := min (x.credits + 1) (2 ^ x.l) }) := by
  show execStrandCreditReturn ctx idx s = _
  unfold execStrandCreditReturn
  rw [hx]
  dsimp only
  rw [if_pos hsnk, if_pos hsnk]
  rfl

theorem execStrandMoveRequest_first (hm : x.moves = []) (hsnk : x.snk.st < 2) (hsrc : x.src.st < 2) (sink : Bool)
    (hdev : (x.side sink).dev = 0) : exec (.strandMoveRequest ctx idx sink) s = .next (s.putStrand
      { x with moves := [{ sink := sink, accepted := false, stopped := false, old := (x.side sink).quad }] }) := by
  have hlive : x.snk.live = true := decide_eq_true hsnk
  have hside : (x.side sink).live = true := by
    cases sink
    · exact decide_eq_true hsrc
    · exact hlive
  show execStrandMoveRequest ctx idx sink s = _
  unfold execStrandMoveRequest
  rw [hx]
  dsimp only
  rw [hlive, hdev]
  simp [hside, hlive, hm, grantRun]

theorem execStrandStopperArrival_ends : ∃ ms g, exec (.strandStopperArrival ctx idx) s = .next ((s.putStrand
    { x with stoppers := x.stoppers.drop 1, moves := ms, gates := g }).serve x.key) := by
  refine ⟨grantRun (updFirst (fun m => m.sink == x.stoppers.headD true && !m.stopped && (!x.stoppers.headD true || m.accepted))
    (fun m => { m with stopped := true }) x.moves), if x.stoppers.headD true then x.gates else x.gates.drop 1, ?_⟩
  show execStrandStopperArrival ctx idx s = _
  unfold execStrandStopperArrival
  rw [hx]
  rfl

theorem execStrandRouteSwitch_ends : exec (.strandRouteSwitch ctx idx) s =
    .next ((s.putStrand { x with stoppers := x.stoppers ++ [true] }).post (.strandStopperArrival ctx idx)) := by
  show execStrandRouteSwitch ctx idx s = _
  unfold execStrandRouteSwitch
  rw [hx]

theorem execStrandFray_here (hdev : x.src.dev = 0) :
    exec (.strandFray ctx idx) s = .next (s.peerGone x.key (x.src.st == 2) 2) := by
  show execStrandFray ctx idx s = _
  unfold execStrandFray
  rw [hx]
  exact congrArg _ (if_neg fun h => h.1 hdev)

end

end Sys2Proof.Machine
end

section
/-! SUPPORT. Where the forms of the system instructions complete: the parts of the statement that say less than the rules of
the instructions, and the statement. -/

namespace Sys2Proof.Machine

open Sys2Proof.Claims

/-! ## Barriers -/

theorem State.putLph_nextPc (s : State) (n : BitVec 3) (v : Bool) : (s.putLph n v).nextPc = s.nextPc :=
  State.nextPc_modMe s (f := fun sl =>
    { sl with lph := (sl.lph &&& ~~~(1#8 <<< n.toNat)) ||| (if v then 1#8 <<< n.toNat else 0) }) rfl rfl

theorem BarSlot.init_arrived_none (memb : BitVec 128) : ∀ c : BarSlot, c.arr = 0 →
    ∃ m, c.init memb = { c with memb := m, pois := false, cause := 0, ackx := 0, ackn := 0 } :=
  fun _ h => ⟨memb, if_pos h⟩

theorem BarSlot.expect_fits (k : Word) : ∀ c : BarSlot, c.ackx + k.toNat % 65536 < 65536 →
    c.expect (slice k 0 16) = { c with ackx := c.ackx + k.toNat % 65536 } := by
  intro c h
  rw [slice_zero_eq_mod, BarSlot.expect]
  exact if_neg (by omega)

theorem BarSlot.arrive_poisoned (rank : Nat) (phase : Bool) : ∀ c : BarSlot, c.pois = true → c.arrive rank phase = c :=
  fun _ h => if_pos h

theorem BarSlot.ack_poisoned : ∀ c : BarSlot, c.pois = true → c.ack = c :=
  fun c h => (BarSlot.ack_eq c).trans (if_pos h)

section
variable {s : State} {n : BitVec 3} {b : BarSlot} (hp : Solo s) (hb : s.bar n = some b)
include hp hb

theorem execBararv_posts (hc : Clear s) : ∃ t, exec (.bararv n) s = .next t ∧ t.me.pc = s.nextPc ∧
    t.agenda = s.agenda ++ [.barrierArrival s.me.ctx s.me.uid n.toNat s.me.rank (s.lph n)] := by
  refine ⟨_, execBararv_ends hp hb hc, ?_, ?_⟩
  · rw [ended_pc, State.sendArrival, State.putLph_nextPc]
    rfl
  · rw [ended_agenda]
    rfl

theorem execBarstat_answers {d : Reg} (hd : Free s d) : ∃ v t, exec (.barstat d n) s = .next t ∧ t.me.pc = s.nextPc ∧
    (d ≠ 0 → t.me.greg d = ⟨v, .full, false⟩) := by
  refine ⟨BitVec.ofNat 64 (s.barWord n b), _, execBarstat_ends hp hb hd, ?_, fun h0 => ?_⟩
  · rw [ended_pc, State.putG_nextPc]
    split
    · exact State.putLph_nextPc ..
    · rfl
  · rw [ended_greg, State.greg_putG_same _ _ h0]

omit hp hb in
/-- At a slot without waiters whose phase the task waits for, BARWAIT and BARSYNC pass. -/
theorem gives_of_waitsAt {i : Instr} {d : Reg} {t : Bool} (h : WaitsAt i s d n t b) (hw : b.waits = []) (hpois : b.pois = false)
    (hph : b.ph = s.lph n) : Gives i s d 0 := by
  obtain ⟨hnew, -, -⟩ := h
  obtain ⟨hpass, -⟩ := hnew (by rw [standing, hw]; rfl)
  exact hpass hpois hph

end

/-! ## The statement -/

/-- Settles O60: each form completes by the rule of its instruction or event. -/
theorem systemFormsComplete : Obligations.SystemFormsComplete := by
  unfold Obligations.SystemFormsComplete
  intro s hp
  refine ⟨fun n b hb => ?bars, fun ctx uid n rank phase => ⟨_, rfl, BarSlot.arrive_poisoned rank phase⟩,
    fun ctx uid n => ⟨_, rfl, BarSlot.ack_poisoned⟩, fun hc => ?atomics, fun r hi hk => ?home, fun r old d hu h0 ha => ?back,
    fun d a b hset hd hl => ?l2, fun sc hset hpm => execFence_ends hp sc hset hpm, ?ifence, execDrain_ends hp,
    fun a b c e imm core hc hh hl hn hbit hcore hmail hsent hsending hheld => ?sendam, fun i a h ha => execCpset_ends hp h ha,
    fun d hc hd hroom => ?cpgo, fun d a ha hd => ?tags, fun d a u bs hc ha hd hal hr hroom x hx => ?collectives,
    fun d a ha hd => ?strands, fun ctx idx x hx => ?events⟩
  case bars =>
    refine ⟨fun x y h => ⟨_, execBarinit_ends hp hb h, BarSlot.init_arrived_none _⟩, execBararv_posts hp hb,
      fun d t hd hw hpois hph => ⟨gives_of_waitsAt (execBarwait_waitsAt hp hb hd t) hw hpois hph,
        fun hs => gives_of_waitsAt (execBarsync_waitsAt hp hb hd t hs) hw hpois hph⟩,
      fun a ha => ⟨_, execBarack_ends hp hb ha, BarSlot.expect_fits _⟩,
      ⟨_, execBarpois_ends hp hb, fun c => ⟨rfl, rfl⟩⟩,
      fun d hd => execBarstat_answers hp hb hd⟩
  case atomics =>
    exact ⟨fun x hx o hl hd hrl hal u key hpl => execAmo_goes hc hx hl hd hrl hal hpl,
      fun o hl hd hrl hal u key hpl => execAmoCas_goes hc hl hd hrl hal hpl⟩
  case home => exact ⟨execAtomicAtHome_clean hi hk, execAtomicAtHome_poison hi hk⟩
  case back => exact ⟨execAtomicReturn_none ⟨hu, h0, ha⟩ old, execAtomicReturn_loc ⟨hu, h0, ha⟩ old⟩
  case l2 =>
    have ha : Full s a.reg := hl a List.mem_cons_self
    refine ⟨fun w len u pages hlen hva h128 hne hpin => execL2pin_ends hp hset hd hl w hlen hva h128 hne hpin,
      fun r hlt hr hctx => ⟨execL2unpin_ends hp hset hd ha hlt hr hctx, fun c =>
        ⟨_, _, execL2stat_ends hp hset hd ha hlt hr hctx c, BitVec.toNat_ofNat .., rfl⟩⟩, execL2flush_ends hp hset hd hl⟩
  case ifence =>
    refine ⟨_, execIfence_ends hp, (ended_pc ..).trans s.refetching_nextPc, ?_⟩
    rw [State.quad, ended_quads]
    exact s.refetching_icache
  case sendam =>
    exact ⟨s.amMsg b c e imm core, rfl, rfl, rfl, rfl, rfl,
      execSendam_ends hc hh hl hn hbit hcore hmail hsent hsending hheld⟩
  case cpgo => exact ⟨_, _, execCpgo_ends hc hd hroom, s.newCopy_launched⟩
  case tags =>
    refine ⟨⟨_, execCpstat_ends hp ha hd, ?cpstat⟩, ?cpabort, fun c h => ?waitany,
      fun c h => ⟨_, _, execWaitall_ends hp ha hd c h, s.failedTags_and _⟩,
      ⟨_, execFfrdy_gives hp ha hd, toNat_ofNat_lowBit_le _⟩, execTagclr_ends hp ha, execTagget_gives hp hd⟩
    case cpstat =>
      intro hnone
      rw [State.g, hnone]
      rfl
    case cpabort =>
      cases hop : s.myOp (s.me.greg a.reg).val with
      | none => exact ⟨_, _, execCpabort_none hp ha hd hop, iff_of_true rfl rfl⟩
      | some o => exact ⟨_, _, execCpabort_some hp ha hd hop, iff_of_false (by decide) (Option.some_ne_none o)⟩
    case waitany =>
      by_cases h0 : (s.me.greg a.reg).val = 0
      · exact ⟨_, _, execWaitany_none hp ha hd c h0, by decide⟩
      · exact ⟨_, _, execWaitany_hit hp ha hd c h0 (h.resolve_left h0), toNat_ofNat_lowBit_le _⟩
  case collectives =>
    exact ⟨_, _, (exec_of_collTable x hx d a s).trans (collOp_ends x.2 hc ha hd hal hr hroom), u.launchColl_copn x.2 bs⟩
  case strands =>
    refine ⟨fun sz l off hd1 hh hr => ⟨_, _, _, execSopen_ends hp ha hd hd1 hh hr⟩, fun x he hc hpeer hcr => ?send,
      fun x he hx hd1 hsent hsending => ?receive,
      fun b x m l hh hb hsrc hk hx hidx hst hhold hmoves hsink hacc =>
        execSaccept_ends hp ha hd hh hb hsrc hk hx hidx hst hhold hmoves hsink hacc,
      fun x sink he => ?bound, fun hk => ⟨_, execSstat_ends hp ha hd hk⟩⟩
    case send =>
      exact ⟨fun b hb hx => execSsend_g hp ha hd he hc hpeer hcr hb hx, fun v hpois => execSsend_v hp ha hd he hc hpeer hcr hpois,
        fun b y sink hh hb hy hkey hclaims => execSpass_ends hp ha hd he hc hpeer hcr hh hb hy hkey hclaims⟩
    case receive =>
      refine ⟨?_, execSpoll_blocked hp ha hd he hx hd1, ?_⟩
      · rintro y rfl hy
        exact execSrecv_ends hp ha hd he hx hd1 hsent hsending hy
      · intro hclaims hitem hheld t y ht
        have h := execSpoll_takes hp ha hd he hx hd1 hclaims hitem hheld
        rwa [show s.takeOne x (s.claimG d) = (t, y) from ht] at h
    case bound =>
      refine ⟨execSclose_ends hp ha he, fun t => ⟨_, execSwatch_ends hp ha he t⟩, ?_⟩
      rintro rfl
      exact execSflush_ends hp ha hd he
  case events =>
    exact ⟨execStrandItemArrival_here hx, execStrandCreditReturn_here hx, execStrandMoveRequest_first hx,
      execStrandStopperArrival_ends hx, execStrandRouteSwitch_ends hx, execStrandFray_here hx⟩

end Sys2Proof.Machine
end

section
/-! SUPPORT. L2 control, fences and messages: the status of a pin, the waits of a fence and of DRAIN, and a message that finds
its queue full (R193 to R199, R209, R220 to R225). -/

namespace Sys2Proof.Machine

open Sys2Proof.Claims

/-! ## The status of a pin (R193, R195) -/

/-- The retentions that a pin is held against are those that an index names. -/
theorem State.exists_retained_iff {s : State} {r : Retention} :
    (∃ i, retained s i = some r) ↔ r ∈ s.retain.toList.filterMap fun r => r := by
  unfold retained
  rw [List.mem_filterMap]
  constructor
  · rintro ⟨i, hi⟩
    refine ⟨some r, ?_, rfl⟩
    rw [List.getD_eq_getElem?_getD, Option.getD_eq_iff] at hi
    exact hi.elim List.mem_of_getElem? fun h => nomatch h.2
  · rintro ⟨x, hx, rfl⟩
    obtain ⟨i, hi⟩ := List.mem_iff_getElem?.1 hx
    exact ⟨i, by rw [List.getD_eq_getElem?_getD, hi]; rfl⟩

section
variable {s : State} {pages : List (Nat × Nat)} {len w base : Nat}

/-- A page of another memory than HBM: status 5. -/
theorem State.pinStatus_elsewhere (h : ∃ p ∈ pages, p.2 ≠ 0) : s.pinStatus pages len w = (5, 0, []) := by
  obtain ⟨p, hp, hne⟩ := h
  exact if_pos (List.any_eq_true.2 ⟨p, hp, by simpa using hne⟩)

/-- Pages of HBM alone do not answer 5. -/
theorem not_elsewhere (hbm : ∀ p ∈ pages, p.2 = 0) : ¬ (pages.any fun p => p.2 != 0) = true := by
  simpa using fun a b h => hbm (a, b) h

/-- Pages apart: status 4. -/
theorem State.pinStatus_apart (hbm : ∀ p ∈ pages, p.2 = 0) (hc : contiguous pages = false) :
    s.pinStatus pages len w = (4, 0, []) :=
  (if_neg (not_elsewhere hbm)).trans (if_pos (by rw [hc]; rfl))

section
variable (hbm : ∀ p ∈ pages, p.2 = 0) (hc : contiguous pages = true) (hb : base = (pages.map Prod.fst).headD 0)
include hbm hc hb

/-- A range that is retained already: status 3. -/
theorem State.pinStatus_retained {i : Nat} {r : Retention} (hr : retained s i = some r)
    (hover : base < r.base + r.len ∧ r.base < base + len) : s.pinStatus pages len w = (3, 0, []) := by
  subst hb
  refine (if_neg (not_elsewhere hbm)).trans ((if_neg (by rw [hc]; decide)).trans (if_pos ?_))
  refine List.any_eq_true.2 ⟨r, State.exists_retained_iff.1 ⟨i, hr⟩, ?_⟩
  rw [decide_eq_true hover.1, decide_eq_true hover.2]
  rfl

/-- Contiguous pages of HBM that no retention touches: the answer turns on the registers and the ways that are left. -/
theorem State.pinStatus_clear (hno : ∀ i r, retained s i = some r → ¬ (base < r.base + r.len ∧ r.base < base + len)) :
    s.pinStatus pages len w =
      match (List.range 16).find? fun i => (retained s i).isNone with
      | none => (1, 0, [])
      | some i => if 12 < s.reservedWays.length + w then (2, 0, [])
        else (0, i, ((List.range 12).filter fun k => !s.reservedWays.contains k).take w) := by
  subst hb
  refine (if_neg (not_elsewhere hbm)).trans ((if_neg (by rw [hc]; decide)).trans ((if_neg fun h => ?_).trans rfl))
  obtain ⟨r, hr, hover⟩ := List.any_eq_true.1 h
  obtain ⟨i, hi⟩ := State.exists_retained_iff.2 hr
  rw [Bool.and_eq_true, decide_eq_true_iff, decide_eq_true_iff] at hover
  exact hno i r hi hover

variable (hno : ∀ i r, retained s i = some r → ¬ (base < r.base + r.len ∧ r.base < base + len))
include hno

/-- No register free: status 1. -/
theorem State.pinStatus_full (hall : ∀ i, i < 16 → retained s i ≠ none) : s.pinStatus pages len w = (1, 0, []) := by
  have hfind : ((List.range 16).find? fun i => (retained s i).isNone) = none := by
    rw [List.find?_eq_none]
    intro i hi
    rw [Option.isNone_iff_eq_none]
    exact hall i (List.mem_range.1 hi)
  rw [State.pinStatus_clear hbm hc hb hno, hfind]

variable {i : Nat} (hi : i < 16) (hfree : retained s i = none) (hlow : ∀ j, j < i → retained s j ≠ none)
include hi hfree hlow

/-- The lowest free register is found: status 2 with too few ways left, or the register and the lowest ways that none reserves. -/
theorem State.pinStatus_free : s.pinStatus pages len w = if 12 < s.reservedWays.length + w then (2, 0, [])
    else (0, i, ((List.range 12).filter fun k => !s.reservedWays.contains k).take w) := by
  have hfind : ((List.range 16).find? fun i => (retained s i).isNone) = some i := by
    rw [List.find?_range_eq_some]
    refine ⟨by rw [hfree]; rfl, List.mem_range.2 hi, fun j hj => ?_⟩
    rw [Option.isNone_eq_false_iff.2 (Option.isSome_iff_ne_none.2 (hlow j hj))]
    rfl
  rw [State.pinStatus_clear hbm hc hb hno, hfind]

end
end

/-! ## L2 control (R195 to R199) -/

/-- The counters of a register side by side (R197). -/
theorem ofNat_counters {hits miss : Nat} (hh : hits < 2 ^ 32) (hm : miss < 2 ^ 32) :
    BitVec.ofNat 64 (miss * 2 ^ 32 + hits) = BitVec.ofNat 32 miss ++ BitVec.ofNat 32 hits := by
  refine BitVec.eq_of_toNat_eq ?_
  rw [BitVec.toNat_append, BitVec.toNat_ofNat, BitVec.toNat_ofNat, BitVec.toNat_ofNat, Nat.mod_eq_of_lt hm, Nat.mod_eq_of_lt hh,
    ← Nat.shiftLeft_add_eq_or_of_lt hh, Nat.shiftLeft_eq]
  omega

/-- An index of no register in use raises PROTECT (R196). -/
theorem State.needRetain_none {s : State} {v : Word} (h : retained s v.toNat = none) : s.needRetain v = .trap s 0x07 v := by
  unfold State.needRetain
  rw [show s.retain.toList.getD v.toNat none = none from h]

section
variable {s : State} {d : Reg} {a : Src} (hp : Solo s) (hset : Settled s) (hd : Free s d)
include hp hset hd

theorem execL2unpin_protect (ha : Full s a.reg) (hh : taHnd s.cur = false) (hno : retained s (s.g a.reg).toNat = none) :
    ∃ t, exec (.l2unpin d a) s = .next t ∧ Faulted s t 0x07 (s.g a.reg) := by
  show ∃ t, execL2unpin d a s = .next t ∧ _
  refine issue_faulted hp hh ?_
  rw [l2First_ok hset hd (fullAll_one ha), Res.bind_ok, State.needRetain_none hno, Res.bind_trap]

variable {b : Src} {w : BitVec 4} {len : Nat} {u : State} {pages : List (Nat × Nat)} (hl : FullAll s [a, b])
  (hlen : len = (s.g b.reg).toNat) (hva : (s.g a.reg).toNat % 128 = 0) (h128 : len % 128 = 0) (h0 : len ≠ 0)
  (hpin : s.pinPages (some s.cur) s.myCtx (rangePages (s.g a.reg).toNat len) = (u, .ok pages))
include hl hlen hva h128 h0 hpin

/-- L2PIN of a range that translates answers the status of the pin, and takes what it says (R195). -/
theorem execL2pin_status {st i : Nat} {ways : List Nat} (hst : u.pinStatus pages len w.toNat = (st, i, ways)) :
    exec (.l2pin d a b w) s = .next (ended .s ((if st = 0 then u.setRetain i (some
      { ctx := u.me.ctx, vbase := s.g a.reg, base := (pages.map Prod.fst).headD 0, len := len, ways := ways }) else u).putG d
        (BitVec.ofNat 64 (st * 2 ^ 8 + i)))) := by
  subst hlen
  show execL2pin d a b w s = _
  refine issue_ends hp ?_
  rw [l2First_ok hset hd hl, Res.bind_ok]
  dsimp only
  rw [if_neg (by omega), hpin]
  dsimp only
  rw [hst]

/-- A pin with another status than 0 takes nothing. -/
theorem execL2pin_refused {st : Nat} {v : Word} (hst : u.pinStatus pages len w.toNat = (st, 0, [])) (hne : st ≠ 0)
    (hv : BitVec.ofNat 64 (st * 2 ^ 8) = v) : exec (.l2pin d a b w) s = .next (ended .s (u.putG d v)) := by
  rw [execL2pin_status hp hset hd hl hlen hva h128 h0 hpin hst, if_neg hne, Nat.add_zero, hv]

/-- A pin with status 0 takes its register. -/
theorem execL2pin_granted {i : Nat} {ways : List Nat} (hst : u.pinStatus pages len w.toNat = (0, i, ways)) :
    exec (.l2pin d a b w) s = .next (ended .s ((u.setRetain i (some
      { ctx := u.me.ctx, vbase := s.g a.reg, base := (pages.map Prod.fst).headD 0, len := len, ways := ways })).putG d
        (BitVec.ofNat 64 i))) := by
  rw [execL2pin_status hp hset hd hl hlen hva h128 h0 hpin hst, if_pos rfl, Nat.zero_mul, Nat.zero_add]

end

/-- L2PIN has a case for each status, in the order in which R195 examines them; the other three read the index first. -/
theorem l2Control : L2Control := by
  intro s d a hp hset hd ha
  refine ⟨fun b w len u pages hb hlen hva h128 h0 hpin => ?pin, fun r hlt hr hctx => ⟨?unpin, fun hhits hmiss => ?stat⟩,
    fun hh hno => execL2unpin_protect hp hset hd ha hh hno, fun b u n hb hflush => ?flush⟩
  case pin =>
    have hl := fullAll_two ha hb
    have refused {st : Nat} {v : Word} (hst : u.pinStatus pages len w.toNat = (st, 0, [])) (hne : st ≠ 0)
        (hv : BitVec.ofNat 64 (st * 2 ^ 8) = v) := execL2pin_refused hp hset hd hl hlen hva h128 h0 hpin hst hne hv
    refine ⟨fun h => refused (State.pinStatus_elsewhere h) (by decide) rfl, fun hbm =>
      ⟨fun hc => refused (State.pinStatus_apart hbm hc) (by decide) rfl, fun hc base hbase =>
        ⟨fun ⟨i, r, hr, hover⟩ => refused (State.pinStatus_retained hbm hc hbase hr hover) (by decide) rfl, fun hno =>
          ⟨fun hall => refused (State.pinStatus_full hbm hc hbase hno hall) (by decide) rfl, fun i hi hfree hlow => ?_⟩⟩⟩⟩
    have hst := State.pinStatus_free (w := w.toNat) hbm hc hbase hno hi hfree hlow
    refine ⟨fun hw => refused (hst.trans (if_pos hw)) (by decide) rfl, fun hw => ?_⟩
    rw [hbase]
    exact execL2pin_granted hp hset hd hl hlen hva h128 h0 hpin (hst.trans (if_neg (Nat.not_lt.2 hw)))
  case unpin => exact execL2unpin_ends hp hset hd ha hlt hr hctx
  case stat =>
    rw [← ofNat_counters hhits hmiss]
    exact ⟨execL2stat_ends hp hset hd ha hlt hr hctx false, execL2stat_ends hp hset hd ha hlt hr hctx true⟩
  case flush =>
    obtain ⟨u', n', hi, hf⟩ := execL2flush_ends hp hset hd (fullAll_two ha hb)
    obtain ⟨rfl, rfl⟩ := Prod.mk.inj (hf.trans hflush)
    exact hi

/-! ## What a fence and DRAIN wait for (R209, R221, R223) -/

section
variable {s t : State} {sc : Scope}

/-- A release beyond the device waits while a store is unacknowledged. -/
theorem State.release_unacknowledged (hq : Quiet s) (hsc : sc ∈ [Scope.peer, .fab, .host, .sys, .dur]) (h : s.me.stq ≠ 0) :
    s.release sc = .wait s := by
  have hawait : await (s.me.stq == 0) s = .wait s := by rw [beq_eq_false_iff_ne.2 h]; rfl
  unfold State.release
  rw [State.waitRpq_ok hq.1 hq.2, Res.bind_ok]
  cases sc with
  | peer | fab | host | sys => exact hawait
  | dur =>
    dsimp only
    rw [hawait, Res.bind_wait]
  | _ => exact absurd hsc (by decide)

/-- A release under DUR waits for persistent memory, whose acknowledgement may come at any moment (log 5). -/
theorem State.release_unpersisted (hq : Quiet s) (hstq : s.me.stq = 0) (hpm : s.me.pm ≠ 0) :
    s.release .dur = .wait s ∨ s.release .dur = .wait (s.modMe fun sl => { sl with pm := 0 }) := by
  have hawait : await (s.me.stq == 0) s = .ok s () := await_ok (by rw [hstq]; rfl) s
  have hdur : s.waitDur = .wait (if Config.freeFlag s.ctr 40 then s.modMe fun sl => { sl with pm := 0 } else s) := if_neg hpm
  unfold State.release
  rw [State.waitRpq_ok hq.1 hq.2, Res.bind_ok]
  dsimp only
  rw [hawait, Res.bind_ok, hdur]
  split
  · exact .inr rfl
  · exact .inl rfl

/-- With no load and no atomic under way, FENCE does what the release at its scope does. -/
theorem execFence_eq (hp : Solo s) (hq : Quiet s) (hout : s.dataOut s.me.uid = false) :
    exec (.fence sc) s = issue .s .outer (fun s => s.release sc) s := by
  show execFence sc s = _
  refine issue_congr hp ?_
  rw [State.waitRpq_ok hq.1 hq.2, Res.bind_ok, await_ok (by rw [hout]; rfl), Res.bind_ok]

/-- DRAIN waits while a store, a load, an atomic or a copy of the slot is under way. -/
theorem execDrain_waits (hp : Solo s) (hq : Quiet s) (h : s.me.stq ≠ 0 ∨ s.dataOut s.me.uid = true ∨ s.me.copn ≠ 0) :
    exec .drain s = .next s := by
  have hbusy : (s.me.stq == 0 && !s.dataOut s.me.uid && !s.mailOut s.cur && s.me.copn == 0) = false := by
    rcases h with h | h | h
    · rw [beq_eq_false_iff_ne.2 h, Bool.false_and, Bool.false_and, Bool.false_and]
    · rw [h, Bool.not_true, Bool.and_false, Bool.false_and, Bool.false_and]
    · rw [beq_eq_false_iff_ne.2 h, Bool.and_false]
  show execDrain s = _
  refine issue_waits hp ?_
  rw [State.waitRpq_ok hq.1 hq.2, Res.bind_ok, hbusy]
  rfl

end

/-! ## A message that finds its queue full (R225, R341) -/

/-- The first message that is held posts RXFULL. -/
theorem State.rxHold_first {s : State} {core : Nat} (h : (s.core core).held = []) (m : RxMsg) (who : Option Nat) :
    s.rxHold core m who = (s.modCore core fun k => { k with held := [(m, who)] }).post (.rxfull core) := by
  unfold State.rxHold State.modCore
  dsimp only
  rw [h]
  rfl

/-- A message that takes entries goes in where none is held before it and its entries fit (R341). -/
theorem State.rxOpen_of_entries {s : State} {core : Nat} {m : RxMsg} (hm : m.kind ≠ 0) (hheld : (s.core core).held = []) :
    s.rxOpen core m = (s.core core).rxFits m := by
  unfold State.rxOpen
  dsimp only
  rw [hheld, beq_eq_false_iff_ne.2 hm, Bool.false_and, Bool.or_false]
  rfl

/-- The message of SENDAM with its thread address written the other way round. -/
theorem State.amMsg_eq (s : State) (b c e : Src) (imm : W32) (core : Nat) : s.amMsg b c e imm core =
    { kind := 2, sender := BitVec.ofNat 64 s.cur, ctx := s.me.ctx, ta := 8 * core + 4, value := (s.me.greg c.reg).val
      w2h := imm, w3 := (s.me.greg e.reg).val, more := [(s.me.greg b.reg).val, BitVec.ofNat 64 s.me.ctx, 0, 0] } := by
  rw [Nat.mul_comm 8 core]
  rfl

theorem execSendam_waits {s : State} {a b c e : Src} {imm : W32} {core : Nat} (hc : Clear s) (hh : taHnd s.cur = false)
    (hl : FullAll s [a, b, c, e]) (hn : Named s (s.g a.reg)) (hbit : (s.g a.reg).getLsbD 2 = true)
    (hcore : core = (s.g a.reg).toNat / 8) (hmail : ∀ i ∈ s.agenda, isMail (BitVec.ofNat 64 s.cur) (8 * core + 4) i = false)
    (hsent : s.me.sent = false) (hsending : s.me.sending = false) (hheld : (s.core core).held = [])
    (hfull : (s.core core).rxFits (s.amMsg b c e imm core) = false) :
    exec (.sendam a b c e imm) s = .next (((s.modCore core fun k =>
      { k with held := [(s.amMsg b c e imm core, some s.me.uid)] }).post (.rxfull core)).modMe
        fun sl => { sl with sending := true }) := by
  obtain ⟨hp, ⟨hv, hr⟩, ha⟩ := hc
  have hlow := hn.1
  have hslice : slice (s.g a.reg) 3 13 = core := by
    rw [slice_eq_div_mod]
    omega
  have hneed : (bit (s.g a.reg) 2 && s.taOk s.myCtx (s.g a.reg)) = true := by
    rw [State.taOk_of_named _ hn, bit, hbit]
    rfl
  have hflush : s.flushMail s.selfAddr (hndOf core) = s := by
    rw [hndOf, Nat.mul_comm]
    exact State.flushMail_none hmail
  have hkind : (s.amMsg b c e imm core).kind ≠ 0 := Nat.succ_ne_zero 1
  have hshut : ¬ s.rxOpen core (s.amMsg b c e imm core) = true := by
    rw [State.rxOpen_of_entries hkind hheld, hfull]
    decide
  rw [← State.rxHold_first hheld]
  show execSendam a b c e imm s = _
  refine issue_waits hp ?_
  rw [State.examine_ok hl, Res.bind_ok]
  dsimp only
  rw [need_ok hneed, Res.bind_ok, State.waitRpq_ok hv hr, Res.bind_ok, State.waitAmo_ok ha, Res.bind_ok,
    if_neg (not_not.2 (State.devOf_local hlow)), hslice, if_neg (by rw [hsent]; decide), if_neg (by rw [hsending]; decide),
    if_neg (by rw [hh]; decide), hflush]
  exact if_neg hshut

/-- FENCE ends or waits with the release at its scope; DRAIN and SENDAM end or wait. -/
theorem fencesAndMessages : FencesAndMessages := by
  intro s hp
  refine ⟨fun sc hq hout => ?fence, execIfence_ends hp, execDrain_ends hp, execDrain_waits hp,
    fun a b c e imm core m hc hh hl hn hbit hcore hm hmail hsent hsending hheld => ?sendam⟩
  case fence =>
    rw [execFence_eq hp hq hout]
    refine ⟨fun hstq hpm => issue_ends hp (State.release_ok ⟨hq, hstq, hpm⟩), ?_,
      fun hsc hstq => issue_waits hp (State.release_unacknowledged hq hsc hstq)⟩
    rintro rfl hstq hpm
    exact (State.release_unpersisted hq hstq hpm).imp (issue_waits hp) (issue_waits hp)
  case sendam =>
    rw [← State.amMsg_eq] at hm
    subst hm
    exact ⟨execSendam_ends hc hh hl hn hbit hcore hmail hsent hsending hheld,
      execSendam_waits hc hh hl hn hbit hcore hmail hsent hsending hheld⟩

/-- Settles O32: the status of a pin and the waits of each fence, case by case. -/
theorem l2FencesMessages : Obligations.L2FencesMessages := ⟨l2Control, fencesAndMessages⟩

end Sys2Proof.Machine
end

section
/-! SUPPORT. What comes from outside: writes and accesses, lost devices, SPDM requests and the registers (R200, R312 to R314, R318,
R321, R329, R330, R332). -/

namespace Sys2Proof.Machine

open Sys2Proof.Claims

/-! ## Accesses to HBM from outside (R189, R312) -/

theorem State.outsideWrite_caches (s : State) (pa : Nat) (bs : List Byte) : CachesOnly (s.putBytes pa bs) (s.outsideWrite pa bs) := by
  unfold State.outsideWrite
  dsimp only
  split
  · exact CachesOnly.refl _
  · exact List.foldlRecOn _ _ (CachesOnly.refl _) fun _ h _ _ => h.dropL1 ..

theorem State.outsideWrite_mem (s : State) (pa : Nat) (bs : List Byte) : (s.outsideWrite pa bs).mem = (s.putBytes pa bs).mem :=
  (s.outsideWrite_caches pa bs).mem

theorem State.outsideWrite_slots (s : State) (pa : Nat) (bs : List Byte) : (s.outsideWrite pa bs).slots = s.slots :=
  (SameSlots.of_caches (s.outsideWrite_caches pa bs)).slots

section
variable {s : State} {pa : Word} {bs : List Byte}

theorem execHostMemAccess_read (s : State) (pa : Word) (bs : List Byte) : exec (.hostMemAccess false pa bs) s = .next s := rfl

theorem execHostMemAccess_unserved (h : inHbm pa.toNat bs.length = false ∨ s.host.recovery = true) :
    exec (.hostMemAccess true pa bs) s = .next s := by
  show execHostMemAccess true pa bs s = _
  unfold execHostMemAccess
  rcases h with h | h <;> simp [h]

theorem execHostMemAccess_writes (h : inHbm pa.toNat bs.length = true) (hr : s.host.recovery = false) :
    exec (.hostMemAccess true pa bs) s = .next (s.outsideWrite pa.toNat bs) := by
  show execHostMemAccess true pa bs s = _
  unfold execHostMemAccess
  rw [h, hr]
  rfl

theorem execPeerMemAccess_unserved {dev : Nat} {write : Bool}
    (h : write = false ∨ dev ∈ s.host.lost ∨ inHbm pa.toNat bs.length = false ∨ s.host.recovery = true) :
    exec (.peerMemAccess dev write pa bs) s = .next s := by
  show execPeerMemAccess dev write pa bs s = _
  unfold execPeerMemAccess
  rcases h with h | h | h | h <;> simp [h]

theorem execPeerMemAccess_writes {dev : Nat} (hd : dev ∉ s.host.lost) (h : inHbm pa.toNat bs.length = true)
    (hr : s.host.recovery = false) : exec (.peerMemAccess dev true pa bs) s = .next (s.outsideWrite pa.toNat bs) := by
  show execPeerMemAccess dev true pa bs s = _
  unfold execPeerMemAccess
  simp [hd, h, hr]

end

/-! ## Ends that go leave the engines (R258, R262, R268) -/

@[simp] theorem State.putStrand_engines (s : State) (x : Strand) : (s.putStrand x).engines = s.engines := rfl
@[simp] theorem State.freeStrand_engines (s : State) (x : Strand) : (s.freeStrand x).engines = s.engines := rfl

@[simp] theorem State.modTask_engines (s : State) (t : Target) (f : Slot → Slot) : (s.modTask t f).engines = s.engines := by
  unfold State.modTask
  dsimp only
  split <;> split <;> rfl

@[simp] theorem State.fireWatch_engines (s : State) (e : StrandEnd) : (s.fireWatch e).engines = s.engines := by
  unfold State.fireWatch
  split
  · exact State.modTask_engines ..
  · rfl

theorem State.deliverRun_engines (n : Nat) (x : Strand) (s : State) : (State.deliverRun n x s).1.engines = s.engines := by
  induction n generalizing x s with
  | zero => rfl
  | succ n ih =>
    unfold State.deliverRun
    split <;>
    · split
      · rfl
      · split
        · rfl
        · rw [ih]
          split <;> rfl

theorem State.takeOne_engines (s : State) (x : Strand) (c : Claim) : (s.takeOne x c).1.engines = s.engines := by
  unfold State.takeOne
  extract_lets k item pois h held taken credited
  have hheld : held.engines = s.engines := by
    unfold held
    clear_value h
    split
    · rfl
    · split
      · split
        · exact s.putStrand_engines _
        · rfl
      · split
        · rfl
        · exact s.putStrand_engines _
  have hcredited : credited.engines = taken.engines := by
    unfold credited
    clear_value taken
    refine (State.modCore_engines ..).trans ?_
    split <;> rfl
  exact hcredited.trans ((State.modTask_engines ..).trans hheld)

theorem State.claimRun_engines (n : Nat) (x : Strand) (s : State) : (State.claimRun n x s).1.engines = s.engines := by
  induction n generalizing x s with
  | zero => rfl
  | succ n ih =>
    unfold State.claimRun
    split
    · rfl
    · next c cs _ =>
      split
      · exact ih ..
      · split
        · exact (ih ..).trans (s.takeOne_engines ..)
        · split
          · rfl
          · exact (ih ..).trans (s.modTask_engines ..)

@[simp] theorem State.serve_engines (s : State) (k : Nat) : (s.serve k).engines = s.engines := by
  unfold State.serve
  split
  · rfl
  · next x _ =>
    split
    · rfl
    · have hd := State.deliverRun_engines x.arrived.length x s
      generalize State.deliverRun x.arrived.length x s = r at hd ⊢
      obtain ⟨u, y⟩ := r
      dsimp only at hd ⊢
      split
      · exact (State.claimRun_engines ..).trans hd
      · exact hd

@[simp] theorem State.peerGone_engines (s : State) (k : Nat) (sink : Bool) (how : Nat) : (s.peerGone k sink how).engines = s.engines := by
  unfold State.peerGone
  split
  · rfl
  · dsimp only
    split
    · rfl
    · simp only [State.serve_engines, State.putStrand_engines, State.fireWatch_engines]

theorem State.goneOne_engines (s : State) (x : Strand) (sink : Bool) (how : Nat) : (s.goneOne x sink how).1.engines = s.engines := by
  unfold State.goneOne
  extract_lets e wasOpen x₁ x₂ carried taken noted x₃ x₄ x₅ more kept told
  have htaken : taken.engines = s.engines := by
    unfold taken
    split
    · exact foldl_keeps State.engines (fun u c => u.modTask_engines ..) ..
    · rfl
  have hnoted : noted.engines = s.engines := by
    unfold noted
    split
    · exact htaken
    · rfl
  have htold : told.engines = noted.engines := by
    unfold told
    split
    · rfl
    · split
      · exact State.peerGone_engines ..
      · rfl
  split
  · exact hnoted
  · exact htold.trans hnoted

theorem State.goneRun_engines (n : Nat) (js : List (Nat × Bool)) (s : State) : (State.goneRun n js s).engines = s.engines := by
  induction n generalizing js s with
  | zero => rfl
  | succ n ih =>
    rcases js with _ | ⟨⟨k, sink⟩, js⟩
    · rfl
    · unfold State.goneRun
      split
      · exact ih ..
      · split
        · exact (ih ..).trans (s.goneOne_engines ..)
        · exact ih ..

theorem State.orphan_engines (s : State) (js : List (Nat × Bool)) : (s.orphan js).engines = s.engines := State.goneRun_engines ..

/-! ## Lost devices (R329) -/

section
variable {s : State} {dev : Nat}

theorem execDeviceLostTimeout_lost (h : dev ∈ s.host.lost) : exec (.deviceLostTimeout dev) s = .next s := by
  show execDeviceLostTimeout dev s = _
  exact congrArg _ (if_pos (List.contains_iff_mem.2 h))

/-- With no collective under way, a device that is lost takes only its ends of strands with it. -/
theorem execDeviceLostTimeout_orphans (h : dev ∉ s.host.lost) (hno : ∀ p ∈ s.engines, ∀ o ∈ p.2.ops, o.coll = none) :
    exec (.deviceLostTimeout dev) s =
      .next (State.orphan { s with host := { s.host with lost := s.host.lost ++ [dev] } } (endsOn s dev)) := by
  have hops (u : State) (hu : u.engines = s.engines) :
      (u.engines.flatMap fun p => p.2.ops.filterMap fun o => o.coll.map fun c => (o.ctx, c.grp, c.op)) = [] := by
    rw [hu, List.flatMap_eq_nil_iff]
    intro p hp
    rw [List.filterMap_eq_nil_iff]
    intro o ho
    rw [hno p hp o ho]
    rfl
  show execDeviceLostTimeout dev s = _
  unfold execDeviceLostTimeout State.loseDevice
  rw [if_neg (by rwa [List.contains_iff_mem])]
  dsimp only
  rw [hops _ (State.orphan_engines { s with host := { s.host with lost := s.host.lost ++ [dev] } } _)]
  rfl

end

/-! ## SPDM (R332) -/

theorem State.spdmAnswer_none {s : State} {code : Nat} (h : code % 256 ∉ [0x84, 0xE1, 0xE3, 0x81, 0x82, 0x83, 0xE0]) :
    s.spdmAnswer code = none := by
  unfold State.spdmAnswer
  dsimp only
  split
  case h_8 => rfl
  all_goals next hc => exact absurd (by rw [hc]; decide) h

theorem State.spdmAnswer_version {s : State} {code : Nat} (h : code % 256 = 0x84) :
    s.spdmAnswer code = some (.version [0x12, 0x13]) := by
  unfold State.spdmAnswer
  rw [h]
  rfl

theorem State.spdmAnswer_slot {s : State} {code : Nat} (h : code % 256 = 0x82) (hslot : 2 ≤ code / 256) :
    s.spdmAnswer code = none := by
  unfold State.spdmAnswer
  rw [h]
  exact if_neg (Nat.not_lt.2 hslot)

theorem execSpdmRequest_eq (s : State) (code : Nat) :
    exec (.spdmRequest code) s = .next { s with host := { s.host with doe := s.spdmAnswer code } } := rfl

/-! ## Registers (R313, R314, R318, R330) -/

/-- A write of all of a cell leaves its value. -/
theorem mergeCell_full (old v : Word) : mergeCell old 0 8 v = v := by
  refine BitVec.eq_of_getLsbD_eq fun i hi => ?_
  rw [mergeCell, getLsbD_setSlice_low old v (8 * 0) (8 * 8) hi, if_pos ⟨Nat.zero_le i, by omega⟩]
  rfl

section
variable {s : State} {a v : Word} {n : Nat}

theorem execRegisterWrite_split (h : n = 0 ∨ 8 < a.toNat % 8 + n) : exec (.registerWrite a n v) s = .next s := by
  show execRegisterWrite a n v s = _
  exact congrArg _ (if_pos h)

/-- In recovery the image-load window alone is written. -/
theorem execRegisterWrite_recovery (hr : s.host.recovery = true) : ∃ im, exec (.registerWrite a n v) s =
    .next { s with host := { s.host with image := im } } ∧
      (a.toNat < Config.loadWindow ∨ Config.loadWindow + 2 ^ 26 < a.toNat + n → im = s.host.image) := by
  by_cases h : n = 0 ∨ 8 < a.toNat % 8 + n
  · exact ⟨_, execRegisterWrite_split h, fun _ => rfl⟩
  · have hload : exec (.registerWrite a n v) s = .next (s.loadWrite a.toNat n v) := by
      show execRegisterWrite a n v s = _
      exact congrArg _ ((if_neg h).trans (if_pos hr))
    rw [hload]
    unfold State.loadWrite
    split
    · next hin => exact ⟨_, rfl, fun hout => absurd hin (by omega)⟩
    · exact ⟨_, rfl, fun _ => rfl⟩

section
variable (hr : s.host.recovery = false) (hn : n ≠ 0) (hcell : a.toNat % 8 + n ≤ 8)
include hr hn hcell

/-- An address below 2^40 is an offset of BAR0. -/
theorem execRegisterWrite_bar0 (ha : a.toNat < 2 ^ 40) : exec (.registerWrite a n v) s = .next (s.bar0Write a.toNat n v) := by
  show execRegisterWrite a n v s = _
  refine congrArg _ ((if_neg (by omega)).trans ?_)
  rw [hr]
  exact (if_neg (by decide)).trans ((if_neg (by omega)).trans (if_pos ha))

/-- The next MiB is the launch windows, 4 KiB each. -/
theorem execRegisterWrite_window (ha : 2 ^ 40 ≤ a.toNat) (ha' : a.toNat < 2 ^ 40 + 0x100000) :
    exec (.registerWrite a n v) s =
      .next (s.launchWrite ((a.toNat - 2 ^ 40) / 4096) (a.toNat / 8 * 8 % 4096) (a.toNat % 8) n v) := by
  show execRegisterWrite a n v s = _
  refine congrArg _ ((if_neg (by omega)).trans ?_)
  rw [hr]
  exact (if_neg (by decide)).trans ((if_neg (by omega)).trans ((if_neg (by omega)).trans (if_pos ha')))

end
end

section
variable {s : State} (hr : s.host.recovery = false)
include hr

/-- An argument of the command block. -/
theorem execRegisterWrite_arg {i : Nat} (h : i < 6) (v : Word) : exec (.registerWrite (BitVec.ofNat 64 (8 * i)) 8 v) s =
    .next { s with host := { s.host with args := s.host.args.set i v h } } := by
  have ha : (BitVec.ofNat 64 (8 * i)).toNat = 8 * i := by rw [BitVec.toNat_ofNat]; omega
  rw [execRegisterWrite_bar0 hr (by decide) (by omega) (by omega), ha]
  have hcell : s.bar0Write (8 * i) 8 v = s.commandWrite (8 * i) 0 8 v := by
    refine (if_pos (by omega)).trans ?_
    rw [Nat.mul_div_cancel_left i (by decide), Nat.mul_comm i 8, Nat.mul_mod_right]
  have harg : s.commandWrite (8 * i) 0 8 v = { s with host := { s.host with args := s.host.args.set i v h } } := by
    refine (if_pos (by omega)).trans ?_
    dsimp only
    rw [Nat.mul_div_cancel_left i (by decide), dif_pos h, mergeCell_full]
  rw [hcell, harg]

/-- CODE of the command block. -/
theorem execRegisterWrite_command {n : Nat} (hn : n ≠ 0) (h8 : n ≤ 8) (v : Word) : exec (.registerWrite 0x38 n v) s =
    .next (if s.host.busy then { s with host := { s.host with code := 0xFE } }
      else { s with host := { s.host with cmd := v.setWidth 8, busy := true } }.post (commandOf (v.toNat % 256))) :=
  execRegisterWrite_bar0 hr hn (by simpa using h8) (by decide)

theorem execRegisterWrite_tail (v : Word) : exec (.registerWrite 0x890 8 v) s = exec (.traceTailWrite v) s := by
  have hcell : s.bar0Write 0x890 8 v = s.traceTail v := by simp [State.bar0Write, State.traceWrite, mergeCell_full]
  exact (execRegisterWrite_bar0 hr (by decide) (by decide) (by decide)).trans (congrArg _ hcell)

theorem execRegisterWrite_credit (v : Word) : exec (.registerWrite 0x40 8 v) s = exec (.svcCreditWrite v) s := by
  obtain ⟨t, ht⟩ := exec_next (.svcCreditWrite v) s
  have hsvc : execSvcCreditWrite v s = .next t := ht
  have hcell : s.bar0Write 0x40 8 v = t := by simp [State.bar0Write, mergeCell_full, hsvc]
  exact (execRegisterWrite_bar0 hr (by decide) (by decide) (by decide)).trans ((congrArg _ hcell).trans ht.symm)

/-- OUTCOME of the window that stands in the debug window. -/
theorem execRegisterWrite_outcome {ta : Nat} (h : s.host.dbg = some ta) (v : Word) :
    exec (.registerWrite 0x10228 8 v) s = .next (s.outcome ta (v.toNat % 16)) := by
  have hcell : s.bar0Write 0x10228 8 v = s.outcome ta (v.toNat % 16) := by
    simp [State.bar0Write, h, State.debugWrite, slice]
  exact (execRegisterWrite_bar0 hr (by decide) (by decide) (by decide)).trans (congrArg _ hcell)

/-- COOKIE of a launch window sends its item. -/
theorem execRegisterWrite_cookie {i : Nat} (h : i < 256) (v : Word) :
    exec (.registerWrite (BitVec.ofNat 64 (2 ^ 40 + 4096 * i + 0x18)) 8 v) s =
      exec (.launchItemSend i) (s.modWin i fun w => { w with cookie := v }) := by
  have ha : (BitVec.ofNat 64 (2 ^ 40 + 4096 * i + 0x18)).toNat = 2 ^ 40 + 4096 * i + 0x18 := by rw [BitVec.toNat_ofNat]; omega
  rw [execRegisterWrite_window hr (by decide) (by omega) (by omega) (by omega), ha,
    show (2 ^ 40 + 4096 * i + 0x18 - 2 ^ 40) / 4096 = i by omega,
    show (2 ^ 40 + 4096 * i + 0x18) / 8 * 8 % 4096 = 0x18 by omega, show (2 ^ 40 + 4096 * i + 0x18) % 8 = 0 by omega]
  show (.next ((s.modWin i fun w => { w with cookie := mergeCell w.cookie 0 8 v }).launchSend i) : Out) = _
  simp only [mergeCell_full]
  rfl

end

/-! ## Format regions (R200, R203) -/

/-- The registers of a region with EN kept only by a good FMT and NELEM (R200). -/
def FmtRegion.checked (r : FmtRegion) : FmtRegion :=
  { r with en := r.en && decide (2 ≤ r.fmt ∧ r.fmt ≤ 4 ∧ 1 ≤ r.nelem.toNat ∧ r.nelem.toNat ≤ 2 ^ 39) }

theorem State.fmtReg_setFmt (s : State) {f b k c : Nat} (hf : f < 8) (hb : b < 8) (hk : k < 8) (r : FmtRegion) :
    (s.setFmt f b r).fmtReg k c = if k = f ∧ c = b then r else s.fmtReg k c := by
  have h64 : 8 * b + f < 64 := by omega
  unfold State.fmtReg State.setFmt
  rw [dif_pos h64, Vector.toList_set, List.getD_eq_getElem?_getD, List.getElem?_set, List.getD_eq_getElem?_getD]
  by_cases h : k = f ∧ c = b
  · rw [if_pos h, if_pos (by omega), if_pos (by rwa [Vector.length_toList])]
    rfl
  · rw [if_neg h, if_neg (by omega)]

theorem State.fmtReg_fmtChecked (s : State) {f b k c : Nat} (hf : f < 8) (hb : b < 8) (hk : k < 8) :
    (s.fmtChecked f b).fmtReg k c = if k = f ∧ c = b then (s.fmtReg f b).checked else s.fmtReg k c := by
  unfold State.fmtChecked
  rw [State.fmtReg_setFmt s hf hb hk]
  simp only [FmtRegion.checked, Bool.decide_and, Bool.and_assoc]

/-- The sets of some base dies, each once. -/
theorem State.fmtReg_foldl_fmtChecked {f k : Nat} (hf : f < 8) (hk : k < 8) {l : List Nat} (hl : ∀ b ∈ l, b < 8) (hd : l.Nodup)
    (s : State) (c : Nat) : (l.foldl (fun (s : State) b => s.fmtChecked f b) s).fmtReg k c =
      if k = f ∧ c ∈ l then (s.fmtReg f c).checked else s.fmtReg k c := by
  induction l generalizing s with
  | nil => rw [if_neg fun h => List.not_mem_nil h.2]; rfl
  | cons b l ih =>
    obtain ⟨hb, hl⟩ := List.forall_mem_cons.1 hl
    obtain ⟨hbl, hd⟩ := List.nodup_cons.1 hd
    rw [List.foldl_cons, ih hl hd, State.fmtReg_fmtChecked s hf hb hf, State.fmtReg_fmtChecked s hf hb hk]
    by_cases hc : c = b
    · subst hc
      simp [hbl]
    · simp [hc]

/-- No line of a view is left once it has been dropped (R203). -/
theorem State.dropView_l2 (s : State) (f : Nat) : ∀ p ∈ (s.dropView f).dies, ∀ q ∈ p.2.l2, ∀ x ∈ q.2,
    viewOf (x.line * 128) ≠ some f := by
  intro p hp q hq x hx
  obtain ⟨p, -, rfl⟩ := List.mem_map.1 hp
  obtain ⟨q, -, rfl⟩ := List.mem_map.1 hq
  exact bne_iff_ne.1 (List.mem_filter.1 hx).2

@[simp] theorem State.dropView_mem (s : State) (f : Nat) : (s.dropView f).mem = s.mem := rfl
@[simp] theorem State.fmtReg_dropView (s : State) (f k c : Nat) : (s.dropView f).fmtReg k c = s.fmtReg k c := rfl

/-- The state after a region's sets have been written in the 8 base dies (R200). -/
def State.fmtAllChecked (s : State) (f : Nat) : State := (List.range 8).foldl (fun (s : State) b => s.fmtChecked f b) s

theorem State.fmtAllChecked_mem (s : State) (f : Nat) : (s.fmtAllChecked f).mem = s.mem :=
  foldl_keeps State.mem (f := fun (s : State) b => s.fmtChecked f b) (fun _ _ => rfl) ..

theorem State.fmtReg_fmtAllChecked {f k b : Nat} (hf : f < 8) (hk : k < 8) (hb : b < 8) (s : State) :
    (s.fmtAllChecked f).fmtReg k b = if k = f then (s.fmtReg f b).checked else s.fmtReg k b := by
  unfold State.fmtAllChecked
  rw [State.fmtReg_foldl_fmtChecked hf hk (fun b hb => List.mem_range.1 hb) List.nodup_range]
  exact if_congr (and_iff_left (List.mem_range.2 hb)) rfl rfl

theorem execFormatRegionWrite_eq (f : Nat) (s : State) :
    exec (.formatRegionWrite f) s = .next ((s.fmtAllChecked f).dropView f) := rfl

/-- Settles O51: each kind of access by its lemma, served and not served. -/
theorem outsideAccesses : Obligations.OutsideAccesses := by
  intro s
  refine ⟨fun pa bs => execHostMemAccess_read s pa bs, fun pa bs => execHostMemAccess_unserved, fun pa bs h hr => ?host,
    fun dev write pa bs => execPeerMemAccess_unserved, fun dev pa bs hd h hr => ?peer, fun dev => execDeviceLostTimeout_lost, ?lost,
    fun code => ⟨_, execSpdmRequest_eq s code, rfl, State.spdmAnswer_none, State.spdmAnswer_version, State.spdmAnswer_slot⟩,
    fun a n v => execRegisterWrite_split, fun hr a n v => execRegisterWrite_recovery hr,
    fun hr => ⟨fun i h v => execRegisterWrite_arg hr h v, fun n v hn h8 => ?command, execRegisterWrite_tail hr,
      execRegisterWrite_credit hr, fun v i h => execRegisterWrite_cookie hr h v, fun v ta h => execRegisterWrite_outcome hr h v⟩,
    fun f hf => ⟨_, execFormatRegionWrite_eq f s, ?good, ?others, ?mem, State.dropView_l2 _ f⟩⟩
  case host => exact ⟨_, execHostMemAccess_writes h hr, s.outsideWrite_mem .., s.outsideWrite_slots ..⟩
  case peer => exact ⟨_, execPeerMemAccess_writes hd h hr, s.outsideWrite_mem .., s.outsideWrite_slots ..⟩
  case lost =>
    rintro dev x hd hno rfl
    exact execDeviceLostTimeout_orphans hd hno
  case command =>
    have h := execRegisterWrite_command hr (Nat.pos_iff_ne_zero.1 hn) h8 v
    exact ⟨fun hb => h.trans (congrArg _ (if_pos hb)),
      fun hb => ⟨_, h.trans (congrArg _ (if_neg (by rw [hb]; decide))), rfl, rfl, rfl⟩⟩
  case good =>
    rintro b r hb rfl
    rw [State.fmtReg_dropView, State.fmtReg_fmtAllChecked hf hf hb, if_pos rfl]
    rfl
  case others =>
    intro k b hb hk hne
    rw [State.fmtReg_dropView, State.fmtReg_fmtAllChecked hf hk hb, if_neg hne]
  case mem => rw [State.dropView_mem, State.fmtAllChecked_mem]

end Sys2Proof.Machine
end

section
/-! SUPPORT. Atomics: what is sent, what is written at the home, and what returns (R215 to R219, R226). -/

namespace Sys2Proof.Machine

open Sys2Proof.Claims

/-! ## What an atomic marks in its slot, and its request (R216) -/

/-- A slot that has sent an atomic: its local destination is EMPTY and pending; the no-return form counts in STQ. -/
def Slot.amoMarked (sl : Slot) (dst : Dst) (aq : Bool) : Slot :=
  match dst with
  | .loc d => if d = 0 then { sl with stq := sl.stq + 1 } else sl.pendFor d aq
  | .rem _ _ => sl

namespace Slot

variable (sl : Slot) (dst : Dst) (d : Reg) (aq : Bool)

/-- A destination of an access changes g and what is awaited alone. -/
theorem pendFor_only : ∃ g q, sl.pendFor d aq = { sl with g := g, acq := q } := by
  unfold Slot.pendFor Slot.pendG Slot.setG
  dsimp only
  split <;> split <;> exact ⟨_, _, rfl⟩

/-- What an atomic marks stands in g, in what is awaited and in STQ. -/
theorem amoMarked_only : ∃ g q n, sl.amoMarked dst aq = { sl with g := g, acq := q, stq := n } := by
  cases dst with
  | loc d =>
    unfold amoMarked
    dsimp only
    split
    · exact ⟨_, _, _, rfl⟩
    · obtain ⟨g, q, h⟩ := sl.pendFor_only d aq
      exact ⟨g, q, sl.stq, h⟩
  | rem n e => exact ⟨_, _, _, rfl⟩

theorem amoMarked_sameRegs : SameRegs sl { sl.amoMarked dst aq with g := sl.g } := by
  obtain ⟨g, q, n, h⟩ := sl.amoMarked_only dst aq
  rw [h]
  exact SameRegs.refl sl

theorem amoMarked_pc : (sl.amoMarked dst aq).pc = sl.pc := by
  obtain ⟨g, q, n, h⟩ := sl.amoMarked_only dst aq
  rw [h]

theorem amoMarked_ilen : (sl.amoMarked dst aq).ilen = sl.ilen := by
  obtain ⟨g, q, n, h⟩ := sl.amoMarked_only dst aq
  rw [h]

theorem amoMarked_dest (h : d ≠ 0) : (sl.amoMarked (.loc d) aq).greg d = ⟨(sl.greg d).val, .empty, true⟩ := by
  rw [amoMarked, if_neg h, greg_pendFor _ h]

variable {dst} in
theorem amoMarked_greg {r : Reg} (h : ∀ d, dst = .loc d → r ≠ d) : (sl.amoMarked dst aq).greg r = sl.greg r := by
  cases dst with
  | loc d =>
    by_cases h0 : d = 0
    · rw [amoMarked, if_pos h0]
      rfl
    · rw [amoMarked, if_neg h0]
      exact (SlotKept.pendFor sl (ds := ⟨[d], [], [], [], false⟩) aq (List.mem_singleton_self d)).g r
        fun hm => h d rfl (List.mem_singleton.1 hm)
  | rem n e => rfl

theorem amoMarked_stq : (sl.amoMarked dst aq).stq = if dst = .loc 0 then sl.stq + 1 else sl.stq := by
  cases dst with
  | loc d =>
    by_cases h0 : d = 0
    · rw [amoMarked, if_pos h0, h0, if_pos rfl]
    · obtain ⟨g, q, h⟩ := sl.pendFor_only d aq
      rw [amoMarked, if_neg h0, if_neg fun e => h0 (Dst.loc.inj e), h]
  | rem n e => exact (if_neg Dst.noConfusion).symm

end Slot

/-- The state once an atomic's destination has been marked. A remote one is not (log 5). -/
def State.markAmo (s : State) (dst : Dst) (aq : Bool) : State :=
  match dst with
  | .loc _ => s.modMe fun sl => sl.amoMarked dst aq
  | .rem _ _ => s

/-- The request of an atomic at a location, its operands in their low bytes (R216). -/
def State.amoRequest (s : State) (dst : Dst) (fn : AmoFn) (ty : Ty) (rm : Rm) (key : Nat) (x y : Word) : AmoReq :=
  ⟨⟨s.cur, s.me.uid⟩, s.me.ctx, homeward s dst, fn, ty, rm, key, BitVec.ofNat 64 (x.toNat % 2 ^ ty.width),
    BitVec.ofNat 64 (y.toNat % 2 ^ ty.width)⟩

theorem zextLow_eq (x : Word) (n : Nat) : zextLow x n = BitVec.ofNat 64 (x.toNat % 2 ^ n) := by
  rw [zextLow, ← BitVec.ofNat_toNat 64, BitVec.toNat_setWidth]

theorem State.sendAmo_eq (s : State) (fn : AmoFn) (ty : Ty) (rm : Rm) (p : Place) (dst : Dst) (x y : Word) (aq : Bool) :
    s.sendAmo fn ty rm p dst x y aq =
      .ok ((s.markAmo dst aq).post (.atomicAtHome (s.amoRequest dst fn ty rm p.key x y))) () := by
  unfold State.sendAmo State.amoRequest State.markAmo homeward
  rw [← zextLow_eq, ← zextLow_eq]
  cases dst with
  | loc d =>
    by_cases h0 : d = 0
    · simp only [h0, if_true, Slot.amoMarked]
      rfl
    · simp only [h0, if_false, Slot.amoMarked]
      rfl
  | rem n e => rfl

section
variable (s : State) (dst : Dst) (aq : Bool)

theorem State.me_markAmo : (s.markAmo dst aq).me = s.me.amoMarked dst aq := by
  cases dst with
  | loc d => exact State.me_modMe ..
  | rem n e => rfl

theorem State.slot_markAmo_other {ta : Nat} (h : ta ≠ s.cur) : (s.markAmo dst aq).slot ta = s.slot ta := by
  cases dst with
  | loc d => exact State.slot_modSlot_other _ _ h
  | rem n e => rfl

theorem State.markAmo_cur : (s.markAmo dst aq).cur = s.cur := by cases dst <;> rfl
theorem State.markAmo_mem : (s.markAmo dst aq).mem = s.mem := by cases dst <;> rfl
theorem State.markAmo_poison : (s.markAmo dst aq).poison = s.poison := by cases dst <;> rfl
theorem State.markAmo_agenda : (s.markAmo dst aq).agenda = s.agenda := by cases dst <;> rfl

theorem State.markAmo_nextPc : (s.markAmo dst aq).nextPc = s.nextPc := by
  rw [State.nextPc, State.me_markAmo, Slot.amoMarked_pc, Slot.amoMarked_ilen]
  rfl

end

/-! ## The issue of an atomic, with its operands (R216, R217) -/

theorem WalksOnly.poison {s t : State} (h : WalksOnly s t) : t.poison = s.poison := by
  obtain ⟨_, _, _, _, _, _, rfl⟩ := h
  rfl

/-- A request names the issuing slot, its task and its registers alone. -/
theorem SameSlots.amoRequest {s x : State} (h : SameSlots s x) : x.amoRequest = s.amoRequest := by
  funext dst fn ty rm key a b
  unfold State.amoRequest homeward
  rw [h.me, h.cur]

/-- With its sources FULL, its destination ready, its waits passed and its location placed, an atomic marks its destination and
puts the request of its operands on its way (R216): `amoOp_sends` with the value y of g(c), which is 0 where there is no c. -/
theorem amoOp_ends {s u : State} {fn : AmoFn} {ty : Ty} {rm : Rm} {l : List Src} {dst : Dst} {a b : Reg} {c : Option Reg}
    {off : W32} {rl : Option Scope} {key : Nat} (aq : Bool) (h : Hint) (hc : Clear s) (hl : FullAll s l) (hd : Takes s dst)
    (hrl : ∀ sc, rl = some sc → Released s sc) (hal : (s.g a + sextW off).toNat % (ty.width / 8) = 0)
    (hpl : AmoPlaced s (s.g a + sextW off) (ty.width / 8) u key) :
    ∃ x, CachesOnly u x ∧ amoOp fn ty rm l dst a b c off rl aq h s = .next (ended .s
      ((x.markAmo dst aq).post (.atomicAtHome (s.amoRequest dst fn ty rm key (s.g b) (c.elim 0 s.g))))) := by
  obtain ⟨hp, ⟨hv, hr⟩, ha⟩ := hc
  obtain ⟨p, q, hplace, rfl⟩ := State.amoPlace_ok hpl
  have hx : CachesOnly u (amoLook u p q h) := CachesOnly.amoLook u p q h
  have hs : SameSlots s (amoLook u p q h) := (WalksOnly.of_amoPlaced hpl).sameSlots.trans (.of_caches hx)
  have hg (r : Reg) : (amoLook u p q h).g r = s.g r := by rw [State.g, hs.me]; rfl
  have hwait : (match rl with | some sc => s.release sc | none => s.waitRpq) = .ok s () := by
    cases rl with
    | none => exact State.waitRpq_ok hv hr
    | some sc => exact State.release_ok (hrl sc rfl)
  have hsrc : FullAll s (l ++ dst.srcs) := List.forall_mem_append.2 ⟨hl, fullAll_dst hd⟩
  have hsend (y : Word) : (amoLook u p q h).sendAmo fn ty rm p dst ((amoLook u p q h).g b) y aq =
      .ok (((amoLook u p q h).markAmo dst aq).post (.atomicAtHome (s.amoRequest dst fn ty rm p.key (s.g b) y))) () := by
    rw [State.sendAmo_eq, hs.amoRequest, hg]
  refine ⟨_, hx, issue_ends hp ?_⟩
  dsimp only
  rw [State.examine_ok hsrc, Res.bind_ok, State.freeDst_ok hd, Res.bind_ok]
  refine (congrArg (Res.bind · _) hwait).trans ?_
  rw [Res.bind_ok, State.waitAmo_ok ha, Res.bind_ok, alignOne_ok hal, Res.bind_ok, State.remTarget_ok hd, Res.bind_ok,
    State.protAll_amoPlaced hpl, Res.bind_ok, hplace, Res.bind_ok]
  cases c with
  | none => exact hsend 0
  | some r => exact (hsend ((amoLook u p q h).g r)).trans (by rw [hg]; rfl)

/-- An atomic that ends with its destination marked and its request on its way does what `SendsAmo` says. -/
theorem sendsAmo_of {i : Instr} {s : State} {dst : Dst} {fn : AmoFn} {ty : Ty} {rm : Rm} {va a b : Word} (aq : Bool)
    (h : ∀ u key, AmoPlaced s va (ty.width / 8) u key → ∃ x, CachesOnly u x ∧ exec i s = .next (ended .s
      ((x.markAmo dst aq).post (.atomicAtHome (s.amoRequest dst fn ty rm key a b))))) : SendsAmo i s dst fn ty rm va a b := by
  intro u key hpl
  obtain ⟨x, hx, hi⟩ := h u key hpl
  have hw : WalksOnly s u := WalksOnly.of_amoPlaced hpl
  have hs : SameSlots s x := hw.sameSlots.trans (.of_caches hx)
  refine ⟨_, hi, ?pc, ?mem, ?poison, ?others, fun r hr => ?g, ?regs, ?dest, ?stq, ?agenda⟩
  case pc => rw [ended_pc, ← hs.nextPc]; exact x.markAmo_nextPc dst aq
  case mem => rw [ended, State.retireTo_mem, State.countIssue_mem, ← hx.mem]; exact x.markAmo_mem dst aq
  case poison =>
    rw [ended, State.retireTo_poison, State.countIssue_poison, ← hw.poison, ← hx.poison]
    exact x.markAmo_poison dst aq
  case others =>
    intro ta hta
    have hne : ta ≠ x.cur := by rwa [hs.cur]
    rw [ended, State.slot_retireTo_other _ _ (by rwa [State.countIssue_cur, State.post_cur, State.markAmo_cur]),
      State.slot_countIssue, State.slot_post, State.slot_markAmo_other _ _ _ hne, hs.slot]
  case g => rw [ended_greg, State.me_post, State.me_markAmo, Slot.amoMarked_greg _ _ hr, hs.me]
  case regs =>
    rw [ended, State.me_retireTo, State.me_countIssue, State.me_post, State.me_markAmo, hs.me]
    exact s.me.amoMarked_sameRegs dst aq
  case dest =>
    rintro d rfl h0
    rw [ended_greg, State.me_post, State.me_markAmo, Slot.amoMarked_dest _ _ _ h0]
    exact ⟨rfl, rfl⟩
  case stq => rw [ended_stq, State.me_post, State.me_markAmo, Slot.amoMarked_stq, hs.me]
  case agenda => rw [ended_agenda, State.post_agenda, State.markAmo_agenda, hx.agenda]; rfl

/-- The wait of an atomic's release, in the form of `amoOp`'s operand. -/
theorem released_of_rl {s : State} {rl : Bool} {sc : Scope} (h : rl = true → Released s sc) :
    ∀ x, (if rl then some sc else none) = some x → Released s x := by
  intro x hx
  cases rl with
  | false => cases hx
  | true => cases hx; exact h rfl

theorem atomicIssue : AtomicIssue := by
  intro s hc
  constructor
  · intro e he o hl hd hrl hal
    refine sendsAmo_of o.aq fun u key hpl => ?_
    rw [exec_of_amoTable e he o s]
    exact amoOp_ends (c := none) o.aq o.hint hc hl hd (released_of_rl hrl) hal hpl
  · intro o hl hd hrl hal
    refine sendsAmo_of o.aq fun u key hpl => ?_
    exact amoOp_ends (c := some o.c.reg) o.aq o.hint hc hl hd (released_of_rl hrl) hal hpl

/-! ## What an atomic writes at its home, and what it sends back (R216, R218) -/

theorem Ty.eight_mul_width (ty : Ty) : 8 * (ty.width / 8) = ty.width := by cases ty <;> rfl
theorem Ty.width_le (ty : Ty) : ty.width ≤ 64 := by cases ty <;> decide

/-- The bytes of a location make a pattern of its type's width. -/
theorem State.toNat_bytes (s : State) (key : Nat) (ty : Ty) :
    (BitVec.ofNat ty.width (ofBytes (s.bytes key (ty.width / 8)))).toNat = ofBytes (s.bytes key (ty.width / 8)) := by
  have hlt := ofBytes_lt (s.bytes key (ty.width / 8))
  rw [State.bytes, Memory.length_read, Ty.eight_mul_width] at hlt
  exact toNat_ofNat_lane hlt

theorem asInt_toNat {w : Nat} (x : BitVec w) : asInt w x.toNat = x.toInt := by
  rw [asInt, BitVec.ofNat_toNat, BitVec.setWidth_eq]

/-- The integer functions of the model are those of the claims. -/
theorem amoNew_eq {ty : Ty} {fn : AmoFn} (rm : Rm) {old x y new : BitVec ty.width} (h : newValue ty.width fn old x y = some new) :
    amoNew fn ty rm old.toNat x.toNat y.toNat = new.toNat := by
  cases fn with
  | fadd | fmin | fmax => cases h
  | swap | add => cases h; rfl
  | and => cases h; exact (BitVec.toNat_and ..).symm
  | or => cases h; exact (BitVec.toNat_or ..).symm
  | xor => cases h; exact (BitVec.toNat_xor ..).symm
  | cas =>
    cases h
    rw [amoNew, apply_ite BitVec.toNat]
    exact if_congr BitVec.toNat_inj rfl rfl
  | min | max =>
    cases h
    simp only [amoNew, asInt_toNat]
    exact (apply_ite BitVec.toNat ..).symm
  | minu | maxu => cases h; exact (apply_ite BitVec.toNat ..).symm

/-- ADD, MIN and MAX send the old value back sign-extended, the others zero-extended. -/
theorem amoOld_eq {ty : Ty} (fn : AmoFn) (old : BitVec ty.width) : amoOld fn ty old.toNat = oldValue ty.width fn old := by
  have hword : BitVec.ofNat 64 old.toNat = old.setWidth 64 := BitVec.ofNat_toNat ..
  have hsigned : sextLow (BitVec.ofNat 64 old.toNat) ty.width = old.signExtend 64 := by
    rw [sextLow, BitVec.setWidth_ofNat_of_le (Ty.width_le ty), BitVec.ofNat_toNat, BitVec.setWidth_eq]
  cases fn with
  | add | min | max => exact hsigned
  | swap | cas | and | or | xor | minu | maxu | fadd | fmin | fmax => exact hword

/-! ## An atomic of the device's memory (R216, R218) -/

section
variable {s : State} {r : AmoReq} (hi : s.replay.busy = false)
include hi

theorem execAtomicAtHome_writes (hk : r.key < 2 ^ 64) (hp : s.pois r.key (r.ty.width / 8) = false)
    {old new : BitVec r.ty.width} (hold : old = BitVec.ofNat r.ty.width (littleEndian (Memory.read s.mem r.key (r.ty.width / 8))))
    (hnew : newValue r.ty.width r.fn old (r.x.setWidth r.ty.width) (r.y.setWidth r.ty.width) = some new)
    (hx : r.x.toNat < 2 ^ r.ty.width) (hy : r.y.toNat < 2 ^ r.ty.width) : exec (.atomicAtHome r) s =
      .next ((s.putBytes r.key (toBytes (r.ty.width / 8) new.toNat)).post
        (.atomicReturn r (oldValue r.ty.width r.fn old) false)) := by
  have hbytes : ofBytes (s.bytes r.key (r.ty.width / 8)) = old.toNat := by
    rw [hold, littleEndian_eq]
    exact (s.toNat_bytes r.key r.ty).symm
  have hnew' := amoNew_eq r.rm hnew
  rw [BitVec.toNat_setWidth, BitVec.toNat_setWidth, Nat.mod_eq_of_lt hx, Nat.mod_eq_of_lt hy] at hnew'
  rw [execAtomicAtHome_device hi hk, State.doAmo_device hi hk, if_neg (by rw [hp]; decide), hbytes, hnew', amoOld_eq]

theorem execAtomicAtHome_reports (hk : r.key < 2 ^ 64) (hp : s.pois r.key (r.ty.width / 8) = true) :
    ∃ e, exec (.atomicAtHome r) s = .next { s with agenda := s.agenda ++ [.errorDetected e, .atomicReturn r 0 true] } := by
  rw [execAtomicAtHome_device hi hk, State.doAmo_device hi hk, if_pos hp]
  unfold State.report State.post
  dsimp only
  rw [List.append_assoc]
  exact ⟨_, rfl⟩

/-! ## An atomic at a QLM location (R219) -/

theorem State.replayHolds_idle : s.replayHolds r = false := by
  unfold State.replayHolds
  simp [hi]

theorem execAtomicAtHome_qlm {q off : Nat} (hq : q < 2048) (ho : off < 2 ^ 20) (hk : r.key = 2 ^ 64 + q * 2 ^ 20 + off) :
    exec (.atomicAtHome r) s = .next (s.rxArrive (4 * q + off / 128 % 4)
      { kind := 1, sender := BitVec.ofNat 64 r.req.ta, ctx := r.ctx, ta := 8 * (4 * q + off / 128 % 4) + 4, value := r.x
        w2h := BitVec.ofNat 32 off, w3 := r.y, amo := some r } none) := by
  have hoff : r.key % 2 ^ 20 = off := by omega
  have howner : qlmOwner r.key = 4 * q + off / 128 % 4 := by
    unfold qlmOwner
    dsimp only
    omega
  have hhandler : hndOf (4 * q + off / 128 % 4) = 8 * (4 * q + off / 128 % 4) + 4 := congrArg (· + 4) (Nat.mul_comm ..)
  show execAtomicAtHome r s = _
  unfold execAtomicAtHome
  rw [if_neg (by rw [State.replayHolds_idle hi]; decide), if_pos (by omega), howner, hoff, ← hhandler]

end

/-! ## The return, clean or POISON (R216, R218, R226) -/

section
variable {s : State} {r : AmoReq} (h : InSlot s r.req) (old : Word) (pois : Bool)
include h

theorem execAtomicReturn_counts (hd : r.dest = .none) : exec (.atomicReturn r old pois) s =
    .next (s.modSlot r.req.ta fun sl => { sl with stq := sl.stq - 1 }) := by
  show execAtomicReturn r old pois s = _
  unfold execAtomicReturn
  rw [hd]
  exact congrArg _ (State.modTask_inSlot h _)

theorem execAtomicReturn_arrives {d : Reg} (hd : r.dest = .loc d) : exec (.atomicReturn r old pois) s =
    .next (s.modSlot r.req.ta fun sl =>
      sl.setG d (if pois then ⟨(sl.greg d).val, .poison, false⟩ else ⟨old, .full, false⟩)) := by
  show execAtomicReturn r old pois s = _
  unfold execAtomicReturn
  rw [hd]
  exact congrArg _ (State.modTask_inSlot h _)

/-- A remote destination's value goes on as a remote write, which an activation holds in its outbox. -/
theorem execAtomicReturn_forwards {th : Nat} {n : BitVec 5} (hd : r.dest = .rem th n) (ht : th < 2 ^ 16)
    (hpart : (s.slot th).partner = none) {i : Instr}
    (hi : i = .remoteWriteArrival ⟨BitVec.ofNat 64 r.req.ta, r.ctx, th, n, old, pois⟩) : exec (.atomicReturn r old pois) s =
      .next (if taHnd r.req.ta then s.modSlot r.req.ta fun sl => { sl with outbox := sl.outbox ++ [.event i] }
        else s.post i) := by
  subst hi
  have hdev : th / 2 ^ 16 = 0 := Nat.div_eq_of_lt ht
  have hpair : s.pairOf (th % 2 ^ 16) = th := by
    rw [Nat.mod_eq_of_lt ht, State.pairOf, hpart]
    rfl
  have hhere : (s.task? r.req).isSome = true := by
    obtain ⟨huid, hne, -⟩ := h
    unfold State.task? State.findUid
    rw [if_pos ⟨huid, hne⟩]
    rfl
  show execAtomicReturn r old pois s = _
  unfold execAtomicReturn
  rw [hd]
  dsimp only
  rw [if_neg (fun hc => hc.1 hdev), hpair, hhere, Bool.and_true, State.modTask_inSlot h]

end

theorem atomicsAtTheirHome : AtomicsAtTheirHome := by
  intro s r hi
  refine ⟨fun hk => ⟨fun hp w old new hw hold hnew hx hy => ?writes, execAtomicAtHome_reports hi hk⟩,
    fun q off hq ho hk => execAtomicAtHome_qlm hi hq ho hk, fun old pois hu h0 ha => ?returns⟩
  case writes =>
    subst hw
    exact execAtomicAtHome_writes hi hk hp hold hnew hx hy
  case returns =>
    have h : InSlot s r.req := ⟨hu, h0, ha⟩
    refine ⟨execAtomicReturn_counts h old pois, fun d => execAtomicReturn_arrives h old pois, fun th n i hd ht hpart hm => ?_⟩
    have hforward := execAtomicReturn_forwards h old pois hd ht hpart hm
    exact ⟨fun hh => hforward.trans (congrArg _ (if_neg (by rw [hh]; decide))),
      fun hh => hforward.trans (congrArg _ (if_pos hh))⟩

/-- Settles O31: an atomic's checks pass and its request is the model's own; at its home the integer functions are those of the
claims, and what returns reaches the task that is in its slot. -/
theorem atomics : Obligations.Atomics := ⟨atomicIssue, atomicsAtTheirHome⟩

end Sys2Proof.Machine
end

section
/-! SUPPORT. Copies and tags: the operation that CPGO launches, what CPABORT makes of one, and the bits of the answers about
tags (R229 to R239). -/

namespace Sys2Proof.Machine

open Sys2Proof.Claims

/-! ## The launch of a copy (R230, R232, R233) -/

/-- The eighth shadow register is none (R233). -/
theorem execCpset_illegal {s : State} {a : Src} (hp : Solo s) (hh : taHnd s.cur = false) (ha : Full s a.reg) :
    ∃ t, exec (.cpset 7 a) s = .next t ∧ Faulted s t 0x01 s.me.pc := by
  show ∃ t, execCpset 7 a s = .next t ∧ _
  refine issue_faulted hp hh ?_
  rw [State.examine_ok (fullAll_one ha), Res.bind_ok, dif_neg (by decide)]

/-- CPGO waits while its engine's inbox is full (R233). -/
theorem execCpgo_waits {s : State} {d : Reg} (hc : Clear s) (hd : Free s d)
    (hfull : 64 ≤ ((s.eng (copyEngine s.cur)).ops.filter fun o => o.st == 1).length) : exec (.cpgo d) s = .next s := by
  obtain ⟨hp, ⟨hv, hr⟩, ha⟩ := hc
  show execCpgo d s = _
  refine issue_waits hp ?_
  rw [State.freeG_ok hd, Res.bind_ok, State.waitRpq_ok hv hr, Res.bind_ok, State.waitAmo_ok ha, Res.bind_ok]
  exact if_pos hfull

/-- A copy as it is launched: a malformed one has completed with status 1 (R230). -/
def EngOp.checked (o : EngOp) (bars : Option Nat) : EngOp := if o.malformed bars then { o with st := 2, status := 1 } else o

theorem EngOp.checked_id (o : EngOp) (bars : Option Nat) : (o.checked bars).id = o.id := by
  unfold EngOp.checked
  split <;> rfl

theorem EngOp.checked_malformed (o : EngOp) (bars : Option Nat) : (o.checked bars).malformed bars = o.malformed bars := by
  unfold EngOp.checked
  split <;> rfl

/-- The operation of CPGO is one that waits for its engine, checked. -/
theorem State.newCopy_checked (s : State) : ∃ o : EngOp, s.newCopy = o.checked (barsOf s) ∧
    o.id = BitVec.ofNat 32 (copyEngine s.cur * 2 ^ 24 + (s.eng (copyEngine s.cur)).seq) ∧ o.st = 1 ∧ o.status = 0 :=
  ⟨_, rfl, rfl, rfl, rfl⟩

theorem State.newCopy_id (s : State) :
    s.newCopy.id = BitVec.ofNat 32 (copyEngine s.cur * 2 ^ 24 + (s.eng (copyEngine s.cur)).seq) := by
  obtain ⟨o, ho, hid, -, -⟩ := s.newCopy_checked
  rw [ho, o.checked_id, hid]

theorem State.newCopy_malformed {s : State} (h : s.newCopy.malformed (barsOf s) = true) :
    s.newCopy.st = 2 ∧ s.newCopy.status = 1 := by
  obtain ⟨o, ho, -, -, -⟩ := s.newCopy_checked
  rw [ho, o.checked_malformed] at h
  rw [ho, EngOp.checked, if_pos h]
  exact ⟨rfl, rfl⟩

theorem State.newCopy_wellFormed {s : State} (h : s.newCopy.malformed (barsOf s) = false) :
    s.newCopy.st = 1 ∧ s.newCopy.status = 0 := by
  obtain ⟨o, ho, -, hst, hstatus⟩ := s.newCopy_checked
  rw [ho, o.checked_malformed] at h
  rw [ho, EngOp.checked, if_neg (by rw [h]; decide)]
  exact ⟨hst, hstatus⟩

/-- With room at its engine CPGO launches the operation: it completes at once when it is malformed, and else waits for the
engine. -/
theorem execCpgo_launches {s : State} {d : Reg} (hc : Clear s) (hd : Free s d)
    (hroom : ((s.eng (copyEngine s.cur)).ops.filter fun o => o.st == 1).length < 64) :
    (s.newCopy.malformed (barsOf s) = true → s.newCopy.st = 2 ∧ s.newCopy.status = 1 ∧ exec (.cpgo d) s =
      .next (ended .v (((operated s (copyEngine s.cur) s.newCopy).complete s.newCopy).putG d (s.newCopy.id.setWidth 64)))) ∧
    (s.newCopy.malformed (barsOf s) = false → s.newCopy.st = 1 ∧ s.newCopy.status = 0 ∧ exec (.cpgo d) s =
      .next (ended .v (((operated s (copyEngine s.cur) s.newCopy).post (.copyExecute (copyEngine s.cur))).putG d
        (s.newCopy.id.setWidth 64)))) := by
  have hgo := execCpgo_ends hc hd hroom
  constructor <;> intro h
  · obtain ⟨hst, hstatus⟩ := State.newCopy_malformed h
    exact ⟨hst, hstatus, ends_congr hgo (congrArg (State.putG · d _) (if_pos hst))⟩
  · obtain ⟨hst, hstatus⟩ := State.newCopy_wellFormed h
    exact ⟨hst, hstatus, ends_congr hgo (congrArg (State.putG · d _) (if_neg (by rw [hst]; decide)))⟩

/-! ## CPSTAT and CPABORT (R235, R236, R245) -/

theorem State.abortOp_queued (s : State) {o : EngOp} (h : o.st = 1) (status : Nat) : s.abortOp o status =
    (s.modOp o.id fun x => { x with st := 3, status := status, fail := 0 }).post (.copyCompletion o.id) := if_pos h

theorem State.abortOp_run (s : State) {o : EngOp} (h : o.st ≠ 1) (status : Nat) :
    s.abortOp o status = s.modOp o.id fun x => { x with st := 3, status := status, fail := 0 } := if_neg h

theorem State.aborting_copy (s : State) {o : EngOp} (h : o.coll = none) :
    s.aborting o = if o.st = 3 then s else s.abortOp o 5 := by
  unfold State.aborting
  rw [h]

theorem State.aborting_collective (s : State) {o : EngOp} {c : CollInfo} (h : o.coll = some c) : s.aborting o =
    if o.st = 1 then (s.abortOp o 5).post (.collectiveAbort o.ctx c.grp c.op) else s := by
  unfold State.aborting
  rw [h]

/-- CPSTAT puts the bytes written beside the state. -/
theorem execCpstat_some {s : State} {d : Reg} {a : Src} {o : EngOp} (hp : Solo s) (ha : Full s a.reg) (hd : Free s d)
    (ho : s.myOp (s.g a.reg) = some o) (hw : o.written < 2 ^ 32) (hst : o.st < 2 ^ 32) : exec (.cpstat d a) s =
      .next (ended .v (s.putG d (BitVec.ofNat 32 o.written ++ BitVec.ofNat 32 o.st))) := by
  have hmin : Nat.min o.written 0xFFFFFFFF = o.written := Nat.min_eq_left (by omega)
  have hword : opWord (some o) = o.written * 2 ^ 32 + o.st := by rw [opWord, hmin]
  rw [execCpstat_ends hp ha hd, ho, hword, ofNat_counters hst hw]

theorem copyInstructions : CopyInstructions := by
  intro s hp
  refine ⟨fun i a ha => ⟨fun h => execCpset_ends hp h ha, ?illegal⟩, ?launch, fun d a ha hd => ⟨fun hno => ?none, fun o ho => ?some⟩⟩
  case illegal =>
    rintro rfl hh
    exact execCpset_illegal hp hh ha
  case launch =>
    rintro d e id hc hd rfl rfl
    rw [← s.newCopy_id]
    exact ⟨fun hroom => ⟨s.newCopy, s.newCopy_launched, execCpgo_launches hc hd hroom⟩, execCpgo_waits hc hd⟩
  case none =>
    refine ⟨?_, execCpabort_none hp ha hd hno⟩
    rw [execCpstat_ends hp ha hd, State.g, hno]
    rfl
  case some =>
    have habort {t : State} (h : s.aborting o = t) : exec (.cpabort d a) s = .next (ended .v (t.putG d 1)) :=
      h ▸ execCpabort_some hp ha hd ho
    refine ⟨execCpstat_some hp ha hd ho, fun hcopy hst => habort ?queued, fun hcopy hst => habort ?run,
      fun hcopy hst => habort ?aborted, fun c hc => ⟨fun hst => habort ?contributed, fun hst => habort ?committed⟩⟩
    case queued => rw [s.aborting_copy hcopy, if_neg (by omega), s.abortOp_queued hst]
    case run => rw [s.aborting_copy hcopy, if_neg (by omega), s.abortOp_run (by omega)]
    case aborted => rw [s.aborting_copy hcopy, if_pos hst]
    case contributed => rw [s.aborting_collective hc, if_pos hst, s.abortOp_queued hst]
    case committed => rw [s.aborting_collective hc, if_neg hst]

/-! ## Tags (R239) -/

theorem lowBit_zero : lowBit 0 = 64 := by decide

theorem lowBit_eq {w : Word} {t : Nat} (ht : t < 64) (hbit : w.getLsbD t = true) (hlow : ∀ u, u < t → w.getLsbD u = false) :
    lowBit w = t := by
  have h : (List.range 64).find? (fun i => bit w i) = some t :=
    List.find?_range_eq_some.2 ⟨hbit, List.mem_range.2 ht, fun u hu => by rw [bit, hlow u hu]; rfl⟩
  rw [lowBit, h]
  rfl

theorem getLsbD_foldl_or (l : List Nat) (w : Word) {i : Nat} (hi : i < 64) :
    (l.foldl (fun w t => w ||| (1#64 <<< t)) w).getLsbD i = (w.getLsbD i || decide (i ∈ l)) := by
  induction l generalizing w with
  | nil => simp
  | cons t l ih =>
    rw [List.foldl_cons, ih, BitVec.getLsbD_or, ← BitVec.twoPow_eq, BitVec.getLsbD_twoPow]
    by_cases h : t = i
    · simp [h, hi]
    · simp [h, Ne.symm h]

/-- The tags of a mask with a status, bit by bit. -/
theorem State.getLsbD_failedTags (s : State) (m : Word) (t : BitVec 6) : (s.failedTags m).getLsbD t.toNat =
    (m.getLsbD t.toNat && decide (s.me.tags[t.toNat].toNat % 256 ≠ 0)) := by
  have ht : t.toNat < 64 := t.isLt
  rw [State.failedTags, getLsbD_foldl_or _ _ ht, Bool.eq_iff_iff, Bool.or_eq_true, decide_eq_true_eq, List.mem_filter,
    BitVec.ofNat_toNat, BitVec.setWidth_eq, slice_zero_eq_mod]
  simp [ht, bit, Slot.tag]

/-- The status words with that of tag t cleared, if the mask names it. -/
def clearTag (m : Word) (v : Vector W32 64) (t : Nat) : Vector W32 64 :=
  if h : t < 64 then (if bit m t then v.set t 0 else v) else v

theorem getElem_clearTag (m : Word) (v : Vector W32 64) (t : Nat) {i : Nat} (hi : i < 64) :
    (clearTag m v t)[i] = if i = t ∧ m.getLsbD i = true then 0 else v[i] := by
  unfold clearTag bit
  by_cases hit : i = t
  · subst hit
    rw [dif_pos hi]
    by_cases hm : m.getLsbD i = true
    · rw [if_pos hm, if_pos ⟨rfl, hm⟩, Vector.getElem_set_self]
    · rw [if_neg hm, if_neg fun h => hm h.2]
  · rw [if_neg fun h => hit h.1]
    split
    · split
      · exact Vector.getElem_set_ne _ hi fun e => hit e.symm
      · rfl
    · rfl

theorem getElem_foldl_clearTag (m : Word) (l : List Nat) (v : Vector W32 64) {i : Nat} (hi : i < 64) :
    (l.foldl (clearTag m) v)[i] = if i ∈ l ∧ m.getLsbD i = true then 0 else v[i] := by
  induction l generalizing v with
  | nil => simp
  | cons t l ih =>
    rw [List.foldl_cons, ih, getElem_clearTag m v t hi, ← ite_or]
    exact if_congr (by rw [List.mem_cons]; tauto) rfl rfl

theorem Slot.clearTags_tags (sl : Slot) (m : Word) (t : BitVec 6) :
    (sl.clearTags m).tags[t.toNat] = if m.getLsbD t.toNat then 0 else sl.tags[t.toNat] := by
  have hmem : t.toNat ∈ List.range 64 := List.mem_range.2 t.isLt
  have htags : (sl.clearTags m).tags = (List.range 64).foldl (clearTag m) sl.tags := by
    unfold Slot.clearTags clearTag
    dsimp only
  rw [htags, getElem_foldl_clearTag]
  exact if_congr (and_iff_right hmem) rfl rfl

section
variable {s : State} {d : Reg} {a : Src} (hp : Solo s) (ha : Full s a.reg) (hd : Free s d) (c : Bool)
include hp ha hd

/-- While no tag of its mask is set, WAITANY waits. -/
theorem execWaitany_waits (h0 : s.g a.reg ≠ 0) (h : s.me.tagrdy &&& s.g a.reg = 0) : exec (.waitany d a c) s = .next s := by
  show execWaitany d a c s = _
  refine issue_waits hp ?_
  rw [State.examine_ok (fullAll_one ha), Res.bind_ok, State.freeG_ok hd, Res.bind_ok]
  exact (if_neg h0).trans (if_pos h)

/-- While a tag of its mask is not set, WAITALL waits. -/
theorem execWaitall_waits (h : s.me.tagrdy &&& s.g a.reg ≠ s.g a.reg) : exec (.waitall d a c) s = .next s := by
  show execWaitall d a c s = _
  refine issue_waits hp ?_
  rw [State.examine_ok (fullAll_one ha), Res.bind_ok, State.freeG_ok hd, Res.bind_ok]
  exact if_pos h

/-- WAITANY and FFRDY answer the lowest tag of the mask that is set. -/
theorem waitany_ffrdy_lowest {t : Nat} (ht : t < 64) (hm : (s.g a.reg).getLsbD t = true) (hr : s.me.tagrdy.getLsbD t = true)
    (hlow : ∀ u, u < t → (s.g a.reg).getLsbD u = false ∨ s.me.tagrdy.getLsbD u = false) :
    exec (.waitany d a c) s = .next (ended .s
      ((if c then s.modMe fun sl => sl.clearTags (1#64 <<< t) else s).putG d (BitVec.ofNat 64 t))) ∧
    Gives (.ffrdy d a) s d (BitVec.ofNat 64 t) := by
  have hset : (s.me.tagrdy &&& s.g a.reg).getLsbD t = true := by rw [BitVec.getLsbD_and, hm, hr]; rfl
  have hlowest : lowBit (s.me.tagrdy &&& s.g a.reg) = t := by
    refine lowBit_eq ht hset fun u hu => ?_
    rw [BitVec.getLsbD_and, Bool.and_eq_false_iff]
    exact (hlow u hu).symm
  have hne {w : Word} (hw : w.getLsbD t = true) : w ≠ 0 := by
    rintro rfl
    rw [show (0 : Word).getLsbD t = false from BitVec.getLsbD_zero] at hw
    exact Bool.false_ne_true hw
  have hany := execWaitany_hit hp ha hd c (hne hm) (hne hset)
  have hffrdy := execFfrdy_gives hp ha hd
  rw [hlowest] at hany hffrdy
  exact ⟨hany, hffrdy⟩

end

theorem tagInstructions : TagInstructions := by
  rintro s a m hp ha rfl
  refine ⟨fun d c hd => ⟨execWaitany_none hp ha hd c, fun t ht hm hr hlow => waitany_ffrdy_lowest hp ha hd c ht hm hr hlow,
      execWaitany_waits hp ha hd c, fun h => ?ffrdy, fun h => ⟨s.failedTags _, s.getLsbD_failedTags _, execWaitall_ends hp ha hd c h⟩,
      execWaitall_waits hp ha hd c⟩,
    ⟨execTagclr_ends hp ha, rfl, s.me.clearTags_tags _⟩, fun d t hd => execTagget_gives hp hd t⟩
  case ffrdy =>
    have hgives := execFfrdy_gives hp ha hd
    rwa [State.g, h, lowBit_zero] at hgives

/-- Settles O33: the operation of CPGO by whether it is malformed, that of CPABORT by its kind and state, and the tags of a mask
bit by bit. -/
theorem copiesAndTags : Obligations.CopiesAndTags := ⟨copyInstructions, tagInstructions⟩

end Sys2Proof.Machine
end

section
/-! SUPPORT. Collectives: what each check at issue leaves (R243, R244). -/

namespace Sys2Proof.Machine

open Sys2Proof.Claims

/-! ## The operation enters its engine -/

/-- A COLL instruction waits while its member has 16 operations under way, unless its descriptor is bad; else it launches its
operation (R244). -/
theorem collOp_eq {s u : State} {d : Reg} {a : Src} {bs : List Byte} (f : Nat) (hc : Clear s) (ha : Full s a.reg)
    (hd : Free s d) (hal : (s.g a.reg).toNat % 64 = 0) (hr : s.readRecord (s.g a.reg) 64 = .ok u bs) : collOp f d a s =
      .next (if badColl f bs (u.collGroup bs) = false ∧
          16 ≤ u.collOut u.me.ctx (recField bs 0x14 2 / 1024) (recField bs 0x14 2 % 1024) then u
        else ended .v ((u.launchColl f bs).putG d ((u.newColl f bs).id.setWidth 64))) := by
  have hcond : (!badColl f bs (u.collGroup bs) &&
        decide (16 ≤ u.collOut u.me.ctx (recField bs 0x14 2 / 1024) (recField bs 0x14 2 % 1024))) = true ↔
      badColl f bs (u.collGroup bs) = false ∧
        16 ≤ u.collOut u.me.ctx (recField bs 0x14 2 / 1024) (recField bs 0x14 2 % 1024) := by
    rw [Bool.and_eq_true, Bool.not_eq_true', decide_eq_true_eq]
  have hfirst : taskFirst [a] [d] s = .ok s () := taskFirst_ok hc (fullAll_one ha) (List.forall_mem_singleton.2 hd)
  split
  · next h =>
    refine issue_waits hc.1 ?_
    rw [hfirst, Res.bind_ok]
    dsimp only
    rw [alignOne_ok hal, Res.bind_ok, hr, Res.bind_ok]
    exact if_pos (hcond.2 h)
  · next h =>
    refine issue_ends hc.1 ?_
    rw [hfirst, Res.bind_ok]
    dsimp only
    rw [alignOne_ok hal, Res.bind_ok, hr, Res.bind_ok]
    exact (if_neg (mt hcond.1 h)).trans rfl

theorem State.collHere_iff (u : State) (bs : List Byte) :
    u.collHere bs = true ↔ hereIn u ((u.collGroup bs).getD []) (recField bs 0x14 2 % 1024) := by
  unfold State.collHere hereIn
  cases ((u.collGroup bs).getD [])[recField bs 0x14 2 % 1024]? with
  | none => simp
  | some p => simp

section
variable (u : State) (f : Nat) (bs : List Byte)

/-- What the checks of a collective of u leave. -/
def State.collChecked : State × EngOp :=
  u.collCheck (badColl f bs (u.collGroup bs)) (u.collHere bs) (u.newColl f bs) (collOf f bs u.time (u.collNext bs))
    ((u.collGroup bs).getD []).length (BitVec.ofNat 64 (recField bs 0 8))

variable {u f bs} {t : State} {o : EngOp}

/-- A collective of a member that is elsewhere, or of a bad descriptor, takes no number of its group (R244). -/
theorem State.launchColl_unnumbered (hskip : (badColl f bs (u.collGroup bs) || !u.collHere bs) = true)
    (hcheck : u.collChecked f bs = (u, o)) (hst : o.st = 2) : u.launchColl f bs =
      (operated u (u.collEngine bs) o).post (.copyCompletion (u.newColl f bs).id) := by
  show (u.collChecked f bs).1.collEnter (u.collChecked f bs).2 _ _ _ _ _ = _
  rw [hcheck, hskip]
  exact if_pos hst

/-- Another takes the next number; where a check has failed it completes (R243, R244). -/
theorem State.launchColl_numbered (hgood : badColl f bs (u.collGroup bs) = false) (hhere : u.collHere bs = true)
    (hcheck : u.collChecked f bs = (t, o)) : u.launchColl f bs =
      if o.st = 2 then
        (operated (nextColl u t (recField bs 0x14 2)) (u.collEngine bs) o).post (.copyCompletion (u.newColl f bs).id)
      else operated (nextColl u t (recField bs 0x14 2)) (u.collEngine bs) o := by
  show (u.collChecked f bs).1.collEnter (u.collChecked f bs).2 _ _ _ _ _ = _
  rw [hcheck, hgood, hhere]
  rfl

theorem State.launchColl_failed (hgood : badColl f bs (u.collGroup bs) = false) (hhere : u.collHere bs = true)
    (hcheck : u.collChecked f bs = (t, o)) (hst : o.st = 2) : u.launchColl f bs =
      (operated (nextColl u t (recField bs 0x14 2)) (u.collEngine bs) o).post (.copyCompletion (u.newColl f bs).id) :=
  (State.launchColl_numbered hgood hhere hcheck).trans (if_pos hst)

theorem State.launchColl_contributes (hgood : badColl f bs (u.collGroup bs) = false) (hhere : u.collHere bs = true)
    (hcheck : u.collChecked f bs = (t, o)) (hst : o.st = 1) : u.launchColl f bs =
      operated (nextColl u t (recField bs 0x14 2)) (u.collEngine bs) o :=
  (State.launchColl_numbered hgood hhere hcheck).trans (if_neg (by rw [hst]; decide))

/-! ## The checks, one by one (R234, R243) -/

theorem State.collChecked_bad (hbad : badColl f bs (u.collGroup bs) = true) :
    u.collChecked f bs = (u, { u.newColl f bs with st := 2, status := 1, coll := none }) := if_pos hbad

theorem State.collChecked_elsewhere (hgood : badColl f bs (u.collGroup bs) = false) (hhere : u.collHere bs = false) :
    u.collChecked f bs = (u, { u.newColl f bs with st := 2, status := 3 }) := by
  unfold State.collChecked State.collCheck
  rw [hgood, hhere]
  rfl

/-- The checks of a good descriptor whose member is here are those of its destination and its source. -/
theorem State.collChecked_here (hgood : badColl f bs (u.collGroup bs) = false) (hhere : u.collHere bs = true) :
    u.collChecked f bs =
      u.collCheck false true (u.newColl f bs) (collOf f bs u.time (u.collNext bs)) ((u.collGroup bs).getD []).length
        (BitVec.ofNat 64 (recField bs 0 8)) := by
  rw [State.collChecked, hgood, hhere]

variable {c k : CollInfo} {n st : Nat} {src fva : Word} {y z : State}

theorem State.collCheck_destination (hdest : u.collDest o c n = (y, .error (st, fva))) :
    u.collCheck false true o c n src = (y, { o with st := 2, status := st, fail := fva }) := by
  unfold State.collCheck
  rw [hdest]
  rfl

theorem State.collCheck_source (hdest : u.collDest o c n = (y, .ok k)) (hsrc : y.collRead o k src = (z, .error (st, fva))) :
    u.collCheck false true o c n src = (z, { o with st := 2, status := st, fail := fva }) := by
  unfold State.collCheck
  rw [hdest]
  dsimp only
  rw [hsrc]
  rfl

theorem State.collCheck_passes {k' : CollInfo} (hdest : u.collDest o c n = (y, .ok k)) (hsrc : y.collRead o k src = (z, .ok k')) :
    u.collCheck false true o c n src = (z, { o with coll := some k' }) := by
  unfold State.collCheck
  rw [hdest]
  dsimp only
  rw [hsrc]
  rfl

end

/-! ## The statement -/

/-- Settles O34: the operation is the one the descriptor asks for, and each check that fails gives it its status at issue, as
the model has it (log 15). -/
theorem collectives : Obligations.Collectives := by
  rintro s d a va u bs hc ha hd rfl hal hr x hx my e id l c rfl rfl rfl rfl rfl
  have hgo := (exec_of_collTable x hx d a s).trans (collOp_eq x.2 hc ha hd hal hr)
  have hends (h : badColl x.2 bs (u.collGroup bs) = true ∨
      u.collOut u.me.ctx (recField bs 0x14 2 / 1024) (recField bs 0x14 2 % 1024) < 16) {t : State} (ht : u.launchColl x.2 bs = t) :
      exec (x.1 d a) s = .next (ended .v (t.putG d ((u.newColl x.2 bs).id.setWidth 64))) := by
    rw [hgo, if_neg, ht]
    rintro ⟨hgood, hfull⟩
    exact h.elim (fun hbad => Bool.false_ne_true (hgood.symm.trans hbad)) fun hlt => absurd hfull (by omega)
  refine ⟨u.newColl x.2 bs, rfl, rfl, rfl, rfl, rfl, rfl, rfl, rfl, fun hbad => ?bad,
    fun hgood hfull => hgo.trans (congrArg _ (if_pos ⟨hgood, hfull⟩)), fun hgood hroom =>
      ⟨fun hno => ?elsewhere, fun hmem => ⟨fun y st fva hdest => ?destination, ?checked⟩⟩⟩
  case bad =>
    refine hends (.inl hbad) (State.launchColl_unnumbered ?_ (State.collChecked_bad hbad) rfl)
    exact Bool.or_eq_true_iff.2 (.inl hbad)
  case elsewhere =>
    have hhere : u.collHere bs = false := Bool.eq_false_iff.2 (mt (u.collHere_iff bs).1 hno)
    refine hends (.inr hroom) (State.launchColl_unnumbered ?_ (State.collChecked_elsewhere hgood hhere) rfl)
    rw [hhere, Bool.not_false, Bool.or_true]
  all_goals
    have hhere : u.collHere bs = true := (u.collHere_iff bs).2 hmem
    have hcheck := State.collChecked_here (f := x.2) hgood hhere
  case destination =>
    exact hends (.inr hroom) (State.launchColl_failed hgood hhere (hcheck.trans (State.collCheck_destination hdest)) rfl)
  case checked =>
    rintro y k hdest z r hsrc
    constructor
    · rintro k' rfl
      exact hends (.inr hroom) (State.launchColl_contributes hgood hhere (hcheck.trans (State.collCheck_passes hdest hsrc)) rfl)
    · rintro st fva rfl
      exact hends (.inr hroom) (State.launchColl_failed hgood hhere (hcheck.trans (State.collCheck_source hdest hsrc)) rfl)

end Sys2Proof.Machine
end

section
/-! SUPPORT. The engines: a copy that an engine takes, the completion of an operation, and the commit and the abort of a
collective (R234, R236, R238, R241, R242, R245). -/

namespace Sys2Proof.Machine

open Sys2Proof.Claims

/-! ## A copy at its engine (R234) -/

/-- The addresses of the rows of a copy's source and of its destination (R228). -/
def EngOp.srcRows (o : EngOp) : List Word := o.grid.map fun x => rowAddr (o.sh 0) (o.sh 3) x.1 x.2
def EngOp.dstRows (o : EngOp) : List Word := o.grid.map fun x => rowAddr (o.sh 1) (o.sh 4) x.1 x.2

/-- A copy that fails a check records its status, and completes. -/
def State.copyFailed (s : State) (o : EngOp) (x : Nat × Word) : State :=
  (s.modOp o.id fun o => { o with st := 2, status := x.1, fail := x.2 }).post (.copyCompletion o.id)

theorem execCopyExecute_none {s : State} {e : Nat} (h : (s.eng e).ops.find? (fun o => o.st == 1 && o.coll.isNone) = none) :
    exec (.copyExecute e) s = .next s := by
  show execCopyExecute e s = _
  rw [execCopyExecute, h]

theorem execCopyExecute_some {s : State} {e : Nat} {o : EngOp}
    (h : (s.eng e).ops.find? (fun o => o.st == 1 && o.coll.isNone) = some o) :
    exec (.copyExecute e) s = .next (s.runCopy e o) := by
  show execCopyExecute e s = _
  rw [execCopyExecute, h]

section
variable {s u v : State} (e : Nat) {o : EngOp} {x : Nat × Word} {sp : List (List (Place × Nat))}
  {dp : List (List (List (Place × Nat)))}

theorem State.runCopy_source (h : s.rowPlaces o false o.srcRows = (u, .error x)) : s.runCopy e o = u.copyFailed o x := by
  unfold State.runCopy
  extract_lets fail src dst
  rw [show src = o.srcRows from rfl, h]
  rfl

theorem State.runCopy_destination (h : s.rowPlaces o false o.srcRows = (u, .ok sp)) (hd : u.destPlaces o o.dstRows = (v, .error x)) :
    s.runCopy e o = v.copyFailed o x := by
  unfold State.runCopy
  extract_lets fail src dst
  rw [show src = o.srcRows from rfl, h]
  dsimp only
  rw [show dst = o.dstRows from rfl, hd]
  rfl

/-- A copy that passes its checks has read its rows and planned its writes; some of its bytes are written (log 14). -/
theorem State.runCopy_passes (h : s.rowPlaces o false o.srcRows = (u, .ok sp)) (hd : u.destPlaces o o.dstRows = (v, .ok dp)) :
    ∃ (w : State) (rows : List (List (Byte × Bool))) (x : State) (ks : List Nat),
      v.readRows o (reusable o (v.eng e).buf) (Machine.hintOf (slice (o.sh 5) 32 2)) (o.grid.zip sp) = (w, rows) ∧
      s.runCopy e o = (x.modOp o.id fun o =>
        { o with st := 2, plan := dp.flatMap fun q => planRuns q.flatten rows.flatten []
                 pois := rows.flatten.any Prod.snd, written := ks.length, shown := ks
                 acks := if o.ack.isSome then dp.length else 0 }).post (.copyCompletion o.id) := by
  rcases hr : v.readRows o (reusable o (v.eng e).buf) (Machine.hintOf (slice (o.sh 5) 32 2)) (o.grid.zip sp) with ⟨w, rows⟩
  unfold State.runCopy
  extract_lets fail src dst
  rw [show src = o.srcRows from rfl, h]
  dsimp only
  rw [show dst = o.dstRows from rfl, hd]
  dsimp only
  rw [hr]
  exact ⟨w, rows, _, _, rfl, rfl⟩

end

/-! ## What a completion leaves (R234, R237, R238, R242) -/

/-- An operation has left its engine. -/
def State.dropOp (s : State) (id : W32) : State :=
  s.modEng (engOfId id) fun x => { x with ops := x.ops.filter fun y => y.id != id }

/-- An operation frees its place in COPN. -/
def State.freeCopn (s : State) (t : Target) : State := s.modSlot t.ta fun sl => { sl with copn := sl.copn - 1 }

theorem inSlot_modSlot {s : State} {t : Target} (h : InSlot s t) {f : Slot → Slot} (hf : ∀ sl, (f sl).uid = sl.uid) :
    InSlot (s.modSlot t.ta f) t := by
  obtain ⟨huid, hne, ha⟩ := h
  exact ⟨by rw [State.slot_modSlot, hf, huid], hne, ha⟩

theorem inSlot_freeCopn {s : State} {t : Target} (h : InSlot s t) : InSlot (s.freeCopn t) t := inSlot_modSlot h fun _ => rfl

theorem State.task?_inSlot {s : State} {t : Target} (h : InSlot s t) : s.task? t = some (s.slot t.ta) := by
  obtain ⟨huid, hne, -⟩ := h
  unfold State.task? State.findUid
  rw [if_pos ⟨huid, hne⟩]

section
variable {s y : State} {o : EngOp} (hin : InSlot s o.req)

/-- A sink of 2 or more is none: the task polls. -/
theorem State.sinkOf_none (h : 2 ≤ o.sink) : s.sinkOf o = s := by
  unfold State.sinkOf
  split
  · omega
  · omega
  · rfl

include hin in
theorem State.sinkOf_tag (h : o.sink = 0) : s.sinkOf o =
    s.modSlot o.req.ta fun sl => sl.deliverTag (BitVec.ofNat 6 o.tag) o.status o.pois o.nv o.sat o.nx := by
  unfold State.sinkOf
  simp only [h, State.task?_inSlot hin]
  exact State.modTask_inSlot hin _

theorem State.sinkOf_credit (h : o.sink = 1) : s.sinkOf o =
    s.decrement o.ctx o.cdep 1 (if o.status = 0 then none else some o.graph.toNat) (taCore o.req.ta) := by
  unfold State.sinkOf
  rw [h]
  rfl

/-- A completion without an error writes its plan, acknowledges, frees its place and acts through its sink. -/
theorem State.complete_ok (h0 : o.status = 0) : s.complete o =
    ((o.ack.elim ((o.plan.foldl (fun x run => x.writeRun o run) s).dropOp o.id) fun k =>
      (List.range o.acks).foldl (fun (x : State) _ => x.post (.barrierAck o.ctx o.req.uid k))
        ((o.plan.foldl (fun x run => x.writeRun o run) s).dropOp o.id)).modTask o.req
          fun sl => { sl with copn := sl.copn - 1 }).sinkOf o := by
  unfold State.complete
  simp only [h0, if_true]
  cases o.ack <;> rfl

include hin in
theorem State.complete_plain (hy : s = (o.plan.foldl (fun x run => x.writeRun o run) y).dropOp o.id) (h0 : o.status = 0)
    (hack : o.ack = none) : y.complete o = (s.freeCopn o.req).sinkOf o := by
  rw [State.complete_ok h0, hack, ← hy]
  exact congrArg (State.sinkOf · o) (State.modTask_inSlot hin _)

include hin in
theorem State.complete_acked (hy : s = (o.plan.foldl (fun x run => x.writeRun o run) y).dropOp o.id) (h0 : o.status = 0)
    {k : Nat} (hack : o.ack = some k) (h1 : o.acks = 1) : y.complete o =
      ((s.post (.barrierAck o.ctx o.req.uid k)).freeCopn o.req).sinkOf o := by
  rw [State.complete_ok h0, hack, h1, ← hy]
  exact congrArg (State.sinkOf · o) (State.modTask_inSlot (s := s.post _) hin _)

/-- A failed operation without a sink frees its place, traps if it is to, and is recorded. -/
theorem State.complete_failed (hin : InSlot (s.dropOp o.id) o.req) (h0 : o.status ≠ 0) (hst : o.st = 2) (hack : o.ack = none)
    (hsink : 2 ≤ o.sink) : s.complete o = (if o.trap then ((s.dropOp o.id).freeCopn o.req).modSlot o.req.ta
        fun sl => { sl with copTrap := sl.copTrap ++ [o.id] } else (s.dropOp o.id).freeCopn o.req).report
      ⟨1, 8, 10, engOfId o.id % 128, taDie o.req.ta, taVq o.req.ta, o.fail, BitVec.ofNat 64 (o.id.toNat * 2 ^ 32 + o.req.ta),
        none, 0⟩ := by
  have hfree : (s.dropOp o.id).modTask o.req (fun sl => { sl with copn := sl.copn - 1 }) = (s.dropOp o.id).freeCopn o.req :=
    State.modTask_inSlot hin _
  have htrap := State.modTask_inSlot (inSlot_freeCopn hin) fun sl => { sl with copTrap := sl.copTrap ++ [o.id] }
  have hrun : o.st ≠ 3 := by omega
  unfold State.complete
  rw [if_neg h0, if_neg hrun, hack, if_neg h0]
  dsimp only
  rw [show (s.modEng (engOfId o.id) fun x => { x with ops := x.ops.filter fun y => y.id != o.id }) = s.dropOp o.id from rfl,
    hfree, State.sinkOf_none hsink, htrap]

end

theorem execCopyCompletion_some {s : State} {id : W32} {o : EngOp}
    (h : (s.eng (engOfId id)).ops.find? (fun x => x.id == id && decide (2 ≤ x.st)) = some o) :
    exec (.copyCompletion id) s = .next (s.complete o) := by
  show execCopyCompletion id s = _
  rw [execCopyCompletion, h]

theorem execCopyTrap_raises {s : State} {ta : Nat} {id : W32} {l : List W32} (hl : (s.slot ta).copTrap = id :: l)
    (hst : (s.slot ta).st = .running) : exec (.copyTrap ta) s =
      .next ((s.modSlot ta fun sl => { sl with copTrap := l }).raise ta 0x11 (id.setWidth 64)) := by
  show execCopyTrap ta s = _
  rw [execCopyTrap, hl]
  exact congrArg _ (if_pos hst)

/-! ## The commit and the abort of a collective (R245) -/

/-- What a participant's operation records when its collective has committed (R244). -/
def EngOp.committed (o : EngOp) (r : List (Byte × Bool) × W96S) (plan : List (Nat × List (Byte × Bool))) : EngOp :=
  { o with st := 2, plan := plan, nx := r.2.nx, sat := r.2.sat, nv := r.2.nv, pois := r.1.any Prod.snd }

/-- The places that a participant's destination had when it was checked (log 15). -/
def CollInfo.places (k : CollInfo) : List (Place × Nat) :=
  k.dplan.map fun x => (⟨x.1, x.1, decide (x.1 < 2 ^ 64), none, 0, 0⟩, x.2)

section
variable (s : State) (ps : List Contrib) (o : EngOp) {k : CollInfo}

theorem State.collWrite_silent (h : k.writes = false) : s.collWrite ps o k =
    (s.modOp o.id fun x => x.committed (collResult k ps) []).post (.copyCompletion o.id) := by
  unfold State.collWrite
  simp only [h, Bool.false_eq_true, if_false]
  rfl

theorem State.collWrite_writes (h : k.writes = true) : s.collWrite ps o k =
    ((k.places.foldl (fun (s : State) x => (s.opLookups x.1 x.2 .normal).1)
      (s.opMark o (pageParts k.dst (collResult k ps).1.length))).modOp o.id
        fun x => x.committed (collResult k ps) (planRuns k.places (collResult k ps).1 [])).post (.copyCompletion o.id) := by
  unfold State.collWrite
  simp only [h, if_true]
  rfl

end

section
variable {s : State} {ctx grp op : Nat} {outside : List CollPart} {c : Ctx} {ms : List (Nat × Nat)} {o : EngOp} {k : CollInfo}

/-- A collective commits for its local members once the contributions of all have come. -/
theorem execCollectiveCommit_eq (hc : s.ctx ctx = some c) (hg : s.groupOf c grp = some ms) :
    exec (.collectiveCommit ctx grp op outside) s = .next ((s.collParts ctx grp op outside ms).elim s fun ps =>
      (s.collOps ctx grp op).foldl (fun s x => s.collWrite ps x.1 x.2) s) := by
  show execCollectiveCommit ctx grp op outside s = _
  rw [execCollectiveCommit, hc]
  dsimp only
  rw [hg]
  dsimp only
  cases s.collParts ctx grp op outside ms <;> rfl

theorem execCollectiveCommit_missing (hc : s.ctx ctx = some c) (hg : s.groupOf c grp = some ms)
    (hp : s.collParts ctx grp op outside ms = none) : exec (.collectiveCommit ctx grp op outside) s = .next s := by
  rw [execCollectiveCommit_eq hc hg, hp]
  rfl

theorem execCollectiveCommit_one {ps : List Contrib} (hc : s.ctx ctx = some c) (hg : s.groupOf c grp = some ms)
    (hp : s.collParts ctx grp op outside ms = some ps) (ho : s.collOps ctx grp op = [(o, k)]) :
    exec (.collectiveCommit ctx grp op outside) s = .next (s.collWrite ps o k) := by
  rw [execCollectiveCommit_eq hc hg, hp, ho]
  rfl

variable (ho : s.collOps ctx grp op = [(o, k)])
include ho

/-- The one local participant of a collective that is aborted completes with status 8. -/
theorem State.collAbort_one (hst : o.st = 1) : s.collAbort ctx grp op =
    (s.modOp o.id fun o => { o with st := 3, status := 8, fail := 0 }).post (.copyCompletion o.id) := by
  rw [State.collAbort, ho]
  exact s.abortOp_queued hst 8

theorem execCollectiveWatchdog_one : exec (.collectiveWatchdog ctx grp op) s =
    .next (if k.since + 1000000 ≤ s.time then s.collAbort ctx grp op else s) := by
  show execCollectiveWatchdog ctx grp op s = _
  rw [execCollectiveWatchdog, ho]
  simp only [List.any_cons, List.any_nil, Bool.or_false, decide_eq_true_eq]

end

/-! ## The statement -/

/-- Settles O45: a copy by the first check that fails, a completion by its status, its acknowledgement and its sink, and a
collective by its one local participant. -/
theorem engineEvents : Obligations.EngineEvents := by
  intro s
  refine ⟨fun e => execCopyExecute_none, ?copies, ?completions, fun ta id l => execCopyTrap_raises, ?commits, ?aborts⟩
  case copies =>
    rintro e o src dst ho rfl rfl
    rw [execCopyExecute_some ho]
    refine ⟨fun u x h => congrArg _ (State.runCopy_source e h), fun u sp h =>
      ⟨fun v x hd => congrArg _ (State.runCopy_destination e h hd), fun v dp hd => ?_⟩⟩
    obtain ⟨w, rows, x, ks, hr, hrun⟩ := State.runCopy_passes e h hd
    exact ⟨w, rows, x, ks, hr, congrArg _ hrun⟩
  case completions =>
    rintro id o ho rfl
    rw [execCopyCompletion_some ho]
    constructor
    · rintro h0 w y rfl hy
      refine ⟨fun hack hin => ?_, fun k hack h1 hsink hin => congrArg _ ?_⟩
      · rw [State.complete_plain hin hy h0 hack]
        refine ⟨fun hsink => congrArg _ (State.sinkOf_none hsink), fun hsink => congrArg _ ?tag, fun hsink => congrArg _ ?credit⟩
        case tag =>
          rw [State.sinkOf_tag (inSlot_freeCopn hin) hsink, h0]
          rfl
        case credit =>
          rw [State.sinkOf_credit hsink, if_pos h0]
          rfl
      · rw [State.complete_acked hin hy h0 hack h1]
        exact State.sinkOf_none hsink
    · rintro h0 hst hack hsink y e rfl hin rfl
      rw [State.complete_failed hin h0 hst hack hsink]
      exact ⟨fun ht => by rw [ht]; rfl, fun ht => by rw [ht]; rfl⟩
  case commits =>
    intro ctx c grp op hc
    refine ⟨fun outside ms hg => execCollectiveCommit_missing hc hg, ?_⟩
    rintro outside ms ps o k bs hg hp ho rfl
    rw [execCollectiveCommit_one hc hg hp ho]
    refine ⟨fun hw => congrArg _ (s.collWrite_silent ps o hw), ?_⟩
    rintro hw pl u rfl rfl
    exact congrArg _ (s.collWrite_writes ps o hw)
  case aborts =>
    rintro ctx grp op o k ho hst t rfl
    have habort := State.collAbort_one ho hst
    refine ⟨congrArg _ habort, fun hlate => ?_, fun hearly => ?_⟩
    · rw [execCollectiveWatchdog_one ho, if_pos hlate, habort]
    · rw [execCollectiveWatchdog_one ho, if_neg (by omega)]

end Sys2Proof.Machine
end

section
/-! SUPPORT. Memory stays in its canonical form: what each operation of the state, each instruction and each event keeps of
it (log 1). Only the writes of bytes change memory, and they keep the form; every other operation is built from them. -/

namespace Sys2Proof.Machine

/-! ## The canonical form of a state, of a result and of an answer -/

/-- Memory's list of bytes stands in its one canonical form (log 1). -/
def State.Canon (s : State) : Prop := Memory.wf s.mem = true

/-- So it stands in the state that a result goes on with, waits in or raises from. -/
def Res.Canon {α : Type} : Res α → Prop
  | .ok s _ | .wait s | .trap s _ _ => s.Canon

theorem Res.Canon.bind {α β : Type} {r : Res α} {f : State → α → Res β} (hr : r.Canon) (hf : ∀ s a, s.Canon → (f s a).Canon) :
    (r.bind f).Canon := by
  cases r with
  | ok s a => exact hf s a hr
  | wait s => exact hr
  | trap s c v => exact hr

/-- What an instruction answers stands in the canonical form. -/
def Out.Canon : Out → Prop
  | .next t => t.Canon
  | _ => True

theorem Res.Canon.ite {α : Type} {c : Prop} {_ : Decidable c} {r q : Res α} (hr : r.Canon) (hq : q.Canon) :
    (if c then r else q).Canon := by
  split
  exacts [hr, hq]

namespace State.Canon
variable {s : State}

/-- A run over a list. -/
theorem foldl {α : Type} {f : State → α → State} (hf : ∀ s a, s.Canon → (f s a).Canon) :
    ∀ (l : List α) {s : State}, s.Canon → (l.foldl f s).Canon
  | [], _, h => h
  | a :: l, _, h => foldl hf l (hf _ a h)

theorem foldl_fst {α β : Type} {f : State × β → α → State × β} (hf : ∀ a x, a.1.Canon → (f a x).1.Canon) :
    ∀ (l : List α) {a : State × β}, a.1.Canon → (l.foldl f a).1.Canon
  | [], _, h => h
  | x :: l, a, h => foldl_fst hf l (hf a x h)

theorem bind_option {r : Option State} {f : State → Option State} (hr : ∀ t, r = some t → t.Canon)
    (hf : ∀ s, s.Canon → ∀ t, f s = some t → t.Canon) : ∀ t, r.bind f = some t → t.Canon := by
  cases r with
  | none => rintro _ ⟨⟩
  | some s => exact hf s (hr s rfl)

theorem foldl_option {α : Type} {f : State → α → Option State} (hf : ∀ s a, s.Canon → ∀ t, f s a = some t → t.Canon) :
    ∀ (l : List α) {r : Option State}, (∀ t, r = some t → t.Canon) →
      ∀ t, l.foldl (fun r a => r.bind fun s => f s a) r = some t → t.Canon
  | [], _, h => h
  | a :: l, _, h => foldl_option hf l (bind_option h fun s hs => hf s a hs)

theorem foldl_bind {α : Type} {f : State → α → Option State} (hf : ∀ s a, s.Canon → ∀ t, f s a = some t → t.Canon)
    (l : List α) (h : s.Canon) : ∀ t, l.foldl (fun r a => r.bind fun s => f s a) (some s) = some t → t.Canon :=
  foldl_option hf l fun _ ht => Option.some.inj ht ▸ h

theorem outsideMem (h : s.Canon) : Memory.wf s.outsideMem = true := by
  unfold State.outsideMem
  generalize Config.freeOutside s.ctr = l
  have hm : Memory.wf s.mem = true := h
  revert hm
  generalize s.mem = m
  intro hm
  induction l generalizing m with
  | nil => exact hm
  | cons x l ih =>
    refine ih _ ?_
    dsimp only
    split
    · exact Memory.wf_set hm
    · exact hm

theorem ite {c : Prop} {_ : Decidable c} {s t : State} (hs : s.Canon) (ht : t.Canon) : (if c then s else t).Canon := by
  split
  exacts [hs, ht]

/-! ## Slots, messages of the agenda, faults and bytes -/

theorem setSlot (h : s.Canon) (ta : Nat) (x : Slot) : (s.setSlot ta x).Canon := h
theorem modSlot (h : s.Canon) (ta : Nat) (f : Slot → Slot) : (s.modSlot ta f).Canon := h
theorem modMe (h : s.Canon) (f : Slot → Slot) : (s.modMe f).Canon := h
theorem modCore (h : s.Canon) (c : Nat) (f : CoreSt → CoreSt) : (s.modCore c f).Canon := h
theorem modQuad (h : s.Canon) (q : Nat) (f : QuadSt → QuadSt) : (s.modQuad q f).Canon := h
theorem modDie (h : s.Canon) (d : Nat) (f : DieSt → DieSt) : (s.modDie d f).Canon := h
theorem setCtx (h : s.Canon) (n : Nat) (c : Option Ctx) : (s.setCtx n c).Canon := h

theorem modCtx (h : s.Canon) (n : Nat) (f : Ctx → Ctx) : (s.modCtx n f).Canon := by
  grind [State.modCtx, setCtx]

theorem post (h : s.Canon) (i : Instr) : (s.post i).Canon := h
theorem setMem {m : List Host.Cell} (hm : Memory.wf m = true) : (s.setMem m).Canon := hm

theorem drop (h : s.Canon) (ctx : Nat) : (s.drop ctx).Canon := by
  grind [State.drop, setMem, State.Canon, Memory.wf_write]

theorem count (h : s.Canon) (ta ev n : Nat) : (s.count ta ev n).Canon := by
  grind [State.count, modCore]

theorem countMe (h : s.Canon) (ev n : Nat) : (s.countMe ev n).Canon := by
  grind [State.countMe, count]

theorem countAll (h : s.Canon) (l : List (Nat × Nat)) : (s.countAll l).Canon := by
  revert h
  fun_induction State.countAll s l <;> grind [State.countAll, countMe]

theorem countOld (h : s.Canon) (ta ev : Nat) (n at_ : Nat) : (s.countOld ta ev n at_).Canon := h

theorem note (h : s.Canon) (r : TraceRec) : (s.note r).Canon := by
  grind [State.note, post]

theorem report (h : s.Canon) (e : ErrReport) : (s.report e).Canon := h

theorem need (h : s.Canon) (b : Bool) (code : Nat) (faddr : Word) : (need b code faddr s).Canon := by
  grind [Machine.need, Res.Canon.eq_def]

theorem await (h : s.Canon) (b : Bool) : (await b s).Canon := by
  grind [Machine.await, Res.Canon.eq_def]

theorem putG (h : s.Canon) (r : Reg) (v : Word) : (s.putG r v).Canon := h

theorem freeG (h : s.Canon) (r : Reg) : (s.freeG r).Canon := by
  grind [State.freeG, Res.Canon.eq_def, await]

theorem examine (h : s.Canon) (l : List Src) : (s.examine l).Canon := by
  grind [State.examine, Res.Canon.eq_def]

theorem modTask (h : s.Canon) (t : Target) (f : Slot → Slot) : (s.modTask t f).Canon := by
  grind [State.Canon, State.modTask, modSlot]

theorem waitRpq (h : s.Canon) : (s.waitRpq).Canon := by
  grind [State.waitRpq, Res.Canon.eq_def, modMe, modCore, await]

theorem dropMail (h : s.Canon) (core uid ctx : Nat) : (s.dropMail core uid ctx).Canon := by
  grind [State.dropMail, modCore, drop, foldl]

theorem dropReplies (h : s.Canon) (uid : Nat) : (s.dropReplies uid).Canon := h

theorem killAct (h : s.Canon) (ta : Nat) : (s.killAct ta).Canon := by
  grind [State.killAct, post, dropMail, dropReplies, modSlot]

theorem raiseAs (h : s.Canon) (ta code : Nat) (faddr : Word) (inspl splw : Bool) :
    (s.raiseAs ta code faddr inspl splw).Canon := by
  grind [State.raiseAs, killAct, modSlot, note, post]

theorem raise (h : s.Canon) (ta code : Nat) (faddr : Word) : (s.raise ta code faddr).Canon := by
  grind [State.raise, raiseAs]

theorem uncountNew (h : s.Canon) (s₀ : State) (core at_ : Nat) : (s.uncountNew s₀ core at_).Canon := h
theorem uncount (h : s.Canon) (s₀ : State) : (s.uncount s₀).Canon := h
theorem putBytes (h : s.Canon) (k : Nat) (bs : List Byte) : (s.putBytes k bs).Canon := Memory.wf_write h
theorem poisonAt (h : s.Canon) (k : Nat) : (s.poisonAt k).Canon := h

theorem copyBytes (h : s.Canon) (src dst n : Nat) : (s.copyBytes src dst n).Canon := by
  grind [State.copyBytes, poisonAt, putBytes, foldl]

theorem capture (h : s.Canon) (rp : Bool) (key : Nat) : (s.capture rp key).Canon := by
  grind [State.Canon, State.capture, copyBytes]

theorem exchange (h : s.Canon) (ta : Nat) : (s.exchange ta).Canon := by
  grind [State.Canon, State.exchange, putBytes, capture, foldl]

theorem preIssue (h : s.Canon) (r : Reach) : (s.preIssue r).Canon := by
  unfold State.preIssue
  split <;> grind [State.preIssue, exchange]

theorem retireTo (h : s.Canon) (t : Word) : (s.retireTo t).Canon := h

theorem countIssue (h : s.Canon) (p : Pipe) : (s.countIssue p).Canon := by
  unfold State.countIssue
  split <;> grind [State.countIssue, countAll, countMe]

/-! ## Flags -/

theorem setFlags (h : s.Canon) (f : FpFlags) : (s.setFlags f).Canon := h

/-! ## Receive queues -/

theorem rxWrite (h : s.Canon) (core p : Nat) (m : RxMsg) : (s.rxWrite core p m).Canon := by
  grind [State.rxWrite, setMem, State.Canon, Memory.wf_write, foldl]

theorem rxPack (h : s.Canon) (core : Nat) : (s.rxPack core).Canon := by
  grind [State.rxPack, rxWrite, modCore, foldl]

theorem rxPut (h : s.Canon) (core : Nat) (m : RxMsg) : (s.rxPut core m).Canon := by
  grind [State.rxPut, count, rxPack, modCore]

theorem rxHold (h : s.Canon) (core : Nat) (m : RxMsg) (who : Option Nat) : (s.rxHold core m who).Canon := by
  grind [State.rxHold, modCore, post]

theorem rxSaved (h : s.Canon) (core : Nat) (m : RxMsg) : (s.rxSaved core m).Canon := by
  grind [State.Canon, State.rxSaved, drop, rxPut]

theorem rxGive (h : s.Canon) (core : Nat) (m : RxMsg) : (s.rxGive core m).Canon := by
  grind [State.rxGive, rxSaved, modSlot, rxPut]

theorem rxArrive (h : s.Canon) (core : Nat) (m : RxMsg) (who : Option Nat) : (s.rxArrive core m who).Canon := by
  grind [State.rxArrive, rxGive, rxHold]

theorem rxRelease (h : s.Canon) (core : Nat) (l : List (RxMsg × Option Nat)) : (s.rxRelease core l).Canon := by
  revert h
  fun_induction State.rxRelease s core l <;> grind [State.rxRelease, modCore, rxGive, modTask]

theorem rxLeft (h : s.Canon) (core : Nat) : (s.rxLeft core).Canon := by
  grind [State.rxLeft, rxPack, rxRelease, modCore]

theorem landNext (h : s.Canon) (ta : Nat) (r : Reg) : (s.landNext ta r).Canon := by
  grind [State.landNext, modCore, modSlot, rxLeft]

theorem waitAmo (h : s.Canon) : (s.waitAmo).Canon := by
  grind [State.waitAmo, Res.Canon.eq_def, await]

theorem send (h : s.Canon) (i : Instr) : (s.send i).Canon := by
  grind [State.send, modMe, post]

theorem flushMail (h : s.Canon) (sender : Word) (ta : Nat) : (s.flushMail sender ta).Canon := by
  grind [State.Canon, State.flushMail, rxArrive, foldl]

theorem sendRx (h : s.Canon) (core : Nat) (m : RxMsg) (i : Instr) : (s.sendRx core m i).Canon := by
  grind [State.sendRx, Res.Canon.eq_def, send, modMe, rxHold, flushMail]

theorem sendRemote (h : s.Canon) (t : Word) (n : BitVec 5) (v : Word) (pois : Bool) : (s.sendRemote t n v pois).Canon :=
  h.waitRpq.bind fun s _ h => h.waitAmo.bind fun s _ h => by
    split
    · exact h.await _
    · exact h.sendRx _ _ _

theorem target (h : s.Canon) (t : Word) : (s.target t).Canon := by
  grind [State.target, Res.Canon.eq_def, need]

/-! ## Caches and lookups -/

theorem dropL1 (h : s.Canon) (line : Nat) (but : Option Nat) : (s.dropL1 line but).Canon := h

theorem countRet (h : s.Canon) (pa : Nat) (hit : Bool) : (s.countRet pa hit).Canon := by
  grind [State.Canon, State.countRet]

theorem lookL2 (h : s.Canon) (h' : Hint) (line : Nat) (cnt : Bool) : (s.lookL2 h' line cnt).1.Canon := by
  grind [State.lookL2, modDie, countRet]

theorem lookup (h : s.Canon) (ta line : Nat) (h' : Hint) (store : Bool) : (s.lookup ta line h' store).1.Canon := by
  grind [State.lookup, dropL1, modCore, count, lookL2]

theorem lookHome (h : s.Canon) (who : Option Nat) (line : Nat) (h' : Hint) (cnt : Bool) :
    (s.lookHome who line h' cnt).1.Canon := by
  grind [State.lookHome, lookL2, count]

theorem dropView (h : s.Canon) (f : Nat) : (s.dropView f).Canon := h

/-! ## Translations and accesses -/

theorem orPte (h : s.Canon) (pa : Nat) (mask : Word) : (s.orPte pa mask).Canon := by
  grind [State.orPte, setMem, State.Canon, Memory.wf_write]

theorem tlbPut (h : s.Canon) (e : TlbEntry) : (s.tlbPut e).Canon := h

theorem tlbGive (h : s.Canon) (who : Option Nat) (e : TlbEntry) : (s.tlbGive who e).Canon := by
  unfold State.tlbGive
  split <;> grind [State.tlbGive, tlbPut]

theorem dieLoad (h : s.Canon) (c : Ctx) (die : Nat) (who : Option Nat) (va : Nat) :
    (s.dieLoad c die who va).1.Canon := by
  grind [State.Canon, State.dieLoad, tlbGive, count, lookHome, tlbPut, orPte, report, foldl]

theorem tlbLoadOn (h : s.Canon) (c : Ctx) (die : Nat) (who : Option Nat) (va : Nat) :
    (s.tlbLoadOn c die who va).1.Canon := by
  unfold State.tlbLoadOn
  split
  · exact h.dieLoad ..
  · split
    · exact h
    · refine dieLoad (count ?_ _ _ _) _ _ _ _
      exact h

theorem tlbLoad (h : s.Canon) (c : Ctx) (who : Option Nat) (va : Nat) : (s.tlbLoad c who va).1.Canon := by
  grind [State.tlbLoad, tlbLoadOn]

theorem lookOn (h : s.Canon) (c : Ctx) (die : Nat) (who : Option Nat) (va : Word) (k : Acc3) :
    (s.lookOn c die who va k).1.Canon := by
  grind [State.lookOn, tlbLoadOn]

theorem look (h : s.Canon) (c : Ctx) (who : Option Nat) (va : Word) (k : Acc3) : (s.look c who va k).1.Canon := by
  grind [State.look, lookOn]

theorem markDirtyOn (h : s.Canon) (c : Ctx) (unit : Nat) (va : Word) : (s.markDirtyOn c unit va).Canon := by
  grind [State.Canon, State.markDirtyOn, orPte]

theorem markDirty (h : s.Canon) (c : Ctx) (who : Option Nat) (va : Word) : (s.markDirty c who va).Canon := by
  grind [State.markDirty, markDirtyOn]

theorem markAllOn (h : s.Canon) (c : Ctx) (unit : Nat) (ps : List (Word × Nat)) : (s.markAllOn c unit ps).Canon := by
  grind [State.markAllOn, markDirtyOn, foldl]

theorem markAll (h : s.Canon) (c : Ctx) (ps : List (Word × Nat)) : (s.markAll c ps).Canon := by
  grind [State.markAll, markAllOn]

theorem translate (h : s.Canon) (c : Ctx) (who : Option Nat) (va : Word) (k : Acc3) :
    (s.translate c who va k).1.Canon := by
  grind [State.translate, look, markDirty]

theorem reportLost (h : s.Canon) (ta : Nat) (p : Place) : (s.reportLost ta p).Canon := h

theorem perform (h : s.Canon) (ta key : Nat) (bs : List Byte) : (s.perform ta key bs).Canon := by
  grind [State.perform, exchange, modSlot, putBytes, capture]

theorem park (h : s.Canon) (ta : Nat) (lanes : List (Word × List Byte)) (run : Bool) (h' : Hint) (fva : Option Word) :
    ∀ t, s.park ta lanes run h' fva = some t → t.Canon := by
  grind [State.park, modCore, count, modSlot, post]

theorem alignAll (h : s.Canon) (as : List Word) (n : Nat) : (alignAll as n s).Canon := by
  grind [Machine.alignAll, Res.Canon.eq_def]

theorem protAll (h : s.Canon) (ps : List (Word × Nat)) (write : Bool) : (s.protAll ps write).Canon := by
  grind [State.protAll, Res.Canon.eq_def]

theorem lookAll (h : s.Canon) (c : Ctx) (k : Acc3) (write : Bool) (l : List (Word × Nat)) :
    (s.lookAll c k write l).1.Canon := by
  revert h
  fun_induction State.lookAll s c k write l <;> grind [State.lookAll, look]

theorem placeAll (h : s.Canon) (c : Ctx) (k : Acc3) (write : Bool) (ps : List (Word × Nat)) :
    (s.placeAll c k write ps).1.Canon := by
  grind [State.placeAll, lookAll, markAll]

theorem readAll (h : s.Canon) (h' : Hint) (ps : List ((Place × Bool) × Nat)) (seen : List (Nat × List Byte)) :
    (s.readAll h' ps seen).1.Canon := by
  revert h
  fun_induction State.readAll s h' ps seen <;> grind [State.readAll, countMe, reportLost, lookup]

theorem readLanes (h : s.Canon) (ps : List (Word × Nat)) (align : Nat) (hint : Hint) {pre : State → Res Unit}
    (hpre : ∀ s, s.Canon → (pre s).Canon) : (s.readLanes ps align hint pre).Canon :=
  (h.alignAll _ _).bind fun s _ h => (h.protAll _ _).bind fun s _ h => by
    split
    · exact h
    · have hp := h.placeAll s.myCtx .r false ps
      split
      next hs => rw [hs] at hp; exact hp
      next hs => rw [hs] at hp; exact (hpre _ hp).bind fun s _ h => h.readAll _ _ _

theorem loadLanes (h : s.Canon) (ps : List (Word × Nat)) (align : Nat) (hint : Hint) {pre : State → Res Unit}
    (hpre : ∀ s, s.Canon → (pre s).Canon) : (s.loadLanes ps align hint pre).Canon :=
  (h.readLanes ps align hint hpre).bind fun _ _ h => h.countMe 17 1

theorem storeLooks (h : s.Canon) (h' : Hint) (ps : List ((Place × Bool) × List Byte)) (seen : List Nat) :
    (s.storeLooks h' ps seen).Canon := by
  revert h
  fun_induction State.storeLooks s h' ps seen <;> grind [State.storeLooks, countMe, reportLost, lookup]

theorem writeAll (h : s.Canon) (h' : Hint) (l : List ((Place × Bool) × List Byte)) : (s.writeAll h' l).Canon := by
  grind [State.writeAll, storeLooks, perform, modMe, foldl]

theorem storeLanes (h : s.Canon) (ls : List (Word × List Byte)) (align : Nat) (run : Bool) (hint : Hint)
    {pre : State → Res Unit} (hpre : ∀ s, s.Canon → (pre s).Canon) : (s.storeLanes ls align run hint pre).Canon :=
  (h.alignAll _ _).bind fun s _ h => (h.protAll _ _).bind fun s _ h => (hpre s h).bind fun s _ h => by
    have hp := h.placeAll s.myCtx .w true (ls.map fun l => (l.1, l.2.length))
    grind [Res.Canon.eq_def, park, countMe, modMe, post, writeAll]

/-! ## Destinations -/

theorem freeDst (h : s.Canon) (dst : Dst) : (s.freeDst dst).Canon := by
  unfold State.freeDst
  split <;> grind [State.freeDst, Res.Canon.eq_def, freeG]

theorem putDst (h : s.Canon) (d : Dst) (v : Word) : (s.putDst d v).Canon := by
  unfold State.putDst
  split <;> grind [State.putDst, Res.Canon.eq_def, Res.bind.eq_def, putG, target, sendRemote]

/-! ## Scalar accesses -/

theorem deliver (h : s.Canon) (dst : Dst) (v : Word) (pois aq : Bool) : (s.deliver dst v pois aq).Canon := by
  unfold State.deliver
  split <;> grind [State.deliver, Res.Canon.eq_def, post, modMe, sendRemote]

theorem Dst_held (h : s.Canon) (dst : Dst) : (Dst.held dst s).Canon := by
  unfold Machine.Dst.held
  split <;> grind [Machine.Dst.held, Res.Canon.eq_def, waitRpq]

theorem remTarget (h : s.Canon) (dst : Dst) : (s.remTarget dst).Canon := by
  unfold State.remTarget
  split <;> grind [State.remTarget, Res.Canon.eq_def, target]

theorem waitDur (h : s.Canon) : (s.waitDur).Canon := by
  grind [State.waitDur, Res.Canon.eq_def, modMe]

theorem release (h : s.Canon) (sc : Scope) : (s.release sc).Canon := by
  unfold State.release
  split <;> grind [State.release, Res.Canon.eq_def, Res.bind.eq_def, waitRpq, await, waitDur]

theorem rpqDrop (h : s.Canon) (core no : Nat) : (s.rpqDrop core no).Canon := h

theorem rpqWake (h : s.Canon) (core : Nat) : (s.rpqWake core).Canon := by
  grind [State.rpqWake, post, foldl]

theorem rpqRetry (h : s.Canon) (core : Nat) (e : RpqEntry) : (s.rpqRetry core e).Canon := by
  grind [State.Canon, State.rpqRetry, placeAll, post, modCore, uncountNew, rpqWake, rpqDrop, modTask, writeAll]

/-! ## Atomics -/

theorem sendAmo (h : s.Canon) (fn : AmoFn) (t : Ty) (rm : Rm) (p : Place) (dst : Dst) (x y : Word) (aq : Bool) :
    (s.sendAmo fn t rm p dst x y aq).Canon := by
  unfold State.sendAmo
  split <;> grind [State.sendAmo, Res.Canon.eq_def, post, modMe]

theorem amoPlace (h : s.Canon) (va : Word) (n : Nat) : (s.amoPlace va n).Canon := by
  grind [State.amoPlace, Res.Canon.eq_def, tlbLoad, markDirty]

theorem mismatch (h : s.Canon) (kind : Nat) : (s.mismatch kind).Canon := h

theorem replayAmo (h : s.Canon) (r : AmoReq) : (s.replayAmo r).Canon := by
  grind [State.replayAmo, State.Canon, State.mismatch, Memory.wf_write]

theorem doAmo (h : s.Canon) (r : AmoReq) : (s.doAmo r).Canon := by
  grind [State.doAmo, replayAmo, post, report, putBytes, capture]

/-! ## Settle regions -/

theorem modRegion (h : s.Canon) (k : Nat) (f : Region → Region) : (s.modRegion k f).Canon := by
  grind [State.Canon, State.modRegion]

theorem endRun (h : s.Canon) (ctx reg : Nat) (u : List Int) (st : Nat) : (s.endRun ctx reg u st).Canon := by
  grind [State.Canon, State.endRun, modRegion]

theorem haltRegion (h : s.Canon) (ctx reg : Nat) : (s.haltRegion ctx reg).Canon := by
  grind [State.haltRegion, endRun]

theorem endClaim (h : s.Canon) (ctx reg : Nat) : (s.endClaim ctx reg).Canon := by
  grind [State.endClaim, modTask, modRegion, haltRegion]

theorem claimsEnd (h : s.Canon) (uid : Nat) : (s.claimsEnd uid).Canon := by
  grind [State.claimsEnd, endClaim, foldl]

/-! ## Strands -/

theorem putStrand (h : s.Canon) (x : Strand) : (s.putStrand x).Canon := by
  show Memory.wf (if _ then _ else _) = true
  split
  · exact h
  · exact Memory.wf_write h

theorem freeStrand (h : s.Canon) (x : Strand) : (s.freeStrand x).Canon := by
  show Memory.wf (if _ then _ else _) = true
  split
  · exact h
  · exact Memory.wf_write h

theorem deliverRun (h : s.Canon) (fuel : Nat) (x : Strand) : (State.deliverRun fuel x s).1.Canon := by
  revert h
  fun_induction State.deliverRun fuel x s <;> grind [State.deliverRun, putBytes, poisonAt]

theorem takeOne (h : s.Canon) (x : Strand) (c : Claim) : (s.takeOne x c).1.Canon := by
  grind [State.takeOne, putStrand, modTask, countOld, post]

theorem claimRun (h : s.Canon) (fuel : Nat) (x : Strand) : (State.claimRun fuel x s).1.Canon := by
  revert h
  fun_induction State.claimRun fuel x s <;> grind [State.claimRun, takeOne, modTask]

theorem serve (h : s.Canon) (k : Nat) : (s.serve k).Canon := by
  grind [State.serve, deliverRun, claimRun, putStrand]

theorem withdrawIf (h : s.Canon) (mine : Claim → Bool) : (s.withdrawIf mine).Canon := by
  grind [State.withdrawIf, serve, putStrand, foldl]

theorem withdraw (h : s.Canon) (uid : Nat) : (s.withdraw uid).Canon := by
  grind [State.withdraw, withdrawIf]

theorem withdrawV (h : s.Canon) (uid : Nat) : (s.withdrawV uid).Canon := by
  grind [State.withdrawV, withdrawIf]

theorem fireWatch (h : s.Canon) (e : StrandEnd) : (s.fireWatch e).Canon := by
  grind [State.fireWatch, modTask]

theorem peerGone (h : s.Canon) (k : Nat) (sink : Bool) (how : Nat) : (s.peerGone k sink how).Canon := by
  grind [State.peerGone, fireWatch, serve, putStrand]

theorem goneOne (h : s.Canon) (x : Strand) (sink : Bool) (how : Nat) : (s.goneOne x sink how).1.Canon := by
  grind [State.Canon, State.goneOne, modTask, freeStrand, putStrand, peerGone, post, foldl]

theorem goneRun (h : s.Canon) (fuel : Nat) (l : List (Nat × Bool)) : (State.goneRun fuel l s).Canon := by
  revert h
  fun_induction State.goneRun fuel l s <;> grind [State.goneRun, goneOne]

theorem orphan (h : s.Canon) (js : List (Nat × Bool)) : (s.orphan js).Canon := by
  grind [State.orphan, goneRun]

theorem closeEnd (h : s.Canon) (x : Strand) (sink : Bool) : (s.closeEnd x sink).Canon := by
  grind [State.closeEnd, goneOne, orphan]

theorem unwatch (h : s.Canon) (uid : Nat) : (s.unwatch uid).Canon := by
  grind [State.unwatch, putStrand, foldl]

theorem strandsEnd (h : s.Canon) (uid : Nat) : (s.strandsEnd uid).Canon := by
  grind [State.strandsEnd, withdraw, unwatch, orphan]

theorem strandsSweep (h : s.Canon) : (s.strandsSweep).Canon := by
  grind [State.strandsSweep, orphan]

/-! ## The scheduler -/

theorem unqueue (h : s.Canon) (ctx : Nat) (addr : Word) : (s.unqueue ctx addr).Canon := h
theorem unreserve (h : s.Canon) (ctx : Nat) (addr : Word) : (s.unreserve ctx addr).Canon := h

theorem pushDeque (h : s.Canon) (core : Nat) (w : Work) : (s.pushDeque core w).Canon := by
  grind [State.pushDeque, modCore, modDie]

theorem replayEnd (h : s.Canon) (rp : Bool) (code : Nat) : (s.replayEnd rp code).Canon := by
  grind [State.Canon, State.replayEnd, post]

theorem cancelled (h : s.Canon) (w : Work) (core : Nat) : (s.cancelled w core).Canon := by
  grind [State.cancelled, note]

theorem replayArea (h : s.Canon) (u : UnitSt) : (s.replayArea u).Canon := by
  grind [State.Canon, State.replayArea, copyBytes, foldl]

theorem replayPlaced (h : s.Canon) (u : UnitSt) : (s.replayPlaced u).Canon := by
  grind [State.Canon, State.replayPlaced, modCore, replayArea, foldl]

theorem doneTag (h : s.Canon) (ctx : Nat) (t : Word) (tag : Nat) (token : Bool) :
    (s.doneTag ctx t tag token).Canon := by
  grind [State.doneTag, drop, modSlot]

theorem job (h : s.Canon) (j : Job) : (s.job j).1.Canon := by
  cases j <;> grind [State.job, State.Canon, replayEnd, cancelled, modDie, pushDeque, doneTag, post]

theorem jobs (h : s.Canon) (fuel : Nat) (l : List Job) : (State.jobs fuel l s).Canon := by
  revert h
  fun_induction State.jobs fuel l s <;> grind [State.jobs, job]

theorem act (h : s.Canon) (js : List Job) : (s.act js).Canon := by
  grind [State.act, jobs]

theorem decrement (h : s.Canon) (ctx : Nat) (addr : Word) (n : Nat) (mark : Option Nat) (core : Nat) :
    (s.decrement ctx addr n mark core).Canon := by
  grind [State.decrement, act]

theorem accept (h : s.Canon) (ctx : Nat) (addr : Word) (g : Option GangRec) (t : TaskRec) (core : Nat) (fixed token rp : Bool) :
    (s.accept ctx addr g t core fixed token rp).1.Canon := by
  grind [State.Canon, State.accept, act]

theorem recRead (h : s.Canon) (who : Option Nat) (ctx : Nat) (va : Word) (n : Nat) :
    (s.recRead who ctx va n).1.Canon := by
  unfold State.recRead
  split <;> grind [State.recRead, translate, lookHome]

theorem readTable (h : s.Canon) (t : Word) : (s.readTable t).Canon :=
  (h.need _ _ _).bind fun s _ h => (h.readLanes (pre := fun s => .ok s ()) _ _ _ fun _ h => h).bind fun s r h => by
    split <;> exact h

theorem loadSpt (h : s.Canon) (ta : Nat) : (s.loadSpt ta).Canon := by
  have hr := readTable (s := { s with cur := ta }) h (s.slot ta).spt
  grind [State.loadSpt, State.Canon, Res.Canon.eq_def, modSlot]

theorem loadTask (h : s.Canon) (sl : Slot) (ta : Nat) : (s.loadTask sl ta).Canon := by
  grind [State.Canon, State.loadTask, loadSpt, setSlot, note]

theorem claimArea (h : s.Canon) (quads : List Nat) (off len : Nat) : (s.claimArea quads off len).Canon := by
  grind [State.Canon, State.claimArea, copyBytes, foldl]

theorem emptyCluster (h : s.Canon) (die origin : Nat) : (s.emptyCluster die origin).Canon := h

theorem startGang (h : s.Canon) (w : Work) (g : GangRec) (die origin off : Nat) (slots : List (Nat × Nat × Nat × Nat)) :
    (s.startGang w g die origin off slots).Canon := by
  grind [State.Canon, State.startGang, claimArea, emptyCluster, loadTask, replayPlaced, foldl]

theorem startLoose (h : s.Canon) (w : Work) (ta off : Nat) : (s.startLoose w ta off).Canon := by
  grind [State.Canon, State.startLoose, loadTask, replayPlaced]

theorem startOn (h : s.Canon) (core : Nat) (w : Work) : ∀ t, s.startOn core w = some t → t.Canon := by
  grind [State.startOn, act, cancelled, replayEnd, unqueue, startLoose]

theorem modUnit (h : s.Canon) (ctx : Nat) (addr : Word) (uid : Nat) (f : UnitSt → UnitSt) :
    (s.modUnit ctx addr uid f).Canon := h

theorem clearCore (h : s.Canon) (core uid ctx : Nat) : (s.clearCore core uid ctx).Canon := by
  grind [State.clearCore, modCore, dropMail]

theorem dropBufs (h : s.Canon) (uid : Nat) : (s.dropBufs uid).Canon := h

theorem freeSlot (h : s.Canon) (ta : Nat) : (s.freeSlot ta).Canon := by
  grind [State.Canon, State.freeSlot, claimsEnd, strandsEnd, clearCore, setSlot, rxLeft, dropBufs]

theorem finishUnit (h : s.Canon) (u : UnitSt) (core : Nat) : (s.finishUnit u core).Canon := by
  refine act (replayEnd ?_ _ _) _
  split
  · split
    · refine emptyCluster ?_ _ _
      exact h
    · exact h
  · exact h

theorem printed (h : s.Canon) (sl : Slot) : (s.printed sl).Canon := by
  grind [State.Canon, State.printed]

theorem endTask (h : s.Canon) (ta : Nat) (killed : Bool) : (s.endTask ta killed).Canon := by
  grind [State.endTask, printed, note, modUnit, freeSlot, finishUnit]

theorem freeze (h : s.Canon) (ctx graph : Nat) : (s.freeze ctx graph).Canon := by
  grind [State.freeze, modCtx]

theorem endParked (h : s.Canon) (u : UnitSt) (m : Member) : (s.endParked u m).Canon := by
  grind [State.Canon, State.endParked, printed, note, claimsEnd, strandsEnd, rxLeft, dropBufs, clearCore, modUnit]

theorem killUnit (h : s.Canon) (u : UnitSt) : (s.killUnit u).Canon := by
  grind [State.killUnit, freeze, endParked, finishUnit, unreserve, endTask, foldl]

/-! ## Barriers -/

theorem needBar (h : s.Canon) (n : BitVec 3) : (s.needBar n).Canon := by
  grind [State.needBar, Res.Canon.eq_def]

theorem modBar (h : s.Canon) (ctx uid n : Nat) (f : BarSlot → BarSlot) : (s.modBar ctx uid n f).Canon := h
theorem modMyBar (h : s.Canon) (n : BitVec 3) (f : BarSlot → BarSlot) : (s.modMyBar n f).Canon := h
theorem putLph (h : s.Canon) (n : BitVec 3) (v : Bool) : (s.putLph n v).Canon := h
theorem sendArrival (h : s.Canon) (n : BitVec 3) : (s.sendArrival n).Canon := h

theorem barWait (h : s.Canon) (d : Reg) (n : BitVec 3) (t : Bool) : (s.barWait d n t).Canon := by
  grind [State.barWait, Res.Canon.eq_def, Res.bind.eq_def, needBar, modMyBar, putG, putLph]

/-! ## Branches -/

theorem taken (h : s.Canon) (t : Word) : (s.taken t).Canon := by
  grind [State.taken, modMe, countMe]

/-! ## Copies -/

theorem modEng (h : s.Canon) (e : Nat) (f : EngSt → EngSt) : (s.modEng e f).Canon := h
theorem modOp (h : s.Canon) (id : W32) (f : EngOp → EngOp) : (s.modOp id f).Canon := h

theorem abortOp (h : s.Canon) (o : EngOp) (status : Nat) : (s.abortOp o status).Canon := by
  grind [State.abortOp, modOp, post]

theorem opPlace (h : s.Canon) (o : EngOp) (va : Word) (n : Nat) (write : Bool) : (s.opPlace o va n write).1.Canon := by
  grind [State.opPlace, lookOn]

theorem opPlaces (h : s.Canon) (o : EngOp) (write : Bool) (l : List (Word × Nat)) : (s.opPlaces o write l).1.Canon := by
  revert h
  fun_induction State.opPlaces s o write l <;> grind [State.opPlaces, opPlace]

theorem opMark (h : s.Canon) (o : EngOp) (ps : List (Word × Nat)) : (s.opMark o ps).Canon := by
  grind [State.opMark, markAllOn]

theorem opLookups (h : s.Canon) (p : Place) (n : Nat) (hint : Hint) (cnt : Bool) :
    (s.opLookups p n hint cnt).1.Canon := by
  unfold State.opLookups
  split
  · refine foldl_fst (fun acc i h => ?_) _ ?_
    · exact lookHome (s := acc.1) h none (p.pa / 128 + i) hint cnt
    · exact h
  · exact h

theorem opRead (h : s.Canon) (p : Place) (n : Nat) (h' : Hint) (cnt : Bool) : (s.opRead p n h' cnt).1.Canon := by
  grind [State.opRead, opLookups]

theorem opReadAll (h : s.Canon) (h' : Hint) (ps : List (Place × Nat)) (cnt : Bool) :
    (s.opReadAll h' ps cnt).1.Canon := by
  revert h
  fun_induction State.opReadAll s h' ps cnt <;> grind [State.opReadAll, opRead]

theorem layRun (h : s.Canon) (shown : List Nat) (k : Nat) (bs : List (Byte × Bool)) : (s.layRun shown k bs).Canon := by
  unfold State.layRun
  dsimp only
  refine foldl (fun s i h => ?_) _ ?_
  · split <;> exact h
  · split
    · exact h.putBytes ..
    · refine foldl (fun s i h => ?_) _ h
      split
      exacts [h, Memory.wf_set h]

theorem writeRun (h : s.Canon) (o : EngOp) (run : Nat × List (Byte × Bool)) : (s.writeRun o run).Canon := by
  grind [State.writeRun, capture, layRun, dropL1, foldl]

theorem writePartial (h : s.Canon) (o : EngOp) (run : Nat × List (Byte × Bool)) : (s.writePartial o run).1.Canon := by
  unfold State.writePartial
  dsimp only
  split
  · exact h
  · refine foldl_fst (fun acc i h => ?_) _ h
    have hw (b : Byte) := setMem (s := acc.1.capture o.rp (run.1 + i))
      (Memory.wf_set (k := run.1 + i) (b := b) (h.capture o.rp (run.1 + i)))
    grind [poisonAt]

theorem readRows (h : s.Canon) (o : EngOp) (buf : Option LineBuf) (h' : Hint)
    (rows : List ((Nat × Nat) × List (Place × Nat))) : (s.readRows o buf h' rows).1.Canon := by
  revert h
  fun_induction State.readRows s o buf h' rows <;> grind [State.readRows, opReadAll]

theorem rowPlaces (h : s.Canon) (o : EngOp) (write : Bool) (l : List Word) : (s.rowPlaces o write l).1.Canon := by
  revert h
  fun_induction State.rowPlaces s o write l <;> grind [State.rowPlaces, opPlaces]

theorem destPlaces (h : s.Canon) (o : EngOp) (vas : List Word) : (s.destPlaces o vas).1.Canon := by
  grind [State.destPlaces, rowPlaces]

theorem runCopy (h : s.Canon) (e : Nat) (o : EngOp) : (s.runCopy e o).Canon := by
  unfold State.runCopy
  extract_lets fail src dst
  have hfail (s : State) (x : Nat × Word) (h : s.Canon) : (fail s x).Canon := (h.modOp _ _).post _
  have hs := h.rowPlaces o false src
  rcases hr : s.rowPlaces o false src with ⟨s₁, x | sp⟩
  · rw [hr] at hs
    exact hfail _ _ hs
  · rw [hr] at hs
    have hd := hs.destPlaces o dst
    rcases hp : s₁.destPlaces o dst with ⟨s₂, x | dp⟩
    · rw [hp] at hd
      dsimp only
      rw [hp]
      exact hfail _ _ hd
    · rw [hp] at hd
      dsimp only
      rw [hp]
      dsimp only
      refine (modOp (foldl_fst (fun acc run h => ?_) _ ?_) _ _).post _
      · exact h.writePartial o run
      have hread := hd.readRows o (reusable o (State.eng s₂ e).buf) (hintOf (slice (o.sh 5) 32 2)) (o.grid.zip sp)
      grind [opMark, foldl, opLookups, modEng]

theorem sinkOf (h : s.Canon) (o : EngOp) : (s.sinkOf o).Canon := by
  grind [State.sinkOf, modTask, drop, decrement]

theorem complete (h : s.Canon) (o : EngOp) : (s.complete o).Canon := by
  grind [State.complete, writeRun, writePartial, modEng, post, modBar, modTask, sinkOf, report, foldl]

/-- The waits for several destinations (R22). -/
theorem freeAll (h : s.Canon) (ds : List Reg) :
    (ds.foldl (fun (r : Res Unit) d => r.bind fun s _ => s.freeG d) (.ok s ())).Canon := by
  suffices hl : ∀ (l : List Reg) (r : Res Unit), r.Canon → (l.foldl (fun (r : Res Unit) d => r.bind fun s _ => s.freeG d) r).Canon
    from hl ds _ h
  intro l
  induction l with
  | nil => exact fun _ h => h
  | cons d l ih => exact fun r h => ih _ (h.bind fun _ _ h => h.freeG d)

/-! ## Tasks and edges -/

theorem taskFirst (h : s.Canon) (srcs : List Src) (ds : List Reg) : (Machine.taskFirst srcs ds s).Canon :=
  (h.examine _).bind fun _ _ h => (h.freeAll ds).bind fun _ _ h => h.waitRpq.bind fun _ _ h => h.waitAmo

theorem readRecord (h : s.Canon) (va : Word) (n : Nat) : (s.readRecord va n).Canon := by
  grind [State.readRecord, Res.Canon.eq_def, Res.bind.eq_def, readLanes]

theorem spawnOn (h : s.Canon) (d : Reg) (a : Src) (core : Nat) (fixed : Bool) :
    (Machine.spawnOn d a core fixed s).Canon :=
  (h.alignAll _ _).bind fun s _ h => (h.readRecord _ _).bind fun s bs h => by
    split
    · exact h
    · exact h.accept _ _ _ _ _ _ _ _

theorem nameOk (h : s.Canon) (va : Word) : (nameOk va s).Canon := by
  grind [Machine.nameOk, Res.Canon.eq_def, Res.bind.eq_def, alignAll, need]

theorem putEdge (h : s.Canon) (key : Nat) (e : Edge) : (s.putEdge key e).Canon := by
  grind [State.putEdge, putBytes]

theorem edgePlace (h : s.Canon) (who : Option Nat) (ctx : Nat) (va : Word) (n : Nat) (k : Acc3) :
    (s.edgePlace who ctx va n k).1.Canon := by
  unfold State.edgePlace
  split <;> grind [State.edgePlace, translate, lookHome, dropL1]

theorem readyCons (h : s.Canon) (who : Option Nat) (ctx : Nat) (cons : Word) (core : Nat) (token : Bool) :
    (s.readyCons who ctx cons core token).Canon := by
  grind [State.readyCons, recRead, accept]

theorem pushItem (h : s.Canon) (who : Option Nat) (ctx key item : Nat) (e : Edge) (v : Word) (core : Nat) :
    (s.pushItem who ctx key item e v core).Canon := by
  grind [State.pushItem, putBytes, readyCons, putEdge]

theorem release1 (h : s.Canon) (o : Outgoing) : (s.release1 o).Canon := by
  unfold State.release1
  split <;> grind [State.release1, post, rxArrive, flushMail]

theorem noteAct (h : s.Canon) (ta : Nat) : (s.noteAct ta).Canon := by
  grind [State.noteAct, note]

theorem endActivation (h : s.Canon) (ta : Nat) : (s.endActivation ta).Canon := by
  grind [State.endActivation, noteAct, modCore, clearCore, strandsEnd, setSlot, rxLeft, release1, foldl]

theorem placeOne (h : s.Canon) (die : Nat) (w : Work) : ∀ t, s.placeOne die w = some t → t.Canon := by
  grind [State.placeOne, unqueue, act, cancelled, replayEnd, startGang]

/-! ## Collectives -/

theorem collRead (h : s.Canon) (o : EngOp) (c : CollInfo) (src : Word) : (s.collRead o c src).1.Canon := by
  grind [State.collRead, opPlaces, opReadAll]

theorem collDest (h : s.Canon) (o : EngOp) (c : CollInfo) (n : Nat) : (s.collDest o c n).1.Canon := by
  grind [State.collDest, opPlaces]

theorem collWrite (h : s.Canon) (parts : List Contrib) (o : EngOp) (c : CollInfo) : (s.collWrite parts o c).Canon := by
  grind [State.collWrite, opLookups, opMark, post, modOp, foldl]

theorem collAbort (h : s.Canon) (ctx grp op : Nat) : (s.collAbort ctx grp op).Canon := by
  grind [State.collAbort, abortOp, foldl]

/-! ## Fences and messages -/

theorem startActivation (h : s.Canon) (core : Nat) (m : RxMsg) : (s.startActivation core m).Canon := by
  grind [State.Canon, State.startActivation, rxLeft, setSlot, modCore, note, doAmo]

/-! ## L2 control -/

theorem l2First (h : s.Canon) (srcs : List Src) (ds : List Reg) : (Machine.l2First srcs ds s).Canon :=
  (h.examine _).bind fun _ _ h => (h.freeAll ds).bind fun _ _ h => h.waitRpq.bind fun _ _ h => h.await _

theorem xlateAny (h : s.Canon) (who : Option Nat) (c : Ctx) (va : Nat) : (s.xlateAny who c va).1.Canon := by
  grind [State.xlateAny, tlbLoad]

theorem pinPages (h : s.Canon) (who : Option Nat) (c : Ctx) (l : List Nat) : (s.pinPages who c l).1.Canon := by
  revert h
  fun_induction State.pinPages s who c l <;> grind [State.pinPages, xlateAny]

theorem setRetain (h : s.Canon) (i : Nat) (r : Option Retention) : (s.setRetain i r).Canon := h

theorem needRetain (h : s.Canon) (v : Word) : (s.needRetain v).Canon := by
  grind [State.needRetain, Res.Canon.eq_def]

theorem dropLines (h : s.Canon) (lo hi : Nat) : (s.dropLines lo hi).Canon := h

theorem flushPages (h : s.Canon) (c : Ctx) (last : Nat) (l : List Nat) : (s.flushPages c last l).1.Canon := by
  revert h
  fun_induction State.flushPages s c last l <;> grind [State.flushPages, xlateAny, dropLines]

/-! ## Settle instructions -/

theorem sfRegion (h : s.Canon) (g : Word) : (s.sfRegion g).Canon := by
  grind [State.sfRegion, Res.Canon.eq_def, Res.bind.eq_def, need]

theorem sfPlaces (h : s.Canon) (va : Word) (len align : Nat) (write : Bool) :
    (s.sfPlaces va len align write).Canon := by
  unfold State.sfPlaces
  split <;> grind [State.sfPlaces, Res.Canon.eq_def, Res.bind.eq_def, alignAll, protAll, lookAll]

theorem sfAnswer (h : s.Canon) (d : Reg) (v : Word) (pois : Bool) (smp : Option (Nat × Nat)) :
    (s.sfAnswer d v pois smp).Canon := by
  grind [State.sfAnswer, post, countMe, modMe]

theorem sfClaim (h : s.Canon) (k : Nat) : (s.sfClaim k).Canon := by
  grind [State.sfClaim, modRegion]

theorem noPlaces (h : s.Canon) (r : Region) : (noPlaces s r).Canon := h

theorem sfOperand (h : s.Canon) (d : Reg) (ps : List (Place × Nat)) {f : State → List Byte → State}
    (hf : ∀ s bs, s.Canon → (f s bs).Canon) : (s.sfOperand d ps f).Canon := by
  unfold State.sfOperand
  split
  · exact (h.report _).sfAnswer ..
  · exact hf _ _ (h.opReadAll ..)

theorem imagePlaces (h : s.Canon) (va : Word) (r : Region) : (State.imagePlaces va s r).Canon := by
  grind [State.imagePlaces, Res.Canon.eq_def, Res.bind.eq_def, sfPlaces]

theorem seedPlaces (h : s.Canon) (va : Word) (r : Region) : (State.seedPlaces va s r).Canon := by
  grind [State.seedPlaces, Res.Canon.eq_def, Res.bind.eq_def, sfPlaces]

theorem poisonSamples (h : s.Canon) (k : Nat) : (s.poisonSamples k).Canon := by
  grind [State.poisonSamples, poisonAt, foldl]

theorem writeFallback (h : s.Canon) (t : Target) (sl : Slot) (k : Nat) (r : Region) :
    (s.writeFallback t sl k r).Canon := by
  grind [State.writeFallback, modRegion, opPlaces, writeRun, opMark, foldl]

theorem fireRegion (h : s.Canon) (t : Target) (sl : Slot) : (s.fireRegion t sl).Canon := by
  grind [State.fireRegion, haltRegion, writePartial, modRegion, writeFallback, foldl]

theorem leaveBars (h : s.Canon) (ta : Nat) : (s.leaveBars ta).Canon := h

theorem leaveWait (h : s.Canon) (ta : Nat) : (s.leaveWait ta).Canon := by
  grind [State.leaveWait, withdrawV, leaveBars, rxLeft, modCore, modSlot, foldl]

/-! ## Moves of strands -/

theorem findEnd (h : s.Canon) (h' : Word) : (s.findEnd h').Canon := by
  grind [State.findEnd, Res.Canon.eq_def]

theorem useEnd (h : s.Canon) (h' : Word) (kind : Option Bool) : (s.useEnd h' kind).Canon := by
  grind [State.useEnd, Res.Canon.eq_def, Res.bind.eq_def, findEnd]

theorem taskOnly (h : s.Canon) (h' : Word) : (s.taskOnly h').Canon := by
  grind [State.taskOnly, Res.Canon.eq_def, need]

theorem checkRing (h : s.Canon) (va : Word) (size depth : Nat) : (s.checkRing va size depth).Canon := by
  grind [State.checkRing, Res.Canon.eq_def, Res.bind.eq_def, need]

theorem sendItem (h : s.Canon) (x : Strand) (d : Reg) (item : VWord) (carried : Option Word) :
    (s.sendItem x d item carried).Canon := by
  unfold State.sendItem
  split <;> grind [State.sendItem, Res.Canon.eq_def, putG, putStrand, post, countMe]

theorem sendValue (h : s.Canon) (x : Strand) (item : SendItem) : (s.sendValue x item).Canon := by
  unfold State.sendValue
  split <;> grind [State.sendValue, Res.Canon.eq_def]

theorem depart (h : s.Canon) (y : Strand) (sink : Bool) (dev : Nat) : (s.depart y sink dev).Canon := by
  grind [State.depart, post, putStrand]

theorem freeRecv (h : s.Canon) (d : Reg) (item : RecvItem) : (s.freeRecv d item).Canon := by
  unfold State.freeRecv
  split <;> grind [State.freeRecv, Res.Canon.eq_def, Res.bind.eq_def, freeG]

theorem copyRing (h : s.Canon) (x : Strand) (quad off : Nat) : (s.copyRing x quad off).Canon := by
  grind [State.copyRing, putBytes, poisonAt, foldl]

theorem bindEnd (h : s.Canon) (x : Strand) (sink : Bool) (off : Nat) : (s.bindEnd x sink off).Canon := by
  grind [State.bindEnd, copyRing, putStrand, post, serve]

theorem bindAway (h : s.Canon) (x : Strand) (sink : Bool) : (s.bindAway x sink).Canon := by
  grind [State.bindAway, putStrand, post]

/-! ## Lashed pairs -/

theorem moveTask (h : s.Canon) (src dst : Nat) : (s.moveTask src dst).Canon := by
  grind [State.moveTask, modCore, setSlot, modUnit, rxLeft, rxArrive, foldl]

/-! ## Vector registers -/

theorem putV (h : s.Canon) (d : VReg) (x : VWord) (pois : Bool) : (s.putV d x pois).Canon := h
theorem putK (h : s.Canon) (d : KReg) (x : KWord) : (s.putK d x).Canon := h

theorem putLanes (h : s.Canon) (d : VReg) (w : Nat) (m : VMask) (res : List (Option Nat)) (srcPois : Bool) :
    (s.putLanes d w m res srcPois).Canon := h

theorem countLanes (h : s.Canon) (m : VMask) (n : Nat) : (s.countLanes m n).Canon := by
  grind [State.countLanes, countMe]

theorem putFp (h : s.Canon) (l : W32) (f : FpFlags) : (s.putFp l f).Canon := h

theorem cleanV (h : s.Canon) (l : List VReg) : (s.cleanV l).Canon := by
  grind [State.cleanV, Res.Canon.eq_def]

/-! ## Accumulators -/

theorem mmaAlign (h : s.Canon) (f : MmaFmt) (o : MOp) : (s.mmaAlign f o).Canon := by
  unfold State.mmaAlign
  split <;> grind [State.mmaAlign, Res.Canon.eq_def, Res.bind.eq_def, need]

theorem putAcc (h : s.Canon) (d : AReg) (x : Acc) : (s.putAcc d x).Canon := h

/-! ## Splice copies -/

theorem spillCopy (h : s.Canon) (x : Nat × Vector (BitVec 128) 128) : (s.spillCopy x).Canon := by
  grind [State.spillCopy, putBytes]

theorem useCopy (h : s.Canon) : (s.useCopy).Canon := by
  grind [State.useCopy, spillCopy, modQuad, foldl]

/-! ## Fetch -/

theorem fetchPlace (h : s.Canon) (ta : Nat) (va : Word) : (s.fetchPlace ta va).1.Canon := by
  grind [State.fetchPlace, translate]

theorem icLine (h : s.Canon) (quad : Nat) (p : Place) : (s.icLine quad p).1.Canon := by
  grind [State.icLine, modQuad]

theorem fetchAt (h : s.Canon) (ta : Nat) (p : Place × Bool) : (s.fetchAt ta p).1.Canon := by
  grind [State.fetchAt, reportLost, icLine]

theorem fetchPlaces (h : s.Canon) (ta : Nat) (l : List Word) : (s.fetchPlaces ta l).1.Canon := by
  revert h
  fun_induction State.fetchPlaces s ta l <;> grind [State.fetchPlaces, fetchPlace]

theorem fetchWords (h : s.Canon) (ta : Nat) (l : List (Word × Place × Bool)) : (s.fetchWords ta l).1.Canon := by
  revert h
  fun_induction State.fetchWords s ta l <;> grind [State.fetchWords, fetchAt]

theorem fetchInstr (h : s.Canon) (ta : Nat) (pc : Word) : (s.fetchInstr ta pc).1.Canon := by
  grind [State.fetchInstr, fetchPlace, fetchAt, fetchPlaces, fetchWords]

theorem fetchOne (h : s.Canon) (ta : Nat) (pc : Word) : (s.fetchOne ta pc).1.Canon := by
  grind [State.fetchOne, fetchInstr, modCore]

theorem fetchPc (h : s.Canon) (ta : Nat) : (s.fetchPc ta).1.Canon := by
  grind [State.fetchPc, fetchOne, modSlot]

theorem prefetch (h : s.Canon) (ta fuel : Nat) : (s.prefetch ta fuel).Canon := by
  revert h
  fun_induction State.prefetch s ta fuel <;> grind [State.prefetch, fetchOne, modSlot]

theorem freshFifth (h : s.Canon) (ta : Nat) : (s.freshFifth ta).Canon := by
  grind [State.freshFifth, prefetch, modSlot]

theorem reach (h : s.Canon) (ta : Nat) : (s.reach ta).1.Canon := by
  grind [State.Canon, State.reach, fetchPc, freshFifth, raise, modSlot]

theorem decodeAhead (h : s.Canon) (ta : Nat) : (s.decodeAhead ta).Canon := by
  grind [State.decodeAhead, prefetch]

/-! ## The debug window -/

theorem modWindow (h : s.Canon) (ta : Nat) (f : Slot → Slot) : (s.modWindow ta f).Canon := by
  grind [State.Canon, State.modWindow, modSlot]

theorem putRpqt (h : s.Canon) (core uid : Nat) (off n : Nat) (v : Word) : (s.putRpqt core uid off n v).Canon := h

theorem windowWrite (h : s.Canon) (ta off n : Nat) (v : Word) : (s.windowWrite ta off n v).Canon := by
  grind [State.windowWrite, putRpqt, modWindow]

/-! ## The service of faults -/

theorem svcRun (h : s.Canon) (l : List (List Byte)) : (s.svcRun l).Canon := by
  induction l generalizing s with
  | nil => exact h
  | cons it rest ih =>
    unfold State.svcRun
    split
    · exact h
    · split
      · exact h
      · exact ih (Memory.wf_write h)

theorem service (h : s.Canon) (kind ctx : Nat) (contents : List Byte) : (s.service kind ctx contents).Canon := by
  grind [State.service, svcRun]

theorem invalRange (h : s.Canon) (asid base len : Nat) : (s.invalRange asid base len).Canon := h

theorem noteKills (h : s.Canon) (n : Nat) : (s.noteKills n).Canon := by
  grind [State.noteKills, noteAct, note, foldl]

theorem emptyFused (h : s.Canon) (n : Nat) : (s.emptyFused n).Canon := by
  grind [State.emptyFused, emptyCluster, foldl]

theorem dropWork (h : s.Canon) (n : Nat) : (s.dropWork n).Canon := h
theorem dropCores (h : s.Canon) (n : Nat) : (s.dropCores n).Canon := h

theorem dropOps (h : s.Canon) (n : Nat) : (s.dropOps n).Canon := by
  grind [State.Canon, State.dropOps, writePartial, dropBufs, foldl]

theorem dropStrands (h : s.Canon) (n : Nat) : (s.dropStrands n).Canon := by
  grind [State.dropStrands, freeStrand, foldl]

theorem dropRegions (h : s.Canon) (n : Nat) : (s.dropRegions n).Canon := by
  grind [State.Canon, State.dropRegions, writePartial, foldl]

theorem dropReplay (h : s.Canon) (n : Nat) : (s.dropReplay n).Canon := by
  grind [State.Canon, State.dropReplay]

theorem killCtx (h : s.Canon) (n : Nat) : (s.killCtx n).Canon := by
  grind [State.Canon, State.killCtx, dropOps, dropCores, emptyFused, noteKills, setCtx, dropWork, dropReplay,
    dropRegions, dropStrands, rxLeft, foldl]

theorem killActivationAt (h : s.Canon) (ta : Nat) : (s.killActivationAt ta).Canon := by
  grind [State.killActivationAt, endActivation, modSlot]

theorem killSlot (h : s.Canon) (ta : Nat) : (s.killSlot ta).Canon := by
  grind [State.killSlot, killActivationAt, killUnit]

theorem outStat (h : s.Canon) (ta n : Nat) : (s.outStat ta n).Canon := by
  grind [State.outStat, modWindow]

theorem onFrozen (h : s.Canon) (ta : Nat) {f : State → State} (hf : ∀ s, s.Canon → (f s).Canon) :
    (s.onFrozen ta f).Canon := by
  grind [State.onFrozen, outStat]

theorem thawSlot (h : s.Canon) (ta : Nat) (f : Slot → Slot) : (s.thawSlot ta f).Canon := h

theorem retryTable (h : s.Canon) (ta : Nat) : (s.retryTable ta).Canon := by
  grind [State.retryTable, loadSpt]

theorem restartHandler (h : s.Canon) (ta : Nat) : (s.restartHandler ta).Canon := h

theorem doResume (h : s.Canon) (ta : Nat) : (s.doResume ta).Canon := by
  grind [State.doResume, restartHandler, onFrozen, thawSlot, retryTable]

theorem doSkip (h : s.Canon) (ta : Nat) : (s.doSkip ta).Canon := by
  grind [State.doSkip, onFrozen, outStat, thawSlot, leaveWait]

theorem doGoto (h : s.Canon) (ta : Nat) : (s.doGoto ta).Canon := by
  grind [State.doGoto, onFrozen, thawSlot, leaveWait]

theorem doFcont (h : s.Canon) (ta : Nat) : (s.doFcont ta).Canon := by
  grind [State.doFcont, onFrozen, killSlot, thawSlot, leaveWait]

theorem doKillt (h : s.Canon) (ta : Nat) : (s.doKillt ta).Canon := by
  grind [State.doKillt, onFrozen, killSlot]

theorem doKillg (h : s.Canon) (ta : Nat) : (s.doKillg ta).Canon := by
  grind [State.doKillg, onFrozen, killActivationAt, killUnit, freeze, foldl]

theorem doKillc (h : s.Canon) (ta : Nat) : (s.doKillc ta).Canon := by
  grind [State.doKillc, onFrozen, killCtx]

theorem onEntry (h : s.Canon) (ta : Nat) {f : State → RpqEntry → State} (hf : ∀ s e, s.Canon → (f s e).Canon) :
    (s.onEntry ta f).Canon := by
  grind [State.onEntry, outStat]

theorem replayEntry (h : s.Canon) (ta : Nat) (e : RpqEntry) : (s.replayEntry ta e).Canon := by
  grind [State.replayEntry, modCore, rpqRetry]

theorem doReplay (h : s.Canon) (ta : Nat) : (s.doReplay ta).Canon := by
  grind [State.doReplay, onEntry, replayEntry]

theorem abandonEntry (h : s.Canon) (ta : Nat) (e : RpqEntry) : (s.abandonEntry ta e).Canon := by
  grind [State.abandonEntry, rpqWake, modCore]

theorem doAbandon (h : s.Canon) (ta : Nat) : (s.doAbandon ta).Canon := by
  grind [State.doAbandon, onEntry, abandonEntry]

theorem doGrow (h : s.Canon) (ta : Nat) : (s.doGrow ta).Canon := by
  grind [State.doGrow, outStat, restartHandler, modCore, rxRelease]

theorem doFbclr (h : s.Canon) (ta : Nat) : (s.doFbclr ta).Canon := by
  grind [State.doFbclr, modWindow]

theorem outcome (h : s.Canon) (ta code : Nat) : (s.outcome ta code).Canon := by
  unfold State.outcome
  split <;> grind [State.outcome, doResume, doSkip, doGoto, doFcont, doKillt, doKillg, doKillc, doReplay, doAbandon,
    doGrow, outStat]

theorem pageFill (h : s.Canon) (c : Ctx) (va : Word) : ∀ t, s.pageFill c va = some t → t.Canon := by
  grind [State.pageFill, putBytes, setMem, invalRange, State.Canon, Memory.wf_write]

theorem hwService (h : s.Canon) (c : Ctx) (p : Packet) : (s.hwService c p).Canon := by
  grind [State.hwService, doResume, doKillt, doFcont]

theorem faultC0 (h : s.Canon) (c : Ctx) (p : Packet) : (s.faultC0 c p).Canon := by
  grind [State.faultC0, service, hwService]

/-! ## The commands of the host -/

theorem cmdDone (h : s.Canon) (code value : Nat) : (s.cmdDone code value).Canon := h

theorem createCtx (h : s.Canon) (n : Nat) (c : Ctx) : (s.createCtx n c).Canon := by
  grind [State.Canon, State.createCtx, setCtx, foldl]

theorem pairsExchange (h : s.Canon) (n : Nat) : (s.pairsExchange n).Canon := by
  grind [State.pairsExchange, post, foldl]

theorem modWin (h : s.Canon) (i : Nat) (f : Window → Window) : (s.modWin i f).Canon := h

theorem launchSend (h : s.Canon) (i : Nat) : (s.launchSend i).Canon := by
  grind [State.launchSend, modWin, service]

theorem acceptItem (h : s.Canon) (w : Window) (it : LaunchItem) : (s.acceptItem w it).1.Canon := by
  grind [State.acceptItem, recRead, accept]

theorem loseDevice (h : s.Canon) (dev : Nat) : (s.loseDevice dev).Canon := by
  grind [State.Canon, State.loseDevice, orphan, collAbort, foldl]

theorem closeLive (h : s.Canon) (k : Nat) (sink : Bool) : (s.closeLive k sink).Canon := by
  grind [State.closeLive, closeEnd]

theorem outsideWrite (h : s.Canon) (pa : Nat) (bs : List Byte) : (s.outsideWrite pa bs).Canon := by
  grind [State.outsideWrite, putBytes, dropL1, foldl]

/-! ## Trace and replay -/

theorem modTrace (h : s.Canon) (f : TraceSt → TraceSt) : (s.modTrace f).Canon := h

theorem dmaWrite (h : s.Canon) (pa : Nat) (bs : List Byte) : (s.dmaWrite pa bs).Canon := by
  grind [State.dmaWrite, outsideWrite]

theorem ringPut (h : s.Canon) (ws : List Word) : (s.ringPut ws).Canon := by
  grind [State.ringPut, modTrace, dmaWrite]

theorem putLost (h : s.Canon) : (s.putLost).Canon := by
  grind [State.putLost, modTrace, ringPut]

theorem ringWrite (h : s.Canon) (ws : List Word) : (s.ringWrite ws).Canon := by
  unfold State.ringWrite
  dsimp only
  split
  · exact h.putLost.modTrace _
  · exact h.putLost.ringPut _

theorem debugStop (h : s.Canon) (r : TraceRec) : (s.debugStop r).Canon := by
  grind [State.debugStop, ringWrite, modTrace]

theorem traceOn (h : s.Canon) : (s.traceOn).Canon := h
theorem traceClr (h : s.Canon) : (s.traceClr).Canon := h
theorem traceGo (h : s.Canon) : (s.traceGo).Canon := h

theorem traceTail (h : s.Canon) (value : Word) : (s.traceTail value).Canon := by
  grind [State.traceTail, putLost, modTrace]

theorem modReplay (h : s.Canon) (f : ReplaySt → ReplaySt) : (s.modReplay f).Canon := h
theorem dropPages (h : s.Canon) (c : Ctx) : (s.dropPages c).Canon := h

theorem restoreSet (h : s.Canon) : (s.restoreSet).Canon := by
  grind [State.restoreSet, copyBytes, foldl]

theorem replayStop (h : s.Canon) : (s.replayStop).Canon := h

theorem putResult (h : s.Canon) (counts : List Nat) (status fprint : Nat) :
    (s.putResult counts status fprint).Canon := by
  grind [State.putResult, dmaWrite]

theorem replayAccept (h : s.Canon) : (s.replayAccept).1.Canon := by
  grind [State.replayAccept, recRead, accept]

theorem passStart (h : s.Canon) (k : Nat) : (s.passStart k).Canon := by
  grind [State.Canon, State.passStart, modReplay, restoreSet, replayStop, replayAccept, dropPages, putResult]

theorem replayGo (h : s.Canon) : (s.replayGo).Canon := by
  grind [State.replayGo, modReplay, passStart]

/-! ## Pre-emption -/

theorem leaveForStop (h : s.Canon) (ta : Nat) : (s.leaveForStop ta).Canon := by
  grind [State.leaveForStop, leaveBars, rxLeft, modCore, modSlot, foldl]

theorem saveTask (h : s.Canon) (m : Member) (save : Option Nat) : (s.saveTask m save).Canon := by
  unfold State.saveTask
  extract_lets a b c d e
  have hb : b.Canon := ((ite (h.exchange _) h).leaveForStop m.ta).dropBufs m.uid
  have hd : d.Canon := by
    unfold d
    split
    exacts [hb.putBytes _ _, hb]
  have he : e.Canon := ite hd hd
  exact he

theorem forceStop (h : s.Canon) (u : UnitSt) : (s.forceStop u).Canon := by
  grind [State.Canon, State.forceStop, saveTask, emptyCluster, foldl]

theorem moveRpq (h : s.Canon) (uid dst src : Nat) : (s.moveRpq uid dst src).Canon := by
  grind [State.moveRpq, modCore, post, foldl]

theorem restoreTask (h : s.Canon) (m : Member) (ta : Nat) : (s.restoreTask m ta).Canon := by
  grind [State.Canon, State.restoreTask, modCore, setSlot, moveRpq, rxLeft, rxArrive, post, foldl]

theorem moveEnds (h : s.Canon) (uids : List Nat) (quadMap : List (Nat × Nat)) : (s.moveEnds uids quadMap).Canon := by
  grind [State.moveEnds, serve, putStrand, foldl]

theorem resumeIn (h : s.Canon) (u : UnitSt) (r : Room) : (s.resumeIn u r).Canon := by
  grind [State.Canon, State.resumeIn, unreserve, claimArea, copyBytes, emptyCluster, restoreTask, moveEnds, foldl]

/-! ## Images -/

theorem deliverHeld (h : s.Canon) (n : Nat) : (s.deliverHeld n).Canon := by
  grind [State.deliverHeld, deliverRun, putStrand, foldl]

theorem quiesceStep (h : s.Canon) (n : Nat) : (s.quiesceStep n).Canon := by
  grind [State.quiesceStep, modTrace, modCtx, forceStop, deliverHeld, collAbort, haltRegion, foldl]

theorem releaseCopy (h : s.Canon) (n : Nat) (a : AbortedCopy) : (s.releaseCopy n a).Canon := h

theorem putRpq (h : s.Canon) (core : Nat) (e : RpqEntry) : ∀ t, s.putRpq core e = some t → t.Canon := by
  grind [State.putRpq, modCore]

theorem restoreMember (h :
    s.Canon) (n : Nat) (c : Ctx) (addr : Word) (ta uid : Nat) (win area p : List Byte) (o : Nat) :
    ∀ t, s.restoreMember n c addr ta uid win area p o = some t → t.Canon := by
  unfold State.restoreMember
  dsimp only
  split
  · rintro _ ⟨⟩
    exact h
  · exact foldl_bind (fun _ _ h => h.putRpq _ _) _ (foldl (s := { s with parked := _ }) (fun _ _ h => h.rxArrive ..) _ h)

theorem restoreUnit (h : s.Canon) (n : Nat) (c : Ctx) (bars : List (List Byte)) (p : List Byte) :
    ∀ t, s.restoreUnit n c bars p = some t → t.Canon := by
  unfold State.restoreUnit
  extract_lets
  split
  · rintro _ ⟨⟩
  · extract_lets
    exact foldl_bind (fun _ _ h => h.restoreMember _ _ _ _ _ _ _ _ _) _
      (foldl (s := { s with units := _, nextUid := _ }) (fun _ _ h => h.putBytes ..) _ h)

theorem restoreStrand (h : s.Canon) (n : Nat) (p : List Byte) : (s.restoreStrand n p).Canon := by
  grind [State.restoreStrand, putBytes, putStrand]

theorem restoreQueue (h : s.Canon) (n f : Nat) (p : List Byte) : (s.restoreQueue n f p).Canon := by
  induction f generalizing s p with
  | zero => exact h
  | succ f ih =>
    unfold State.restoreQueue
    refine ite h (ite (ih (h.modCtx ..) _) (ite (ih ?_ _) (ih ?_ _)))
    · exact h
    · generalize recField p 1 1 = place
      match place with
      | 0 | 3 => exact h
      | 1 | 2 => exact ite h h
      | _ + 4 => exact h

theorem restoreRetain (h : s.Canon) (n : Nat) (c : Ctx) (p : List Byte) :
    ∀ t, s.restoreRetain n c p = some t → t.Canon := by
  grind [State.restoreRetain, pinPages, setRetain]

theorem restoreRegion (h : s.Canon) (n : Nat) (p : List Byte) : ∀ t, s.restoreRegion n p = some t → t.Canon := by
  grind [State.Canon, State.restoreRegion]

theorem restoreCounters (h : s.Canon) (n : Nat) (c : Ctx) (p : List Byte) : (s.restoreCounters n c p).Canon := by
  grind [State.restoreCounters, setMem, modCore, State.Canon, Memory.wf_write, foldl]

theorem restoreTables_groups (h : s.Canon) (c : Ctx) (f : Nat) (q : List Byte) :
    (State.restoreTables.groups c f q s).Canon := by
  induction f generalizing s q with
  | zero => exact h
  | succ f ih =>
    unfold State.restoreTables.groups
    split
    · exact h
    · exact ih ((h.outsideWrite ..).outsideWrite ..) _

theorem restoreTables (h : s.Canon) (c : Ctx) (p : List Byte) : (s.restoreTables c p).Canon := by
  refine restoreTables_groups ?_ _ _ _
  split
  exacts [h, h.outsideWrite ..]

theorem eachSec (h : s.Canon) (l : List (List Byte)) {f : State → List Byte → Option State}
    (hf : ∀ s p, s.Canon → ∀ t, f s p = some t → t.Canon) : ∀ t, Machine.eachSec l f s = some t → t.Canon :=
  foldl_bind hf l h

theorem restoreAll (h : s.Canon) (n : Nat) (c : Ctx) (own : Bool) (l : List (Nat × Nat × List Byte)) :
    ∀ t, s.restoreAll n c own l = .ok t → t.Canon := by
  intro t ht
  unfold State.restoreAll at ht
  dsimp only at ht
  by_cases hb : (if own then s.restoreTables c ((secsOf l 2).headD []) else s).badSettab c = true
  · rw [if_pos hb] at ht
    cases ht
  rw [if_neg hb] at ht
  have h₁ : (if own then s.restoreTables c ((secsOf l 2).headD []) else s).Canon := by
    split
    · exact h.restoreTables ..
    · exact h
  split at ht
  · cases ht
  next hu =>
    have h₂ := eachSec (h₁.createCtx _ _) _ (fun _ _ h => h.restoreUnit _ _ _ _) _ hu
    split at ht
    · cases ht
    next hr =>
      have h₃ := eachSec (foldl (fun _ _ h => h.restoreQueue ..) _ (foldl (fun _ _ h => h.restoreStrand ..) _ h₂)) _
        (fun _ _ h => h.restoreRegion _ _) _ hr
      split at ht
      · cases ht
      next hq =>
        cases ht
        exact foldl (fun _ _ h => h.restoreCounters ..) _ (eachSec h₃ _ (fun _ _ h => h.restoreRetain _ _ _) _ hq)

/-! ## Errors, power and heat -/

theorem modRas (h : s.Canon) (f : RasSt → RasSt) : (s.modRas f).Canon := h
theorem setBank (h : s.Canon) (die : Nat) (b : ErrBank) : (s.setBank die b).Canon := h

theorem file (h : s.Canon) (n : ErrRec) : (s.file n).1.Canon := by
  grind [State.file, setBank]

theorem record (h : s.Canon) (e : ErrReport) : (s.record e).1.Canon := by
  grind [State.record, file]

theorem histAdd (h : s.Canon) (k corr mis : Nat) : (s.histAdd k corr mis).Canon := h
theorem dropLost (h : s.Canon) (die slice : Nat) : (s.dropLost die slice).Canon := h

theorem fenceUnit (h : s.Canon) (die vq : Nat) (kind idx : Nat) : (s.fenceUnit die vq kind idx).Canon := by
  grind [State.fenceUnit, modRas, post, dropLost]

theorem killSlots (h : s.Canon) (tas : List Nat) : (s.killSlots tas).Canon := by
  grind [State.killSlots, killSlot, foldl]

theorem urgentKill (h : s.Canon) (e : ErrReport) : (s.urgentKill e).Canon := by
  grind [State.urgentKill, killAct, killSlots, killCtx, foldl]

theorem setRetBlk (h : s.Canon) (base : Nat) (b : RetireBlk) : (s.setRetBlk base b).Canon := h
theorem reportPage (h : s.Canon) (frame : Word) : (s.reportPage frame).Canon := h

theorem retireRun (h : s.Canon) (base : Nat) : (s.retireRun base).Canon := by
  grind [State.retireRun, reportPage, setRetBlk, post, copyBytes]

theorem retireWeak (h : s.Canon) (e : ErrReport) : (s.retireWeak e).Canon := by
  have hput (k : Nat) (bs : List Byte) (i : Nat) (b : RetireBlk) : (((s.putBytes k bs).setRetBlk i b).retireRun i).Canon :=
    ((h.putBytes k bs).setRetBlk i b).retireRun i
  unfold State.retireWeak
  dsimp only
  repeat' split
  all_goals grind

theorem reportPair (h : s.Canon) (ta cls : Nat) (pc : Word) : (s.reportPair ta cls pc).Canon := h

theorem rollback (h : s.Canon) (ta : Nat) : (s.rollback ta).Canon := by
  grind [State.rollback, reportPair, setSlot, raise]

theorem modRow (h : s.Canon) (k : Nat) (f : RailRow → RailRow) : (s.modRow k f).Canon := h

theorem railWrite (h : s.Canon) (die row : Nat) (value : Word) : (s.railWrite die row value).Canon := by
  grind [State.railWrite, modRow, foldl]

theorem setPhys (h : s.Canon) (die vq pq : Nat) : (s.setPhys die vq pq).Canon := h

theorem moveQuad (h : s.Canon) (die vq pq : Nat) : (s.moveQuad die vq pq).Canon := by
  grind [State.Canon, State.moveQuad, setPhys, modQuad, modRas, note, report]

/-! ## Registers -/

theorem setFmt (h : s.Canon) (f base : Nat) (r : FmtRegion) : (s.setFmt f base r).Canon := h
theorem fmtChecked (h : s.Canon) (f base : Nat) : (s.fmtChecked f base).Canon := h
theorem fmtWritten (h : s.Canon) (f base : Nat) : (s.fmtWritten f base).Canon := h

theorem fmtRegWrite (h : s.Canon) (f base : Nat) (cell o n : Nat) (v : Word) :
    (s.fmtRegWrite f base cell o n v).Canon := by
  unfold State.fmtRegWrite
  split <;> grind [State.fmtRegWrite, fmtWritten, setFmt]

theorem commandWrite (h : s.Canon) (cell o n : Nat) (v : Word) : (s.commandWrite cell o n v).Canon := by
  grind [State.Canon, State.commandWrite, post]

theorem replayWrite (h : s.Canon) (cell o n : Nat) (v : Word) : (s.replayWrite cell o n v).Canon := by
  unfold State.replayWrite
  split <;> grind [State.replayWrite, modReplay, replayGo]

theorem gridWrite (h : s.Canon) (cell o n : Nat) (v : Word) : (s.gridWrite cell o n v).Canon := by
  unfold State.gridWrite
  dsimp only
  split <;> exact h

theorem traceWrite (h : s.Canon) (cell o n : Nat) (v : Word) : (s.traceWrite cell o n v).Canon := by
  unfold State.traceWrite
  split <;> grind [State.traceWrite, modTrace, traceTail, traceOn, traceClr, traceGo]

theorem errWrite (h : s.Canon) (die i : Nat) (o n : Nat) (v : Word) : (s.errWrite die i o n v).Canon := by
  grind [State.errWrite, setBank]

theorem retireWrite (h : s.Canon) (base cell : Nat) (o n : Nat) (v : Word) : (s.retireWrite base cell o n v).Canon := by
  unfold State.retireWrite
  split <;> grind [State.retireWrite, setRetBlk, retireRun]

theorem launchWrite (h : s.Canon) (win cell : Nat) (o n : Nat) (v : Word) : (s.launchWrite win cell o n v).Canon := by
  unfold State.launchWrite
  split <;> grind [State.launchWrite, modWin, launchSend]

theorem debugWrite (h : s.Canon) (ta off n : Nat) (v : Word) : (s.debugWrite ta off n v).Canon := by
  grind [State.debugWrite, doFbclr, outcome, windowWrite]

theorem areaWrite (h : s.Canon) (core off n : Nat) (v : Word) : (s.areaWrite core off n v).Canon := h

theorem quadWrite (h : s.Canon) (quad off n : Nat) (v : Word) : (s.quadWrite quad off n v).Canon := by
  grind [State.quadWrite, debugWrite, areaWrite, putBytes]

/-- The host's side is apart from memory. -/
theorem withHost (h : s.Canon) (x : HostIf) : ({ s with host := x } : State).Canon := h

theorem svcCreditWrite (h : s.Canon) (total : Word) : ∀ t, execSvcCreditWrite total s = .next t → t.Canon := by
  intro t ht
  unfold execSvcCreditWrite at ht
  extract_lets hst out at ht
  clear_value out
  cases ht
  split
  · exact h
  · exact ite h (svcRun (h.withHost _) _)

theorem bar0Write (h : s.Canon) (off n : Nat) (v : Word) : (s.bar0Write off n v).Canon := by
  unfold State.bar0Write
  dsimp only
  split_ifs
  · exact h.commandWrite ..
  · split
    next ht => exact h.svcCreditWrite _ _ ht
    · exact h
  · exact h.replayWrite ..
  · exact h.gridWrite ..
  · exact h.traceWrite ..
  · exact h.errWrite ..
  · exact h
  · exact h.retireWrite ..
  · exact h.railWrite ..
  · exact h
  · split
    · exact h.debugWrite ..
    · exact h
  · exact h

theorem vqtWrite (h : s.Canon) (die off n : Nat) (v : Word) : (s.vqtWrite die off n v).Canon := h

theorem mgmtWrite (h : s.Canon) (die off n : Nat) (v : Word) : (s.mgmtWrite die off n v).Canon := by
  unfold State.mgmtWrite
  dsimp only
  split_ifs
  · exact h.bar0Write ..
  · exact h.vqtWrite ..
  · exact h.fmtRegWrite ..
  · exact h
  · exact h.quadWrite ..
  · exact h

theorem loadWrite (h : s.Canon) (a n : Nat) (v : Word) : (s.loadWrite a n v).Canon := by
  grind [State.Canon, State.loadWrite]

/-! ## Moves and time -/

theorem showNext (h : s.Canon) (ta : Nat) : (s.showNext ta).Canon := by
  grind [State.showNext, fetchPc, modSlot]

theorem turn (h : s.Canon) (ta : Nat) : (s.turn ta).1.Canon := by
  grind [State.Canon, State.turn, showNext, reach]

theorem begin_ (h : s.Canon) (m : Move) : (s.begin_ m).1.Canon := by
  unfold State.begin_
  grind [State.Canon, turn]

theorem elapseOver (h : s.Canon) (quads : List Nat) : (s.elapseOver quads).Canon := h.outsideMem

theorem elapse (h : s.Canon) : (s.elapse).Canon := by
  grind [State.elapse, elapseOver]

theorem settleTurn (h : s.Canon) {t : State} (ht : t.Canon) (m : Move) : (s.settleTurn t m).Canon := by
  unfold State.settleTurn
  split
  · refine decodeAhead ?_ _
    split
    · exact h.rollback _
    · exact ht
  · exact ht

theorem finish (h : s.Canon) {t : State} (ht : t.Canon) (m : Move) : (s.finish t m).Canon :=
  (h.settleTurn ht m).elapseOver _

end State.Canon

end Sys2Proof.Machine
end

section
/-! SUPPORT. Memory stays in its canonical form: what each instruction and each event leaves (log 1). -/

namespace Sys2Proof.Machine

namespace State.Canon
variable {s : State}

/-! ## The forms that instructions share -/

theorem next (h : s.Canon) : Out.Canon (.next s) := h

theorem getD {o : Option State} (h : s.Canon) (ho : ∀ t, o = some t → t.Canon) : (o.getD s).Canon := by
  cases o with
  | none => exact h
  | some t => exact ho t rfl

/-! ## Slots, messages of the agenda, faults and bytes -/

theorem issueTo (h : s.Canon) {p : Pipe} {r : Reach} {body : State → Res Word} (hb : ∀ s, s.Canon → (body s).Canon) :
    Out.Canon (issueTo p r body s) := by
  have hp := hb _ (h.preIssue r)
  unfold Machine.issueTo
  cases hr : body (s.preIssue r) with
  | ok s' t => rw [hr] at hp; exact next ((hp.countIssue p).retireTo t)
  | wait s' => rw [hr] at hp; exact next hp
  | trap s' c v => rw [hr] at hp; exact next ((hp.uncount s).raise s.cur c v)

theorem issue (h : s.Canon) {p : Pipe} {r : Reach} {body : State → Res Unit} (hb : ∀ s, s.Canon → (body s).Canon) :
    Out.Canon (Machine.issue p r body s) :=
  h.issueTo fun s h => (hb s h).bind fun _ _ h => h

/-! ## Scalar accesses -/

theorem loadTo (h :
    s.Canon) (n : Nat) (x : Bool) (l : List Src) (d : Dst) (f : State → Word) (hint : Hint) (aq : Bool) :
    Out.Canon (Machine.loadTo n x l d f hint aq s) :=
  h.issue fun s h => (h.examine _).bind fun s _ h => (h.alignAll _ _).bind fun s _ h => (h.freeDst _).bind fun s _ h =>
    (h.remTarget _).bind fun s _ h => (h.loadLanes _ _ _ fun _ h => h.Dst_held d).bind fun s r h => by
      split
      · exact h.deliver ..
      · exact h

theorem storeFrom (h :
    s.Canon) (n : Nat) (l : List Src) (d : Reg) (f : State → Word) (rl : Option Scope) (hint : Hint) :
    Out.Canon (Machine.storeFrom n l d f rl hint s) :=
  h.issue fun s h => (h.examine _).bind fun s _ h => h.storeLanes _ _ _ _ fun s h => by
    split
    · exact h.release _
    · exact h

/-! ## Atomics -/

theorem amoOp (h :
    s.Canon) (fn : AmoFn) (ty : Ty) (rm : Rm) (l : List Src) (d : Dst) (a b : Reg) (c : Option Reg) (off : W32)
    (rl : Option Scope) (aq : Bool) (hint : Hint) : Out.Canon (Machine.amoOp fn ty rm l d a b c off rl aq hint s) :=
  h.issue fun s h => (h.examine _).bind fun s _ h => (h.freeDst _).bind fun s _ h =>
    (show Res.Canon (match rl with | some sc => s.release sc | none => s.waitRpq) by
      split
      exacts [h.release _, h.waitRpq]).bind fun s _ h =>
    h.waitAmo.bind fun s _ h => (h.alignAll _ _).bind fun s _ h => (h.remTarget _).bind fun s _ h =>
    (h.protAll _ _).bind fun s _ h => (h.amoPlace _ _).bind fun s x h => by
      have h₁ : (if x.2 then ((s.countMe 15 1).countMe 16 1).countMe 13 1 else s.countMe 15 1).Canon :=
        ite (((h.countMe 15 1).countMe 16 1).countMe 13 1) (h.countMe 15 1)
      exact sendAmo (ite (lookHome (h₁.dropL1 _ _) ..) h₁) ..

/-! ## Branches -/

theorem branchIf (h : s.Canon) (f : Word → Word → Bool) (a b : Src) (g : State → Word) :
    Out.Canon (Machine.branchIf f a b g s) :=
  h.issueTo fun s h => (h.examine _).bind fun s _ h => by
    dsimp only
    split
    · exact (h.countMe 7 1).taken _
    · exact h.countMe 7 1

theorem jumpTo (h : s.Canon) (g : State → Word) : Out.Canon (Machine.jumpTo g s) :=
  h.issueTo fun _ h => h.taken _

theorem callTo (h : s.Canon) (g : State → Word) : Out.Canon (Machine.callTo g s) :=
  h.issueTo fun _ h => (h.freeG 1).bind fun s _ h => taken (s := s.putG 1 s.nextPc) h _

/-! ## Integers -/

theorem int3 (h : s.Canon) (f : Word → Word → Word) (d a b : Reg) : Out.Canon (Machine.int3 f d a b s) :=
  h.issue fun _ h => (h.examine _).bind fun _ _ h => (h.freeG _).bind fun _ _ h => h

theorem int1 (h : s.Canon) (f : Word → Word) (d a : Reg) : Out.Canon (Machine.int1 f d a s) :=
  h.issue fun _ h => (h.examine _).bind fun _ _ h => (h.freeG _).bind fun _ _ h => h

theorem xint (h : s.Canon) (l : List Src) (d : Dst) (f : State → Word) : Out.Canon (Machine.xint l d f s) :=
  h.issue fun _ h => (h.examine _).bind fun _ _ h => (h.freeDst _).bind fun _ _ h => h.putDst _ _

/-! ## Collectives -/

theorem collOp (h : s.Canon) (f : Nat) (d : Reg) (a : Src) : Out.Canon (Machine.collOp f d a s) :=
  h.issue fun s h => (h.taskFirst _ _).bind fun s _ h => (h.alignAll _ _).bind fun s _ h =>
    (h.readRecord _ _).bind fun s bs h => by
      grind [Res.Canon.eq_def, collDest, collRead, modCtx, modEng, modMe, countMe, post, putG]

/-! ## Settle instructions -/

theorem sf (h : s.Canon) (l : List Src) (d a : Reg) {pl : State → Region → Res (List (Place × Nat))}
    {no : Region → Option Nat} {act : State → Nat → Region → List (Place × Nat) → State} (hpl : ∀ s r, s.Canon → (pl s r).Canon)
    (hact : ∀ s k r ps, s.Canon → (act s k r ps).Canon) : Out.Canon (Machine.sf l d a pl no act s) :=
  h.issue fun s h => (h.examine _).bind fun s _ h => (h.freeG _).bind fun s _ h => (h.sfRegion _).bind fun s r h =>
    (hpl s r h).bind fun s ps h => h.waitRpq.bind fun s _ h => h.waitAmo.bind fun s _ h => by
      dsimp only
      split
      · exact h.sfAnswer ..
      · split
        · exact (h.sfClaim _).sfAnswer ..
        · exact hact _ _ _ _ (h.sfClaim _)
        · exact h.sfClaim _

/-! ## Vector registers -/

theorem vecOp (h :
    s.Canon) (d : VReg) (ty : Ty) (rm : Rm) (m : VMask) (l : List VReg) (op : State → FpEnv → Nat → FpRes) :
    Out.Canon (Machine.vecOp d ty rm m l op s) :=
  h.issue fun _ h => ((h.countLanes m (2048 / ty.width)).putLanes ..).putFp ..

theorem vcmp (h : s.Canon) (f : Nat) (o : VCmpOp) : Out.Canon (Machine.vcmp f o s) :=
  h.issue fun _ h => (h.cleanV _).bind fun _ _ h => ((h.countLanes o.m (2048 / o.ty.width)).putK ..).setFlags _

theorem vred (h : s.Canon) (f : Nat) (o : V1) : Out.Canon (Machine.vred f o s) :=
  h.issue fun _ h => ((h.countLanes o.m (2048 / o.ty.width)).putV ..).putFp ..

theorem vload (h : s.Canon) (d : VReg) (ty : Ty) (hint : Hint) (m : VMask) (l : List Src) (idx : List VReg)
    (f : State → Nat → Word) (one : Bool) : Out.Canon (Machine.vload d ty hint m l idx f one s) :=
  h.issue fun s h => (h.examine _).bind fun s _ h => by
    dsimp only
    split
    · refine (h.alignAll _ _).bind fun s _ h => (h.protAll _ _).bind fun s _ h => Res.Canon.ite h ?_
      grind [Res.Canon.eq_def, placeAll, cleanV, Res.bind.eq_def]
    · exact (h.loadLanes (pre := fun s => .ok s ()) _ _ _ fun _ h => h).bind fun s r h =>
        (h.countLanes m (2048 / ty.width)).putLanes ..

theorem vstore (h : s.Canon) (d : VReg) (ty : Ty) (hint : Hint) (m : VMask) (l : List Src) (idx : List VReg)
    (f : State → Nat → Word) : Out.Canon (Machine.vstore d ty hint m l idx f s) :=
  h.issue fun _ h => (h.examine _).bind fun _ _ h => (h.alignAll _ _).bind fun _ _ h => (h.protAll _ _).bind fun _ _ h
    =>
    (h.cleanV _).bind fun _ _ h => (h.storeLanes (pre := fun s => .ok s ()) _ _ _ _ fun _ h => h).bind fun _ _ h =>
    h.countLanes m (2048 / ty.width)

theorem kop (h : s.Canon) (d : KReg) (f : State → KWord) : Out.Canon (Machine.kop d f s) :=
  h.issue fun s h => h.putK d (f s)

theorem kread (h : s.Canon) (d : Reg) (f : State → Word) : Out.Canon (Machine.kread d f s) :=
  h.issue fun _ h => (h.freeG d).bind fun _ _ h => h

/-! ## Scalar accesses -/

theorem nload (h : s.Canon) (n : Nat) (x : Bool) (d a : Reg) (i : BitVec 11) : Out.Canon (Machine.nload n x d a i s) :=
  h.loadTo ..

theorem xload (h : s.Canon) (n : Nat) (x : Bool) (o : XLoad) : Out.Canon (Machine.xload n x o s) := h.loadTo ..

theorem nstore (h : s.Canon) (n : Nat) (d a : Reg) (i : BitVec 11) :
    Out.Canon (Machine.nstore n d a i s) := h.storeFrom ..

theorem xstore (h : s.Canon) (n : Nat) (o : XStore) : Out.Canon (Machine.xstore n o s) := h.storeFrom ..

/-! ## Atomics -/

theorem amo (h : s.Canon) (fn : AmoFn) (o : AmoOp) : Out.Canon (Machine.amo fn o s) := h.amoOp ..

/-! ## Integers -/

theorem intI (h : s.Canon) (f : Word → Word → Word) (d a : Reg) (i : BitVec 11) : Out.Canon (Machine.intI f d a i s) :=
  h.int1 ..

theorem xint2 (h : s.Canon) (f : Word → Word → Word) (o : XInt) : Out.Canon (Machine.xint2 f o s) := h.xint ..

/-! ## Vector registers -/

theorem varith1 (h : s.Canon) (f : Nat) (o : V1) : Out.Canon (Machine.varith1 f o s) := h.vecOp ..
theorem varith2 (h : s.Canon) (f : Nat) (o : V2) : Out.Canon (Machine.varith2 f o s) := h.vecOp ..
theorem varith3 (h : s.Canon) (np nz : Bool) (o : V3) : Out.Canon (Machine.varith3 np nz o s) := h.vecOp ..

theorem vnative (h : s.Canon) (f : Nat) (d a b : VReg) (ty : Ty) :
    Out.Canon (Machine.vnative f d a b ty s) := h.varith2 ..

/-! ## The instructions and events with a meaning of their own -/

/-! ## Scalar accesses: instructions and events -/

theorem execPref (h : s.Canon) (m : XAddr) (h' : Hint) : Out.Canon (Machine.execPref m h' s) :=
  h.issue fun s h => (h.examine ..).bind fun s _ h => by
      grind [Res.Canon.eq_def, translate, lookup]

theorem execLoadDataArrival (h : s.Canon) (t : Target) (d : Reg) (v : Word) (pois : Bool) :
    Out.Canon (Machine.execLoadDataArrival t d v pois s) := by
  grind [Machine.execLoadDataArrival, Out.Canon, modTask]

theorem execStoreAck (h : s.Canon) (t : Target) : Out.Canon (Machine.execStoreAck t s) := by
  grind [Machine.execStoreAck, Out.Canon, modTask]

theorem execParkedStoreRetranslate (h : s.Canon) (core no : Nat) :
    Out.Canon (Machine.execParkedStoreRetranslate core no s) := by
  grind [Machine.execParkedStoreRetranslate, Out.Canon, rpqRetry]

theorem execPageWalk (h : s.Canon) (ctx : Nat) (va : Word) : Out.Canon (Machine.execPageWalk ctx va s) := by
  grind [Machine.execPageWalk, Out.Canon, tlbLoad]

/-! ## Atomics: instructions and events -/

theorem execAmoCas (h : s.Canon) (o : CasOp) : Out.Canon (Machine.execAmoCas o s) := by
  grind [Machine.execAmoCas, Out.Canon, amoOp]

theorem execAtomicAtHome (h : s.Canon) (r : AmoReq) : Out.Canon (Machine.execAtomicAtHome r s) := by
  grind [Machine.execAtomicAtHome, Out.Canon, State.Canon, post, rxArrive, doAmo]

theorem execAtomicReturn (h : s.Canon) (r : AmoReq) (old : Word) (pois : Bool) :
    Out.Canon (Machine.execAtomicReturn r old pois s) := by
  grind [Machine.execAtomicReturn, Out.Canon, modTask, post]

/-! ## Tags: instructions and events -/

theorem execWaitany (h : s.Canon) (d : Reg) (a : Src) (c : Bool) : Out.Canon (Machine.execWaitany d a c s) :=
  h.issue fun s h => (h.examine ..).bind fun s _ h => (h.freeG ..).bind fun s _ h => by
      grind [Res.Canon.eq_def, putG, modMe]

theorem execWaitall (h : s.Canon) (d : Reg) (a : Src) (c : Bool) : Out.Canon (Machine.execWaitall d a c s) :=
  h.issue fun s h => (h.examine ..).bind fun s _ h => (h.freeG ..).bind fun s _ h => by
      grind [Res.Canon.eq_def, modMe, putG]

theorem execFfrdy (h : s.Canon) (d : Reg) (a : Src) : Out.Canon (Machine.execFfrdy d a s) :=
  h.issue fun _ h => (h.examine ..).bind fun _ _ h => (h.freeG ..).bind fun _ _ h => h

theorem execTagclr (h : s.Canon) (a : Src) : Out.Canon (Machine.execTagclr a s) :=
  h.issue fun _ h => (h.examine ..).bind fun _ _ h => h

theorem execTagget (h : s.Canon) (d : Reg) (t : BitVec 6) : Out.Canon (Machine.execTagget d t s) :=
  h.issue fun _ h => (h.freeG ..).bind fun _ _ h => h

/-! ## Barriers: instructions and events -/

theorem execBarinit (h : s.Canon) (n : BitVec 3) (a b : Src) : Out.Canon (Machine.execBarinit n a b s) :=
  h.issue fun _ h => (h.examine ..).bind fun _ _ h => (h.needBar ..).bind fun _ _ h => h

theorem execBararv (h : s.Canon) (n : BitVec 3) : Out.Canon (Machine.execBararv n s) :=
  h.issue fun _ h => (h.needBar ..).bind fun _ _ h => h.waitRpq.bind fun _ _ h => h.waitAmo.bind fun _ _ h => h

theorem execBarwait (h : s.Canon) (d : Reg) (n : BitVec 3) (t : Bool) : Out.Canon (Machine.execBarwait d n t s) :=
  h.issue fun s h => (h.freeG ..).bind fun s _ h => by
      grind [Res.Canon.eq_def, barWait]

theorem execBarsync (h : s.Canon) (d : Reg) (n : BitVec 3) (t : Bool) : Out.Canon (Machine.execBarsync d n t s) :=
  h.issue fun _ h => (h.freeG _).bind fun _ _ h => .ite (h.barWait ..) ((h.needBar _).bind fun _ _ h =>
    h.waitRpq.bind fun _ _ h => h.waitAmo.bind fun _ _ h => modMe ((h.sendArrival n).modMyBar n _) _)

theorem execBarack (h : s.Canon) (n : BitVec 3) (a : Src) : Out.Canon (Machine.execBarack n a s) :=
  h.issue fun _ h => (h.examine ..).bind fun _ _ h => (h.needBar ..).bind fun _ _ h => h

theorem execBarpois (h : s.Canon) (n : BitVec 3) : Out.Canon (Machine.execBarpois n s) :=
  h.issue fun _ h => (h.needBar ..).bind fun _ _ h => h

theorem execBarstat (h : s.Canon) (d : Reg) (n : BitVec 3) : Out.Canon (Machine.execBarstat d n s) :=
  h.issue fun s h => (h.freeG ..).bind fun s _ h => (h.needBar ..).bind fun s b h => by
      grind [Res.Canon.eq_def, putLph, putG]

theorem execBarrierArrival (h : s.Canon) (ctx uid : Nat) (n rank : Nat) (phase : Bool) :
    Out.Canon (Machine.execBarrierArrival ctx uid n rank phase s) := by
  grind [Machine.execBarrierArrival, Out.Canon, modBar]

theorem execBarrierAck (h : s.Canon) (ctx uid n : Nat) : Out.Canon (Machine.execBarrierAck ctx uid n s) := by
  grind [Machine.execBarrierAck, Out.Canon, modBar]

/-! ## Branches: instructions and events -/

theorem execJr (h : s.Canon) (d a : Reg) : Out.Canon (Machine.execJr d a s) :=
  h.issueTo fun s h => (h.examine ..).bind fun s _ h => (h.freeG ..).bind fun s _ h => by
      grind [Res.Canon.eq_def, taken, putG]

theorem execDbnz (h : s.Canon) (a : Reg) (off : BitVec 11) : Out.Canon (Machine.execDbnz a off s) :=
  h.issueTo fun s h => (h.examine ..).bind fun s _ h => (h.freeG ..).bind fun s _ h => by
      grind [Res.Canon.eq_def, countMe, putG, taken]

/-! ## Copies: instructions and events -/

theorem execCpset (h : s.Canon) (i : BitVec 3) (a : Src) : Out.Canon (Machine.execCpset i a s) :=
  h.issue fun s h => (h.examine ..).bind fun s _ h => by
      grind [Res.Canon.eq_def, modMe]

theorem execCpstat (h : s.Canon) (d : Reg) (a : Src) : Out.Canon (Machine.execCpstat d a s) :=
  h.issue fun _ h => (h.examine ..).bind fun _ _ h => (h.freeG ..).bind fun _ _ h => h

theorem execCpabort (h : s.Canon) (d : Reg) (a : Src) : Out.Canon (Machine.execCpabort d a s) :=
  h.issue fun s h => (h.examine ..).bind fun s _ h => (h.freeG ..).bind fun s _ h => by
      grind [Res.Canon.eq_def, putG, abortOp, post]

theorem execCopyExecute (h : s.Canon) (e : Nat) : Out.Canon (Machine.execCopyExecute e s) := by
  grind [Machine.execCopyExecute, Out.Canon, runCopy]

theorem execCopyCompletion (h : s.Canon) (id : W32) : Out.Canon (Machine.execCopyCompletion id s) := by
  grind [Machine.execCopyCompletion, Out.Canon, complete]

theorem execCopyTrap (h : s.Canon) (ta : Nat) : Out.Canon (Machine.execCopyTrap ta s) := by
  grind [Machine.execCopyTrap, Out.Canon, raise, modSlot]

theorem execCpgo (h : s.Canon) (d : Reg) : Out.Canon (Machine.execCpgo d s) :=
  h.issue fun s h => (h.freeG ..).bind fun s _ h => h.waitRpq.bind fun s _ h => h.waitAmo.bind fun s _ h => by
      grind [Res.Canon.eq_def, modEng, countMe, modMe, complete, post, putG]

/-! ## Tasks and edges: instructions and events -/

theorem execSpawn (h : s.Canon) (d : Reg) (a : Src) : Out.Canon (Machine.execSpawn d a s) :=
  h.issue fun s h => (h.taskFirst ..).bind fun s _ h => by
      grind [Res.Canon.eq_def, spawnOn]

theorem execSpawnr (h : s.Canon) (d : Reg) (a b : Src) : Out.Canon (Machine.execSpawnr d a b s) :=
  h.issue fun s h => (h.taskFirst ..).bind fun s _ h => (h.alignAll ..).bind fun s _ h => (h.need ..).bind fun s _ h
    => by
      grind [Res.Canon.eq_def, spawnOn]

theorem execGang (h : s.Canon) (d : Reg) (a : Src) : Out.Canon (Machine.execGang d a s) :=
  h.issue fun s h => (h.taskFirst ..).bind fun s _ h => (h.alignAll ..).bind fun s _ h => (h.readRecord ..).bind fun s
    bs h => by
      grind [Res.Canon.eq_def, putG, accept]

theorem execDepset (h : s.Canon) (d : Reg) (a b : Src) : Out.Canon (Machine.execDepset d a b s) :=
  h.issue fun s h => (h.taskFirst ..).bind fun s _ h => (h.nameOk ..).bind fun s _ h => by
      grind [Res.Canon.eq_def, Res.bind.eq_def, State.Canon, putG, act]

theorem execDepdec (h : s.Canon) (a : Src) (n : BitVec 16) : Out.Canon (Machine.execDepdec a n s) :=
  h.issue fun s h => (h.taskFirst ..).bind fun s _ h => (h.nameOk ..).bind fun s _ h => by
      grind [Res.Canon.eq_def, decrement]

theorem execCancel (h : s.Canon) (d : Reg) (a : Src) (prop : Bool) : Out.Canon (Machine.execCancel d a prop s) :=
  h.issue fun s h => (h.taskFirst ..).bind fun s _ h => (h.nameOk ..).bind fun s _ h => by
      grind [Res.Canon.eq_def, putG, act, cancelled, replayEnd, unqueue]

theorem execEpush (h : s.Canon) (a b : Src) : Out.Canon (Machine.execEpush a b s) :=
  h.issue fun s h => (h.taskFirst ..).bind fun s _ h => (h.alignAll ..).bind fun s _ h => by
    grind [Res.Canon.eq_def, edgePlace, capture, pushItem]

theorem execEpop (h : s.Canon) (d : Reg) (a : Src) : Out.Canon (Machine.execEpop d a s) :=
  h.issue fun s h => (h.taskFirst ..).bind fun s _ h => (h.alignAll ..).bind fun s _ h => by
    grind [Res.Canon.eq_def, edgePlace, capture, putEdge, putG, modMe]

theorem execEdgeDeferredPush (h : s.Canon) (p : EdgePush) : Out.Canon (Machine.execEdgeDeferredPush p s) := by
  grind [Machine.execEdgeDeferredPush, Out.Canon, drop, edgePlace, putEdge, readyCons, post, pushItem]

theorem execEndTask (h : s.Canon) : Out.Canon (Machine.execEndTask s) := by
  have hr : (((s.preIssue .outer).waitRpq.bind fun s _ => s.waitAmo).bind fun s _ =>
      Machine.await (s.me.stq == 0) s).Canon :=
    ((h.preIssue .outer).waitRpq.bind fun _ _ h => h.waitAmo).bind fun _ _ h => h.await _
  unfold Machine.execEndTask
  grind [Res.Canon.eq_def, next, countIssue, endActivation, endTask, uncount, raise]

theorem execTaskStart (h : s.Canon) (core : Nat) : Out.Canon (Machine.execTaskStart core s) := by
  refine next ?_
  split
  · exact h.getD (h.startOn _ _)
  · exact h

theorem execTaskSteal (h : s.Canon) (core victim : Nat) : Out.Canon (Machine.execTaskSteal core victim s) := by
  refine next (ite h ?_)
  split
  · exact ite h (h.getD (h.startOn _ _))
  · exact h

theorem execGangPlace (h : s.Canon) (die : Nat) : Out.Canon (Machine.execGangPlace die s) := by
  refine next (h.getD fun t ht => ?_)
  obtain ⟨w, -, hw⟩ := List.exists_of_findSome?_eq_some ht
  split at hw
  · exact h.placeOne _ _ _ hw
  · cases hw

theorem execGangAgingReserve (h : s.Canon) (die : Nat) : Out.Canon (Machine.execGangAgingReserve die s) := by
  grind [Machine.execGangAgingReserve, Out.Canon, modDie]

/-! ## Collectives: instructions and events -/

theorem execCollectiveCommit (h : s.Canon) (ctx grp op : Nat) (outside : List CollPart) :
    Out.Canon (Machine.execCollectiveCommit ctx grp op outside s) := by
  refine next ?_
  split
  · exact h
  · split
    · exact h
    · split
      · exact h
      · exact foldl (fun _ _ h => h.collWrite ..) _ h

theorem execCollectiveAbort (h : s.Canon) (ctx grp op : Nat) :
    Out.Canon (Machine.execCollectiveAbort ctx grp op s) := by
  grind [Machine.execCollectiveAbort, Out.Canon, collAbort]

theorem execCollectiveWatchdog (h : s.Canon) (ctx grp op : Nat) :
    Out.Canon (Machine.execCollectiveWatchdog ctx grp op s) := by
  grind [Machine.execCollectiveWatchdog, Out.Canon, collAbort]

/-! ## Fences and messages: instructions and events -/

theorem execFence (h : s.Canon) (sc : Scope) : Out.Canon (Machine.execFence sc s) :=
  h.issue fun s h => h.waitRpq.bind fun s _ h => (h.await ..).bind fun s _ h => by
      grind [Res.Canon.eq_def, release]

theorem execIfence (h : s.Canon) : Out.Canon (Machine.execIfence s) :=
  h.issue fun s h =>  by
      grind [Res.Canon.eq_def, modQuad, countMe, modMe]

theorem execDrain (h : s.Canon) : Out.Canon (Machine.execDrain s) :=
  h.issue fun s h => h.waitRpq.bind fun s _ h => by
      grind [Res.Canon.eq_def, await]

theorem execSendam (h : s.Canon) (a b : Src) (c e : Src) (imm : W32) : Out.Canon (Machine.execSendam a b c e imm s) :=
  h.issue fun s h => (h.examine ..).bind fun s _ h => (h.need ..).bind fun s _ h => h.waitRpq.bind fun s _ h =>
    h.waitAmo.bind fun s _ h => by
      grind [Res.Canon.eq_def, await, modMe, flushMail, rxGive, rxHold]

theorem execHandlerActivationStart (h : s.Canon) (core : Nat) :
    Out.Canon (Machine.execHandlerActivationStart core s) := by
  grind [Machine.execHandlerActivationStart, Out.Canon, startActivation]

theorem execActivationRedelivery (h : s.Canon) (core : Nat) : Out.Canon (Machine.execActivationRedelivery core s) := by
  grind [Machine.execActivationRedelivery, Out.Canon, rxLeft, strandsSweep, startActivation]

theorem execRxfull (h : s.Canon) (core : Nat) : Out.Canon (Machine.execRxfull core s) := by
  grind [Machine.execRxfull, Out.Canon, modCore, modSlot, note, post]

/-! ## Integers: instructions and events -/

theorem execSel (h : s.Canon) (o : XSel) : Out.Canon (Machine.execSel o s) := by
  grind [Machine.execSel, Out.Canon, xint]

theorem execBfx (h : s.Canon) (o : XBfx) : Out.Canon (Machine.execBfx o s) := by
  grind [Machine.execBfx, Out.Canon, xint]

theorem execBfi (h : s.Canon) (o : XBfi) : Out.Canon (Machine.execBfi o s) := by
  grind [Machine.execBfi, Out.Canon, xint]

/-! ## L2 control: instructions and events -/

theorem execL2pin (h : s.Canon) (d : Reg) (a b : Src) (w : BitVec 4) : Out.Canon (Machine.execL2pin d a b w s) :=
  h.issue fun s h => (h.l2First ..).bind fun s _ h => by
      grind [Res.Canon.eq_def, pinPages, setRetain, putG]

theorem execL2unpin (h : s.Canon) (d : Reg) (a : Src) : Out.Canon (Machine.execL2unpin d a s) :=
  h.issue fun _ h => (h.l2First ..).bind fun _ _ h => (h.needRetain ..).bind fun _ _ h => h

theorem execL2stat (h : s.Canon) (d : Reg) (a : Src) (clr : Bool) : Out.Canon (Machine.execL2stat d a clr s) :=
  h.issue fun s h => (h.l2First ..).bind fun s _ h => (h.needRetain ..).bind fun s r h => by
      grind [Res.Canon.eq_def, setRetain, putG]

theorem execL2flush (h : s.Canon) (d : Reg) (a b : Src) : Out.Canon (Machine.execL2flush d a b s) :=
  h.issue fun s h => (h.l2First ..).bind fun s _ h => by
      grind [Res.Canon.eq_def, flushPages, putG]

/-! ## Presence: instructions and events -/

theorem execTake (h : s.Canon) (d a : Reg) : Out.Canon (Machine.execTake d a s) :=
  h.issue fun s h =>  by
      grind [Res.Canon.eq_def, Res.bind.eq_def, freeG, landNext, modMe]

theorem execPtest (h : s.Canon) (d a : Reg) : Out.Canon (Machine.execPtest d a s) :=
  h.issue fun _ h => (h.freeG ..).bind fun _ _ h => h

theorem execPempty (h : s.Canon) (a : Reg) : Out.Canon (Machine.execPempty a s) :=
  h.issue fun s h => (h.freeG ..).bind fun s _ h => by
      grind [Res.Canon.eq_def, landNext, modMe]

theorem execPset (h : s.Canon) (d : Reg) (p : Presence) : Out.Canon (Machine.execPset d p s) :=
  h.issue fun s h => (h.freeG ..).bind fun s _ h => by
      grind [Res.Canon.eq_def, modMe, landNext]

theorem execPut (h : s.Canon) (n : BitVec 5) (a e : Src) : Out.Canon (Machine.execPut n a e s) :=
  h.issue fun s h => (h.examine ..).bind fun s _ h => by
      grind [Res.Canon.eq_def, putDst]

theorem execRemoteWriteArrival (h : s.Canon) (w : RemWrite) : Out.Canon (Machine.execRemoteWriteArrival w s) := by
  grind [Machine.execRemoteWriteArrival, Out.Canon, rxArrive]

/-! ## Settle instructions: instructions and events -/

theorem execSfcfg (h : s.Canon) (d : Reg) (a b : Src) : Out.Canon (Machine.execSfcfg d a b s) := by
  grind [Machine.execSfcfg, Out.Canon, sf, imagePlaces, sfOperand, sfAnswer, modRegion]

theorem execSfscl (h : s.Canon) (d : Reg) (a b : Src) (e : BitVec 6) : Out.Canon (Machine.execSfscl d a b e s) :=
  h.sf _ _ _ (fun _ _ h => .ite h (h.sfPlaces ..)) fun _ _ _ _ h =>
    ite ((h.modRegion ..).sfAnswer ..) (h.sfOperand _ _ fun _ _ h => (h.modRegion ..).sfAnswer ..)

theorem execSfbias (h : s.Canon) (d : Reg) (a b : Src) (i16 : Bool) (sc : BitVec 7) :
    Out.Canon (Machine.execSfbias d a b i16 sc s) := by
  grind [Machine.execSfbias, Out.Canon, sf, sfPlaces, sfOperand, sfAnswer, modRegion]

theorem execSfseed (h : s.Canon) (d : Reg) (a b : Src) : Out.Canon (Machine.execSfseed d a b s) := by
  grind [Machine.execSfseed, Out.Canon, sf, seedPlaces, sfOperand, sfAnswer, modRegion]

theorem execSfrun (h : s.Canon) (d : Reg) (a : Src) : Out.Canon (Machine.execSfrun d a s) := by
  grind [Machine.execSfrun, Out.Canon, sf, noPlaces, modRegion, sfAnswer, post]

theorem execSfwait (h : s.Canon) (d : Reg) (a : Src) (t : Bool) : Out.Canon (Machine.execSfwait d a t s) :=
  h.issue fun s h => (h.examine ..).bind fun s _ h => (h.freeG ..).bind fun s _ h => (h.sfRegion ..).bind fun s r h =>
    h.waitRpq.bind fun s _ h => h.waitAmo.bind fun s _ h => (h.await ..).bind fun s _ h => by
      grind [Res.Canon.eq_def, putG, countMe, sfClaim]

theorem execSfsmp (h : s.Canon) (d : Reg) (a b : Src) (fp32 : Bool) : Out.Canon (Machine.execSfsmp d a b fp32 s) := by
  grind [Machine.execSfsmp, Out.Canon, foldl, sf, sfPlaces, modRegion, writePartial, opMark, sfAnswer]

theorem execSfhalt (h : s.Canon) (d : Reg) (a : Src) : Out.Canon (Machine.execSfhalt d a s) := by
  grind [Machine.execSfhalt, Out.Canon, sf, noPlaces, sfAnswer, haltRegion]

theorem execSfstat (h : s.Canon) (d : Reg) (a : Src) : Out.Canon (Machine.execSfstat d a s) :=
  h.issue fun s h => (h.examine ..).bind fun s _ h => (h.freeG ..).bind fun s _ h => (h.sfRegion ..).bind fun s r h =>
    h.waitRpq.bind fun s _ h => h.waitAmo.bind fun s _ h => by
      grind [Res.Canon.eq_def, sfAnswer]

theorem execSfdln (h : s.Canon) (d : Reg) (a b c : Src) : Out.Canon (Machine.execSfdln d a b c s) := by
  grind [Machine.execSfdln, Out.Canon, sf, sfPlaces, sfAnswer, modMe]

theorem execSfacpt (h : s.Canon) (d : Reg) (a b : Src) : Out.Canon (Machine.execSfacpt d a b s) :=
  h.issue fun _ h => .ite (h.await _) ((h.examine _).bind fun _ _ h => (h.freeG _).bind fun _ _ h =>
    (h.sfRegion _).bind fun _ _ h => (h.sfPlaces ..).bind fun _ _ h => h.waitRpq.bind fun _ _ h =>
    h.waitAmo.bind fun _ _ h => (h.await _).bind fun _ _ h => .ite (modMe (h.sfAnswer ..) _)
      (.ite (modMe ((h.sfClaim _).sfAnswer ..) _)
        (modMe ((h.sfClaim _).sfOperand _ _ fun _ _ h => (h.modRegion ..).sfAnswer ..) _)))

theorem execSfrel (h : s.Canon) (d : Reg) (a : Src) : Out.Canon (Machine.execSfrel d a s) := by
  grind [Machine.execSfrel, Out.Canon, sf, noPlaces, sfAnswer, endClaim]

theorem execSfReply (h : s.Canon) (t : Target) (d : Reg) (value : Word) (pois : Bool) (smp : Option (Nat × Nat)) :
    Out.Canon (Machine.execSfReply t d value pois smp s) := by
  refine next (modTask ?_ _ _)
  split
  · exact h
  · split
    · exact h
    · split
      · exact h
      · exact (foldl (fun _ _ h => h.writeRun _ _) _ h).modRegion _ _

theorem execSettleSaturation (h : s.Canon) (ctx reg : Nat) (states : List Int) :
    Out.Canon (Machine.execSettleSaturation ctx reg states s) := by
  grind [Machine.execSettleSaturation, Out.Canon, modRegion, endRun]

theorem execSettleCertify (h : s.Canon) (ctx reg : Nat) (states : List Int) :
    Out.Canon (Machine.execSettleCertify ctx reg states s) := by
  grind [Machine.execSettleCertify, Out.Canon, endRun]

theorem execSettleTimeout (h : s.Canon) (ctx reg : Nat) (states : List Int) :
    Out.Canon (Machine.execSettleTimeout ctx reg states s) := by
  grind [Machine.execSettleTimeout, Out.Canon, endRun]

theorem execSettleConfigError (h : s.Canon) (ctx reg blk : Nat) :
    Out.Canon (Machine.execSettleConfigError ctx reg blk s) := by
  grind [Machine.execSettleConfigError, Out.Canon, poisonSamples, modRegion, haltRegion, report]

theorem execDeadlineFire (h : s.Canon) (ta : Nat) : Out.Canon (Machine.execDeadlineFire ta s) := by
  grind [Machine.execDeadlineFire, Out.Canon, modTask, fireRegion]

theorem execDeadlineDiversion (h : s.Canon) (ta : Nat) : Out.Canon (Machine.execDeadlineDiversion ta s) := by
  grind [Machine.execDeadlineDiversion, Out.Canon, modSlot, leaveWait, raise]

/-! ## Moves of strands: instructions and events -/

theorem execSopen (h : s.Canon) (d : Reg) (a : Src) (sz : BitVec 3) (l : BitVec 4) :
    Out.Canon (Machine.execSopen d a sz l s) :=
  h.issue fun s h => (h.examine ..).bind fun s _ h => (h.freeG ..).bind fun s _ h => (h.freeG ..).bind fun s _ h =>
    (h.checkRing ..).bind fun s off h => (h.taskOnly ..).bind fun s _ h => by
      grind [Res.Canon.eq_def, putG, putStrand]

theorem execSsend (h : s.Canon) (d : Reg) (a : Src) (item : SendItem) : Out.Canon (Machine.execSsend d a item s) :=
  h.issue fun _ h => (h.examine ..).bind fun _ _ h => (h.freeG ..).bind fun _ _ h => h.waitRpq.bind fun _ _ h =>
    h.waitAmo.bind fun _ _ h => (h.useEnd ..).bind fun _ _ h => (h.need ..).bind fun _ _ h => (h.sendValue ..).bind
    fun _ _ h => (h.sendItem ..).bind fun _ _ h => h

theorem execSpass (h : s.Canon) (d : Reg) (a b : Src) : Out.Canon (Machine.execSpass d a b s) :=
  h.issue fun s h => (h.examine ..).bind fun s _ h => (h.freeG ..).bind fun s _ h => h.waitRpq.bind fun s _ h =>
    h.waitAmo.bind fun s _ h => (h.taskOnly ..).bind fun s _ h => (h.useEnd ..).bind fun s x h => (h.useEnd ..).bind
    fun s y h => (h.need ..).bind fun s _ h => (h.await ..).bind fun s _ h => (h.sendItem ..).bind fun s sent h => by
      grind [Res.Canon.eq_def, depart]

theorem execSrecv (h : s.Canon) (d : Reg) (a : Src) (item : RecvItem) : Out.Canon (Machine.execSrecv d a item s) :=
  h.issue fun s h => .ite h (.ite h ((h.examine _).bind fun s _ h => (h.freeRecv _ _).bind fun s _ h =>
    (h.useEnd _ _).bind fun s x h => (h.need _ _ _).bind fun s _ h => by
      have hy : (match item with
          | .g => s.modMe fun sl => (sl.pendG d).pendG (d + 1)
          | .v _ => s.modMe fun sl => { sl with sending := true }).Canon := by
        split <;> exact h
      exact .ite ((hy.putStrand _).serve _) ((hy.putStrand _).serve _)))

theorem execSpoll (h : s.Canon) (d : Reg) (a : Src) (item : RecvItem) : Out.Canon (Machine.execSpoll d a item s) :=
  h.issue fun s h => (h.examine ..).bind fun s _ h => (h.freeRecv ..).bind fun s _ h => (h.useEnd ..).bind fun s x h
    => (h.need ..).bind fun s _ h => by
      grind [Res.Canon.eq_def, takeOne, serve, putStrand, modMe, putG]

theorem execSaccept (h : s.Canon) (d : Reg) (a b : Src) : Out.Canon (Machine.execSaccept d a b s) :=
  h.issue fun _ h => (h.examine _).bind fun _ _ h => (h.freeG _).bind fun _ _ h => (h.findEnd _).bind fun s _ h =>
    (Res.Canon.ite (q := .ok s 0) (h.checkRing ..) h).bind fun _ _ h => (h.taskOnly _).bind fun _ _ h => (h.need _ _ _).bind fun _ _ h =>
    (h.await _).bind fun _ _ h => putG (h.bindEnd ..) _ _

theorem execSclose (h : s.Canon) (a : Src) : Out.Canon (Machine.execSclose a s) :=
  h.issue fun s h => (h.examine ..).bind fun s _ h => (h.taskOnly ..).bind fun s _ h => (h.useEnd ..).bind fun s x h
    => by
      grind [Res.Canon.eq_def, closeEnd]

theorem execSstat (h : s.Canon) (d : Reg) (a : Src) : Out.Canon (Machine.execSstat d a s) :=
  h.issue fun s h => (h.examine ..).bind fun s _ h => (h.freeG ..).bind fun s _ h => (h.need ..).bind fun s _ h => by
      grind [Res.Canon.eq_def, putG]

theorem execSwatch (h : s.Canon) (a : Src) (t : BitVec 6) : Out.Canon (Machine.execSwatch a t s) :=
  h.issue fun s h => (h.examine ..).bind fun s _ h => (h.useEnd ..).bind fun s x h => by
      grind [Res.Canon.eq_def, fireWatch, putStrand]

theorem execSflush (h : s.Canon) (d : Reg) (a : Src) : Out.Canon (Machine.execSflush d a s) :=
  h.issue fun _ h => (h.examine ..).bind fun _ _ h => (h.freeG ..).bind fun _ _ h => (h.useEnd ..).bind fun _ _ h =>
    (h.await ..).bind fun _ _ h => h

theorem execStrandItemArrival (h : s.Canon) (ctx entry : Nat) (it : StrandItem) :
    Out.Canon (Machine.execStrandItemArrival ctx entry it s) := by
  grind [Machine.execStrandItemArrival, Out.Canon, putStrand, serve, orphan]

theorem execStrandCreditReturn (h : s.Canon) (ctx entry : Nat) :
    Out.Canon (Machine.execStrandCreditReturn ctx entry s) := by
  grind [Machine.execStrandCreditReturn, Out.Canon, putStrand]

theorem execStrandMoveRequest (h : s.Canon) (ctx entry : Nat) (sink : Bool) :
    Out.Canon (Machine.execStrandMoveRequest ctx entry sink s) := by
  grind [Machine.execStrandMoveRequest, Out.Canon, bindAway, putStrand, post]

theorem execStrandStopperArrival (h : s.Canon) (ctx entry : Nat) :
    Out.Canon (Machine.execStrandStopperArrival ctx entry s) := by
  grind [Machine.execStrandStopperArrival, Out.Canon, serve, putStrand]

theorem execStrandRouteSwitch (h : s.Canon) (ctx entry : Nat) :
    Out.Canon (Machine.execStrandRouteSwitch ctx entry s) := by
  grind [Machine.execStrandRouteSwitch, Out.Canon, post, putStrand]

theorem execStrandFray (h : s.Canon) (ctx entry : Nat) : Out.Canon (Machine.execStrandFray ctx entry s) := by
  grind [Machine.execStrandFray, Out.Canon, peerGone, putStrand]

/-! ## Lashed pairs: instructions and events -/

theorem execTrap (h : s.Canon) (imm : W32) : Out.Canon (Machine.execTrap imm s) :=
  h.issue fun _ h =>  h

theorem execRdsr (h : s.Canon) (d : Reg) (i : BitVec 6) : Out.Canon (Machine.execRdsr d i s) :=
  h.issue fun s h =>  by
      grind [Res.Canon.eq_def, Res.bind.eq_def, freeG, post, modMe, putG]

theorem execWrsr (h : s.Canon) (i : BitVec 6) (a : Src) : Out.Canon (Machine.execWrsr i a s) :=
  h.issue fun s h =>  by
      grind [Res.Canon.eq_def, Res.bind.eq_def, examine, modMe]

theorem execPair (h : s.Canon) (d : Reg) : Out.Canon (Machine.execPair d s) :=
  h.issue fun s h => (h.need ..).bind fun s _ h => (h.freeG ..).bind fun s _ h => h.waitRpq.bind fun s _ h =>
    h.waitAmo.bind fun s _ h => (h.await ..).bind fun s _ h => by
      grind [Res.Canon.eq_def, Res.bind.eq_def, State.Canon, putG, moveTask, modMe, setSlot]

theorem execUnpair (h : s.Canon) (d : Reg) : Out.Canon (Machine.execUnpair d s) :=
  h.issue fun s h => (h.need ..).bind fun s _ h => (h.freeG ..).bind fun s _ h => by
      grind [Res.Canon.eq_def, Res.bind.eq_def, State.Canon, putG, setSlot, modMe]

theorem execPmcfg (h : s.Canon) (d : Reg) (n : BitVec 2) (a : Src) : Out.Canon (Machine.execPmcfg d n a s) := by
  have hr : (((s.preIssue .inner).examine [a]).bind fun s _ => s.freeG d).Canon :=
    ((h.preIssue .inner).examine _).bind fun _ _ h => h.freeG _
  unfold Machine.execPmcfg
  split
  next hs => rw [hs] at hr; exact next hr
  next hs => rw [hs] at hr; exact next ((uncount hr _).raise ..)
  next hs =>
    rw [hs] at hr
    grind [Res.Canon.eq_def, next, countIssue, retireTo, putG, modCore]

theorem execPmrd (h : s.Canon) (d : Reg) (n : BitVec 2) : Out.Canon (Machine.execPmrd d n s) :=
  h.issue fun _ h => (h.await ..).bind fun _ _ h => h

theorem execMark (h : s.Canon) (a : Src) (imm : W32) : Out.Canon (Machine.execMark a imm s) :=
  h.issue fun s h => (h.examine ..).bind fun s _ h => by
      grind [Res.Canon.eq_def, note]

/-! ## Vector registers: instructions and events -/

theorem execVsel (h : s.Canon) (o : VSelOp) : Out.Canon (Machine.execVsel o s) := by
  grind [Machine.execVsel, Out.Canon, vecOp]

theorem execVcvt (h : s.Canon) (o : VCvtOp) : Out.Canon (Machine.execVcvt o s) :=
  h.issue fun s h =>  by
      grind [Res.Canon.eq_def, putFp, putV, countLanes]

theorem execVperm (h : s.Canon) (o : VPermOp) : Out.Canon (Machine.execVperm o s) := by
  grind [Machine.execVperm, Out.Canon, vecOp]

theorem execVslide (h : s.Canon) (o : VSlideOp) : Out.Canon (Machine.execVslide o s) := by
  grind [Machine.execVslide, Out.Canon, vecOp]

theorem execViota (h : s.Canon) (o : VIotaOp) : Out.Canon (Machine.execViota o s) := by
  grind [Machine.execViota, Out.Canon, vecOp]

theorem execVbcast (h : s.Canon) (o : VBcastOp) : Out.Canon (Machine.execVbcast o s) :=
  h.issue fun s h => (h.examine ..).bind fun s _ h => by
      grind [Res.Canon.eq_def, putLanes, countLanes]

theorem execVextr (h : s.Canon) (o : VExtrOp) : Out.Canon (Machine.execVextr o s) :=
  h.issue fun s h => (h.examine ..).bind fun s _ h => (h.freeG ..).bind fun s _ h => by
      grind [Res.Canon.eq_def, modMe, countMe]

theorem execVins (h : s.Canon) (o : VInsOp) : Out.Canon (Machine.execVins o s) :=
  h.issue fun s h => (h.examine ..).bind fun s _ h => by
      grind [Res.Canon.eq_def, putV, countMe]

theorem execVldb (h : s.Canon) (o : VMem1) : Out.Canon (Machine.execVldb o s) := by
  grind [Machine.execVldb, Out.Canon, vload]

theorem execKset (h : s.Canon) (d : KReg) (a : Src) (count : W32) : Out.Canon (Machine.execKset d a count s) :=
  h.issue fun _ h => (h.examine ..).bind fun _ _ h => h

theorem execKget (h : s.Canon) (d : Reg) (a : KReg) (j : BitVec 2) : Out.Canon (Machine.execKget d a j s) := by
  grind [Machine.execKget, Out.Canon, kread]

theorem execKpopc (h : s.Canon) (d : Reg) (a : KReg) : Out.Canon (Machine.execKpopc d a s) := by
  grind [Machine.execKpopc, Out.Canon, kread]

theorem execKfirst (h : s.Canon) (d : Reg) (a : KReg) : Out.Canon (Machine.execKfirst d a s) := by
  grind [Machine.execKfirst, Out.Canon, kread]

/-! ## Accumulators: instructions and events -/

theorem execMma (h : s.Canon) (o : MmaOp) : Out.Canon (Machine.execMma o s) :=
  h.issue fun s h => (h.examine ..).bind fun s _ h => (h.mmaAlign ..).bind fun s _ h => (h.mmaAlign ..).bind fun s _ h
    => by
      grind [Res.Canon.eq_def, Res.bind.eq_def, cleanV, setFlags, putAcc, countMe]

theorem execAclr (h : s.Canon) (d : AReg) : Out.Canon (Machine.execAclr d s) :=
  h.issue fun _ h =>  h

theorem execAld (h : s.Canon) (o : AccMem) : Out.Canon (Machine.execAld o s) :=
  h.issue fun s h => (h.examine ..).bind fun s _ h => by
      grind [Res.Canon.eq_def, Res.bind.eq_def, alignAll, loadLanes, putAcc]

theorem execAst (h : s.Canon) (o : AccMem) : Out.Canon (Machine.execAst o s) :=
  h.issue fun s h => (h.examine ..).bind fun s _ h => (h.alignAll ..).bind fun s _ h => by
      grind [Res.Canon.eq_def, storeLanes]

theorem execAmov (h : s.Canon) (o : AMovOp) : Out.Canon (Machine.execAmov o s) :=
  h.issue fun s h =>  by
      grind [Res.Canon.eq_def, Res.bind.eq_def, putV, cleanV, putAcc]

theorem execGgset (h : s.Canon) (a : Src) (field : BitVec 3) : Out.Canon (Machine.execGgset a field s) :=
  h.issue fun _ h => (h.examine ..).bind fun _ _ h => h

theorem execGgrng (h : s.Canon) (d : Reg) (a : Src) (axis : Bool) : Out.Canon (Machine.execGgrng d a axis s) :=
  h.issue fun _ h => (h.examine ..).bind fun _ _ h => (h.freeG ..).bind fun _ _ h => h

theorem execGgmask (h : s.Canon) (o : GgMaskOp) : Out.Canon (Machine.execGgmask o s) :=
  h.issue fun _ h => (h.examine ..).bind fun _ _ h => h

/-! ## Splice copies: instructions and events -/

theorem execSplload (h : s.Canon) (a : Src) : Out.Canon (Machine.execSplload a s) :=
  h.issue fun s h => (h.examine ..).bind fun s _ h => (h.need ..).bind fun s _ h => by
      grind [Res.Canon.eq_def, Res.bind.eq_def, modMe, readTable, useCopy]

theorem execSplget (h : s.Canon) (d : Reg) (a : Src) : Out.Canon (Machine.execSplget d a s) :=
  h.issue fun _ h => (h.examine ..).bind fun _ _ h => (h.freeG ..).bind fun _ _ h => (h.freeG ..).bind fun _ _ h => h

theorem execIllegalWord (h : s.Canon) : Out.Canon (Machine.execIllegalWord s) := by
  grind [Machine.execIllegalWord, Out.Canon, raise]

/-! ## The service of faults: instructions and events -/

theorem execSvcCreditWrite (h : s.Canon) (total : Word) : Out.Canon (Machine.execSvcCreditWrite total s) := by
  obtain ⟨t, ht⟩ := exec_next (.svcCreditWrite total) s
  have ht : Machine.execSvcCreditWrite total s = .next t := ht
  rw [ht]
  exact h.svcCreditWrite total t ht

theorem execResume (h : s.Canon) (ta : Nat) : Out.Canon (Machine.execResume ta s) := by
  grind [Machine.execResume, Out.Canon, doResume]

theorem execSkip (h : s.Canon) (ta : Nat) : Out.Canon (Machine.execSkip ta s) := by
  grind [Machine.execSkip, Out.Canon, doSkip]

theorem execGoto (h : s.Canon) (ta : Nat) : Out.Canon (Machine.execGoto ta s) := by
  grind [Machine.execGoto, Out.Canon, doGoto]

theorem execFcont (h : s.Canon) (ta : Nat) : Out.Canon (Machine.execFcont ta s) := by
  grind [Machine.execFcont, Out.Canon, doFcont]

theorem execKillt (h : s.Canon) (ta : Nat) : Out.Canon (Machine.execKillt ta s) := by
  grind [Machine.execKillt, Out.Canon, doKillt]

theorem execKillg (h : s.Canon) (ta : Nat) : Out.Canon (Machine.execKillg ta s) := by
  grind [Machine.execKillg, Out.Canon, doKillg]

theorem execKillc (h : s.Canon) (ta : Nat) : Out.Canon (Machine.execKillc ta s) := by
  grind [Machine.execKillc, Out.Canon, doKillc]

theorem execReplay (h : s.Canon) (ta : Nat) : Out.Canon (Machine.execReplay ta s) := by
  grind [Machine.execReplay, Out.Canon, doReplay]

theorem execAbandon (h : s.Canon) (ta : Nat) : Out.Canon (Machine.execAbandon ta s) := by
  grind [Machine.execAbandon, Out.Canon, doAbandon]

theorem execGrow (h : s.Canon) (ta : Nat) : Out.Canon (Machine.execGrow ta s) := by
  grind [Machine.execGrow, Out.Canon, doGrow]

theorem execFbclr (h : s.Canon) (ta : Nat) : Out.Canon (Machine.execFbclr ta s) := by
  grind [Machine.execFbclr, Out.Canon, doFbclr]

theorem execFaultService (h : s.Canon) (p : Packet) : Out.Canon (Machine.execFaultService p s) := by
  have hf (c : Ctx) := h.pageFill c p.faddr
  refine next ?_
  grind [faultC0, service, replayEntry, doResume, abandonEntry]

/-! ## The commands of the host: instructions and events -/

theorem execCtxCreate (h : s.Canon) : Out.Canon (Machine.execCtxCreate s) := by
  grind [Machine.execCtxCreate, Out.Canon, cmdDone, createCtx]

theorem execCtxKill (h : s.Canon) : Out.Canon (Machine.execCtxKill s) := by
  grind [Machine.execCtxKill, Out.Canon, cmdDone, killCtx]

theorem execInval (h : s.Canon) : Out.Canon (Machine.execInval s) := by
  grind [Machine.execInval, Out.Canon, State.Canon, cmdDone, post, pairsExchange, invalRange]

theorem execLaunchOpen (h : s.Canon) : Out.Canon (Machine.execLaunchOpen s) := by
  grind [Machine.execLaunchOpen, Out.Canon, cmdDone, modWin]

theorem execLaunchClose (h : s.Canon) : Out.Canon (Machine.execLaunchClose s) := by
  grind [Machine.execLaunchClose, Out.Canon, cmdDone, modWin]

theorem execLaunchItemSend (h : s.Canon) (i : Nat) : Out.Canon (Machine.execLaunchItemSend i s) := by
  grind [Machine.execLaunchItemSend, Out.Canon, launchSend]

theorem execLaunchItemApproval (h : s.Canon) (i : Nat) (ok : Bool) :
    Out.Canon (Machine.execLaunchItemApproval i ok s) := by
  grind [Machine.execLaunchItemApproval, Out.Canon, modWin]

theorem execLaunchItemAccept (h : s.Canon) (i : Nat) : Out.Canon (Machine.execLaunchItemAccept i s) := by
  grind [Machine.execLaunchItemAccept, Out.Canon, modWin, acceptItem]

theorem execSvcRing (h : s.Canon) : Out.Canon (Machine.execSvcRing s) := by
  grind [Machine.execSvcRing, Out.Canon, State.Canon, cmdDone, svcRun]

theorem execDuty (h : s.Canon) : Out.Canon (Machine.execDuty s) := by
  grind [Machine.execDuty, Out.Canon, State.Canon, cmdDone]

theorem execDevLost (h : s.Canon) : Out.Canon (Machine.execDevLost s) := by
  grind [Machine.execDevLost, Out.Canon, cmdDone, loseDevice]

theorem execDeviceLostTimeout (h : s.Canon) (dev : Nat) : Out.Canon (Machine.execDeviceLostTimeout dev s) := by
  grind [Machine.execDeviceLostTimeout, Out.Canon, loseDevice]

theorem execLyongSetup (h : s.Canon) : Out.Canon (Machine.execLyongSetup s) := by
  grind [Machine.execLyongSetup, Out.Canon, State.Canon, cmdDone]

theorem execLyongPortTraining (h : s.Canon) (port : Nat) (up : Bool) :
    Out.Canon (Machine.execLyongPortTraining port up s) := next (h.withHost _)

theorem execStrandWire (h : s.Canon) : Out.Canon (Machine.execStrandWire s) := by
  grind [Machine.execStrandWire, Out.Canon, cmdDone, putStrand]

theorem execStrandFree (h : s.Canon) : Out.Canon (Machine.execStrandFree s) := by
  grind [Machine.execStrandFree, Out.Canon, cmdDone, closeLive, freeStrand]

theorem execThaw (h : s.Canon) : Out.Canon (Machine.execThaw s) := by
  grind [Machine.execThaw, Out.Canon, cmdDone, modCtx]

theorem execDbgMap (h : s.Canon) : Out.Canon (Machine.execDbgMap s) := by
  grind [Machine.execDbgMap, Out.Canon, State.Canon, cmdDone]

theorem execUnknownCommand (h : s.Canon) : Out.Canon (Machine.execUnknownCommand s) := by
  grind [Machine.execUnknownCommand, Out.Canon, cmdDone]

theorem execHostMemAccess (h : s.Canon) (write : Bool) (pa : Word) (bytes : List Byte) :
    Out.Canon (Machine.execHostMemAccess write pa bytes s) := by
  grind [Machine.execHostMemAccess, Out.Canon, outsideWrite]

theorem execPeerMemAccess (h : s.Canon) (dev : Nat) (write : Bool) (pa : Word) (bytes : List Byte) :
    Out.Canon (Machine.execPeerMemAccess dev write pa bytes s) := by
  grind [Machine.execPeerMemAccess, Out.Canon, outsideWrite]

theorem execSpdmRequest (h : s.Canon) (code : Nat) : Out.Canon (Machine.execSpdmRequest code s) := next (h.withHost _)

/-! ## Trace and replay: instructions and events -/

theorem execTraceRecord (h : s.Canon) (r : TraceRec) (time : Nat) : Out.Canon (Machine.execTraceRecord r time s) := by
  grind [Machine.execTraceRecord, Out.Canon, ringWrite, modTrace, debugStop]

theorem execTraceEnable (h : s.Canon) : Out.Canon (Machine.execTraceEnable s) := by
  grind [Machine.execTraceEnable, Out.Canon, traceOn]

theorem execTraceClear (h : s.Canon) : Out.Canon (Machine.execTraceClear s) := by
  grind [Machine.execTraceClear, Out.Canon, traceClr]

theorem execTraceResume (h : s.Canon) : Out.Canon (Machine.execTraceResume s) := by
  grind [Machine.execTraceResume, Out.Canon, traceGo]

theorem execTraceTailWrite (h : s.Canon) (value : Word) : Out.Canon (Machine.execTraceTailWrite value s) := by
  grind [Machine.execTraceTailWrite, Out.Canon, traceTail]

theorem execLinkGridSnapshot (h : s.Canon) : Out.Canon (Machine.execLinkGridSnapshot s) := by
  grind [Machine.execLinkGridSnapshot, Out.Canon, State.Canon, dmaWrite]

theorem execReplayRunGo (h : s.Canon) : Out.Canon (Machine.execReplayRunGo s) := by
  grind [Machine.execReplayRunGo, Out.Canon, replayGo]

theorem execReplayPassComplete (h : s.Canon) : Out.Canon (Machine.execReplayPassComplete s) := by
  grind [Machine.execReplayPassComplete, Out.Canon, modReplay, mismatch, putResult, replayStop, passStart]

theorem execReplayEnforceTimeout (h : s.Canon) (key : Nat) : Out.Canon (Machine.execReplayEnforceTimeout key s) := by
  grind [Machine.execReplayEnforceTimeout, Out.Canon, modReplay, mismatch]

/-! ## Pre-emption: instructions and events -/

theorem execPreempt (h : s.Canon) : Out.Canon (Machine.execPreempt s) := by
  grind [Machine.execPreempt, Out.Canon, State.Canon, cmdDone]

theorem execBudgetExpiry (h : s.Canon) (ta : Nat) : Out.Canon (Machine.execBudgetExpiry ta s) := by
  grind [Machine.execBudgetExpiry, Out.Canon, forceStop, raise]

theorem execUnitResume (h : s.Canon) (ctx : Nat) (addr : Word) : Out.Canon (Machine.execUnitResume ctx addr s) := by
  grind [Machine.execUnitResume, Out.Canon, resumeIn]

/-! ## Images: instructions and events -/

theorem execQuiesce (h : s.Canon) : Out.Canon (Machine.execQuiesce s) := by
  grind [Machine.execQuiesce, Out.Canon, foldl, cmdDone, quiesceStep, modCtx, post]

theorem execUnquiesce (h : s.Canon) : Out.Canon (Machine.execUnquiesce s) := by
  grind [Machine.execUnquiesce, Out.Canon, foldl, cmdDone, releaseCopy, setCtx]

theorem execImageWrite (h : s.Canon) : Out.Canon (Machine.execImageWrite s) := by
  grind [Machine.execImageWrite, Out.Canon, cmdDone, outsideWrite]

theorem execImageRestore (h : s.Canon) : Out.Canon (Machine.execImageRestore s) := by
  grind [Machine.execImageRestore, Out.Canon, cmdDone, restoreAll]

/-! ## Errors, power and heat: instructions and events -/

theorem execErrorDetected (h : s.Canon) (e : ErrReport) : Out.Canon (Machine.execErrorDetected e s) := by
  grind [Machine.execErrorDetected, Out.Canon, record, service, poisonAt, histAdd, urgentKill, retireWeak, fenceUnit]

theorem execLashedExchange (h : s.Canon) (ta : Nat) : Out.Canon (Machine.execLashedExchange ta s) := by
  grind [Machine.execLashedExchange, Out.Canon, exchange, rollback]

theorem execRetireGo (h : s.Canon) (base : Nat) : Out.Canon (Machine.execRetireGo base s) := by
  grind [Machine.execRetireGo, Out.Canon, retireRun]

theorem execRetireSwitch (h : s.Canon) (base : Nat) : Out.Canon (Machine.execRetireSwitch base s) := by
  grind [Machine.execRetireSwitch, Out.Canon, reportPage, modRas, setRetBlk]

theorem execRailPowerWrite (h : s.Canon) (die row : Nat) (value : Word) :
    Out.Canon (Machine.execRailPowerWrite die row value s) := by
  grind [Machine.execRailPowerWrite, Out.Canon, railWrite]

theorem execControlInterval (h : s.Canon) (canaries : List Nat) :
    Out.Canon (Machine.execControlInterval canaries s) := by
  grind [Machine.execControlInterval, Out.Canon, modRas]

theorem execRailDroop (h : s.Canon) (die row : Nat) : Out.Canon (Machine.execRailDroop die row s) := by
  grind [Machine.execRailDroop, Out.Canon, modRow]

theorem execMarginError (h : s.Canon) (die row granule : Nat) :
    Out.Canon (Machine.execMarginError die row granule s) := by
  grind [Machine.execMarginError, Out.Canon, report, modRow]

theorem execHistogramDecay (h : s.Canon) : Out.Canon (Machine.execHistogramDecay s) := by
  grind [Machine.execHistogramDecay, Out.Canon, modRas]

theorem execQuadPowerGate (h : s.Canon) (die pq : Nat) : Out.Canon (Machine.execQuadPowerGate die pq s) := by
  grind [Machine.execQuadPowerGate, Out.Canon, modRas]

theorem execQuadWakeTest (h : s.Canon) (die pq : Nat) (failing : List Nat) :
    Out.Canon (Machine.execQuadWakeTest die pq failing s) := by
  grind [Machine.execQuadWakeTest, Out.Canon, foldl, modRas, modRow, histAdd, file, service]

theorem execThermalEmergency (h : s.Canon) : Out.Canon (Machine.execThermalEmergency s) := by
  grind [Machine.execThermalEmergency, Out.Canon, service, modRas]

theorem execThermalResume (h : s.Canon) : Out.Canon (Machine.execThermalResume s) := by
  grind [Machine.execThermalResume, Out.Canon, State.Canon, modRas, report]

theorem execThermalMove (h : s.Canon) (die vq target : Nat) : Out.Canon (Machine.execThermalMove die vq target s) := by
  grind [Machine.execThermalMove, Out.Canon, moveQuad, modRow]

theorem execPowerOnReset (_ : s.Canon) : Out.Canon (Machine.execPowerOnReset s) := next State.reset_wf

/-! ## Registers: instructions and events -/

theorem execFormatRegionWrite (h : s.Canon) (f : Nat) : Out.Canon (Machine.execFormatRegionWrite f s) := by
  grind [Machine.execFormatRegionWrite, Out.Canon, foldl, dropView, fmtChecked]

theorem execRegisterWrite (h : s.Canon) (addr : Word) (n : Nat) (value : Word) :
    Out.Canon (Machine.execRegisterWrite addr n value s) := by
  grind [Machine.execRegisterWrite, Out.Canon, loadWrite, mgmtWrite, bar0Write, launchWrite]

/-! ## Every instruction and event, and the step -/

/-- The cases are grouped by the form that gives the instruction its meaning. -/
theorem exec_of_not_spliceWord (h : s.Canon) (i : Instr) (hi : i.isSpliceWord = false) :
    Out.Canon (Machine.exec i s) := by
  cases i with dsimp only [Machine.exec]
  | ldB | ldH | ldW | ldD | ldsB | ldsH | ldsW => exact h.nload ..
  | stB | stH | stW | stD => exact h.nstore ..
  | ldBX | ldHX | ldWX | ldDX | ldsBX | ldsHX | ldsWX => exact h.xload ..
  | stBX | stHX | stWX | stDX => exact h.xstore ..
  | amoSwap | amoAdd | amoAnd | amoOr | amoXor | amoMin | amoMax | amoMinu | amoMaxu | amoFadd | amoFmin | amoFmax =>
  exact h.amo ..
  | beq | bne | blt | bltu | bge | bgeu | beqX | bneX | bltX | bltuX | bgeX | bgeuX => exact h.branchIf ..
  | br | bX => exact h.jumpTo ..
  | call | callX => exact h.callTo ..
  | creduce | callred | cbcast | cgather => exact h.collOp ..
  | add | sub | mul | mulh | mulhu | div | divu | rem | remu | and | or | xor | andn | shl | shr | sra | rol | min |
  max | minu | maxu | cmpEq | cmpNe | cmpLt | cmpLtu | cmpGe | cmpGeu => exact h.int3 ..
  | mov | clz | ctz | popc | sextB | sextH | sextW | zextB | zextH | zextW | not | brev => exact h.int1 ..
  | addi | andi | ori | xori | shli | shri | srai | cmpiEq | cmpiLt | cmpiLtu => exact h.intI ..
  | addX | subX | mulX | mulhX | mulhuX | divX | divuX | remX | remuX | andX | orX | xorX | andnX | shlX | shrX | sraX
  | rolX | minX | maxX | minuX | maxuX | cmpEqX | cmpNeX | cmpLtX | cmpLtuX | cmpGeX | cmpGeuX => exact h.xint2 ..
  | addpc | li => exact h.xint ..
  | vaddX | vsubX | vmulX | vdiv | vminX | vmaxX | vshl | vshr | vsra | vandX | vorX | vxorX | vmulh =>
    exact h.varith2 ..
  | vabs | vneg | vsqrt | vrcp | vrsq | vexp2 | vlog2 => exact h.varith1 ..
  | vfma | vfms | vfnma => exact h.varith3 ..
  | vadd | vsub | vmul | vmin | vmax | vand | vor | vxor => exact h.vnative ..
  | vcmpEq | vcmpNe | vcmpLt | vcmpLe | vcmpGt | vcmpGe | vcmpUn | vcmpLtu => exact h.vcmp ..
  | vredAdd | vredMax | vredMin | vredAnd | vredOr => exact h.vred ..
  | vld | vlds | vgath => exact h.vload ..
  | vst | vsts | vscat => exact h.vstore ..
  | kand | kor | kxor | knot => exact h.kop ..
  | pref => exact h.execPref ..
  | loadDataArrival => exact h.execLoadDataArrival ..
  | storeAck => exact h.execStoreAck ..
  | parkedStoreRetranslate => exact h.execParkedStoreRetranslate ..
  | pageWalk => exact h.execPageWalk ..
  | amoCas => exact h.execAmoCas ..
  | atomicAtHome => exact h.execAtomicAtHome ..
  | atomicReturn => exact h.execAtomicReturn ..
  | waitany => exact h.execWaitany ..
  | waitall => exact h.execWaitall ..
  | ffrdy => exact h.execFfrdy ..
  | tagclr => exact h.execTagclr ..
  | tagget => exact h.execTagget ..
  | barinit => exact h.execBarinit ..
  | bararv => exact h.execBararv ..
  | barwait => exact h.execBarwait ..
  | barsync => exact h.execBarsync ..
  | barack => exact h.execBarack ..
  | barpois => exact h.execBarpois ..
  | barstat => exact h.execBarstat ..
  | barrierArrival => exact h.execBarrierArrival ..
  | barrierAck => exact h.execBarrierAck ..
  | jr => exact h.execJr ..
  | dbnz => exact h.execDbnz ..
  | cpset => exact h.execCpset ..
  | cpstat => exact h.execCpstat ..
  | cpabort => exact h.execCpabort ..
  | copyExecute => exact h.execCopyExecute ..
  | copyCompletion => exact h.execCopyCompletion ..
  | copyTrap => exact h.execCopyTrap ..
  | cpgo => exact h.execCpgo ..
  | spawn => exact h.execSpawn ..
  | spawnr => exact h.execSpawnr ..
  | gang => exact h.execGang ..
  | depset => exact h.execDepset ..
  | depdec => exact h.execDepdec ..
  | cancel => exact h.execCancel ..
  | epush => exact h.execEpush ..
  | epop => exact h.execEpop ..
  | edgeDeferredPush => exact h.execEdgeDeferredPush ..
  | endTask => exact h.execEndTask ..
  | taskStart => exact h.execTaskStart ..
  | taskSteal => exact h.execTaskSteal ..
  | gangPlace => exact h.execGangPlace ..
  | gangAgingReserve => exact h.execGangAgingReserve ..
  | collectiveCommit => exact h.execCollectiveCommit ..
  | collectiveAbort => exact h.execCollectiveAbort ..
  | collectiveWatchdog => exact h.execCollectiveWatchdog ..
  | fence => exact h.execFence ..
  | ifence => exact h.execIfence ..
  | drain => exact h.execDrain ..
  | sendam => exact h.execSendam ..
  | handlerActivationStart => exact h.execHandlerActivationStart ..
  | activationRedelivery => exact h.execActivationRedelivery ..
  | rxfull => exact h.execRxfull ..
  | sel => exact h.execSel ..
  | bfx => exact h.execBfx ..
  | bfi => exact h.execBfi ..
  | l2pin => exact h.execL2pin ..
  | l2unpin => exact h.execL2unpin ..
  | l2stat => exact h.execL2stat ..
  | l2flush => exact h.execL2flush ..
  | take => exact h.execTake ..
  | ptest => exact h.execPtest ..
  | pempty => exact h.execPempty ..
  | pset => exact h.execPset ..
  | put => exact h.execPut ..
  | remoteWriteArrival => exact h.execRemoteWriteArrival ..
  | sfcfg => exact h.execSfcfg ..
  | sfscl => exact h.execSfscl ..
  | sfbias => exact h.execSfbias ..
  | sfseed => exact h.execSfseed ..
  | sfrun => exact h.execSfrun ..
  | sfwait => exact h.execSfwait ..
  | sfsmp => exact h.execSfsmp ..
  | sfhalt => exact h.execSfhalt ..
  | sfstat => exact h.execSfstat ..
  | sfdln => exact h.execSfdln ..
  | sfacpt => exact h.execSfacpt ..
  | sfrel => exact h.execSfrel ..
  | sfReply => exact h.execSfReply ..
  | settleSaturation => exact h.execSettleSaturation ..
  | settleCertify => exact h.execSettleCertify ..
  | settleTimeout => exact h.execSettleTimeout ..
  | settleConfigError => exact h.execSettleConfigError ..
  | deadlineFire => exact h.execDeadlineFire ..
  | deadlineDiversion => exact h.execDeadlineDiversion ..
  | sopen => exact h.execSopen ..
  | ssend => exact h.execSsend ..
  | spass => exact h.execSpass ..
  | srecv => exact h.execSrecv ..
  | spoll => exact h.execSpoll ..
  | saccept => exact h.execSaccept ..
  | sclose => exact h.execSclose ..
  | sstat => exact h.execSstat ..
  | swatch => exact h.execSwatch ..
  | sflush => exact h.execSflush ..
  | strandItemArrival => exact h.execStrandItemArrival ..
  | strandCreditReturn => exact h.execStrandCreditReturn ..
  | strandMoveRequest => exact h.execStrandMoveRequest ..
  | strandStopperArrival => exact h.execStrandStopperArrival ..
  | strandRouteSwitch => exact h.execStrandRouteSwitch ..
  | strandFray => exact h.execStrandFray ..
  | trap => exact h.execTrap ..
  | rdsr => exact h.execRdsr ..
  | wrsr => exact h.execWrsr ..
  | pair => exact h.execPair ..
  | unpair => exact h.execUnpair ..
  | pmcfg => exact h.execPmcfg ..
  | pmrd => exact h.execPmrd ..
  | mark => exact h.execMark ..
  | vsel => exact h.execVsel ..
  | vcvt => exact h.execVcvt ..
  | vperm => exact h.execVperm ..
  | vslide => exact h.execVslide ..
  | viota => exact h.execViota ..
  | vbcast => exact h.execVbcast ..
  | vextr => exact h.execVextr ..
  | vins => exact h.execVins ..
  | vldb => exact h.execVldb ..
  | kset => exact h.execKset ..
  | kget => exact h.execKget ..
  | kpopc => exact h.execKpopc ..
  | kfirst => exact h.execKfirst ..
  | mma => exact h.execMma ..
  | aclr => exact h.execAclr ..
  | ald => exact h.execAld ..
  | ast => exact h.execAst ..
  | amov => exact h.execAmov ..
  | ggset => exact h.execGgset ..
  | ggrng => exact h.execGgrng ..
  | ggmask => exact h.execGgmask ..
  | splload => exact h.execSplload ..
  | splget => exact h.execSplget ..
  | illegalWord => exact h.execIllegalWord ..
  | svcCreditWrite => exact h.execSvcCreditWrite ..
  | resume => exact h.execResume ..
  | skip => exact h.execSkip ..
  | goto => exact h.execGoto ..
  | fcont => exact h.execFcont ..
  | killt => exact h.execKillt ..
  | killg => exact h.execKillg ..
  | killc => exact h.execKillc ..
  | replay => exact h.execReplay ..
  | abandon => exact h.execAbandon ..
  | grow => exact h.execGrow ..
  | fbclr => exact h.execFbclr ..
  | faultService => exact h.execFaultService ..
  | ctxCreate => exact h.execCtxCreate ..
  | ctxKill => exact h.execCtxKill ..
  | inval => exact h.execInval ..
  | launchOpen => exact h.execLaunchOpen ..
  | launchClose => exact h.execLaunchClose ..
  | launchItemSend => exact h.execLaunchItemSend ..
  | launchItemApproval => exact h.execLaunchItemApproval ..
  | launchItemAccept => exact h.execLaunchItemAccept ..
  | svcRing => exact h.execSvcRing ..
  | duty => exact h.execDuty ..
  | devLost => exact h.execDevLost ..
  | deviceLostTimeout => exact h.execDeviceLostTimeout ..
  | lyongSetup => exact h.execLyongSetup ..
  | lyongPortTraining => exact h.execLyongPortTraining ..
  | strandWire => exact h.execStrandWire ..
  | strandFree => exact h.execStrandFree ..
  | thaw => exact h.execThaw ..
  | dbgMap => exact h.execDbgMap ..
  | unknownCommand => exact h.execUnknownCommand ..
  | hostMemAccess => exact h.execHostMemAccess ..
  | peerMemAccess => exact h.execPeerMemAccess ..
  | spdmRequest => exact h.execSpdmRequest ..
  | traceRecord => exact h.execTraceRecord ..
  | traceEnable => exact h.execTraceEnable ..
  | traceClear => exact h.execTraceClear ..
  | traceResume => exact h.execTraceResume ..
  | traceTailWrite => exact h.execTraceTailWrite ..
  | linkGridSnapshot => exact h.execLinkGridSnapshot ..
  | replayRunGo => exact h.execReplayRunGo ..
  | replayPassComplete => exact h.execReplayPassComplete ..
  | replayEnforceTimeout => exact h.execReplayEnforceTimeout ..
  | preempt => exact h.execPreempt ..
  | budgetExpiry => exact h.execBudgetExpiry ..
  | unitResume => exact h.execUnitResume ..
  | quiesce => exact h.execQuiesce ..
  | unquiesce => exact h.execUnquiesce ..
  | imageWrite => exact h.execImageWrite ..
  | imageRestore => exact h.execImageRestore ..
  | errorDetected => exact h.execErrorDetected ..
  | lashedExchange => exact h.execLashedExchange ..
  | retireGo => exact h.execRetireGo ..
  | retireSwitch => exact h.execRetireSwitch ..
  | railPowerWrite => exact h.execRailPowerWrite ..
  | controlInterval => exact h.execControlInterval ..
  | railDroop => exact h.execRailDroop ..
  | marginError => exact h.execMarginError ..
  | histogramDecay => exact h.execHistogramDecay ..
  | quadPowerGate => exact h.execQuadPowerGate ..
  | quadWakeTest => exact h.execQuadWakeTest ..
  | thermalEmergency => exact h.execThermalEmergency ..
  | thermalResume => exact h.execThermalResume ..
  | thermalMove => exact h.execThermalMove ..
  | powerOnReset => exact h.execPowerOnReset ..
  | formatRegionWrite => exact h.execFormatRegionWrite ..
  | registerWrite => exact h.execRegisterWrite ..
  | spliceWord => cases hi

theorem execExtended (h : s.Canon) (i : Instr) : Out.Canon (Machine.execExtended i s) := by
  obtain he | ⟨hi, he⟩ := execExtended_eq i s
  · exact he ▸ h.execIllegalWord
  · exact he ▸ h.exec_of_not_spliceWord i hi

theorem execSpliceWord (h : s.Canon) (idx : BitVec 7) (ha hb hc : BitVec 6) (hd : BitVec 5) :
    Out.Canon (Machine.execSpliceWord idx ha hb hc hd s) := by
  unfold Machine.execSpliceWord
  extract_lets sl w entry bad
  have hbad (e : BitVec 128) (c : Nat) (v : Word) (x y : Bool) : Out.Canon (.next ((bad e).raiseAs s.cur c v x y)) :=
    next ((h.modMe _).raiseAs ..)
  cases entry with
  | none => exact hbad ..
  | some e =>
    dsimp only
    split
    · exact hbad ..
    · split
      · exact hbad ..
      · split
        · exact hbad ..
        · exact execExtended (h.useCopy.modMe _) _

theorem exec (h : s.Canon) (i : Instr) : Out.Canon (Machine.exec i s) := by
  cases hi : i.isSpliceWord with
  | false => exact h.exec_of_not_spliceWord i hi
  | true =>
    cases i with
    | spliceWord idx ha hb hc hd => exact h.execSpliceWord ..
    | _ => cases hi

/-- With a move or without, the state that a step leaves has its memory in the canonical form. -/
theorem step (h : s.Canon) : Out.Canon (Machine.step s) := by
  unfold Machine.step
  split
  · exact next (elapseOver h [])
  next m hm =>
    have hb := h.begin_ m
    split
    next hs => rw [hs] at hb; exact next (h.finish hb m)
    next u i hs =>
      rw [hs] at hb
      have he := hb.exec i
      split
      next hx => rw [hx] at he; exact next (h.finish he m)
      all_goals trivial

end State.Canon

/-- Settles O59: a step executes one instruction or event, which keeps the form, and lets time pass, in which only the host and
peer devices write. -/
theorem memoryStaysCanonical : Obligations.MemoryStaysCanonical := by
  unfold Obligations.MemoryStaysCanonical
  intro s t h ht
  have hs := State.Canon.step h
  rw [ht] at hs
  exact hs

end Sys2Proof.Machine
end

section
/-! SUPPORT. The words of the worked encodings (02_encoding.md). -/

namespace Sys2Proof.Machine

/-- Settles O54: the decoder computes each line of the listing. -/
theorem wordsDecode : Obligations.WordsDecode := by
  unfold Obligations.WordsDecode
  exact ⟨rfl, rfl, rfl, rfl, rfl, rfl, rfl⟩

end Sys2Proof.Machine
end

section
/-! SUPPORT. The counters of a core and MARK (R352 to R357). -/

namespace Sys2Proof.Machine

open Sys2Proof.Claims

/-! ## PMCFG (R355) -/

/-- A configuration that PMCFG answers 2 for: a reserved bit, or an event from 32 up (R355). -/
theorem pmBad_iff (w : Word) : (slice w 10 54 ≠ 0 ∨ slice w 6 2 ≠ 0 ∨ 32 ≤ slice w 0 6) ↔
    (w.toNat / 2 ^ 10 ≠ 0 ∨ w.toNat / 2 ^ 6 % 4 ≠ 0 ∨ 32 ≤ w.toNat % 64) := by
  have hlt : w.toNat / 2 ^ 10 < 2 ^ 54 := Nat.div_lt_of_lt_mul (by simpa using w.isLt)
  rw [slice_eq_div_mod, slice_eq_div_mod, slice_eq_div_mod, Nat.mod_eq_of_lt hlt]
  simp

/-- What PMCFG leaves once it is counted, before it retires. -/
def pmConfigure (d : Reg) (n : Nat) (w : Word) (c : State) : State :=
  let k := (c.core c.myCore).pmc.getD n {}
  if slice w 10 54 ≠ 0 ∨ slice w 6 2 ≠ 0 ∨ 32 ≤ slice w 0 6 then c.putG d 2
  else if k.replay || (bit k.cfg 9 && k.ctx != some c.me.ctx) then c.putG d 1
  else if bit w 9 then
    (c.modCore c.myCore fun q => q.modPmc n fun _ =>
      { cfg := w, count := 0, ctx := some c.me.ctx, uid := c.me.uid, since := c.ctr }).putG d 0
  else (c.modCore c.myCore fun q => q.modPmc n fun _ => {}).putG d 0

theorem pmConfigure_nextPc (d : Reg) (n : Nat) (w : Word) (c : State) : (pmConfigure d n w c).nextPc = c.nextPc := by
  unfold pmConfigure
  extract_lets k
  split
  · exact State.putG_nextPc ..
  · split
    · exact State.putG_nextPc ..
    · split
      · exact State.putG_nextPc ..
      · exact State.putG_nextPc ..

theorem execPmcfg_retires {s : State} {d : Reg} {n : BitVec 2} {a : Src} (hp : Solo s) (ha : Full s a.reg) (hd : Free s d) :
    exec (.pmcfg d n a) s =
      .next ((pmConfigure d n.toNat (s.me.greg a.reg).val (s.countIssue .s)).retireTo s.nextPc) := by
  have hpc : (pmConfigure d n.toNat (s.me.greg a.reg).val (s.countIssue .s)).nextPc = s.nextPc :=
    (pmConfigure_nextPc ..).trans (State.nextPc_of_me (State.me_countIssue ..))
  show execPmcfg d n a s = _
  unfold execPmcfg
  rw [State.preIssue_single hp, State.examine_ok (fullAll_one ha), Res.bind_ok, State.freeG_ok hd, ← hpc]
  simp only [State.g, State.me_countIssue]
  unfold pmConfigure
  simp only [State.me_countIssue]

section
variable {d : Reg} {n : Nat} {w : Word} {c : State} {k : PmCounter}

theorem pmConfigure_bad (h : w.toNat / 2 ^ 10 ≠ 0 ∨ w.toNat / 2 ^ 6 % 4 ≠ 0 ∨ 32 ≤ w.toNat % 64) :
    pmConfigure d n w c = c.putG d 2 := if_pos ((pmBad_iff w).2 h)

variable (h10 : w.toNat / 2 ^ 10 = 0) (h6 : w.toNat / 2 ^ 6 % 4 = 0) (hev : w.toNat % 64 < 32)
  (hk : k = (c.core c.myCore).pmc.getD n {})
include h10 h6 hev hk

theorem pmConfigure_good : pmConfigure d n w c =
    if k.replay || (bit k.cfg 9 && k.ctx != some c.me.ctx) then c.putG d 1
    else if bit w 9 then
      (c.modCore c.myCore fun q => q.modPmc n fun _ =>
        { cfg := w, count := 0, ctx := some c.me.ctx, uid := c.me.uid, since := c.ctr }).putG d 0
    else (c.modCore c.myCore fun q => q.modPmc n fun _ => {}).putG d 0 := by
  subst hk
  refine if_neg (mt (pmBad_iff w).1 ?_)
  omega

theorem pmConfigure_taken (h : k.replay = true ∨ (k.cfg.getLsbD 9 = true ∧ k.ctx ≠ some c.me.ctx)) :
    pmConfigure d n w c = c.putG d 1 := by
  rw [pmConfigure_good h10 h6 hev hk]
  exact if_pos (by simpa [bit] using h)

variable (hrep : k.replay = false) (hmine : k.cfg.getLsbD 9 = false ∨ k.ctx = some c.me.ctx)
include hrep hmine

theorem pmConfigure_starts (hen : w.getLsbD 9 = true) : pmConfigure d n w c =
    (c.modCore c.myCore fun q => q.modPmc n fun _ =>
      { cfg := w, count := 0, ctx := some c.me.ctx, uid := c.me.uid, since := c.ctr }).putG d 0 := by
  rw [pmConfigure_good h10 h6 hev hk, if_neg (by rcases hmine with h | h <;> simp only [bit, hrep, h] <;> simp)]
  exact if_pos hen

theorem pmConfigure_releases (hen : w.getLsbD 9 = false) : pmConfigure d n w c =
    (c.modCore c.myCore fun q => q.modPmc n fun _ => {}).putG d 0 := by
  rw [pmConfigure_good h10 h6 hev hk, if_neg (by rcases hmine with h | h <;> simp only [bit, hrep, h] <;> simp)]
  exact if_neg (by rw [bit, hen]; decide)

end

/-! ## PMRD (R356) and MARK (R357) -/

/-- What PMRD answers of a counter. -/
def PmCounter.answer (k : PmCounter) (ctx : Nat) : Word :=
  if bit k.cfg 9 && !k.replay && k.ctx == some ctx then BitVec.ofNat 64 k.count else 0

theorem PmCounter.answer_count {k : PmCounter} {ctx : Nat} (hen : k.cfg.getLsbD 9 = true) (hrep : k.replay = false)
    (hctx : k.ctx = some ctx) : k.answer ctx = BitVec.ofNat 64 k.count :=
  if_pos (by simp [bit, hen, hrep, hctx])

theorem PmCounter.answer_zero {k : PmCounter} {ctx : Nat} (h : k.cfg.getLsbD 9 = false ∨ k.ctx ≠ some ctx) :
    k.answer ctx = 0 :=
  if_neg (by rcases h with h | h <;> simp only [bit, h] <;> simp [h])

theorem execPmrd_gives {s : State} (d : Reg) (n : BitVec 2) (hp : Solo s) (hno : s.me.anyPending = false) :
    Gives (.pmrd d n) s d (((s.core s.myCore).pmc.getD n.toNat {}).answer s.me.ctx) := by
  show execPmrd d n s = _
  refine issue_ends hp ?_
  rw [await_ok (by rw [hno]; rfl), Res.bind_ok]
  rfl

theorem execMark_ends {s : State} {a : Src} (imm : W32) (hp : Solo s) (ha : Full s a.reg) : exec (.mark a imm) s =
    .next (ended .s (s.note ⟨5, s.me.ctx, 0, imm, BitVec.ofNat 64 s.cur, (s.me.greg a.reg).val⟩)) := by
  show execMark a imm s = _
  refine issue_ends hp ?_
  rw [State.examine_ok (fullAll_one ha), Res.bind_ok]
  rfl

/-- A record of a traced context is put on its way (R364). -/
theorem State.note_traced {s : State} {r : TraceRec} (hen : s.trace.en = true) (hm : s.trace.mask.getLsbD r.ctx = true) :
    s.note r = s.post (.traceRecord r s.time) :=
  if_pos (by rw [bit, hen, hm]; rfl)

theorem State.note_untraced {s : State} {r : TraceRec} (h : s.trace.en = false ∨ s.trace.mask.getLsbD r.ctx = false) :
    s.note r = s :=
  if_neg (by rcases h with h | h <;> simp [bit, h])

/-- Settles O42: PMCFG's answers are the branches of what it configures; PMRD and MARK ask one condition each. -/
theorem countersAndMarks : Obligations.CountersAndMarks := by
  unfold Obligations.CountersAndMarks
  intro s hp
  refine ⟨fun d n a w c k ha hd hw hc hk => ?pmcfg, fun d n k hno hk => ⟨fun hen hrep hctx => ?_, fun hno' => ?_⟩,
    fun a imm ha => ⟨fun hen hm => ?_, fun hoff => ?_⟩⟩
  case pmcfg =>
    have hme : c.me = s.me := by rw [hc, State.me_countIssue]
    have hmine : c.myCore = s.myCore := by rw [hc]; exact congrArg taCore (State.countIssue_cur ..)
    rw [← hmine] at hk ⊢
    rw [← hme]
    exact ⟨pmConfigure d n.toNat w c, hc ▸ hw ▸ execPmcfg_retires hp ha hd, pmConfigure_bad, fun h10 h6 hev =>
      ⟨pmConfigure_taken h10 h6 hev hk, fun hrep hmy =>
        ⟨pmConfigure_starts h10 h6 hev hk hrep hmy, pmConfigure_releases h10 h6 hev hk hrep hmy⟩⟩⟩
  · exact PmCounter.answer_count hen hrep hctx ▸ hk ▸ execPmrd_gives d n hp hno
  · exact PmCounter.answer_zero hno' ▸ hk ▸ execPmrd_gives d n hp hno
  · rw [execMark_ends imm hp ha, State.note_traced hen hm]
  · rw [execMark_ends imm hp ha, State.note_untraced hoff]

end Sys2Proof.Machine
end

section
/-! SUPPORT. The trace ring, its filter and its controls (R364 to R369). -/

namespace Sys2Proof.Machine

open Sys2Proof.Claims

/-! ## What a controller's write leaves (R366) -/

theorem State.dmaWrite_of_inHbm {s : State} {pa : Nat} {bs : List Byte} (h : inHbm pa bs.length = true) :
    s.dmaWrite pa bs = s.outsideWrite pa bs := if_pos h

theorem State.outsideWrite_trace (s : State) (pa : Nat) (bs : List Byte) : (s.outsideWrite pa bs).trace = s.trace := by
  obtain ⟨_, _, _, h⟩ := s.outsideWrite_caches pa bs
  rw [h]
  rfl

theorem State.dmaWrite_trace (s : State) (pa : Nat) (bs : List Byte) : (s.dmaWrite pa bs).trace = s.trace := by
  unfold State.dmaWrite
  split
  · exact State.outsideWrite_trace ..
  · rfl

theorem length_traceWords_bytes (r : TraceRec) (time : Nat) :
    ((traceWords r time).flatMap fun w => toBytes 8 w.toNat).length = 32 := by
  simp [traceWords, length_toBytes]

/-! ## Records in the ring (R365, R366) -/

theorem State.ringPut_trace (s : State) (ws : List Word) :
    (s.ringPut ws).trace = { s.trace with head := (s.trace.head + 1) % 2 ^ 64 } := by
  unfold State.ringPut State.modTrace
  simp only [State.dmaWrite_trace]

theorem State.ringPut_mem {s : State} {r : TraceRec} {time : Nat}
    (h : inHbm (s.trace.ring.toNat + 32 * (s.trace.head % 2 ^ s.trace.rsz)) 32 = true) :
    (s.ringPut (traceWords r time)).mem = (s.putBytes (s.trace.ring.toNat + 32 * (s.trace.head % 2 ^ s.trace.rsz))
      ((traceWords r time).flatMap fun w => toBytes 8 w.toNat)).mem := by
  unfold State.ringPut State.modTrace
  dsimp only
  rw [State.dmaWrite_of_inHbm (by rw [length_traceWords_bytes]; exact h), State.outsideWrite_mem]

/-- With nothing owed no LOST record goes in. -/
theorem State.putLost_none {s : State} (h : s.trace.owed = 0) : s.putLost = s := if_pos (.inl h)

theorem State.putLost_full {s : State} (h : s.trace.full = true) : s.putLost = s := if_pos (.inr h)

theorem State.putLost_tail (s : State) : s.putLost.trace.tail = s.trace.tail := by
  unfold State.putLost
  dsimp only
  split
  · rfl
  · unfold State.modTrace
    dsimp only
    rw [State.ringPut_trace]

/-- A full ring drops a record and counts it. -/
theorem State.ringWrite_full {s : State} (h : s.trace.full = true) (ws : List Word) : s.ringWrite ws =
    { s with trace := { s.trace with lost := min (s.trace.lost + 1) (2 ^ 64 - 1), owed := s.trace.owed + 1 } } := by
  unfold State.ringWrite
  dsimp only
  rw [State.putLost_full h]
  exact if_pos h

/-- A record goes in after the LOST record that is owed. -/
theorem State.ringWrite_room {s : State} (h : s.putLost.trace.full = false) (ws : List Word) :
    s.ringWrite ws = s.putLost.ringPut ws :=
  if_neg (by rw [h]; decide)

theorem State.ringWrite_open {s : State} (h : ringOpen s) (ws : List Word) : s.ringWrite ws = s.ringPut ws := by
  obtain ⟨howed, hfull⟩ := h
  have hl := State.putLost_none howed
  rw [State.ringWrite_room (by rw [hl]; exact hfull), hl]

/-! ## A record at the trace cores (R365, R368) -/

section
variable {s : State} {r : TraceRec} {time : Nat}

theorem execTraceRecord_off (h : s.trace.en = false) : exec (.traceRecord r time) s = .next s := by
  show execTraceRecord r time s = _
  unfold execTraceRecord
  dsimp only
  rw [if_pos (by rw [h]; rfl)]

theorem execTraceRecord_unfiltered (h : s.trace.en = true) (hf : s.trace.flen = 0) :
    exec (.traceRecord r time) s = .next (s.ringWrite (traceWords r time)) := by
  show execTraceRecord r time s = _
  unfold execTraceRecord
  dsimp only
  rw [if_neg (by rw [h]; decide), if_pos hf]

/-- What a verdict of the filter does with a record. -/
def State.judged (s : State) (r : TraceRec) (ws : List Word) : Verdict → State
  | .keep => s.ringWrite ws
  | .drop => s
  | .trig => (s.ringWrite ws).debugStop r
  | .ferr => (s.ringWrite ws).modTrace fun t => { t with ferr := satAdd64 t.ferr 1 }

theorem execTraceRecord_filtered {f : Machine.Filter} {v : Verdict} (h : s.trace.en = true) (hf : s.trace.flen ≠ 0)
    (hrun : s.filterRun (traceWords r time) 257 0 ⟨[], s.trace.var, s.trace.cnt⟩ = (f, v)) :
    exec (.traceRecord r time) s = .next ((ranFilter s f).judged r (traceWords r time) v) := by
  show execTraceRecord r time s = _
  unfold execTraceRecord
  dsimp only
  rw [if_neg (by rw [h]; decide), if_neg hf, hrun]
  cases v <;> rfl

end

/-! ## The controller (R364, R366 to R368) -/

/-- The program in the filter's memory passes the check of an enabling. -/
theorem filter_checked_iff (s : State) : (decide (s.trace.flen ≤ 256) &&
      (List.range s.trace.flen).all fun i => filterOk s.trace.flen i (s.filterWord i)) = true ↔
    s.trace.flen ≤ 256 ∧ ∀ i, i < s.trace.flen → filterOk s.trace.flen i (s.filterWord i) = true := by
  rw [Bool.and_eq_true, decide_eq_true_iff, List.all_eq_true]
  simp only [List.mem_range]

/-- Settles O49: a record meets EN, then the filter, then the ring; each control changes the block alone, but for the LOST
record that TAIL lets in. -/
theorem tracing : Obligations.Tracing := by
  unfold Obligations.Tracing
  intro s
  refine ⟨fun r time h => execTraceRecord_off h, fun r time h hf => ⟨fun ho t ht hin => ?put, fun hfull => ?full,
      fun _ _ hroom => ?owed⟩, fun r time f v h hf hrun => ?filter, ?enable, rfl, rfl, fun v => ?tail⟩
  case put =>
    subst ht
    rw [execTraceRecord_unfiltered h hf, State.ringWrite_open ho]
    exact ⟨_, rfl, State.ringPut_trace .., State.ringPut_mem hin⟩
  case full => rw [execTraceRecord_unfiltered h hf, State.ringWrite_full hfull]
  case owed => rw [execTraceRecord_unfiltered h hf, State.ringWrite_room hroom]
  case filter =>
    rw [execTraceRecord_filtered h hf hrun]
    refine ⟨?_, ?_, ?_, ?_⟩
    · rintro rfl; rfl
    · rintro rfl; rfl
    · rintro rfl; rfl
    · rintro rfl; exact ⟨_, rfl, rfl⟩
  case enable =>
    refine ⟨s.traceOn, rfl, rfl, filter_checked_iff s, rfl, fun h => ?_, fun h => ?_⟩
    · exact ⟨if_pos h, if_pos h⟩
    · have hoff : ¬ s.trace.en = true := by rw [h]; decide
      exact ⟨if_neg hoff, if_neg hoff⟩
  case tail => exact ⟨s.traceTail v, rfl, State.putLost_tail _, fun howed => State.putLost_none howed⟩

end Sys2Proof.Machine
end

section
/-! SUPPORT. Launch windows and the service ring (R318, R319, R324, R325). -/

namespace Sys2Proof.Machine

open Sys2Proof.Claims

/-! ## Windows -/

/-- The first element of a list that a test picks is changed. -/
theorem updFirst_append {α : Type} {p : α → Bool} {a : List α} {x : α} (f : α → α) (b : List α)
    (ha : ∀ y ∈ a, p y = false) (hx : p x = true) : updFirst p f (a ++ x :: b) = a ++ f x :: b := by
  induction a with
  | nil => exact if_pos hx
  | cons y a ih =>
    obtain ⟨hy, ha⟩ := List.forall_mem_cons.1 ha
    show (if p y then f y :: (a ++ x :: b) else y :: updFirst p f (a ++ x :: b)) = _
    rw [if_neg (by rw [hy]; decide), ih ha]
    rfl

@[simp] theorem State.win_modWin_same (s : State) (i : Nat) (f : Window → Window) : (s.modWin i f).win i = f (s.win i) :=
  Store.get_set_same ..

/-- The service ring leaves the windows as they are (R325). -/
theorem State.svcRun_wins (l : List (List Byte)) (s : State) : (s.svcRun l).host.wins = s.host.wins := by
  induction l generalizing s with
  | nil => rfl
  | cons it rest ih =>
    unfold State.svcRun
    split
    · rfl
    · split
      · rfl
      · exact ih _

theorem State.win_service (s : State) (kind ctx : Nat) (contents : List Byte) (i : Nat) :
    (s.service kind ctx contents).win i = s.win i :=
  congrArg (fun l => Store.get ({} : Window) l i) (State.svcRun_wins ..)

/-- The test for an item that waits for the host's answer. -/
theorem waiting_iff (it : LaunchItem) : (it.sent && !it.ok && !it.no) = true ↔ awaitsHost it := by
  unfold awaitsHost
  cases it.sent <;> cases it.ok <;> cases it.no <;> simp

/-! ## Sending (R318, R324) -/

section
variable {s : State} {i : Nat}

theorem execLaunchItemSend_closed (h : (s.win i).isOpen = false) : exec (.launchItemSend i) s = .next s := by
  show (.next (s.launchSend i) : Out) = _
  unfold State.launchSend
  dsimp only
  rw [if_pos (by rw [h]; rfl)]

theorem execLaunchItemSend_full (h : (s.win i).isOpen = true) (hq : 2 ^ (s.win i).l ≤ (s.win i).queue.length) :
    exec (.launchItemSend i) s = .next (s.modWin i fun w => w.refuse w.cookie 5) := by
  have hcred : (s.win i).cred = 0 := (if_pos h).trans (Nat.sub_eq_zero_of_le hq)
  show (.next (s.launchSend i) : Out) = _
  unfold State.launchSend
  dsimp only
  rw [if_neg (by rw [h]; decide), if_pos hcred]

/-- The item that a write of COOKIE sends, and whether it goes to the host first (R324). -/
def Window.item (w : Window) (sent : Bool) : LaunchItem := { rec_ := w.rec_, kind := w.kind, cookie := w.cookie, sent := sent }

/-- The state with a window's item in its queue. -/
def State.enqueue (s : State) (i : Nat) (sent : Bool) : State :=
  s.modWin i fun w => { w with queue := w.queue ++ [(s.win i).item sent] }

theorem State.win_enqueue (s : State) (i : Nat) (sent : Bool) :
    (s.enqueue i sent).win i = { s.win i with queue := (s.win i).queue ++ [(s.win i).item sent] } :=
  State.win_modWin_same ..

variable {c : Ctx} (hc : s.ctx (s.win i).ctx = some c) (h : (s.win i).isOpen = true)
  (hq : (s.win i).queue.length < 2 ^ (s.win i).l)
include hc h hq

theorem execLaunchItemSend_open : exec (.launchItemSend i) s = .next
    (if c.duty 2 then (s.enqueue i true).service 2 (s.win i).ctx ((s.win i).item true).bytes else s.enqueue i false) := by
  have hcred : (s.win i).cred ≠ 0 := by
    rw [Window.cred, if_pos h]
    omega
  show (.next (s.launchSend i) : Out) = _
  unfold State.launchSend
  dsimp only
  rw [if_neg (by rw [h]; decide), if_neg hcred, hc]
  dsimp only
  by_cases hd : c.duty 2 = true
  · simp only [hd, if_true]
    rfl
  · simp only [hd]
    rfl

end

/-! ## The placer (R319, R324, R348) -/

section
variable {s : State} {i : Nat}

theorem execLaunchItemApproval_eq (i : Nat) (ok : Bool) (s : State) : exec (.launchItemApproval i ok) s =
    .next (s.modWin i fun w => { w with
      queue := updFirst (fun it => it.sent && !it.ok && !it.no) (fun it => { it with ok := ok, no := !ok }) w.queue }) := rfl

theorem execLaunchItemApproval_marks {a b : List LaunchItem} {it : LaunchItem} (ok : Bool) (hq : (s.win i).queue = a ++ it :: b)
    (ha : ∀ x ∈ a, ¬ awaitsHost x) (hit : awaitsHost it) : ∃ t, exec (.launchItemApproval i ok) s = .next t ∧
      t.win i = { s.win i with queue := a ++ { it with ok := ok, no := !ok } :: b } := by
  refine ⟨_, execLaunchItemApproval_eq i ok s, ?_⟩
  have hfirst : ∀ x ∈ a, (x.sent && !x.ok && !x.no) = false := fun x hx =>
    Bool.eq_false_iff.2 fun h => ha x hx ((waiting_iff x).1 h)
  rw [State.win_modWin_same, hq]
  exact congrArg (fun q => { s.win i with queue := q }) (updFirst_append _ b hfirst ((waiting_iff it).2 hit))

theorem execLaunchItemAccept_nil (hq : (s.win i).queue = []) : exec (.launchItemAccept i) s = .next s := by
  show execLaunchItemAccept i s = _
  unfold execLaunchItemAccept
  dsimp only
  rw [hq]

variable {it : LaunchItem} {rest : List LaunchItem} (hq : (s.win i).queue = it :: rest)
include hq

theorem State.itemReady_eq : s.itemReady i = (s.mayStart (s.win i).ctx && (!it.sent || it.ok || it.no)) := by
  unfold State.itemReady
  rw [hq]

theorem execLaunchItemAccept_waits (h : s.itemReady i = false) : exec (.launchItemAccept i) s = .next s := by
  show execLaunchItemAccept i s = _
  unfold execLaunchItemAccept
  dsimp only
  rw [hq]
  dsimp only
  rw [if_pos (by rw [h]; rfl)]

theorem execLaunchItemAccept_ready (h : s.itemReady i = true) : exec (.launchItemAccept i) s = .next
    (if it.no then s.modWin i fun w => { w with queue := rest }
     else
       let r := (s.modWin i fun w => { w with queue := rest }).acceptItem (s.win i) it
       if r.2 = 0 then r.1 else r.1.modWin i fun w => w.refuse it.cookie r.2) := by
  show execLaunchItemAccept i s = _
  unfold execLaunchItemAccept
  dsimp only
  rw [hq]
  dsimp only
  rw [if_neg (by rw [h]; decide)]

end

/-! ## The credit of the service ring (R325) -/

section
variable {s : State} {total : Word}

theorem execSvcCreditWrite_unset (h : s.host.ring = none) : exec (.svcCreditWrite total) s = .next s := by
  show execSvcCreditWrite total s = _
  unfold execSvcCreditWrite
  dsimp only
  rw [h]

theorem execSvcCreditWrite_set {pa : Nat} (h : s.host.ring = some pa) : exec (.svcCreditWrite total) s = .next
    (let n := (s.host.sent + 2 ^ 64 - total.toNat) % 2 ^ 64
     if s.host.sent - s.host.used < n then s
     else { s with host := { s.host with used := s.host.sent - n } }.svcRun s.host.waiting) := by
  show execSvcCreditWrite total s = _
  unfold execSvcCreditWrite
  dsimp only
  rw [h, Nat.mod_eq_of_lt total.isLt]

end

/-- Settles O50: an item meets its window's state when it is sent, the host's answer and the placer when it is taken; a credit
total meets the count of what is out. -/
theorem launchAndService : Obligations.LaunchAndService := by
  unfold Obligations.LaunchAndService
  intro s i w hw
  subst hw
  refine ⟨execLaunchItemSend_closed, fun h hq => ⟨_, execLaunchItemSend_full h hq, State.win_modWin_same ..⟩,
    fun c hc h hq => ⟨fun hd => ⟨s.enqueue i false, ?_, State.win_enqueue ..⟩, fun hd => ⟨s.enqueue i true, ?_, State.win_enqueue ..⟩⟩,
    fun a it b ok hq ha hit => execLaunchItemApproval_marks ok hq ha hit, ?none,
    fun it rest x hq hm hx => ⟨fun ha => ?waits, fun hno => ?refused, fun hno hok y st hy => ?taken⟩,
    fun total => execSvcCreditWrite_unset, fun total pa n hr _ hn => ⟨fun h => ?_, fun h => ?_⟩⟩
  · rw [execLaunchItemSend_open hc h hq, hd]
    rfl
  · rw [execLaunchItemSend_open hc h hq, hd]
    rfl
  case none =>
    rintro (hq | hm)
    · exact execLaunchItemAccept_nil hq
    · cases hq : (s.win i).queue with
      | nil => exact execLaunchItemAccept_nil hq
      | cons it rest => exact execLaunchItemAccept_waits hq (by rw [State.itemReady_eq hq, hm]; rfl)
  case waits =>
    obtain ⟨hsent, hok, hno⟩ := ha
    exact execLaunchItemAccept_waits hq (by rw [State.itemReady_eq hq, hsent, hok, hno, Bool.and_comm]; rfl)
  case refused =>
    rw [execLaunchItemAccept_ready hq (by rw [State.itemReady_eq hq, hm, hno]; simp), if_pos hno, hx]
  case taken =>
    have hready : s.itemReady i = true := by
      rw [State.itemReady_eq hq, hm]
      rcases hok with h | h <;> simp [h]
    rw [execLaunchItemAccept_ready hq hready, if_neg (by rw [hno]; decide)]
    dsimp only
    rw [← hx, hy]
    exact ⟨fun h => by rw [if_pos h], fun h => by rw [if_neg h]⟩
  · rw [execSvcCreditWrite_set hr]
    dsimp only
    rw [← hn, if_pos h]
  · rw [execSvcCreditWrite_set hr]
    dsimp only
    rw [← hn, if_neg (Nat.not_lt.2 h)]

end Sys2Proof.Machine
end

section
/-! SUPPORT. Replay runs and the link counter grid (R358 to R363, R370, R372). -/

namespace Sys2Proof.Machine

open Sys2Proof.Claims

/-! ## GO (R358, R359) -/

theorem ReplaySt.ctx_eq (r : ReplaySt) : r.ctx = r.cfg.toNat % 64 := slice_zero_eq_mod ..

section
variable {s : State}

theorem execReplayRunGo_busy (h : s.replay.busy = true) : exec .replayRunGo s = .next s := by
  show (.next s.replayGo : Out) = _
  rw [State.replayGo, if_pos h]

theorem execReplayRunGo_noCtx (h : s.replay.busy = false) (hc : s.ctx (s.replay.cfg.toNat % 64) = none) :
    exec .replayRunGo s = .next { s with replay := { s.replay with rcode := 1 } } := by
  have hnone : (s.ctx s.replay.ctx).isNone = true := by
    rw [ReplaySt.ctx_eq, hc]
    rfl
  show (.next s.replayGo : Out) = _
  rw [State.replayGo, if_neg (by rw [h]; decide), if_pos hnone]
  rfl

/-- A refused start: its result is written, and the run is over (R359). -/
def State.replayRefused (s : State) (code : Nat) : State :=
  ((s.putResult [] (2 ^ 7) 0).modReplay fun r => { r with rcode := code }).replayStop

/-- What the acceptance of REC makes of a pass. -/
theorem execReplayRunGo_starts {c : Ctx} (h : s.replay.busy = false) (hc : s.ctx (s.replay.cfg.toNat % 64) = some c) :
    exec .replayRunGo s = .next (let r := ((freshPass s).dropPages c).replayAccept
      if r.2 = 0 then r.1 else r.1.replayRefused r.2) := by
  have hctx : s.ctx s.replay.ctx = some c := by rw [ReplaySt.ctx_eq]; exact hc
  have hfresh : (freshPass s).ctx (freshPass s).replay.ctx = some c := hctx
  show (.next s.replayGo : Out) = _
  rw [State.replayGo, if_neg (by rw [h]; decide), if_neg (by rw [hctx]; exact Bool.false_ne_true), State.passStart]
  dsimp only
  rw [if_pos (.inl rfl)]
  show (.next (match (freshPass s).ctx (freshPass s).replay.ctx with
    | none => (freshPass s).replayStop
    | some c => _) : Out) = _
  rw [hfresh]
  rfl

/-! ## The end of a pass (R359, R362, R363) -/

theorem execReplayPassComplete_none (h : s.replay.busy = false ∨ s.replay.ended = none) :
    exec .replayPassComplete s = .next s := by
  show execReplayPassComplete s = _
  unfold execReplayPassComplete
  dsimp only
  rcases h with h | h
  · rw [h]
  · rw [h]
    cases s.replay.busy <;> rfl

/-- What a completed pass leaves in the replay block: pass 0 its fingerprint, a later one its mismatches (R363, R372). -/
def State.passJudged (s : State) : State :=
  if s.replay.pass = 0 then s.modReplay fun r => { r with fprint := fingerprint s.replay.prints }
  else
    let x := if fingerprint s.replay.prints = s.replay.fprint then s else s.mismatch 2
    if !s.replay.logOv && s.replay.logged.any fun p => decide (unitAt s.replay.done p.1 < unitAt s.replay.logged p.1)
    then x.mismatch 1 else x

/-- A completed pass in the state that it leaves: its result is written, and the run goes on or stops. -/
def State.passEnded (s x : State) (code : Nat) : State :=
  let y := x.putResult (passCounts s) (x.replay.status (code != 0)) (fingerprint s.replay.prints).toNat
  if code ≠ 0 ∨ s.replay.npass ≤ s.replay.pass then y.replayStop else y.passStart (s.replay.pass + 1)

variable {code : Nat}

theorem execReplayPassComplete_ended (h : s.replay.busy = true) (hc : s.replay.ended = some code) :
    exec .replayPassComplete s = .next (s.passEnded s.passJudged code) := by
  show execReplayPassComplete s = _
  unfold execReplayPassComplete
  dsimp only
  rw [h, hc]
  unfold State.passEnded passCounts
  cases s.replay.place <;> rfl

theorem State.passJudged_first (h : s.replay.pass = 0) :
    s.passJudged = { s with replay := { s.replay with fprint := fingerprint s.replay.prints } } := if_pos h

theorem State.passJudged_later (h : s.replay.pass ≠ 0) (hn : noneMissing s.replay) :
    s.passJudged = if fingerprint s.replay.prints = s.replay.fprint then s else s.mismatch 2 := by
  refine (if_neg h).trans (if_neg ?_)
  rcases hn with hlog | hall
  · simp [hlog]
  · simp only [Bool.and_eq_true, List.any_eq_true, decide_eq_true_iff, not_and, not_exists]
    exact fun _ p hp => Nat.not_lt.2 (hall p hp)

/-! ## Enforced atomics (R362) -/

theorem execReplayEnforceTimeout_none {key : Nat} (h : s.replay.busy = false ∨ ∀ p ∈ s.replay.waits, p.1 ≠ key) :
    exec (.replayEnforceTimeout key) s = .next s := by
  show execReplayEnforceTimeout key s = _
  unfold execReplayEnforceTimeout
  rw [if_neg ?_]
  rcases h with h | h
  · simp [h]
  · simp only [Bool.and_eq_true, List.any_eq_true, beq_iff_eq, not_and, not_exists]
    exact fun _ p hp => h p hp

theorem execReplayEnforceTimeout_frees {p : Nat × Nat} (h : s.replay.busy = true) (hp : p ∈ s.replay.waits) :
    exec (.replayEnforceTimeout p.1) s = .next { s with replay := { s.replay with
      mism := true, mkind := if s.replay.mkind = 0 then 4 else s.replay.mkind, freed := s.replay.freed ++ [p.1]
      waits := s.replay.waits.filter fun q => q.1 ≠ p.1 } } := by
  have hany : (s.replay.busy && s.replay.waits.any fun q => q.1 == p.1) = true := by
    rw [h, Bool.true_and, List.any_eq_true]
    exact ⟨p, hp, beq_self_eq_true _⟩
  have hne : (fun q : Nat × Nat => q.1 != p.1) = fun q => decide (q.1 ≠ p.1) := by
    funext q
    exact Bool.eq_iff_iff.2 (by simp)
  show execReplayEnforceTimeout p.1 s = _
  unfold execReplayEnforceTimeout
  rw [if_pos hany, hne]
  rfl

end

/-! ## The link counter grid (R370) -/

theorem length_flatMap_of_length {α β : Type} {l : List α} {f : α → List β} {n : Nat} (h : ∀ x ∈ l, (f x).length = n) :
    (l.flatMap f).length = l.length * n := by
  rw [List.length_flatMap, List.map_congr_left h, List.map_const', List.sum_replicate, smul_eq_mul]

theorem length_linkRecord (ctr place : Nat) : (linkRecord ctr place).length = 32 :=
  length_flatMap_of_length fun _ _ => length_toBytes ..

/-- The snapshot's head, its records of the dies' links and those of the fabric's ports. -/
theorem State.length_gridBytes (s : State) : s.gridBytes.length = 262720 := by
  have hlinks : ((List.range 8192).flatMap fun i =>
      if s.present (i / 2048) (i / 4 % 512) && (linkTo (i / 4 % 512) (i % 4)).isSome then linkRecord s.ctr (64 + 32 * i)
      else List.replicate 32 0).length = 8192 * 32 := by
    refine (length_flatMap_of_length (n := 32) fun i _ => ?_).trans (by rw [List.length_range])
    split
    · exact length_linkRecord ..
    · exact List.length_replicate ..
  have hports : ((List.range 16).flatMap fun p => linkRecord s.ctr (64 + 32 * (8192 + p))).length = 16 * 32 :=
    (length_flatMap_of_length fun _ _ => length_linkRecord ..).trans (by rw [List.length_range])
  unfold State.gridBytes
  dsimp only
  rw [List.length_append, List.length_append, hlinks, hports, List.length_append, List.length_append, length_toBytes,
    length_toBytes, List.length_replicate]

theorem State.take_gridBytes (s : State) : s.gridBytes.take 16 = toBytes 8 s.time ++ toBytes 8 s.grid.seq := by
  unfold State.gridBytes
  dsimp only
  rw [List.append_assoc, List.append_assoc, List.take_left' (by rw [List.length_append, length_toBytes, length_toBytes])]

theorem execLinkGridSnapshot_off {s : State} (h : s.grid.ivl = 0 ∨ s.grid.nsnap = 0) : exec .linkGridSnapshot s = .next s := by
  show execLinkGridSnapshot s = _
  unfold execLinkGridSnapshot
  dsimp only
  rw [if_pos h]

theorem execLinkGridSnapshot_writes {s : State} (hi : s.grid.ivl ≠ 0) (hn : s.grid.nsnap ≠ 0) : exec .linkGridSnapshot s =
    .next { s.dmaWrite (s.grid.grid.toNat + 262720 * (s.grid.seq % s.grid.nsnap)) s.gridBytes with
      grid := { s.grid with seq := (s.grid.seq + 1) % 2 ^ 64, last := s.time } } := by
  show execLinkGridSnapshot s = _
  unfold execLinkGridSnapshot
  dsimp only
  rw [if_neg (by rw [not_or]; exact ⟨hi, hn⟩)]

/-- Settles O52: GO meets the run's state and the acceptance of REC; a pass that ends meets its number and its code. -/
theorem replayRuns : Obligations.ReplayRuns := by
  unfold Obligations.ReplayRuns
  intro s
  refine ⟨execReplayRunGo_busy, execReplayRunGo_noCtx, fun c x y code h hc hx hy => ?go, execReplayPassComplete_none,
    fun code x h hc hp hx => ?first, fun code x h hc hp hn hx => ?later, fun key => execReplayEnforceTimeout_none,
    ?frees, execLinkGridSnapshot_off, fun hi hn => ?grid⟩
  case go =>
    rw [execReplayRunGo_starts h hc, ← hx, hy]
    exact ⟨fun h0 => by rw [if_pos h0], fun h0 => ⟨_, by rw [if_neg h0], rfl, rfl⟩⟩
  case first =>
    rw [execReplayPassComplete_ended h hc, State.passJudged_first hp, ← hx]
    unfold State.passEnded
    dsimp only
    rw [hp]
    refine ⟨fun hend => by rw [if_pos (hend.imp_right fun h0 => h0.le)], ?_⟩
    rintro rfl h0
    rw [if_neg (by omega)]
    rfl
  case later =>
    rw [execReplayPassComplete_ended h hc, State.passJudged_later hp hn, ← hx]
    unfold State.passEnded
    dsimp only
    refine ⟨fun hend => by rw [if_pos hend], ?_⟩
    rintro rfl h0
    rw [if_neg (by omega)]
    rfl
  case frees =>
    rintro key p h hp rfl
    exact execReplayEnforceTimeout_frees h hp
  case grid =>
    refine ⟨_, s.gridBytes, execLinkGridSnapshot_writes hi hn, s.length_gridBytes, s.take_gridBytes, ?_, ?_⟩
    · dsimp only
    · dsimp only

end Sys2Proof.Machine
end

section
/-! SUPPORT. Strand events: one for no strand, the stopper of a move of the source, and the fray of a source (R254, R257, R259,
R262). -/

namespace Sys2Proof.Machine

open Sys2Proof.Claims

/-- An event for an entry that is free does nothing (R254). -/
theorem exec_ofStrand_none {s : State} {ctx idx : Nat} (h : s.strand? (strandKey ctx idx) = none) {i : Instr}
    (hi : ofStrand ctx idx i = true) : exec i s = .next s := by
  unfold ofStrand at hi
  split at hi
  case h_7 => cases hi
  all_goals
    obtain ⟨rfl, rfl⟩ := Bool.and_eq_true_iff.1 hi |>.imp beq_iff_eq.1 beq_iff_eq.1
  case h_1 c e it =>
    show execStrandItemArrival c e it s = _
    unfold execStrandItemArrival
    rw [h]
  case h_2 c e =>
    show execStrandCreditReturn c e s = _
    unfold execStrandCreditReturn
    rw [h]
  case h_3 c e sink =>
    show execStrandMoveRequest c e sink s = _
    unfold execStrandMoveRequest
    rw [h]
  case h_4 c e =>
    show execStrandStopperArrival c e s = _
    unfold execStrandStopperArrival
    rw [h]
  case h_5 c e =>
    show execStrandRouteSwitch c e s = _
    unfold execStrandRouteSwitch
    rw [h]
  case h_6 c e =>
    show execStrandFray c e s = _
    unfold execStrandFray
    rw [h]

section
variable {s : State} {ctx idx : Nat} {x : Strand} (hx : s.strand? (strandKey ctx idx) = some x)
include hx

/-- The stopper of the only move, one of the source, ends the move once it has been accepted (R259). -/
theorem execStrandStopperArrival_source {m : StrandMove} (hm : x.moves = [m]) (hsrc : m.sink = false)
    (hrun : m.stopped = false) (hst : x.stoppers = [false]) : exec (.strandStopperArrival ctx idx) s = .next ((s.putStrand
      { x with stoppers := [], gates := x.gates.drop 1
               moves := if m.accepted then [] else [{ m with stopped := true }] }).serve x.key) := by
  have hmoves : grantRun (updFirst (fun m => m.sink == false && !m.stopped && (!false || m.accepted))
      (fun m => { m with stopped := true }) [m]) = if m.accepted then [] else [{ m with stopped := true }] := by
    have hstop : updFirst (fun m => m.sink == false && !m.stopped && (!false || m.accepted))
        (fun m => { m with stopped := true }) [m] = [{ m with stopped := true }] := if_pos (by simp [hsrc, hrun])
    rw [hstop]
    cases m.accepted <;> simp [grantRun]
  show execStrandStopperArrival ctx idx s = _
  unfold execStrandStopperArrival
  rw [hx]
  simp only [hm, hst, List.headD_cons, hmoves]
  rfl

/-- The fray of a source tells its sink, once (R262). -/
theorem execStrandFray_source (hsrc : x.src.st = 2) (hsnk : x.snk.st < 2) (hpeer : x.snk.peer = 0)
    (hkey : x.key = strandKey ctx idx) : exec (.strandFray ctx idx) s =
      .next (((s.fireWatch x.snk).putStrand { x with snk := { x.snk with peer := 2, watch := none } }).serve x.key) := by
  have hgone : x.src.live = false := decide_eq_false (by rw [hsrc]; decide)
  have hlive : x.snk.live = true := decide_eq_true hsnk
  have hpg : s.peerGone x.key true 2 =
      ((s.fireWatch x.snk).putStrand { x with snk := { x.snk with peer := 2, watch := none } }).serve x.key := by
    unfold State.peerGone
    rw [hkey, hx]
    dsimp only [Strand.side]
    rw [if_pos rfl, if_neg (by rw [hlive, hpeer]; decide)]
    rfl
  show execStrandFray ctx idx s = _
  unfold execStrandFray
  rw [hx]
  dsimp only
  rw [if_neg (by rw [hgone]; exact fun h => Bool.false_ne_true h.2), hsrc]
  exact congrArg _ hpg

end

/-- Settles O36: each event meets the strand that it names. -/
theorem strandEvents : Obligations.StrandEvents := by
  unfold Obligations.StrandEvents
  intro s ctx idx
  refine ⟨fun h i hi => exec_ofStrand_none h hi, fun x hx => ⟨fun it hsrc hsnk hlive => ?_, execStrandCreditReturn_here hx,
    fun hm hsnk hsrc sink => execStrandMoveRequest_first hx hm hsnk hsrc sink,
    fun m hm hs hr hst => execStrandStopperArrival_source hx hm hs hr hst, execStrandRouteSwitch_ends hx,
    execStrandFray_source hx⟩⟩
  exact execStrandItemArrival_here hx it hsrc hsnk hlive

end Sys2Proof.Machine
end

section
/-! SUPPORT. Settle events: replies, the ends of runs, lost configuration memory and deadlines (R287, R288, R294, R298, R301, R304,
R305). -/

namespace Sys2Proof.Machine

open Sys2Proof.Claims

/-- A reply without a sample sets its register (R304). -/
theorem execSfReply_arrives {s : State} {t : Target} (h : InSlot s t) (d : Reg) (v : Word) (p : Bool) :
    exec (.sfReply t d v p none) s = .next (s.modSlot t.ta fun sl => sl.arriveG d v p) :=
  congrArg Host.Outcome.next (State.modTask_inSlot h _)

/-! ## The ends of a run (R287, R288, R301, R305) -/

section
variable {s : State} {c g : Nat} {r : Region} (hr : s.region? (regionKey c g) = some r)
include hr

theorem execSettleSaturation_ends {u : List Int} {b i : Nat} (hst : r.state = 2) (hx : r.crossed u = some (b, i)) :
    exec (.settleSaturation c g u) s = .next ((s.endRun c g (u.map clampU) 4).modRegion (regionKey c g)
      fun r => { r with sblk := b, sunit := i }) := by
  show execSettleSaturation c g u s = _
  unfold execSettleSaturation
  rw [hr]
  dsimp only
  rw [if_neg (not_not.2 hst), hx]

theorem execSettleCertify_ends {u : List Int} (hst : r.state = 2) (hfrom : r.start + imgTau r.image * imgHold r.image ≤ s.time)
    (hto : s.time ≤ r.start + imgTau r.image * imgTmo r.image) (hc : r.certifies u = true) (hx : r.crossed u = none) :
    exec (.settleCertify c g u) s = .next (s.endRun c g u 3) := by
  show execSettleCertify c g u s = _
  unfold execSettleCertify
  rw [hr]
  dsimp only
  rw [if_pos (by simp [hst, hfrom, hto, hc, hx])]

theorem execSettleTimeout_ends (u : List Int) (hst : r.state = 2) :
    exec (.settleTimeout c g u) s = .next (s.endRun c g (r.within (u.map clampU)) 5) := by
  show execSettleTimeout c g u s = _
  unfold execSettleTimeout
  rw [hr]
  dsimp only
  rw [if_pos hst]

/-- Of a region that is not RUNNING no run ends (R286). -/
theorem exec_ofRun_notRunning (u : List Int) (hst : r.state ≠ 2) : exec (.settleSaturation c g u) s = .next s ∧
    exec (.settleCertify c g u) s = .next s ∧ exec (.settleTimeout c g u) s = .next s := by
  refine ⟨?_, ?_, ?_⟩
  · show execSettleSaturation c g u s = _
    unfold execSettleSaturation
    rw [hr]
    dsimp only
    rw [if_pos hst]
  · show execSettleCertify c g u s = _
    unfold execSettleCertify
    rw [hr]
    dsimp only
    rw [if_neg (by simp [hst])]
  · show execSettleTimeout c g u s = _
    unfold execSettleTimeout
    rw [hr]
    dsimp only
    rw [if_neg hst]

theorem State.haltRegion_eq : s.haltRegion c g = if r.state = 2 then s.endRun c g (s.freeU r) 6 else s := by
  unfold State.haltRegion
  rw [hr]

theorem State.poisonSamples_none (hs : r.smps = []) : s.poisonSamples (regionKey c g) = s := by
  unfold State.poisonSamples
  rw [hr]
  dsimp only
  rw [hs]
  rfl

/-- Lost configuration memory halts a running region and is reported (R305). -/
theorem execSettleConfigError_halts (b : Nat) (hs : r.smps = []) : exec (.settleConfigError c g b) s = .next
    (((if r.state = 2 then s.endRun c g (s.freeU r) 6 else s).modRegion (regionKey c g) fun r => { r with smps := [] }).report
      ⟨2, 10, 11, (r.first + b) % 64, r.die, 0, BitVec.ofNat 64 (regionKey c g), 0, none, 0⟩) := by
  show execSettleConfigError c g b s = _
  unfold execSettleConfigError
  rw [hr]
  dsimp only
  rw [State.poisonSamples_none hr hs, State.haltRegion_eq hr]

end

/-! ## Deadlines (R294) -/

section
variable {s : State} {ta : Nat}

theorem execDeadlineFire_slot (hta : ta < 65536) (hin : InSlot s ⟨ta, (s.slot ta).uid⟩) (hdlb : (s.slot ta).dlb = false) :
    exec (.deadlineFire ta) s = .next
      (if (s.slot ta).dline = 0 ∨ s.time < (s.slot ta).dline.toNat then s
       else s.modSlot ta fun sl => { sl with faddr := sl.dline, dlval := sl.dline, dline := 0, fcode := 0x0C, dlpend := true }) := by
  have hfire : s.fireRegion ⟨ta, (s.slot ta).uid⟩ (s.slot ta) = s := by
    unfold State.fireRegion
    dsimp only
    rw [hdlb]
    rfl
  show execDeadlineFire ta s = _
  unfold execDeadlineFire
  dsimp only
  rw [if_pos hta, State.task?_inSlot hin]
  dsimp only
  rw [hfire, State.modTask_inSlot hin]

/-- The slot at a diversion: out of its wait, with the fault of the deadline (R294, R296). -/
def State.diverting (s : State) (ta : Nat) : State :=
  (s.leaveWait ta).modSlot ta fun sl => { sl with dlpend := false, fcode := 0x0C, faddr := sl.dlval }

theorem execDeadlineDiversion_pending (h : (s.slot ta).dlpend = true) : exec (.deadlineDiversion ta) s = .next
    (if (s.slot ta).dlfb ≠ 0 then (s.diverting ta).modSlot ta fun sl => { sl with pc := sl.dlfb, sptBad := none }
     else (s.diverting ta).raise ta 0x0C (s.slot ta).dlval) := by
  show execDeadlineDiversion ta s = _
  unfold execDeadlineDiversion
  dsimp only
  rw [if_neg (by rw [h]; decide)]
  rfl

end

/-- Settles O38: each event meets its region's state or its slot's deadline. -/
theorem settleEvents : Obligations.SettleEvents := by
  unfold Obligations.SettleEvents
  intro s
  refine ⟨fun t d v p huid hne ha => execSfReply_arrives ⟨huid, hne, ha⟩ d v p, fun c g r hr =>
      ⟨fun u hst b i hx => execSettleSaturation_ends hr hst hx, fun u hst hfrom hto hc hx => execSettleCertify_ends hr hst hfrom hto hc hx,
        execSettleTimeout_ends hr, exec_ofRun_notRunning hr, execSettleConfigError_halts hr⟩,
    fun ta hta hne ha hdlb => ⟨fun h => ?_, fun h0 ht => ?_⟩, fun ta u hu hp => ⟨fun h => ?_, fun h => ?_⟩⟩
  · rw [execDeadlineFire_slot hta ⟨rfl, hne, ha⟩ hdlb, if_pos h]
  · rw [execDeadlineFire_slot hta ⟨rfl, hne, ha⟩ hdlb, if_neg (not_or.2 ⟨h0, Nat.not_lt.2 ht⟩)]
  · rw [execDeadlineDiversion_pending hp, if_pos h, hu]
    rfl
  · rw [execDeadlineDiversion_pending hp, if_neg (not_not.2 h), hu]
    rfl

end Sys2Proof.Machine
end

section
/-! SUPPORT. The outcomes of a debug window, and the service of a packet (R336 to R341). -/

namespace Sys2Proof.Machine

open Sys2Proof.Claims

/-! ## The slot that an outcome acts on (R337) -/

section
variable {s : State} {ta q : Nat} (hq : s.pairOf (ta % 65536) = q)
include hq

theorem execResume_eq : exec (.resume ta) s = .next (s.doResume q) := hq ▸ rfl
theorem execSkip_eq : exec (.skip ta) s = .next (s.doSkip q) := hq ▸ rfl
theorem execGoto_eq : exec (.goto ta) s = .next (s.doGoto q) := hq ▸ rfl
theorem execFcont_eq : exec (.fcont ta) s = .next (s.doFcont q) := hq ▸ rfl
theorem execKillt_eq : exec (.killt ta) s = .next (s.doKillt q) := hq ▸ rfl
theorem execKillg_eq : exec (.killg ta) s = .next (s.doKillg q) := hq ▸ rfl
theorem execKillc_eq : exec (.killc ta) s = .next (s.doKillc q) := hq ▸ rfl
theorem execReplay_eq : exec (.replay ta) s = .next (s.doReplay q) := hq ▸ rfl
theorem execAbandon_eq : exec (.abandon ta) s = .next (s.doAbandon q) := hq ▸ rfl
theorem execGrow_eq : exec (.grow ta) s = .next (s.doGrow q) := hq ▸ rfl

end

/-! ## The checks of an outcome (R337, R341) -/

section
variable {s : State} {q : Nat}

theorem State.onFrozen_rxfull (h : s.isRxfull q = true) (f : State → State) : s.onFrozen q f = s.outStat q 2 := if_pos h

theorem State.onFrozen_other (h : s.isRxfull q = false) (hst : (s.slot q).st ≠ .frozen ∨ s.savedAct q = true)
    (f : State → State) : s.onFrozen q f = s.outStat q 1 := by
  refine (if_neg (by rw [h]; decide)).trans (if_neg ?_)
  rintro ⟨hfrozen, hsaved⟩
  rcases hst with hst | hst
  · exact hst hfrozen
  · rw [hsaved] at hst
    cases hst

theorem State.onFrozen_frozen (h : s.isRxfull q = false) (hst : (s.slot q).st = .frozen) (hs : s.savedAct q = false)
    (f : State → State) : s.onFrozen q f = f (s.outStat q 0) :=
  (if_neg (by rw [h]; decide)).trans (if_pos ⟨hst, hs⟩)

theorem State.onEntry_rxfull (h : s.isRxfull q = true) (f : State → RpqEntry → State) : s.onEntry q f = s.outStat q 2 := if_pos h

theorem State.onEntry_idle (h : s.isRxfull q = false) (hst : (s.slot q).st = .idle) (f : State → RpqEntry → State) :
    s.onEntry q f = s.outStat q 1 :=
  (if_neg (by rw [h]; decide)).trans (if_pos hst)

theorem State.onEntry_none (h : s.isRxfull q = false) (hst : (s.slot q).st ≠ .idle) (he : s.outEntry q = none)
    (f : State → RpqEntry → State) : s.onEntry q f = s.outStat q 2 := by
  refine (if_neg (by rw [h]; decide)).trans ((if_neg hst).trans ?_)
  rw [he]

theorem State.onEntry_some (h : s.isRxfull q = false) (hst : (s.slot q).st ≠ .idle) {e : RpqEntry} (he : s.outEntry q = some e)
    (f : State → RpqEntry → State) : s.onEntry q f = f (s.outStat q 0) e := by
  refine (if_neg (by rw [h]; decide)).trans ((if_neg hst).trans ?_)
  rw [he]

/-! ## The outcomes (R337, R340, R341) -/

theorem State.doResume_frozen (h : s.isRxfull q = false) : s.doResume q = s.onFrozen q fun s =>
    (s.retryTable q).thawSlot q fun sl => { sl with fbuf := if sl.buffered.isSome then sl.fbuf.drop 1 else sl.fbuf } :=
  if_neg (by rw [h]; decide)

theorem State.thawSlot_eq (s : State) (q : Nat) (f : Slot → Slot) : s.thawSlot q f = Thawed s q f := rfl

theorem State.retryTable_none (h : (s.slot q).sptBad = none) : s.retryTable q = s := if_neg (by rw [h]; decide)

/-- Every outcome that needs STATE = 2 does so through one check. -/
theorem needFrozen_checks {ta : Nat} (hq : s.pairOf (ta % 65536) = q) {i : Instr} (hi : i ∈ needFrozen ta)
    (h : s.isRxfull q = true → i ≠ .resume ta) : ∃ f, exec i s = .next (s.onFrozen q f) := by
  simp only [needFrozen, List.mem_cons, List.not_mem_nil, or_false] at hi
  rcases hi with rfl | rfl | rfl | rfl | rfl | rfl | rfl
  · have hno : s.isRxfull q = false := Bool.eq_false_iff.2 fun hx => h hx rfl
    exact ⟨_, (execResume_eq hq).trans (congrArg _ (State.doResume_frozen hno))⟩
  · exact ⟨_, execSkip_eq hq⟩
  · exact ⟨_, execGoto_eq hq⟩
  · exact ⟨_, execFcont_eq hq⟩
  · exact ⟨_, execKillt_eq hq⟩
  · exact ⟨_, execKillg_eq hq⟩
  · exact ⟨_, execKillc_eq hq⟩

theorem exec_rxfull {ta : Nat} (hq : s.pairOf (ta % 65536) = q) (h : s.isRxfull q = true) {i : Instr}
    (hi : i ∈ needFrozen ta ++ [.replay ta, .abandon ta]) (hne : i ≠ .resume ta) : exec i s = .next (s.outStat q 2) := by
  rcases List.mem_append.1 hi with hi | hi
  · obtain ⟨f, hf⟩ := needFrozen_checks hq hi fun _ => hne
    rw [hf, State.onFrozen_rxfull h]
  · simp only [List.mem_cons, List.not_mem_nil, or_false] at hi
    rcases hi with rfl | rfl
    · rw [execReplay_eq hq, State.doReplay, State.onEntry_rxfull h]
    · rw [execAbandon_eq hq, State.doAbandon, State.onEntry_rxfull h]

theorem exec_notFrozen {ta : Nat} (hq : s.pairOf (ta % 65536) = q) (h : s.isRxfull q = false)
    (hst : (s.slot q).st ≠ .frozen ∨ s.savedAct q = true) {i : Instr} (hi : i ∈ needFrozen ta) :
    exec i s = .next (s.outStat q 1) := by
  obtain ⟨f, hf⟩ := needFrozen_checks hq hi fun hx => absurd (h.symm.trans hx) Bool.false_ne_true
  rw [hf, State.onFrozen_other h hst]

/-! ## GROW (R341) -/

theorem State.doGrow_bad (h : s.isRxfull q = true)
    (hpa : (s.slot q).outarg.toNat % 128 ≠ 0 ∨ hbmSize < (s.slot q).outarg.toNat + 131072) : s.doGrow q = s.outStat q 2 := by
  unfold State.doGrow
  dsimp only
  rw [if_neg (by rw [h]; decide), if_pos hpa]

/-- The core of a queue that grows: it has its extension, and its handler slot starts again. -/
def grown (c : CoreSt) (pa : Nat) : CoreSt := { c with ext := some pa, rxfull := false, held := [] }

theorem State.doGrow_grows (h : s.isRxfull q = true) (ha : (s.slot q).outarg.toNat % 128 = 0)
    (hb : (s.slot q).outarg.toNat + 131072 ≤ hbmSize) (hheld : (s.core (taCore q)).held = []) :
    (s.doGrow q).slot q = {} ∧ (s.doGrow q).core (taCore q) = grown (s.core (taCore q)) (s.slot q).outarg.toNat := by
  have hgood : ¬ ((s.slot q).outarg.toNat % 128 ≠ 0 ∨ hbmSize < (s.slot q).outarg.toNat + 131072) := by omega
  unfold State.doGrow
  dsimp only
  rw [if_neg (by rw [h]; decide), if_neg hgood]
  generalize (s.slot q).outarg.toNat = pa
  have hcore : (((s.modCore (taCore q) fun c => { c with ext := some pa }).restartHandler q).core (taCore q)) =
      { s.core (taCore q) with ext := some pa, rxfull := false } := by
    unfold State.restartHandler
    simp only [State.core, State.modCore, State.setSlot, Store.get_set_same]
  rw [hcore]
  dsimp only
  rw [hheld]
  refine ⟨?_, ?_⟩
  · unfold State.rxRelease State.restartHandler
    simp only [State.slot, State.modCore, State.setSlot, Store.get_set_same]
  · unfold State.rxRelease
    simp only [State.core, State.modCore, Store.get_set_same] at hcore ⊢
    rw [hcore]
    rfl

end

/-- The outcomes, each by what it checks (R336, R337, R340, R341). -/
theorem outcomes : Outcomes := by
  unfold Outcomes
  intro s ta q hq
  refine ⟨fun h i hi hne => exec_rxfull hq h hi hne, fun h => ?_, fun h hst i hi => exec_notFrozen hq h hst hi,
    fun h hst hs u sl x hu hsl hx => ?frozen, fun h => ?entry, fun h => ?_,
    fun h pa hpa => ⟨fun hbad => ?_, fun h128 hhbm hheld => ?_⟩, rfl⟩
  · rw [execResume_eq hq, State.doResume, if_pos h]
    rfl
  case frozen =>
    have hcheck (f : State → State) : s.onFrozen q f = f u := (State.onFrozen_frozen h hst hs f).trans (congrArg f hu.symm)
    subst hsl hx
    refine ⟨fun hspt => ?_, fun hlen => ?_, fun hlen => ?_, ?_, fun hf => ?_, fun hf => ?_, ?_, fun hh => ?_, ?_⟩
    · rw [execResume_eq hq, State.doResume_frozen h, hcheck, State.retryTable_none hspt]
      rfl
    · rw [execSkip_eq hq, State.doSkip, hcheck, if_pos hlen]
    · rw [execSkip_eq hq, State.doSkip, hcheck, if_neg hlen]
      rfl
    · rw [execGoto_eq hq, State.doGoto, hcheck]
      rfl
    · rw [execFcont_eq hq, State.doFcont, hcheck, if_neg hf]
      rfl
    · rw [execFcont_eq hq, State.doFcont, hcheck, if_pos hf]
    · rw [execKillt_eq hq, State.doKillt, hcheck]
    · rw [execKillg_eq hq, State.doKillg, hcheck]
      dsimp only
      rw [if_neg (by rw [hh]; decide), slice_zero_eq_mod]
    · rw [execKillc_eq hq, State.doKillc, hcheck]
  case entry =>
    rw [execReplay_eq hq, execAbandon_eq hq, State.doReplay, State.doAbandon]
    refine ⟨fun hst => ?_, fun hst he => ?_, fun e u hst he hu => ?_⟩
    · rw [State.onEntry_idle h hst, State.onEntry_idle h hst]
      exact ⟨rfl, rfl⟩
    · rw [State.onEntry_none h hst he, State.onEntry_none h hst he]
      exact ⟨rfl, rfl⟩
    · rw [State.onEntry_some h hst he, State.onEntry_some h hst he, ← hu]
      refine ⟨fun hb => ?_, fun hb => ?_, rfl⟩
      · rw [State.replayEntry, if_pos hb]
      · rw [State.replayEntry, if_neg (by rw [hb]; decide)]
  · rw [execGrow_eq hq, State.doGrow, if_pos (by rw [h]; rfl)]
  · subst hpa
    rw [execGrow_eq hq, State.doGrow_bad h hbad]
  · subst hpa
    obtain ⟨hslot, hcore⟩ := State.doGrow_grows h h128 hhbm hheld
    exact ⟨_, execGrow_eq hq, hslot, by rw [hcore]; rfl, by rw [hcore]; rfl, by rw [hcore]; rfl⟩

/-! ## The service of a packet (R338) -/

/-- A page fill leaves the slots as they are. -/
theorem State.pageFill_slots {s u : State} {c : Ctx} {va : Word} (h : s.pageFill c va = some u) : u.slots = s.slots := by
  grind [State.pageFill, State.putBytes, State.setMem, State.invalRange]

section
variable {s : State} {p : Packet} {ta : Nat} {c : Ctx} (hc : s.ctx p.ctxn = some c)
include hc

theorem execFaultService_stale (h : s.pktLive p = false) : exec (.faultService p) s = .next s := by
  show execFaultService p s = _
  unfold execFaultService
  dsimp only
  rw [hc]
  dsimp only
  rw [if_pos (by rw [h]; rfl)]

theorem execFaultService_other (h : s.pktLive p = true) (h6 : p.fcode ≠ 6) : exec (.faultService p) s = .next (s.faultC0 c p) := by
  show execFaultService p s = _
  unfold execFaultService
  dsimp only
  rw [hc]
  dsimp only
  rw [if_neg (by rw [h]; decide), if_pos h6]

variable (h : s.pktLive p = true) (h6 : p.fcode = 6)
include h h6

theorem execFaultService_duty (hd : c.duty 1 = true) : exec (.faultService p) s = .next (s.service 1 p.ctxn (packetBytes p)) := by
  show execFaultService p s = _
  unfold execFaultService
  dsimp only
  rw [hc]
  dsimp only
  rw [if_neg (by rw [h]; decide), if_neg (not_not.2 h6), if_pos hd]

variable (hta : p.taddr.toNat % 65536 = ta) (hd : c.duty 1 = false)
include hta hd

theorem execFaultService_filled {u : State} (hu : s.pageFill c p.faddr = some u) : exec (.faultService p) s = .next
    (if p.park then ((s.core (taCore ta)).rpq.find? fun e => e.no == p.rpqe).elim u fun e => u.replayEntry ta e
     else u.doResume ta) := by
  subst hta
  show execFaultService p s = _
  unfold execFaultService
  dsimp only
  rw [hc]
  dsimp only
  rw [if_neg (by rw [h]; decide), if_neg (not_not.2 h6), if_neg (by rw [hd]; decide), hu, slice_zero_eq_mod]
  cases (s.core (taCore (p.taddr.toNat % 65536))).rpq.find? fun e => e.no == p.rpqe <;> rfl

theorem execFaultService_unfilled (hu : s.pageFill c p.faddr = none) : exec (.faultService p) s = .next
    (if p.park then ((s.core (taCore ta)).rpq.find? fun e => e.no == p.rpqe).elim s fun e => s.abandonEntry ta e
     else s.faultC0 c p) := by
  subst hta
  show execFaultService p s = _
  unfold execFaultService
  dsimp only
  rw [hc]
  dsimp only
  rw [if_neg (by rw [h]; decide), if_neg (not_not.2 h6), if_neg (by rw [hd]; decide), hu, slice_zero_eq_mod]
  cases (s.core (taCore (p.taddr.toNat % 65536))).rpq.find? fun e => e.no == p.rpqe <;> rfl

end

section
variable {s : State} {p : Packet} {ta : Nat} {c : Ctx} (hta : p.taddr.toNat % 65536 = ta) (hpair : s.pairOf ta = ta)
  (hd : c.duty 0 = false)
include hta hpair hd

theorem State.faultC0_hardware : s.faultC0 c p =
    if p.fcode = 0x0F then s.doResume ta
    else if taHnd ta then s.doKillt ta
    else if c.policy p.fcode then s.doFcont ta
    else s.doKillt ta := by
  subst hta
  exact if_neg (by rw [hd]; decide)

theorem faultC0_resumes (hf : p.fcode = 0x0F) : (.next (s.faultC0 c p) : Out) = exec (.resume ta) s := by
  have hmod : ta % 65536 = ta := by omega
  rw [execResume_eq (q := ta) (by rw [hmod]; exact hpair), State.faultC0_hardware hta hpair hd, if_pos hf]

theorem faultC0_kills (hf : p.fcode ≠ 0x0F) (hk : taHnd ta = true ∨ c.policy p.fcode = false) :
    (.next (s.faultC0 c p) : Out) = exec (.killt ta) s := by
  have hmod : ta % 65536 = ta := by omega
  rw [execKillt_eq (q := ta) (by rw [hmod]; exact hpair), State.faultC0_hardware hta hpair hd, if_neg hf]
  rcases hk with hk | hk
  · rw [if_pos hk]
  · rw [hk]
    simp

theorem faultC0_delivers (hf : p.fcode ≠ 0x0F) (hh : taHnd ta = false) (hpol : c.policy p.fcode = true) :
    (.next (s.faultC0 c p) : Out) = exec (.fcont ta) s := by
  have hmod : ta % 65536 = ta := by omega
  rw [execFcont_eq (q := ta) (by rw [hmod]; exact hpair), State.faultC0_hardware hta hpair hd, if_neg hf,
    if_neg (by rw [hh]; decide), if_pos hpol]

end

/-- The service of a packet, by its fault and the duties of its context (R338). -/
theorem faultService : FaultService := by
  unfold FaultService
  intro s p ta c hta hpair hc
  refine ⟨execFaultService_stale hc, fun h h6 => ?other, fun h h6 => ⟨execFaultService_duty hc h h6, fun hd => ?page⟩⟩
  case other =>
    rw [execFaultService_other hc h h6]
    refine ⟨fun hd => by rw [State.faultC0, if_pos hd], fun hd => ⟨faultC0_resumes hta hpair hd, faultC0_kills hta hpair hd,
      faultC0_delivers hta hpair hd⟩⟩
  case page =>
    refine ⟨fun u hu hpark => ?_, fun e he hpark => ⟨fun u hu => ?_, fun hu => ?_⟩, fun hu hpark hd0 => ?_⟩
    · have hmod : ta % 65536 = ta := by omega
      have hpu : u.pairOf (ta % 65536) = ta := by
        rw [hmod, State.pairOf, State.slot, State.pageFill_slots hu]
        exact hpair
      rw [execFaultService_filled hc h h6 hta hd hu, if_neg (by rw [hpark]; decide), execResume_eq hpu]
    · rw [execFaultService_filled hc h h6 hta hd hu, if_pos hpark, he]
      rfl
    · rw [execFaultService_unfilled hc h h6 hta hd hu, if_pos hpark, he]
      rfl
    · have h15 : p.fcode ≠ 0x0F := by rw [h6]; decide
      rw [execFaultService_unfilled hc h h6 hta hd hu, if_neg (by rw [hpark]; decide), ← h6]
      exact ⟨faultC0_kills hta hpair hd0 h15, faultC0_delivers hta hpair hd0 h15⟩

/-- Settles O46: an outcome by the first check it fails, else by what it does; the service of a packet by its duty and code. -/
theorem faultHandling : Obligations.FaultHandling := ⟨outcomes, faultService⟩

end Sys2Proof.Machine
end

section
/-! SUPPORT. The commands that create and end contexts, invalidate translations, open and close launch windows, set the service
ring, the duties and the device's number, lose a device, and wire and free strands (R313 to R318, R323 to R325, R327 to R329). -/

namespace Sys2Proof.Machine

open Sys2Proof.Claims

/-! ## Arguments and answers (R313) -/

theorem argCtx_eq (s : State) : slice (s.arg 1) 0 6 = argCtx s := slice_zero_eq_mod ..

theorem answers_of {i : Instr} {s x : State} {code value : Nat} (h : exec i s = .next (x.cmdDone code value)) :
    Answers i s x code value := h

theorem State.isNone_ctx {s : State} {n : Nat} (h : s.ctx n = none) : (s.ctx n).isNone = true := by rw [h]; rfl
theorem State.not_isNone_ctx {s : State} {n : Nat} {c : Ctx} (h : s.ctx n = some c) : ¬ (s.ctx n).isNone = true := by
  rw [h]
  exact Bool.false_ne_true

/-- The low bits of an argument as the commands name them. -/
theorem slice_zero_2 (x : Word) : slice x 0 2 = x.toNat % 4 := slice_zero_eq_mod ..
theorem slice_zero_4 (x : Word) : slice x 0 4 = x.toNat % 16 := slice_zero_eq_mod ..
theorem slice_zero_12 (x : Word) : slice x 0 12 = x.toNat % 4096 := slice_zero_eq_mod ..
theorem slice_zero_16 (x : Word) : slice x 0 16 = x.toNat % 65536 := slice_zero_eq_mod ..

/-- Whether some context of the table has a property. -/
def State.anyCtx (s : State) (p : Ctx → Bool) : Bool := s.ctxs.any fun q => match q.2 with | some c => p c | none => false

theorem State.anyCtx_iff (s : State) (p : Ctx → Bool) : s.anyCtx p = true ↔ ∃ q ∈ s.ctxs, ∃ c, q.2 = some c ∧ p c = true := by
  unfold State.anyCtx
  rw [List.any_eq_true]
  refine exists_congr fun q => and_congr_right fun _ => ?_
  cases q.2 <;> simp

theorem State.not_anyCtx {s : State} {p : Ctx → Bool} (h : ∀ q ∈ s.ctxs, ∀ c, q.2 = some c → p c = false) :
    ¬ s.anyCtx p = true := fun hany =>
  have ⟨q, hq, c, hc, hp⟩ := (s.anyCtx_iff p).1 hany
  Bool.false_ne_true ((h q hq c hc).symm.trans hp)

/-! ## Contexts (R315 to R317) -/

section
variable {s : State}

/-- Creating a context changes the contexts and the settle regions. -/
theorem State.createCtx_ctx (s : State) (n : Nat) (c : Ctx) : (s.createCtx n c).ctx n = some c := by
  refine (congrArg (fun l => Store.get none l n) ?_).trans (State.ctx_setCtx s n (some c))
  exact foldl_keeps State.ctxs (f := fun (s : State) (e : Nat × Nat × Nat × Nat) =>
    { s with regions := Store.set s.regions (regionKey n e.1) (some { die := e.2.1, first := e.2.2.1, count := e.2.2.2 }) })
    (fun _ _ => rfl) _ _

theorem State.createCtx_regions {n : Nat} {c : Ctx} (h : s.settab c = []) : (s.createCtx n c).regions = s.regions := by
  unfold State.createCtx
  rw [h]
  rfl

theorem asidUsed_iff (s : State) (a : Nat) :
    s.anyCtx (fun x => x.asid == a) = true ↔ asidUsed s a := by
  rw [State.anyCtx_iff, asidUsed]
  simp only [beq_iff_eq]

theorem execCtxCreate_exists (h : s.ctx (argCtx s) ≠ none) : Answers .ctxCreate s s 1 0 := by
  show execCtxCreate s = .next (s.cmdDone 1 0)
  unfold execCtxCreate
  dsimp only
  rw [argCtx_eq, if_pos (Option.isSome_iff_ne_none.2 h)]

section
variable (h : s.ctx (argCtx s) = none)
include h

theorem execCtxCreate_free : execCtxCreate s = .next
    (if (s.arg 0).toNat % 64 ≠ 0 ∨ (!inHbm (s.arg 0).toNat 128) = true then s.cmdDone 3 0
     else if s.anyCtx fun x => x.asid == (argDesc s).asid then s.cmdDone 2 0
     else if s.badDesc (argDesc s) then s.cmdDone 3 0
     else (s.createCtx (argCtx s) (argDesc s)).cmdDone 0 0) := by
  unfold execCtxCreate
  dsimp only
  rw [argCtx_eq, if_neg (by rw [h]; exact Bool.false_ne_true)]
  rfl

theorem execCtxCreate_place (hp : (s.arg 0).toNat % 64 ≠ 0 ∨ inHbm (s.arg 0).toNat 128 = false) : Answers .ctxCreate s s 3 0 := by
  refine answers_of ((execCtxCreate_free h).trans ?_)
  rw [if_pos (hp.imp_right fun hi => by rw [hi]; rfl)]

variable (h64 : (s.arg 0).toNat % 64 = 0) (hin : inHbm (s.arg 0).toNat 128 = true)
include h64 hin

theorem execCtxCreate_placed : execCtxCreate s = .next
    (if s.anyCtx fun x => x.asid == (argDesc s).asid then s.cmdDone 2 0
     else if s.badDesc (argDesc s) then s.cmdDone 3 0
     else (s.createCtx (argCtx s) (argDesc s)).cmdDone 0 0) := by
  rw [execCtxCreate_free h, if_neg (by rw [hin]; simp [h64])]

theorem execCtxCreate_asid (ha : asidUsed s (argDesc s).asid) : Answers .ctxCreate s s 2 0 := by
  refine answers_of ((execCtxCreate_placed h h64 hin).trans ?_)
  rw [if_pos ((asidUsed_iff ..).2 ha)]

theorem execCtxCreate_desc (ha : ¬ asidUsed s (argDesc s).asid) (hb : s.badDesc (argDesc s) = true) :
    Answers .ctxCreate s s 3 0 := by
  refine answers_of ((execCtxCreate_placed h h64 hin).trans ?_)
  rw [if_neg (mt (asidUsed_iff ..).1 ha), if_pos hb]

theorem execCtxCreate_creates (ha : ¬ asidUsed s (argDesc s).asid) (hb : s.badDesc (argDesc s) = false) :
    Answers .ctxCreate s (s.createCtx (argCtx s) (argDesc s)) 0 0 := by
  refine answers_of ((execCtxCreate_placed h h64 hin).trans ?_)
  rw [if_neg (mt (asidUsed_iff ..).1 ha), if_neg (by rw [hb]; exact Bool.false_ne_true)]

end

theorem execCtxKill_eq (s : State) : execCtxKill s =
    .next (if (s.ctx (argCtx s)).isSome then (s.killCtx (argCtx s)).cmdDone 0 0 else s.cmdDone 1 0) := by
  unfold execCtxKill
  rw [argCtx_eq]

/-! ## INVAL (R323) -/

/-- The accesses that INVAL waits for. -/
theorem translated_iff (s : State) (n : Nat) : s.translated n = true ↔ holdsPlaces s n := by
  have hops : (s.engines.any fun p => p.2.ops.any fun o => o.ctx == n && (decide (2 ≤ o.st) || o.coll.isSome)) = true ↔
      ∃ p ∈ s.engines, ∃ o ∈ p.2.ops, o.ctx = n ∧ (2 ≤ o.st ∨ o.coll ≠ none) := by
    simp [List.any_eq_true, Option.isSome_iff_ne_none]
  have hamo : (s.agenda.any fun i => match i with | .atomicAtHome r => r.ctx == n | _ => false) = true ↔
      ∃ r, .atomicAtHome r ∈ s.agenda ∧ r.ctx = n := by
    rw [List.any_eq_true]
    constructor
    · rintro ⟨i, hi, h⟩
      split at h
      · exact ⟨_, hi, beq_iff_eq.1 h⟩
      · cases h
    · rintro ⟨r, hr, h⟩
      exact ⟨_, hr, beq_iff_eq.2 h⟩
  have hst : (s.slots.any fun p => p.2.ctx == n && !p.2.heldSt.isEmpty) = true ↔ ∃ p ∈ s.slots, p.2.ctx = n ∧ p.2.heldSt ≠ [] := by
    simp [List.any_eq_true]
  have hreg : (s.regions.any fun p => p.1 / 16 == n && (match p.2 with | some r => !r.smps.isEmpty | none => false)) = true ↔
      ∃ p ∈ s.regions, p.1 / 16 = n ∧ ∃ r, p.2 = some r ∧ r.smps ≠ [] := by
    rw [List.any_eq_true]
    refine exists_congr fun p => and_congr_right fun _ => ?_
    cases p.2 <;> simp
  unfold State.translated holdsPlaces
  rw [Bool.or_eq_true, Bool.or_eq_true, Bool.or_eq_true, or_assoc, or_assoc]
  exact or_congr hops (or_congr hamo (or_congr hst hreg))

section
variable {c : Ctx} (hc : s.ctx (argCtx s) = some c)
include hc

theorem execInval_waits (h : holdsPlaces s (argCtx s)) : exec .inval s = .next ((s.pairsExchange (argCtx s)).post .inval) := by
  show execInval s = _
  unfold execInval
  dsimp only
  rw [argCtx_eq, hc]
  dsimp only
  rw [if_pos ((translated_iff ..).2 h)]

variable (h : ¬ holdsPlaces s (argCtx s))
include h

theorem execInval_all (h2 : s.arg 2 = 0) : Answers .inval s { s with tlb := s.tlb.filter fun e => e.asid ≠ c.asid } 0 0 := by
  have hne : (fun e : TlbEntry => e.asid != c.asid) = fun e => decide (e.asid ≠ c.asid) := by
    funext e
    exact Bool.eq_iff_iff.2 (by simp)
  refine answers_of ?_
  show execInval s = _
  unfold execInval
  dsimp only
  rw [argCtx_eq, hc]
  dsimp only
  rw [if_neg (mt (translated_iff ..).1 h), if_pos h2, hne]

theorem execInval_range (h2 : s.arg 2 ≠ 0) : Answers .inval s { s with tlb := s.tlb.filter fun e =>
    ¬ (e.asid = c.asid ∧ e.page < (s.arg 0).toNat + (s.arg 2).toNat ∧ (s.arg 0).toNat < e.page + e.size) } 0 0 := by
  have hin : (fun e : TlbEntry => !(e.asid == c.asid && decide (e.page < (s.arg 0).toNat + (s.arg 2).toNat) &&
      decide ((s.arg 0).toNat < e.page + e.size))) = fun e =>
        decide ¬ (e.asid = c.asid ∧ e.page < (s.arg 0).toNat + (s.arg 2).toNat ∧ (s.arg 0).toNat < e.page + e.size) := by
    funext e
    exact Bool.eq_iff_iff.2 (by simp [or_assoc])
  refine answers_of ?_
  show execInval s = _
  unfold execInval
  dsimp only
  rw [argCtx_eq, hc]
  dsimp only
  rw [if_neg (mt (translated_iff ..).1 h), if_neg h2, State.invalRange, hin]

end

/-! ## Launch windows (R318) -/

theorem execLaunchOpen_eq {c : Ctx} (hc : s.ctx (argCtx s) = some c) : execLaunchOpen s = .next
    (match s.freeWin with
      | none => s.cmdDone 2 0
      | some i =>
        if (s.arg 3).toNat % 16 = 0 ∨ 10 < (s.arg 3).toNat % 16 then s.cmdDone 3 0
        else (s.modWin i fun _ => { isOpen := true, ctx := argCtx s, die := (s.arg 2).toNat % 4
                                    l := (s.arg 3).toNat % 16 }).cmdDone 0 i) := by
  unfold execLaunchOpen
  dsimp only
  rw [argCtx_eq, if_neg (State.not_isNone_ctx hc), slice_zero_2, slice_zero_4] <;> rfl

theorem execLaunchOpen_none (h : s.ctx (argCtx s) = none) : Answers .launchOpen s s 1 0 := by
  show execLaunchOpen s = .next (s.cmdDone 1 0)
  unfold execLaunchOpen
  dsimp only
  rw [argCtx_eq, if_pos (State.isNone_ctx h)]

theorem execLaunchClose_open (hi : (s.arg 1).toNat < 256) (ho : (s.win (s.arg 1).toNat).isOpen = true) :
    Answers .launchClose s (s.modWin (s.arg 1).toNat fun w => { w with isOpen := false }) 0 0 := by
  refine answers_of ?_
  show execLaunchClose s = _
  unfold execLaunchClose
  dsimp only
  rw [if_pos ⟨hi, ho⟩]

theorem execLaunchClose_other (h : 256 ≤ (s.arg 1).toNat ∨ (s.win (s.arg 1).toNat).isOpen = false) : Answers .launchClose s s 1 0 := by
  show execLaunchClose s = .next (s.cmdDone 1 0)
  unfold execLaunchClose
  dsimp only
  rw [if_neg]
  rintro ⟨hi, ho⟩
  rcases h with h | h
  · omega
  · exact Bool.false_ne_true (h.symm.trans ho)

/-! ## STRAND_WIRE and STRAND_FREE (R328) -/

theorem argStrand_eq (s : State) : strandKey (argCtx s) (slice (s.arg 2) 0 16) = argStrand s := by
  rw [slice_zero_eq_mod]
  rfl

theorem execStrandWire_none (h : s.ctx (argCtx s) = none) : Answers .strandWire s s 1 0 := by
  show execStrandWire s = .next (s.cmdDone 1 0)
  unfold execStrandWire
  dsimp only
  rw [argCtx_eq, h]

/-- The checks of a ring as the model writes them (R328). -/
theorem badRing_iff (a : Word) : (slice a 27 37 ≠ 0 ∨ 5 < slice a 20 3 ∨ slice a 23 4 = 0 ∨ 10 < slice a 23 4 ∨
    slice a 0 20 % (8 * 2 ^ slice a 20 3) ≠ 0 ∨ 0xF4000 < slice a 0 20 + 2 ^ slice a 23 4 * (8 * 2 ^ slice a 20 3)) ↔ badRing a := by
  have hlt : a.toNat / 2 ^ 27 < 2 ^ 37 := Nat.div_lt_of_lt_mul (by simpa using a.isLt)
  rw [slice_eq_div_mod, Nat.mod_eq_of_lt hlt, slice_eq_div_mod, slice_eq_div_mod, slice_zero_eq_mod]
  rfl

theorem freshStrand_reuse (ctx idx reuse sz l : Nat) (src snk : StrandEnd) (off : Nat) :
    (freshStrand ctx idx reuse sz l src snk off).reuse = reuse := rfl

/-- The strand that STRAND_WIRE makes between two ends (R328). -/
def State.wired (s : State) (src snk : StrandEnd) : Strand :=
  freshStrand (argCtx s) ((s.arg 2).toNat % 65536) (s.freeReuse (argCtx s) ((s.arg 2).toNat % 65536)) (slice (s.arg 5) 20 3)
    (slice (s.arg 5) 23 4) src snk (slice (s.arg 5) 0 20)

theorem State.wired_eq (s : State) (src snk : StrandEnd) : s.wired src snk =
    freshStrand (argCtx s) ((s.arg 2).toNat % 65536) (s.freeReuse (argCtx s) ((s.arg 2).toNat % 65536))
      ((s.arg 5).toNat / 2 ^ 20 % 8) ((s.arg 5).toNat / 2 ^ 23 % 16) src snk ((s.arg 5).toNat % 2 ^ 20) := by
  unfold State.wired
  rw [slice_eq_div_mod, slice_eq_div_mod, slice_zero_eq_mod]
  rfl

/-- What STRAND_WIRE does with a free entry (R328). -/
def State.wiring (s : State) (src snk : Option StrandEnd) : State :=
  match src, snk with
  | some src, some snk =>
    if slice (s.arg 5) 27 37 ≠ 0 ∨ 5 < slice (s.arg 5) 20 3 ∨ slice (s.arg 5) 23 4 = 0 ∨ 10 < slice (s.arg 5) 23 4 ∨
        slice (s.arg 5) 0 20 % (8 * 2 ^ slice (s.arg 5) 20 3) ≠ 0 ∨
        0xF4000 < slice (s.arg 5) 0 20 + 2 ^ slice (s.arg 5) 23 4 * (8 * 2 ^ slice (s.arg 5) 20 3) then s.cmdDone 4 0
    else (s.putStrand (s.wired src snk)).cmdDone 0 (s.wired src snk).reuse
  | _, _ => s.cmdDone 3 0

section
variable {c : Ctx} (hc : s.ctx (argCtx s) = some c)
include hc

theorem execStrandWire_used (h : c.strn ≤ (s.arg 2).toNat % 65536 ∨ s.strand? (argStrand s) ≠ none) :
    Answers .strandWire s s 2 0 := by
  show execStrandWire s = .next (s.cmdDone 2 0)
  unfold execStrandWire
  dsimp only
  rw [argCtx_eq, hc]
  dsimp only
  rw [argStrand_eq, slice_zero_16, if_pos (h.imp_right Option.isSome_iff_ne_none.2)]

variable (hidx : (s.arg 2).toNat % 65536 < c.strn) (hfree : s.strand? (argStrand s) = none)
include hidx hfree

theorem execStrandWire_free : execStrandWire s = .next (s.wiring (s.wireEnd c (s.arg 3)) (s.wireEnd c (s.arg 4))) := by
  have hopen : ¬ (c.strn ≤ (s.arg 2).toNat % 65536 ∨ (s.strand? (argStrand s)).isSome = true) := by
    rw [hfree]
    simpa using hidx
  unfold execStrandWire State.wiring State.wired
  dsimp only
  rw [argCtx_eq, hc]
  dsimp only
  rw [argStrand_eq, slice_zero_16 (s.arg 2)]
  refine (congrArg Host.Outcome.next (if_neg hopen)).trans ?_
  cases s.wireEnd c (s.arg 3) with
  | none => rfl
  | some src =>
    cases s.wireEnd c (s.arg 4) with
    | none => rfl
    | some snk => rfl

theorem execStrandWire_location (h : s.wireEnd c (s.arg 3) = none ∨ s.wireEnd c (s.arg 4) = none) :
    Answers .strandWire s s 3 0 := by
  refine answers_of ((execStrandWire_free hc hidx hfree).trans ?_)
  rcases h with h | h
  · rw [h, State.wiring]
    exact fun _ _ h => nomatch h
  · rw [h]
    cases s.wireEnd c (s.arg 3) <;> rfl

variable {a b : StrandEnd} (ha : s.wireEnd c (s.arg 3) = some a) (hb : s.wireEnd c (s.arg 4) = some b)
include ha hb

theorem execStrandWire_ring (h : badRing (s.arg 5)) : Answers .strandWire s s 4 0 := by
  refine answers_of ((execStrandWire_free hc hidx hfree).trans ?_)
  rw [ha, hb, State.wiring, if_pos ((badRing_iff _).2 h)]

theorem execStrandWire_wires (h : ¬ badRing (s.arg 5)) : Answers .strandWire s
    (s.putStrand (freshStrand (argCtx s) ((s.arg 2).toNat % 65536) (s.freeReuse (argCtx s) ((s.arg 2).toNat % 65536))
      ((s.arg 5).toNat / 2 ^ 20 % 8) ((s.arg 5).toNat / 2 ^ 23 % 16) a b ((s.arg 5).toNat % 2 ^ 20))) 0
      (s.freeReuse (argCtx s) ((s.arg 2).toNat % 65536)) := by
  refine answers_of ((execStrandWire_free hc hidx hfree).trans ?_)
  rw [ha, hb, State.wiring, if_neg (mt (badRing_iff _).1 h), State.wired_eq, freshStrand_reuse]

end

theorem execStrandFree_none (h : s.ctx (argCtx s) = none) : Answers .strandFree s s 1 0 := by
  show execStrandFree s = .next (s.cmdDone 1 0)
  unfold execStrandFree
  dsimp only
  rw [argCtx_eq, if_pos (State.isNone_ctx h)]

/-- An end that is gone is not closed again. -/
theorem State.closeLive_gone {k : Nat} {x : Strand} {sink : Bool} (hx : s.strand? k = some x) (h : (x.side sink).live = false) :
    s.closeLive k sink = s := by
  unfold State.closeLive
  rw [hx]
  exact if_neg (by rw [h]; exact Bool.false_ne_true)

theorem execStrandFree_empty {c : Ctx} (hc : s.ctx (argCtx s) = some c) (h : s.strand? (argStrand s) = none) :
    Answers .strandFree s s 2 0 := by
  show execStrandFree s = .next (s.cmdDone 2 0)
  unfold execStrandFree
  dsimp only
  rw [argCtx_eq, if_neg (State.not_isNone_ctx hc), argStrand_eq, h]
  rfl

theorem execStrandFree_frees {c : Ctx} (hc : s.ctx (argCtx s) = some c) {x : Strand} (hx : s.strand? (argStrand s) = some x)
    (hsrc : (x.side false).live = false) (hsnk : (x.side true).live = false) : Answers .strandFree s (s.freeStrand x) 0 0 := by
  refine answers_of ?_
  show execStrandFree s = _
  unfold execStrandFree
  dsimp only
  rw [argCtx_eq, if_neg (State.not_isNone_ctx hc), argStrand_eq, State.closeLive_gone hx hsrc, State.closeLive_gone hx hsnk, hx]
  rfl

/-! ## Service ring and devices (R325, R327, R329) -/

theorem execSvcRing_eq (s : State) : execSvcRing s = .next
    (if (s.arg 0).toNat % 64 ≠ 0 then s.cmdDone 1 0
     else if (s.arg 2).toNat % 16 = 0 ∨ 10 < (s.arg 2).toNat % 16 then s.cmdDone 2 0
     else (State.svcRun { s with host := { s.host with
       ring := some (s.arg 0).toNat, ringL := (s.arg 2).toNat % 16, sent := 0, used := 0 } } s.host.waiting).cmdDone 0 0) := by
  unfold execSvcRing
  dsimp only
  rw [slice_zero_4]

theorem execDevLost_eq (s : State) : execDevLost s = .next
    (if s.anyCtx fun c => s.inFabric c ((s.arg 0).toNat % 65536) then
      (s.loseDevice ((s.arg 0).toNat % 65536)).cmdDone 0 0
     else s.cmdDone 1 0) := by
  unfold execDevLost
  dsimp only
  rw [slice_zero_16]
  rfl

/-- The members of the fabric with their routes, as LYONG_SETUP reads them (R327). -/
def State.routesAt (s : State) (pa : Nat) : List (Nat × Nat) :=
  (List.range 4096).filterMap fun i =>
    let m := ofBytes (s.bytes (pa + 2 * i) 2)
    if m = 0 then none else some (i, m)

theorem State.mem_routesAt (s : State) (pa i m : Nat) :
    (i, m) ∈ s.routesAt pa ↔ i < 4096 ∧ m = ofBytes (s.bytes (pa + 2 * i) 2) ∧ m ≠ 0 := by
  unfold State.routesAt
  rw [List.mem_filterMap]
  constructor
  · rintro ⟨j, hj, h⟩
    dsimp only at h
    split at h
    · cases h
    · cases h
      exact ⟨List.mem_range.1 hj, rfl, ‹_›⟩
  · rintro ⟨hi, rfl, h0⟩
    exact ⟨i, List.mem_range.2 hi, if_neg h0⟩

theorem execLyongSetup_eq (s : State) : execLyongSetup s = .next
    (if (s.arg 0).toNat % 4096 = 0 then s.cmdDone 1 0
     else if (s.arg 1).toNat % 64 ≠ 0 ∨ (!inHbm (s.arg 1).toNat 8192) = true then s.cmdDone 2 0
     else if s.anyCtx fun c => c.fabgrp != 0 then s.cmdDone 3 0
     else { s with host := { s.host with
       devNo := (s.arg 0).toNat % 4096, routes := s.routesAt (s.arg 1).toNat, ports := (s.arg 2).setWidth 16
       up := s.host.up &&& (s.arg 2).setWidth 16 } }.cmdDone 0 0) := by
  unfold execLyongSetup
  dsimp only
  rw [slice_zero_12]
  rfl

end

/-- The first part of O53. -/
theorem hostCommands : HostCommands := by
  unfold HostCommands
  intro s
  refine ⟨fun n c hn hc => ?create, fun n hn => ⟨fun h => ?noCtx, fun c hc => ?ctx⟩, execLaunchClose_open, execLaunchClose_other,
    fun h => ?ringBad, fun h l hl => ?ring, rfl, fun d hd => ⟨fun h => ?devNone, fun h => ?devSome⟩, fun no pa hno hpa => ?lyong, rfl⟩
  case create =>
    subst hn hc
    exact ⟨execCtxCreate_exists, execCtxCreate_place, fun h h64 hin => ⟨execCtxCreate_asid h h64 hin, execCtxCreate_desc h h64 hin,
      fun ha hb => ⟨execCtxCreate_creates h h64 hin ha hb, State.createCtx_ctx .., State.createCtx_regions⟩⟩⟩
  case noCtx =>
    subst hn
    refine ⟨?_, ?_, execLaunchOpen_none h, execStrandWire_none h, execStrandFree_none h⟩
    · refine answers_of ((execCtxKill_eq s).trans ?_)
      rw [h]
      rfl
    · show execInval s = .next (s.cmdDone 1 0)
      unfold execInval
      dsimp only
      rw [argCtx_eq, h]
  case ctx =>
    subst hn
    refine ⟨?_, execInval_waits hc, execInval_all hc, execInval_range hc, fun hw => ?_, fun i l hw hl => ⟨fun hbad => ?_, fun h1 h10 => ?_⟩,
      execStrandWire_used hc, fun hidx hfree => ⟨execStrandWire_location hc hidx hfree, fun a b ha hb =>
        ⟨execStrandWire_ring hc hidx hfree ha hb, fun hgood r hr => hr ▸ execStrandWire_wires hc hidx hfree ha hb hgood⟩⟩,
      execStrandFree_empty hc, fun x hx => execStrandFree_frees hc hx⟩
    · refine answers_of ((execCtxKill_eq s).trans ?_)
      rw [hc]
      rfl
    · refine answers_of ((execLaunchOpen_eq hc).trans ?_)
      rw [hw]
    · subst hl
      refine answers_of ((execLaunchOpen_eq hc).trans ?_)
      rw [hw]
      dsimp only
      rw [if_pos hbad]
    · subst hl
      refine answers_of ((execLaunchOpen_eq hc).trans ?_)
      rw [hw]
      dsimp only
      rw [if_neg (by omega)]
  case ringBad =>
    refine answers_of ((execSvcRing_eq s).trans ?_)
    rw [if_pos h]
  case ring =>
    subst hl
    refine ⟨fun hbad => ?_, fun h1 h10 => ?_⟩
    · refine answers_of ((execSvcRing_eq s).trans ?_)
      rw [if_neg (not_not.2 h), if_pos hbad]
    · refine answers_of ((execSvcRing_eq s).trans ?_)
      rw [if_neg (not_not.2 h), if_neg (by omega)]
  case devNone =>
    subst hd
    refine answers_of ((execDevLost_eq s).trans ?_)
    rw [if_neg (State.not_anyCtx h)]
  case devSome =>
    subst hd
    refine answers_of ((execDevLost_eq s).trans ?_)
    rw [if_pos ((State.anyCtx_iff ..).2 h)]
  case lyong =>
    subst hno hpa
    have hfab : (∃ p ∈ s.ctxs, ∃ c, p.2 = some c ∧ c.fabgrp ≠ 0) → s.anyCtx (fun c => c.fabgrp != 0) = true :=
      fun ⟨p, hp, c, hc, h0⟩ => (s.anyCtx_iff _).2 ⟨p, hp, c, hc, bne_iff_ne.2 h0⟩
    refine ⟨fun h => ?_, fun h1 => ⟨fun hbad => ?_, fun h64 hin => ⟨fun h => ?_, fun h => ?_⟩⟩⟩
    · refine answers_of ((execLyongSetup_eq s).trans ?_)
      rw [if_pos h]
    · refine answers_of ((execLyongSetup_eq s).trans ?_)
      rw [if_neg (by omega), if_pos (hbad.imp_right fun hi => by rw [hi]; rfl)]
    · refine answers_of ((execLyongSetup_eq s).trans ?_)
      rw [if_neg (by omega), if_neg (by rw [hin]; simp [h64]), if_pos (hfab h)]
    · have hno : ¬ s.anyCtx (fun c => c.fabgrp != 0) = true :=
        State.not_anyCtx fun p hp c hc => by rw [h p hp c hc]; rfl
      have hset := execLyongSetup_eq s
      rw [if_neg (by omega), if_neg (by rw [hin]; simp [h64]), if_neg hno] at hset
      refine ⟨_, hset, rfl, rfl, rfl, rfl, rfl, rfl, fun i m => ?_⟩
      dsimp only [State.cmdDone]
      exact s.mem_routesAt ..

end Sys2Proof.Machine
end

section
/-! SUPPORT. The commands that stop, save, restore and release contexts and units, THAW and DBG_MAP (R344, R348 to R351). -/

namespace Sys2Proof.Machine

open Sys2Proof.Claims

/-! ## Contexts that are quiesced (R348) -/

theorem State.modCtx_some {s : State} {n : Nat} {c : Ctx} (h : s.ctx n = some c) (f : Ctx → Ctx) :
    s.modCtx n f = s.setCtx n (some (f c)) := by
  unfold State.modCtx
  rw [h]

/-- Whether a context is frozen, as UNQUIESCE and IMAGE_WRITE ask. -/
theorem State.isQuiesced_iff (s : State) (n : Nat) : s.isQuiesced n = true ↔ Claims.isQuiesced s n := by
  unfold State.isQuiesced Claims.isQuiesced
  cases s.ctx n <;> simp

section
variable {s : State}

/-! ## QUIESCE (R348) -/

theorem execQuiesce_none (h : ∃ n ∈ bitmapOf (s.arg 0), s.ctx n = none) : Answers .quiesce s s 1 0 := by
  obtain ⟨n, hn, hc⟩ := h
  have hany : ((bitmapOf (s.arg 0)).any fun n => (s.ctx n).isNone) = true :=
    List.any_eq_true.2 ⟨n, hn, State.isNone_ctx hc⟩
  show execQuiesce s = .next (s.cmdDone 1 0)
  unfold execQuiesce
  dsimp only
  rw [if_pos hany]

/-- A context that has stopped and is quiet freezes (R348). -/
def State.freezing (x : State) (n : Nat) (c : Ctx) : State := x.setCtx n (some { c with quiesced := true, frozeAt := x.time })

theorem State.cmdDone_freezing (x : State) (n : Nat) (c : Ctx) (v : Nat) :
    ((x.freezing n c).cmdDone 0 v).host.busy = false ∧ ((x.freezing n c).cmdDone 0 v).host.code = 0 ∧
      ((x.freezing n c).cmdDone 0 v).ctx n = some { c with quiesced := true, frozeAt := x.time } ∧
      ((x.freezing n c).cmdDone 0 v).mem = x.mem ∧ ((x.freezing n c).cmdDone 0 v).slots = x.slots :=
  ⟨rfl, rfl, State.ctx_setCtx .., rfl, rfl⟩

section
variable {n : Nat} {c c1 : Ctx} (hb : bitmapOf (s.arg 0) = [n]) (hc : s.ctx n = some c) (hq : c.quiesced = false)
  (hx : (s.quiesceStep n).ctx n = some c1) (hq1 : c1.quiesced = false)
include hb hc hq hx hq1

theorem execQuiesce_waits (h : (s.quiesceStep n).quiet n = false) :
    exec .quiesce s = .next ((s.quiesceStep n).post .quiesce) := by
  show execQuiesce s = _
  unfold execQuiesce
  simp [hb, hc, hq, hx, hq1, h]

theorem execQuiesce_freezes (h : (s.quiesceStep n).quiet n = true) :
    ∃ v, exec .quiesce s = .next (((s.quiesceStep n).freezing n c1).cmdDone 0 v) := by
  refine ⟨0 + (((s.quiesceStep n).freezing n c1).imageBytes n
    { c1 with quiesced := true, frozeAt := (s.quiesceStep n).time }).length, ?_⟩
  show execQuiesce s = _
  unfold execQuiesce
  simp only [hb, List.any_cons, List.any_nil, Bool.or_false, List.foldl_cons, List.foldl_nil, List.all_cons, List.all_nil,
    Bool.and_true, hc, hq, hx, hq1, h, State.modCtx_some hx, State.ctx_setCtx, Option.isNone_some, Bool.false_eq_true, if_false,
    Bool.not_false, if_true, List.map_cons, List.map_nil, State.freezing]

end

/-! ## UNQUIESCE (R351) -/

theorem execUnquiesce_other (h : ∃ n ∈ bitmapOf (s.arg 0), ¬ Claims.isQuiesced s n) : Answers .unquiesce s s 1 0 := by
  obtain ⟨n, hn, hq⟩ := h
  have hany : ((bitmapOf (s.arg 0)).any fun n => !s.isQuiesced n) = true :=
    List.any_eq_true.2 ⟨n, hn, by rw [Bool.eq_false_iff.2 (mt (s.isQuiesced_iff n).1 hq)]; rfl⟩
  show execUnquiesce s = .next (s.cmdDone 1 0)
  unfold execUnquiesce
  exact congrArg Host.Outcome.next (if_pos hany)

/-- A context is released: its units may run again, and its aborted copies complete (R351). -/
def State.released (s : State) (n : Nat) (c : Ctx) : State :=
  c.aborted.foldl (fun (s : State) a => s.releaseCopy n a)
    (s.setCtx n (some { c with quiesced := false, stopped := false, aborted := [] }))

theorem execUnquiesce_one {n : Nat} {c : Ctx} (hb : bitmapOf (s.arg 0) = [n]) (hc : s.ctx n = some c) (hq : c.quiesced = true) :
    Answers .unquiesce s (s.released n c) 0 0 := by
  refine answers_of ?_
  show execUnquiesce s = _
  unfold execUnquiesce
  simp only [hb, List.any_cons, List.any_nil, Bool.or_false, List.foldl_cons, List.foldl_nil, hc, hq, Bool.not_true,
    Bool.false_eq_true, if_false]
  rfl

/-- A context without aborted copies keeps its empty list of them. -/
theorem Ctx.aborted_cleared {c : Ctx} (h : c.aborted = []) :
    { c with quiesced := false, stopped := false, aborted := [] } = { c with quiesced := false, stopped := false } := by
  cases c
  cases h
  rfl

/-! ## IMAGE_WRITE and IMAGE_RESTORE (R350, R351) -/

theorem execImageWrite_other (h : ¬ Claims.isQuiesced s ((s.arg 2).toNat % 64)) : Answers .imageWrite s s 1 0 := by
  show execImageWrite s = .next (s.cmdDone 1 0)
  unfold execImageWrite
  dsimp only
  rw [show slice (s.arg 2) 0 6 = (s.arg 2).toNat % 64 from slice_zero_eq_mod ..]
  cases hc : s.ctx ((s.arg 2).toNat % 64) with
  | none => rfl
  | some c =>
    have hq : c.quiesced = false := Bool.eq_false_iff.2 fun hq => h ⟨c, hc, hq⟩
    dsimp only
    rw [if_pos (by rw [hq]; rfl)]

section
variable {c : Ctx} (hc : s.ctx ((s.arg 2).toNat % 64) = some c) (hq : c.quiesced = true)
include hc hq

theorem execImageWrite_quiesced : execImageWrite s = .next
    (let bs := s.imageBytes ((s.arg 2).toNat % 64) c
     if (s.arg 0).toNat % 64 ≠ 0 ∨ (s.arg 1).toNat < bs.length ∨ (!inHbm (s.arg 0).toNat bs.length) = true then s.cmdDone 2 0
     else (s.outsideWrite (s.arg 0).toNat bs).cmdDone 0 bs.length) := by
  unfold execImageWrite
  dsimp only
  rw [show slice (s.arg 2) 0 6 = (s.arg 2).toNat % 64 from slice_zero_eq_mod .., hc]
  dsimp only
  rw [if_neg (by rw [hq]; exact Bool.false_ne_true)]

theorem execImageWrite_small {bs : List Byte} (hbs : bs = s.imageBytes ((s.arg 2).toNat % 64) c)
    (h : (s.arg 0).toNat % 64 ≠ 0 ∨ (s.arg 1).toNat < bs.length ∨ inHbm (s.arg 0).toNat bs.length = false) :
    Answers .imageWrite s s 2 0 := by
  refine answers_of ((execImageWrite_quiesced hc hq).trans ?_)
  dsimp only
  rw [← hbs, if_pos (h.imp_right (Or.imp_right fun hi => by rw [hi]; rfl))]

theorem execImageWrite_writes {bs : List Byte} (hbs : bs = s.imageBytes ((s.arg 2).toNat % 64) c)
    (h64 : (s.arg 0).toNat % 64 = 0) (hlen : bs.length ≤ (s.arg 1).toNat) (hin : inHbm (s.arg 0).toNat bs.length = true) :
    Answers .imageWrite s (s.outsideWrite (s.arg 0).toNat bs) 0 bs.length := by
  have hfits : ¬ ((s.arg 0).toNat % 64 ≠ 0 ∨ (s.arg 1).toNat < bs.length ∨ (!inHbm (s.arg 0).toNat bs.length) = true) := by
    rw [hin]
    simp [h64, hlen]
  refine answers_of ((execImageWrite_quiesced hc hq).trans ?_)
  dsimp only
  rw [← hbs, if_neg hfits]

end

theorem execImageRestore_bad (h : inHbm (s.arg 0).toNat (s.arg 1).toNat = false ∨
    imageParse (s.bytes (s.arg 0).toNat (s.arg 1).toNat) = none) : Answers .imageRestore s s 1 0 := by
  show execImageRestore s = .next (s.cmdDone 1 0)
  unfold execImageRestore
  dsimp only
  by_cases hin : inHbm (s.arg 0).toNat (s.arg 1).toNat = false
  · rw [if_pos (by rw [hin]; rfl)]
  · rw [if_neg (by simpa using hin), h.resolve_left hin]

/-- The descriptor that IMAGE_RESTORE uses (R351). -/
def State.restoreDesc (s : State) (l : List (Nat × Nat × List Byte)) : Ctx :=
  s.descAt (if s.arg 2 = 0 then (s.arg 0).toNat + ((l.find? fun x => x.1 == 2).map fun x => x.2.1).getD 0 else (s.arg 2).toNat)

section
variable {l : List (Nat × Nat × List Byte)} (hin : inHbm (s.arg 0).toNat (s.arg 1).toNat = true)
  (hl : imageParse (s.bytes (s.arg 0).toNat (s.arg 1).toNat) = some l)
include hin hl

theorem execImageRestore_good : execImageRestore s = .next
    (let n := (s.arg 3).toNat % 64
     let c := s.restoreDesc l
     if s.nameUsed n c.asid then s.cmdDone 4 0
     else if !inHbm c.descPA 128 || s.badBase c then s.cmdDone 1 0
     else (match s.restoreAll n c (s.arg 2 == 0) l with
       | .ok s => s.cmdDone 0 0
       | .error code => s.cmdDone code 0)) := by
  unfold execImageRestore State.restoreDesc
  dsimp only
  rw [if_neg (by rw [hin]; exact Bool.false_ne_true), hl,
    show slice (s.arg 3) 0 6 = (s.arg 3).toNat % 64 from slice_zero_eq_mod ..]
  simp only [beq_iff_eq] <;> rfl

theorem execImageRestore_named (h : s.nameUsed ((s.arg 3).toNat % 64) (s.restoreDesc l).asid = true) :
    Answers .imageRestore s s 4 0 := by
  refine answers_of ((execImageRestore_good hin hl).trans ?_)
  dsimp only
  rw [if_pos h]

variable (hn : s.nameUsed ((s.arg 3).toNat % 64) (s.restoreDesc l).asid = false)
include hn

theorem execImageRestore_desc (h : inHbm (s.restoreDesc l).descPA 128 = false ∨ s.badBase (s.restoreDesc l) = true) :
    Answers .imageRestore s s 1 0 := by
  refine answers_of ((execImageRestore_good hin hl).trans ?_)
  dsimp only
  rw [if_neg (by rw [hn]; exact Bool.false_ne_true), if_pos (by rcases h with h | h <;> simp [h])]

theorem execImageRestore_restores (h : inHbm (s.restoreDesc l).descPA 128 = true) (hb : s.badBase (s.restoreDesc l) = false) :
    (∀ t, s.restoreAll ((s.arg 3).toNat % 64) (s.restoreDesc l) (s.arg 2 == 0) l = .ok t → Answers .imageRestore s t 0 0) ∧
    ∀ code, s.restoreAll ((s.arg 3).toNat % 64) (s.restoreDesc l) (s.arg 2 == 0) l = .error code →
      Answers .imageRestore s s code 0 := by
  have hgood := execImageRestore_good hin hl
  dsimp only at hgood
  rw [if_neg (by rw [hn]; exact Bool.false_ne_true), if_neg (by simp [h, hb])] at hgood
  refine ⟨fun t ht => ?_, fun code hcode => ?_⟩
  · rw [ht] at hgood
    exact answers_of hgood
  · rw [hcode] at hgood
    exact answers_of hgood

end

/-! ## PREEMPT, THAW and DBG_MAP (R344, R349) -/

/-- The running unit that PREEMPT names (R344). -/
theorem preempts_false {n : Nat} {a : Word} {u : UnitSt} (h : u.is n a = false ∨ u.stopped = true) :
    (u.is n a && !u.stopped) = false := by
  rcases h with h | h <;> simp [h]

theorem execPreempt_marks {a b : List UnitSt} {u : UnitSt} (hu : s.units = a ++ u :: b)
    (ha : ∀ y ∈ a, y.is (argCtx s) (s.arg 0) = false ∨ y.stopped = true) (his : u.is (argCtx s) (s.arg 0) = true)
    (hst : u.stopped = false) : Answers .preempt s { s with units :=
      a ++ { u with preempt := some ((s.arg 2).toNat, (s.arg 3).getLsbD 0) } :: b } 0 0 := by
  have hhit : (u.is (argCtx s) (s.arg 0) && !u.stopped) = true := by rw [his, hst]; rfl
  have hany : (s.units.any fun u => u.is (argCtx s) (s.arg 0) && !u.stopped) = true :=
    List.any_eq_true.2 ⟨u, by rw [hu]; exact List.mem_append_right _ List.mem_cons_self, hhit⟩
  refine answers_of ?_
  show execPreempt s = _
  unfold execPreempt
  dsimp only
  rw [argCtx_eq, if_pos hany, hu, updFirst_append _ b (fun y hy => preempts_false (ha y hy)) hhit]
  rfl

theorem execPreempt_none (h : ∀ y ∈ s.units, y.is (argCtx s) (s.arg 0) = false ∨ y.stopped = true) :
    Answers .preempt s s 1 0 := by
  have hany : ¬ (s.units.any fun u => u.is (argCtx s) (s.arg 0) && !u.stopped) = true := by
    rw [List.any_eq_true]
    rintro ⟨u, hu, hhit⟩
    exact Bool.false_ne_true ((preempts_false (h u hu)).symm.trans hhit)
  show execPreempt s = .next (s.cmdDone 1 0)
  unfold execPreempt
  dsimp only
  rw [argCtx_eq, if_neg hany]

theorem slice_zero_32 (x : Word) : slice x 0 32 = x.toNat % 2 ^ 32 := slice_zero_eq_mod ..

theorem execThaw_noCtx (h : s.ctx (argCtx s) = none) : Answers .thaw s s 2 0 := by
  show execThaw s = .next (s.cmdDone 2 0)
  unfold execThaw
  dsimp only
  rw [argCtx_eq, if_pos (State.isNone_ctx h)]

theorem execDbgMap_noCtx (h : s.ctx (argCtx s) = none) : Answers .dbgMap s s 1 0 := by
  show execDbgMap s = .next (s.cmdDone 1 0)
  unfold execDbgMap
  dsimp only
  rw [argCtx_eq, h]

section
variable {c : Ctx} (hc : s.ctx (argCtx s) = some c)
include hc

theorem execThaw_notFrozen (h : (s.arg 2).toNat % 2 ^ 32 ∉ c.frozen) : Answers .thaw s s 1 0 := by
  have hno : s.graphFrozen (argCtx s) ((s.arg 2).toNat % 2 ^ 32) = false := by
    unfold State.graphFrozen
    rw [hc]
    simpa using h
  show execThaw s = .next (s.cmdDone 1 0)
  unfold execThaw
  dsimp only
  rw [argCtx_eq, if_neg (State.not_isNone_ctx hc), slice_zero_32, if_neg (by rw [hno]; exact Bool.false_ne_true)]

theorem execThaw_thaws (h : (s.arg 2).toNat % 2 ^ 32 ∈ c.frozen) : Answers .thaw s
    (s.setCtx (argCtx s) (some { c with frozen := c.frozen.filter fun g => g ≠ (s.arg 2).toNat % 2 ^ 32 })) 0 0 := by
  have hyes : s.graphFrozen (argCtx s) ((s.arg 2).toNat % 2 ^ 32) = true := by
    unfold State.graphFrozen
    rw [hc]
    simpa using h
  have hne : (fun g => g != (s.arg 2).toNat % 2 ^ 32) = fun g => decide (g ≠ (s.arg 2).toNat % 2 ^ 32) := by
    funext g
    exact Bool.eq_iff_iff.2 (by simp)
  refine answers_of ?_
  show execThaw s = _
  unfold execThaw
  dsimp only
  rw [argCtx_eq, if_neg (State.not_isNone_ctx hc), slice_zero_32, if_pos hyes, State.modCtx_some hc, hne]

omit hc in
/-- The slots that DBG_MAP shows to a context (R336, R349). -/
theorem State.dbgSlot_iff {n : Nat} (s : State) (c : Ctx) {w : Slot} (hw : w = s.windowSlot ((s.arg 0).toNat % 65536)) :
    s.dbgSlot n c (s.arg 0) = true ↔ s.taOk c (s.arg 0) = true ∧ s.devOf (s.arg 0) = 0 ∧
      (w.st = .idle ∨ w.ctx = n ∨ (s.isRxfull ((s.arg 0).toNat % 65536) = true ∧ w.pkt.ctxn = n)) := by
  subst hw
  unfold State.dbgSlot
  dsimp only
  rw [slice_zero_16]
  simp [and_assoc, or_assoc]

theorem execDbgMap_eq : execDbgMap s = .next
    (if s.dbgSlot (argCtx s) c (s.arg 0) then { s with host := { s.host with dbg := some ((s.arg 0).toNat % 65536) } }.cmdDone 0 0
     else s.cmdDone 1 0) := by
  unfold execDbgMap
  dsimp only
  rw [argCtx_eq, hc, slice_zero_16]

theorem execDbgMap_shows {w : Slot} (hw : w = s.windowSlot ((s.arg 0).toNat % 65536)) (hta : s.taOk c (s.arg 0) = true)
    (hdev : s.devOf (s.arg 0) = 0)
    (h : w.st = .idle ∨ w.ctx = argCtx s ∨ (s.isRxfull ((s.arg 0).toNat % 65536) = true ∧ w.pkt.ctxn = argCtx s)) :
    Answers .dbgMap s { s with host := { s.host with dbg := some ((s.arg 0).toNat % 65536) } } 0 0 := by
  refine answers_of ((execDbgMap_eq hc).trans ?_)
  rw [if_pos ((s.dbgSlot_iff c hw).2 ⟨hta, hdev, h⟩)]

theorem execDbgMap_other {w : Slot} (hw : w = s.windowSlot ((s.arg 0).toNat % 65536))
    (h : s.taOk c (s.arg 0) = false ∨ s.devOf (s.arg 0) ≠ 0 ∨ (w.st ≠ .idle ∧ w.ctx ≠ argCtx s ∧
      ¬ (s.isRxfull ((s.arg 0).toNat % 65536) = true ∧ w.pkt.ctxn = argCtx s))) : Answers .dbgMap s s 1 0 := by
  refine answers_of ((execDbgMap_eq hc).trans ?_)
  rw [if_neg]
  rw [s.dbgSlot_iff c hw]
  rintro ⟨hta, hdev, hshown⟩
  rcases h with h | h | ⟨hst, hctx, hrx⟩
  · exact Bool.false_ne_true (h.symm.trans hta)
  · exact h hdev
  · rcases hshown with h | h | h
    · exact hst h
    · exact hctx h
    · exact hrx h

end

end

/-- The second part of O53. -/
theorem stateCommands : StateCommands := by
  unfold StateCommands
  intro s
  refine ⟨execQuiesce_none, fun n c x c1 hb hc hq hx hx1 hq1 => ?quiesce, execUnquiesce_other, fun n c hb hc hq ha => ?release,
    fun n c a hb hc hq ha => ?releaseCopy, fun n hn => ⟨fun h => ?_, fun c bs hc hq hbs => ?_⟩,
    fun n pa len hn hpa hlen => ?restore, fun n hn => ⟨fun a u b hu ha his hst => ?_, fun h => ?_, fun h => ?_, fun c hc =>
      ⟨fun h => ?_, fun h => ?_, fun w hw => ⟨fun hta hdev h => ?_, fun h => ?_⟩⟩⟩⟩
  case quiesce =>
    subst hx
    refine ⟨fun h => execQuiesce_waits hb hc hq hx1 hq1 h, fun h => ?_⟩
    obtain ⟨v, hv⟩ := execQuiesce_freezes hb hc hq hx1 hq1 h
    exact ⟨_, hv, State.cmdDone_freezing ..⟩
  case release =>
    have h := execUnquiesce_one hb hc hq
    rw [State.released, ha, Ctx.aborted_cleared ha] at h
    exact h
  case releaseCopy =>
    have h := execUnquiesce_one hb hc hq
    rw [State.released, ha] at h
    exact h
  · subst hn
    exact execImageWrite_other h
  · subst hn
    exact ⟨execImageWrite_small hc hq hbs, execImageWrite_writes hc hq hbs⟩
  case restore =>
    subst hn hpa hlen
    refine ⟨execImageRestore_bad, fun l c hin hl hcd => ?_⟩
    have hdesc : c = s.restoreDesc l := hcd
    subst hdesc
    exact ⟨execImageRestore_named hin hl, fun hn => ⟨execImageRestore_desc hin hl hn, execImageRestore_restores hin hl hn⟩⟩
  · subst hn
    exact execPreempt_marks hu ha his hst
  · subst hn
    exact execPreempt_none h
  · subst hn
    exact ⟨execThaw_noCtx h, execDbgMap_noCtx h⟩
  · subst hn
    exact execThaw_notFrozen hc h
  · subst hn
    exact execThaw_thaws hc h
  · subst hn
    exact execDbgMap_shows hc hw hta hdev h
  · subst hn
    exact execDbgMap_other hc hw h

/-- Settles O53: each command by the first check it fails, else by its effect. -/
theorem commands : Obligations.Commands := ⟨hostCommands, stateCommands⟩

end Sys2Proof.Machine
end

section
/-! SUPPORT. Error records, what a detected error does, and page retirement (R373 to R375, R381, R382, R384, R385). -/

namespace Sys2Proof.Machine

open Sys2Proof.Claims

/-! ## Records (R373) -/

section
variable {s : State} {e : ErrReport} {i : Nat}

theorem State.record_same (h : (List.range 256).find? (fun i => ((s.bank e.die).rec' i).same (s.recOf e)) = some i) :
    s.record e = (s.setBank e.die ((s.bank e.die).put i { (s.bank e.die).rec' i with
        count := min (((s.bank e.die).rec' i).count + 1) 65535, time := s.time }),
      { (s.bank e.die).rec' i with count := min (((s.bank e.die).rec' i).count + 1) 65535, time := s.time }) := by
  unfold State.record State.file
  dsimp only
  rw [show (s.recOf e).die = e.die from rfl, h]

theorem State.record_fresh (h : (List.range 256).find? (fun i => ((s.bank e.die).rec' i).same (s.recOf e)) = none)
    (hp : (s.bank e.die).place = some i) : s.record e = (s.setBank e.die { (s.bank e.die).put i { s.recOf e with
        no := (s.bank e.die).fresh } with next := (i + 1) % 256 }, s.recOf e) := by
  unfold State.record State.file
  dsimp only
  rw [show (s.recOf e).die = e.die from rfl, h]
  dsimp only
  rw [hp]

/-! ## Detection (R374, R375, R381, R382) -/

/-- An error names no frame that hardware retires (R384): no granule, and no corrected error of HBM. -/
theorem State.retireWeak_none (hg : e.granule = none) (h : ¬ (e.ukind = 7 ∧ e.cls = 0)) : s.retireWeak e = s := by
  unfold State.retireWeak
  dsimp only
  rw [hg]
  dsimp only
  rw [if_neg h]

theorem State.retireWeak_granule {k : Nat} (hg : e.granule = some k) (hcls : e.cls ≠ 0) (hc : e.cause ≠ 1) :
    s.retireWeak e = s := by
  have hweak : (e.cause == 1) = false := by simpa using hc
  unfold State.retireWeak
  dsimp only
  rw [hg]
  dsimp only
  simp only [if_neg hcls, hweak]
  simp

/-- A unit whose errors are counted: one inside a quad, or a sub-array of an L2 slice (R381). -/
def countedUnit (e : ErrReport) : Bool := 1 ≤ e.ukind && e.ukind ≤ 6

theorem histOf_eq (x : State) (e : ErrReport) :
    unitKey e.die (if inMesh e.ukind then x.physOf e.die e.vquad else 0) e.ukind (e.uidx % 128) = histOf x e := by
  unfold inMesh histOf
  simp only [Bool.and_eq_true, decide_eq_true_iff]

/-- A detected error that is not a disagreement of a pair, once it is recorded in x. -/
theorem execErrorDetected_eq {x : State} (hx : x = (s.record e).1) (hc : e.cause ≠ 4) : exec (.errorDetected e) s = .next
    (let a := if bit e.mode 1 then x.service 3 0 (s.record e).2.bytes else x
     let b := match e.granule with | some k => a.poisonAt k | none => a
     let k := unitKey e.die (if inMesh e.ukind then b.physOf e.die e.vquad else 0) e.ukind (e.uidx % 128)
     let c := if countedUnit e && e.cls == 0 then b.histAdd k 1 0 else b
     let d := if e.cls = 2 then c.urgentKill e else c
     let f := d.retireWeak e
     if bit e.mode 1 then f
     else if e.ukind ≠ 0 ∧ (e.cls = 2 ∨ (countedUnit e ∧ f.overLimit k)) then f.fenceUnit e.die e.vquad e.ukind (e.uidx % 128)
     else f) := by
  have hno : (e.cause == 4) = false := by simpa using hc
  subst hx
  show execErrorDetected e s = _
  unfold execErrorDetected
  dsimp only
  rw [hno, if_neg hc]
  generalize s.record e = p
  simp only [Bool.and_false, Bool.false_eq_true, if_false, countedUnit]
  rfl

section
variable {x : State} (hx : x = (s.record e).1) (hc : e.cause ≠ 4)
include hx hc

section
variable (hcls : e.cls = 1) (hu : e.ukind = 0 ∨ 7 ≤ e.ukind)
include hcls hu

theorem execErrorDetected_plain (hg : e.granule = none) : exec (.errorDetected e) s =
    .next (if bit e.mode 1 then x.service 3 0 (s.record e).2.bytes else x) := by
  have hcount : countedUnit e = false := by
    unfold countedUnit
    rcases hu with h | h <;> simp <;> omega
  have hret (y : State) : y.retireWeak e = y := State.retireWeak_none hg (by rw [hcls]; exact fun h => absurd h.2 (by decide))
  have hlow : ¬ e.cls = 2 := by rw [hcls]; decide
  rw [execErrorDetected_eq hx hc, hg]
  simp only [hcount, hlow, hret, Bool.false_and, Bool.false_eq_true, if_false, false_and, or_self, and_false, ite_self]

theorem execErrorDetected_poisons {k : Nat} (hg : e.granule = some k) (hc1 : e.cause ≠ 1) (hm : e.mode.getLsbD 1 = false) :
    exec (.errorDetected e) s = .next (x.poisonAt k) := by
  have hcount : countedUnit e = false := by
    unfold countedUnit
    rcases hu with h | h <;> simp <;> omega
  have hret (y : State) : y.retireWeak e = y := State.retireWeak_granule hg (by rw [hcls]; decide) hc1
  have hlow : ¬ e.cls = 2 := by rw [hcls]; decide
  have hm' : ¬ bit e.mode 1 = true := by rw [bit, hm]; exact Bool.false_ne_true
  rw [execErrorDetected_eq hx hc, hg]
  simp only [hcount, hlow, hret, hm', Bool.false_and, Bool.false_eq_true, if_false, false_and, or_self, and_false]

end

variable (hg : e.granule = none) (hm : e.mode.getLsbD 1 = false)
include hg hm

theorem execErrorDetected_counts (hcls : e.cls = 0) (h1 : 1 ≤ e.ukind) (h6 : e.ukind ≤ 6) {y : State}
    (hy : y = x.histAdd (histOf x e) 1 0) : exec (.errorDetected e) s = .next
      (if y.overLimit (histOf x e) then y.fenceUnit e.die e.vquad e.ukind (e.uidx % 128) else y) := by
  have hcount : countedUnit e = true := by
    unfold countedUnit
    simp [h1, h6]
  have hret (z : State) : z.retireWeak e = z := State.retireWeak_none hg (by omega)
  have hm' : ¬ bit e.mode 1 = true := by rw [bit, hm]; exact Bool.false_ne_true
  have h0 : e.ukind ≠ 0 := by omega
  rw [execErrorDetected_eq hx hc, hg]
  dsimp only
  rw [if_neg hm', if_neg hm', histOf_eq, hcount, hcls]
  simp only [Bool.true_and, beq_self_eq_true, if_true, hret, ← hy, h0, ne_eq, not_false_eq_true, true_and, false_or,
    show ¬ (0 = 2) from by decide, if_false]

theorem execErrorDetected_urgent (hcls : e.cls = 2) (h7 : 7 ≤ e.ukind) : exec (.errorDetected e) s =
    .next ((x.urgentKill e).fenceUnit e.die e.vquad e.ukind (e.uidx % 128)) := by
  have hret (z : State) : z.retireWeak e = z := State.retireWeak_none hg (by omega)
  have hm' : ¬ bit e.mode 1 = true := by rw [bit, hm]; exact Bool.false_ne_true
  have hno : ¬ (countedUnit e && e.cls == 0) = true := by rw [hcls]; simp
  rw [execErrorDetected_eq hx hc, hg]
  dsimp only
  rw [if_neg hm', if_neg hm', if_neg hno, if_pos hcls, hret, if_pos ⟨by omega, .inl hcls⟩]

end

end

/-! ## Page retirement (R384, R385) -/

section
variable {s : State} {base : Nat} {b : RetireBlk} (hb : b = s.retBlk base)
include hb

/-- A retirement that R384 refuses. -/
def badRetirement (s : State) (base : Nat) (b : RetireBlk) : Bool :=
  slice b.src 0 16 != 0 || slice b.dst 0 16 != 0 || !inHbm b.src.toNat 65536 || !inHbm b.dst.toNat 65536 ||
    !s.homedOn base b.src.toNat || !s.homedOn base b.dst.toNat || b.remap == 1024

theorem execRetireGo_idle (h : b.state = 0) : exec (.retireGo base) s = .next
    (if badRetirement s base b then (s.setRetBlk base { b with state := 3 }).reportPage b.src
     else (s.setRetBlk base { b with state := 1, wmark := 0 }).post (.retireGo base)) := by
  subst hb
  show (.next (s.retireRun base) : Out) = _
  unfold State.retireRun
  dsimp only
  rw [if_pos h]
  rfl

theorem execRetireGo_copies (h : b.state = 1) (hw : b.wmark < 512) : exec (.retireGo base) s =
    .next (((s.copyBytes (b.src.toNat + 128 * b.wmark) (b.dst.toNat + 128 * b.wmark) 128).setRetBlk base
      { b with wmark := b.wmark + 1 }).post (.retireGo base)) := by
  subst hb
  show (.next (s.retireRun base) : Out) = _
  unfold State.retireRun
  dsimp only
  rw [if_neg (by rw [h]; decide), if_pos h, if_pos hw]

theorem execRetireGo_copied (h : b.state = 1) (hw : 512 ≤ b.wmark) : exec (.retireGo base) s =
    .next ((s.setRetBlk base { b with state := 2 }).post (.retireSwitch base)) := by
  subst hb
  show (.next (s.retireRun base) : Out) = _
  unfold State.retireRun
  dsimp only
  rw [if_neg (by rw [h]; decide), if_pos h, if_neg (Nat.not_lt.2 hw)]

theorem execRetireSwitch_other (h : b.state ≠ 2) : exec (.retireSwitch base) s = .next s := by
  subst hb
  show execRetireSwitch base s = _
  unfold execRetireSwitch
  dsimp only
  rw [if_pos h]

theorem execRetireSwitch_switches (h : b.state = 2) : exec (.retireSwitch base) s = .next
    (((s.setRetBlk base { b with state := 0, remap := b.remap + 1 }).modRas fun r =>
      { r with remaps := r.remaps ++ [(b.src.toNat, b.dst.toNat)] }).reportPage b.src) := by
  subst hb
  show execRetireSwitch base s = _
  unfold execRetireSwitch
  dsimp only
  rw [if_neg (not_not.2 h)]

end

theorem badRetirement_true {s : State} {base : Nat} {b : RetireBlk}
    (h : b.src.toNat % 65536 ≠ 0 ∨ b.dst.toNat % 65536 ≠ 0 ∨ b.remap = 1024) : badRetirement s base b = true := by
  unfold badRetirement
  rw [slice_zero_eq_mod, slice_zero_eq_mod]
  rcases h with h | h | h <;> simp [h]

theorem badRetirement_home {s : State} {base : Nat} {b : RetireBlk} (hsrc : b.src.toNat % 65536 = 0)
    (hdst : b.dst.toNat % 65536 = 0) (hs : inHbm b.src.toNat 65536 = true) (hd : inHbm b.dst.toNat 65536 = true)
    (hr : b.remap ≠ 1024) :
    badRetirement s base b = true ↔ ¬ (s.homedOn base b.src.toNat = true ∧ s.homedOn base b.dst.toNat = true) := by
  unfold badRetirement
  rw [slice_zero_eq_mod, slice_zero_eq_mod]
  cases s.homedOn base b.src.toNat <;> cases s.homedOn base b.dst.toNat <;> simp [hsrc, hdst, hs, hd, hr]

/-- The first part of O48. -/
theorem errorsAndRetirement : ErrorsAndRetirement := by
  unfold ErrorsAndRetirement
  intro s
  refine ⟨fun e i r h hr => hr ▸ State.record_same h, fun e i h hp => State.record_fresh h hp, fun e x hx hc =>
    ⟨fun hcls hu => ⟨fun hg hm => ?_, fun hg hm => ?_, fun k hg hc1 hm => execErrorDetected_poisons hx hc hcls hu hg hc1 hm⟩,
      fun hcls h1 h6 hg hm y hy => ⟨fun ho => ?_, fun ho => ?_⟩,
      fun hcls h7 hg hm => execErrorDetected_urgent hx hc hg hm hcls h7⟩,
    fun base b hb => ⟨fun h0 hbad => ?_, fun h0 hsrc hdst hs hd hr => ?_, execRetireGo_copies hb, execRetireGo_copied hb,
      fun h2 => ⟨_, execRetireSwitch_switches hb h2, ?_, rfl, rfl, rfl⟩, execRetireSwitch_other hb⟩, _, rfl, rfl⟩
  · rw [execErrorDetected_plain hx hc hcls hu hg, if_neg (by rw [bit, hm]; exact Bool.false_ne_true)]
  · rw [execErrorDetected_plain hx hc hcls hu hg, if_pos (show bit e.mode 1 = true from hm)]
  · rw [execErrorDetected_counts hx hc hg hm hcls h1 h6 hy, if_neg (by rw [ho]; exact Bool.false_ne_true)]
  · rw [execErrorDetected_counts hx hc hg hm hcls h1 h6 hy, if_pos ho]
  · rw [execRetireGo_idle hb h0, if_pos (badRetirement_true hbad)]
    rfl
  · rw [execRetireGo_idle hb h0]
    by_cases hh : s.homedOn base b.src.toNat = true ∧ s.homedOn base b.dst.toNat = true
    · rw [if_pos hh, if_neg (mt (badRetirement_home hsrc hdst hs hd hr).1 (not_not.2 hh))]
    · rw [if_neg hh, if_pos ((badRetirement_home hsrc hdst hs hd hr).2 hh)]
      rfl
  · exact Store.get_set_same ..

end Sys2Proof.Machine
end

section
/-! SUPPORT. Rails, gating, heat, port training and power-on reset (R12, R330, R383, R386 to R391). -/

namespace Sys2Proof.Machine

open Sys2Proof.Claims

/-! ## Rows (R386) -/

section
variable (s : State) (k : Nat) (f : RailRow → RailRow)

@[simp] theorem State.row_modRow_same : (s.modRow k f).row k = f (s.row k) := Store.get_set_same ..

theorem State.row_modRow_other {j : Nat} (h : j ≠ k) : (s.modRow k f).row j = s.row j := Store.get_set_other _ _ _ h

theorem State.row_report (e : ErrReport) : (s.report e).row k = s.row k := rfl

end

def RailRow.withSlack (c : Nat) (r : RailRow) : RailRow := { r with slack := c }

/-- A write of SLACK to some rows changes it there, and nothing else. -/
theorem State.row_foldl_withSlack (c : Nat) (key : Nat → Nat) (k : Nat) (l : List Nat) (s : State) :
    (l.foldl (fun (s : State) i => s.modRow (key i) (RailRow.withSlack c)) s).row k =
      if k ∈ l.map key then (s.row k).withSlack c else s.row k := by
  induction l generalizing s with
  | nil => rfl
  | cons i l ih =>
    rw [List.foldl_cons, ih]
    by_cases hk : k = key i
    · subst hk
      by_cases hl : key i ∈ l.map key <;> simp [hl, RailRow.withSlack]
    · rw [State.row_modRow_other _ _ _ hk]
      simp [hk]

section
variable (s : State) (die row : Nat) (v : Word)

theorem State.row_railWrite :
    (s.railWrite die row v).row (rowKey die row) = (s.row (rowKey die row)).write v := by
  have h := State.row_foldl_withSlack (slice v 48 4) (fun i => rowKey die (row / 4 * 4 + i)) (rowKey die row) (List.range 4)
    (s.modRow (rowKey die row) fun r => r.write v)
  rw [State.row_modRow_same] at h
  exact h.trans (ite_self _)

theorem State.slack_railWrite {i : Nat} (hi : i < 4) :
    ((s.railWrite die row v).row (rowKey die (row / 4 * 4 + i))).slack = slice v 48 4 := by
  have h := State.row_foldl_withSlack (slice v 48 4) (fun i => rowKey die (row / 4 * 4 + i)) (rowKey die (row / 4 * 4 + i))
    (List.range 4) (s.modRow (rowKey die row) fun r => r.write v)
  rw [if_pos (List.mem_map_of_mem (List.mem_range.2 hi))] at h
  exact congrArg RailRow.slack h

end

theorem RailRow.boundary_at (r : RailRow) (canary : Bool) : atBoundary r canary (r.boundary canary) := by
  unfold atBoundary RailRow.boundary
  refine ⟨?_, ?_, ?_, ?_, ?_, rfl, rfl, rfl, rfl, rfl, rfl, rfl⟩
  · cases r.breq <;> cases r.touched <;> rfl
  · simp
  · simp
  · simp
  · cases r.uven <;> cases r.uvoff <;> rfl

theorem RailRow.capped_touched (r : RailRow) : r.capped.touched = true ↔ r.touched = true ∨ 5 < r.thcap ∨ 5 < r.icap := by
  simp [RailRow.capped, or_assoc]

section
variable {s : State} {die row : Nat}

theorem execRailPowerWrite_writes (v : Word) {r : RailRow} (hr : r = s.row (rowKey die row)) :
    ∃ t x, exec (.railPowerWrite die row v) s = .next t ∧
      x = t.row (rowKey die row) ∧ x.base = inRange 6 48 (v.toNat % 64) r.base ∧
      x.thcap = inRange 5 48 (v.toNat / 2 ^ 8 % 64) r.thcap ∧ x.icap = inRange 5 48 (v.toNat / 2 ^ 16 % 64) r.icap ∧
      x.breq = v.getLsbD 33 ∧ x.droop = (r.droop && !v.getLsbD 35) ∧ x.uven = v.getLsbD 36 ∧
      x.n = max r.n (max x.thcap x.icap) ∧ (x.touched = true ↔ r.touched = true ∨ 5 < x.thcap ∨ 5 < x.icap) ∧
      x.voff = r.voff ∧ x.uvoff = r.uvoff ∧ x.bgrant = r.bgrant ∧
      ∀ i, i < 4 → (t.row (rowKey die (row / 4 * 4 + i))).slack = v.toNat / 2 ^ 48 % 16 := by
  subst hr
  refine ⟨s.railWrite die row v, (s.row (rowKey die row)).write v, rfl, (s.row_railWrite die row v).symm, ?_, ?_, ?_,
    rfl, rfl, rfl, rfl, RailRow.capped_touched _, rfl, rfl, rfl, fun i hi => ?_⟩
  · simp only [RailRow.write, RailRow.capped, slice_zero_eq_mod, inRange, Nat.reducePow]
    rfl
  · simp only [RailRow.write, RailRow.capped, slice_eq_div_mod, inRange, Nat.reducePow]
  · simp only [RailRow.write, RailRow.capped, slice_eq_div_mod, inRange, Nat.reducePow]
  · rw [s.slack_railWrite die row v hi, slice_eq_div_mod]
    rfl

theorem execControlInterval_bounds (canaries : List Nat) :
    ∃ t, exec (.controlInterval canaries) s = .next t ∧ t.ras.interval = s.time / 10000 ∧
      t.ras.rows.map Prod.fst = s.ras.rows.map Prod.fst ∧ ∀ k r, (k, r) ∈ s.ras.rows →
        ∃ r', (k, r') ∈ t.ras.rows ∧ atBoundary r (canaries.contains k) r' :=
  ⟨_, rfl, rfl, List.map_map.trans rfl, fun _ r hk => ⟨_, List.mem_map_of_mem hk, r.boundary_at _⟩⟩

theorem execMarginError_nominal (k : Nat) (h : (s.row (rowKey die row)).voff = 0) :
    exec (.marginError die row k) s = .next s := by
  show (.next _ : Out) = _
  rw [if_pos h]

theorem execMarginError_undervolted (k : Nat) {r : RailRow} (hr : r = s.row (rowKey die row)) (h : r.voff ≠ 0) :
    ∃ t, exec (.marginError die row k) s = .next t ∧ t.row (rowKey die row) = { r with voff := 0, uvoff := true } ∧
      t.agenda = s.agenda ++
        [.errorDetected ⟨1, 2, 8, row % 4, die, 0, BitVec.ofNat 64 k, 0, some k, s.host.duty⟩] := by
  subst hr
  refine ⟨(s.modRow (rowKey die row) fun r => { r with voff := 0, uvoff := true }).report
      ⟨1, 2, 8, row % 4, die, 0, BitVec.ofNat 64 k, 0, some k, 0⟩, ?_,
    (State.row_report ..).trans (s.row_modRow_same ..), rfl⟩
  show (.next _ : Out) = _
  rw [if_neg h]

end

/-! ## Gating and waking (R383) -/

theorem Store.get_of_not_any {α : Type} (d : α) {m : Store α} {k : Nat} (h : ¬ (m.any fun p => p.1 == k) = true) :
    Store.get d m k = d := by
  induction m with
  | nil => rfl
  | cons p m ih =>
    obtain ⟨j, v⟩ := p
    rw [List.any_cons, Bool.or_eq_true, not_or] at h
    obtain ⟨hj, hm⟩ := h
    have hjk : ¬ j = k := by simpa using hj
    unfold Store.get
    rw [if_neg hjk, ih hm, ite_self]

/-- The mismatches of a wake test, counted. -/
def State.countFailing (s : State) (die pq : Nat) (l : List Nat) : State :=
  l.foldl (fun (s : State) i => s.histAdd (unitKey die pq (i / 128) (i % 128)) 0 1) s

section
variable (s : State) (die pq : Nat) (l : List Nat)

/-- Counting mismatches changes no part of the state that a histogram is not in. -/
theorem State.countFailing_keeps {α : Type} (p : State → α) (h : ∀ (x : State) k, p (x.histAdd k 0 1) = p x) :
    p (s.countFailing die pq l) = p s :=
  foldl_keeps (f := fun (s : State) i => s.histAdd (unitKey die pq (i / 128) (i % 128)) 0 1) p (fun x _ => h x _) l s

theorem State.countFailing_gated : (s.countFailing die pq l).ras.gated = s.ras.gated :=
  s.countFailing_keeps die pq l (fun x => x.ras.gated) fun _ _ => rfl

theorem State.countFailing_banks : (s.countFailing die pq l).ras.banks = s.ras.banks :=
  s.countFailing_keeps die pq l (fun x => x.ras.banks) fun _ _ => rfl

theorem State.countFailing_host : (s.countFailing die pq l).host = s.host :=
  s.countFailing_keeps die pq l (fun x => x.host) fun _ _ => rfl

theorem State.countFailing_dies : (s.countFailing die pq l).dies = s.dies :=
  s.countFailing_keeps die pq l (fun x => x.dies) fun _ _ => rfl

end

/-- Which quad a physical one serves follows from the dies' tables. -/
theorem State.virtOf_of_dies {x s : State} (h : x.dies = s.dies) (die pq : Nat) : x.virtOf die pq = s.virtOf die pq := by
  unfold State.virtOf State.present State.physOf State.vqEntry State.die
  rw [h]

/-- The record of a failing item of a wake test (R383). -/
def State.wakeRec (s : State) (die pq i : Nat) (v : Option Nat) : ErrRec :=
  { s.recOf ⟨2, 5, i / 128, i % 128, die, v.getD 0, 0, 0, none, 0⟩ with pquad := pq }

theorem State.file_gated (s : State) (n : ErrRec) : (s.file n).1.ras.gated = s.ras.gated := by
  unfold State.file
  dsimp only
  split
  · rfl
  · split <;> rfl

theorem State.file_host (s : State) (n : ErrRec) : (s.file n).1.host = s.host := by
  unfold State.file
  dsimp only
  split
  · rfl
  · split <;> rfl

section
variable {s : State} {die pq : Nat}

theorem execQuadPowerGate_gates (h : quadKey die pq ∉ s.ras.gated)
    (hv : ∀ v, s.virtOf die pq = some v → s.quadIdle die v = true) : exec (.quadPowerGate die pq) s =
      .next { s with ras := { s.ras with gated := s.ras.gated ++ [quadKey die pq] } } := by
  have hg : s.ras.gated.contains (quadKey die pq) = false := by simpa using h
  show execQuadPowerGate die pq s = _
  unfold execQuadPowerGate
  dsimp only
  rw [hg]
  cases hq : s.virtOf die pq with
  | none => rfl
  | some v =>
    simp only [hv v hq, Bool.not_false, Bool.and_self, if_true]
    rfl

theorem execQuadPowerGate_stays
    (h : quadKey die pq ∈ s.ras.gated ∨ ∃ v, s.virtOf die pq = some v ∧ s.quadIdle die v = false) :
    exec (.quadPowerGate die pq) s = .next s := by
  show execQuadPowerGate die pq s = _
  unfold execQuadPowerGate
  dsimp only
  rcases h with h | ⟨v, hv, hi⟩
  · have hg : s.ras.gated.contains (quadKey die pq) = true := by simpa using h
    rw [hg, Bool.not_true, Bool.and_false, if_neg Bool.false_ne_true]
  · simp only [hv, hi, Bool.false_and, Bool.false_eq_true, if_false]

theorem execQuadWakeTest_awake (l : List Nat) (h : quadKey die pq ∉ s.ras.gated) : exec (.quadWakeTest die pq l) s = .next s := by
  have hg : s.ras.gated.contains (quadKey die pq) = false := by simpa using h
  show execQuadWakeTest die pq l s = _
  unfold execQuadWakeTest
  rw [hg]
  rfl

variable (h : quadKey die pq ∈ s.ras.gated)
include h

theorem execQuadWakeTest_wakes : ∃ t, exec (.quadWakeTest die pq []) s = .next t ∧
    t.ras.gated = s.ras.gated.filter (· ≠ quadKey die pq) ∧ (t.row (rowKey die (rowOf pq))).uvoff = false := by
  have hg : s.ras.gated.contains (quadKey die pq) = true := by simpa using h
  have hf : (s.ras.gated.filter fun x => x != quadKey die pq) = s.ras.gated.filter (· ≠ quadKey die pq) :=
    List.filter_congr fun x _ => by simp [bne, Bool.beq_eq_decide_eq]
  by_cases hrow : (s.ras.rows.any fun p => p.1 == rowKey die (rowOf pq)) = true
  · refine ⟨(s.modRas fun r => { r with gated := r.gated.filter fun x => x != quadKey die pq }).modRow
      (rowKey die (rowOf pq)) fun r => { r with uvoff := false }, ?_, hf, ?_⟩
    · show execQuadWakeTest die pq [] s = _
      unfold execQuadWakeTest
      rw [hg]
      exact congrArg Host.Outcome.next (if_pos hrow)
    · rw [State.row_modRow_same]
  · refine ⟨s.modRas fun r => { r with gated := r.gated.filter fun x => x != quadKey die pq }, ?_, hf, ?_⟩
    · show execQuadWakeTest die pq [] s = _
      unfold execQuadWakeTest
      rw [hg]
      exact congrArg Host.Outcome.next (if_neg hrow)
    · exact congrArg RailRow.uvoff (Store.get_of_not_any _ hrow)

theorem execQuadWakeTest_fails (i : Nat) (l : List Nat) : ∃ (x y : State) (r : ErrRec), x.ras.gated = s.ras.gated ∧
    x.ras.banks = s.ras.banks ∧
    x.file { x.recOf ⟨2, 5, i / 128, i % 128, die, (s.virtOf die pq).getD 0, 0, 0, none, 0⟩ with pquad := pq } = (y, r) ∧
    (s.host.duty.getLsbD 1 = true → exec (.quadWakeTest die pq (i :: l)) s = .next (y.service 3 0 r.bytes)) ∧
    (s.host.duty.getLsbD 1 = false → ∃ t, exec (.quadWakeTest die pq (i :: l)) s = .next t ∧
      quadKey die pq ∈ t.ras.quads ∧ quadKey die pq ∈ t.ras.gated ∧ t.ras.banks = y.ras.banks) := by
  have hg : s.ras.gated.contains (quadKey die pq) = true := by simpa using h
  have hx := s.countFailing_gated die pq (i :: l)
  have hv := State.virtOf_of_dies (s.countFailing_dies die pq (i :: l)) die pq
  have hb := s.countFailing_banks die pq (i :: l)
  have hh := s.countFailing_host die pq (i :: l)
  have he : exec (.quadWakeTest die pq (i :: l)) s = .next (
      let x := s.countFailing die pq (i :: l)
      let p := x.file (x.wakeRec die pq i (x.virtOf die pq))
      if bit p.1.host.duty 1 then p.1.service 3 0 p.2.bytes
      else p.1.modRas fun r => { r with
        quads := if r.quads.contains (quadKey die pq) then r.quads else r.quads ++ [quadKey die pq] }) := by
    show execQuadWakeTest die pq (i :: l) s = _
    unfold execQuadWakeTest
    rw [hg]
    rfl
  generalize s.countFailing die pq (i :: l) = x at *
  dsimp only at he
  rw [hv] at he
  have hfg := x.file_gated (x.wakeRec die pq i (s.virtOf die pq))
  have hfh := x.file_host (x.wakeRec die pq i (s.virtOf die pq))
  refine ⟨x, (x.file (x.wakeRec die pq i (s.virtOf die pq))).1, (x.file (x.wakeRec die pq i (s.virtOf die pq))).2, hx, hb, rfl, ?_⟩
  generalize x.file (x.wakeRec die pq i (s.virtOf die pq)) = p at *
  refine ⟨fun hd => ?_, fun hd => ⟨_, he.trans (congrArg _ (if_neg ?_)), ?_, ?_, rfl⟩⟩
  · rw [he, hfh, hh, if_pos (show bit s.host.duty 1 = true from hd)]
  · rw [hfh, hh, bit, hd]
    exact Bool.false_ne_true
  · by_cases hq : p.1.ras.quads.contains (quadKey die pq) = true
    · simp only [State.modRas, hq, if_true]
      simpa using hq
    · simp only [State.modRas, hq, Bool.false_eq_true, if_false]
      simp
  · exact (hfg.trans hx).symm ▸ h

end

/-! ## Heat (R390, R391) -/

section
variable {s : State}

theorem execThermalEmergency_hot (h : s.ras.hot = true) : exec .thermalEmergency s = .next s := by
  show (.next _ : Out) = _
  rw [if_pos h]

theorem execThermalEmergency_gates (h : s.ras.hot = false) (hd : s.host.duty.getLsbD 3 = false) : exec .thermalEmergency s =
    .next { s with ras := { s.ras with hot := true, since := s.time } } := by
  show execThermalEmergency s = _
  unfold execThermalEmergency
  rw [h, if_neg Bool.false_ne_true, bit, hd]
  rfl

theorem execThermalResume_cold (h : s.ras.hot = false) : exec .thermalResume s = .next s := by
  show execThermalResume s = _
  unfold execThermalResume
  rw [h]
  rfl

theorem execThermalResume_resumes (h : s.ras.hot = true) : ∃ t, exec .thermalResume s = .next t ∧
    t.ras = { s.ras with hot := false } ∧
    t.agenda = s.agenda ++ [.errorDetected ⟨0, 7, 0, 0, 0, 0, 0, 0, none, s.host.duty⟩] ∧ t.regions = s.regions.map fun p => (p.1,
      p.2.map fun r => if r.state = 2 then { r with start := r.start + (s.time - s.ras.since) } else r) := by
  have he : exec .thermalResume s = .next (State.report { (s.modRas fun r => { r with hot := false }) with
      regions := s.regions.map fun (p : Nat × Option Region) => (p.1, p.2.map fun (r : Region) =>
        if r.state = 2 then { r with start := r.start + (s.time - s.ras.since) } else r) }
      ⟨0, 7, 0, 0, 0, 0, 0, 0, none, 0⟩) := by
    show execThermalResume s = _
    unfold execThermalResume
    rw [h]
    rfl
  exact ⟨_, he, rfl, rfl, rfl⟩

variable {die vq : Nat} (target : Nat)

theorem execThermalMove_recent (h : Store.get 0 s.ras.moved (die * 512 + vq) ≠ 0)
    (ht : s.time + 1 < Store.get 0 s.ras.moved (die * 512 + vq) + 1000000) : exec (.thermalMove die vq target) s = .next s := by
  show execThermalMove die vq target s = _
  unfold execThermalMove
  dsimp only
  rw [if_pos]
  simp [h, ht]

section
variable (hp : s.present die vq = true)
  (ht : Store.get 0 s.ras.moved (die * 512 + vq) = 0 ∨ Store.get 0 s.ras.moved (die * 512 + vq) + 1000000 ≤ s.time + 1)
include hp ht

/-- A quad in service that has not moved of late. -/
theorem execThermalMove_eq : exec (.thermalMove die vq target) s = .next (
    if s.moveTarget die target && s.physOf die vq != target then s.moveQuad die vq target
    else if physQuads.any fun p => s.moveTarget die p && s.physOf die vq != p then s
    else
      s.modRow (rowKey die (rowOf (s.physOf die vq))) fun r =>
        ({ r with thcap := r.thcap +
            (if r.thcap < 48 then 1 + Config.freeCycles s.ctr 900 % (48 - r.thcap) else 0) } : RailRow).capped) := by
  show execThermalMove die vq target s = _
  unfold execThermalMove
  dsimp only
  rw [if_neg]
  rw [hp]
  rcases ht with h | h
  · simp [h]
  · simp [Nat.not_lt.2 h]

theorem execThermalMove_moves (hm : s.moveTarget die target = true) (hq : s.physOf die vq ≠ target) :
    exec (.thermalMove die vq target) s = .next (s.moveQuad die vq target) := by
  rw [execThermalMove_eq target hp ht, if_pos (by simp [hm, hq])]

theorem execThermalMove_elsewhere (hm : s.moveTarget die target = false) {p : Nat} (hpq : p ∈ physQuads)
    (hmp : s.moveTarget die p = true) (hq : s.physOf die vq ≠ p) : exec (.thermalMove die vq target) s = .next s := by
  rw [execThermalMove_eq target hp ht, hm, Bool.false_and, if_neg Bool.false_ne_true, if_pos]
  exact List.any_eq_true.2 ⟨p, hpq, by simp [hmp, hq]⟩

theorem execThermalMove_caps (hm : ∀ p, s.moveTarget die p = false) {r : RailRow}
    (hr : r = s.row (rowKey die (rowOf (s.physOf die vq)))) (hc : r.thcap < 48) :
    ∃ t x, exec (.thermalMove die vq target) s = .next t ∧ x = t.row (rowKey die (rowOf (s.physOf die vq))) ∧
      r.thcap < x.thcap ∧ x.thcap ≤ 48 ∧ x.thcap ≤ x.n := by
  have hany : ¬ (physQuads.any fun p => s.moveTarget die p && s.physOf die vq != p) = true := by simp [hm]
  have he := execThermalMove_eq target hp ht
  rw [hm, Bool.false_and, if_neg Bool.false_ne_true, if_neg hany] at he
  refine ⟨_, _, he, rfl, ?_⟩
  rw [State.row_modRow_same, ← hr, if_pos hc]
  have hlt : Config.freeCycles s.ctr 900 % (48 - r.thcap) < 48 - r.thcap := Nat.mod_lt _ (Nat.sub_pos_of_lt hc)
  generalize Config.freeCycles s.ctr 900 % (48 - r.thcap) = d at hlt
  refine ⟨?_, ?_, ?_⟩
  · show r.thcap < r.thcap + (1 + d)
    omega
  · show r.thcap + (1 + d) ≤ 48
    omega
  · show r.thcap + (1 + d) ≤ Nat.max r.n (Nat.max (r.thcap + (1 + d)) r.icap)
    exact le_trans (Nat.le_max_left _ _) (Nat.le_max_right _ _)

end

end

/-! ## Port training and power-on reset (R330) -/

theorem getLsbD_one_shiftLeft {port i : Nat} (hi : i < 16) : ((1#16) <<< port).getLsbD i = decide (i = port) := by
  rw [BitVec.getLsbD_shiftLeft, BitVec.getLsbD_one]
  simp only [hi, decide_true, Bool.true_and]
  by_cases h : i = port
  · simp [h]
  · simp only [h, decide_false, Bool.and_eq_false_iff, Bool.not_eq_false', decide_eq_true_eq, decide_eq_false_iff_not]
    omega

theorem execLyongPortTraining_up (s : State) (port : Nat) (up : Bool) : ∃ t, exec (.lyongPortTraining port up) s = .next t ∧
    ∀ i, i < 16 → t.host.up.getLsbD i = (if i = port then (up && (s.host.ports.getLsbD i || s.host.up.getLsbD i)) else
      s.host.up.getLsbD i) := by
  refine ⟨_, rfl, fun i hi => ?_⟩
  cases up with
  | true =>
    show (s.host.up ||| ((1#16) <<< port &&& s.host.ports)).getLsbD i = _
    rw [BitVec.getLsbD_or, BitVec.getLsbD_and, getLsbD_one_shiftLeft hi]
    by_cases h : i = port
    · subst h
      simp [Bool.or_comm]
    · simp [h]
  | false =>
    show (s.host.up &&& ~~~((1#16) <<< port)).getLsbD i = _
    rw [BitVec.getLsbD_and, BitVec.getLsbD_not, getLsbD_one_shiftLeft hi]
    by_cases h : i = port <;> simp [h, hi]

/-- The second part of O48. -/
theorem powerAndHeat : PowerAndHeat := by
  unfold PowerAndHeat
  intro s
  refine ⟨fun die row v r hr => execRailPowerWrite_writes v hr, fun die row r hr => ⟨_, rfl, hr ▸ s.row_modRow_same ..⟩,
    execControlInterval_bounds, fun die row k r hr => ⟨fun h => execMarginError_nominal k (hr ▸ h), execMarginError_undervolted k hr⟩,
    fun die pq => ⟨execQuadPowerGate_gates, execQuadPowerGate_stays,
      execQuadWakeTest_awake, execQuadWakeTest_wakes, fun i l h => execQuadWakeTest_fails h i l⟩,
    execThermalEmergency_gates, execThermalEmergency_hot, execThermalResume_resumes, execThermalResume_cold,
    fun die vq target last hl h ht => ?_, fun die vq target last hl hp ht => ?_,
    fun port up _ => execLyongPortTraining_up s port up, ?_⟩
  · subst hl
    exact execThermalMove_recent target h ht
  · subst hl
    exact ⟨execThermalMove_moves target hp ht, fun hm p hpq => execThermalMove_elsewhere target hp ht hm hpq,
      fun hm r hr => execThermalMove_caps target hp ht hm hr⟩
  · exact ⟨_, rfl, rfl, rfl, rfl, rfl, rfl, rfl, rfl, rfl, rfl, rfl, rfl, rfl, rfl, rfl, rfl⟩

/-- Settles O48: what an error, a retirement, a rail, a gate, heat and a reset do, one lemma per case. -/
theorem errorsPowerHeat : Obligations.ErrorsPowerHeat := ⟨errorsAndRetirement, powerAndHeat⟩

end Sys2Proof.Machine
end

section
/-! SUPPORT. What the strand instructions answer and when they wait (R253 to R258, R263 to R266). -/

namespace Sys2Proof.Machine

open Sys2Proof.Claims

theorem await_waits {b : Bool} (h : b = false) (s : State) : await b s = .wait s := by rw [h]; rfl

/-! ## Sending (R253, R254, R257) -/

section
variable {s : State} {x : Strand} (d : Reg) (item : VWord) (carried : Option Word)

/-- A peer that is gone: its status, and nothing is sent (R254). -/
theorem State.sendItem_gone (h : x.src.peer ≠ 0) :
    s.sendItem x d item carried = .ok (s.putG d (peerStatus x.src.peer)) false := if_pos h

/-- No credit: the send waits (R254). -/
theorem State.sendItem_waits (hpeer : x.src.peer = 0) (hcr : x.credits = 0) : s.sendItem x d item carried = .wait s := by
  unfold State.sendItem
  rw [if_neg (not_not.2 hpeer), if_pos hcr]

end

section
variable {s : State} {d : Reg} {a : Src} (hc : Clear s) (ha : Full s a.reg) (hd : Free s d)
include hc ha hd

section
variable {x : Strand} (he : EndAt s (s.g a.reg) x false) {b : Src} (hb : Full s b.reg)
include he hb

/-- SSEND of g(b) on a strand of 8-byte items: its checks pass, and the item is sent as there is room (R254). -/
theorem execSsend_g_body (hx : x.s = 0) {r : Res Bool} (hr : s.sendItem x d ((s.g b.reg).setWidth 2048) none = r) :
    exec (.ssend d a (.g b)) s = issue .v .outer (fun _ => r.bind fun s _ => .ok s ()) s := by
  obtain ⟨hp, ⟨hv, hrq⟩, hamo⟩ := hc
  have hl : FullAll s (a :: sendSrcs (.g b)) := fullAll_two ha hb
  show execSsend d a (.g b) s = _
  refine issue_congr hp ?_
  rw [State.examine_ok hl, Res.bind_ok, State.freeG_ok hd, Res.bind_ok,
    State.waitRpq_ok hv hrq, Res.bind_ok, State.waitAmo_ok hamo, Res.bind_ok, State.useEnd_ok he rfl, Res.bind_ok,
    need_ok (beq_iff_eq.2 hx), Res.bind_ok]
  exact congrArg (fun r : Res Bool => r.bind fun s _ => .ok s ()) hr

theorem execSsend_gone (hx : x.s = 0) (h : x.src.peer ≠ 0) :
    exec (.ssend d a (.g b)) s = .next (ended .v (s.putG d (peerStatus x.src.peer))) := by
  rw [execSsend_g_body hc ha hd he hb hx (State.sendItem_gone d _ none h)]
  exact issue_ends hc.1 rfl

theorem execSsend_waits (hx : x.s = 0) (h : x.src.peer = 0) (hcr : x.credits = 0) :
    exec (.ssend d a (.g b)) s = .next s := by
  rw [execSsend_g_body hc ha hd he hb hx (State.sendItem_waits d _ none h hcr)]
  exact issue_waits hc.1 rfl

section
variable {y : Strand} {sink : Bool} (hh : taHnd s.cur = false) (hy : EndAt s (s.g b.reg) y sink) (hkey : x.key ≠ y.key)
  (hclaims : sink = true → y.claims = [])
include hh hy hkey hclaims

/-- SPASS of an end of another strand: its checks pass, and the item is sent as there is room (R257). -/
theorem execSpass_body {r : Res Bool} (hr : s.sendItem x d ((s.g b.reg).setWidth 2048) (some (s.g b.reg)) = r) :
    exec (.spass d a b) s = issue .v .outer
      (fun _ => r.bind fun s sent => .ok (if sent then s.depart y sink x.snk.dev else s) ()) s := by
  obtain ⟨hp, ⟨hv, hrq⟩, hamo⟩ := hc
  have hsink : handleSink (s.g b.reg) = sink := hy.kind
  have hne : (x.key != y.key) = true := bne_iff_ne.2 hkey
  have hidle : (!sink || y.claims.isEmpty) = true := by
    cases sink with
    | false => rfl
    | true => rw [hclaims rfl]; rfl
  show execSpass d a b s = _
  refine issue_congr hp ?_
  rw [State.examine_ok (fullAll_two ha hb), Res.bind_ok, State.freeG_ok hd, Res.bind_ok, State.waitRpq_ok hv hrq, Res.bind_ok,
    State.waitAmo_ok hamo, Res.bind_ok]
  dsimp only
  rw [State.taskOnly_ok hh, Res.bind_ok, State.useEnd_ok he rfl, Res.bind_ok, State.useEnd_ok hy rfl, Res.bind_ok, need_ok hne,
    Res.bind_ok, hsink, await_ok hidle, Res.bind_ok, hr]

theorem execSpass_gone (h : x.src.peer ≠ 0) :
    exec (.spass d a b) s = .next (ended .v (s.putG d (peerStatus x.src.peer))) := by
  rw [execSpass_body hc ha hd he hb hh hy hkey hclaims (State.sendItem_gone d _ _ h)]
  exact issue_ends hc.1 rfl

theorem execSpass_waits (h : x.src.peer = 0) (hcr : x.credits = 0) : exec (.spass d a b) s = .next s := by
  rw [execSpass_body hc ha hd he hb hh hy hkey hclaims (State.sendItem_waits d _ _ h hcr)]
  exact issue_waits hc.1 rfl

end

end

end

/-- The first part of O35. -/
theorem strandSending : StrandSending := by
  unfold StrandSending
  intro s d a hp ha hd
  refine ⟨fun sz l off hd1 hh hr => ⟨fun hnone => ?_, fun j e x hj he hx => ?_⟩, fun x hc he => ⟨fun b hb hx => ?_, fun v hv hpeer hcr =>
    execSsend_v hp ha hd he hc hpeer hcr hv, fun b y sink h hh hb hh' hy hkey hclaims => ?_⟩⟩
  · refine ends_congr (execSopen_ends hp ha hd hd1 hh hr) ?_
    unfold State.opened
    rw [hnone]
  · subst he hx
    refine ends_congr (execSopen_ends hp ha hd hd1 hh hr) ?_
    unfold State.opened
    rw [hj]
    rfl
  · exact ⟨execSsend_gone hc ha hd he hb hx, execSsend_waits hc ha hd he hb hx, fun hpeer hcr =>
      execSsend_g hp ha hd he hc hpeer hcr hb hx⟩
  · subst hh'
    exact ⟨execSpass_gone hc ha hd he hb hh hy hkey hclaims, execSpass_waits hc ha hd he hb hh hy hkey hclaims,
      fun hpeer hcr => execSpass_ends hp ha hd he hc hpeer hcr hh hb hy hkey hclaims⟩

/-! ## Receiving (R255) -/

/-- The claim of a receive (R255). -/
def State.claimOf (s : State) (d : Reg) (item : RecvItem) : Claim := ⟨⟨s.cur, s.me.uid⟩, d, recvV item, s.ctr⟩

/-- The slot of a receive waits for its destinations (R255). -/
def Slot.recvPends (d : Reg) : RecvItem → Slot → Slot
  | .g => fun sl => (sl.pendG d).pendG (d + 1)
  | .v _ => fun sl => { sl with sending := true }

@[simp] theorem Slot.recvPends_uid (d : Reg) (item : RecvItem) (sl : Slot) : (Slot.recvPends d item sl).uid = sl.uid := by
  cases item with
  | g => exact (Slot.setG_uid ..).trans (Slot.setG_uid ..)
  | v c => rfl

/-- The claim of SRECV as it stands before it is served (R255). -/
def State.claimFor (s : State) (x : Strand) (d : Reg) (item : RecvItem) : State :=
  (s.modMe (Slot.recvPends d item)).putStrand { x with claims := x.claims ++ [s.claimOf d item] }

/-- Nothing there for a poll (R255). -/
def State.pollEmpty (s : State) (d : Reg) : RecvItem → State
  | .g => (s.putG d 1).putG (d + 1) 0
  | .v _ => s.putG d 1

section
variable {s : State} {d : Reg} {a : Src} {item : RecvItem}

theorem execSrecv_received (hp : Solo s) (h : s.me.sent = true) : exec (.srecv d a item) s = .next (ended .v s) := by
  show execSrecv d a item s = _
  exact issue_ends hp (if_pos h)

theorem execSrecv_pending (hp : Solo s) (h : s.me.sent = false) (hs : s.me.sending = true) :
    exec (.srecv d a item) s = .next s := by
  show execSrecv d a item s = _
  refine issue_waits hp ?_
  rw [if_neg (by rw [h]; exact Bool.false_ne_true), if_pos hs]

variable (hp : Solo s) (ha : Full s a.reg) (hd : Free s d) {x : Strand} (he : EndAt s (s.g a.reg) x true)
  (hg : item = .g → x.s = 0 ∧ Free s (d + 1))
include hp ha hd he hg

omit hp ha he in
theorem State.freeRecv_ok : s.freeRecv d item = .ok s () := by
  cases item with
  | g => exact State.freeRecv_g hd (hg rfl).2
  | v c => exact State.freeG_ok hd

omit hp ha hd he in
theorem recvFits_ok : recvFits x item = true := by
  cases item with
  | g => exact recvFits_g (hg rfl).1
  | v c => rfl

theorem execSrecv_claims (h : s.me.sent = false) (hs : s.me.sending = false) {y : State}
    (hy : y = (s.claimFor x d item).serve x.key) :
    exec (.srecv d a item) s = if y.me.sending then .next y else .next (ended .v y) := by
  have hmeT : (s.modMe (Slot.recvPends d item)).meT = ⟨s.cur, s.me.uid⟩ := by
    rw [State.meT, State.me_modMe, Slot.recvPends_uid]
    rfl
  have hbody : exec (.srecv d a item) s = issue .v .inner (fun _ => if y.me.sending then .wait y else .ok y ()) s := by
    show execSrecv d a item s = _
    refine issue_congr hp ?_
    rw [if_neg (by rw [h]; exact Bool.false_ne_true), if_neg (by rw [hs]; exact Bool.false_ne_true),
      State.examine_ok (fullAll_one ha), Res.bind_ok, State.freeRecv_ok hd hg, Res.bind_ok, State.useEnd_ok he rfl, Res.bind_ok,
      need_ok (recvFits_ok hg), Res.bind_ok]
    rw [hy, State.claimFor, State.claimOf, ← hmeT]
    cases item <;> rfl
  rw [hbody]
  by_cases hsd : y.me.sending = true
  · simp only [if_pos hsd]
    exact issue_waits hp rfl
  · simp only [if_neg hsd]
    exact issue_ends hp rfl

/-- A poll's checks pass (R255). -/
theorem execSpoll_body : exec (.spoll d a item) s = issue .v .inner (fun _ =>
    if x.claims.isEmpty && decide (x.ntake < x.ndeliv) && !s.ringHeld x then
      .ok (((s.takeOne x (s.claimOf d item)).1.putStrand (s.takeOne x (s.claimOf d item)).2).serve
        (s.takeOne x (s.claimOf d item)).2.key) ()
    else
      match (if x.claims.isEmpty then x.drained else none) with
      | some code => .ok (s.modMe (Slot.takeItem x.size (s.claimOf d item) code none false)) ()
      | none => .ok (s.pollEmpty d item) ()) s := by
  show execSpoll d a item s = _
  refine issue_congr hp ?_
  rw [State.examine_ok (fullAll_one ha), Res.bind_ok, State.freeRecv_ok hd hg, Res.bind_ok, State.useEnd_ok he rfl, Res.bind_ok,
    need_ok (recvFits_ok hg), Res.bind_ok]
  cases item <;> rfl

theorem execSpoll_takesItem (hclaims : x.claims = []) (hitem : x.ntake < x.ndeliv) (hheld : s.ringHeld x = false) :
    exec (.spoll d a item) s = .next (ended .v
      (((s.takeOne x (s.claimOf d item)).1.putStrand (s.takeOne x (s.claimOf d item)).2).serve
        (s.takeOne x (s.claimOf d item)).2.key)) := by
  have hready : (x.claims.isEmpty && decide (x.ntake < x.ndeliv) && !s.ringHeld x) = true := by
    rw [hclaims, hheld, decide_eq_true hitem]
    rfl
  rw [execSpoll_body hp ha hd he hg]
  exact issue_ends hp (if_pos hready)

theorem execSpoll_drained (hclaims : x.claims = []) (hitem : x.ndeliv ≤ x.ntake) {code : Nat} (hcode : x.drained = some code) :
    exec (.spoll d a item) s = .next (ended .v (s.modMe (Slot.takeItem x.size (s.claimOf d item) code none false))) := by
  have hready : (x.claims.isEmpty && decide (x.ntake < x.ndeliv) && !s.ringHeld x) = false := by
    rw [decide_eq_false (Nat.not_lt.2 hitem), Bool.and_false, Bool.false_and]
  rw [execSpoll_body hp ha hd he hg]
  refine issue_ends hp ?_
  rw [hready, if_neg Bool.false_ne_true, hclaims, hcode]
  rfl

theorem execSpoll_nothing (hready : (x.claims.isEmpty && decide (x.ntake < x.ndeliv) && !s.ringHeld x) = false)
    (hdrained : (if x.claims.isEmpty then x.drained else none) = none) :
    exec (.spoll d a item) s = .next (ended .v (s.pollEmpty d item)) := by
  rw [execSpoll_body hp ha hd he hg]
  refine issue_ends hp ?_
  rw [hready, if_neg Bool.false_ne_true, hdrained]

end

theorem Strand.drained_of_peer {x : Strand} (h : x.nsend ≤ x.ntake) {code : Nat}
    (hp : x.snk.peer = 1 ∧ code = 4 ∨ x.snk.peer = 2 ∧ code = 2) : x.drained = some code := by
  unfold Strand.drained
  rw [if_neg (Nat.not_lt.2 h)]
  rcases hp with ⟨hp, rfl⟩ | ⟨hp, rfl⟩
  · rw [if_pos hp]
  · rw [if_neg (by rw [hp]; decide), if_pos hp]

theorem Strand.drained_none {x : Strand} (h : x.ntake < x.nsend ∨ x.snk.peer = 0) : x.drained = none := by
  unfold Strand.drained
  rcases h with h | h
  · rw [if_pos h]
  · rw [h]
    simp

/-- A strand whose next item a poll may not take (R255). -/
theorem Strand.nothing_to_poll {s : State} {x : Strand}
    (h : x.claims ≠ [] ∨ (x.ndeliv ≤ x.ntake ∧ (x.ntake < x.nsend ∨ x.snk.peer = 0)) ∨
      (s.ringHeld x = true ∧ x.ntake < x.nsend)) :
    (x.claims.isEmpty && decide (x.ntake < x.ndeliv) && !s.ringHeld x) = false ∧
      (if x.claims.isEmpty then x.drained else none) = none := by
  rcases h with h | ⟨hi, h⟩ | ⟨hheld, h⟩
  · have hempty : x.claims.isEmpty = false := List.isEmpty_eq_false_iff.2 h
    rw [hempty]
    exact ⟨rfl, rfl⟩
  · rw [decide_eq_false (Nat.not_lt.2 hi), Strand.drained_none h, Bool.and_false, Bool.false_and]
    exact ⟨rfl, ite_self _⟩
  · rw [hheld, Strand.drained_none (.inl h), Bool.not_true, Bool.and_false]
    exact ⟨rfl, ite_self _⟩

/-! ## Moves and states of ends (R258 to R266) -/

/-- The anchor grants an end's move when it is the first that is not accepted (R258; log 16 for another device's strand). -/
def State.mayBind (s : State) (x : Strand) (sink : Bool) : Bool :=
  (decide (x.idx < 65536) || Config.freeFlag s.ctr 42) &&
    match x.moves.head? with
    | some m => m.sink == sink && !m.accepted
    | none => false

section
variable {s : State} {d : Reg} {a : Src} (hp : Solo s) (ha : Full s a.reg) (hd : Free s d)
include hp ha hd

section
variable {b : Src} {x : Strand} {sink : Bool} {off : Nat} (hh : taHnd s.cur = false)
    (hb : Full s b.reg) (hside : handleSink (s.g a.reg) = sink) (hk : s.handleOk (s.g a.reg) = true)
    (hx : s.strandOf s.me.ctx (s.g a.reg) = some x) (hst : (x.side sink).st = 1) (hhold : (x.side sink).holder = s.me.uid)
    (hring : sink = true → RingAt s (s.g b.reg) (8 * 2 ^ x.s) (2 ^ x.l) off) (hoff : sink = false → off = 0)
include hh hb hside hk hx hst hhold hring hoff

/-- SACCEPT of an end in transit that the task holds: its checks pass, and it waits for its move (R258). -/
theorem execSaccept_body : exec (.saccept d a b) s = issue .v .outer (fun s =>
    (await (s.mayBind x sink) s).bind fun s _ =>
      .ok ((s.bindEnd x sink off).putG d (peerStatus (x.side sink).peer)) ()) s := by
  have hneed : ((x.side sink).st == 1 && (x.side sink).holder == s.me.uid) = true := by
    rw [hst, hhold]
    simp
  have hcheck : (if sink then s.checkRing (s.g b.reg) x.size x.depth else .ok s 0) = .ok s off := by
    cases sink with
    | true => exact State.checkRing_ok (hring rfl)
    | false => rw [hoff rfl]; rfl
  show execSaccept d a b s = _
  refine issue_congr hp ?_
  rw [State.examine_ok (fullAll_two ha hb), Res.bind_ok, State.freeG_ok hd, Res.bind_ok]
  dsimp only
  rw [State.findEnd_ok hk hx, Res.bind_ok, hside, hcheck, Res.bind_ok, State.taskOnly_ok hh, Res.bind_ok, need_ok hneed, Res.bind_ok]
  rfl

theorem execSaccept_binds (hidx : x.idx < 65536) {m : StrandMove} {l : List StrandMove} (hmoves : x.moves = m :: l)
    (hsink : m.sink = sink) (hacc : m.accepted = false) :
    exec (.saccept d a b) s = .next (ended .v ((s.bindEnd x sink off).putG d (peerStatus (x.side sink).peer))) := by
  rw [execSaccept_body hp ha hd hh hb hside hk hx hst hhold hring hoff]
  refine issue_ends hp ?_
  rw [await_ok, Res.bind_ok]
  rw [State.mayBind, decide_eq_true hidx, hmoves]
  simp [hsink, hacc]

theorem execSaccept_waits (hmoves : x.moves = []) : exec (.saccept d a b) s = .next s := by
  rw [execSaccept_body hp ha hd hh hb hside hk hx hst hhold hring hoff]
  refine issue_waits hp ?_
  rw [await_waits, Res.bind_wait]
  rw [State.mayBind, hmoves]
  exact Bool.and_false _

end

theorem execSflush_waits {x : Strand} (he : EndAt s (s.g a.reg) x false) (hdev : x.snk.dev = 0) (h : x.ndeliv < x.nsend) :
    exec (.sflush d a) s = .next s := by
  have hleft : (if x.snk.dev = 0 then decide (x.nsend ≤ x.ndeliv) else Config.freeFlag s.ctr 40) = false := by
    rw [if_pos hdev, decide_eq_false (Nat.not_le.2 h)]
  show execSflush d a s = _
  refine issue_waits hp ?_
  rw [State.examine_ok (fullAll_one ha), Res.bind_ok, State.freeG_ok hd, Res.bind_ok, State.useEnd_ok he rfl, Res.bind_ok,
    await_waits hleft, Res.bind_wait]

end

theorem State.watched_open (s : State) {x : Strand} {sink : Bool} (t : BitVec 6) (h : (x.side sink).peer = 0) :
    s.watched x sink t = s.putStrand (x.setSide sink { x.side sink with watch := some (⟨s.cur, s.me.uid⟩, t) }) :=
  if_neg (not_not.2 h)

theorem State.watched_gone (s : State) {x : Strand} {sink : Bool} (t : BitVec 6) (h : (x.side sink).peer ≠ 0) :
    s.watched x sink t = (s.putStrand (x.setSide sink { x.side sink with watch := none })).modTask ⟨s.cur, s.me.uid⟩
      fun sl => sl.deliverTag t 0 false false false false := if_pos h

/-- The second part of O35. -/
theorem strandReceiving : StrandReceiving := by
  unfold StrandReceiving
  intro s d a h hp ha hd hh
  subst hh
  refine ⟨fun x item c he hg hc => ?_, fun b x sink off hh hb hside hk hx hidx hst hhold hring hoff =>
      ⟨fun ⟨m, l, hm, hs, hacc⟩ => execSaccept_binds hp ha hd hh hb hside hk hx hst hhold hring hoff hidx hm hs hacc,
        execSaccept_waits hp ha hd hh hb hside hk hx hst hhold hring hoff⟩, fun x sink he => ?_, fun hk => ⟨fun hn => ?_, fun x hx => ?_⟩⟩
  · have hclaim : c = s.claimOf d item := by
      rw [hc]
      cases item <;> rfl
    subst hclaim
    refine ⟨execSrecv_received hp, execSrecv_pending hp, fun hsent hsending y hy => ?_, fun hcl hi hheld t y ht => ?_,
      fun hcl hi hs code hcode => ?_, fun hno => ?_⟩
    · refine execSrecv_claims hp ha hd he hg hsent hsending (hy.trans ?_)
      cases item <;> rfl
    · have h := execSpoll_takesItem hp ha hd he hg hcl hi hheld
      rwa [ht] at h
    · refine ends_congr (execSpoll_drained hp ha hd he hg hcl hi (Strand.drained_of_peer hs hcode)) ?_
      cases item <;> rfl
    · obtain ⟨hready, hdrained⟩ := Strand.nothing_to_poll hno
      refine ends_congr (execSpoll_nothing hp ha hd he hg hready hdrained) ?_
      cases item <;> rfl
  · refine ⟨execSclose_ends hp ha he, fun t ht => ?_, fun t ht => ?_, fun hsink hdev => ?_⟩
    · exact ends_congr (execSwatch_ends hp ha he t) (s.watched_open t ht)
    · exact ends_congr (execSwatch_ends hp ha he t) (s.watched_gone t ht)
    · subst hsink
      exact ⟨execSflush_ends hp ha hd he hdev, execSflush_waits hp ha hd he hdev⟩
  · have hw := execSstat_ends hp ha hd hk
    unfold State.statWord at hw
    rw [show s.strandOf s.me.ctx (s.g a.reg) = none from hn] at hw
    refine ⟨fun hhome => ?_, fun _ => ⟨_, hw⟩⟩
    rwa [show s.handleHome (s.g a.reg) = true from hhome] at hw
  · refine ends_congr (execSstat_ends hp ha hd hk) ?_
    unfold State.statWord
    rw [show s.strandOf s.me.ctx (s.g a.reg) = some x from hx]
    rfl

/-- Settles O35: each instruction's checks pass in turn, and its last step is the rule's. -/
theorem strandInstructions : Obligations.StrandInstructions := ⟨strandSending, strandReceiving⟩

end Sys2Proof.Machine
end

section
/-! SUPPORT. What the settle instructions answer and leave (R282 to R303). -/

namespace Sys2Proof.Machine

open Sys2Proof.Claims

/-! ## Issue (R280, R297, R298, R300) -/

/-- How an instruction with a reply ends once the task has the region k: it is refused by the state that the region was in
(R286), or acts on it as it is claimed. -/
def sfEnd (d : Reg) (refuse : Region → Option Nat) (act : State → Nat → Region → List (Place × Nat) → State) (x : State) (k : Nat)
    (r r' : Region) (ps : List (Place × Nat)) : State :=
  match refuse r with
  | some c => x.sfAnswer d (sfWord c false) false none
  | none => act x k r' ps

section
variable {d : Reg} {refuse : Region → Option Nat} {act : State → Nat → Region → List (Place × Nat) → State} {x : State} {k : Nat}
  {r r' : Region} {ps : List (Place × Nat)}

theorem sfEnd_refused {c : Nat} (h : refuse r = some c) :
    sfEnd d refuse act x k r r' ps = answered x d (sfWord c false) false none := by
  unfold sfEnd
  rw [h]
  rfl

theorem sfEnd_acts (h : refuse r = none) : sfEnd d refuse act x k r r' ps = act x k r' ps := by
  unfold sfEnd
  rw [h]

end

theorem busyRun_run {r : Region} (h : r.state = 2) : busyRun r = some 5 := if_pos h

theorem busyRun_none {r : Region} (h : r.state ≠ 2) : busyRun r = none := if_neg h

theorem busyOrIdle_run {r : Region} (h : r.state = 2) : busyOrIdle r = some 5 := if_pos h

theorem busyOrIdle_idle {r : Region} (h : r.state = 0) : busyOrIdle r = some 6 := by
  unfold busyOrIdle
  rw [if_neg (by rw [h]; decide), if_pos h]

theorem busyOrIdle_none {r : Region} (h2 : r.state ≠ 2) (h0 : r.state ≠ 0) : busyOrIdle r = none := by
  unfold busyOrIdle
  rw [if_neg h2, if_neg h0]

theorem State.sfAnswer_eq (s : State) (d : Reg) (v : Word) (pois : Bool) (smp : Option (Nat × Nat)) :
    s.sfAnswer d v pois smp = answered s d v pois smp := rfl

theorem sfWord_clip (b : Bool) : sfWord 0 b = if b then 0x100 else 0 := by cases b <;> rfl

section
variable {s : State} {a : Src} {d : Reg} {k : Nat} {r : Region} (hr : SfReady s a d k r)
include hr

theorem State.sfRegion_ok : s.sfRegion (s.g a.reg) = .ok s r := by
  obtain ⟨hle, hk, hreg⟩ := hr.named
  rw [hk] at hreg
  unfold State.sfRegion
  rw [need_ok (by rw [hr.task]; rfl), Res.bind_ok, if_neg (show ¬ 15 < (s.g a.reg).toNat from Nat.not_lt.2 hle),
    show s.region? (regionKey s.me.ctx (s.g a.reg).toNat) = some r from hreg]

end

theorem Region.busy_iff (r : Region) (uid : Nat) : r.busy uid = true ↔ r.claim.uid ≠ 0 ∧ r.claim.uid ≠ uid := by
  simp [Region.busy]

/-- The key of the region that g(a) names, in a state that has the task and its registers. -/
theorem regionKey_g {s u : State} (hme : u.me = s.me) (a : Reg) :
    regionKey u.me.ctx (u.g a).toNat = regionKey s.me.ctx (s.g a).toNat := by
  unfold State.g
  rw [hme]

section
variable {i : Instr} {s : State} {srcs : List Src} {a : Src} {d : Reg} {places : State → Region → Res (List (Place × Nat))}
  {refuse : Region → Option Nat} {act : State → Nat → Region → List (Place × Nat) → State}

/-- What the functions with a reply share is what SfDoes says, given how they end. -/
theorem sfDoes_of (hi : exec i s = sf srcs d a.reg places refuse act s) (hl : Full s a.reg → FullAll s srcs)
    {P : State → Region → Res (List (Place × Nat))} (hP : P s = places s)
    {Q : State → Nat → Region → Region → List (Place × Nat) → State → Prop}
    (hQ : ∀ x k r r' ps, Q x k r r' ps (sfEnd d refuse act x k r r' ps)) : SfDoes i s a d P Q := by
  intro k r u ps hp hr hps hme hcur ⟨hv, hrq⟩ hno
  have hk : regionKey u.me.ctx (u.g a.reg).toNat = k := (regionKey_g hme a.reg).trans hr.named.2.1.symm
  have hbody : exec i s = issue .v .outer (fun _ =>
      if r.busy s.me.uid then .ok (u.sfAnswer d 5 false none) ()
      else
        match refuse r, (u.sfClaim k).region? k with
        | some st, _ => .ok ((u.sfClaim k).sfAnswer d (sfWord st false) false none) ()
        | none, some r => .ok (act (u.sfClaim k) k r ps) ()
        | none, none => .ok (u.sfClaim k) ()) s := by
    rw [hi]
    refine issue_congr hp ?_
    rw [State.examine_ok (hl hr.src), Res.bind_ok, State.freeG_ok hr.dst, Res.bind_ok, State.sfRegion_ok hr, Res.bind_ok, ← hP, hps,
      Res.bind_ok, State.waitRpq_ok hv hrq, Res.bind_ok, State.waitAmo_ok hno, Res.bind_ok]
    dsimp only
    rw [hk, hme] <;> rfl
  refine ⟨fun h0 hne => ?_, fun hmine x r' hx hx' => ⟨sfEnd d refuse act x k r r' ps, ?_, hQ ..⟩⟩
  · rw [hbody]
    exact issue_ends hp (if_pos ((r.busy_iff _).2 ⟨h0, hne⟩))
  · subst hx
    have hfree : ¬ r.busy s.me.uid = true := fun h => by
      obtain ⟨h0, hne⟩ := (r.busy_iff _).1 h
      exact hmine.elim h0 hne
    rw [hbody]
    refine issue_ends hp ?_
    rw [if_neg hfree, hx', sfEnd]
    cases refuse r <;> rfl

end

/-! ## Operands (R298) -/

section
variable {x : State} {ps : List (Place × Nat)} (d : Reg) (f : State → List Byte → State)

theorem State.sfOperand_poison {pa : Nat} (h : x.lowestPois ps = some pa) : x.sfOperand d ps f =
    answered (x.report ⟨1, 1, 0, 0, 0, 0, BitVec.ofNat 64 pa, BitVec.ofNat 64 x.cur, none, 0⟩) d 0 true none := by
  unfold State.sfOperand
  rw [h]
  rfl

theorem State.sfOperand_reads {y : State} {bs : List Byte} (h : ReadsAs x ps y bs) : x.sfOperand d ps f = f y bs := by
  obtain ⟨hp, l, hl, rfl⟩ := h
  unfold State.sfOperand
  rw [hp]
  dsimp only
  rw [hl]

theorem sfPoison_operand : SfPoison x ps d (x.sfOperand d ps f) := fun _ h => State.sfOperand_poison d f h

end

/-! ## Configuration (R282, R283, R286, R291, R292, R302) -/

section
variable {s : State} {d : Reg} {a b : Src} (hb : Full s b.reg)
include hb

theorem execSfcfg_does : SfDoes (.sfcfg d a b) s a d (fun s r => State.imagePlaces (s.me.greg b.reg).val s r) (fun x k r _ ps t =>
    (r.state = 2 → t = answered x d 5 false none) ∧ (r.state ≠ 2 → SfPoison x ps d t) ∧
    (r.state ≠ 2 → ∀ y img r₂, ReadsAs x ps y img → y.region? k = some r₂ →
      ((badImage img r₂.count = true ∨ imgSig img ≠ BitVec.ofNat 64 (imgField img 0 8)) →
        t = answered (y.modRegion k fun r => { r with state := 0, image := [], bias := [], u := [], seed := 0 }) d 7 false none) ∧
      (badImage img r₂.count = false → imgSig img = BitVec.ofNat 64 (imgField img 0 8) →
        t = answered (y.modRegion k fun r =>
          { r with state := 1, image := img, sig := some (imgSig img), seed := 0
                   bias := List.replicate (16 * imgField img 8 2) 0, u := List.replicate (16 * imgField img 8 2) 0
                   hist := if r.sig = some (imgSig img) then r.hist else [] }) d 0 false none))) := by
  refine sfDoes_of (show _ = execSfcfg d a b s from rfl) (fullAll_two · hb) rfl fun x k r r' ps => ⟨fun h2 =>
    sfEnd_refused (busyRun_run h2), fun h2 => ?_, fun h2 y img r₂ hread hr₂ => ?_⟩
  · rw [sfEnd_acts (busyRun_none h2)]
    exact sfPoison_operand d _
  · rw [sfEnd_acts (busyRun_none h2), State.sfOperand_reads d _ hread, hr₂]
    dsimp only
    refine ⟨fun hbad => ?_, fun hgood hsig => ?_⟩
    · rw [if_pos (by simpa using hbad)]
      rfl
    · rw [← hsig, if_neg (by simp [hgood])]
      rfl

theorem execSfscl_imm_does (e : BitVec 6) (h0 : b.reg = 0) : SfDoes (.sfscl d a b e) s a d (fun s _ => .ok s []) (fun x k _ _ _ t =>
    t = answered (x.modRegion k fun q => { q with exps := List.replicate (16 * q.count) e.toInt }) d 0 false none) := by
  refine sfDoes_of (show _ = execSfscl d a b e s from rfl) (fullAll_two · hb) ?_ fun x k r r' ps => ?_
  · funext r
    exact (if_pos h0).symm
  · rw [sfEnd_acts rfl, if_pos h0]
    rfl

theorem execSfscl_does (e : BitVec 6) (h0 : b.reg ≠ 0) : SfDoes (.sfscl d a b e) s a d
    (fun s r => s.sfPlaces (s.me.greg b.reg).val (16 * r.count) 1 false) (fun x k _ r ps t => SfPoison x ps d t ∧
      ∀ y bs l, ReadsAs x ps y bs →
      l = (List.range (16 * r.count)).map (fun j => (bs.getD j 0).toInt) →
      t = answered (y.modRegion k fun q => { q with exps := l.map fun v => max (-32) (min 31 v) }) d
        (if l.any fun v => decide (v < -32) || decide (31 < v) then 0x100 else 0) false none) := by
  refine sfDoes_of (show _ = execSfscl d a b e s from rfl) (fullAll_two · hb) ?_ fun x k r r' ps => ?_
  · funext r
    exact (if_neg h0).symm
  · rw [sfEnd_acts rfl, if_neg h0]
    refine ⟨sfPoison_operand d _, fun y bs l hread hl => ?_⟩
    subst hl
    rw [State.sfOperand_reads d _ hread]
    dsimp only
    rw [sfWord_clip]
    rfl

theorem execSfbias_does (i16 : Bool) (sc : BitVec 7) : SfDoes (.sfbias d a b i16 sc) s a d
    (fun s r => s.sfPlaces (s.me.greg b.reg).val ((if i16 then 2 else 8) * r.n) (if i16 then 2 else 8) false)
    (fun x k r r' ps t =>
      (r.state = 2 → t = answered x d 5 false none) ∧ (r.state = 0 → t = answered x d 6 false none) ∧
      (r.state ≠ 2 → r.state ≠ 0 → SfPoison x ps d t) ∧
      (r.state ≠ 2 → r.state ≠ 0 → ∀ y bs l, ReadsAs x ps y bs →
        l = (List.range r'.n).map (fun j => if imgUsed r'.image j then
            clipCode (if i16 then asInt 16 (imgField bs (2 * j) 2) else (scaled (imgField bs (8 * j) 8) (sc.toInt + 13)).getD 0)
          else (intAt r'.bias j, false)) →
        t = answered (y.modRegion k fun q => { q with bias := l.map Prod.fst, state := 1 }) d
          (if l.any Prod.snd then 0x100 else 0) false none)) := by
  have hi : exec (.sfbias d a b i16 sc) s = execSfbias d a b i16 sc s := rfl
  unfold execSfbias at hi
  dsimp only at hi
  refine sfDoes_of hi (fullAll_two · hb) rfl fun x k r r' ps =>
    ⟨fun h2 => sfEnd_refused (busyOrIdle_run h2), fun h0 => sfEnd_refused (busyOrIdle_idle h0), fun h2 h0 => ?_,
      fun h2 h0 y bs l hread hl => ?_⟩
  · rw [sfEnd_acts (busyOrIdle_none h2 h0)]
    exact sfPoison_operand d _
  · subst hl
    rw [sfEnd_acts (busyOrIdle_none h2 h0), State.sfOperand_reads d _ hread]
    rw [sfWord_clip, State.sfAnswer_eq]
    cases i16 <;> simp only [if_true, if_false, Bool.false_eq_true]

theorem execSfseed_does : SfDoes (.sfseed d a b) s a d (fun s r => State.seedPlaces (s.me.greg b.reg).val s r) (fun x k r r' ps t =>
    (r.state = 2 → t = answered x d 5 false none) ∧ (r.state = 0 → t = answered x d 6 false none) ∧
    (r.state ≠ 2 → r.state ≠ 0 → SfPoison x ps d t) ∧
    (r.state ≠ 2 → r.state ≠ 0 → ∀ y bs, ReadsAs x ps y bs →
      (badSeed bs = true → t = answered y d 10 false none) ∧
      (badSeed bs = false → ∀ l full, l = (List.range r'.n).map (fun j =>
          if imgUsed r'.image j then seedOf bs (imgVid r'.image j) (intAt r'.exps j) else (0, false, true)) →
        full = (r'.sig == some (BitVec.ofNat 64 (imgField bs 0 8)) && l.all fun v => v.2.2) →
        t = answered (y.modRegion k fun q => { q with u := l.map (fun v => 100 * v.1), clip := l.any fun v => v.2.1
                                                      seed := if full then 1 else 2, state := 1 }) d
          (sfWord (if full then 0 else 8) (l.any fun v => v.2.1)) false none))) := by
  refine sfDoes_of (show _ = execSfseed d a b s from rfl) (fullAll_two · hb) rfl fun x k r r' ps =>
    ⟨fun h2 => sfEnd_refused (busyOrIdle_run h2), fun h0 => sfEnd_refused (busyOrIdle_idle h0), fun h2 h0 => ?_,
      fun h2 h0 y bs hread => ?_⟩
  · rw [sfEnd_acts (busyOrIdle_none h2 h0)]
    exact sfPoison_operand d _
  · rw [sfEnd_acts (busyOrIdle_none h2 h0), State.sfOperand_reads d _ hread]
    refine ⟨fun hbad => ?_, fun hgood l full hl hfull => ?_⟩
    · rw [if_pos hbad]
      rfl
    · subst hl hfull
      rw [if_neg (by rw [hgood]; exact Bool.false_ne_true)]
      rfl

end

/-- The first part of O37. -/
theorem settleConfiguration : SettleConfiguration := by
  unfold SettleConfiguration
  exact fun s d a b hb => ⟨execSfcfg_does hb, execSfscl_imm_does hb, execSfscl_does hb, execSfbias_does hb, execSfseed_does hb⟩

/-! ## Runs (R286 to R288, R294, R300, R302) -/

/-- States within the limits are no state that crosses one, where the run started from none (R287). -/
theorem Region.crossed_within {r : Region} (h : r.crossed r.u = none) (u : List Int) : r.crossed (r.within u) = none := by
  unfold Region.within
  split
  · next hu => exact Option.isNone_iff_eq_none.1 hu
  · exact h

section
variable {s : State} {d : Reg} {a : Src}

theorem execSfrun_does : SfDoes (.sfrun d a) s a d (fun s _ => .ok s []) (fun x k r r' _ t =>
    (r.state = 2 → t = answered x d 5 false none) ∧ (r.state = 0 → t = answered x d 6 false none) ∧
    (r.state ≠ 2 → r.state ≠ 0 → ∀ y, y = (x.modRegion k fun q =>
        { q with state := 2, start := x.time, runs := q.runs + 1 }) →
      (∀ b i, r'.crossed r'.u = some (b, i) → t = answered (y.modRegion k fun q =>
        { q with state := 4, u := q.u.map (fun v => max (-870400) (min 870400 v)), sblk := b, sunit := i }) d 0 false none) ∧
      (r'.crossed r'.u = none → ∃ u v, t = answered (((y.post (.settleCertify (k / 16) (k % 16) u)).post
          (.settleSaturation (k / 16) (k % 16) v)).post (.settleTimeout (k / 16) (k % 16) u)) d 0 false none ∧
        r'.crossed u = none ∧ v.length = 16 * r'.nblk))) := by
  refine sfDoes_of (show _ = execSfrun d a s from rfl) fullAll_one rfl fun x k r r' ps =>
    ⟨fun h2 => sfEnd_refused (busyOrIdle_run h2), fun h0 => sfEnd_refused (busyOrIdle_idle h0), fun h2 h0 y hy => ?_⟩
  subst hy
  rw [sfEnd_acts (busyOrIdle_none h2 h0)]
  refine ⟨fun b i hc => ?_, fun hc => ⟨(x.modRegion k fun q => { q with state := 2, start := x.time, runs := q.runs + 1 }).freeU r',
    (List.range (16 * r'.nblk)).map fun j =>
    if imgUsed r'.image j then Config.freeSettle x.ctr (j + 1024) else 0, ?_, Region.crossed_within hc _, ?_⟩⟩
  · dsimp only
    rw [hc]
    rfl
  · dsimp only
    rw [hc]
    rfl
  · rw [List.length_map, List.length_range]

theorem execSfhalt_does : SfDoes (.sfhalt d a) s a d (fun s _ => .ok s []) (fun x k _ r' _ t =>
    t = answered (x.haltRegion (k / 16) (k % 16)) d (BitVec.ofNat 64 (sfStatus (if r'.state = 2 then 6 else r'.state))) false none) :=
  sfDoes_of (show _ = execSfhalt d a s from rfl) fullAll_one rfl fun _ _ _ _ _ => rfl

theorem execSfrel_does : SfDoes (.sfrel d a) s a d (fun s _ => .ok s []) (fun x k _ _ _ t =>
    t = answered (x.endClaim (k / 16) (k % 16)) d 0 false none) :=
  sfDoes_of (show _ = execSfrel d a s from rfl) fullAll_one rfl fun _ _ _ _ _ => rfl

theorem execSfdln_does {b c : Src} (hl : FullAll s [b, c]) : SfDoes (.sfdln d a b c) s a d
    (fun s r => s.sfPlaces (s.me.greg c.reg).val (8 * r.n) 8 true) (fun x k _ _ _ t =>
      t = answered (x.modMe fun sl => { sl with dline := x.g b.reg, dlb := true, dlreg := BitVec.ofNat 4 k
                                                dlbuf := x.g c.reg }) d 0 false none) :=
  sfDoes_of (show _ = execSfdln d a b c s from rfl) (fun ha => List.forall_mem_cons.2 ⟨ha, hl⟩) rfl fun _ _ _ _ _ => rfl

end

/-! ## Samples (R299, R302) -/

theorem State.copyBytes_slots (s : State) (src dst n : Nat) : (s.copyBytes src dst n).slots = s.slots :=
  foldl_keeps State.slots (f := fun (s : State) i => s.poisonAt (dst + 32 * i)) (fun _ _ => rfl) _ _

theorem State.capture_slots (s : State) (rp : Bool) (key : Nat) : (s.capture rp key).slots = s.slots := by
  unfold State.capture
  dsimp only
  split
  · split
    · simp only [State.copyBytes_slots]
    · rfl
  · rfl

theorem State.writePartial_slots (s : State) (o : EngOp) (run : Nat × List (Byte × Bool)) :
    (s.writePartial o run).1.slots = s.slots := by
  unfold State.writePartial
  dsimp only
  split
  · rfl
  · refine foldl_keeps (fun acc : State × List Nat => acc.1.slots) (fun acc i => ?_) _ _
    split
    · dsimp only
      split <;> exact State.capture_slots ..
    · rfl

theorem State.opMark_slots (s : State) (o : EngOp) (ps : List (Word × Nat)) : (s.opMark o ps).slots = s.slots := by
  unfold State.opMark
  split
  · refine foldl_keeps State.slots (fun x p => ?_) _ _
    split
    · rfl
    · exact (WalksOnly.markDirtyOn ..).sameSlots.2
  · rfl

theorem State.modRegion_slots (s : State) (k : Nat) (f : Region → Region) : (s.modRegion k f).slots = s.slots := by
  unfold State.modRegion
  split <;> rfl

theorem execSfsmp_does {s : State} {d : Reg} {a b : Src} (hb : Full s b.reg) (fp32 : Bool) : SfDoes (.sfsmp d a b fp32) s a d
    (fun s r => s.sfPlaces (s.me.greg b.reg).val ((if fp32 then 4 else 8) * r.n) (if fp32 then 4 else 8) true)
    (fun x k r r' _ t => (r.state = 0 → t = answered x d 6 false none) ∧
      (r.state ≠ 0 → ∃ y u clip, u = (if r'.state = 2 then x.freeU r' else r'.u) ∧ clip = r'.clips u ∧ y.slots = x.slots ∧
        t = answered y d (sfWord (sfStatus r'.state) clip) false (some (k, r'.runs)))) := by
  have hi : exec (.sfsmp d a b fp32) s = execSfsmp d a b fp32 s := rfl
  unfold execSfsmp at hi
  dsimp only at hi
  refine sfDoes_of hi (fullAll_two · hb) rfl fun x k r r' ps =>
    ⟨fun h0 => sfEnd_refused (if_pos h0), fun h0 => ?_⟩
  rw [sfEnd_acts (if_neg h0)]
  refine ⟨_, _, _, rfl, rfl, ?_, rfl⟩
  refine (foldl_keeps State.slots (fun x p => State.writePartial_slots ..) _ _).trans ?_
  rw [State.opMark_slots, State.modRegion_slots]

/-! ## Reads and waits (R293, R299, R303) -/

theorem State.me_sfClaim (s : State) (k : Nat) : (s.sfClaim k).me = s.me := by
  unfold State.sfClaim State.modRegion
  split <;> rfl

theorem State.cur_sfClaim (s : State) (k : Nat) : (s.sfClaim k).cur = s.cur := by
  unfold State.sfClaim State.modRegion
  split <;> rfl

section
variable {s : State} {d : Reg} {a : Src} {k : Nat} {r : Region} (hp : Solo s) (hr : SfReady s a d k r)
include hp hr

section
variable (hq : Quiet s) (hno : NoAmo s)
include hq hno

theorem execSfstat_ends : exec (.sfstat d a) s = .next (ended .v (answered s d (r.stat s.me.uid) false none)) := by
  obtain ⟨hv, hrq⟩ := hq
  show execSfstat d a s = _
  refine issue_ends hp ?_
  rw [State.examine_ok (fullAll_one hr.src), Res.bind_ok, State.freeG_ok hr.dst, Res.bind_ok, State.sfRegion_ok hr, Res.bind_ok,
    State.waitRpq_ok hv hrq, Res.bind_ok, State.waitAmo_ok hno, Res.bind_ok]
  rfl

variable (hout : s.sfOut s.me.uid = false) (tr : Bool)
include hout

/-- SFWAIT of a region that the task names: its checks pass, and no reply is awaited (R299). -/
theorem execSfwait_body : exec (.sfwait d a tr) s = issue .v .outer (fun _ =>
    if r.busy s.me.uid then .ok ((s.countMe 31 1).putG d 5) ()
    else if r.state = 2 then .wait (s.sfClaim k)
    else if tr && r.state == 4 then .trap (s.sfClaim k) 0x0A ((s.sfClaim k).g a.reg)
    else if tr && r.state == 5 then .trap (s.sfClaim k) 0x0B ((s.sfClaim k).g a.reg)
    else .ok (((s.sfClaim k).countMe 31 1).putG d (sfWord (sfStatus r.state) false)) ()) s := by
  obtain ⟨hv, hrq⟩ := hq
  have hk : regionKey s.me.ctx (s.g a.reg).toNat = k := hr.named.2.1.symm
  show execSfwait d a tr s = _
  refine issue_congr hp ?_
  rw [State.examine_ok (fullAll_one hr.src), Res.bind_ok, State.freeG_ok hr.dst, Res.bind_ok, State.sfRegion_ok hr, Res.bind_ok,
    State.waitRpq_ok hv hrq, Res.bind_ok, State.waitAmo_ok hno, Res.bind_ok, await_ok (by rw [hout]; rfl), Res.bind_ok]
  dsimp only
  rw [hk]

theorem execSfwait_held (h0 : r.claim.uid ≠ 0) (hne : r.claim.uid ≠ s.me.uid) :
    exec (.sfwait d a tr) s = .next (ended .v ((s.countMe 31 1).putG d 5)) := by
  rw [execSfwait_body hp hr hq hno hout tr]
  exact issue_ends hp (if_pos ((r.busy_iff _).2 ⟨h0, hne⟩))

variable (hmine : r.claim.uid = 0 ∨ r.claim.uid = s.me.uid)
include hmine

omit hp hr hq hno hout in
theorem Region.not_busy : ¬ r.busy s.me.uid = true := fun h => by
  obtain ⟨h0, hne⟩ := (r.busy_iff _).1 h
  exact hmine.elim h0 hne

theorem execSfwait_runs (h2 : r.state = 2) : exec (.sfwait d a tr) s = .next (s.sfClaim k) := by
  rw [execSfwait_body hp hr hq hno hout tr]
  refine issue_waits hp ?_
  rw [if_neg (Region.not_busy hmine), if_pos h2]

theorem execSfwait_answers (h2 : r.state ≠ 2) (htr : tr = true → r.state ≠ 4 ∧ r.state ≠ 5) : exec (.sfwait d a tr) s =
    .next (ended .v (((s.sfClaim k).countMe 31 1).putG d (BitVec.ofNat 64 (sfStatus r.state)))) := by
  have h4 : ¬ (tr && r.state == 4) = true := by
    rw [Bool.and_eq_true, beq_iff_eq]
    exact fun h => (htr h.1).1 h.2
  have h5 : ¬ (tr && r.state == 5) = true := by
    rw [Bool.and_eq_true, beq_iff_eq]
    exact fun h => (htr h.1).2 h.2
  rw [execSfwait_body hp hr hq hno hout tr]
  refine issue_ends hp ?_
  rw [if_neg (Region.not_busy hmine), if_neg h2, if_neg h4, if_neg h5]
  rfl

theorem execSfwait_raises (htr : tr = true) (hst : r.state = 4 ∨ r.state = 5) : ∃ t, exec (.sfwait d a tr) s = .next t ∧
    ∃ p : Packet, t.me = { (s.sfClaim k).me with st := .frozen, pkt := p } ∧
      p.fcode = (if r.state = 4 then 0x0A else 0x0B) ∧ p.faddr = (s.me.greg a.reg).val := by
  have h2 : r.state ≠ 2 := by omega
  have hg : (s.sfClaim k).g a.reg = (s.me.greg a.reg).val := by
    unfold State.g
    rw [State.me_sfClaim]
  have hcode : exec (.sfwait d a tr) s = .next ((((s.sfClaim k).uncount s).raise s.cur (if r.state = 4 then 0x0A else 0x0B)
      (s.me.greg a.reg).val)) := by
    rw [execSfwait_body hp hr hq hno hout tr]
    refine issue_traps hp ?_
    rw [if_neg (Region.not_busy hmine), if_neg h2, hg, htr]
    rcases hst with h | h <;> rw [h] <;> rfl
  have htask : taHnd ((s.sfClaim k).uncount s).cur = false := by
    rw [State.uncount_cur, State.cur_sfClaim]
    exact hr.task
  have hme := State.me_raiseAs htask (if r.state = 4 then 0x0A else 0x0B) (s.me.greg a.reg).val false false
  rw [State.uncount_cur, State.cur_sfClaim] at hme
  exact ⟨_, hcode, _, hme, rfl, rfl⟩

end

end

/-! ## Acceptance (R293, R302) -/

section
variable {s : State} {d : Reg} {a b : Src} (hp : Solo s)
include hp

theorem execSfacpt_replied (hsent : s.me.barSent = true) (hout : s.sfOut s.me.uid = false) :
    exec (.sfacpt d a b) s = .next (ended .v s) := by
  show execSfacpt d a b s = _
  refine issue_ends hp ?_
  rw [if_pos hsent, hout]
  rfl

theorem execSfacpt_waits (hsent : s.me.barSent = true) (hout : s.sfOut s.me.uid = true) : exec (.sfacpt d a b) s = .next s := by
  show execSfacpt d a b s = _
  refine issue_waits hp ?_
  rw [if_pos hsent, hout]
  rfl

end

/-- The vector that SFACPT takes: unused integrators' elements as +0 (R281, R293). -/
def Region.accepted (r : Region) (bs : List Byte) : List Word :=
  (List.range r.n).map fun j => if imgUsed r.image j then BitVec.ofNat 64 (imgField bs (8 * j) 8) else 0

/-- The state in which SFACPT has sent: refused, or with its vector in the history (R293, R302). -/
def State.accepting (u : State) (d : Reg) (k uid : Nat) (r : Region) (ps : List (Place × Nat)) : State :=
  if r.busy uid then u.sfAnswer d 5 false none
  else if r.state = 0 then (u.sfClaim k).sfAnswer d 6 false none
  else (u.sfClaim k).sfOperand d ps fun s bs =>
    (s.modRegion k fun q => { q with hist := r.accepted bs :: q.hist.take 1 }).sfAnswer d 0 false none

theorem execSfacpt_sends {s : State} {d : Reg} {a b : Src} {k : Nat} {r : Region} {u : State} {ps : List (Place × Nat)}
    (hp : Solo s) (hb : Full s b.reg) (hr : SfReady s a d k r) (hsent : s.me.barSent = false)
    (hps : s.sfPlaces (s.me.greg b.reg).val (8 * r.n) 8 false = .ok u ps) (hme : u.me = s.me) (hq : Quiet u) (hno : NoAmo u)
    (hout : u.sfOut s.me.uid = false) : exec (.sfacpt d a b) s =
      .next ((u.accepting d k s.me.uid r ps).modMe fun sl => { sl with barSent := true }) := by
  obtain ⟨hv, hrq⟩ := hq
  have hk : regionKey u.me.ctx (u.g a.reg).toNat = k := (regionKey_g hme a.reg).trans hr.named.2.1.symm
  show execSfacpt d a b s = _
  refine issue_waits hp ?_
  rw [if_neg (by rw [hsent]; exact Bool.false_ne_true), State.examine_ok (fullAll_two hr.src hb), Res.bind_ok,
    State.freeG_ok hr.dst, Res.bind_ok, State.sfRegion_ok hr, Res.bind_ok,
    show s.sfPlaces (s.g b.reg) (8 * r.n) 8 false = .ok u ps from hps, Res.bind_ok, State.waitRpq_ok hv hrq, Res.bind_ok, State.waitAmo_ok hno, Res.bind_ok, await_ok (by rw [hme, hout]; rfl), Res.bind_ok]
  dsimp only
  rw [hk, hme]
  unfold State.accepting
  split
  · rfl
  · split <;> rfl

section
variable {u : State} {d : Reg} {k uid : Nat} {r : Region} {ps : List (Place × Nat)}

theorem State.accepting_held (h : r.claim.uid ≠ 0) (hne : r.claim.uid ≠ uid) :
    u.accepting d k uid r ps = answered u d 5 false none := if_pos ((r.busy_iff _).2 ⟨h, hne⟩)

variable (hb : ¬ r.busy uid = true)
include hb

theorem State.accepting_idle (h0 : r.state = 0) : u.accepting d k uid r ps = answered (u.sfClaim k) d 6 false none := by
  unfold State.accepting
  rw [if_neg hb, if_pos h0]
  rfl

theorem State.accepting_takes (h0 : r.state ≠ 0) : u.accepting d k uid r ps = (u.sfClaim k).sfOperand d ps fun s bs =>
    (s.modRegion k fun q => { q with hist := r.accepted bs :: q.hist.take 1 }).sfAnswer d 0 false none := by
  unfold State.accepting
  rw [if_neg hb, if_neg h0]

end

/-- The second part of O37. -/
theorem settleRuns : SettleRuns := by
  unfold SettleRuns
  refine fun s d a => ⟨execSfrun_does, execSfhalt_does, execSfrel_does, fun b c hl => execSfdln_does hl,
    fun b fp32 hb => execSfsmp_does hb fp32, fun k r hp hr hq hno => ⟨execSfstat_ends hp hr hq hno, fun hout tr =>
      ⟨execSfwait_held hp hr hq hno hout tr, fun hmine => ⟨execSfwait_runs hp hr hq hno hout tr hmine,
        execSfwait_answers hp hr hq hno hout tr hmine, execSfwait_raises hp hr hq hno hout tr hmine⟩⟩⟩,
    fun b hp hsent => ⟨execSfacpt_replied hp hsent, execSfacpt_waits hp hsent⟩,
    fun b k r u ps hp hb hr hsent hps hme _ hq hno hout =>
      ⟨_, execSfacpt_sends hp hb hr hsent hps hme hq hno hout, State.accepting_held, fun hmine x hx => ?_⟩⟩
  subst hx
  have hb : ¬ r.busy s.me.uid = true := Region.not_busy hmine
  refine ⟨State.accepting_idle hb, fun h0 => ?_, fun h0 y bs hread => ?_⟩
  · rw [State.accepting_takes hb h0]
    exact sfPoison_operand d _
  · rw [State.accepting_takes hb h0, State.sfOperand_reads d _ hread]
    rfl

/-- Settles O37: what the functions with a reply share once, then the effect of each, and SFSTAT, SFWAIT and SFACPT by themselves. -/
theorem settleInstructions : Obligations.SettleInstructions := ⟨settleConfiguration, settleRuns⟩

end Sys2Proof.Machine
end
